-- ==== Sys2Proof/Word.lean ====
section
/-!
DEFINITION. The value types of the ZD8: 64-bit operand words, 32-bit instruction words and lanes, bytes.
-/

set_option Elab.async false

namespace Sys2Proof

/-- A 64-bit operand or register value (R119). -/
abbrev Word := BitVec 64

/-- A 32-bit instruction word, lane or record field (R117, R230). -/
abbrev Word32 := BitVec 32

/-- The smallest addressable unit of leaf SRAM and of device memory. -/
abbrev Byte := BitVec 8

end Sys2Proof
end

