-- ==== Sys2Proof/Config.lean ====
section
/-!
DEFINITION. What the part fixes (sizes and limits of the manual) and the free values: constants without a body
that stand for what the manual leaves open. Nothing can evaluate a free value or prove one of it.
-/

namespace Sys2Proof.Config

/-- Leaves per package: 256 columns by 256 rows (R1). -/
def leafCount : Nat := 65536
/-- Quires per package: 64 by 64 (R1). -/
def quireCount : Nat := 4096
/-- Tags of one context's window (R21, R59). -/
def tagCount : Nat := 1024
/-- Bytes of leaf SRAM (R73). -/
def leafBytes : Nat := 0x40000
/-- Bytes of a control core's local memory (R350). -/
def localBytes : Nat := 0x80000
/-- Records of the device log (R360). -/
def logSize : Nat := 4096
/-- Entries of the ready pool, and those kept for successors and saved gatherings (R61). -/
def poolSize : Nat := 8192
def poolKept : Nat := 1024
/-- Spawn backlog entries of a context (R62). -/
def backlogSize : Nat := 4096
/-- SPAWNs that one gathering may queue in a round (R62). -/
def spawnLimit : Nat := 64
/-- Frames that the request port holds for a context or a parked port (R60, R69). -/
def frameQueue : Nat := 64
/-- Round-buffer bytes of one memory port (R17). -/
def portBuffer : Nat := 0x80000
/-- Old lines that one 4 KiB journal unit holds (R38). -/
def journalUnit : Nat := 62
/-- Backed bytes of one stack window (R278). -/
def stackBacked : Nat := 64000000000
/-- Commands that a matrix-cell queue holds (R221). -/
def mxQueue : Nat := 16
/-- Flags of one channel that may be outstanding (R331). -/
def flagLimit : Nat := 16

/-- FREE VALUE: how many cycles a folio's clock advances between two readings of it (R349; the manual gives no
time base and no bound on delays, R444). Read at tick `t` of the model's own counter. -/
opaque cycleStep : Nat → Nat

/-- FREE VALUE: byte `o` of the round base's `VPSTATE` field, drawn at tick `t`: "content not specified" (R35, R450). -/
opaque vpStateByte : Nat → Nat → Byte

/-- FREE VALUE: byte `o` of the `STATE` field of a flow-unit area of the round base: "its content is not specified" (R247). -/
opaque flowStateByte : Nat → Nat → Byte

/-- FREE VALUE: what the DISCARD byte at an address holds after the commit at tick `t`, which leaves it "undefined to
the program" (R81). -/
opaque discardByte : Nat → Nat → Byte

/-- FREE VALUE: an old mass that an addition without a reader hold leaves on a moved slot (R319). -/
opaque movedMass : Nat → Word32

/-- FREE VALUE: the syndrome that a corrected or uncorrectable channel error reports; the manual gives no code (R394). -/
opaque channelSyndrome : Nat → Word32

/-- FREE VALUE: which of several events that no rule orders comes about next. -/
opaque choice : Nat → Nat

/-- FREE VALUE: which entry of a TLB or walk cache a new one replaces at tick `t`, if any; replacement "affects timing only" (R276). -/
opaque replaced : Nat → Nat

/-- FREE VALUE: which of the 32 walkers of a folio makes a walk at tick `t` (R277). -/
opaque walkerOf : Nat → Nat

/-- FREE VALUE: whether the Spine has signalled a gathering that waits in `WFI`, at tick `t`; the manual does not say what makes
it signal (R171). -/
opaque spineSignal : Nat → Bool

/-- FREE VALUES: busy and idle cycles of quire i of a placement in the round that commits at tick `t` (R72; the manual
gives no cycle counts, R444). -/
opaque occBusy : Nat → Nat → Nat
opaque occIdle : Nat → Nat → Nat

/-- FREE VALUE: the sectors and bytes of a sequence that a folio reset interrupts: "undefined" (R415). -/
opaque tornByte : Nat → Nat → Byte

/-- FREE VALUE: whether line `i` of an endpaper area belongs to its control area, whose place in the area the manual does not
give (R408). -/
opaque controlLine : Nat → Bool

/-- FREE VALUE: the leaf, by its index in the gathering, and the 64 B line of it that line `i` of an endpaper area keeps; the manual
gives the area no layout (R408). -/
opaque paperPlace : Nat → Nat × Nat

/-- FREE VALUE: the Flezal port (modulo 16) toward which the routing table leads a packet to a package at tick `t`; firmware sets
and rewrites the table, and the manual gives it no register (R320, R416). -/
opaque routeOf : Nat → Nat → Nat

/-- FREE VALUE: whether a Flezal port writes a record of a successful retry at tick `t`: at most one per millisecond (R416, R444). -/
opaque retryReport : Nat → Bool

/-- FREE VALUE: whether a mesh router writes a record of a successful retry at tick `t`: at most one per 2^20 cycles (R390, R444). -/
opaque meshReport : Nat → Bool

/-- FREE VALUES: the device identity that the colophon holds, and the SHA-256 of its public key: this part's own (R352). -/
opaque deviceIdentity : List Byte
opaque identityHash : List Byte

/-- FREE VALUE: the attestation report over the measurements and the map of quires, signed with the device identity key (R351); its form
and the key are not given. -/
opaque attestation : List (List Byte) → List Nat → List Byte

/-- FREE VALUE: byte of a BAR0 register that the manual does not place (R335), as read at tick `t`. -/
opaque barByte : Nat → Nat → Byte

end Sys2Proof.Config
end

