-- ==== Sys2Proof/Syntax.lean ====
section
/-!
DEFINITION. The steps of the ZD8 as terms: the Lenwick instructions with their decoded fields, and the events.
-/

namespace Sys2Proof

/-! ### Shared field codes (R130) -/

/-- Integer width, `FN`[6:5] (R130). -/
inductive IntWidth where
  | w64 | w32 | w16 | w8
deriving DecidableEq, Repr, Inhabited

/-- Float format, `FN`[6:5] (R130); code 11 is reserved. -/
inductive FloatFmt where
  | f32 | bf16 | f16
deriving DecidableEq, Repr, Inhabited

/-- The two formats of `QCVT`, `QDEQ` and of the amax of `QSCALE` (R163). -/
inductive QFmt where
  | f32 | bf16
deriving DecidableEq, Repr, Inhabited

/-- Data format, 4 bits (R130). -/
inductive DataFmt where
  | f32 | bf16 | f16 | e4m3 | e5m2 | e3m2 | e2m3 | e2m1
  | s8 | z8 | s16 | z16 | s32 | z32 | s64 | z64
deriving DecidableEq, Repr, Inhabited

/-- Element format, 3 bits (R130); 101 to 111 are reserved. -/
inductive ElemFmt where
  | e4m3 | e5m2 | e3m2 | e2m3 | e2m1
deriving DecidableEq, Repr, Inhabited

/-- Rounding field (R97); code 111 is reserved. -/
inductive Rm where
  | rne | rtz | rdn | rup | rna | sr | dyn
deriving DecidableEq, Repr, Inhabited

/-- Access width, `FN`[2:0] (R130); 111 is reserved. -/
inductive AccWidth where
  | z8 | s8 | z16 | s16 | z32 | s32 | w64
deriving DecidableEq, Repr, Inhabited

/-- Access width of `CASL` and `CASG` (R181). -/
inductive CasWidth where
  | z32 | s32 | w64
deriving DecidableEq, Repr, Inhabited

/-- Order, `FN`[4:3] (R130). -/
inductive Order where
  | rlx | acq | rel | ar
deriving DecidableEq, Repr, Inhabited

/-- Scope, `FN`[6:5] (R130, R290). -/
inductive Scope where
  | leaf | gathering | device | system
deriving DecidableEq, Repr, Inhabited

/-- Integer comparison (R130), 000 to 101. -/
inductive ICmp where
  | eq | ne | lt | le | gt | ge
deriving DecidableEq, Repr, Inhabited

/-- Float comparison (R130, R159), 000 to 110. -/
inductive FCmp where
  | eq | ne | lt | le | gt | ge | un
deriving DecidableEq, Repr, Inhabited

/-- Branch condition (R128). -/
inductive Cond where
  | always | nz | z | ltz | gez
deriving DecidableEq, Repr, Inhabited

/-- Condition of `WAITA` (R184). -/
inductive WaitCond where
  | eq | ne | geu | ltu
deriving DecidableEq, Repr, Inhabited

/-- A flow unit of a leaf (R11). -/
inductive FUnit where
  | f0 | f1
deriving DecidableEq, Repr, Inhabited

/-- Token kinds that `SPUSH` sends (R264). -/
inductive PushKind where
  | data | stop | done | empty | turn
deriving DecidableEq, Repr, Inhabited

/-- A stream port of a leaf, as `SCTL` and `RTSET` name it: I0–I7 as 0–7, O0–O7 as 8–15 (R241). -/
inductive StreamPort where
  | inp (p : Fin 8)
  | out (p : Fin 8)
deriving DecidableEq, Repr, Inhabited

/-- Which operand of a slot a target names (R118). -/
inductive OpndKind where
  | l | r | t
deriving DecidableEq, Repr, Inhabited

/-- A decoded target field (R118); the reserved codes have no term. -/
inductive Target where
  | none
  | reg (g : Fin 64)
  | port (p : Fin 8)
  | opnd (k : OpndKind) (slot : Fin 64)
deriving DecidableEq, Repr, Inhabited

/-! ### Operands of the events -/

/-- A strand of a leaf (leaf number 256·y + x, R100) or a control core's own strand (R165). -/
inductive CoreId where
  | strand (leaf : Nat) (idx : Fin 4)
  | control (core : Fin 16)
deriving DecidableEq, Repr, Inhabited

/-- Packet kinds of Flezal (R321). DESIGN CHOICE (log 133): no packet of a reserved kind, 8 to 15, arrives. -/
inductive PacketKind where
  | put | push | ratom | rload | rdata | flag | flagdone | resend
deriving DecidableEq, Repr, Inhabited

/-- A Flezal packet: the header fields of R321 and its payload. `aux` holds `AUXH` and `AUX` together. -/
structure Packet where
  kind  : PacketKind
  ctx   : BitVec 4
  src   : Byte
  dst   : Byte
  chan  : Byte
  num   : Word32
  daddr : BitVec 40
  len   : BitVec 6
  opw   : BitVec 3
  aux   : BitVec 15
  data  : List Byte
deriving DecidableEq, Repr, Inhabited

/-- Where a launch comes from (R53); spawned instances enter by SPAWN_BACKLOG_ADMIT. -/
inductive LaunchSource where
  | ring (ctx : Fin 16)
  | firmware
  | frame (ctx : Fin 16)
deriving DecidableEq, Repr, Inhabited

/-- A UDP datagram as the request port takes it (R337): sender, destination UDP port, what the port's own checks
found, the UDP payload, the Ethernet port that it came in by, and the length of its frame on the link. -/
structure Frame where
  peer       : Nat
  udpPort    : Nat
  fragmented : Bool
  sumOk      : Bool
  payload    : List Byte
  port       : Fin 2 := 0
  size       : Nat := 0
deriving DecidableEq, Repr, Inhabited

/-- What a router or leaf found in error (R390). -/
inductive MeshItem where
  | flit (owner : Nat) | credit (owner : Nat) | slotWord (slot : Fin 64)
deriving DecidableEq, Repr, Inhabited

/-- What a read of a stored line found (R402). -/
inductive EccResult where
  | clean | corrected | uncorrectable
deriving DecidableEq, Repr, Inhabited

/-- The outcome of the ROM's checks and of firmware start (R351, R438): the firmware image that it reads, and what starting it puts in
the local memories. -/
inductive BootResult where
  | started (image : List Byte) (firmware : List (Nat × Byte)) | badSignature | badKeyHash | extendFailed
deriving DecidableEq, Repr, Inhabited

/-- Governor and rail events (R435). -/
inductive GovernorLimit where
  | delayed (folio : Fin 8)
  | overrun (rail : Nat)
deriving DecidableEq, Repr, Inhabited

/-- Crossings of a folio sensor (R435, R436). -/
inductive ThermalLevel where
  | hot (sensor : Nat) | critical (sensor : Nat) | cooled
deriving DecidableEq, Repr, Inhabited

/-- The attributes that the runtime sets when it loads a context (R21, R52, R418); `placed` are the placements of the image that it loads
with it, as quire rectangles (origin, width, height; R347, log 114). -/
structure ContextAttrs where
  root       : BitVec 40 := 0
  cls        : Fin 4 := 2
  weight     : Byte := 16
  swapWait   : Nat := 50
  tolerance  : Nat := 2000
  channels   : Nat := 0
  allotment  : Nat := 65536
  det        : Bool := false
  graphBase  : Nat := 0
  argBase    : Nat := 0
  cap        : Byte := 0
  udpPort    : Option Nat := none
  frameBase  : Nat := 0
  capBase    : Nat := 0
  capSize    : Nat := 0
  gapTimer   : Nat := 100
  flagTimer  : Nat := 1000
  endBase    : Nat := 0
  endCount   : Nat := 0
  endUnits   : Nat := 1
  seed       : Word := 0
  placed     : List (Nat × Nat × Nat × Nat) := []
deriving DecidableEq, Repr, Inhabited

/-- What the runtime writes when it allocates a channel end on this package (R322): a sender entry with its
context's channel-table entry, or a receiver entry. -/
inductive ChannelSpec where
  | sender (entry : Nat) (ctx : BitVec 4) (index : Byte) (dst : Byte) (isImplicit : Bool)
  | receiver (entry : Nat) (src : Byte) (ctx : BitVec 4) (index : Byte)
deriving DecidableEq, Repr, Inhabited


/-- The steps of the part: one constructor per row of the opcode table. The first 158 are the encoded Lenwick
instructions (R131), with their fields from the most significant down; the others are the events of the part, which
have no encoding ("What each step holds"), with the operands that say where the event comes about. -/
inductive Instr where
  /-- RD (R140): Reads general register G as held at block start and delivers it to TA and TB. -/
  | rd (g : Fin 64) (tb : Target) (ta : Target)
  /-- MOVI (R140): Delivers the sign-extended 16-bit immediate. -/
  | movi (ta : Target) (imm : BitVec 16)
  /-- MOVHI (R140): Delivers L shifted left 16 bits ORed with the immediate. -/
  | movhi (ta : Target) (imm : BitVec 16)
  /-- MOV (R140): Copies L to TA and TB. -/
  | mov (tb : Target) (ta : Target)
  /-- BR (R142): Conditionally branches to header address plus 4*OFF at commit. -/
  | br (cond : Cond) (off : BitVec 22)
  /-- CALL (R142): Conditionally branches and writes the link to G63 at commit. -/
  | call (cond : Cond) (off : BitVec 22)
  /-- BRR (R142): Branches to the address in L at commit. -/
  | brr
  /-- RND (R144): Ends the strand's round at commit and records its deadline. -/
  | rnd (deadline : BitVec 12)
  /-- EXIT (R143): Finishes the strand when its block commits. -/
  | exit
  /-- TDONE (R199): Finishes the strand and makes the current round the node's final round. -/
  | tdone
  /-- TRAP (R380): After commit stalls the strand and writes a STALLED record with its code. -/
  | trap (imm : BitVec 16)
  /-- BKPT (R380): After commit stalls the strand, writes a record and saves the gathering. -/
  | bkpt (imm : BitVec 16)
  /-- SYSRD (R146): Delivers the value of a system register as held at block start. -/
  | sysrd (ta : Target) (idx : BitVec 12)
  /-- SYSWR (R146): Writes L to a system register at the commit of its block. -/
  | syswr (idx : BitVec 12)
  /-- SPAWN (R198): Queues a child graph launch released at the round's commit. -/
  | spawn (tb : Target) (ta : Target)
  /-- NULL (R140): Delivers NULL to TA and TB. -/
  | null (tb : Target) (ta : Target)
  /-- ADD (R149): Integer add at the selected width, optionally saturating. -/
  | add (width : IntWidth) (sgn : Bool) (sat : Bool) (tb : Target) (ta : Target)
  /-- SUB (R149): Integer subtract at the selected width, optionally saturating. -/
  | sub (width : IntWidth) (sgn : Bool) (sat : Bool) (tb : Target) (ta : Target)
  /-- MUL (R149): Integer multiply at the selected width, optionally saturating. -/
  | mul (width : IntWidth) (sgn : Bool) (sat : Bool) (tb : Target) (ta : Target)
  /-- MULH (R149): Upper half of the 2n-bit integer product. -/
  | mulh (width : IntWidth) (sgn : Bool) (tb : Target) (ta : Target)
  /-- DIV (R149): Integer divide rounding toward zero, with fixed edge results. -/
  | div (width : IntWidth) (sgn : Bool) (tb : Target) (ta : Target)
  /-- REM (R149): Integer remainder with fixed edge results. -/
  | rem (width : IntWidth) (sgn : Bool) (tb : Target) (ta : Target)
  /-- AND (R149): Bitwise AND at the selected width. -/
  | and (width : IntWidth) (sgn : Bool) (tb : Target) (ta : Target)
  /-- OR (R149): Bitwise OR at the selected width. -/
  | or (width : IntWidth) (sgn : Bool) (tb : Target) (ta : Target)
  /-- XOR (R149): Bitwise XOR at the selected width. -/
  | xor (width : IntWidth) (sgn : Bool) (tb : Target) (ta : Target)
  /-- ANDN (R149): L AND NOT R at the selected width. -/
  | andn (width : IntWidth) (sgn : Bool) (tb : Target) (ta : Target)
  /-- SHL (R149): Shift left by R mod width. -/
  | shl (width : IntWidth) (sgn : Bool) (tb : Target) (ta : Target)
  /-- SHR (R149): Logical shift right by R mod width. -/
  | shr (width : IntWidth) (sgn : Bool) (tb : Target) (ta : Target)
  /-- SAR (R149): Arithmetic shift right by R mod width. -/
  | sar (width : IntWidth) (sgn : Bool) (tb : Target) (ta : Target)
  /-- ROT (R149): Rotate left within the width. -/
  | rot (width : IntWidth) (sgn : Bool) (tb : Target) (ta : Target)
  /-- MIN (R149): Lesser of L and R at the selected width and signedness. -/
  | min (width : IntWidth) (sgn : Bool) (tb : Target) (ta : Target)
  /-- MAX (R149): Greater of L and R at the selected width and signedness. -/
  | max (width : IntWidth) (sgn : Bool) (tb : Target) (ta : Target)
  /-- CMP (R150): Delivers 1 or 0 for an integer comparison of L and R. -/
  | cmp (width : IntWidth) (sgn : Bool) (cmp : ICmp) (tb : Target) (ta : Target)
  /-- SEL (R151): Delivers L if bit 0 of T is 1, else R. -/
  | sel (tb : Target) (ta : Target)
  /-- BITC_POPC (R152): Counts the 1 bits of L at the width. -/
  | bitcPopc (width : IntWidth) (tb : Target) (ta : Target)
  /-- BITC_CLZ (R152): Counts leading zero bits of L at the width. -/
  | bitcClz (width : IntWidth) (tb : Target) (ta : Target)
  /-- BITC_CTZ (R152): Counts trailing zero bits of L at the width. -/
  | bitcCtz (width : IntWidth) (tb : Target) (ta : Target)
  /-- BITC_BREV (R152): Reverses the bits of L within the width. -/
  | bitcBrev (width : IntWidth) (tb : Target) (ta : Target)
  /-- BITC_BSWAP (R152): Reverses the bytes of L within the width. -/
  | bitcBswap (width : IntWidth) (tb : Target) (ta : Target)
  /-- BFX (R153): Extracts a bit field of L, signed or unsigned. -/
  | bfx (ta : Target) (sgn : Bool) (lenM1 : BitVec 6) (lo : BitVec 6)
  /-- BFI (R153): Inserts R into a bit field of L described by T. -/
  | bfi (tb : Target) (ta : Target)
  /-- LEA (R154): Delivers L + (R << s). -/
  | lea (sh : BitVec 3) (tb : Target) (ta : Target)
  /-- ADDI (R154): Adds the sign-extended immediate to L. -/
  | addi (ta : Target) (imm : BitVec 16)
  /-- ANDI (R154): ANDs L with the sign-extended immediate. -/
  | andi (ta : Target) (imm : BitVec 16)
  /-- ORI (R154): ORs L with the zero-extended immediate. -/
  | ori (ta : Target) (imm : BitVec 16)
  /-- XORI (R154): XORs L with the zero-extended immediate. -/
  | xori (ta : Target) (imm : BitVec 16)
  /-- SHFI_SHL (R154): Shifts L left by an immediate count at width 64. -/
  | shfiShl (ta : Target) (cnt : BitVec 6)
  /-- SHFI_SHR (R154): Shifts L right logically by an immediate count. -/
  | shfiShr (ta : Target) (cnt : BitVec 6)
  /-- SHFI_SAR (R154): Shifts L right arithmetically by an immediate count. -/
  | shfiSar (ta : Target) (cnt : BitVec 6)
  /-- SHFI_ROT (R154): Rotates L left by an immediate count. -/
  | shfiRot (ta : Target) (cnt : BitVec 6)
  /-- CMPI (R150): Compares L with a 12-bit sign-extended immediate at 64 bits. -/
  | cmpi (ta : Target) (sgn : Bool) (cmp : ICmp) (imm : BitVec 12)
  /-- MULI (R154): Multiplies L by the sign-extended immediate. -/
  | muli (ta : Target) (imm : BitVec 16)
  /-- ADC (R155): Adds L, R and carry T, delivering sum and carry. -/
  | adc (width : IntWidth) (tb : Target) (ta : Target)
  /-- FADD (R157): Floating-point add per lane with one rounding. -/
  | fadd (fmt : FloatFmt) (rm : Rm) (pk : Bool) (sat : Bool) (tb : Target) (ta : Target)
  /-- FSUB (R157): Floating-point subtract per lane with one rounding. -/
  | fsub (fmt : FloatFmt) (rm : Rm) (pk : Bool) (sat : Bool) (tb : Target) (ta : Target)
  /-- FMUL (R157): Floating-point multiply per lane with one rounding. -/
  | fmul (fmt : FloatFmt) (rm : Rm) (pk : Bool) (sat : Bool) (tb : Target) (ta : Target)
  /-- FMA (R157): Fused L*R+T per lane with one rounding. -/
  | fma (fmt : FloatFmt) (rm : Rm) (pk : Bool) (sat : Bool) (tb : Target) (ta : Target)
  /-- FMIN (R158): Lesser floating-point source per lane under the NaN rule. -/
  | fmin (fmt : FloatFmt) (pk : Bool) (prop : Bool) (tb : Target) (ta : Target)
  /-- FMAX (R158): Greater floating-point source per lane under the NaN rule. -/
  | fmax (fmt : FloatFmt) (pk : Bool) (prop : Bool) (tb : Target) (ta : Target)
  /-- FCMP (R159): Delivers 1 or 0 for a floating-point comparison. -/
  | fcmp (fmt : FloatFmt) (cmp : FCmp) (tb : Target) (ta : Target)
  /-- FCVT (R160): Converts L between data formats with rounding and saturation. -/
  | fcvt (ta : Target) (sat : Bool) (rm : Rm) (dst : DataFmt) (src : DataFmt)
  /-- FSFU_RCP (R161): Correctly rounded F32 reciprocal. -/
  | fsfuRcp (ta : Target)
  /-- FSFU_RSQ (R161): Correctly rounded F32 reciprocal square root. -/
  | fsfuRsq (ta : Target)
  /-- FSFU_SQRT (R161): Correctly rounded F32 square root. -/
  | fsfuSqrt (ta : Target)
  /-- FSFU_EXP2 (R161): Correctly rounded F32 power of two. -/
  | fsfuExp2 (ta : Target)
  /-- FSFU_LOG2 (R161): Correctly rounded F32 base-2 logarithm. -/
  | fsfuLog2 (ta : Target)
  /-- FSFU_TANH (R161): Correctly rounded F32 hyperbolic tangent. -/
  | fsfuTanh (ta : Target)
  /-- FSFU_SIGM (R161): Correctly rounded F32 sigmoid. -/
  | fsfuSigm (ta : Target)
  /-- FSFU_SINP (R161): Correctly rounded F32 sin(pi x). -/
  | fsfuSinp (ta : Target)
  /-- FSFU_COSP (R161): Correctly rounded F32 cos(pi x). -/
  | fsfuCosp (ta : Target)
  /-- FCLASS (R162): Delivers the one-bit class mask of a floating-point code. -/
  | fclass (fmt : FloatFmt) (tb : Target) (ta : Target)
  /-- QSCALE (R163): Computes the E8M0 block scale from amax. -/
  | qscale (ta : Target) (amax : QFmt) (elem : ElemFmt)
  /-- QCVT (R163): Converts a value to an MX element code under a scale. -/
  | qcvt (fmt : QFmt) (rm : Rm) (sat : Bool) (tb : Target) (ta : Target)
  /-- QDEQ (R163): Dequantises an MX element code under a scale. -/
  | qdeq (fmt : QFmt) (rm : Rm) (sat : Bool) (tb : Target) (ta : Target)
  /-- FSGN_ABS (R164): Clears the sign bit of the code. -/
  | fsgnAbs (fmt : FloatFmt) (tb : Target) (ta : Target)
  /-- FSGN_NEG (R164): Inverts the sign bit of the code. -/
  | fsgnNeg (fmt : FloatFmt) (tb : Target) (ta : Target)
  /-- FSGN_COPYSIGN (R164): Replaces the sign bit with that of R. -/
  | fsgnCopysign (fmt : FloatFmt) (tb : Target) (ta : Target)
  /-- LDL (R177): Loads from leaf SRAM and delivers value and token. -/
  | ldl (scope : Scope) (acq : Bool) (width : AccWidth) (tb : Target) (ta : Target)
  /-- STL (R177): Stores to leaf SRAM, journaled in a revocable round. -/
  | stl (scope : Scope) (rel : Bool) (width : AccWidth) (tb : Target) (ta : Target)
  /-- LDG (R178): Loads from device memory through the round buffer or remotely. -/
  | ldg (scope : Scope) (acq : Bool) (width : AccWidth) (tb : Target) (ta : Target)
  /-- STG (R177): Stores to device memory, staged in a revocable round. -/
  | stg (scope : Scope) (rel : Bool) (width : AccWidth) (tb : Target) (ta : Target)
  /-- ATOML_ADD (R180): Leaf atomic wrapping add. -/
  | atomlAdd (scope : Scope) (ord : Order) (tb : Target) (ta : Target)
  /-- ATOML_AND (R180): Leaf atomic AND. -/
  | atomlAnd (scope : Scope) (ord : Order) (tb : Target) (ta : Target)
  /-- ATOML_OR (R180): Leaf atomic OR. -/
  | atomlOr (scope : Scope) (ord : Order) (tb : Target) (ta : Target)
  /-- ATOML_XOR (R180): Leaf atomic XOR. -/
  | atomlXor (scope : Scope) (ord : Order) (tb : Target) (ta : Target)
  /-- ATOML_XCHG (R180): Leaf atomic exchange. -/
  | atomlXchg (scope : Scope) (ord : Order) (tb : Target) (ta : Target)
  /-- ATOML_SMIN (R180): Leaf atomic signed minimum. -/
  | atomlSmin (scope : Scope) (ord : Order) (tb : Target) (ta : Target)
  /-- ATOML_SMAX (R180): Leaf atomic signed maximum. -/
  | atomlSmax (scope : Scope) (ord : Order) (tb : Target) (ta : Target)
  /-- ATOML_FADD (R180): Leaf atomic F32 add under RNE, no flags. -/
  | atomlFadd (scope : Scope) (ord : Order) (tb : Target) (ta : Target)
  /-- ATOMG_ADD (R180): Device atomic wrapping add at the port's atomic unit; irrevocable. -/
  | atomgAdd (scope : Scope) (ord : Order) (tb : Target) (ta : Target)
  /-- ATOMG_AND (R180): Device atomic AND; irrevocable. -/
  | atomgAnd (scope : Scope) (ord : Order) (tb : Target) (ta : Target)
  /-- ATOMG_OR (R180): Device atomic OR; irrevocable. -/
  | atomgOr (scope : Scope) (ord : Order) (tb : Target) (ta : Target)
  /-- ATOMG_XOR (R180): Device atomic XOR; irrevocable. -/
  | atomgXor (scope : Scope) (ord : Order) (tb : Target) (ta : Target)
  /-- ATOMG_XCHG (R180): Device atomic exchange; irrevocable. -/
  | atomgXchg (scope : Scope) (ord : Order) (tb : Target) (ta : Target)
  /-- ATOMG_SMIN (R180): Device atomic signed minimum; irrevocable. -/
  | atomgSmin (scope : Scope) (ord : Order) (tb : Target) (ta : Target)
  /-- ATOMG_SMAX (R180): Device atomic signed maximum; irrevocable. -/
  | atomgSmax (scope : Scope) (ord : Order) (tb : Target) (ta : Target)
  /-- ATOMG_FADD (R180): Device atomic F32 add; irrevocable. -/
  | atomgFadd (scope : Scope) (ord : Order) (tb : Target) (ta : Target)
  /-- CASL (R181): Leaf compare-and-swap of 4 or 8 bytes. -/
  | casl (scope : Scope) (ord : Order) (width : CasWidth) (tb : Target) (ta : Target)
  /-- CASG (R181): Device compare-and-swap; always irrevocable. -/
  | casg (scope : Scope) (ord : Order) (width : CasWidth) (tb : Target) (ta : Target)
  /-- FENCE_ACQ (R183): Acquire fence: later accesses wait for earlier loads' values. -/
  | fenceAcq (ta : Target) (xp : Bool) (scope : Scope)
  /-- FENCE_REL (R183): Release fence; irrevocable at DEVICE or SYSTEM scope. -/
  | fenceRel (ta : Target) (xp : Bool) (scope : Scope)
  /-- FENCE_AR (R183): Acquire-release fence. -/
  | fenceAr (ta : Target) (xp : Bool) (scope : Scope)
  /-- FENCE_XP (R183): Cross-path fence making later engine reads see staged stores. -/
  | fenceXp (ta : Target) (scope : Scope)
  /-- WAITA_LEAF (R185): Waits in-block on a leaf address until the condition holds. -/
  | waitaLeaf (cond : WaitCond) (width : AccWidth) (tb : Target) (ta : Target)
  /-- WAITA_ROUND (R185): Leaf wait that ends the round and sleeps on failure. -/
  | waitaRound (cond : WaitCond) (width : AccWidth) (tb : Target) (ta : Target)
  /-- WAITA_DEV (R185): Irrevocable device-address wait at DEVICE scope that sleeps on failure. -/
  | waitaDev (cond : WaitCond) (width : AccWidth) (tb : Target) (ta : Target)
  /-- WAITA_SYS (R185): Irrevocable device-address wait at SYSTEM scope that sleeps on failure. -/
  | waitaSys (cond : WaitCond) (width : AccWidth) (tb : Target) (ta : Target)
  /-- MBAR_INIT (R188): Initialises a transaction barrier object. -/
  | mbarInit (tb : Target) (ta : Target)
  /-- MBAR_ARRIVE (R188): Subtracts arrivals and settles the phase. -/
  | mbarArrive (tb : Target) (ta : Target)
  /-- MBAR_EXPECT (R188): Adds expected transaction bytes and settles the phase. -/
  | mbarExpect (tb : Target) (ta : Target)
  /-- MBAR_TEST (R188): Delivers whether phase p has completed. -/
  | mbarTest (tb : Target) (ta : Target)
  /-- MBAR_WAIT (R188): Waits until phase p completes. -/
  | mbarWait (tb : Target) (ta : Target)
  /-- CP_LD (R191): Mover copy from device memory to the issuing leaf. -/
  | cpLd (tb : Target) (ta : Target)
  /-- CP_ST (R191): Mover copy from the issuing leaf to device memory, staged. -/
  | cpSt (tb : Target) (ta : Target)
  /-- CP_SEND (R192): Copy from the leaf to another leaf, gathering or package. -/
  | cpSend (tb : Target) (ta : Target)
  /-- CP_MC (R193): Multicast copy from device memory to every leaf of a group. -/
  | cpMc (tb : Target) (ta : Target)
  /-- CP_FIB (R195): Refills a coordinate ring with one compressed fibre. -/
  | cpFib (tb : Target) (ta : Target)
  /-- FLAG (R331): Issues a counted release flag on a Flezal channel; irrevocable. -/
  | flag (tb : Target) (ta : Target)
  /-- KVOP_MASS (R313): Submits 64 F32 mass additions to a page's metadata. -/
  | kvopMass (tb : Target) (ta : Target)
  /-- KVOP_EVICT (R315): Sends an eviction request to the KV eviction engine; irrevocable. -/
  | kvopEvict (tb : Target) (ta : Target)
  /-- KVOP_STAT (R318): Reads a sequence's gate word with acquire. -/
  | kvopStat (tb : Target) (ta : Target)
  /-- FLCFG (R246): Loads a flow-unit configuration record into a stopped unit. -/
  | flcfg (u : FUnit) (tb : Target) (ta : Target)
  /-- FLGO (R246): Starts a configured stopped flow unit. -/
  | flgo (u : FUnit) (tb : Target) (ta : Target)
  /-- FLSTAT (R246): Delivers a flow unit's status word. -/
  | flstat (u : FUnit) (tb : Target) (ta : Target)
  /-- FLSTOP (R246): Stops a flow unit at its next token boundary. -/
  | flstop (u : FUnit) (tb : Target) (ta : Target)
  /-- SPUSH (R264): Sends one token from the block core on an output port. -/
  | spush (kind : PushKind) (port : Fin 8) (tb : Target) (ta : Target)
  /-- SPOP (R265): Takes the head token of an input port into leaf SRAM. -/
  | spop (nb : Bool) (port : Fin 8) (tb : Target) (ta : Target)
  /-- SCTL_STATUS (R266): Delivers a stream port's status word. -/
  | sctlStatus (port : StreamPort) (tb : Target) (ta : Target)
  /-- SCTL_DRAIN (R266): Discards tokens of an input port and returns their credits. -/
  | sctlDrain (port : StreamPort) (tb : Target) (ta : Target)
  /-- SCTL_RESET (R266): Resets an input port or waits until an output port is quiet. -/
  | sctlReset (port : StreamPort) (tb : Target) (ta : Target)
  /-- SBAR (R267): Completes when named ports' tokens are removed or finished. -/
  | sbar (tb : Target) (ta : Target)
  /-- RTSET (R241): Writes a route word when the port is quiet. -/
  | rtset (port : StreamPort) (tb : Target) (ta : Target)
  /-- KETTLE (R196): Arrives at a gathering barrier instance. -/
  | kettle (tb : Target) (ta : Target)
  /-- VPCFG (R214): Loads a vector-pipeline record into a stopped VP. -/
  | vpcfg (tb : Target) (ta : Target)
  /-- VPGO (R214): Latches FPMODE and starts a configured VP. -/
  | vpgo (tb : Target) (ta : Target)
  /-- VPSTAT (R215): Delivers the VP status word. -/
  | vpstat (tb : Target) (ta : Target)
  /-- VPCONST (R216): Replaces the constant of one VP stage. -/
  | vpconst (stage : Fin 6) (tb : Target) (ta : Target)
  /-- TLD_LA (R218): Loads 4 KiB from leaf SRAM into verso. -/
  | tldLa (tb : Target) (ta : Target)
  /-- TLD_DEV (R218): Loads 4 KiB from device memory into verso. -/
  | tldDev (tb : Target) (ta : Target)
  /-- TTURN (R219): Requests the recto-verso swap of the leaf's tiles. -/
  | tturn (tb : Target) (ta : Target)
  /-- TTURN_EMIT (R219): Requests the swap and emits a TURN token at the swap. -/
  | tturnEmit (port : Fin 8) (tb : Target) (ta : Target)
  /-- TST_LA (R220): Copies recto to a leaf SRAM range. -/
  | tstLa (tb : Target) (ta : Target)
  /-- TST_DEV (R220): Copies recto to device memory, staged. -/
  | tstDev (tb : Target) (ta : Target)
  /-- MXCMD (R221): Enters a command into the quire's matrix-cell queue. -/
  | mxcmd (tb : Target) (ta : Target)
  /-- MXWAIT (R227): Waits for commands writing a tile and delivers its flag set. -/
  | mxwait (tb : Target) (ta : Target)
  /-- ACCOP_ZERO (R228): Writes +0 to an accumulator tile. -/
  | accopZero (tb : Target) (ta : Target)
  /-- ACCOP_COPY (R228): Copies an accumulator tile to a leaf SRAM range. -/
  | accopCopy (tb : Target) (ta : Target)
  /-- TLBINV_PAGE (R166): Removes translations of one context covering an address. -/
  | tlbinvPage (tb : Target) (ta : Target)
  /-- TLBINV_CTX (R166): Removes every TLB and walk-cache entry of a context. -/
  | tlbinvCtx (tb : Target) (ta : Target)
  /-- TLBINV_ALL (R166): Removes every TLB and walk-cache entry. -/
  | tlbinvAll (tb : Target) (ta : Target)
  /-- APSET (R168): Sets an aperture register from a record. -/
  | apset (tb : Target) (ta : Target)
  /-- CTXSV (R169): Saves the gathering holding a quire as for pre-emption. -/
  | ctxsv (tb : Target) (ta : Target)
  /-- IMGW (R170): Copies CRC-checked data into a quire's shadow configuration slot. -/
  | imgw (tb : Target) (ta : Target)
  /-- IMGCMT (R392): Commits every pending shadow configuration in two phases. -/
  | imgcmt (tb : Target) (ta : Target)
  /-- ERET (R171): Leaves handler mode and fetches the resume address. -/
  | eret
  /-- WFI (R171): Waits for an interrupt or a Spine signal. -/
  | wfi (tb : Target) (ta : Target)
  /-- PGSET (R167): Writes a PTE at DEVICE scope with release. -/
  | pgset (tb : Target) (ta : Target)
  /-- ELOGRD (R172): Moves up to 16 oldest records out of the device log. -/
  | elogrd (tb : Target) (ta : Target)
  /-- BLOCK_FETCH (R115): Completion of a strand's block fetch, followed by decode checks. -/
  | blockFetch (c : CoreId)
  /-- BLOCK_COMMIT (R30): Commits a block once all its outputs are produced. -/
  | blockCommit (c : CoreId)
  /-- DEADLINE_OVERRUN (R378): DLREM reaches 0 at a commit without RND or EXIT; raises 0x0130. -/
  | deadlineOverrun (c : CoreId)
  /-- NO_PROGRESS_WATCHDOG (R378): A block without progress for 16 cycles raises 0x0131. -/
  | noProgressWatchdog (c : CoreId)
  /-- FAULT_REPORT (R371): Round controller serves a strand's fault report against voids and grants. -/
  | faultReport (g : Nat)
  /-- IRREVOCABLE_GRANT (R42): Round controller grants irrevocability and staged stores are published. -/
  | irrevocableGrant (g : Nat)
  /-- ROUND_COMMIT (R34): Commits a round once every strand reached RND or finished. -/
  | roundCommit (g : Nat)
  /-- ROUND_VOID (R44): Voids a revocable round and restores the round base. -/
  | roundVoid (g : Nat)
  /-- COMMIT_WATCHDOG (R389): 2^20 cycles without a progress event raise 0x0220. -/
  | commitWatchdog (g : Nat)
  /-- VOID_LIMIT (R389): The 64th void of one round raises 0x0221. -/
  | voidLimit (g : Nat)
  /-- WAITA_WAKE (R185): A store to a watched line wakes a sleeping strand. -/
  | waitaWake (c : CoreId)
  /-- REMOTE_WATCH_REREAD (R447): Gap-timer interval re-read of a remote watched line, by an RLOAD under the tag given. -/
  | remoteWatchReread (c : CoreId) (tag : BitVec 12)
  /-- KETTLE_COMPLETE (R196): Completes a kettle instance and delivers every participant's token. -/
  | kettleComplete (g : Nat) (id : Fin 64)
  /-- SUBMISSION_DOORBELL (R336): Host write of SQTAIL makes new launch records admissible. -/
  | submissionDoorbell (ctx : Fin 16) (tail : Word32) (writes : List (Nat × Byte))
  /-- FWSQ_DOORBELL (R54): Control-core write of FWSQTAIL makes firmware ring records admissible. -/
  | fwsqDoorbell
  /-- CQHEAD_WRITE (R336): Host advance of CQHEAD lets held responses be written. -/
  | cqheadWrite (ctx : Fin 16) (head : Word32)
  /-- HOST_REGISTER_WRITE (R335): Host write of a BAR0 register with no row of its own. -/
  | hostRegisterWrite (off : Nat) (val : Word)
  /-- HOST_BAR2_ACCESS (R335): Host physical access to local HBM through BAR2. -/
  | hostBar2Access (off : Nat) (size : Nat) (data : Option (List Byte))
  /-- LAUNCH_ADMISSION (R53): Front end admits one launch record, checks it and takes a tag. -/
  | launchAdmission (src : LaunchSource)
  /-- REQUEST_FRAME (R338): An Ethernet UDP frame arrives at the request port. -/
  | requestFrame (f : Frame)
  /-- SPINE_DISPATCH (R63): One dispatch decision per Spine cycle over the ready pool. -/
  | spineDispatch
  /-- ENTRY_AGING (R51): A 4 ms wait promotes a ready entry one class. -/
  | entryAging (e : Nat)
  /-- SWAP_WAIT_EXPIRY (R47): A strand's wait passes the swap-wait threshold, enabling swap-out. -/
  | swapWaitExpiry (c : CoreId)
  /-- BIND (R65): Binds a FABRIC node or saved gathering to its placement. -/
  | bind (e : Nat)
  /-- CONTEXT_SAVE (R47): Context-save engine writes the endpaper and frees the quires. -/
  | contextSave (g : Nat)
  /-- COPY_NODE_RUN (R67): Mover reads a COPY request record and performs the copy. -/
  | copyNodeRun (e : Nat)
  /-- MOVER_LINE_LAND (R194): A copy line lands and updates the named MBAR. -/
  | moverLineLand (copy line : Nat)
  /-- NODE_RETIRE (R68): Retires a node and decrements its successors' predecessor counts. -/
  | nodeRetire (inst node : Nat)
  /-- RESPONSE_DELIVERY (R68): Delivers an instance's response and frees its tag in order. -/
  | responseDelivery (ctx : Fin 16)
  /-- SPAWN_BACKLOG_ADMIT (R62): Admits a spawn backlog entry into the pool when room allows. -/
  | spawnBacklogAdmit (ctx : Fin 16)
  /-- CONTEXT_UNLOAD (R413): Runtime unload or context end parks the port and ends instances. -/
  | contextUnload (ctx : Fin 16)
  /-- RANGE_EVICTION (R401): Spine evicts a declared range when free HBM falls below low water. -/
  | rangeEviction (stack : Fin 8)
  /-- TILE_SWAP (R219): Recto and verso swap when verso is full and readers are zero. -/
  | tileSwap (leaf : Nat)
  /-- MX_COMMAND_START (R225): A matrix-cell command starts reading recto tiles. -/
  | mxCommandStart (quire : Nat)
  /-- MX_COMMAND_COMPLETE (R224): A matrix command writes its C rows and updates the tile flags. -/
  | mxCommandComplete (quire : Nat)
  /-- VP_STEP (R206): Vector pipeline takes one token per enabled input and processes a step. -/
  | vpStep (leaf : Nat)
  /-- SCANNER_STEP (R249): Scanner handles one parent token and emits fibres. -/
  | scannerStep (leaf : Nat) (u : FUnit)
  /-- SCANNER_REFILL (R251): Compressed scanner's ring refill completes with its descriptor. -/
  | scannerRefill (leaf : Nat) (u : FUnit)
  /-- SKIP_RECEIVE (R252): Scanner takes a SKIP token and discards coordinates below it. -/
  | skipReceive (leaf : Nat) (u : FUnit)
  /-- ISECT_STEP (R253): Intersecter compares heads, emits matches and may send SKIP. -/
  | isectStep (leaf : Nat) (u : FUnit)
  /-- UNION_STEP (R253): Union unit merges heads and emits refs or NONE. -/
  | unionStep (leaf : Nat) (u : FUnit)
  /-- REPEAT_STEP (R255): Repeat unit emits an IN1 element per level-0 fibre of the shape. -/
  | repeatStep (leaf : Nat) (u : FUnit)
  /-- REDUCE_STEP (R256): Reduce unit sums valid lanes and appends at stops. -/
  | reduceStep (leaf : Nat) (u : FUnit)
  /-- SPACC_STEP (R257): Sparse accumulator merges coordinates and drains at higher stops. -/
  | spaccStep (leaf : Nat) (u : FUnit)
  /-- LWRITE_STEP (R258): Level writer writes crd, values and pos to device memory. -/
  | lwriteStep (leaf : Nat) (u : FUnit)
  /-- GATHER_STEP (R259): Gather reads values addressed by refs. -/
  | gatherStep (leaf : Nat) (u : FUnit)
  /-- SCATTER_STEP (R259): Scatter writes or adds values at ref addresses. -/
  | scatterStep (leaf : Nat) (u : FUnit)
  /-- FILTER_STEP (R261): Filter keeps lanes by predicate and may compact or drop. -/
  | filterStep (leaf : Nat) (u : FUnit)
  /-- COALESCE_STEP (R262): Coalesce packs valid lanes into full tokens. -/
  | coalesceStep (leaf : Nat) (u : FUnit)
  /-- AGEN_STEP (R263): Affine generator emits refs or loads or stores addresses. -/
  | agenStep (leaf : Nat) (u : FUnit)
  /-- TOKEN_DELIVERY (R14): A token lands in its receiver's reserved slot. -/
  | tokenDelivery (leaf : Nat) (port : Fin 8)
  /-- CREDIT_RETURN (R14): A credit reaches the sender and increments its free count. -/
  | creditReturn (leaf : Nat) (port : Fin 8)
  /-- MESH_FLIT_RETRY (R390): A flit or credit failing its hop check is resent or fails. -/
  | meshFlitRetry (leaf : Nat) (dir : Fin 4) (what : MeshItem) (recovered : Bool)
  /-- MESH_LINK_FAILURE (R390): 16 uncorrectable records within 2^20 cycles reset the folio. -/
  | meshLinkFailure (leaf : Nat) (dir : Fin 4)
  /-- TLB_LOOKUP (R275): A translation request is looked up at the owning TLB slice. -/
  | tlbLookup (req : Nat)
  /-- PAGE_WALK (R272): A walker translates a TLB miss through the five-level tables. -/
  | pageWalk (req : Nat)
  /-- MEMORY_PORT_SERVICE (R70): Memory port serves a request by class and weighted deficit round-robin. -/
  | memoryPortService (port : Fin 256)
  /-- HBM_SCRUB (R402): Daily read and correction of every backed HBM line. -/
  | hbmScrub (line : Nat) (found : EccResult)
  /-- ROUND_BUFFER_ERROR (R405): An uncorrectable round-buffer entry voids its round. -/
  | roundBufferError (g : Nat) (port : Fin 256)
  /-- KV_GATE_CHECK (R310): Eviction engine's indivisible gate check of READERS and EVICTING. -/
  | kvGateCheck (engine : Fin 64)
  /-- KV_EVICTION (R316): Eviction engine checks, evicts, compacts and finishes the sequence. -/
  | kvEviction (engine : Fin 64)
  /-- COUNTED_WRITE_ISSUE (R324): Sender numbers and issues a PUT, PUSH or RATOM within its window. -/
  | countedWriteIssue (sender : Nat)
  /-- PUT_ARRIVAL (R419): Receiver handles an arriving PUT by its window distance. -/
  | putArrival (p : Packet)
  /-- PUSH_ARRIVAL (R327): Receiver handles an arriving PUSH to a leaf's KEEP region. -/
  | pushArrival (p : Packet)
  /-- RATOM_ARRIVAL (R419): Receiver handles an arriving remote atomic. -/
  | ratomArrival (p : Packet)
  /-- RLOAD_ARRIVAL (R328): Home receives a remote read and performs it once prior writes are done. -/
  | rloadArrival (p : Packet)
  /-- RDATA_ARRIVAL (R426): First RDATA with a request tag completes the remote LDG. -/
  | rdataArrival (p : Packet)
  /-- FLAG_ARRIVAL (R420): Receiver holds, discards or re-acknowledges an arriving FLAG. -/
  | flagArrival (p : Packet)
  /-- FLAG_COMPLETE (R332): Receiver writes the flag word and sends FLAGDONE once H covers N. -/
  | flagComplete (receiver : Nat)
  /-- FLAGDONE_ARRIVAL (R333): Sender advances D, frees records and retires the flag. -/
  | flagdoneArrival (p : Packet)
  /-- RESEND_ARRIVAL (R423): Sender replays the named run of counted writes. -/
  | resendArrival (p : Packet)
  /-- GAP_TIMER_EXPIRY (R421): Receiver sends RESENDs for missing runs or breaks the channel. -/
  | gapTimerExpiry (receiver : Nat)
  /-- FLAG_TIMER_EXPIRY (R425): Sender resends an unanswered FLAG or breaks the channel. -/
  | flagTimerExpiry (sender : Nat) (index : BitVec 15)
  /-- TAIL_WRITE_TIMEOUT (R425): Oldest uncovered write waits f with no flag outstanding; window flag issued. -/
  | tailWriteTimeout (sender : Nat)
  /-- RLOAD_TIMER_EXPIRY (R426): Requester resends an RLOAD or fails the LDG at the fourth expiry. -/
  | rloadTimerExpiry (req : Nat)
  /-- FLEZAL_FLIT_ERROR (R416): A flit failing CRC after FEC is retried or dropped. -/
  | flezalFlitError (fp : Fin 16) (recovered : Bool)
  /-- FLEZAL_LINK_DOWN (R416): 64 dropped flits within 1 ms mark the link down. -/
  | flezalLinkDown (fp : Fin 16)
  /-- PACKET_AGE_DISCARD (R417): A hop discards a packet that waited 250 microseconds. -/
  | packetAgeDiscard (queued : Nat)
  /-- PACKAGE_LOST (R428): No route to a package for 10 ms breaks all its channels. -/
  | packageLost (pkg : Byte)
  /-- CHANNEL_ALLOCATE (R322): Runtime allocates sender, receiver and channel-table entries. -/
  | channelAllocate (spec : ChannelSpec)
  /-- IMAGE_COMMIT_SWITCH (R392): Switch phase of IMGCMT once no gathering holds a pending slot. -/
  | imageCommitSwitch (unreadable lost : List Nat)
  /-- HANDLER_ENTRY (R379): A control core enters handler mode on interrupt, fault or trap. -/
  | handlerEntry (core : Fin 16)
  /-- DEVICE_BOOT (R351): Reset starts the ROM's signature check, measurement and firmware start. -/
  | deviceBoot (found : BootResult)
  /-- FOLIO_CALIBRATION_DONE (R351): An admitted folio finishes calibration and runs at 1.05 GHz. -/
  | folioCalibrationDone (folio : Fin 8)
  /-- QUIRE_POWER_TRANSITION (R347): Spine places an idle quire in its lowest tolerable power state. -/
  | quirePowerTransition (quire : Nat)
  /-- QUIRE_WAKE (R348): A gated quire becomes ACTIVE and waiting tokens and accesses proceed. -/
  | quireWake (quire : Nat)
  /-- QUIRE_WAKE_TIMEOUT (R437): A quire not ACTIVE within 4 times its wake time is mapped out. -/
  | quireWakeTimeout (quire : Nat)
  /-- GOVERNOR_LIMIT (R435): Governor delaying 1 ms or rail overrun raises 0x0601 or 0x0602. -/
  | governorLimit (what : GovernorLimit)
  /-- THERMAL_EVENT (R436): Folio sensor crossing 105, 115 or back below 100 degrees C. -/
  | thermalEvent (folio : Fin 8) (level : ThermalLevel)
  /-- CONTROL_CORE_HALT (R364): Uncorrectable error halts a control core; the next core takes its traps. -/
  | controlCoreHalt (core : Fin 16)
  /-- CONTEXT_LOAD (R21): The runtime loads a context through the control cores, setting its attributes and releasing frames held for its parked UDP port. -/
  | contextLoad (ctx : Fin 16) (attrs : ContextAttrs)
  /-- FOLIO_ADMISSION (R351): A folio finishes its bring-up test and is admitted, or stays in reset as mapped out. -/
  | folioAdmission (folio : Fin 8) (passed : Bool) (mappedOut : List Nat)
  /-- SPAWN_COMMIT_HOLD_TIMEOUT (R410): A commit held at step 6 for 10 ms of hub 0's clock while every tag is taken raises 0x0408 and ends the instance. -/
  | spawnCommitHoldTimeout (g : Nat)
  /-- SETTLED_PERIOD_END (R287): A page's 10 ms settled period ends: SHARE returns to 00, MOVES to 0, and held bulk-read records may be serviced. -/
  | settledPeriodEnd (ctx : Fin 16) (va : Nat)
  /-- TRANSIT_PACKET_ARRIVAL (R320): A Flezal packet whose destination is another package arrives and is forwarded by the routing table. -/
  | transitPacketArrival (p : Packet)
deriving DecidableEq, Repr

end Sys2Proof
end

