-- ==== Sys2Proof/Decode.lean ====
section
/-!
DEFINITION. Decoding an instruction word, total, with a named refusal for every reserved encoding (R117, R118,
R129, R131, R373, R374), and the encoder of the same tables. A word is read as a number: field [hi:lo] is
`n / 2 ^ lo % 2 ^ (hi - lo + 1)`.
-/

namespace Sys2Proof

/-- Why a word is no instruction, in the order of the decode checks of one slot (R368): the opcode, the other fixed
fields, then `TA`, then `TB`. -/
inductive DecodeError where
  /-- A reserved opcode slot, an all-zero word included (R131, R373): class 0x0102. -/
  | reservedOpcode
  /-- A reserved field value or a nonzero field named zero (R373): class 0x0103. -/
  | reservedField
  /-- A malformed target field (R374): class 0x0104, `TA` (false) or `TB` (true). -/
  | badTarget (tb : Bool)
deriving DecidableEq, Repr

/-- The code of a IntWidth (R130). -/
def IntWidth.code : IntWidth → Nat
  | .w64 => 0
  | .w32 => 1
  | .w16 => 2
  | .w8 => 3

/-- The IntWidth of a code; a reserved code has none. -/
def IntWidth.ofCode : Nat → Option IntWidth
  | 0 => some .w64
  | 1 => some .w32
  | 2 => some .w16
  | 3 => some .w8
  | _ => none

/-- The code of a FloatFmt (R130). -/
def FloatFmt.code : FloatFmt → Nat
  | .f32 => 0
  | .bf16 => 1
  | .f16 => 2

/-- The FloatFmt of a code; a reserved code has none. -/
def FloatFmt.ofCode : Nat → Option FloatFmt
  | 0 => some .f32
  | 1 => some .bf16
  | 2 => some .f16
  | _ => none

/-- The code of a QFmt (R130). -/
def QFmt.code : QFmt → Nat
  | .f32 => 0
  | .bf16 => 1

/-- The QFmt of a code; a reserved code has none. -/
def QFmt.ofCode : Nat → Option QFmt
  | 0 => some .f32
  | 1 => some .bf16
  | _ => none

/-- The code of a DataFmt (R130). -/
def DataFmt.code : DataFmt → Nat
  | .f32 => 0
  | .bf16 => 1
  | .f16 => 2
  | .e4m3 => 3
  | .e5m2 => 4
  | .e3m2 => 5
  | .e2m3 => 6
  | .e2m1 => 7
  | .s8 => 8
  | .z8 => 9
  | .s16 => 10
  | .z16 => 11
  | .s32 => 12
  | .z32 => 13
  | .s64 => 14
  | .z64 => 15

/-- The DataFmt of a code; a reserved code has none. -/
def DataFmt.ofCode : Nat → Option DataFmt
  | 0 => some .f32
  | 1 => some .bf16
  | 2 => some .f16
  | 3 => some .e4m3
  | 4 => some .e5m2
  | 5 => some .e3m2
  | 6 => some .e2m3
  | 7 => some .e2m1
  | 8 => some .s8
  | 9 => some .z8
  | 10 => some .s16
  | 11 => some .z16
  | 12 => some .s32
  | 13 => some .z32
  | 14 => some .s64
  | 15 => some .z64
  | _ => none

/-- The code of a ElemFmt (R130). -/
def ElemFmt.code : ElemFmt → Nat
  | .e4m3 => 0
  | .e5m2 => 1
  | .e3m2 => 2
  | .e2m3 => 3
  | .e2m1 => 4

/-- The ElemFmt of a code; a reserved code has none. -/
def ElemFmt.ofCode : Nat → Option ElemFmt
  | 0 => some .e4m3
  | 1 => some .e5m2
  | 2 => some .e3m2
  | 3 => some .e2m3
  | 4 => some .e2m1
  | _ => none

/-- The code of a Rm (R130). -/
def Rm.code : Rm → Nat
  | .rne => 0
  | .rtz => 1
  | .rdn => 2
  | .rup => 3
  | .rna => 4
  | .sr => 5
  | .dyn => 6

/-- The Rm of a code; a reserved code has none. -/
def Rm.ofCode : Nat → Option Rm
  | 0 => some .rne
  | 1 => some .rtz
  | 2 => some .rdn
  | 3 => some .rup
  | 4 => some .rna
  | 5 => some .sr
  | 6 => some .dyn
  | _ => none

/-- The code of a AccWidth (R130). -/
def AccWidth.code : AccWidth → Nat
  | .z8 => 0
  | .s8 => 1
  | .z16 => 2
  | .s16 => 3
  | .z32 => 4
  | .s32 => 5
  | .w64 => 6

/-- The AccWidth of a code; a reserved code has none. -/
def AccWidth.ofCode : Nat → Option AccWidth
  | 0 => some .z8
  | 1 => some .s8
  | 2 => some .z16
  | 3 => some .s16
  | 4 => some .z32
  | 5 => some .s32
  | 6 => some .w64
  | _ => none

/-- The code of a CasWidth (R130). -/
def CasWidth.code : CasWidth → Nat
  | .z32 => 0
  | .s32 => 1
  | .w64 => 2

/-- The CasWidth of a code; a reserved code has none. -/
def CasWidth.ofCode : Nat → Option CasWidth
  | 0 => some .z32
  | 1 => some .s32
  | 2 => some .w64
  | _ => none

/-- The code of a Order (R130). -/
def Order.code : Order → Nat
  | .rlx => 0
  | .acq => 1
  | .rel => 2
  | .ar => 3

/-- The Order of a code; a reserved code has none. -/
def Order.ofCode : Nat → Option Order
  | 0 => some .rlx
  | 1 => some .acq
  | 2 => some .rel
  | 3 => some .ar
  | _ => none

/-- The code of a Scope (R130). -/
def Scope.code : Scope → Nat
  | .leaf => 0
  | .gathering => 1
  | .device => 2
  | .system => 3

/-- The Scope of a code; a reserved code has none. -/
def Scope.ofCode : Nat → Option Scope
  | 0 => some .leaf
  | 1 => some .gathering
  | 2 => some .device
  | 3 => some .system
  | _ => none

/-- The code of a ICmp (R130). -/
def ICmp.code : ICmp → Nat
  | .eq => 0
  | .ne => 1
  | .lt => 2
  | .le => 3
  | .gt => 4
  | .ge => 5

/-- The ICmp of a code; a reserved code has none. -/
def ICmp.ofCode : Nat → Option ICmp
  | 0 => some .eq
  | 1 => some .ne
  | 2 => some .lt
  | 3 => some .le
  | 4 => some .gt
  | 5 => some .ge
  | _ => none

/-- The code of a FCmp (R130). -/
def FCmp.code : FCmp → Nat
  | .eq => 0
  | .ne => 1
  | .lt => 2
  | .le => 3
  | .gt => 4
  | .ge => 5
  | .un => 6

/-- The FCmp of a code; a reserved code has none. -/
def FCmp.ofCode : Nat → Option FCmp
  | 0 => some .eq
  | 1 => some .ne
  | 2 => some .lt
  | 3 => some .le
  | 4 => some .gt
  | 5 => some .ge
  | 6 => some .un
  | _ => none

/-- The code of a Cond (R130). -/
def Cond.code : Cond → Nat
  | .always => 0
  | .nz => 1
  | .z => 2
  | .ltz => 3
  | .gez => 4

/-- The Cond of a code; a reserved code has none. -/
def Cond.ofCode : Nat → Option Cond
  | 0 => some .always
  | 1 => some .nz
  | 2 => some .z
  | 3 => some .ltz
  | 4 => some .gez
  | _ => none

/-- The code of a WaitCond (R130). -/
def WaitCond.code : WaitCond → Nat
  | .eq => 0
  | .ne => 1
  | .geu => 2
  | .ltu => 3

/-- The WaitCond of a code; a reserved code has none. -/
def WaitCond.ofCode : Nat → Option WaitCond
  | 0 => some .eq
  | 1 => some .ne
  | 2 => some .geu
  | 3 => some .ltu
  | _ => none

/-- The code of a FUnit (R130). -/
def FUnit.code : FUnit → Nat
  | .f0 => 0
  | .f1 => 1

/-- The FUnit of a code; a reserved code has none. -/
def FUnit.ofCode : Nat → Option FUnit
  | 0 => some .f0
  | 1 => some .f1
  | _ => none

/-- The code of a PushKind (R130). -/
def PushKind.code : PushKind → Nat
  | .data => 0
  | .stop => 1
  | .done => 2
  | .empty => 3
  | .turn => 4

/-- The PushKind of a code; a reserved code has none. -/
def PushKind.ofCode : Nat → Option PushKind
  | 0 => some .data
  | 1 => some .stop
  | 2 => some .done
  | 3 => some .empty
  | 4 => some .turn
  | _ => none

/-- A one-bit field. -/
def bitCode (b : Bool) : Nat := if b then 1 else 0

/-- The flag of a one-bit field. -/
def bitOf (n : Nat) : Bool := n == 1

/-- A field of a bounded number; a value above the bound is reserved. -/
def finOf (k n : Nat) : Option (Fin k) := if h : n < k then some ⟨n, h⟩ else none

/-- The code of a stream port: I0–I7 as 0–7, O0–O7 as 8–15 (R241). -/
def StreamPort.code : StreamPort → Nat
  | .inp p => p.val
  | .out p => 8 + p.val

/-- The stream port of a four-bit field. -/
def StreamPort.ofCode (n : Nat) : StreamPort :=
  if n < 8 then .inp (Fin.ofNat 8 n) else .out (Fin.ofNat 8 (n - 8))

/-- The code of an operand kind in a target's `KIND` field (R118). -/
def OpndKind.code : OpndKind → Nat
  | .l => 1
  | .r => 2
  | .t => 3

/-- The nine-bit code of a target (R118). -/
def Target.code : Target → Nat
  | .none => 0x7F
  | .reg g => g.val
  | .port p => 0x40 + p.val
  | .opnd k j => 128 * k.code + j.val

/-- The target of a nine-bit field (R118); `KIND` 00 with `IDX` 0x48–0x7E and a slot target with `IDX`[6] set are
malformed (R374). -/
def Target.ofCode (n : Nat) : Option Target :=
  match n / 128 with
  | 0 =>
    if n < 0x40 then some (.reg (Fin.ofNat 64 n))
    else if n < 0x48 then some (.port (Fin.ofNat 8 (n - 0x40)))
    else if n = 0x7F then some .none
    else Option.none
  | 1 => if n % 128 < 64 then some (.opnd .l (Fin.ofNat 64 (n % 128))) else Option.none
  | 2 => if n % 128 < 64 then some (.opnd .r (Fin.ofNat 64 (n % 128))) else Option.none
  | 3 => if n % 128 < 64 then some (.opnd .t (Fin.ofNat 64 (n % 128))) else Option.none
  | _ => Option.none

/-- `TA`[8:0] and `TB`[17:9] of format T2, judged in that order (R117, R368). -/
def withT2 (n : Nat) (k : Target → Target → Instr) : Except DecodeError Instr :=
  match Target.ofCode (n % 512) with
  | none => .error (.badTarget false)
  | some ta =>
    match Target.ofCode (n / 512 % 512) with
    | none => .error (.badTarget true)
    | some tb => .ok (k tb ta)

/-- `TA`[24:16] of format T1I (R117). -/
def withT1 (n : Nat) (k : Target → Instr) : Except DecodeError Instr :=
  match Target.ofCode (n / 65536 % 512) with
  | none => .error (.badTarget false)
  | some ta => .ok (k ta)

/-- `TA` and `TB` of format T2 that the opcode map fixes at 0x07F (R131, R374). -/
def noT2 (n : Nat) (i : Instr) : Except DecodeError Instr :=
  if n % 512 ≠ 0x7F then .error (.badTarget false)
  else if n / 512 % 512 ≠ 0x7F then .error (.badTarget true)
  else .ok i

/-- `TA` of format T1I that the opcode map fixes at 0x07F. -/
def noT1 (n : Nat) (i : Instr) : Except DecodeError Instr :=
  if n / 65536 % 512 ≠ 0x7F then .error (.badTarget false) else .ok i

/-- Opcode 0x01: `RD` (R140). -/
def decodeOp01 (n : Nat) : Except DecodeError Instr :=
  if n / 262144 % 2 = 0 then
    withT2 n fun tb ta => .rd (Fin.ofNat 64 (n / 524288 % 64)) tb ta
  else .error .reservedField

/-- Opcode 0x02: `MOVI` (R140). -/
def decodeOp02 (n : Nat) : Except DecodeError Instr :=
  withT1 n fun ta => .movi ta (BitVec.ofNat 16 (n % 65536))

/-- Opcode 0x03: `MOVHI` (R140). -/
def decodeOp03 (n : Nat) : Except DecodeError Instr :=
  withT1 n fun ta => .movhi ta (BitVec.ofNat 16 (n % 65536))

/-- Opcode 0x04: `MOV` (R140). -/
def decodeOp04 (n : Nat) : Except DecodeError Instr :=
  if n / 262144 % 128 = 0 then
    withT2 n fun tb ta => .mov tb ta
  else .error .reservedField

/-- Opcode 0x05: `BR` (R142). -/
def decodeOp05 (n : Nat) : Except DecodeError Instr :=
  match Cond.ofCode (n / 4194304 % 8) with
  | some cond => .ok (.br cond (BitVec.ofNat 22 (n % 4194304)))
  | _ => .error .reservedField

/-- Opcode 0x06: `CALL` (R142). -/
def decodeOp06 (n : Nat) : Except DecodeError Instr :=
  match Cond.ofCode (n / 4194304 % 8) with
  | some cond => .ok (.call cond (BitVec.ofNat 22 (n % 4194304)))
  | _ => .error .reservedField

/-- Opcode 0x07: `BRR` (R142). -/
def decodeOp07 (n : Nat) : Except DecodeError Instr :=
  if n / 262144 % 128 = 0 then
    noT2 n .brr
  else .error .reservedField

/-- Opcode 0x08: `RND` (R144). -/
def decodeOp08 (n : Nat) : Except DecodeError Instr :=
  if n / 4096 % 16 = 0 ∧ n % 4096 ≠ 0 then
    noT1 n (.rnd (BitVec.ofNat 12 (n % 4096)))
  else .error .reservedField

/-- Opcode 0x09: `EXIT`, `TDONE` (R143, R199). -/
def decodeOp09 (n : Nat) : Except DecodeError Instr :=
  if n / 262144 % 128 = 0 then
    noT2 n .exit
  else if n / 262144 % 128 = 1 then
    noT2 n .tdone
  else .error .reservedField

/-- Opcode 0x0A: `TRAP` (R380). -/
def decodeOp0A (n : Nat) : Except DecodeError Instr :=
  noT1 n (.trap (BitVec.ofNat 16 (n % 65536)))

/-- Opcode 0x0B: `BKPT` (R380). -/
def decodeOp0B (n : Nat) : Except DecodeError Instr :=
  noT1 n (.bkpt (BitVec.ofNat 16 (n % 65536)))

/-- Opcode 0x0C: `SYSRD` (R146). -/
def decodeOp0C (n : Nat) : Except DecodeError Instr :=
  if n / 4096 % 16 = 0 then
    withT1 n fun ta => .sysrd ta (BitVec.ofNat 12 (n % 4096))
  else .error .reservedField

/-- Opcode 0x0D: `SYSWR` (R146). -/
def decodeOp0D (n : Nat) : Except DecodeError Instr :=
  if n / 4096 % 16 = 0 then
    noT1 n (.syswr (BitVec.ofNat 12 (n % 4096)))
  else .error .reservedField

/-- Opcode 0x0E: `SPAWN` (R198). -/
def decodeOp0E (n : Nat) : Except DecodeError Instr :=
  if n / 262144 % 128 = 0 then
    withT2 n fun tb ta => .spawn tb ta
  else .error .reservedField

/-- Opcode 0x0F: `NULL` (R140). -/
def decodeOp0F (n : Nat) : Except DecodeError Instr :=
  if n / 262144 % 128 = 0 then
    withT2 n fun tb ta => .null tb ta
  else .error .reservedField

/-- Opcode 0x10: `ADD` (R149). -/
def decodeOp10 (n : Nat) : Except DecodeError Instr :=
  if n / 262144 % 8 = 0 then
    match IntWidth.ofCode (n / 8388608 % 4) with
    | some width => withT2 n fun tb ta => .add width (bitOf (n / 4194304 % 2)) (bitOf (n / 2097152 % 2)) tb ta
    | _ => .error .reservedField
  else .error .reservedField

/-- Opcode 0x11: `SUB` (R149). -/
def decodeOp11 (n : Nat) : Except DecodeError Instr :=
  if n / 262144 % 8 = 0 then
    match IntWidth.ofCode (n / 8388608 % 4) with
    | some width => withT2 n fun tb ta => .sub width (bitOf (n / 4194304 % 2)) (bitOf (n / 2097152 % 2)) tb ta
    | _ => .error .reservedField
  else .error .reservedField

/-- Opcode 0x12: `MUL` (R149). -/
def decodeOp12 (n : Nat) : Except DecodeError Instr :=
  if n / 262144 % 8 = 0 then
    match IntWidth.ofCode (n / 8388608 % 4) with
    | some width => withT2 n fun tb ta => .mul width (bitOf (n / 4194304 % 2)) (bitOf (n / 2097152 % 2)) tb ta
    | _ => .error .reservedField
  else .error .reservedField

/-- Opcode 0x13: `MULH` (R149). -/
def decodeOp13 (n : Nat) : Except DecodeError Instr :=
  if n / 262144 % 16 = 0 then
    match IntWidth.ofCode (n / 8388608 % 4) with
    | some width => withT2 n fun tb ta => .mulh width (bitOf (n / 4194304 % 2)) tb ta
    | _ => .error .reservedField
  else .error .reservedField

/-- Opcode 0x14: `DIV` (R149). -/
def decodeOp14 (n : Nat) : Except DecodeError Instr :=
  if n / 262144 % 16 = 0 then
    match IntWidth.ofCode (n / 8388608 % 4) with
    | some width => withT2 n fun tb ta => .div width (bitOf (n / 4194304 % 2)) tb ta
    | _ => .error .reservedField
  else .error .reservedField

/-- Opcode 0x15: `REM` (R149). -/
def decodeOp15 (n : Nat) : Except DecodeError Instr :=
  if n / 262144 % 16 = 0 then
    match IntWidth.ofCode (n / 8388608 % 4) with
    | some width => withT2 n fun tb ta => .rem width (bitOf (n / 4194304 % 2)) tb ta
    | _ => .error .reservedField
  else .error .reservedField

/-- Opcode 0x16: `AND` (R149). -/
def decodeOp16 (n : Nat) : Except DecodeError Instr :=
  if n / 262144 % 16 = 0 then
    match IntWidth.ofCode (n / 8388608 % 4) with
    | some width => withT2 n fun tb ta => .and width (bitOf (n / 4194304 % 2)) tb ta
    | _ => .error .reservedField
  else .error .reservedField

/-- Opcode 0x17: `OR` (R149). -/
def decodeOp17 (n : Nat) : Except DecodeError Instr :=
  if n / 262144 % 16 = 0 then
    match IntWidth.ofCode (n / 8388608 % 4) with
    | some width => withT2 n fun tb ta => .or width (bitOf (n / 4194304 % 2)) tb ta
    | _ => .error .reservedField
  else .error .reservedField

/-- Opcode 0x18: `XOR` (R149). -/
def decodeOp18 (n : Nat) : Except DecodeError Instr :=
  if n / 262144 % 16 = 0 then
    match IntWidth.ofCode (n / 8388608 % 4) with
    | some width => withT2 n fun tb ta => .xor width (bitOf (n / 4194304 % 2)) tb ta
    | _ => .error .reservedField
  else .error .reservedField

/-- Opcode 0x19: `ANDN` (R149). -/
def decodeOp19 (n : Nat) : Except DecodeError Instr :=
  if n / 262144 % 16 = 0 then
    match IntWidth.ofCode (n / 8388608 % 4) with
    | some width => withT2 n fun tb ta => .andn width (bitOf (n / 4194304 % 2)) tb ta
    | _ => .error .reservedField
  else .error .reservedField

/-- Opcode 0x1A: `SHL` (R149). -/
def decodeOp1A (n : Nat) : Except DecodeError Instr :=
  if n / 262144 % 16 = 0 then
    match IntWidth.ofCode (n / 8388608 % 4) with
    | some width => withT2 n fun tb ta => .shl width (bitOf (n / 4194304 % 2)) tb ta
    | _ => .error .reservedField
  else .error .reservedField

/-- Opcode 0x1B: `SHR` (R149). -/
def decodeOp1B (n : Nat) : Except DecodeError Instr :=
  if n / 262144 % 16 = 0 then
    match IntWidth.ofCode (n / 8388608 % 4) with
    | some width => withT2 n fun tb ta => .shr width (bitOf (n / 4194304 % 2)) tb ta
    | _ => .error .reservedField
  else .error .reservedField

/-- Opcode 0x1C: `SAR` (R149). -/
def decodeOp1C (n : Nat) : Except DecodeError Instr :=
  if n / 262144 % 16 = 0 then
    match IntWidth.ofCode (n / 8388608 % 4) with
    | some width => withT2 n fun tb ta => .sar width (bitOf (n / 4194304 % 2)) tb ta
    | _ => .error .reservedField
  else .error .reservedField

/-- Opcode 0x1D: `ROT` (R149). -/
def decodeOp1D (n : Nat) : Except DecodeError Instr :=
  if n / 262144 % 16 = 0 then
    match IntWidth.ofCode (n / 8388608 % 4) with
    | some width => withT2 n fun tb ta => .rot width (bitOf (n / 4194304 % 2)) tb ta
    | _ => .error .reservedField
  else .error .reservedField

/-- Opcode 0x1E: `MIN` (R149). -/
def decodeOp1E (n : Nat) : Except DecodeError Instr :=
  if n / 262144 % 16 = 0 then
    match IntWidth.ofCode (n / 8388608 % 4) with
    | some width => withT2 n fun tb ta => .min width (bitOf (n / 4194304 % 2)) tb ta
    | _ => .error .reservedField
  else .error .reservedField

/-- Opcode 0x1F: `MAX` (R149). -/
def decodeOp1F (n : Nat) : Except DecodeError Instr :=
  if n / 262144 % 16 = 0 then
    match IntWidth.ofCode (n / 8388608 % 4) with
    | some width => withT2 n fun tb ta => .max width (bitOf (n / 4194304 % 2)) tb ta
    | _ => .error .reservedField
  else .error .reservedField

/-- Opcode 0x20: `CMP` (R150). -/
def decodeOp20 (n : Nat) : Except DecodeError Instr :=
  if n / 262144 % 2 = 0 then
    match IntWidth.ofCode (n / 8388608 % 4), ICmp.ofCode (n / 524288 % 8) with
    | some width, some cmp => withT2 n fun tb ta => .cmp width (bitOf (n / 4194304 % 2)) cmp tb ta
    | _, _ => .error .reservedField
  else .error .reservedField

/-- Opcode 0x21: `SEL` (R151). -/
def decodeOp21 (n : Nat) : Except DecodeError Instr :=
  if n / 262144 % 128 = 0 then
    withT2 n fun tb ta => .sel tb ta
  else .error .reservedField

/-- Opcode 0x22: `BITC_POPC`, `BITC_CLZ`, `BITC_CTZ`, `BITC_BREV`, `BITC_BSWAP` (R152). -/
def decodeOp22 (n : Nat) : Except DecodeError Instr :=
  if n / 262144 % 32 = 0 then
    match IntWidth.ofCode (n / 8388608 % 4) with
    | some width => withT2 n fun tb ta => .bitcPopc width tb ta
    | _ => .error .reservedField
  else if n / 262144 % 32 = 1 then
    match IntWidth.ofCode (n / 8388608 % 4) with
    | some width => withT2 n fun tb ta => .bitcClz width tb ta
    | _ => .error .reservedField
  else if n / 262144 % 32 = 2 then
    match IntWidth.ofCode (n / 8388608 % 4) with
    | some width => withT2 n fun tb ta => .bitcCtz width tb ta
    | _ => .error .reservedField
  else if n / 262144 % 32 = 3 then
    match IntWidth.ofCode (n / 8388608 % 4) with
    | some width => withT2 n fun tb ta => .bitcBrev width tb ta
    | _ => .error .reservedField
  else if n / 262144 % 32 = 4 then
    match IntWidth.ofCode (n / 8388608 % 4) with
    | some width => withT2 n fun tb ta => .bitcBswap width tb ta
    | _ => .error .reservedField
  else .error .reservedField

/-- Opcode 0x23: `BFX` (R153). -/
def decodeOp23 (n : Nat) : Except DecodeError Instr :=
  if n / 8192 % 8 = 0 then
    withT1 n fun ta => .bfx ta (bitOf (n / 4096 % 2)) (BitVec.ofNat 6 (n / 64 % 64)) (BitVec.ofNat 6 (n % 64))
  else .error .reservedField

/-- Opcode 0x24: `BFI` (R153). -/
def decodeOp24 (n : Nat) : Except DecodeError Instr :=
  if n / 262144 % 128 = 0 then
    withT2 n fun tb ta => .bfi tb ta
  else .error .reservedField

/-- Opcode 0x25: `LEA` (R154). -/
def decodeOp25 (n : Nat) : Except DecodeError Instr :=
  if n / 2097152 % 16 = 0 then
    withT2 n fun tb ta => .lea (BitVec.ofNat 3 (n / 262144 % 8)) tb ta
  else .error .reservedField

/-- Opcode 0x26: `ADDI` (R154). -/
def decodeOp26 (n : Nat) : Except DecodeError Instr :=
  withT1 n fun ta => .addi ta (BitVec.ofNat 16 (n % 65536))

/-- Opcode 0x27: `ANDI` (R154). -/
def decodeOp27 (n : Nat) : Except DecodeError Instr :=
  withT1 n fun ta => .andi ta (BitVec.ofNat 16 (n % 65536))

/-- Opcode 0x28: `ORI` (R154). -/
def decodeOp28 (n : Nat) : Except DecodeError Instr :=
  withT1 n fun ta => .ori ta (BitVec.ofNat 16 (n % 65536))

/-- Opcode 0x29: `XORI` (R154). -/
def decodeOp29 (n : Nat) : Except DecodeError Instr :=
  withT1 n fun ta => .xori ta (BitVec.ofNat 16 (n % 65536))

/-- Opcode 0x2A: `SHFI_SHL`, `SHFI_SHR`, `SHFI_SAR`, `SHFI_ROT` (R154). -/
def decodeOp2A (n : Nat) : Except DecodeError Instr :=
  if n / 64 % 1024 = 0 then
    withT1 n fun ta => .shfiShl ta (BitVec.ofNat 6 (n % 64))
  else if n / 64 % 1024 = 1 then
    withT1 n fun ta => .shfiShr ta (BitVec.ofNat 6 (n % 64))
  else if n / 64 % 1024 = 2 then
    withT1 n fun ta => .shfiSar ta (BitVec.ofNat 6 (n % 64))
  else if n / 64 % 1024 = 3 then
    withT1 n fun ta => .shfiRot ta (BitVec.ofNat 6 (n % 64))
  else .error .reservedField

/-- Opcode 0x2B: `CMPI` (R150). -/
def decodeOp2B (n : Nat) : Except DecodeError Instr :=
  match ICmp.ofCode (n / 4096 % 8) with
  | some cmp => withT1 n fun ta => .cmpi ta (bitOf (n / 32768 % 2)) cmp (BitVec.ofNat 12 (n % 4096))
  | _ => .error .reservedField

/-- Opcode 0x2C: `MULI` (R154). -/
def decodeOp2C (n : Nat) : Except DecodeError Instr :=
  withT1 n fun ta => .muli ta (BitVec.ofNat 16 (n % 65536))

/-- Opcode 0x2D: `ADC` (R155). -/
def decodeOp2D (n : Nat) : Except DecodeError Instr :=
  if n / 262144 % 32 = 0 then
    match IntWidth.ofCode (n / 8388608 % 4) with
    | some width => withT2 n fun tb ta => .adc width tb ta
    | _ => .error .reservedField
  else .error .reservedField

/-- Opcode 0x30: `FADD` (R157). -/
def decodeOp30 (n : Nat) : Except DecodeError Instr :=
  match FloatFmt.ofCode (n / 8388608 % 4), Rm.ofCode (n / 1048576 % 8) with
  | some fmt, some rm => withT2 n fun tb ta => .fadd fmt rm (bitOf (n / 524288 % 2)) (bitOf (n / 262144 % 2)) tb ta
  | _, _ => .error .reservedField

/-- Opcode 0x31: `FSUB` (R157). -/
def decodeOp31 (n : Nat) : Except DecodeError Instr :=
  match FloatFmt.ofCode (n / 8388608 % 4), Rm.ofCode (n / 1048576 % 8) with
  | some fmt, some rm => withT2 n fun tb ta => .fsub fmt rm (bitOf (n / 524288 % 2)) (bitOf (n / 262144 % 2)) tb ta
  | _, _ => .error .reservedField

/-- Opcode 0x32: `FMUL` (R157). -/
def decodeOp32 (n : Nat) : Except DecodeError Instr :=
  match FloatFmt.ofCode (n / 8388608 % 4), Rm.ofCode (n / 1048576 % 8) with
  | some fmt, some rm => withT2 n fun tb ta => .fmul fmt rm (bitOf (n / 524288 % 2)) (bitOf (n / 262144 % 2)) tb ta
  | _, _ => .error .reservedField

/-- Opcode 0x33: `FMA` (R157). -/
def decodeOp33 (n : Nat) : Except DecodeError Instr :=
  match FloatFmt.ofCode (n / 8388608 % 4), Rm.ofCode (n / 1048576 % 8) with
  | some fmt, some rm => withT2 n fun tb ta => .fma fmt rm (bitOf (n / 524288 % 2)) (bitOf (n / 262144 % 2)) tb ta
  | _, _ => .error .reservedField

/-- Opcode 0x34: `FMIN` (R158). -/
def decodeOp34 (n : Nat) : Except DecodeError Instr :=
  if n / 1048576 % 8 = 0 then
    match FloatFmt.ofCode (n / 8388608 % 4) with
    | some fmt => withT2 n fun tb ta => .fmin fmt (bitOf (n / 524288 % 2)) (bitOf (n / 262144 % 2)) tb ta
    | _ => .error .reservedField
  else .error .reservedField

/-- Opcode 0x35: `FMAX` (R158). -/
def decodeOp35 (n : Nat) : Except DecodeError Instr :=
  if n / 1048576 % 8 = 0 then
    match FloatFmt.ofCode (n / 8388608 % 4) with
    | some fmt => withT2 n fun tb ta => .fmax fmt (bitOf (n / 524288 % 2)) (bitOf (n / 262144 % 2)) tb ta
    | _ => .error .reservedField
  else .error .reservedField

/-- Opcode 0x36: `FCMP` (R159). -/
def decodeOp36 (n : Nat) : Except DecodeError Instr :=
  if n / 262144 % 4 = 0 then
    match FloatFmt.ofCode (n / 8388608 % 4), FCmp.ofCode (n / 1048576 % 8) with
    | some fmt, some cmp => withT2 n fun tb ta => .fcmp fmt cmp tb ta
    | _, _ => .error .reservedField
  else .error .reservedField

/-- Opcode 0x37: `FCVT` (R160). -/
def decodeOp37 (n : Nat) : Except DecodeError Instr :=
  if n / 4096 % 16 = 0 then
    match Rm.ofCode (n / 256 % 8), DataFmt.ofCode (n / 16 % 16), DataFmt.ofCode (n % 16) with
    | some rm, some dst, some src => withT1 n fun ta => .fcvt ta (bitOf (n / 2048 % 2)) rm dst src
    | _, _, _ => .error .reservedField
  else .error .reservedField

/-- Opcode 0x38: `FSFU_RCP`, `FSFU_RSQ`, `FSFU_SQRT`, `FSFU_EXP2`, `FSFU_LOG2`, `FSFU_TANH`, `FSFU_SIGM`, `FSFU_SINP`, `FSFU_COSP` (R161). -/
def decodeOp38 (n : Nat) : Except DecodeError Instr :=
  if n % 65536 = 0 then
    withT1 n fun ta => .fsfuRcp ta
  else if n % 65536 = 1 then
    withT1 n fun ta => .fsfuRsq ta
  else if n % 65536 = 2 then
    withT1 n fun ta => .fsfuSqrt ta
  else if n % 65536 = 3 then
    withT1 n fun ta => .fsfuExp2 ta
  else if n % 65536 = 4 then
    withT1 n fun ta => .fsfuLog2 ta
  else if n % 65536 = 5 then
    withT1 n fun ta => .fsfuTanh ta
  else if n % 65536 = 6 then
    withT1 n fun ta => .fsfuSigm ta
  else if n % 65536 = 7 then
    withT1 n fun ta => .fsfuSinp ta
  else if n % 65536 = 8 then
    withT1 n fun ta => .fsfuCosp ta
  else .error .reservedField

/-- Opcode 0x39: `FCLASS` (R162). -/
def decodeOp39 (n : Nat) : Except DecodeError Instr :=
  if n / 262144 % 32 = 0 then
    match FloatFmt.ofCode (n / 8388608 % 4) with
    | some fmt => withT2 n fun tb ta => .fclass fmt tb ta
    | _ => .error .reservedField
  else .error .reservedField

/-- Opcode 0x3A: `QSCALE` (R163). -/
def decodeOp3A (n : Nat) : Except DecodeError Instr :=
  if n / 16 % 4096 = 0 then
    match QFmt.ofCode (n / 8 % 2), ElemFmt.ofCode (n % 8) with
    | some amax, some elem => withT1 n fun ta => .qscale ta amax elem
    | _, _ => .error .reservedField
  else .error .reservedField

/-- Opcode 0x3B: `QCVT` (R163). -/
def decodeOp3B (n : Nat) : Except DecodeError Instr :=
  if n / 262144 % 2 = 0 then
    match QFmt.ofCode (n / 8388608 % 4), Rm.ofCode (n / 1048576 % 8) with
    | some fmt, some rm => withT2 n fun tb ta => .qcvt fmt rm (bitOf (n / 524288 % 2)) tb ta
    | _, _ => .error .reservedField
  else .error .reservedField

/-- Opcode 0x3C: `QDEQ` (R163). -/
def decodeOp3C (n : Nat) : Except DecodeError Instr :=
  if n / 262144 % 2 = 0 then
    match QFmt.ofCode (n / 8388608 % 4), Rm.ofCode (n / 1048576 % 8) with
    | some fmt, some rm => withT2 n fun tb ta => .qdeq fmt rm (bitOf (n / 524288 % 2)) tb ta
    | _, _ => .error .reservedField
  else .error .reservedField

/-- Opcode 0x3D: `FSGN_ABS`, `FSGN_NEG`, `FSGN_COPYSIGN` (R164). -/
def decodeOp3D (n : Nat) : Except DecodeError Instr :=
  if n / 262144 % 32 = 0 then
    match FloatFmt.ofCode (n / 8388608 % 4) with
    | some fmt => withT2 n fun tb ta => .fsgnAbs fmt tb ta
    | _ => .error .reservedField
  else if n / 262144 % 32 = 1 then
    match FloatFmt.ofCode (n / 8388608 % 4) with
    | some fmt => withT2 n fun tb ta => .fsgnNeg fmt tb ta
    | _ => .error .reservedField
  else if n / 262144 % 32 = 2 then
    match FloatFmt.ofCode (n / 8388608 % 4) with
    | some fmt => withT2 n fun tb ta => .fsgnCopysign fmt tb ta
    | _ => .error .reservedField
  else .error .reservedField

/-- Opcode 0x40: `LDL` (R177). -/
def decodeOp40 (n : Nat) : Except DecodeError Instr :=
  if n / 4194304 % 2 = 0 then
    match Scope.ofCode (n / 8388608 % 4), AccWidth.ofCode (n / 262144 % 8) with
    | some scope, some width => withT2 n fun tb ta => .ldl scope (bitOf (n / 2097152 % 2)) width tb ta
    | _, _ => .error .reservedField
  else .error .reservedField

/-- Opcode 0x41: `STL` (R177). -/
def decodeOp41 (n : Nat) : Except DecodeError Instr :=
  if n / 2097152 % 2 = 0 then
    match Scope.ofCode (n / 8388608 % 4), AccWidth.ofCode (n / 262144 % 8) with
    | some scope, some width => withT2 n fun tb ta => .stl scope (bitOf (n / 4194304 % 2)) width tb ta
    | _, _ => .error .reservedField
  else .error .reservedField

/-- Opcode 0x42: `LDG` (R178). -/
def decodeOp42 (n : Nat) : Except DecodeError Instr :=
  if n / 4194304 % 2 = 0 then
    match Scope.ofCode (n / 8388608 % 4), AccWidth.ofCode (n / 262144 % 8) with
    | some scope, some width => withT2 n fun tb ta => .ldg scope (bitOf (n / 2097152 % 2)) width tb ta
    | _, _ => .error .reservedField
  else .error .reservedField

/-- Opcode 0x43: `STG` (R177). -/
def decodeOp43 (n : Nat) : Except DecodeError Instr :=
  if n / 2097152 % 2 = 0 then
    match Scope.ofCode (n / 8388608 % 4), AccWidth.ofCode (n / 262144 % 8) with
    | some scope, some width => withT2 n fun tb ta => .stg scope (bitOf (n / 4194304 % 2)) width tb ta
    | _, _ => .error .reservedField
  else .error .reservedField

/-- Opcode 0x44: `ATOML_ADD`, `ATOML_AND`, `ATOML_OR`, `ATOML_XOR`, `ATOML_XCHG`, `ATOML_SMIN`, `ATOML_SMAX`, `ATOML_FADD` (R180). -/
def decodeOp44 (n : Nat) : Except DecodeError Instr :=
  if n / 262144 % 8 = 0 then
    match Scope.ofCode (n / 8388608 % 4), Order.ofCode (n / 2097152 % 4) with
    | some scope, some ord => withT2 n fun tb ta => .atomlAdd scope ord tb ta
    | _, _ => .error .reservedField
  else if n / 262144 % 8 = 1 then
    match Scope.ofCode (n / 8388608 % 4), Order.ofCode (n / 2097152 % 4) with
    | some scope, some ord => withT2 n fun tb ta => .atomlAnd scope ord tb ta
    | _, _ => .error .reservedField
  else if n / 262144 % 8 = 2 then
    match Scope.ofCode (n / 8388608 % 4), Order.ofCode (n / 2097152 % 4) with
    | some scope, some ord => withT2 n fun tb ta => .atomlOr scope ord tb ta
    | _, _ => .error .reservedField
  else if n / 262144 % 8 = 3 then
    match Scope.ofCode (n / 8388608 % 4), Order.ofCode (n / 2097152 % 4) with
    | some scope, some ord => withT2 n fun tb ta => .atomlXor scope ord tb ta
    | _, _ => .error .reservedField
  else if n / 262144 % 8 = 4 then
    match Scope.ofCode (n / 8388608 % 4), Order.ofCode (n / 2097152 % 4) with
    | some scope, some ord => withT2 n fun tb ta => .atomlXchg scope ord tb ta
    | _, _ => .error .reservedField
  else if n / 262144 % 8 = 5 then
    match Scope.ofCode (n / 8388608 % 4), Order.ofCode (n / 2097152 % 4) with
    | some scope, some ord => withT2 n fun tb ta => .atomlSmin scope ord tb ta
    | _, _ => .error .reservedField
  else if n / 262144 % 8 = 6 then
    match Scope.ofCode (n / 8388608 % 4), Order.ofCode (n / 2097152 % 4) with
    | some scope, some ord => withT2 n fun tb ta => .atomlSmax scope ord tb ta
    | _, _ => .error .reservedField
  else if n / 262144 % 8 = 7 then
    match Scope.ofCode (n / 8388608 % 4), Order.ofCode (n / 2097152 % 4) with
    | some scope, some ord => withT2 n fun tb ta => .atomlFadd scope ord tb ta
    | _, _ => .error .reservedField
  else .error .reservedField

/-- Opcode 0x45: `ATOMG_ADD`, `ATOMG_AND`, `ATOMG_OR`, `ATOMG_XOR`, `ATOMG_XCHG`, `ATOMG_SMIN`, `ATOMG_SMAX`, `ATOMG_FADD` (R180). -/
def decodeOp45 (n : Nat) : Except DecodeError Instr :=
  if n / 262144 % 8 = 0 then
    match Scope.ofCode (n / 8388608 % 4), Order.ofCode (n / 2097152 % 4) with
    | some scope, some ord => withT2 n fun tb ta => .atomgAdd scope ord tb ta
    | _, _ => .error .reservedField
  else if n / 262144 % 8 = 1 then
    match Scope.ofCode (n / 8388608 % 4), Order.ofCode (n / 2097152 % 4) with
    | some scope, some ord => withT2 n fun tb ta => .atomgAnd scope ord tb ta
    | _, _ => .error .reservedField
  else if n / 262144 % 8 = 2 then
    match Scope.ofCode (n / 8388608 % 4), Order.ofCode (n / 2097152 % 4) with
    | some scope, some ord => withT2 n fun tb ta => .atomgOr scope ord tb ta
    | _, _ => .error .reservedField
  else if n / 262144 % 8 = 3 then
    match Scope.ofCode (n / 8388608 % 4), Order.ofCode (n / 2097152 % 4) with
    | some scope, some ord => withT2 n fun tb ta => .atomgXor scope ord tb ta
    | _, _ => .error .reservedField
  else if n / 262144 % 8 = 4 then
    match Scope.ofCode (n / 8388608 % 4), Order.ofCode (n / 2097152 % 4) with
    | some scope, some ord => withT2 n fun tb ta => .atomgXchg scope ord tb ta
    | _, _ => .error .reservedField
  else if n / 262144 % 8 = 5 then
    match Scope.ofCode (n / 8388608 % 4), Order.ofCode (n / 2097152 % 4) with
    | some scope, some ord => withT2 n fun tb ta => .atomgSmin scope ord tb ta
    | _, _ => .error .reservedField
  else if n / 262144 % 8 = 6 then
    match Scope.ofCode (n / 8388608 % 4), Order.ofCode (n / 2097152 % 4) with
    | some scope, some ord => withT2 n fun tb ta => .atomgSmax scope ord tb ta
    | _, _ => .error .reservedField
  else if n / 262144 % 8 = 7 then
    match Scope.ofCode (n / 8388608 % 4), Order.ofCode (n / 2097152 % 4) with
    | some scope, some ord => withT2 n fun tb ta => .atomgFadd scope ord tb ta
    | _, _ => .error .reservedField
  else .error .reservedField

/-- Opcode 0x46: `CASL` (R181). -/
def decodeOp46 (n : Nat) : Except DecodeError Instr :=
  if n / 1048576 % 2 = 1 then
    match Scope.ofCode (n / 8388608 % 4), Order.ofCode (n / 2097152 % 4), CasWidth.ofCode (n / 262144 % 4) with
    | some scope, some ord, some width => withT2 n fun tb ta => .casl scope ord width tb ta
    | _, _, _ => .error .reservedField
  else .error .reservedField

/-- Opcode 0x47: `CASG` (R181). -/
def decodeOp47 (n : Nat) : Except DecodeError Instr :=
  if n / 1048576 % 2 = 1 then
    match Scope.ofCode (n / 8388608 % 4), Order.ofCode (n / 2097152 % 4), CasWidth.ofCode (n / 262144 % 4) with
    | some scope, some ord, some width => withT2 n fun tb ta => .casg scope ord width tb ta
    | _, _, _ => .error .reservedField
  else .error .reservedField

/-- Opcode 0x48: `FENCE_ACQ`, `FENCE_REL`, `FENCE_AR`, `FENCE_XP` (R183). -/
def decodeOp48 (n : Nat) : Except DecodeError Instr :=
  if n / 4 % 4 = 0 ∧ n / 32 % 2048 = 0 then
    match Scope.ofCode (n % 4) with
    | some scope => withT1 n fun ta => .fenceAcq ta (bitOf (n / 16 % 2)) scope
    | _ => .error .reservedField
  else if n / 4 % 4 = 1 ∧ n / 32 % 2048 = 0 then
    match Scope.ofCode (n % 4) with
    | some scope => withT1 n fun ta => .fenceRel ta (bitOf (n / 16 % 2)) scope
    | _ => .error .reservedField
  else if n / 4 % 4 = 2 ∧ n / 32 % 2048 = 0 then
    match Scope.ofCode (n % 4) with
    | some scope => withT1 n fun ta => .fenceAr ta (bitOf (n / 16 % 2)) scope
    | _ => .error .reservedField
  else if n / 4 % 16384 = 7 then
    match Scope.ofCode (n % 4) with
    | some scope => withT1 n fun ta => .fenceXp ta scope
    | _ => .error .reservedField
  else .error .reservedField

/-- Opcode 0x49: `WAITA_LEAF`, `WAITA_ROUND`, `WAITA_DEV`, `WAITA_SYS` (R185). -/
def decodeOp49 (n : Nat) : Except DecodeError Instr :=
  if n / 8388608 % 4 = 0 then
    match WaitCond.ofCode (n / 2097152 % 4), AccWidth.ofCode (n / 262144 % 8) with
    | some cond, some width => withT2 n fun tb ta => .waitaLeaf cond width tb ta
    | _, _ => .error .reservedField
  else if n / 8388608 % 4 = 1 then
    match WaitCond.ofCode (n / 2097152 % 4), AccWidth.ofCode (n / 262144 % 8) with
    | some cond, some width => withT2 n fun tb ta => .waitaRound cond width tb ta
    | _, _ => .error .reservedField
  else if n / 8388608 % 4 = 2 then
    match WaitCond.ofCode (n / 2097152 % 4), AccWidth.ofCode (n / 262144 % 8) with
    | some cond, some width => withT2 n fun tb ta => .waitaDev cond width tb ta
    | _, _ => .error .reservedField
  else if n / 8388608 % 4 = 3 then
    match WaitCond.ofCode (n / 2097152 % 4), AccWidth.ofCode (n / 262144 % 8) with
    | some cond, some width => withT2 n fun tb ta => .waitaSys cond width tb ta
    | _, _ => .error .reservedField
  else .error .reservedField

/-- Opcode 0x4A: `MBAR_INIT`, `MBAR_ARRIVE`, `MBAR_EXPECT`, `MBAR_TEST`, `MBAR_WAIT` (R188). -/
def decodeOp4A (n : Nat) : Except DecodeError Instr :=
  if n / 262144 % 128 = 0 then
    withT2 n fun tb ta => .mbarInit tb ta
  else if n / 262144 % 128 = 1 then
    withT2 n fun tb ta => .mbarArrive tb ta
  else if n / 262144 % 128 = 2 then
    withT2 n fun tb ta => .mbarExpect tb ta
  else if n / 262144 % 128 = 3 then
    withT2 n fun tb ta => .mbarTest tb ta
  else if n / 262144 % 128 = 4 then
    withT2 n fun tb ta => .mbarWait tb ta
  else .error .reservedField

/-- Opcode 0x4B: `CP_LD`, `CP_ST`, `CP_SEND`, `CP_MC`, `CP_FIB` (R191, R192, R193, R195). -/
def decodeOp4B (n : Nat) : Except DecodeError Instr :=
  if n / 262144 % 128 = 0 then
    withT2 n fun tb ta => .cpLd tb ta
  else if n / 262144 % 128 = 1 then
    withT2 n fun tb ta => .cpSt tb ta
  else if n / 262144 % 128 = 2 then
    withT2 n fun tb ta => .cpSend tb ta
  else if n / 262144 % 128 = 3 then
    withT2 n fun tb ta => .cpMc tb ta
  else if n / 262144 % 128 = 4 then
    withT2 n fun tb ta => .cpFib tb ta
  else .error .reservedField

/-- Opcode 0x4C: `FLAG` (R331). -/
def decodeOp4C (n : Nat) : Except DecodeError Instr :=
  if n / 262144 % 128 = 0 then
    withT2 n fun tb ta => .flag tb ta
  else .error .reservedField

/-- Opcode 0x4D: `KVOP_MASS`, `KVOP_EVICT`, `KVOP_STAT` (R313, R315, R318). -/
def decodeOp4D (n : Nat) : Except DecodeError Instr :=
  if n / 262144 % 128 = 0 then
    withT2 n fun tb ta => .kvopMass tb ta
  else if n / 262144 % 128 = 1 then
    withT2 n fun tb ta => .kvopEvict tb ta
  else if n / 262144 % 128 = 2 then
    withT2 n fun tb ta => .kvopStat tb ta
  else .error .reservedField

/-- Opcode 0x50: `FLCFG` (R246). -/
def decodeOp50 (n : Nat) : Except DecodeError Instr :=
  if n / 524288 % 64 = 0 then
    match FUnit.ofCode (n / 262144 % 2) with
    | some u => withT2 n fun tb ta => .flcfg u tb ta
    | _ => .error .reservedField
  else .error .reservedField

/-- Opcode 0x51: `FLGO` (R246). -/
def decodeOp51 (n : Nat) : Except DecodeError Instr :=
  if n / 524288 % 64 = 0 then
    match FUnit.ofCode (n / 262144 % 2) with
    | some u => withT2 n fun tb ta => .flgo u tb ta
    | _ => .error .reservedField
  else .error .reservedField

/-- Opcode 0x52: `FLSTAT` (R246). -/
def decodeOp52 (n : Nat) : Except DecodeError Instr :=
  if n / 524288 % 64 = 0 then
    match FUnit.ofCode (n / 262144 % 2) with
    | some u => withT2 n fun tb ta => .flstat u tb ta
    | _ => .error .reservedField
  else .error .reservedField

/-- Opcode 0x53: `FLSTOP` (R246). -/
def decodeOp53 (n : Nat) : Except DecodeError Instr :=
  if n / 524288 % 64 = 0 then
    match FUnit.ofCode (n / 262144 % 2) with
    | some u => withT2 n fun tb ta => .flstop u tb ta
    | _ => .error .reservedField
  else .error .reservedField

/-- Opcode 0x54: `SPUSH` (R264). -/
def decodeOp54 (n : Nat) : Except DecodeError Instr :=
  match PushKind.ofCode (n / 2097152 % 16) with
  | some kind => withT2 n fun tb ta => .spush kind (Fin.ofNat 8 (n / 262144 % 8)) tb ta
  | _ => .error .reservedField

/-- Opcode 0x55: `SPOP` (R265). -/
def decodeOp55 (n : Nat) : Except DecodeError Instr :=
  if n / 4194304 % 8 = 0 then
    withT2 n fun tb ta => .spop (bitOf (n / 2097152 % 2)) (Fin.ofNat 8 (n / 262144 % 8)) tb ta
  else .error .reservedField

/-- Opcode 0x56: `SCTL_STATUS`, `SCTL_DRAIN`, `SCTL_RESET` (R266). -/
def decodeOp56 (n : Nat) : Except DecodeError Instr :=
  if n / 4194304 % 8 = 0 then
    withT2 n fun tb ta => .sctlStatus (.ofCode (n / 262144 % 16)) tb ta
  else if n / 4194304 % 8 = 1 then
    withT2 n fun tb ta => .sctlDrain (.ofCode (n / 262144 % 16)) tb ta
  else if n / 4194304 % 8 = 2 then
    withT2 n fun tb ta => .sctlReset (.ofCode (n / 262144 % 16)) tb ta
  else .error .reservedField

/-- Opcode 0x57: `SBAR` (R267). -/
def decodeOp57 (n : Nat) : Except DecodeError Instr :=
  if n / 262144 % 128 = 0 then
    withT2 n fun tb ta => .sbar tb ta
  else .error .reservedField

/-- Opcode 0x58: `RTSET` (R241). -/
def decodeOp58 (n : Nat) : Except DecodeError Instr :=
  if n / 4194304 % 8 = 0 then
    withT2 n fun tb ta => .rtset (.ofCode (n / 262144 % 16)) tb ta
  else .error .reservedField

/-- Opcode 0x59: `KETTLE` (R196). -/
def decodeOp59 (n : Nat) : Except DecodeError Instr :=
  if n / 262144 % 128 = 0 then
    withT2 n fun tb ta => .kettle tb ta
  else .error .reservedField

/-- Opcode 0x60: `VPCFG` (R214). -/
def decodeOp60 (n : Nat) : Except DecodeError Instr :=
  if n / 262144 % 128 = 0 then
    withT2 n fun tb ta => .vpcfg tb ta
  else .error .reservedField

/-- Opcode 0x61: `VPGO` (R214). -/
def decodeOp61 (n : Nat) : Except DecodeError Instr :=
  if n / 262144 % 128 = 0 then
    withT2 n fun tb ta => .vpgo tb ta
  else .error .reservedField

/-- Opcode 0x62: `VPSTAT` (R215). -/
def decodeOp62 (n : Nat) : Except DecodeError Instr :=
  if n / 262144 % 128 = 0 then
    withT2 n fun tb ta => .vpstat tb ta
  else .error .reservedField

/-- Opcode 0x63: `VPCONST` (R216). -/
def decodeOp63 (n : Nat) : Except DecodeError Instr :=
  if n / 2097152 % 16 = 0 then
    match finOf 6 (n / 262144 % 8) with
    | some stage => withT2 n fun tb ta => .vpconst stage tb ta
    | _ => .error .reservedField
  else .error .reservedField

/-- Opcode 0x64: `TLD_LA`, `TLD_DEV` (R218). -/
def decodeOp64 (n : Nat) : Except DecodeError Instr :=
  if n / 262144 % 128 = 0 then
    withT2 n fun tb ta => .tldLa tb ta
  else if n / 262144 % 128 = 1 then
    withT2 n fun tb ta => .tldDev tb ta
  else .error .reservedField

/-- Opcode 0x65: `TTURN`, `TTURN_EMIT` (R219). -/
def decodeOp65 (n : Nat) : Except DecodeError Instr :=
  if n / 262144 % 128 = 0 then
    withT2 n fun tb ta => .tturn tb ta
  else if n / 2097152 % 16 = 1 then
    withT2 n fun tb ta => .tturnEmit (Fin.ofNat 8 (n / 262144 % 8)) tb ta
  else .error .reservedField

/-- Opcode 0x66: `TST_LA`, `TST_DEV` (R220). -/
def decodeOp66 (n : Nat) : Except DecodeError Instr :=
  if n / 262144 % 128 = 0 then
    withT2 n fun tb ta => .tstLa tb ta
  else if n / 262144 % 128 = 1 then
    withT2 n fun tb ta => .tstDev tb ta
  else .error .reservedField

/-- Opcode 0x67: `MXCMD` (R221). -/
def decodeOp67 (n : Nat) : Except DecodeError Instr :=
  if n / 262144 % 128 = 0 then
    withT2 n fun tb ta => .mxcmd tb ta
  else .error .reservedField

/-- Opcode 0x68: `MXWAIT` (R227). -/
def decodeOp68 (n : Nat) : Except DecodeError Instr :=
  if n / 262144 % 128 = 0 then
    withT2 n fun tb ta => .mxwait tb ta
  else .error .reservedField

/-- Opcode 0x69: `ACCOP_ZERO`, `ACCOP_COPY` (R228). -/
def decodeOp69 (n : Nat) : Except DecodeError Instr :=
  if n / 262144 % 128 = 0 then
    withT2 n fun tb ta => .accopZero tb ta
  else if n / 262144 % 128 = 1 then
    withT2 n fun tb ta => .accopCopy tb ta
  else .error .reservedField

/-- Opcode 0x70: `TLBINV_PAGE`, `TLBINV_CTX`, `TLBINV_ALL` (R166). -/
def decodeOp70 (n : Nat) : Except DecodeError Instr :=
  if n / 262144 % 128 = 0 then
    withT2 n fun tb ta => .tlbinvPage tb ta
  else if n / 262144 % 128 = 1 then
    withT2 n fun tb ta => .tlbinvCtx tb ta
  else if n / 262144 % 128 = 2 then
    withT2 n fun tb ta => .tlbinvAll tb ta
  else .error .reservedField

/-- Opcode 0x71: `APSET` (R168). -/
def decodeOp71 (n : Nat) : Except DecodeError Instr :=
  if n / 262144 % 128 = 0 then
    withT2 n fun tb ta => .apset tb ta
  else .error .reservedField

/-- Opcode 0x72: `CTXSV` (R169). -/
def decodeOp72 (n : Nat) : Except DecodeError Instr :=
  if n / 262144 % 128 = 0 then
    withT2 n fun tb ta => .ctxsv tb ta
  else .error .reservedField

/-- Opcode 0x73: `IMGW` (R170). -/
def decodeOp73 (n : Nat) : Except DecodeError Instr :=
  if n / 262144 % 128 = 0 then
    withT2 n fun tb ta => .imgw tb ta
  else .error .reservedField

/-- Opcode 0x74: `IMGCMT` (R392). -/
def decodeOp74 (n : Nat) : Except DecodeError Instr :=
  if n / 262144 % 128 = 0 then
    withT2 n fun tb ta => .imgcmt tb ta
  else .error .reservedField

/-- Opcode 0x75: `ERET` (R171). -/
def decodeOp75 (n : Nat) : Except DecodeError Instr :=
  if n / 262144 % 128 = 0 then
    noT2 n .eret
  else .error .reservedField

/-- Opcode 0x76: `WFI` (R171). -/
def decodeOp76 (n : Nat) : Except DecodeError Instr :=
  if n / 262144 % 128 = 0 then
    withT2 n fun tb ta => .wfi tb ta
  else .error .reservedField

/-- Opcode 0x78: `PGSET` (R167). -/
def decodeOp78 (n : Nat) : Except DecodeError Instr :=
  if n / 262144 % 128 = 0 then
    withT2 n fun tb ta => .pgset tb ta
  else .error .reservedField

/-- Opcode 0x79: `ELOGRD` (R172). -/
def decodeOp79 (n : Nat) : Except DecodeError Instr :=
  if n / 262144 % 128 = 0 then
    withT2 n fun tb ta => .elogrd tb ta
  else .error .reservedField

/-- Row 0x00 of the opcode map (R131); the other columns are reserved. -/
def decodeRow0 (n col : Nat) : Except DecodeError Instr :=
  match col with
  | 1 => decodeOp01 n
  | 2 => decodeOp02 n
  | 3 => decodeOp03 n
  | 4 => decodeOp04 n
  | 5 => decodeOp05 n
  | 6 => decodeOp06 n
  | 7 => decodeOp07 n
  | 8 => decodeOp08 n
  | 9 => decodeOp09 n
  | 10 => decodeOp0A n
  | 11 => decodeOp0B n
  | 12 => decodeOp0C n
  | 13 => decodeOp0D n
  | 14 => decodeOp0E n
  | 15 => decodeOp0F n
  | _ => .error .reservedOpcode

/-- Row 0x10 of the opcode map (R131); the other columns are reserved. -/
def decodeRow1 (n col : Nat) : Except DecodeError Instr :=
  match col with
  | 0 => decodeOp10 n
  | 1 => decodeOp11 n
  | 2 => decodeOp12 n
  | 3 => decodeOp13 n
  | 4 => decodeOp14 n
  | 5 => decodeOp15 n
  | 6 => decodeOp16 n
  | 7 => decodeOp17 n
  | 8 => decodeOp18 n
  | 9 => decodeOp19 n
  | 10 => decodeOp1A n
  | 11 => decodeOp1B n
  | 12 => decodeOp1C n
  | 13 => decodeOp1D n
  | 14 => decodeOp1E n
  | 15 => decodeOp1F n
  | _ => .error .reservedOpcode

/-- Row 0x20 of the opcode map (R131); the other columns are reserved. -/
def decodeRow2 (n col : Nat) : Except DecodeError Instr :=
  match col with
  | 0 => decodeOp20 n
  | 1 => decodeOp21 n
  | 2 => decodeOp22 n
  | 3 => decodeOp23 n
  | 4 => decodeOp24 n
  | 5 => decodeOp25 n
  | 6 => decodeOp26 n
  | 7 => decodeOp27 n
  | 8 => decodeOp28 n
  | 9 => decodeOp29 n
  | 10 => decodeOp2A n
  | 11 => decodeOp2B n
  | 12 => decodeOp2C n
  | 13 => decodeOp2D n
  | _ => .error .reservedOpcode

/-- Row 0x30 of the opcode map (R131); the other columns are reserved. -/
def decodeRow3 (n col : Nat) : Except DecodeError Instr :=
  match col with
  | 0 => decodeOp30 n
  | 1 => decodeOp31 n
  | 2 => decodeOp32 n
  | 3 => decodeOp33 n
  | 4 => decodeOp34 n
  | 5 => decodeOp35 n
  | 6 => decodeOp36 n
  | 7 => decodeOp37 n
  | 8 => decodeOp38 n
  | 9 => decodeOp39 n
  | 10 => decodeOp3A n
  | 11 => decodeOp3B n
  | 12 => decodeOp3C n
  | 13 => decodeOp3D n
  | _ => .error .reservedOpcode

/-- Row 0x40 of the opcode map (R131); the other columns are reserved. -/
def decodeRow4 (n col : Nat) : Except DecodeError Instr :=
  match col with
  | 0 => decodeOp40 n
  | 1 => decodeOp41 n
  | 2 => decodeOp42 n
  | 3 => decodeOp43 n
  | 4 => decodeOp44 n
  | 5 => decodeOp45 n
  | 6 => decodeOp46 n
  | 7 => decodeOp47 n
  | 8 => decodeOp48 n
  | 9 => decodeOp49 n
  | 10 => decodeOp4A n
  | 11 => decodeOp4B n
  | 12 => decodeOp4C n
  | 13 => decodeOp4D n
  | _ => .error .reservedOpcode

/-- Row 0x50 of the opcode map (R131); the other columns are reserved. -/
def decodeRow5 (n col : Nat) : Except DecodeError Instr :=
  match col with
  | 0 => decodeOp50 n
  | 1 => decodeOp51 n
  | 2 => decodeOp52 n
  | 3 => decodeOp53 n
  | 4 => decodeOp54 n
  | 5 => decodeOp55 n
  | 6 => decodeOp56 n
  | 7 => decodeOp57 n
  | 8 => decodeOp58 n
  | 9 => decodeOp59 n
  | _ => .error .reservedOpcode

/-- Row 0x60 of the opcode map (R131); the other columns are reserved. -/
def decodeRow6 (n col : Nat) : Except DecodeError Instr :=
  match col with
  | 0 => decodeOp60 n
  | 1 => decodeOp61 n
  | 2 => decodeOp62 n
  | 3 => decodeOp63 n
  | 4 => decodeOp64 n
  | 5 => decodeOp65 n
  | 6 => decodeOp66 n
  | 7 => decodeOp67 n
  | 8 => decodeOp68 n
  | 9 => decodeOp69 n
  | _ => .error .reservedOpcode

/-- Row 0x70 of the opcode map (R131); the other columns are reserved. -/
def decodeRow7 (n col : Nat) : Except DecodeError Instr :=
  match col with
  | 0 => decodeOp70 n
  | 1 => decodeOp71 n
  | 2 => decodeOp72 n
  | 3 => decodeOp73 n
  | 4 => decodeOp74 n
  | 5 => decodeOp75 n
  | 6 => decodeOp76 n
  | 8 => decodeOp78 n
  | 9 => decodeOp79 n
  | _ => .error .reservedOpcode

/-- The instruction of a word (R131), or why there is none. -/
def decode (w : Word32) : Except DecodeError Instr :=
  let n := w.toNat
  let col := n / 33554432 % 16
  match n / 536870912 with
  | 0 => decodeRow0 n col
  | 1 => decodeRow1 n col
  | 2 => decodeRow2 n col
  | 3 => decodeRow3 n col
  | 4 => decodeRow4 n col
  | 5 => decodeRow5 n col
  | 6 => decodeRow6 n col
  | 7 => decodeRow7 n col
  | _ => .error .reservedOpcode

/-- The word of an encoded instruction (R131, Tables 7 to 13), from the same tables; an event has none. -/
def encode : Instr → Option Word32
  | .rd g tb ta => some (BitVec.ofNat 32 (0x02000000 + 524288 * g.val + 512 * tb.code + ta.code))
  | .movi ta imm => some (BitVec.ofNat 32 (0x04000000 + 65536 * ta.code + imm.toNat))
  | .movhi ta imm => some (BitVec.ofNat 32 (0x06000000 + 65536 * ta.code + imm.toNat))
  | .mov tb ta => some (BitVec.ofNat 32 (0x08000000 + 512 * tb.code + ta.code))
  | .br cond off => some (BitVec.ofNat 32 (0x0A000000 + 4194304 * cond.code + off.toNat))
  | .call cond off => some (BitVec.ofNat 32 (0x0C000000 + 4194304 * cond.code + off.toNat))
  | .brr => some (BitVec.ofNat 32 (0x0E00FE7F))
  | .rnd deadline => some (BitVec.ofNat 32 (0x107F0000 + deadline.toNat))
  | .exit => some (BitVec.ofNat 32 (0x1200FE7F))
  | .tdone => some (BitVec.ofNat 32 (0x1204FE7F))
  | .trap imm => some (BitVec.ofNat 32 (0x147F0000 + imm.toNat))
  | .bkpt imm => some (BitVec.ofNat 32 (0x167F0000 + imm.toNat))
  | .sysrd ta idx => some (BitVec.ofNat 32 (0x18000000 + 65536 * ta.code + idx.toNat))
  | .syswr idx => some (BitVec.ofNat 32 (0x1A7F0000 + idx.toNat))
  | .spawn tb ta => some (BitVec.ofNat 32 (0x1C000000 + 512 * tb.code + ta.code))
  | .null tb ta => some (BitVec.ofNat 32 (0x1E000000 + 512 * tb.code + ta.code))
  | .add width sgn sat tb ta => some (BitVec.ofNat 32 (0x20000000 + 8388608 * width.code + 4194304 * (bitCode sgn) + 2097152 * (bitCode sat) + 512 * tb.code + ta.code))
  | .sub width sgn sat tb ta => some (BitVec.ofNat 32 (0x22000000 + 8388608 * width.code + 4194304 * (bitCode sgn) + 2097152 * (bitCode sat) + 512 * tb.code + ta.code))
  | .mul width sgn sat tb ta => some (BitVec.ofNat 32 (0x24000000 + 8388608 * width.code + 4194304 * (bitCode sgn) + 2097152 * (bitCode sat) + 512 * tb.code + ta.code))
  | .mulh width sgn tb ta => some (BitVec.ofNat 32 (0x26000000 + 8388608 * width.code + 4194304 * (bitCode sgn) + 512 * tb.code + ta.code))
  | .div width sgn tb ta => some (BitVec.ofNat 32 (0x28000000 + 8388608 * width.code + 4194304 * (bitCode sgn) + 512 * tb.code + ta.code))
  | .rem width sgn tb ta => some (BitVec.ofNat 32 (0x2A000000 + 8388608 * width.code + 4194304 * (bitCode sgn) + 512 * tb.code + ta.code))
  | .and width sgn tb ta => some (BitVec.ofNat 32 (0x2C000000 + 8388608 * width.code + 4194304 * (bitCode sgn) + 512 * tb.code + ta.code))
  | .or width sgn tb ta => some (BitVec.ofNat 32 (0x2E000000 + 8388608 * width.code + 4194304 * (bitCode sgn) + 512 * tb.code + ta.code))
  | .xor width sgn tb ta => some (BitVec.ofNat 32 (0x30000000 + 8388608 * width.code + 4194304 * (bitCode sgn) + 512 * tb.code + ta.code))
  | .andn width sgn tb ta => some (BitVec.ofNat 32 (0x32000000 + 8388608 * width.code + 4194304 * (bitCode sgn) + 512 * tb.code + ta.code))
  | .shl width sgn tb ta => some (BitVec.ofNat 32 (0x34000000 + 8388608 * width.code + 4194304 * (bitCode sgn) + 512 * tb.code + ta.code))
  | .shr width sgn tb ta => some (BitVec.ofNat 32 (0x36000000 + 8388608 * width.code + 4194304 * (bitCode sgn) + 512 * tb.code + ta.code))
  | .sar width sgn tb ta => some (BitVec.ofNat 32 (0x38000000 + 8388608 * width.code + 4194304 * (bitCode sgn) + 512 * tb.code + ta.code))
  | .rot width sgn tb ta => some (BitVec.ofNat 32 (0x3A000000 + 8388608 * width.code + 4194304 * (bitCode sgn) + 512 * tb.code + ta.code))
  | .min width sgn tb ta => some (BitVec.ofNat 32 (0x3C000000 + 8388608 * width.code + 4194304 * (bitCode sgn) + 512 * tb.code + ta.code))
  | .max width sgn tb ta => some (BitVec.ofNat 32 (0x3E000000 + 8388608 * width.code + 4194304 * (bitCode sgn) + 512 * tb.code + ta.code))
  | .cmp width sgn cmp tb ta => some (BitVec.ofNat 32 (0x40000000 + 8388608 * width.code + 4194304 * (bitCode sgn) + 524288 * cmp.code + 512 * tb.code + ta.code))
  | .sel tb ta => some (BitVec.ofNat 32 (0x42000000 + 512 * tb.code + ta.code))
  | .bitcPopc width tb ta => some (BitVec.ofNat 32 (0x44000000 + 8388608 * width.code + 512 * tb.code + ta.code))
  | .bitcClz width tb ta => some (BitVec.ofNat 32 (0x44040000 + 8388608 * width.code + 512 * tb.code + ta.code))
  | .bitcCtz width tb ta => some (BitVec.ofNat 32 (0x44080000 + 8388608 * width.code + 512 * tb.code + ta.code))
  | .bitcBrev width tb ta => some (BitVec.ofNat 32 (0x440C0000 + 8388608 * width.code + 512 * tb.code + ta.code))
  | .bitcBswap width tb ta => some (BitVec.ofNat 32 (0x44100000 + 8388608 * width.code + 512 * tb.code + ta.code))
  | .bfx ta sgn lenM1 lo => some (BitVec.ofNat 32 (0x46000000 + 65536 * ta.code + 4096 * (bitCode sgn) + 64 * lenM1.toNat + lo.toNat))
  | .bfi tb ta => some (BitVec.ofNat 32 (0x48000000 + 512 * tb.code + ta.code))
  | .lea sh tb ta => some (BitVec.ofNat 32 (0x4A000000 + 262144 * sh.toNat + 512 * tb.code + ta.code))
  | .addi ta imm => some (BitVec.ofNat 32 (0x4C000000 + 65536 * ta.code + imm.toNat))
  | .andi ta imm => some (BitVec.ofNat 32 (0x4E000000 + 65536 * ta.code + imm.toNat))
  | .ori ta imm => some (BitVec.ofNat 32 (0x50000000 + 65536 * ta.code + imm.toNat))
  | .xori ta imm => some (BitVec.ofNat 32 (0x52000000 + 65536 * ta.code + imm.toNat))
  | .shfiShl ta cnt => some (BitVec.ofNat 32 (0x54000000 + 65536 * ta.code + cnt.toNat))
  | .shfiShr ta cnt => some (BitVec.ofNat 32 (0x54000040 + 65536 * ta.code + cnt.toNat))
  | .shfiSar ta cnt => some (BitVec.ofNat 32 (0x54000080 + 65536 * ta.code + cnt.toNat))
  | .shfiRot ta cnt => some (BitVec.ofNat 32 (0x540000C0 + 65536 * ta.code + cnt.toNat))
  | .cmpi ta sgn cmp imm => some (BitVec.ofNat 32 (0x56000000 + 65536 * ta.code + 32768 * (bitCode sgn) + 4096 * cmp.code + imm.toNat))
  | .muli ta imm => some (BitVec.ofNat 32 (0x58000000 + 65536 * ta.code + imm.toNat))
  | .adc width tb ta => some (BitVec.ofNat 32 (0x5A000000 + 8388608 * width.code + 512 * tb.code + ta.code))
  | .fadd fmt rm pk sat tb ta => some (BitVec.ofNat 32 (0x60000000 + 8388608 * fmt.code + 1048576 * rm.code + 524288 * (bitCode pk) + 262144 * (bitCode sat) + 512 * tb.code + ta.code))
  | .fsub fmt rm pk sat tb ta => some (BitVec.ofNat 32 (0x62000000 + 8388608 * fmt.code + 1048576 * rm.code + 524288 * (bitCode pk) + 262144 * (bitCode sat) + 512 * tb.code + ta.code))
  | .fmul fmt rm pk sat tb ta => some (BitVec.ofNat 32 (0x64000000 + 8388608 * fmt.code + 1048576 * rm.code + 524288 * (bitCode pk) + 262144 * (bitCode sat) + 512 * tb.code + ta.code))
  | .fma fmt rm pk sat tb ta => some (BitVec.ofNat 32 (0x66000000 + 8388608 * fmt.code + 1048576 * rm.code + 524288 * (bitCode pk) + 262144 * (bitCode sat) + 512 * tb.code + ta.code))
  | .fmin fmt pk prop tb ta => some (BitVec.ofNat 32 (0x68000000 + 8388608 * fmt.code + 524288 * (bitCode pk) + 262144 * (bitCode prop) + 512 * tb.code + ta.code))
  | .fmax fmt pk prop tb ta => some (BitVec.ofNat 32 (0x6A000000 + 8388608 * fmt.code + 524288 * (bitCode pk) + 262144 * (bitCode prop) + 512 * tb.code + ta.code))
  | .fcmp fmt cmp tb ta => some (BitVec.ofNat 32 (0x6C000000 + 8388608 * fmt.code + 1048576 * cmp.code + 512 * tb.code + ta.code))
  | .fcvt ta sat rm dst src => some (BitVec.ofNat 32 (0x6E000000 + 65536 * ta.code + 2048 * (bitCode sat) + 256 * rm.code + 16 * dst.code + src.code))
  | .fsfuRcp ta => some (BitVec.ofNat 32 (0x70000000 + 65536 * ta.code))
  | .fsfuRsq ta => some (BitVec.ofNat 32 (0x70000001 + 65536 * ta.code))
  | .fsfuSqrt ta => some (BitVec.ofNat 32 (0x70000002 + 65536 * ta.code))
  | .fsfuExp2 ta => some (BitVec.ofNat 32 (0x70000003 + 65536 * ta.code))
  | .fsfuLog2 ta => some (BitVec.ofNat 32 (0x70000004 + 65536 * ta.code))
  | .fsfuTanh ta => some (BitVec.ofNat 32 (0x70000005 + 65536 * ta.code))
  | .fsfuSigm ta => some (BitVec.ofNat 32 (0x70000006 + 65536 * ta.code))
  | .fsfuSinp ta => some (BitVec.ofNat 32 (0x70000007 + 65536 * ta.code))
  | .fsfuCosp ta => some (BitVec.ofNat 32 (0x70000008 + 65536 * ta.code))
  | .fclass fmt tb ta => some (BitVec.ofNat 32 (0x72000000 + 8388608 * fmt.code + 512 * tb.code + ta.code))
  | .qscale ta amax elem => some (BitVec.ofNat 32 (0x74000000 + 65536 * ta.code + 8 * amax.code + elem.code))
  | .qcvt fmt rm sat tb ta => some (BitVec.ofNat 32 (0x76000000 + 8388608 * fmt.code + 1048576 * rm.code + 524288 * (bitCode sat) + 512 * tb.code + ta.code))
  | .qdeq fmt rm sat tb ta => some (BitVec.ofNat 32 (0x78000000 + 8388608 * fmt.code + 1048576 * rm.code + 524288 * (bitCode sat) + 512 * tb.code + ta.code))
  | .fsgnAbs fmt tb ta => some (BitVec.ofNat 32 (0x7A000000 + 8388608 * fmt.code + 512 * tb.code + ta.code))
  | .fsgnNeg fmt tb ta => some (BitVec.ofNat 32 (0x7A040000 + 8388608 * fmt.code + 512 * tb.code + ta.code))
  | .fsgnCopysign fmt tb ta => some (BitVec.ofNat 32 (0x7A080000 + 8388608 * fmt.code + 512 * tb.code + ta.code))
  | .ldl scope acq width tb ta => some (BitVec.ofNat 32 (0x80000000 + 8388608 * scope.code + 2097152 * (bitCode acq) + 262144 * width.code + 512 * tb.code + ta.code))
  | .stl scope rel width tb ta => some (BitVec.ofNat 32 (0x82000000 + 8388608 * scope.code + 4194304 * (bitCode rel) + 262144 * width.code + 512 * tb.code + ta.code))
  | .ldg scope acq width tb ta => some (BitVec.ofNat 32 (0x84000000 + 8388608 * scope.code + 2097152 * (bitCode acq) + 262144 * width.code + 512 * tb.code + ta.code))
  | .stg scope rel width tb ta => some (BitVec.ofNat 32 (0x86000000 + 8388608 * scope.code + 4194304 * (bitCode rel) + 262144 * width.code + 512 * tb.code + ta.code))
  | .atomlAdd scope ord tb ta => some (BitVec.ofNat 32 (0x88000000 + 8388608 * scope.code + 2097152 * ord.code + 512 * tb.code + ta.code))
  | .atomlAnd scope ord tb ta => some (BitVec.ofNat 32 (0x88040000 + 8388608 * scope.code + 2097152 * ord.code + 512 * tb.code + ta.code))
  | .atomlOr scope ord tb ta => some (BitVec.ofNat 32 (0x88080000 + 8388608 * scope.code + 2097152 * ord.code + 512 * tb.code + ta.code))
  | .atomlXor scope ord tb ta => some (BitVec.ofNat 32 (0x880C0000 + 8388608 * scope.code + 2097152 * ord.code + 512 * tb.code + ta.code))
  | .atomlXchg scope ord tb ta => some (BitVec.ofNat 32 (0x88100000 + 8388608 * scope.code + 2097152 * ord.code + 512 * tb.code + ta.code))
  | .atomlSmin scope ord tb ta => some (BitVec.ofNat 32 (0x88140000 + 8388608 * scope.code + 2097152 * ord.code + 512 * tb.code + ta.code))
  | .atomlSmax scope ord tb ta => some (BitVec.ofNat 32 (0x88180000 + 8388608 * scope.code + 2097152 * ord.code + 512 * tb.code + ta.code))
  | .atomlFadd scope ord tb ta => some (BitVec.ofNat 32 (0x881C0000 + 8388608 * scope.code + 2097152 * ord.code + 512 * tb.code + ta.code))
  | .atomgAdd scope ord tb ta => some (BitVec.ofNat 32 (0x8A000000 + 8388608 * scope.code + 2097152 * ord.code + 512 * tb.code + ta.code))
  | .atomgAnd scope ord tb ta => some (BitVec.ofNat 32 (0x8A040000 + 8388608 * scope.code + 2097152 * ord.code + 512 * tb.code + ta.code))
  | .atomgOr scope ord tb ta => some (BitVec.ofNat 32 (0x8A080000 + 8388608 * scope.code + 2097152 * ord.code + 512 * tb.code + ta.code))
  | .atomgXor scope ord tb ta => some (BitVec.ofNat 32 (0x8A0C0000 + 8388608 * scope.code + 2097152 * ord.code + 512 * tb.code + ta.code))
  | .atomgXchg scope ord tb ta => some (BitVec.ofNat 32 (0x8A100000 + 8388608 * scope.code + 2097152 * ord.code + 512 * tb.code + ta.code))
  | .atomgSmin scope ord tb ta => some (BitVec.ofNat 32 (0x8A140000 + 8388608 * scope.code + 2097152 * ord.code + 512 * tb.code + ta.code))
  | .atomgSmax scope ord tb ta => some (BitVec.ofNat 32 (0x8A180000 + 8388608 * scope.code + 2097152 * ord.code + 512 * tb.code + ta.code))
  | .atomgFadd scope ord tb ta => some (BitVec.ofNat 32 (0x8A1C0000 + 8388608 * scope.code + 2097152 * ord.code + 512 * tb.code + ta.code))
  | .casl scope ord width tb ta => some (BitVec.ofNat 32 (0x8C100000 + 8388608 * scope.code + 2097152 * ord.code + 262144 * width.code + 512 * tb.code + ta.code))
  | .casg scope ord width tb ta => some (BitVec.ofNat 32 (0x8E100000 + 8388608 * scope.code + 2097152 * ord.code + 262144 * width.code + 512 * tb.code + ta.code))
  | .fenceAcq ta xp scope => some (BitVec.ofNat 32 (0x90000000 + 65536 * ta.code + 16 * (bitCode xp) + scope.code))
  | .fenceRel ta xp scope => some (BitVec.ofNat 32 (0x90000004 + 65536 * ta.code + 16 * (bitCode xp) + scope.code))
  | .fenceAr ta xp scope => some (BitVec.ofNat 32 (0x90000008 + 65536 * ta.code + 16 * (bitCode xp) + scope.code))
  | .fenceXp ta scope => some (BitVec.ofNat 32 (0x9000001C + 65536 * ta.code + scope.code))
  | .waitaLeaf cond width tb ta => some (BitVec.ofNat 32 (0x92000000 + 2097152 * cond.code + 262144 * width.code + 512 * tb.code + ta.code))
  | .waitaRound cond width tb ta => some (BitVec.ofNat 32 (0x92800000 + 2097152 * cond.code + 262144 * width.code + 512 * tb.code + ta.code))
  | .waitaDev cond width tb ta => some (BitVec.ofNat 32 (0x93000000 + 2097152 * cond.code + 262144 * width.code + 512 * tb.code + ta.code))
  | .waitaSys cond width tb ta => some (BitVec.ofNat 32 (0x93800000 + 2097152 * cond.code + 262144 * width.code + 512 * tb.code + ta.code))
  | .mbarInit tb ta => some (BitVec.ofNat 32 (0x94000000 + 512 * tb.code + ta.code))
  | .mbarArrive tb ta => some (BitVec.ofNat 32 (0x94040000 + 512 * tb.code + ta.code))
  | .mbarExpect tb ta => some (BitVec.ofNat 32 (0x94080000 + 512 * tb.code + ta.code))
  | .mbarTest tb ta => some (BitVec.ofNat 32 (0x940C0000 + 512 * tb.code + ta.code))
  | .mbarWait tb ta => some (BitVec.ofNat 32 (0x94100000 + 512 * tb.code + ta.code))
  | .cpLd tb ta => some (BitVec.ofNat 32 (0x96000000 + 512 * tb.code + ta.code))
  | .cpSt tb ta => some (BitVec.ofNat 32 (0x96040000 + 512 * tb.code + ta.code))
  | .cpSend tb ta => some (BitVec.ofNat 32 (0x96080000 + 512 * tb.code + ta.code))
  | .cpMc tb ta => some (BitVec.ofNat 32 (0x960C0000 + 512 * tb.code + ta.code))
  | .cpFib tb ta => some (BitVec.ofNat 32 (0x96100000 + 512 * tb.code + ta.code))
  | .flag tb ta => some (BitVec.ofNat 32 (0x98000000 + 512 * tb.code + ta.code))
  | .kvopMass tb ta => some (BitVec.ofNat 32 (0x9A000000 + 512 * tb.code + ta.code))
  | .kvopEvict tb ta => some (BitVec.ofNat 32 (0x9A040000 + 512 * tb.code + ta.code))
  | .kvopStat tb ta => some (BitVec.ofNat 32 (0x9A080000 + 512 * tb.code + ta.code))
  | .flcfg u tb ta => some (BitVec.ofNat 32 (0xA0000000 + 262144 * u.code + 512 * tb.code + ta.code))
  | .flgo u tb ta => some (BitVec.ofNat 32 (0xA2000000 + 262144 * u.code + 512 * tb.code + ta.code))
  | .flstat u tb ta => some (BitVec.ofNat 32 (0xA4000000 + 262144 * u.code + 512 * tb.code + ta.code))
  | .flstop u tb ta => some (BitVec.ofNat 32 (0xA6000000 + 262144 * u.code + 512 * tb.code + ta.code))
  | .spush kind port tb ta => some (BitVec.ofNat 32 (0xA8000000 + 2097152 * kind.code + 262144 * port.val + 512 * tb.code + ta.code))
  | .spop nb port tb ta => some (BitVec.ofNat 32 (0xAA000000 + 2097152 * (bitCode nb) + 262144 * port.val + 512 * tb.code + ta.code))
  | .sctlStatus port tb ta => some (BitVec.ofNat 32 (0xAC000000 + 262144 * port.code + 512 * tb.code + ta.code))
  | .sctlDrain port tb ta => some (BitVec.ofNat 32 (0xAC400000 + 262144 * port.code + 512 * tb.code + ta.code))
  | .sctlReset port tb ta => some (BitVec.ofNat 32 (0xAC800000 + 262144 * port.code + 512 * tb.code + ta.code))
  | .sbar tb ta => some (BitVec.ofNat 32 (0xAE000000 + 512 * tb.code + ta.code))
  | .rtset port tb ta => some (BitVec.ofNat 32 (0xB0000000 + 262144 * port.code + 512 * tb.code + ta.code))
  | .kettle tb ta => some (BitVec.ofNat 32 (0xB2000000 + 512 * tb.code + ta.code))
  | .vpcfg tb ta => some (BitVec.ofNat 32 (0xC0000000 + 512 * tb.code + ta.code))
  | .vpgo tb ta => some (BitVec.ofNat 32 (0xC2000000 + 512 * tb.code + ta.code))
  | .vpstat tb ta => some (BitVec.ofNat 32 (0xC4000000 + 512 * tb.code + ta.code))
  | .vpconst stage tb ta => some (BitVec.ofNat 32 (0xC6000000 + 262144 * stage.val + 512 * tb.code + ta.code))
  | .tldLa tb ta => some (BitVec.ofNat 32 (0xC8000000 + 512 * tb.code + ta.code))
  | .tldDev tb ta => some (BitVec.ofNat 32 (0xC8040000 + 512 * tb.code + ta.code))
  | .tturn tb ta => some (BitVec.ofNat 32 (0xCA000000 + 512 * tb.code + ta.code))
  | .tturnEmit port tb ta => some (BitVec.ofNat 32 (0xCA200000 + 262144 * port.val + 512 * tb.code + ta.code))
  | .tstLa tb ta => some (BitVec.ofNat 32 (0xCC000000 + 512 * tb.code + ta.code))
  | .tstDev tb ta => some (BitVec.ofNat 32 (0xCC040000 + 512 * tb.code + ta.code))
  | .mxcmd tb ta => some (BitVec.ofNat 32 (0xCE000000 + 512 * tb.code + ta.code))
  | .mxwait tb ta => some (BitVec.ofNat 32 (0xD0000000 + 512 * tb.code + ta.code))
  | .accopZero tb ta => some (BitVec.ofNat 32 (0xD2000000 + 512 * tb.code + ta.code))
  | .accopCopy tb ta => some (BitVec.ofNat 32 (0xD2040000 + 512 * tb.code + ta.code))
  | .tlbinvPage tb ta => some (BitVec.ofNat 32 (0xE0000000 + 512 * tb.code + ta.code))
  | .tlbinvCtx tb ta => some (BitVec.ofNat 32 (0xE0040000 + 512 * tb.code + ta.code))
  | .tlbinvAll tb ta => some (BitVec.ofNat 32 (0xE0080000 + 512 * tb.code + ta.code))
  | .apset tb ta => some (BitVec.ofNat 32 (0xE2000000 + 512 * tb.code + ta.code))
  | .ctxsv tb ta => some (BitVec.ofNat 32 (0xE4000000 + 512 * tb.code + ta.code))
  | .imgw tb ta => some (BitVec.ofNat 32 (0xE6000000 + 512 * tb.code + ta.code))
  | .imgcmt tb ta => some (BitVec.ofNat 32 (0xE8000000 + 512 * tb.code + ta.code))
  | .eret => some (BitVec.ofNat 32 (0xEA00FE7F))
  | .wfi tb ta => some (BitVec.ofNat 32 (0xEC000000 + 512 * tb.code + ta.code))
  | .pgset tb ta => some (BitVec.ofNat 32 (0xF0000000 + 512 * tb.code + ta.code))
  | .elogrd tb ta => some (BitVec.ofNat 32 (0xF2000000 + 512 * tb.code + ta.code))
  | .blockFetch _ => none
  | .blockCommit _ => none
  | .deadlineOverrun _ => none
  | .noProgressWatchdog _ => none
  | .faultReport _ => none
  | .irrevocableGrant _ => none
  | .roundCommit _ => none
  | .roundVoid _ => none
  | .commitWatchdog _ => none
  | .voidLimit _ => none
  | .waitaWake _ => none
  | .remoteWatchReread _ _ => none
  | .kettleComplete _ _ => none
  | .submissionDoorbell _ _ _ => none
  | .fwsqDoorbell => none
  | .cqheadWrite _ _ => none
  | .hostRegisterWrite _ _ => none
  | .hostBar2Access _ _ _ => none
  | .launchAdmission _ => none
  | .requestFrame _ => none
  | .spineDispatch => none
  | .entryAging _ => none
  | .swapWaitExpiry _ => none
  | .bind _ => none
  | .contextSave _ => none
  | .copyNodeRun _ => none
  | .moverLineLand _ _ => none
  | .nodeRetire _ _ => none
  | .responseDelivery _ => none
  | .spawnBacklogAdmit _ => none
  | .contextUnload _ => none
  | .rangeEviction _ => none
  | .tileSwap _ => none
  | .mxCommandStart _ => none
  | .mxCommandComplete _ => none
  | .vpStep _ => none
  | .scannerStep _ _ => none
  | .scannerRefill _ _ => none
  | .skipReceive _ _ => none
  | .isectStep _ _ => none
  | .unionStep _ _ => none
  | .repeatStep _ _ => none
  | .reduceStep _ _ => none
  | .spaccStep _ _ => none
  | .lwriteStep _ _ => none
  | .gatherStep _ _ => none
  | .scatterStep _ _ => none
  | .filterStep _ _ => none
  | .coalesceStep _ _ => none
  | .agenStep _ _ => none
  | .tokenDelivery _ _ => none
  | .creditReturn _ _ => none
  | .meshFlitRetry _ _ _ _ => none
  | .meshLinkFailure _ _ => none
  | .tlbLookup _ => none
  | .pageWalk _ => none
  | .memoryPortService _ => none
  | .hbmScrub _ _ => none
  | .roundBufferError _ _ => none
  | .kvGateCheck _ => none
  | .kvEviction _ => none
  | .countedWriteIssue _ => none
  | .putArrival _ => none
  | .pushArrival _ => none
  | .ratomArrival _ => none
  | .rloadArrival _ => none
  | .rdataArrival _ => none
  | .flagArrival _ => none
  | .flagComplete _ => none
  | .flagdoneArrival _ => none
  | .resendArrival _ => none
  | .gapTimerExpiry _ => none
  | .flagTimerExpiry _ _ => none
  | .tailWriteTimeout _ => none
  | .rloadTimerExpiry _ => none
  | .flezalFlitError _ _ => none
  | .flezalLinkDown _ => none
  | .packetAgeDiscard _ => none
  | .packageLost _ => none
  | .channelAllocate _ => none
  | .deviceBoot _ => none
  | .folioCalibrationDone _ => none
  | .quirePowerTransition _ => none
  | .quireWake _ => none
  | .quireWakeTimeout _ => none
  | .governorLimit _ => none
  | .thermalEvent _ _ => none
  | .imageCommitSwitch _ _ => none
  | .controlCoreHalt _ => none
  | .handlerEntry _ => none
  | .contextLoad _ _ => none
  | .folioAdmission _ _ _ => none
  | .spawnCommitHoldTimeout _ => none
  | .settledPeriodEnd _ _ => none
  | .transitPacketArrival _ => none

/-- The instruction that the decoder reads from a row of the opcode table: a Lenwick word is 32 bits, and a shorter
row has its higher bits zero. -/
def decodeTableWord (nbits w : Nat) : Option Instr :=
  if nbits ≤ 32 then (decode (BitVec.ofNat 32 (w % 2 ^ nbits))).toOption else none

end Sys2Proof
end

