-- ==== Sys2Proof/Machine/Bits.lean ====
section
/-!
DEFINITION. Bit fields, byte order, small tables keyed by a number, and the memory list of the model.
-/

namespace Sys2Proof.Machine

/-- Bits [hi:lo] of a number, as R137 writes `Bits(v, hi, lo)`. -/
def bits (v hi lo : Nat) : Nat := v / 2 ^ lo % 2 ^ (hi + 1 - lo)

/-- `SignExtend(v, n)` of R137: the low n bits as two's complement. -/
def signExtend (v n : Nat) : Int :=
  let m := v % 2 ^ n
  if 2 * m < 2 ^ n then (m : Int) else (m : Int) - 2 ^ n

/-- The 64 low bits of an integer. -/
def wordOfInt (x : Int) : Word := BitVec.ofInt 64 x

/-- The 64 low bits of a number. -/
def wordOfNat (x : Nat) : Word := BitVec.ofNat 64 x

/-- One bit of a number. -/
def testBit (v i : Nat) : Bool := v / 2 ^ i % 2 == 1

/-- 1 or 0. -/
def natOfBool (b : Bool) : Nat := if b then 1 else 0

/-- The numbers 0 to n - 1. -/
def upTo : Nat → List Nat
  | 0 => []
  | n + 1 => upTo n ++ [n]

/-- A number as n little-endian bytes (R2). -/
def bytesOf : Nat → Nat → List Byte
  | 0, _ => []
  | n + 1, v => BitVec.ofNat 8 v :: bytesOf n (v / 256)

/-- The number that little-endian bytes hold (R2). -/
def natOfBytes : List Byte → Nat
  | [] => 0
  | b :: bs => b.toNat + 256 * natOfBytes bs

/-- Bytes [off, off + n) of a list; a missing byte is zero. -/
def slice (bs : List Byte) (off n : Nat) : List Byte :=
  (upTo n).map fun i => bs.getD (off + i) 0

/-- The field of n bytes at an offset of a record. -/
def field (bs : List Byte) (off n : Nat) : Nat := natOfBytes (slice bs off n)

/-- A record with bytes put at an offset. -/
def putBytes (bs : List Byte) (off : Nat) (v : List Byte) : List Byte :=
  bs.take off ++ v ++ bs.drop (off + v.length)

/-- n zero bytes. -/
def zeros (n : Nat) : List Byte := List.replicate n 0

/-! ### Tables: lists of key and value, keys rising -/

/-- A table keyed by a number. -/
abbrev Table (α : Type) := List (Nat × α)

/-- The value of a key. -/
def tget {α : Type} : Table α → Nat → Option α
  | [], _ => none
  | (k, v) :: t, a => if k = a then some v else tget t a

/-- A table with a key set. -/
def tset {α : Type} : Table α → Nat → α → Table α
  | [], a, x => [(a, x)]
  | (k, v) :: t, a, x =>
    if a < k then (a, x) :: (k, v) :: t
    else if a = k then (a, x) :: t
    else (k, v) :: tset t a x

/-- A table without a key. -/
def tdel {α : Type} : Table α → Nat → Table α
  | [], _ => []
  | (k, v) :: t, a => if k = a then t else (k, v) :: tdel t a

/-- A list with the element at an index replaced. -/
def lset {α : Type} : List α → Nat → α → List α
  | [], _, _ => []
  | _ :: xs, 0, y => y :: xs
  | x :: xs, i + 1, y => x :: lset xs i y

/-- A list with the element at an index updated. -/
def lmod {α : Type} : List α → Nat → (α → α) → List α
  | [], _, _ => []
  | x :: xs, 0, f => f x :: xs
  | x :: xs, i + 1, f => x :: lmod xs i f

/-! ### Sorting -/

/-- Insertion by a strict order that keeps equals in place. -/
def insertBy {α : Type} (before : α → α → Bool) (x : α) : List α → List α
  | [] => [x]
  | y :: ys => if before x y then x :: y :: ys else y :: insertBy before x ys
def sortBy {α : Type} (before : α → α → Bool) : List α → List α
  | [] => []
  | x :: xs => insertBy before x (sortBy before xs)

/-! ### Memory: address and byte, addresses strictly rising, no zero byte listed -/

/-- A memory whose unlisted bytes read zero (log 1). -/
abbrev Memory := List Host.Cell

/-- One byte of a memory. -/
def Memory.get : Memory → Nat → Byte
  | [], _ => 0
  | (k, v) :: m, a => if k = a then v else Memory.get m a

/-- A memory with one byte written, in the canonical form. -/
def Memory.put : Memory → Nat → Byte → Memory
  | [], a, b => if b = 0 then [] else [(a, b)]
  | (k, v) :: m, a, b =>
    if a < k then (if b = 0 then (k, v) :: m else (a, b) :: (k, v) :: m)
    else if a = k then (if b = 0 then m else (a, b) :: m)
    else (k, v) :: Memory.put m a b

/-- Every address of a memory is above a bound, rising, and no byte listed is zero. -/
def Memory.above : Memory → Nat → Bool
  | [], _ => true
  | (k, v) :: m, n => decide (n ≤ k) && !(decide (v = 0)) && Memory.above m (k + 1)

/-- The canonical form. -/
def Memory.wf (m : Memory) : Bool := Memory.above m 0

/-- n bytes from an address up. -/
def Memory.read (m : Memory) (a : Nat) : Nat → List Byte
  | 0 => []
  | n + 1 => Memory.get m a :: Memory.read m (a + 1) n

/-- A memory with bytes written from an address up. -/
def Memory.write : Memory → Nat → List Byte → Memory
  | m, _, [] => m
  | m, a, b :: bs => Memory.write (Memory.put m a b) (a + 1) bs

/-- A memory with every byte of [lo, hi) cleared. -/
def Memory.clear (m : Memory) (lo hi : Nat) : Memory :=
  m.filter fun c => c.1 < lo || hi ≤ c.1

end Sys2Proof.Machine
end

