-- ==== Sys2Proof/Machine/Float.lean ====
section
/-!
DEFINITION. Number formats, rounding and floating-point arithmetic (R92 to R108, R157 to R164), exact before rounding.
-/

namespace Sys2Proof.Machine

/-- A flag set in the layout of `FPFLAGS` (R89). -/
abbrev Flags6 := BitVec 6
def flNV : Flags6 := 1
def flDZ : Flags6 := 2
def flOF : Flags6 := 4
def flUF : Flags6 := 8
def flNX : Flags6 := 16
def flSAT : Flags6 := 32

/-! ### Formats (R92) -/

/-- Bits of a data format (R92, R95). -/
def fmtWidth : DataFmt → Nat
  | .f32 => 32 | .bf16 => 16 | .f16 => 16 | .e4m3 => 8 | .e5m2 => 8 | .e3m2 => 6 | .e2m3 => 6 | .e2m1 => 4
  | .s8 => 8 | .z8 => 8 | .s16 => 16 | .z16 => 16 | .s32 => 32 | .z32 => 32 | .s64 => 64 | .z64 => 64
/-- Mantissa bits of a float format. -/
def fmtMant : DataFmt → Nat
  | .f32 => 23 | .bf16 => 7 | .f16 => 10 | .e4m3 => 3 | .e5m2 => 2 | .e3m2 => 2 | .e2m3 => 3 | .e2m1 => 1
  | _ => 0
/-- Exponent bias of a float format. -/
def fmtBias : DataFmt → Nat
  | .f32 => 127 | .bf16 => 127 | .f16 => 15 | .e4m3 => 7 | .e5m2 => 15 | .e3m2 => 3 | .e2m3 => 1 | .e2m1 => 1
  | _ => 0
/-- Magnitude code of the greatest finite value. -/
def fmtMax : DataFmt → Nat
  | .f32 => 0x7F7FFFFF | .bf16 => 0x7F7F | .f16 => 0x7BFF | .e4m3 => 0x7E | .e5m2 => 0x7B | .e3m2 => 0x1F
  | .e2m3 => 0x1F | .e2m1 => 0x7 | _ => 0
/-- The format is a float format. -/
def fmtIsFloat : DataFmt → Bool
  | .f32 | .bf16 | .f16 | .e4m3 | .e5m2 | .e3m2 | .e2m3 | .e2m1 => true
  | _ => false
/-- The format is F32, F16 or BF16, the formats that `DAZ` and `FTZ` act on (R102). -/
def fmtIsWide : DataFmt → Bool
  | .f32 | .bf16 | .f16 => true
  | _ => false
/-- The format has infinities. -/
def fmtHasInf : DataFmt → Bool
  | .f32 | .bf16 | .f16 | .e5m2 => true
  | _ => false
/-- An S format, or 64 read as signed (R130). -/
def fmtSigned : DataFmt → Bool
  | .s8 | .s16 | .s32 | .s64 => true
  | _ => false
/-- The canonical NaN (R94); the formats without a NaN give +0. -/
def fmtNaN : DataFmt → Nat
  | .f32 => 0x7FC00000 | .bf16 => 0x7FC0 | .f16 => 0x7E00 | .e4m3 => 0x7F | .e5m2 => 0x7E | _ => 0
/-- The sign bit of a code. -/
def signOf (fmt : DataFmt) (neg : Bool) : Nat := if neg then 2 ^ (fmtWidth fmt - 1) else 0
/-- The code of an infinity. -/
def fmtInf (fmt : DataFmt) (neg : Bool) : Nat := signOf fmt neg + (fmtMax fmt + 1)
/-- The data format of a float format field. -/
def floatData : FloatFmt → DataFmt
  | .f32 => .f32 | .bf16 => .bf16 | .f16 => .f16
def qfmtData : QFmt → DataFmt
  | .f32 => .f32 | .bf16 => .bf16
def elemData : ElemFmt → DataFmt
  | .e4m3 => .e4m3 | .e5m2 => .e5m2 | .e3m2 => .e3m2 | .e2m3 => .e2m3 | .e2m1 => .e2m1

/-- What a code of a float format stands for: a finite value is (−1)^neg · mant · 2^exp. -/
inductive FVal where
  | nan (signalling : Bool)
  | inf (neg : Bool)
  | fin (neg : Bool) (mant : Nat) (exp : Int)
deriving DecidableEq, Repr

/-- The value of a code (R92, R94); bits above the format's width are ignored. -/
def decodeF (fmt : DataFmt) (code : Nat) : FVal :=
  let c := code % 2 ^ fmtWidth fmt
  let neg := 2 ^ (fmtWidth fmt - 1) ≤ c
  let mag := c % 2 ^ (fmtWidth fmt - 1)
  let m := fmtMant fmt
  if fmtMax fmt < mag then
    if fmtHasInf fmt ∧ mag = fmtMax fmt + 1 then .inf neg
    else .nan (fmtHasInf fmt && mag / 2 ^ (m - 1) % 2 == 0)
  else if mag < 2 ^ m then .fin neg mag (1 - (fmtBias fmt : Int) - m)
  else .fin neg (2 ^ m + mag % 2 ^ m) ((mag / 2 ^ m : Nat) - (fmtBias fmt : Int) - m)

/-! ### Stochastic bits (R100) -/

/-- `Mix64` (R100). -/
def mix64 (z : Word) : Word :=
  let z := (z ^^^ (z >>> 30)) * 0xBF58476D1CE4E5B9
  let z := (z ^^^ (z >>> 27)) * 0x94D049BB133111EB
  z ^^^ (z >>> 31)

/-- The operand w of `SRBits` for lane 0 (R100), from the seed, leaf, strand, round and `OPID`. -/
def srWord (seed : Word) (leaf strand round opid : Nat) : Word :=
  seed ^^^ wordOfNat (leaf * 2 ^ 48) ^^^ wordOfNat (strand * 2 ^ 46) ^^^ wordOfNat (round * 2 ^ 24)
    ^^^ wordOfNat (opid * 16)

/-- `SRBits` of a lane (R100). -/
def srLane (w : Word) (lane : Nat) : Nat := (mix64 (w ^^^ wordOfNat lane)).toNat % 65536

/-- The rounding environment of an operation: mode, `FTZ`, `DAZ`, and the operand of
`Mix64` for lane 0 that stochastic bits are drawn from (R97 to R102). -/
structure FEnv where
  rm  : Rm := .rne
  ftz : Bool := false
  daz : Bool := false
  sr  : Word := 0

/-- An exact value, or, with `sticky`, a value strictly between mant · 2^exp and (mant + 1) · 2^exp. -/
structure Exact where
  neg    : Bool
  mant   : Nat
  exp    : Int
  sticky : Bool := false
deriving DecidableEq, Repr

/-- Overflow of a finite value (Table 3 of R98). -/
def overflowTo (fmt : DataFmt) (neg : Bool) (rm : Rm) (sat : Bool) : Nat × Flags6 :=
  let mx := signOf fmt neg + fmtMax fmt
  if fmtIsWide fmt then
    if sat then (mx, flSAT ||| flNX)
    else
      let toInf := match rm with
        | .rtz => false
        | .rdn => neg
        | .rup => !neg
        | _ => true
      (if toInf then fmtInf fmt neg else mx, flOF ||| flNX)
  else if fmt = .e4m3 ∨ fmt = .e5m2 then
    if sat then (mx, flSAT ||| flNX) else (fmtNaN fmt, flOF ||| flNX)
  else (mx, flSAT ||| flNX)

/-- Whether a magnitude of whole part n and remainder rem of 2^k rounds up (R97, R99). -/
def roundsUp (rm : Rm) (neg sticky : Bool) (n rem k sr : Nat) : Bool :=
  let half := 2 ^ k
  match rm with
  | .rne => half < 2 * rem || (2 * rem == half && (sticky || n % 2 == 1))
  | .rna => half ≤ 2 * rem && k != 0
  | .rtz => false
  | .rdn => neg && (rem != 0 || sticky)
  | .rup => !neg && (rem != 0 || sticky)
  | .sr => 65536 ≤ rem * 65536 / half + sr % 65536
  | .dyn => false

/-- `RoundTo` of R98 for a nonzero exact value, with flushing and tininess of R102 and R103; `lane` picks the
stochastic bits. -/
def roundTo (env : FEnv) (fmt : DataFmt) (x : Exact) (sat : Bool) (lane : Nat) : Nat × Flags6 :=
  let m := fmtMant fmt
  let e : Int := (x.mant.log2 : Int) + x.exp
  let em : Int := max e (1 - (fmtBias fmt : Int))
  let qe : Int := em - m
  let k : Nat := (qe - x.exp).toNat
  let n : Nat := if x.exp ≤ qe then x.mant / 2 ^ k else x.mant * 2 ^ (x.exp - qe).toNat
  let rem : Nat := if x.exp ≤ qe then x.mant % 2 ^ k else 0
  let inexact := rem != 0 || x.sticky
  let n' := if roundsUp env.rm x.neg x.sticky n rem k (srLane env.sr lane) then n + 1 else n
  let mag : Nat := (em + (fmtBias fmt : Int) - 1).toNat * 2 ^ m + n'
  if fmtMax fmt < mag then overflowTo fmt x.neg env.rm sat
  else
    let tiny := mag < 2 ^ m
    if tiny ∧ env.ftz ∧ fmtIsWide fmt then (signOf fmt x.neg, flUF ||| flNX)
    else (signOf fmt x.neg + mag,
      (if inexact then flNX else 0) ||| (if tiny && inexact then flUF else 0))

/-- `RoundTo`, an exact zero keeping its sign (R98). -/
def roundZ (env : FEnv) (fmt : DataFmt) (x : Exact) (sat : Bool) (lane : Nat) : Nat × Flags6 :=
  if x.mant = 0 ∧ !x.sticky then (signOf fmt x.neg, 0) else roundTo env fmt x sat lane

/-- A source read under `DAZ`, with NV for a signalling NaN (R94, R102). -/
def readF (env : FEnv) (fmt : DataFmt) (code : Nat) : FVal × Flags6 :=
  match decodeF fmt code with
  | .nan s => (.nan s, if s then flNV else 0)
  | .inf n => (.inf n, 0)
  | .fin n mant e =>
    if env.daz ∧ fmtIsWide fmt ∧ mant < 2 ^ fmtMant fmt then (.fin n 0 e, 0) else (.fin n mant e, 0)

def FVal.isNaN : FVal → Bool
  | .nan _ => true
  | _ => false
def FVal.neg : FVal → FVal
  | .nan s => .nan s
  | .inf n => .inf (!n)
  | .fin n m e => .fin (!n) m e
def FVal.sign : FVal → Bool
  | .nan _ => false
  | .inf n => n
  | .fin n _ _ => n

/-- The exact sum of two finite values, with the sign of a zero sum by `ZeroSign` (R157). -/
def addExact (rm : Rm) (n1 : Bool) (m1 : Nat) (e1 : Int) (n2 : Bool) (m2 : Nat) (e2 : Int) : Exact :=
  if m1 = 0 ∧ m2 = 0 then ⟨if n1 == n2 then n1 else decide (rm = .rdn), 0, 0, false⟩
  else
    let e := if m1 = 0 then e2 else if m2 = 0 then e1 else min e1 e2
    let a : Int := (if n1 then -1 else 1) * (if m1 = 0 then 0 else (m1 * 2 ^ (e1 - e).toNat : Nat))
    let b : Int := (if n2 then -1 else 1) * (if m2 = 0 then 0 else (m2 * 2 ^ (e2 - e).toNat : Nat))
    let s := a + b
    if s = 0 then ⟨decide (rm = .rdn), 0, 0, false⟩ else ⟨decide (s < 0), s.natAbs, e, false⟩

/-- The sum of two values with one rounding (R157). -/
def sumF (env : FEnv) (fmt : DataFmt) (p q : FVal) (sat : Bool) (lane : Nat) : Nat × Flags6 :=
  match p, q with
  | .nan _, _ | _, .nan _ => (fmtNaN fmt, 0)
  | .inf a, .inf b => if a == b then (if sat then (signOf fmt a + fmtMax fmt, flSAT) else (fmtInf fmt a, 0))
      else (fmtNaN fmt, flNV)
  | .inf a, .fin .. | .fin .., .inf a =>
    if sat then (signOf fmt a + fmtMax fmt, flSAT) else (fmtInf fmt a, 0)
  | .fin n1 m1 e1, .fin n2 m2 e2 => roundZ env fmt (addExact env.rm n1 m1 e1 n2 m2 e2) sat lane

/-- The exact product, or none for 0 × ∞ (R157). -/
def mulF (a b : FVal) : Option FVal :=
  match a, b with
  | .nan s, _ => some (.nan s)
  | _, .nan s => some (.nan s)
  | .inf n, .inf k => some (.inf (n != k))
  | .inf n, .fin k m _ => if m = 0 then none else some (.inf (n != k))
  | .fin k m _, .inf n => if m = 0 then none else some (.inf (n != k))
  | .fin n1 m1 e1, .fin n2 m2 e2 => some (.fin (n1 != n2) (m1 * m2) (e1 + e2))

/-- The scalar operations of R157. -/
inductive FOp where
  | add | sub | mul | fma
deriving DecidableEq, Repr

/-- One lane of `FADD`, `FSUB`, `FMUL` or `FMA` (R157). -/
def fopLane (env : FEnv) (fmt : DataFmt) (op : FOp) (sat : Bool) (lane a b c : Nat) : Nat × Flags6 :=
  let (x, f1) := readF env fmt a
  let (y, f2) := readF env fmt b
  let (z, f3) := if op = .fma then readF env fmt c else (.fin false 0 0, 0)
  let src := f1 ||| f2 ||| f3
  let prod := mulF x y
  let r : Nat × Flags6 :=
    if x.isNaN || y.isNaN || z.isNaN then
      (fmtNaN fmt, if op = .fma ∧ prod = none then flNV else 0)
    else match op with
    | .add => sumF env fmt x y sat lane
    | .sub => sumF env fmt x y.neg sat lane
    | .mul =>
      match prod with
      | none => (fmtNaN fmt, flNV)
      | some (.inf n) => if sat then (signOf fmt n + fmtMax fmt, flSAT) else (fmtInf fmt n, 0)
      | some (.fin n m e) => roundZ env fmt ⟨n, m, e, false⟩ sat lane
      | some (.nan _) => (fmtNaN fmt, 0)
    | .fma =>
      match prod with
      | none => (fmtNaN fmt, flNV)
      | some p => sumF env fmt p z sat lane
  (r.1, r.2 ||| src)

/-- Order of two non-NaN values; −0 and +0 compare equal (R159). -/
def cmpF : FVal → FVal → Ordering
  | .inf a, .inf b => if a == b then .eq else if a then .lt else .gt
  | .inf a, _ => if a then .lt else .gt
  | _, .inf b => if b then .gt else .lt
  | .fin n1 m1 e1, .fin n2 m2 e2 =>
    let e := min e1 e2
    let a : Int := (if n1 then -1 else 1) * (m1 * 2 ^ (e1 - e).toNat : Nat)
    let b : Int := (if n2 then -1 else 1) * (m2 * 2 ^ (e2 - e).toNat : Nat)
    compare a b
  | _, _ => .eq

/-- The code that a minimum or maximum selects: a subnormal under `DAZ` is the zero of its sign (R158). -/
def selectCode (env : FEnv) (fmt : DataFmt) (code : Nat) : Nat :=
  match (readF env fmt code).1 with
  | .fin n 0 _ => signOf fmt n
  | _ => code % 2 ^ fmtWidth fmt

/-- One lane of `FMIN` (`isMax` false) or `FMAX` (R158). -/
def fminLane (env : FEnv) (fmt : DataFmt) (isMax prop : Bool) (a b : Nat) : Nat × Flags6 :=
  let (x, f1) := readF env fmt a
  let (y, f2) := readF env fmt b
  let f := f1 ||| f2
  if x.isNaN && y.isNaN then (fmtNaN fmt, f)
  else if x.isNaN then (if prop then fmtNaN fmt else selectCode env fmt b, f)
  else if y.isNaN then (if prop then fmtNaN fmt else selectCode env fmt a, f)
  else
    let less := match cmpF x y with
      | .lt => true
      | .gt => false
      | .eq => x.sign || !y.sign
    (if less != isMax then selectCode env fmt a else selectCode env fmt b, f)

/-- A float comparison (R159). -/
def fcmpLane (env : FEnv) (fmt : DataFmt) (cc : FCmp) (a b : Nat) : Bool × Flags6 :=
  let (x, f1) := readF env fmt a
  let (y, f2) := readF env fmt b
  let un := x.isNaN || y.isNaN
  let o := cmpF x y
  match cc with
  | .eq => (!un && o == .eq, f1 ||| f2)
  | .ne => (un || o != .eq, f1 ||| f2)
  | .un => (un, f1 ||| f2)
  | .lt => (!un && o == .lt, f1 ||| f2 ||| if un then flNV else 0)
  | .le => (!un && o != .gt, f1 ||| f2 ||| if un then flNV else 0)
  | .gt => (!un && o == .gt, f1 ||| f2 ||| if un then flNV else 0)
  | .ge => (!un && o != .lt, f1 ||| f2 ||| if un then flNV else 0)

/-- The class mask of `FCLASS` (R131, R162). -/
def fclassMask (fmt : DataFmt) (code : Nat) : Nat :=
  match decodeF fmt code with
  | .nan s => if s then 256 else 512
  | .inf n => if n then 1 else 128
  | .fin n m _ =>
    if m = 0 then (if n then 8 else 16)
    else if m < 2 ^ fmtMant fmt then (if n then 4 else 32) else (if n then 2 else 64)

/-- A special or finite source converted to a float format (Table 4 of R98, R160). -/
def convertF (env : FEnv) (dst : DataFmt) (v : FVal) (sat : Bool) (lane : Nat) : Nat × Flags6 :=
  match v with
  | .nan s =>
    if fmtNaN dst = 0 then (0, flNV) else (fmtNaN dst, if s then flNV else 0)
  | .inf n =>
    let mx := signOf dst n + fmtMax dst
    if sat then (mx, flSAT)
    else if fmtHasInf dst then (fmtInf dst n, 0)
    else if dst = .e4m3 then (fmtNaN dst, flOF)
    else (mx, flSAT)
  | .fin n m e => roundZ env dst ⟨n, m, e, false⟩ sat lane

/-- Rounding of a magnitude to an integer by a mode (R108): the whole number and whether it was inexact. -/
def roundInt (env : FEnv) (x : Exact) (lane : Nat) : Nat × Bool :=
  if 0 ≤ x.exp then (x.mant * 2 ^ x.exp.toNat, false)
  else
    let k := (-x.exp).toNat
    let n := x.mant / 2 ^ k
    let rem := x.mant % 2 ^ k
    (if roundsUp env.rm x.neg false n rem k (srLane env.sr lane) then n + 1 else n, rem != 0)

/-- Range of an integer format. -/
def intLo (fmt : DataFmt) : Int := if fmtSigned fmt then -(2 ^ (fmtWidth fmt - 1) : Nat) else 0
def intHi (fmt : DataFmt) : Int :=
  if fmtSigned fmt then (2 ^ (fmtWidth fmt - 1) : Nat) - 1 else (2 ^ fmtWidth fmt : Nat) - 1

/-- A float converted to an integer format (R108). -/
def convertFI (env : FEnv) (dst : DataFmt) (v : FVal) (lane : Nat) : Int × Flags6 :=
  match v with
  | .nan _ => (0, flNV)
  | .inf n => (if n then intLo dst else intHi dst, flNV)
  | .fin n m e =>
    let (k, inex) := roundInt env ⟨n, m, e, false⟩ lane
    let x : Int := if n then -(k : Int) else k
    if x < intLo dst then (intLo dst, flNV)
    else if intHi dst < x then (intHi dst, flNV)
    else (x, if inex then flNX else 0)

/-- An integer read from the low bits of a register in its format (R160). -/
def readInt (fmt : DataFmt) (v : Nat) : Int :=
  if fmtSigned fmt then signExtend v (fmtWidth fmt) else (v % 2 ^ fmtWidth fmt : Nat)

/-- `FCVT` (R160): the 64-bit result and the flags. -/
def fcvt (env : FEnv) (src dst : DataFmt) (sat : Bool) (lane v : Nat) : Word × Flags6 :=
  if fmtIsFloat src then
    let (x, f) := readF env src v
    if fmtIsFloat dst then
      let r := convertF env dst x sat lane
      (wordOfNat r.1, r.2 ||| f)
    else
      let r := convertFI env dst x lane
      (wordOfInt r.1, r.2 ||| f)
  else
    let x := readInt src v
    if fmtIsFloat dst then
      let r := roundZ env dst ⟨decide (x < 0), x.natAbs, 0, false⟩ sat lane
      (wordOfNat r.1, r.2)
    else if sat then
      if x < intLo dst then (wordOfInt (intLo dst), flSAT)
      else if intHi dst < x then (wordOfInt (intHi dst), flSAT)
      else (wordOfInt x, 0)
    else (wordOfInt (readInt dst (x % 2 ^ 64).toNat), 0)

/-! ### Scales (R105 to R107) -/

/-- emax of an element format (R105). -/
def elemEmax : ElemFmt → Int
  | .e4m3 => 8 | .e5m2 => 15 | .e3m2 => 4 | .e2m3 => 2 | .e2m1 => 2

/-- `QSCALE` of an amax (R105, R163): its sign is ignored. -/
def qscaleOf (env : FEnv) (src : DataFmt) (elem : ElemFmt) (code : Nat) : Nat × Flags6 :=
  match (readF env src code).1 with
  | .nan _ => (255, flSAT)
  | .inf _ => (255, flSAT)
  | .fin _ 0 _ => (0, 0)
  | .fin _ m e => ((max ((m.log2 : Int) + e - elemEmax elem) (-127) |> min 127) + 127 |>.toNat, 0)

/-- `QCVT` of a source under a scale code (R106). -/
def qcvtOf (env : FEnv) (src : DataFmt) (elem : ElemFmt) (scale : Nat) (sat : Bool) (lane code : Nat) :
    Nat × Flags6 :=
  let (x, f) := readF env src code
  if scale = 255 then (fmtNaN (elemData elem), flSAT)
  else match x with
    | .fin n m e =>
      let r := roundZ env (elemData elem) ⟨n, m, e - (scale : Int) + 127, false⟩ sat lane
      (r.1, r.2 ||| f)
    | v =>
      let r := convertF env (elemData elem) v sat lane
      (r.1, r.2 ||| f)

/-- `QDEQ` of an element code under a scale code (R107). -/
def qdeqOf (env : FEnv) (dst : DataFmt) (elem : ElemFmt) (scale : Nat) (sat : Bool) (lane code : Nat) :
    Nat × Flags6 :=
  if scale = 255 then (fmtNaN dst, 0)
  else match decodeF (elemData elem) code with
    | .nan s => (fmtNaN dst, if s then flNV else 0)
    | .inf n => if sat then (signOf dst n + fmtMax dst, flSAT) else (fmtInf dst n, 0)
    | .fin n m e => roundZ env dst ⟨n, m, e + (scale : Int) - 127, false⟩ sat lane

/-- F32 addition with RNE, subnormals kept, as an atomic unit performs it (R114). -/
def f32AtomicAdd (a b : Nat) : Nat := (fopLane {} .f32 .add false 0 a b 0).1

end Sys2Proof.Machine
end

