-- ==== Sys2Proof/Machine/Types.lean ====
section
/-!
DEFINITION. The parts of the machine's state: tokens, strands, leaves, gatherings, the Spine's records, requests to
the memory system, Flezal channels, control cores.
-/

namespace Sys2Proof.Machine

/-! ### Streams -/

/-- Token kinds (R231); kinds 6 to 15 are reserved and no unit of the part makes them. -/
inductive TokKind where
  | data | stop | done | empty | turn | skip
deriving DecidableEq, Repr, Inhabited

/-- A token (R230): control word fields, 16 lanes, the epoch that only a SKIP carries in routing bits (R252), and `late` for one
that the block core sent after a DONE without a new start (R232). -/
structure Token where
  kind   : TokKind
  level  : Nat := 0
  deckle : BitVec 16 := 0
  lanes  : List Word32 := List.replicate 16 0
  epoch  : Nat := 0
  late   : Bool := false
deriving DecidableEq, Repr, Inhabited

/-- An input port: held tokens, oldest first; the ring position of the head (R450); DONE taken (R266); an error in a word of the head's
slot, and whether it can be corrected, which is found as the head is removed (R390). -/
structure InPort where
  held  : List Token := []
  head  : Nat := 0
  dseen : Bool := false
  flaw  : Option Bool := none
deriving DecidableEq, Repr, Inhabited

/-- An output port and its channel (R14): free count, tokens in flight in send order, credits in flight, DONE sent, tokens that
have entered it since the bind or the last void, and the strand, round and block number of the last DONE of the block core (R232). -/
structure OutPort where
  free     : Nat := 0
  inflight : List Token := []
  credits  : Nat := 0
  dseen    : Bool := false
  sent     : Nat := 0
  closer   : Option (Nat × Nat × Nat) := none
deriving DecidableEq, Repr, Inhabited

/-- A fibre that a scanner is emitting (R250, R251): its parent position, whether its source is at hand, the next coordinate,
index or block of its source and the end of them, ring elements not yet consumed, the coordinate below which a SKIP discards
(R252), elements (coordinate, ref) read and not yet emitted, and of a refill whose descriptor is not written yet the pos pair read and the
elements that stand in the ring. -/
structure Fibre where
  parent : Nat
  ready  : Bool := false
  next   : Nat := 0
  stop   : Nat := 0
  have_  : Nat := 0
  skip   : Nat := 0
  elems  : List (Nat × Nat) := []
  pos    : Option (Nat × Nat) := none
  filled : Nat := 0
deriving DecidableEq, Repr, Inhabited

/-- Mode state of a flow unit, whose layout in the round base is not specified (R247). All modes: the level of the last token of
each input if it was a STOP, the tokens of a step whose accesses are not all performed (`REPEAT`: the token that its elements came
in), the next access of it and the values read, elements of an output token not yet full, and the input tokens that they come from
(`COALESCE`). Scanners: parents left, pending S0, root stage, fibre, ring write position, STOPs emitted. `ISECT` and `UNION`:
elements and marks at the heads of both sides, last coordinates, SKIP targets, STOPs taken. `REPEAT`: the element in force and those
behind it. Others: sum, drain position and its stop, counts of elements and fibres, chain tokens, loop indices, and the end of the
generated stream. -/
structure FlowState where
  begun   : Bool := false
  seen    : List (Option Nat) := List.replicate 4 none
  tops    : List Nat := [0, 0, 0, 0]
  toks    : List Token := []
  lane    : Nat := 0
  vals    : List Word32 := []
  packed  : List (List Word32) := []
  packing : Nat := 0
  parents : List Nat := []
  pendS0  : Bool := false
  root    : Nat := 0
  fibre   : Option Fibre := none
  wpos    : Nat := 0
  stops   : Nat := 0
  heads   : List (List (Nat × Nat)) := [[], []]
  marks   : List (Option Token) := [none, none]
  lastCrd : List (Option Nat) := [none, none]
  skipped : List (Option Nat) := [none, none]
  taken   : List Nat := [0, 0]
  took    : Bool := false
  repl    : Word32 := 0
  queue   : List Word32 := []
  sum     : Word32 := 0
  drain   : Option Nat := none
  level   : Nat := 0
  count   : Nat := 0
  fibres  : Nat := 0
  chain   : Nat := 0
  chainUp : Bool := false
  index   : List Nat := []
  closed  : Bool := false
deriving DecidableEq, Repr, Inhabited

/-- A flow unit (R246): its record, the fields of `FLSTAT`, its counters, the tokens of each input that it has taken and those that
it has finished since the bind (R267), the mode latched at `FLGO` with the strand that issued it, the rounding counter of R100,
tokens made but not yet sent (output index, token), an `FLSTOP` that waits for the token boundary, and its mode state. -/
structure FlowUnit where
  record : List Byte := []
  cfgd   : Bool := false
  done   : Bool := false
  run    : Bool := false
  clamp  : Bool := false
  flags  : BitVec 6 := 0
  tokout : Nat := 0
  rdpos  : Nat := 0
  incnt  : List Nat := [0, 0, 0, 0]
  outcnt : List Nat := [0, 0, 0]
  taken  : List Nat := [0, 0, 0, 0]
  settled : List Nat := [0, 0, 0, 0]
  fpmode : BitVec 5 := 0
  issuer : Nat := 0
  draws  : Nat := 0
  outq   : List (Nat × Token) := []
  ending : Bool := false
  failed : Bool := false
  stopping : Bool := false
  hold   : Option Nat := none
  st     : FlowState := {}
deriving DecidableEq, Repr, Inhabited

/-- The vector pipeline (R201, R206, R212). `asrc` counts the tokens read of an accumulator tile (R211), after every
command of `after`; `seen` and `tops` are the last mark of each input (a STOP of level k is k + 1, a TURN 0) and the highest so far
(R232); `taken` and `settled` are the input steps taken and those whose tokens have all been sent (R267). -/
structure VPipe where
  record  : List Byte := []
  cfgd    : Bool := false
  done    : Bool := false
  run     : Bool := false
  flags   : BitVec 6 := 0
  fpmode  : BitVec 5 := 0
  issuer  : Nat := 0
  consts  : List Word32 := List.replicate 6 0
  acc     : List Word32 := List.replicate 16 0
  accMask : BitVec 16 := 0
  accAny  : Bool := false
  osmax   : Word32 := 0xFF800000
  draws   : List Nat := List.replicate 6 0
  taken   : Nat := 0
  settled : Nat := 0
  asrc    : Nat := 0
  after   : List Nat := []
  outq    : List Token := []
  ending  : Bool := false
  failed  : Bool := false
  seen    : List (Option Nat) := List.replicate 3 none
  tops    : List Nat := [0, 0, 0]
deriving DecidableEq, Repr, Inhabited

/-! ### Blocks and strands -/

/-- An operand of a slot (R120, R121): producers that have not delivered yet, and the value if one delivered a value.
An operand that nothing targets has `targeted` false. -/
structure Operand where
  targeted : Bool := false
  pending  : Nat := 0
  value    : Option Word := none
deriving DecidableEq, Repr, Inhabited

/-- How far an instruction of a block has got: not fired; fired and waiting to perform; performed and owing a
delivery; finished. -/
inductive SlotStatus where
  | idle | waiting | owing | done
deriving DecidableEq, Repr, Inhabited

/-- One slot of a block in flight. `ports` are its sends that have not entered or been nullified (R87); `latch`,
`phase`, `hold` and `arg` keep what a waiting instruction has read and done. -/
structure Slot where
  word   : Word32
  l      : Operand := {}
  r      : Operand := {}
  t      : Operand := {}
  status : SlotStatus := .idle
  acted  : Bool := false
  ports  : List Nat := []
  latch  : List Byte := []
  phase  : Nat := 0
  arg    : Nat := 0
  hold   : Option Nat := none
deriving DecidableEq, Repr, Inhabited

/-- Where a performed class-C instruction goes (R127). -/
inductive Transfer where
  | goto (target : Nat)
  | finish (tdone : Bool)
  | eret
deriving DecidableEq, Repr, Inhabited

/-- A block in flight (R29, R30): header address and word, slots, pending register writes, `SYSWR` writes, raised
flags, outputs produced, control transfers performed and the slot of the last, class-C instructions settled, the `RND`
and the traps performed, and the system registers as held at its start (R88, R147). -/
structure Block where
  addr     : Nat
  head     : Word32
  slots    : List Slot
  regs     : List (Nat × Word) := []
  sys      : List (Nat × Word) := []
  flags    : BitVec 6 := 0
  produced : Nat := 0
  moves    : List Transfer := []
  cslot    : Nat := 0
  settled  : Nat := 0
  rnd      : Option Nat := none
  traps    : List (Nat × Bool × Nat) := []
  start    : Table Word := []
deriving DecidableEq, Repr, Inhabited

/-- Wait states of a strand (R450). -/
inductive WaitState where
  | running | atRnd | finished | sleeping | stalled
deriving DecidableEq, Repr, Inhabited

/-- A watch armed by a failing `WAITA` (R185, R447): leaf or device line, access width code, the bytes the failing
read saw, whether the line is homed elsewhere, and a kept wake. -/
structure Watch where
  device : Bool
  line   : Nat
  va     : Nat
  size   : Nat
  seen   : Nat
  remote : Option Nat := none
  woken  : Bool := false
deriving DecidableEq, Repr, Inhabited

/-- One strand (R29, R32, R88): the next block address, the block in flight, the per-strand system registers, the deadline recorded
in this round and the last one recorded, `FENCE.XP` in force (R183), the watch of a failed `WAITA`, a fault reported, the record
that held its block fetch (R397), the waits that have passed the swap-wait threshold (R47: slots, 64 for a sleep) and the records
that hold it (R380); `prev` is the block whose transfer named the next address, its slot and word (R375). -/
structure Strand where
  pc       : Nat := 0
  prev     : Option (Nat × Nat × Word32) := none
  block    : Option Block := none
  wait     : WaitState := .running
  fpmode   : BitVec 5 := 0
  fpflags  : BitVec 6 := 0
  dlrem    : Nat := 4095
  blkinrnd : Nat := 0
  recorded : Option Nat := none
  lastDl   : Nat := 4095
  xp       : Bool := false
  watch    : Option Watch := none
  willSleep : Bool := false
  faulted  : Bool := false
  held     : Option Nat := none
  overdue  : List Nat := []
  traps    : List Nat := []
deriving DecidableEq, Repr, Inhabited

/-- The part of a strand that the round base keeps (Table 3 of chapter 2), with the registers of R88. -/
structure StrandBase where
  pc      : Nat := 0
  dlrem   : Nat := 4095
  wait    : WaitState := .running
  fpmode  : BitVec 5 := 0
  fpflags : BitVec 6 := 0
  watch   : Option Watch := none
  traps   : List Nat := []
  lastDl  : Nat := 4095
  prev    : Option (Nat × Nat × Word32) := none
deriving DecidableEq, Repr, Inhabited

/-- A delivery that an instruction still owes: its strand, its slot, and how many blocks of the round had committed
when it issued, which tells whether its block is still in flight (R173). -/
structure Claim where
  core : CoreId
  slot : Nat
  blk  : Nat
deriving DecidableEq, Repr, Inhabited

/-! ### Leaves and quires -/

/-- A `TTURN` that has issued (R219): its claim, and the commands accepted before it. -/
structure Turn where
  claim  : Claim
  before : List Nat
  emit   : Option Nat
deriving DecidableEq, Repr, Inhabited

/-- The round base of a leaf (R35, R450): its state as it stood at the last commit, bind or restore. -/
structure RoundBase where
  inputs   : List InPort := []
  routes   : List Word := []
  f0       : FlowUnit := {}
  f1       : FlowUnit := {}
  vp       : VPipe := {}
  strands  : List StrandBase := []
  swap     : Bool := false
  rfull    : Bool := false
  vfull    : Bool := false
  turn     : Option Turn := none
  accFlags : List (BitVec 6) := []
  outSeen  : List Bool := []
deriving DecidableEq, Repr, Inhabited

/-- A send of the block core that waits to enter its port (R87): `value` is none for `SPUSH` and `TTURN.emit`, which
send when they perform. -/
structure SendReq where
  strand : Nat
  slot   : Nat
  blk    : Nat
  port   : Nat
  value  : Option Token
deriving DecidableEq, Repr, Inhabited

/-- A leaf (R11, R73, R85). `mem` is the SRAM by physical offset: `swap` says which 4 KiB stand behind recto (R83). `cycle` is the
strand and slot that the cycle under way issues second (R31). After a commit at tick `stale`, a DISCARD byte outside the ranges
`touched` written since is undefined (R81). -/
structure Leaf where
  gath     : Option Nat := none
  partw    : Nat := 0
  mem      : Memory := []
  journal  : List (Nat × Bool × List Byte) := []
  poison   : List Nat := []
  stale    : Option Nat := none
  touched  : List (Nat × Nat) := []
  base     : RoundBase := {}
  strands  : List Strand := []
  last     : Nat := 0
  cycle    : Option (Nat × Nat) := none
  routes   : List Word := List.replicate 16 0
  inputs   : List InPort := List.replicate 8 {}
  outputs  : List OutPort := List.replicate 8 {}
  sendq    : List SendReq := []
  f0       : FlowUnit := {}
  f1       : FlowUnit := {}
  vp       : VPipe := {}
  swap     : Bool := false
  rfull    : Bool := false
  vfull    : Bool := false
  turn     : Option Turn := none
  accFlags : List (BitVec 6) := List.replicate 8 0
  blocks   : List (Nat × List Word32) := []
deriving DecidableEq, Repr, Inhabited

/-- A command of a matrix cell (R221): number, gathering, command word, issuing leaf and strand, the `FTZ` taken at
issue (R102); the lines read of it, with the rows, scales and factors that they hold; and the lines of C written, with the flags
raised so far. -/
structure MxCmd where
  num    : Nat
  gath   : Nat
  word   : Nat
  leaf   : Nat
  strand : Nat
  ftz    : Bool
  rowsA  : List Byte := []
  rowsB  : List Byte := []
  sclA   : List Byte := []
  sclB   : List Byte := []
  read   : Nat := 0
  wrote  : Nat := 0
  flags  : BitVec 6 := 0
deriving DecidableEq, Repr, Inhabited

/-- Power states of a quire (R346). -/
inductive Power where
  | active | idle | retain | off
deriving DecidableEq, Repr, Inhabited

/-- A quire: its power state, waking, mapped out (R351, R437), and its matrix cell's queue and started commands (R221). -/
structure Quire where
  power   : Power := .off
  waking  : Bool := false
  mapped  : Bool := false
  queue   : List MxCmd := []
  started : List MxCmd := []
  lastMx  : Nat := 15
deriving DecidableEq, Repr, Inhabited

/-! ### Gatherings -/

/-- A node of a gathering with its placement (R27, R58): node index, origin quire, width, height, configuration slot,
partition word, entry block, `CFG`, `OCC`. -/
structure NodePlace where
  node  : Nat
  qx    : Nat
  qy    : Nat
  w     : Nat
  h     : Nat
  slot  : Nat
  partw : Nat
  code  : Nat
  cfg   : Nat
  occ   : Nat
  recAt : Nat
deriving DecidableEq, Repr, Inhabited

/-- Which address an access names (R356 `ASP`). -/
inductive AddrKind where
  | none | va | pa | la | channel
deriving DecidableEq, Repr, Inhabited

/-- The varying part of an error record (R356): class, severity, source, gathering and instance fields, address and
syndrome. -/
structure Report where
  cls    : Nat
  sev    : Nat
  folio  : Nat := 0
  uclass : Nat := 1
  uindex : Nat := 0
  ctx    : Option Nat := none
  tag    : Option Nat := none
  asp    : AddrKind := .none
  addr   : Nat := 0
  synd   : List Byte := zeros 16
  round  : Nat := 0
  where_ : Nat := 0
deriving DecidableEq, Repr, Inhabited

/-- Which access met a serviceable fault, for recurrence (R397): requester code, unit, page, class. -/
structure Recur where
  who  : Nat
  page : Nat
  cls  : Nat
deriving DecidableEq, Repr, Inhabited

/-- What stands in a round controller's queue (R42, R371, R396), in order of receipt. `again` is the record that held the
access, when the access is a retry (R397); `lost` is a token whose slot word cannot be corrected (R390). -/
inductive CtlReq where
  | grant
  | void (save : Bool)
  | fault (r : Report)
  | lost (r : Report)
  | service (r : Report) (who : Recur) (core : CoreId) (slot : Option Nat) (unit : Nat) (again : Option Nat)
deriving DecidableEq, Repr, Inhabited

/-- An aperture register (R168, R280). -/
structure Aperture where
  wbase : Nat := 0
  wsize : Nat := 0
  back  : Nat := 0
  xform : Nat := 0
deriving DecidableEq, Repr, Inhabited

/-- What a staged item does when it is published (R39, R313): a store, a mass addition, or a store through an
aperture. -/
inductive StagedOp where
  | store (data : List Byte)
  | mass (v : Word32)
  | aperture (data : List Byte) (ap : Aperture)
deriving DecidableEq, Repr, Inhabited

/-- An item that a round buffer holds (R39): port, PA, home package, what it does, and whether its
source was poisoned (R403), and the strand that made it. Items are published in the order in
which they were staged, so a done word follows the lines of its copy (R194). -/
structure Staged where
  port : Nat
  pa   : Nat
  home : Nat
  op   : StagedOp
  bad  : Bool := false
  core : Option CoreId := none
deriving DecidableEq, Repr, Inhabited

/-- A queued child launch (R198). -/
structure Spawn where
  graph : Nat
  entry : Nat
  arg   : Nat
deriving DecidableEq, Repr, Inhabited

/-- A gathering (R27): the instance it runs for, its nodes, bounding rectangle in quires, round, and what its round controller
holds. `ranges` are those that its nodes declare (R26), `recur` are the faults of the replay that follows a service, `retried` those
of stalled accesses, each with the record that held it (R397). `deferred` is set while a save that found no endpaper area is owed
(R408). `saving` is set while it stands at its round base for a save; `cut` is 1 when a commit has published and 2 when it has
recorded occupancy, and waits at step 6 (R34, R62, R72). -/
structure Gathering where
  ctx      : Nat
  inst     : Nat
  tag      : Nat
  retire   : Nat := 0
  nodes    : List NodePlace := []
  ranges   : List (Nat × Nat) := []
  qx       : Nat := 0
  qy       : Nat := 0
  qw       : Nat := 1
  qh       : Nat := 1
  round    : Nat := 0
  irrev    : Bool := false
  final    : Bool := false
  voids    : Nat := 0
  spawns   : List Spawn := []
  staged   : List Staged := []
  queue    : List CtlReq := []
  mcast    : List Word := List.replicate 16 0
  kettles  : Table (List Claim) := []
  frozen   : Option Nat := none
  recur    : List Recur := []
  retried  : List (Nat × Recur) := []
  saveDue  : Bool := false
  deferred : Bool := false
  saving   : Bool := false
  cut      : Nat := 0
  pushes   : List (Nat × Nat) := []
  used     : List Nat := []
  retiring : Bool := false
  saved    : Option Nat := none
  area     : Nat := 0
deriving DecidableEq, Repr, Inhabited

/-! ### Requests to the memory system -/

/-- What a request of a strand does at its memory port (R177 to R185, R318). -/
inductive ReqOp where
  | load (signed : Bool)
  | store (data : List Byte)
  | atomic (op : Nat) (arg : Word)
  | cas (expect new : Word) (signed : Bool)
  | waita (cond : Nat) (cmp : Word) (signed : Bool) (sys : Bool)
deriving DecidableEq, Repr, Inhabited

/-- Where a request stands: at its TLB slice, in the walkers' queue, held for the grant of R42, at its memory port,
sent as an RLOAD with a tag, held by an open record, or performed, with its response on the way (R295). -/
inductive ReqStage where
  | lookup | walk | grant | port | remote (tag : Nat) | stalled | answered (v : Option Word)
deriving DecidableEq, Repr, Inhabited

/-- A request of a strand to device memory (R173, R275), with its order bits (R291); in a walkers' queue its place in the order of
arrival, and the level and table that its walk reads next (R272, R277); of a remote read the bytes that its gathering had staged when
its RLOAD left (R328). -/
structure Request where
  core  : CoreId
  slot  : Nat
  blk   : Nat
  acq   : Bool
  rel   : Bool
  gath  : Option Nat
  ctx   : Nat
  va    : Nat
  size  : Nat
  write : Bool
  act   : Bool
  scope : Nat
  op    : ReqOp
  stage : ReqStage := .lookup
  pa    : Nat := 0
  home  : Nat := 0
  hold  : Option Nat := none
  sent  : Nat := 0
  upto  : Nat := 0
  seq   : Nat := 0
  level : Nat := 4
  table : Nat := 0
  laid  : List (Option Byte) := []
deriving DecidableEq, Repr, Inhabited

/-- A re-read of a remote watched line that has left and has no answer yet (R447): the watching strand, the gathering and context it
runs for, the home and address, the watched bytes' number, and the request tag, resends and channel number of its RLOAD (R426). -/
structure Reread where
  core  : CoreId
  gath  : Option Nat
  ctx   : Nat
  home  : Nat
  pa    : Nat
  size  : Nat
  tag   : Nat
  sent  : Nat := 0
  upto  : Nat := 0
deriving DecidableEq, Repr, Inhabited

/-- A cached leaf translation (R276): in a slice (64·folio + slice) or a control core's first level (512 + core), with
the physical address of its entry. -/
structure TlbEntry where
  place : Nat
  ctx   : Nat
  base  : Nat
  level : Nat
  pte   : Nat
  src   : Nat
deriving DecidableEq, Repr, Inhabited

/-- A cached table entry of a walk cache (R277): folio or hub, context, level whose entry it is, index prefix, entry. -/
structure WalkEntry where
  place : Nat
  ctx   : Nat
  level : Nat
  vpre  : Nat
  pte   : Nat
deriving DecidableEq, Repr, Inhabited

/-- Who waits at a memory port, or for a walk, with an access of its own: a copy, a flow unit, the Spine for an instance, for a pool
entry that it binds, for the commit of a gathering or for an admission, an eviction engine for an eviction or for a gate check, a
block fetch, an instruction that translates an address of its own, a walk, a channel engine for a packet or the done words of a
sender entry. -/
inductive PortUser where
  | copy (id : Nat)
  | flow (leaf : Nat) (u : Nat)
  | spine (ctx tag : Nat)
  | bind (entry : Nat)
  | commit (gath : Nat)
  | admission (ctx : Nat)
  | evict (engine : Nat)
  | gate (engine : Nat)
  | fetch (c : CoreId)
  | instr (c : CoreId) (slot : Nat)
  | walk (id : Nat)
  | channel (id : Nat)
deriving DecidableEq, Repr, Inhabited

/-- A translation that fails: class, `DETAIL`, the last entry read, the level of the leaf entry that covers the page (0 when there
is none), the physical address that is not the access's own or is refused, and whether a walker's read of a table entry failed. -/
structure TFault where
  cls    : Nat
  detail : Nat
  pte    : Nat := 0
  level  : Nat := 0
  pa     : Option Nat := none
  walk   : Bool := false
deriving DecidableEq, Repr, Inhabited

/-- A miss of an engine, a block fetch or the Spine (R272, R277), numbered in the order of arrival: who waits for it, where its
translation goes, the level and table that its walk reads next, and what the walk has found. -/
structure Miss where
  user  : PortUser
  place : Nat
  ctx   : Nat
  va    : Nat
  level : Nat := 4
  table : Nat
  leaf  : Option TlbEntry := none
  fault : Option TFault := none
deriving DecidableEq, Repr, Inhabited

/-- A line that a mover has read and not yet written everywhere: where it stands, the bytes read so far (R284), and its poison. -/
structure LineRead where
  pa    : Nat
  bytes : List (Option Byte)
  bad   : Bool
deriving DecidableEq, Repr, Inhabited

/-- A copy in flight (R190 to R195, R67): kind 0 `LD`, 1 `ST`, 2 `SEND`, 3 `MC`, 4 `FIB`, 5 a COPY node, and of the tile
instructions (R218, R220, R228) 6 `TLD.la`, 7 `TLD.dev`, 8 `TST.la`, 9 `TST.dev`, 10 `ACCOP.zero`, 11 `ACCOP.copy`, and 12 `IMGW`
(R170), whose record stands in `descv`; the source lines still to be read, those read, and the destination lines that have not
landed, by byte offset and length, with the bytes written of a line whose elements go one by one (R284), the read or landing whose
access failed last, and the faults of a COPY node's accesses that a record held (R397); the apertures as set when it was accepted
(R168); for `FIB` the crd array, the ring's size and write position in bytes, and the fibre descriptor that is written last; for a
local `SEND` the gathering that it writes to. -/
structure Copy where
  kind  : Nat
  claim : Option Claim := none
  gath  : Option Nat := none
  pool  : Nat := 0
  inst  : Nat := 0
  node  : Nat := 0
  ctx   : Nat
  src   : Nat
  dst   : Nat
  len   : Nat
  sel   : Nat
  dval  : Nat
  done  : Nat
  mbar  : Nat := 0
  xp    : Bool := false
  reads : List (Nat × Nat) := []
  got   : Table LineRead := []
  stuck : Option (Bool × Nat) := none
  lines : List (Nat × Nat) := []
  part  : Table (List Nat) := []
  aps   : List Aperture := []
  crd   : Nat := 0
  folio : Nat := 0
  ring  : Nat := 0
  head  : Nat := 0
  desc  : Nat := 0
  descv : List Byte := []
  dests : List Nat := []
  into  : Option Nat := none
  chans : List Nat := []
  flags : List (Nat × Nat) := []
  owed  : Bool := true
  hold  : Option Nat := none
  recur : List Recur := []
deriving DecidableEq, Repr, Inhabited

/-- A memory port (R70, R71): the context served last, deficits, what it has served of late (context, bytes, whether another context
had a request pending), the engines that wait at it, with their contexts, and the lines of compression metadata in its cache (R17). -/
structure Port where
  last    : Nat := 0
  deficit : Table Nat := []
  served  : List (Nat × Nat × Bool) := []
  queue   : List (PortUser × Nat) := []
  codes   : List Nat := []
deriving DecidableEq, Repr, Inhabited

/-! ### The Spine -/

/-- State of a node of a graph that has become ready (R23, R24): in the ready pool; bound, saved or, for a SUB, with children
to run; retired. -/
inductive NodeStatus where
  | ready | running | retired
deriving DecidableEq, Repr, Inhabited

/-- A SUB node that has become ready (R24): its mode, first child, child count, and children that have not retired. -/
structure SubRun where
  mode  : Nat
  first : Nat
  count : Nat
  left  : Nat
deriving DecidableEq, Repr, Inhabited

/-- Where the response of an instance goes (R68). -/
inductive Dest where
  | ring | reply (peer port : Nat) (cookie : Nat) | nowhere
deriving DecidableEq, Repr, Inhabited

/-- A graph instance (R53, R59): tag, request id, response, argument address, its graph; of its nodes, the status, successors,
remaining predecessors, SUB above, and the SUBs at work; the write ranges of its entry node; the ranges that its nodes declare, as
their records were read (R26, R288); the status it ends with, its retirement, response and the data read for it at retirement (R68);
the address of its capture entry, the entry's first part and the argument bytes still to read for it (R365); successor entries still
to decrement, nodes whose records the Spine has still to read, bytes that it has still to write, and the record that holds such an
access (R449). -/
structure Instance where
  ctx     : Nat
  tag     : Nat
  reqid   : Nat
  dest    : Dest
  resp    : Nat
  args    : Nat
  graph   : Nat
  array   : Nat
  count   : Nat
  entry   : Nat
  nodes   : Table NodeStatus := []
  succs   : Table (List Nat) := []
  preds   : Table Nat := []
  up      : Table Nat := []
  subs    : Table SubRun := []
  ranges  : List (Nat × Nat) := []
  declares : List (Nat × Nat) := []
  status  : Nat := 0
  ended   : Bool := false
  retired : Bool := false
  owed    : Bool := false
  capture : Option Nat := none
  capHead : List Byte := []
  capRead : Nat × Nat := (0, 0)
  drops   : List Nat := []
  fresh   : List Nat := []
  writes  : List (Nat × List Byte) := []
  answer  : List Byte := []
  hold    : Option Nat := none
  recur   : List Recur := []
deriving DecidableEq, Repr, Inhabited

/-- Kinds of ready-pool entries (R61). -/
inductive EntryKind where
  | fabric | stream | copy | saved (g : Nat)
deriving DecidableEq, Repr, Inhabited

/-- An entry of the ready pool (R61, R63): instance, node, kind, the Spine's decision at which it entered, promotions by age,
whether it is dispatched, its placements, for a COPY the address of its record, and the ranges that its nodes declare (R26). -/
structure PoolEntry where
  ctx    : Nat
  inst   : Nat
  tag    : Nat
  node   : Nat
  kind   : EntryKind
  order  : Nat
  aged   : Nat := 0
  bound  : Bool := false
  places : List NodePlace := []
  src    : Nat := 0
  ranges : List (Nat × Nat) := []
deriving DecidableEq, Repr, Inhabited

/-- A child waiting in a spawn backlog (R62), with the instance whose gathering queued it. -/
structure BacklogEntry where
  spawn : Spawn
  reqid : Nat
  inst  : Nat
deriving DecidableEq, Repr, Inhabited

/-- The queue page of a context (R335, R361). -/
structure QueuePage where
  sqBase : Nat := 0
  sqSize : Nat := 0
  sqTail : Nat := 0
  sqHead : Nat := 0
  cqBase : Nat := 0
  cqSize : Nat := 0
  cqTail : Nat := 0
  cqHead : Nat := 0
  cqMsix : Nat := 0
  eqBase : Nat := 0
  eqSize : Nat := 0
  eqTail : Nat := 0
  eqHead : Nat := 0
  eqMsix : Nat := 0
  eqLost : Nat := 0
deriving DecidableEq, Repr, Inhabited

/-- A response that is due (R68, R411): that of a retired instance, or the completion entry of a launch turned away. -/
inductive DueItem where
  | inst (i : Nat) | entry (bytes : List Byte)
deriving DecidableEq, Repr, Inhabited

/-- A context (R21, R52, R59, R69): attributes when resident, the UDP ports that are parked, whether it is being unloaded (R413),
tag window, virtual time in parts of 1/`vtUnit`, backlog, frames held, queue page, records its error queue dropped, endpaper areas
in use, responses due, capture position and entries (offset, length, instance), the hold of an admission, and the channel table
(R322). -/
structure Context where
  attrs     : Option ContextAttrs := none
  parked    : List Nat := []
  ended     : Bool := false
  nextTag   : Nat := 0
  live      : List Nat := []
  vt        : Nat := 0
  backlog   : List BacklogEntry := []
  frames    : List Frame := []
  page      : QueuePage := {}
  lost      : Nat := 0
  areas     : List Nat := []
  due       : List DueItem := []
  capture   : Nat := 0
  captures  : List (Nat × Nat × Nat) := []
  hold      : Option Nat := none
  recur     : List Recur := []
  channels  : Table Nat := []
deriving DecidableEq, Repr, Inhabited

/-! ### Flezal -/

/-- An outstanding flag of a sender (R331, R425): index, count, address, value, done word, expiries, issuing
instance. -/
structure OutFlag where
  index  : Nat
  upto   : Nat
  addr   : Nat
  value  : Nat
  dval   : Nat
  done   : Nat
  isFlag : Bool
  core   : Option CoreId
  gath   : Option Nat
  inst   : Nat
  tries  : Nat := 0
deriving DecidableEq, Repr, Inhabited

/-- A replay record (R329), with the instance that issued the write; `image` names the issuing core or leaf. -/
structure Replay where
  num   : Nat
  kind  : Nat
  lop   : Nat
  dep   : Nat
  daddr : Nat
  data  : Nat
  core  : Option Nat := none
  gath  : Option Nat := none
  inst  : Nat := 0
deriving DecidableEq, Repr, Inhabited

/-- A counted write that waits to be numbered (R324, R326). -/
structure SendWrite where
  kind  : Nat
  lop   : Nat
  daddr : Nat
  data  : List Byte
  srcd  : Nat := 0
  core  : Option Nat := none
  gath  : Option Nat := none
  inst  : Nat := 0
  req   : Nat := 0
deriving DecidableEq, Repr, Inhabited

/-- A sender entry (R322 to R333, R427): `ended` are ended instances whose numbered writes cannot be replayed (R424), and `dones`
retired flags whose `DONE` has still to be performed (R333). -/
structure Sender where
  ctx    : Nat
  index  : Nat
  dst    : Nat
  a      : Nat := 0
  d      : Nat := 0
  fidx   : Nat := 1
  lines  : Table (Nat × Nat) := []
  flags  : List OutFlag := []
  ring   : List Replay := []
  waits  : List SendWrite := []
  broken : Bool := false
  ended  : List Nat := []
  dones  : List OutFlag := []
deriving DecidableEq, Repr, Inhabited

/-- A receiver entry (R322, R325, R332, R421): H, the numbers arrived above H, those performed, arrivals whose `DEP`
holds them, held flags, the next flag to complete, T, failed attempts, RLOADs that wait, and the performed writes to device
memory that no completed flag covers (number, PA; R288). -/
structure Receiver where
  src     : Nat
  ctx     : Nat
  index   : Nat
  h       : Nat := 0
  top     : Nat := 0
  arrived : List Nat := []
  held    : List Packet := []
  flags   : List Packet := []
  nextF   : Nat := 1
  lastH   : Option Nat := none
  failed  : Nat := 0
  loads   : List Packet := []
  landed  : List (Nat × Nat) := []
  broken  : Bool := false
deriving DecidableEq, Repr, Inhabited

/-! ### Errors, engines, control cores -/

/-- What an open record holds (R380, R396, R449). -/
inductive Holder where
  | trap (leaf strand : Nat)
  | replay (g : Nat)
  | request (req : Nat)
  | slot (c : CoreId) (slot : Nat)
  | flow (leaf : Nat) (u : Nat)
  | copy (id : Nat)
  | inst (id : Nat)
  | ctx (k : Nat)
deriving DecidableEq, Repr, Inhabited

/-- An open record (R380): its number, the control core it trapped, whether it has left the device log, what it
holds, and the access for recurrence (R397). -/
structure OpenRec where
  num    : Nat
  core   : Nat
  moved  : Bool := false
  held   : Holder
  gath   : Option Nat := none
  recur  : Option Recur := none
deriving DecidableEq, Repr, Inhabited

/-- How an eviction ends (R317, R414): the code and count of the done word, the records that follow it, and whether `STATUS` has been
written. -/
structure KvEnd where
  code    : Nat
  evicted : Nat := 0
  records : List Report := []
  wrote   : Bool := false
deriving DecidableEq, Repr, Inhabited

/-- An eviction request (R315): whether its gate check has been made, and how it ends once that is settled. -/
structure EvictReq where
  claim  : Claim
  gath   : Option Nat
  inst   : Nat
  ctx    : Nat
  seq    : Nat
  pa     : Nat
  done   : Nat
  dval   : Nat
  begun  : Bool := false
  fin    : Option KvEnd := none
deriving DecidableEq, Repr, Inhabited

/-- A control core (R20, R350, R379): its strand and registers, local memory, handler mode with the resume address that entry kept,
interrupts pending, whether the handler at work was entered for an interrupt, a new error record that no `WFI` has seen (R171), and
whether it runs or has halted. -/
structure Core where
  started : Bool := false
  halted  : Bool := false
  strand  : Strand := {}
  regs    : List Word := List.replicate 64 0
  mem     : Memory := []
  handler : Bool := false
  resume  : Nat := 0
  irq     : Bool := false
  serving : Bool := false
  news    : Bool := false
  cause   : Option (Nat × Nat × Nat) := none
deriving DecidableEq, Repr, Inhabited

/-- A folio: in reset, admitted, or mapped out after its test; clock calibrated (R351); throttled (R436). -/
structure Folio where
  admitted : Bool := false
  tested   : Bool := false
  fast     : Bool := false
  hot      : Bool := false
  cycles   : Nat := 0
deriving DecidableEq, Repr, Inhabited

/-- A range that the Spine has evicted (R288), with the pages that its eviction took, each with its size, and the bytes copied out. -/
structure Evicted where
  ctx  : Nat
  base : Nat
  len  : Nat
  pages : List (Nat × Nat)
  data : Memory
deriving DecidableEq, Repr, Inhabited

/-- An `IMGCMT` that has performed (R170, R441): its claim, the configuration slots that it will switch, each with those who wrote its
shadow, their images, whether an `IMGW` of it has failed, and the number below which the copies of its `IMGW` lie. -/
structure Batch where
  claim  : Claim
  slots  : List (Nat × Nat)
  images : Table Memory
  bad    : Bool
  upto   : Nat
deriving DecidableEq, Repr, Inhabited

/-- A saved gathering (R47): its record and the leaves as the endpaper keeps them. -/
structure Endpaper where
  gath   : Gathering
  leaves : Table Leaf
deriving DecidableEq, Repr, Inhabited

/-- Where an instruction stands: its strand or control core, and its slot. -/
structure Site where
  core : CoreId
  slot : Nat
deriving DecidableEq, Repr, Inhabited

/-- An entry that fails parity (R402): of a TLB, first or second level, of a walk cache, or of a leaf's block buffer. -/
inductive ParityEntry where
  | tlb (index : Nat) (second : Bool)
  | walk (index : Nat)
  | block (leaf index : Nat)
deriving DecidableEq, Repr, Inhabited

/-- What comes to the part from outside and has no row of the operation table: an MSI of the host to a control core (R171, R379), a host
read of BAR0 registers (R4, R335) or of the colophon (R352), an image that the host or firmware loads (R354), a word of leaf SRAM found
in error (R402), an entry that fails parity, and a line of a memory port's metadata cache in error (R404). -/
inductive Outside where
  | msi (core : Fin 16)
  | barRead (off size : Nat)
  | colophonRead
  | loadImage (image : List Byte) (host signed : Bool)
  | leafWord (leaf la : Nat) (corrected : Bool)
  | parity (what : ParityEntry)
  | metadata (port line : Nat)
deriving DecidableEq, Repr, Inhabited

/-- What a step does next: issue an instruction of a block in flight, let an event come about, or take what comes from outside. -/
inductive Turnout where
  | issue (c : CoreId) (slot : Nat)
  | event (i : Instr)
  | outside (x : Outside)
deriving DecidableEq, Repr

end Sys2Proof.Machine
end

