-- ==== Sys2Proof/Machine/State.lean ====
section
/-!
DEFINITION. The state of the machine, why a step can stop, and the state right after reset.
-/

namespace Sys2Proof.Machine

/-- Why the machine stops. -/
inductive Fault where
  /-- Raised by a step whose operand names a unit, leaf, quire or request that the part does not have (R1, R9 to
  R20): no such step comes about on the hardware. Safe: the model stops where the hardware has nothing to do. -/
  | noSuchUnit
deriving DecidableEq, Repr

/-- Why a step has no meaning in the model. -/
inductive Refusal where
  /-- Raised by an arm of `exec` for an instruction that the model does not cover yet. Safe: nothing is claimed. -/
  | notModelled (mnemonic : String)
deriving DecidableEq, Repr

/-- The state of one ZD8 package. Tables hold only what differs from its initial value: an absent leaf, quire or port
is as at reset. `tick`, `agenda` and `focus` are the model's own (log 2): a counter that free values are drawn with,
the inputs and choices still to come, and the instruction that `exec` is about. -/
structure State where
  tick     : Nat
  agenda   : List Turnout
  focus    : Site
  pkg      : Nat
  nextId   : Nat
  -- the compute dies
  leaves   : Table Leaf
  quires   : Table Quire
  folios   : List Folio
  hubClocks : List Nat
  gaths    : Table Gathering
  papers   : Table Endpaper
  -- the memory system
  hbm      : Memory
  hbmBad   : List Nat
  apertures : List Aperture
  tlb      : List TlbEntry
  walks    : List WalkEntry
  reqs     : Table Request
  misses   : Table Miss
  rereads  : Table Reread
  copies   : Table Copy
  ports    : Table Port
  granted  : List (PortUser × Nat)
  evicts   : Table (List EvictReq)
  savers   : List (Nat × Claim)
  evicted  : List Evicted
  massHeld : List (Nat × Staged)
  stray    : List Nat
  -- the Spine
  contexts : List Context
  insts    : Table Instance
  pool     : Table PoolEntry
  reserve  : Table (Nat × List Nat)
  lastCtx  : Nat
  parkedQ  : List (Nat × Frame)
  drops    : Nat
  fwBase   : Nat
  fwSize   : Nat
  fwTail   : Nat
  fwHead   : Nat
  fwSeen   : Nat
  -- configuration images
  shadow   : Table Memory
  config   : Table Memory
  pending  : List (Nat × Nat)
  badBatch : Bool
  failed   : Option (Table Memory)
  batches  : List Batch
  -- Flezal
  senders  : Table Sender
  receivers : Table Receiver
  outbox   : List Packet
  linkDrops : Table Nat
  linkDown : List Nat
  flitFix  : Table Nat
  -- hub dies and host
  cores    : List Core
  log      : List (Nat × List Byte)
  logLost  : Nat
  seqs     : Table Nat
  opens    : List OpenRec
  host     : Memory
  irqs     : List Nat
  replies  : List (Nat × Nat × List Byte)
  reads    : List (List Byte)
  bar2     : Nat
  bootSt   : Nat
  booted   : Bool
  measured : List (List Byte)
  attested : Option (List Byte)
  mapped   : List Nat
  meshFix  : Table Nat
  meshBad  : Table Nat
deriving DecidableEq, Repr

/-- Every folio in reset (R351). -/
def resetFolios : List Folio := List.replicate 8 {}

/-- Every context unloaded (R21). -/
def resetContexts : List Context := List.replicate 16 {}

/-- Every control core not yet started (R351). -/
def resetCores : List Core := List.replicate 16 {}

/-- The machine right after reset: no folio admitted, no context loaded, no gathering bound, memory with nothing
listed, registers at the reset values of R88, R335, R339, R361 and R438 and otherwise at those of logs 3 to 6. -/
def State.reset : State where
  tick := 0
  agenda := []
  focus := ⟨.control 0, 0⟩
  pkg := 0
  nextId := 1
  leaves := []
  quires := []
  folios := resetFolios
  hubClocks := [0, 0]
  gaths := []
  papers := []
  hbm := []
  hbmBad := []
  apertures := List.replicate 64 {}
  tlb := []
  walks := []
  reqs := []
  misses := []
  rereads := []
  copies := []
  ports := []
  granted := []
  evicts := []
  savers := []
  evicted := []
  massHeld := []
  stray := []
  contexts := resetContexts
  insts := []
  pool := []
  reserve := []
  lastCtx := 15
  parkedQ := []
  drops := 0
  fwBase := 0
  fwSize := 0
  fwTail := 0
  fwHead := 0
  fwSeen := 0
  shadow := []
  config := []
  pending := []
  badBatch := false
  failed := none
  batches := []
  senders := []
  receivers := []
  outbox := []
  linkDrops := []
  linkDown := []
  flitFix := []
  cores := resetCores
  log := []
  logLost := 0
  seqs := []
  opens := []
  host := []
  irqs := []
  replies := []
  reads := []
  bar2 := 0
  bootSt := 0
  booted := false
  measured := []
  attested := none
  mapped := []
  meshFix := []
  meshBad := []

end Sys2Proof.Machine
end

