-- ==== Sys2Proof/Machine/Layout.lean ====
section
/-!
DEFINITION. Where things lie: leaves, quires and folios (R9, R10), the leaf-local address space (R73, R78), the round
base (R35, R450), physical addresses (R278, R279), and the accessors of the state's parts.
-/

namespace Sys2Proof.Machine

/-! ### Coordinates -/

/-- Leaf number 256·y + x (R100). -/
def leafNum (x y : Nat) : Nat := 256 * y + x
/-- Package quire number 64·qy + qx of a leaf (R9). -/
def quireOf (n : Nat) : Nat := 64 * (n / 256 / 4) + n % 256 / 4
/-- Index of a leaf in its quire (R9). -/
def leafIndex (n : Nat) : Nat := 4 * (n / 256 % 4) + n % 4
/-- Folio of a leaf (R10). -/
def folioOf (n : Nat) : Nat := 2 * (n / 256 / 64) + n % 256 / 128
/-- Leaf i of a quire (R9). -/
def leafIn (q i : Nat) : Nat := leafNum (4 * (q % 64) + i % 4) (4 * (q / 64) + i / 4)
/-- Folio of a quire (R10). -/
def folioOfQuire (q : Nat) : Nat := folioOf (leafIn q 0)
/-- The 16 leaves of a quire. -/
def leavesOfQuire (q : Nat) : List Nat := (upTo 16).map (leafIn q)
/-- The quires of a rectangle, row by row. -/
def rectQuires (qx qy w h : Nat) : List Nat :=
  (upTo h).flatMap fun j => (upTo w).map fun i => 64 * (qy + j) + (qx + i)
/-- The quires of a node's placement (R58). -/
def NodePlace.quires (p : NodePlace) : List Nat := rectQuires p.qx p.qy p.w p.h
/-- The quires of a gathering (R27). -/
def Gathering.quires (g : Gathering) : List Nat := g.nodes.flatMap NodePlace.quires
/-- The leaves of a gathering. -/
def Gathering.leaves (g : Gathering) : List Nat := g.quires.flatMap leavesOfQuire
/-- The leaf at which the corner of TLB slice 8·sy + sx of a folio lies (R19): the lower of its leaf columns, and of its leaf rows. -/
def sliceCorner (f slice : Nat) : Nat × Nat := (128 * (f % 2) + 16 * (slice % 8) + 7, 64 * (f / 2) + 8 * (slice / 8) + 3)
/-- The four leaves to which a TLB slice links (R19). -/
def sliceLeaves (f slice : Nat) : List Nat :=
  let (x, y) := sliceCorner f slice
  [leafNum x y, leafNum (x + 1) y, leafNum x (y + 1), leafNum (x + 1) (y + 1)]
/-- The leaves to which memory port 32·f + p links: rows 2p and 2p + 1 of its folio's outer column (R17). -/
def portLeaves (port : Nat) : List Nat :=
  let f := port / 32
  let x := if f % 2 = 0 then 0 else 255
  [leafNum x (64 * (f / 2) + 2 * (port % 32)), leafNum x (64 * (f / 2) + 2 * (port % 32) + 1)]
/-- What a link of a router leads to. -/
inductive LinkEnd where
  | leaf (n : Nat) | port (p : Nat)
deriving DecidableEq, Repr
/-- The far end of a link of a leaf's router, 0 N, 1 E, 2 S, 3 W (R12): a leaf, or at the columns x = 0 and x = 255 the memory port
attached there (R17); other edges have no link. -/
def linkEnd (n dir : Nat) : Option LinkEnd :=
  let x := n % 256
  let y := n / 256
  let port := LinkEnd.port (32 * folioOf n + y % 64 / 2)
  match dir with
  | 0 => if y = 0 then none else some (.leaf (n - 256))
  | 1 => some (if x = 255 then port else .leaf (n + 1))
  | 2 => if y = 255 then none else some (.leaf (n + 256))
  | _ => some (if x = 0 then port else .leaf (n - 1))
/-- The node of a gathering whose placement covers a leaf. -/
def Gathering.placeOf (g : Gathering) (n : Nat) : Option NodePlace :=
  g.nodes.find? fun p => p.quires.contains (quireOf n)
/-- The leaf at a position of the gathering's bounding rectangle (R240), when a placement covers it. -/
def Gathering.leafAt (g : Gathering) (px py : Nat) : Option Nat :=
  let n := leafNum (4 * g.qx + px) (4 * g.qy + py)
  if px < 4 * g.qw ∧ py < 4 * g.qh ∧ (g.placeOf n).isSome then some n else none

/-! ### The partition word and the LA map (R73, R78) -/

/-- `KEEP`, `ACC`, `JRNL` and `STRANDS` + 1 of a partition word. -/
def pwKeep (w : Nat) : Nat := bits w 15 10
def pwAcc (w : Nat) : Nat := bits w 9 6
def pwJrnl (w : Nat) : Nat := bits w 5 2
def pwStrands (w : Nat) : Nat := bits w 1 0 + 1
/-- The limits of R78 (class 0x030A otherwise). -/
def pwValid (w : Nat) : Bool := w < 65536 && pwAcc w ≤ 8 && pwJrnl w + 4 * pwAcc w + pwKeep w ≤ 59
def jrnlBase : Nat := 0x4800
def accBase (w : Nat) : Nat := 0x4800 + 0x1000 * pwJrnl w
def keepBase (w : Nat) : Nat := accBase w + 0x4000 * pwAcc w
def discBase (w : Nat) : Nat := keepBase w + 0x1000 * pwKeep w

/-- The regions of the LA space. -/
inductive Region where
  | recto | verso | base | regs | journal | acc | keep | disc
deriving DecidableEq, Repr

/-- The region of a leaf-local address. -/
def regionOf (w la : Nat) : Region :=
  if la < 0x1000 then .recto else if la < 0x2000 then .verso else if la < 0x4000 then .base
  else if la < 0x4800 then .regs else if la < accBase w then .journal
  else if la < keepBase w then .acc else if la < discBase w then .keep else .disc

/-- A program may write the region (R74). -/
def Region.writable : Region → Bool
  | .base | .regs | .journal => false
  | _ => true

/-- `DETAIL` of class 0x0309 for a region that a program must not reach (R394). -/
def Region.detail : Region → Nat
  | .base => 0 | .regs => 1 | .journal => 2 | _ => 4

/-- The SRAM offset behind a leaf-local address: the storage behind recto and verso is exchanged by a turn (R83). -/
def physOf (l : Leaf) (la : Nat) : Nat :=
  if la < 0x2000 ∧ l.swap then (if la < 0x1000 then la + 0x1000 else la - 0x1000) else la

/-- The bank of an LA, and the offset of its byte in the bank (R75). -/
def bankNum (la : Nat) : Nat := bits la 7 6
def bankOffset (la : Nat) : Nat := bits la 17 8 * 64 + bits la 5 0

/-- LA of register g of strand t (R79). -/
def regAddr (t g : Nat) : Nat := 0x4000 + 0x200 * t + 8 * g

/-! ### Accessors -/

/-- A leaf; one that the table does not hold is as at reset. -/
def State.leaf (s : State) (n : Nat) : Leaf := (tget s.leaves n).getD {}
def State.setLeaf (s : State) (n : Nat) (l : Leaf) : State := { s with leaves := tset s.leaves n l }
def State.modLeaf (s : State) (n : Nat) (f : Leaf → Leaf) : State := s.setLeaf n (f (s.leaf n))
/-- A quire. -/
def State.quire (s : State) (q : Nat) : Quire := (tget s.quires q).getD {}
def State.modQuire (s : State) (q : Nat) (f : Quire → Quire) : State :=
  { s with quires := tset s.quires q (f (s.quire q)) }
/-- A gathering that is bound. -/
def State.gath (s : State) (g : Nat) : Option Gathering := tget s.gaths g
def State.modGath (s : State) (g : Nat) (f : Gathering → Gathering) : State :=
  match tget s.gaths g with
  | some x => { s with gaths := tset s.gaths g (f x) }
  | none => s
/-- A context. -/
def State.context (s : State) (k : Nat) : Context := s.contexts.getD k {}
def State.modContext (s : State) (k : Nat) (f : Context → Context) : State :=
  { s with contexts := lmod s.contexts k f }
/-- The attributes of a context; a context that is not resident has the defaults. -/
def State.attrs (s : State) (k : Nat) : ContextAttrs := (s.context k).attrs.getD {}
/-- A control core. -/
def State.core (s : State) (c : Nat) : Core := s.cores.getD c {}
def State.modCore (s : State) (c : Nat) (f : Core → Core) : State := { s with cores := lmod s.cores c f }
/-- An update of an entry of a table. -/
def tmod {α : Type} (t : Table α) (k : Nat) (f : α → α) : Table α :=
  match tget t k with
  | some x => tset t k (f x)
  | none => t

/-- A strand, of a leaf or of a control core. -/
def State.strand (s : State) : CoreId → Strand
  | .strand n t => (s.leaf n).strands.getD t.val {}
  | .control c => (s.core c.val).strand
def State.modStrand (s : State) (c : CoreId) (f : Strand → Strand) : State :=
  match c with
  | .strand n t => s.modLeaf n fun l => { l with strands := lmod l.strands t.val f }
  | .control c => s.modCore c.val fun k => { k with strand := f k.strand }
/-- The gathering that a strand runs for. -/
def State.gathOf (s : State) : CoreId → Option Nat
  | .strand n _ => (s.leaf n).gath
  | .control _ => none
/-- The context that a strand runs for; control cores run CTX0 (R20). -/
def State.ctxOf (s : State) (c : CoreId) : Nat :=
  match s.gathOf c with
  | some g => ((s.gath g).map Gathering.ctx).getD 0
  | none => 0
/-- An update of a block in flight. -/
def State.modBlock (s : State) (c : CoreId) (f : Block → Block) : State :=
  s.modStrand c fun st => { st with block := st.block.map f }
/-- An update of a slot of a block in flight. -/
def State.modSlot (s : State) (c : CoreId) (i : Nat) (f : Slot → Slot) : State :=
  s.modBlock c fun b => { b with slots := lmod b.slots i f }
/-- A slot of a block in flight. -/
def State.slot (s : State) (c : CoreId) (i : Nat) : Slot :=
  match (s.strand c).block with
  | some b => b.slots.getD i { word := 0 }
  | none => { word := 0 }
/-- A fresh number. -/
def State.fresh (s : State) : Nat × State := (s.nextId, { s with nextId := s.nextId + 1 })
/-- A strand that is a control core's. -/
def coreIsControl : CoreId → Bool
  | .control _ => true
  | .strand _ _ => false
/-- The leaf of a strand; a control core has none. -/
def coreLeaf : CoreId → Option Nat
  | .strand n _ => some n
  | .control _ => none
/-- The strand of a copy; a COPY node has none. -/
def Copy.core (x : Copy) : CoreId := (x.claim.map Claim.core).getD (.control 0)
/-- The strand index (0 on a control core). -/
def coreIndex : CoreId → Nat
  | .strand _ t => t.val
  | .control _ => 0
/-- The folio of a strand; the hub of a control core (8 or 9). -/
def coreFolio : CoreId → Nat
  | .strand n _ => folioOf n
  | .control c => if c.val < 8 then 8 else 9

/-! ### The round base as bytes (R35, R450) -/

/-- The control word of a token (R230). -/
def TokKind.code : TokKind → Nat
  | .data => 0 | .stop => 1 | .done => 2 | .empty => 3 | .turn => 4 | .skip => 5
def Token.control (t : Token) : Nat := t.deckle.toNat + 65536 * t.kind.code + 1048576 * t.level
/-- The 64 payload bytes of a token: its sixteen lanes. -/
def Token.payload (t : Token) : List Byte := (upTo 16).flatMap fun k => bytesOf 4 (t.lanes.getD k 0).toNat

/-- Fields of a route word (R240). -/
def rtUnit (w : Word) : Nat := bits w.toNat 28 27
def rtEn (w : Word) : Bool := testBit w.toNat 26
def rtSkip (w : Word) : Bool := testBit w.toNat 25
def rtSlots (w : Word) : Nat := bits w.toNat 24 20
def rtPort (w : Word) : Nat := bits w.toNat 18 16
def rtPy (w : Word) : Nat := bits w.toNat 15 8
def rtPx (w : Word) : Nat := bits w.toNat 7 0
/-- Slot count of an input entry; a disabled entry has none (R36, R450). -/
def rtCount (w : Word) : Nat := if rtEn w then rtSlots w else 0
/-- Slot base of input port p (R450). -/
def slotBase (routes : List Word) (p : Nat) : Nat := ((routes.take p).map rtCount).foldl (· + ·) 0

/-- `FLSTAT` (R246, Table 5). -/
def FlowUnit.status (u : FlowUnit) : Nat :=
  u.tokout % 65536 * 2 ^ 48 + u.rdpos % 65536 * 2 ^ 32 + field u.record 0 1 * 65536
    + natOfBool u.clamp * 2048 + natOfBool u.cfgd * 1024 + natOfBool u.done * 512 + natOfBool u.run * 256
    + u.flags.toNat
/-- `VPSTAT` (R215). -/
def VPipe.status (v : VPipe) : Nat :=
  natOfBool v.cfgd * 1024 + natOfBool v.done * 512 + natOfBool v.run * 256 + v.flags.toNat

/-- Code of a wait state (R450). -/
def WaitState.code : WaitState → Nat
  | .running => 0 | .atRnd => 1 | .finished => 2 | .sleeping => 3 | .stalled => 4

/-- The slots of one input port, in ring order from its head: (slot, token). -/
def portSlots (b : RoundBase) (p : Nat) : List (Nat × Token) :=
  let n := rtCount (b.routes.getD p 0)
  let q := b.inputs.getD p {}
  (upTo q.held.length).map fun k => (slotBase b.routes p + (q.head + k) % (if n = 0 then 1 else n), q.held.getD k default)
/-- The token and port in slot i, if it is occupied. -/
def RoundBase.slot (b : RoundBase) (i : Nat) : Option (Nat × Token) :=
  (upTo 8).findSome? fun p => ((portSlots b p).find? fun x => x.1 == i).map fun x => (p, x.2)

/-- A flow-unit area (R247, Table 6): the `STATE` field is a free value. -/
def flowArea (tick off : Nat) (u : FlowUnit) : Byte :=
  if off < 0x40 then u.record.getD off 0
  else if off < 0x48 then (bytesOf 8 u.status).getD (off - 0x40) 0
  else if off < 0x58 then (u.incnt.flatMap (bytesOf 4 ·)).getD (off - 0x48) 0
  else if off < 0x64 then (u.outcnt.flatMap (bytesOf 4 ·)).getD (off - 0x58) 0
  else Config.flowStateByte tick off

/-- One byte of the round base (Table 3 of chapter 2). DESIGN CHOICE (log 115): the `STRANDS` entry of a strand that the leaf does not run
holds address 0, deadline 4,095 and wait state 0; the manual gives it none. -/
def RoundBase.byte (b : RoundBase) (tick off : Nat) : Byte :=
  if off < 0x1000 then
    match b.slot (off / 64) with
    | some (_, t) => t.payload.getD (off % 64) 0
    | none => 0
  else if off < 0x1100 then
    match b.slot ((off - 0x1000) / 4) with
    | some (p, t) => (bytesOf 4 (t.control + p * 2 ^ 23 + 2 ^ 26)).getD (off % 4) 0
    | none => 0
  else if off < 0x1140 then
    let p := (off - 0x1100) / 8
    let n := rtCount (b.routes.getD p 0)
    let q := b.inputs.getD p {}
    let sb := slotBase b.routes p
    (bytesOf 8 (sb % 64 + n * 256 + (sb + q.head) % 64 * 65536 + q.held.length * 2 ^ 24)).getD (off % 8) 0
  else if off < 0x1340 then flowArea tick (off - 0x1140) b.f0
  else if off < 0x1540 then flowArea tick (off - 0x1340) b.f1
  else if off < 0x1B40 then Config.vpStateByte tick off
  else if off < 0x1B80 then
    let st := b.strands.getD ((off - 0x1B40) / 16) {}
    (bytesOf 8 (st.pc % 2 ^ 52) ++ bytesOf 2 (st.dlrem % 4096) ++ [BitVec.ofNat 8 st.wait.code]).getD (off % 16) 0
  else if off = 0x1B80 then
    BitVec.ofNat 8 (natOfBool b.swap + 2 * natOfBool b.rfull + 4 * natOfBool b.vfull)
  else 0

/-- The `LA` of the `MBAR` object that a `DONE` field names, 0 for none, and its done word (Table 7 of R190). -/
def doneMbar (d : Nat) : Nat := bits d 63 52 * 64
def doneWord (d : Nat) : Nat := bits d 51 0

/-! ### Physical addresses (R278, R279) -/

/-- The PA lies in aperture space. -/
def isAperture (pa : Nat) : Bool := 0x8000000000 ≤ pa
/-- The PA is backed by HBM. -/
def isBacked (pa : Nat) : Bool := pa < 0x8000000000 && pa % 2 ^ 36 < Config.stackBacked
/-- The package port of a PA. -/
def portOf (pa : Nat) : Nat := 32 * bits pa 38 36 + (bits pa 12 8 ^^^ bits pa 20 16)

/-- The lines of 64 B that a range touches: (address, length) of each part. -/
def lineParts : Nat → Nat → Nat → List (Nat × Nat)
  | 0, _, _ => []
  | fuel + 1, a, n =>
    if n = 0 then []
    else
      let k := min n (64 - a % 64)
      (a, k) :: lineParts fuel (a + k) (n - k)
/-- The parts of a range, one per line, in increasing address order (R77). -/
def linesOf (a n : Nat) : List (Nat × Nat) := lineParts (n / 64 + 2) a n

end Sys2Proof.Machine
end

