-- ==== Sys2Proof/Machine/Ops.lean ====
section
/-!
DEFINITION. The named operations: error records and their delivery (R356 to R361), leaf SRAM with the undo journal
(R37, R38, R77), device memory, staging and publication (R39, R43), the end of an instance (R363), faults of a strand
(R369 to R371), handler mode (R379, R171), deliveries of an instruction (R121, R124) and sends (R87).
-/

namespace Sys2Proof.Machine

/-! ### Error records (R356 to R362) -/

def sevCorrected : Nat := 0
def sevDeferred : Nat := 1
def sevReplayed : Nat := 2
def sevStalled : Nat := 3
def sevTask : Nat := 4
def sevContext : Nat := 5
def sevFolio : Nat := 6
def sevDevice : Nat := 7
def sevRefused : Nat := 8

/-- Code of an address kind (`ASP`). -/
def AddrKind.code : AddrKind → Nat
  | .none => 0 | .va => 1 | .pa => 2 | .la => 3 | .channel => 4

/-- The 64 bytes of a record (Table 1 of R356). -/
def recordBytes (r : Report) (seq cycles lost : Nat) : List Byte :=
  bytesOf 1 r.folio ++ bytesOf 1 r.uclass ++ bytesOf 2 r.uindex ++ bytesOf 4 seq ++ bytesOf 2 r.cls
    ++ bytesOf 1 r.sev ++ bytesOf 1 (r.ctx.getD 0)
    ++ bytesOf 2 (r.tag.getD 0 % 1024 + natOfBool (r.asp != .none) * 2 ^ 13 + natOfBool r.tag.isSome * 2 ^ 14
        + natOfBool r.ctx.isSome * 2 ^ 15)
    ++ bytesOf 2 r.asp.code ++ bytesOf 8 (if r.asp = .none then 0 else r.addr)
    ++ slice r.synd 0 16 ++ bytesOf 8 cycles ++ bytesOf 4 r.round ++ bytesOf 4 r.where_ ++ bytesOf 4 lost ++ zeros 4

/-- The severity that a record holds. -/
def recordSev (b : List Byte) : Nat := field b 10 1

/-- The key of a source (R358). -/
def sourceKey (r : Report) : Nat := r.folio * 2 ^ 24 + r.uclass * 2 ^ 16 + r.uindex % 65536

/-- The control core that a record's trap goes to (R360), or the next running one of its hub (R364). -/
def trapCore (s : State) (folio : Nat) : Nat :=
  let first := if folio < 8 then 2 * folio else if folio = 8 then 0 else 8
  let hub := first / 8 * 8
  ((upTo 8).map fun k => hub + (first - hub + k) % 8).find? (fun c => !(s.core c).halted) |>.getD first

/-- Room in the device log for a record: as it stands, or after discarding the oldest CORRECTED record. -/
def logRoom (log : List (Nat × List Byte)) (sev : Nat) : Option (List (Nat × List Byte)) :=
  if log.length < Config.logSize then some log
  else if sev = sevCorrected then none
  else match log.findIdx? fun x => recordSev x.2 == sevCorrected with
    | some i => some (log.eraseIdx i)
    | none => none

/-- Entry of a record in the device log (R360); the core of its source has a new error record (R171, log 105). -/
def enterLog (s : State) (num : Nat) (r : Report) (seq cycles : Nat) : State :=
  match logRoom s.log r.sev with
  | some log =>
    { s with log := log ++ [(num, recordBytes r seq cycles s.logLost)], logLost := 0 }.modCore (trapCore s r.folio)
      fun c => { c with news := true }
  | none => { s with logLost := s.logLost + 1 }

/-- A write to host memory. -/
def hostWrite (s : State) (a : Nat) (bs : List Byte) : State := { s with host := s.host.write a bs }

/-- An MSI-X vector raised by a register that enables it (R335, R361). -/
def raiseVector (s : State) (reg : Nat) : State :=
  if testBit reg 15 then { s with irqs := s.irqs ++ [bits reg 10 0] } else s

/-- A ring is enabled (R361). -/
def ringOn (base size : Nat) : Bool := base != 0 && 6 ≤ size && size ≤ 16

/-- A context's error queue takes a record: it is enabled and not full (R361). -/
def queueTakes (s : State) (k : Nat) : Bool :=
  let p := (s.context k).page
  ringOn p.eqBase p.eqSize && (p.eqTail + 2 ^ 32 - p.eqHead) % 2 ^ 32 != 2 ^ p.eqSize

/-- Entry of a record in a context's error queue (R361). -/
def enterQueue (s : State) (k : Nat) (r : Report) (seq cycles : Nat) : State :=
  let c := s.context k
  let p := c.page
  if !ringOn p.eqBase p.eqSize then
    s.modContext k fun c => { c with page := { c.page with eqLost := min (c.page.eqLost + 1) 0xFFFFFFFF } }
  else if (p.eqTail + 2 ^ 32 - p.eqHead) % 2 ^ 32 = 2 ^ p.eqSize then
    s.modContext k fun c =>
      { c with
        lost := c.lost + 1
        page := { c.page with eqLost := min (c.page.eqLost + 1) 0xFFFFFFFF } }
  else
    let s := hostWrite s (p.eqBase + 64 * (p.eqTail % 2 ^ p.eqSize)) (recordBytes r seq cycles c.lost)
    let s := s.modContext k fun c => { c with lost := 0, page := { c.page with eqTail := (p.eqTail + 1) % 2 ^ 32 } }
    raiseVector s p.eqMsix

/-- Model's numbers for the vectors that the manual names but does not number (log 20). -/
def vecLog : Nat := 2048
def vecParked : Nat := 2049

/-- The clock of a folio, or of a hub die (8 and 9), has advanced (R349): by the free value `cycleStep`. -/
def tickClock (s : State) (f : Nat) : State :=
  if f < 8 then { s with folios := lmod s.folios f fun x => { x with cycles := x.cycles + Config.cycleStep s.tick } }
  else { s with hubClocks := lmod s.hubClocks (f - 8) (· + Config.cycleStep s.tick) }

/-- The cycle count of a folio's own clock, or of a hub die's (R349). -/
def clockOf (s : State) (f : Nat) : Nat :=
  if f < 8 then (s.folios.getD f {}).cycles else s.hubClocks.getD (f - 8) 0

/-- A record is written and delivered (R360); `logOnly` is R379's delivery to the device log alone. The number of the
record is its number in the model's log. -/
def emitRecord (s : State) (r : Report) (logOnly : Bool := false) : Nat × State :=
  let (num, s) := s.fresh
  let key := sourceKey r
  let seq := ((tget s.seqs key).getD 0 + 1) % 2 ^ 32
  let s := tickClock { s with seqs := tset s.seqs key seq } r.folio
  let cycles := clockOf s r.folio
  let empty := s.log.isEmpty
  let s := enterLog s num r seq cycles
  let above := r.sev != sevCorrected
  let s := match r.ctx with
    | some k => if above ∧ 1 ≤ k ∧ !logOnly then enterQueue s k r seq cycles else s
    | none => s
  let s := if above ∧ !logOnly then s.modCore (trapCore s r.folio) fun c => { c with irq := true } else s
  (num, if above ∧ empty ∧ !logOnly ∧ !s.log.isEmpty then { s with irqs := s.irqs ++ [vecLog] } else s)

/-- A record that nothing waits for. -/
def writeRecord (s : State) (r : Report) : State := (emitRecord s r).2

/-- An open record (R380, R396): it holds what `h` names until it closes; if the device log dropped it and no error queue took it,
every copy is dropped, and it is released at once. -/
def openRecord (s : State) (r : Report) (h : Nat → Holder) (g : Option Nat) (rc : Option Recur) : Nat × State :=
  let core := trapCore s r.folio
  let queued := r.ctx.any (1 ≤ ·) && queueTakes s (r.ctx.getD 0)
  let (num, s) := emitRecord s r
  if s.log.any (fun x => x.1 == num) || queued then
    (num, { s with opens := s.opens ++ [{ num, core, held := h num, gath := g, recur := rc }] })
  else (num, s)

/-- A record is open. -/
def isOpen (s : State) (num : Nat) : Bool := s.opens.any fun o => o.num == num

/-- What is held by a number waits still. -/
def isHeld (s : State) : Option Nat → Bool
  | some n => isOpen s n
  | none => false

/-- `WHERE` of a record. -/
def whereWord : CoreId → Nat
  | .strand n t => n % 65536 + t.val * 65536 + 2 ^ 18
  | .control _ => 0

/-- The gathering and instance fields of a record for a strand, with its source (R369). -/
def strandReport (s : State) (c : CoreId) (cls sev : Nat) : Report :=
  let g := (s.gathOf c).bind s.gath
  { cls, sev, folio := coreFolio c, uclass := if coreIsControl c then 0x0D else 1,
    uindex := match c with
      | .strand n _ => n
      | .control k => k.val
    ctx := some (s.ctxOf c), tag := g.map Gathering.tag, round := (g.map Gathering.round).getD 0 % 2 ^ 32,
    where_ := whereWord c }

/-- `SYND` of area 0x01 (R369). -/
def blockSynd (b : Block) (slot : Option Nat) (detail : Nat) : List Byte :=
  let word := match slot with
    | some i => (b.slots.getD i { word := b.head }).word
    | none => b.head
  bytesOf 8 (b.addr % 2 ^ 52 + slot.getD 0 * 2 ^ 52 + natOfBool slot.isSome * 2 ^ 58)
    ++ bytesOf 4 word.toNat ++ bytesOf 4 detail

/-! ### Watches (R185, R48) -/

/-- A write to a line wakes the strands that watch it. -/
def wakeStrand (device : Bool) (line : Nat) (st : Strand) : Strand :=
  match st.watch with
  | some w => if w.device == device && w.line == line && w.remote.isNone then
      { st with watch := some { w with woken := true } } else st
  | none => st

/-- A wake of the watches that a round base keeps: a store that no void of the round undoes. -/
def wakeBase (device : Bool) (line : Nat) (b : StrandBase) : StrandBase :=
  { b with watch := b.watch.map fun w =>
      if w.device == device && w.line == line && w.remote.isNone then { w with woken := true } else w }

/-- A wake of the strands of a leaf and of its round base. -/
def wakeLeaf (line : Nat) (l : Leaf) : Leaf :=
  { l with
    strands := l.strands.map (wakeStrand true line)
    base := { l.base with strands := l.base.strands.map (wakeBase true line) } }

/-- A store published to a 64 B line of this package wakes the strands that watch the line, those of saved gatherings
included (R185, R48). -/
def wakeDevice (s : State) (line : Nat) : State :=
  { s with
    leaves := s.leaves.map fun x => (x.1, wakeLeaf line x.2)
    cores := s.cores.map fun c => { c with strand := wakeStrand true line c.strand }
    papers := s.papers.map fun p => (p.1, { p.2 with leaves := p.2.leaves.map fun x => (x.1, wakeLeaf line x.2) }) }

/-! ### Leaf SRAM (R37, R38, R74, R77) -/

/-- The tick of the commit that left a DISCARD byte undefined, if nothing has written the byte since (R81). -/
def staleAt (l : Leaf) (la : Nat) : Option Nat :=
  if regionOf l.partw la = .disc ∧ !(l.touched.any fun p => decide (p.1 ≤ la) && decide (la < p.1 + p.2)) then l.stale
  else none

/-- One byte as a load sees it: the round base is the snapshot (R35). -/
def leafByte (tick : Nat) (l : Leaf) (la : Nat) : Byte :=
  if 0x2000 ≤ la ∧ la < 0x4000 then l.base.byte tick (la - 0x2000)
  else match staleAt l la with
    | some t => Config.discardByte t la
    | none => l.mem.get (physOf l la)

/-- Bytes as a load sees them. -/
def leafRead (s : State) (n la len : Nat) : List Byte :=
  (upTo len).map fun i => leafByte s.tick (s.leaf n) (la + i)

/-- A line of the range is poisoned (R402). -/
def leafPoisoned (l : Leaf) (la len : Nat) : Bool :=
  (linesOf la len).any fun p => l.poison.contains (physOf l p.1 / 64)

/-- The round of the leaf's gathering is irrevocable; a leaf that no gathering holds logs nothing. -/
def leafIrrev (s : State) (l : Leaf) : Bool :=
  match l.gath.bind s.gath with
  | some g => g.irrev
  | none => true

/-- The lines of a write that the journal has to log (R37): not DISCARD, not yet logged in the round. -/
def journalLines (l : Leaf) (parts : List (Nat × Nat)) : List Nat :=
  ((parts.filter fun p => regionOf l.partw p.1 != .disc).map fun p => physOf l p.1 / 64).filter fun q =>
    !(l.journal.any fun e => e.1 == q)

/-- The journal line, by its number in the SRAM, of entry i (R38). -/
def journalLine (i : Nat) : Nat := (jrnlBase + 0x1000 * (i / Config.journalUnit)) / 64 + i % Config.journalUnit

/-- Lines logged: the old contents of each, which overwrite lines of the journal. -/
def logLines (l : Leaf) (qs : List Nat) : Leaf :=
  { l with
    journal := l.journal ++ qs.map fun q => (q, l.poison.contains q, l.mem.read (64 * q) 64)
    poison := l.poison.filter fun q => !((upTo qs.length).any fun i => journalLine (l.journal.length + i) == q) }

/-- A void reads the line (R406): one of the round base, of a journal entry, or of the indices of a unit with entries. -/
def reloadLine (l : Leaf) (q : Nat) : Bool :=
  let o := 64 * q - jrnlBase
  let first := o / 0x1000 * Config.journalUnit
  regionOf l.partw (64 * q) == .base || (regionOf l.partw (64 * q) == .journal
    && decide ((if o % 0x1000 / 64 < Config.journalUnit then first + o % 0x1000 / 64 else first) < l.journal.length))

/-- The line lies in the round base or the journal, which each commit writes anew (R406). -/
def commitLine (w q : Nat) : Bool := regionOf w (64 * q) == .base || regionOf w (64 * q) == .journal

/-- A write in place, line by line; a whole-line write clears the poison of its line (R403). -/
def storeParts (l : Leaf) : List (Nat × Nat) → List Byte → Leaf
  | [], _ => l
  | (a, n) :: ps, bs =>
    let q := physOf l a
    storeParts { l with mem := l.mem.write q (bs.take n),
                        touched := if l.stale.isSome ∧ regionOf l.partw a = .disc then (a, n) :: l.touched else l.touched,
                        poison := if n = 64 then l.poison.filter (· != q / 64) else l.poison } ps (bs.drop n)

/-- A write by any agent under R37, or none when the journal has no room and the round must first turn irrevocable
(R38, R41). -/
def leafWrite (s : State) (n la : Nat) (bs : List Byte) : Option State :=
  let l := s.leaf n
  let parts := linesOf la bs.length
  let need := if leafIrrev s l then [] else (journalLines l parts).dedup
  if Config.journalUnit * pwJrnl l.partw < l.journal.length + need.length then none
  else
    let l' := storeParts (logLines l need) parts bs
    let wake := fun st => (parts.foldl (fun st p => wakeStrand false (p.1 / 64) st) st)
    some (s.setLeaf n { l' with strands := l'.strands.map wake })

/-- A leaf's lines of a range are poisoned (R403). -/
def spoilLines (l : Leaf) (la len : Nat) : Leaf :=
  { l with poison := (linesOf la len).foldl (fun b p =>
    let q := physOf l p.1 / 64
    if b.contains q then b else q :: b) l.poison }

/-- A journal entry whose line receives a part of a write that no round logs. -/
def putEntry (q n : Nat) (bs : List Byte) (bad : Bool) (e : Nat × Bool × List Byte) : Nat × Bool × List Byte :=
  if e.1 = q / 64 then (e.1, bad || (e.2.1 && n != 64), putBytes e.2.2 (q % 64) bs) else e

/-- A leaf, bound or in an endpaper, after a write that no round logs (R91, R192, R327, R355): a line that the round has logged
receives the bytes in its journal entry too, and a copy of a poisoned line is poisoned (R403). -/
def pushLeaf (la : Nat) (bs : List Byte) (bad : Bool) (l : Leaf) : Leaf :=
  let parts := linesOf la bs.length
  let put := fun (j : List (Nat × Bool × List Byte)) (p : Nat × Nat) =>
    j.map (putEntry (physOf l p.1) p.2 ((bs.drop (p.1 - la)).take p.2) bad)
  let l' := storeParts { l with journal := parts.foldl put l.journal } parts bs
  let l' := if bad then spoilLines l' la bs.length else l'
  { l' with
    strands := l'.strands.map fun st => parts.foldl (fun st p => wakeStrand false (p.1 / 64) st) st
    base := { l'.base with strands := l'.base.strands.map fun st => parts.foldl (fun st p => wakeBase false (p.1 / 64) st) st } }

/-- Such a write to a leaf of the part. -/
def leafWriteBoth (s : State) (n la : Nat) (bs : List Byte) : State := s.modLeaf n (pushLeaf la bs false)

/-- Scratchpad read of a strand: its leaf's SRAM, or a control core's local memory (R448). -/
def padRead (s : State) (c : CoreId) (a n : Nat) : List Byte :=
  match c with
  | .strand lf _ => leafRead s lf a n
  | .control k => (s.core k.val).mem.read a n

/-- Scratchpad write of a strand, or none when the round must first turn irrevocable. -/
def padWrite (s : State) (c : CoreId) (a : Nat) (bs : List Byte) : Option State :=
  match c with
  | .strand lf _ => leafWrite s lf a bs
  | .control k => some (s.modCore k.val fun x =>
      { x with
        mem := x.mem.write a bs
        strand := (linesOf a bs.length).foldl (fun st p => wakeStrand false (p.1 / 64) st) x.strand })

/-- Register g of a strand as committed (R79). -/
def readReg (s : State) (c : CoreId) (g : Nat) : Word :=
  match c with
  | .strand n t => wordOfNat (natOfBytes ((s.leaf n).mem.read (regAddr t.val g) 8))
  | .control k => (s.core k.val).regs.getD g 0

/-- The register writes of a commit, together (R30, R79), or none when the journal has no room. -/
def writeRegs (s : State) (c : CoreId) : List (Nat × Word) → Option State
  | [] => some s
  | (g, v) :: ws =>
    match c with
    | .strand n t => (leafWrite s n (regAddr t.val g) (bytesOf 8 v.toNat)).bind fun s => writeRegs s c ws
    | .control k => writeRegs (s.modCore k.val fun x => { x with regs := x.regs.set g v }) c ws

/-! ### Grants and voids (R41, R42) -/

/-- The gathering's round is irrevocable; a control core has no rounds (R165). -/
def irrevocable (s : State) (c : CoreId) : Bool :=
  match s.gathOf c with
  | some g => ((s.gath g).map Gathering.irrev).getD true
  | none => true

/-- A request for the grant of R42, once. -/
def askGrant (s : State) (g : Nat) : State :=
  s.modGath g fun x => if x.irrev || x.queue.contains .grant then x else { x with queue := x.queue ++ [.grant] }

/-- A request for the grant by a strand. -/
def askGrantOf (s : State) (c : CoreId) : State :=
  match s.gathOf c with
  | some g => askGrant s g
  | none => s

/-- A void request (R42), with a save after it (R47) or not. -/
def askVoid (s : State) (g : Nat) (save : Bool) : State :=
  s.modGath g fun x => { x with queue := x.queue ++ [.void save] }

/-! ### Numbers modulo 2^32 (R137 `Bits(n - m, 31, 0)`) -/

def dist32 (a b : Nat) : Nat := (a + 2 ^ 32 - b % 2 ^ 32) % 2 ^ 32
def dist15 (a b : Nat) : Nat := (a + 2 ^ 15 - b % 2 ^ 15) % 2 ^ 15

/-- Number n is assigned and no `FLAGDONE` covers it. -/
def Sender.uncovered (e : Sender) (n : Nat) : Bool := decide (1 ≤ dist32 n e.d) && decide (dist32 n e.d ≤ dist32 e.a e.d)

/-! ### Channels toward other packages (R322, R323, R429) -/

/-- Fields of a channel-table entry (R322). -/
def chValid (w : Nat) : Bool := testBit w 28
def chImplicit (w : Nat) : Bool := testBit w 29
def chPkg (w : Nat) : Nat := bits w 27 20
def chSender (w : Nat) : Nat := bits w 11 0

/-- The implicit channel of a context to a package. -/
def implicitSender (s : State) (k pkg : Nat) : Option Nat :=
  ((s.context k).channels.find? fun x => chValid x.2 && chImplicit x.2 && chPkg x.2 == pkg).map fun x => chSender x.2

/-- A counted write queued on a sender entry, in the order in which writes come to it (R324). -/
def queueWrite (s : State) (e : Nat) (w : SendWrite) : State :=
  { s with senders := tmod s.senders e fun x => { x with waits := x.waits ++ [w] } }

/-- A record of a remote access refused or of a send on a broken channel (R429, R427). -/
def channelReport (s : State) (k : Nat) (tag : Option Nat) (cls detail e : Nat) : Report :=
  let x := (tget s.senders e).getD { ctx := k, index := 0, dst := 0 }
  { cls, sev := sevTask, folio := 8, uclass := 0x0F, uindex := e, ctx := some k, tag, asp := .channel,
    addr := s.pkg + x.dst * 256 + x.ctx * 65536 + x.index * 2 ^ 24,
    synd := bytesOf 4 0 ++ bytesOf 4 x.a ++ bytesOf 4 x.d ++ bytesOf 4 detail }

/-- A record of a remote access that no implicit channel can carry to its home: the entry that does not exist reads zero (R429, R430). -/
def noChannel (s : State) (k : Nat) (tag : Option Nat) (home : Nat) : Report :=
  { cls := 0x0530, sev := sevTask, folio := 8, uclass := 0x0F, ctx := some k, tag, asp := .channel,
    addr := s.pkg + home * 256 + k * 65536 }

/-! ### Device memory: staging and publication (R39, R43, R114, R313) -/

/-- A write to HBM: watches of its lines wake, and a whole line clears its poison (R403). -/
def hbmWrite (s : State) (pa : Nat) (bs : List Byte) : State :=
  (linesOf pa bs.length).foldl (fun s p => wakeDevice
      { s with hbmBad := if p.2 = 64 then s.hbmBad.filter (· != p.1 / 64) else s.hbmBad } (p.1 / 64))
    { s with hbm := s.hbm.write pa bs }

/-- A line of the range is poisoned. -/
def hbmPoisoned (s : State) (pa n : Nat) : Bool := (linesOf pa n).any fun p => s.hbmBad.contains (p.1 / 64)

/-- Bytes of a staged store laid over bytes read at an address. -/
def overlay (pa : Nat) (bs : List Byte) (x : Staged) : List Byte :=
  match x.op with
  | .store d =>
    (upTo bs.length).map fun i =>
      if x.pa ≤ pa + i ∧ pa + i < x.pa + d.length then d.getD (pa + i - x.pa) 0 else bs.getD i 0
  | _ => bs

/-- A read of HBM, through a gathering's round buffer when `g` names one (R39). -/
def deviceRead (s : State) (g : Option Nat) (home pa n : Nat) : List Byte :=
  let bs := s.hbm.read pa n
  match g.bind s.gath with
  | some x => (x.staged.filter fun y => y.home == home).foldl (overlay pa) bs
  | none => bs

/-- Every byte of a range is staged by the gathering (R328). -/
def stagedAll (s : State) (g : Option Nat) (home pa n : Nat) : Bool :=
  match g.bind s.gath with
  | some x => (upTo n).all fun i => x.staged.any fun y => y.home == home && match y.op with
    | .store d => decide (y.pa ≤ pa + i) && decide (pa + i < y.pa + d.length)
    | _ => false
  | none => false

/-- A staged store makes a line poisoned, or clears it when it covers the whole line (R403). -/
def lineAfter (home line : Nat) (bad : Bool) (y : Staged) : Bool :=
  match y.op with
  | .store d =>
    if y.home = home ∧ y.pa < 64 * line + 64 ∧ 64 * line < y.pa + d.length then
      y.bad || (bad && !(decide (y.pa ≤ 64 * line) && decide (64 * line + 64 ≤ y.pa + d.length)))
    else bad
  | _ => bad

/-- A line of a range is staged as a copy of a poisoned line that no later store has covered (R403). -/
def stagedBad (s : State) (g : Option Nat) (home pa n : Nat) : Bool :=
  match g.bind s.gath with
  | some x => (linesOf pa n).any fun p => x.staged.foldl (lineAfter home (p.1 / 64)) false
  | none => false

/-- A read of a range, through a gathering's round buffer when `g` names one, meets a poisoned line (R403). -/
def readBad (s : State) (g : Option Nat) (home pa n : Nat) : Bool :=
  (hbmPoisoned s pa n && !stagedAll s g home pa n) || stagedBad s g home pa n

/-- The Flezal port toward which a packet is queued. -/
def portToward (s : State) (p : Packet) : Nat := Config.routeOf s.tick p.dst.toNat % 16

/-- A packet of this package is queued for the link toward its destination; one queued for a link that is down is dropped (R416). -/
def queuePacket (s : State) (p : Packet) : State :=
  if s.linkDown.contains (portToward s p) then s else { s with outbox := s.outbox ++ [p] }

/-- The words of at most 8 bytes that a remote store travels in (R328). -/
def putParts : Nat → Nat → List Byte → List (Nat × List Byte)
  | 0, _, _ => []
  | fuel + 1, a, bs =>
    if bs = [] then []
    else
      let k := 8 - a % 8
      (a, bs.take k) :: putParts fuel (a + k) (bs.drop k)

/-- A store to a page homed elsewhere leaves as PUTs on the implicit channel (R179, R328); a missing or broken channel
is refused (R427, R429). -/
def sendPuts (s : State) (k home pa : Nat) (bs : List Byte) (g : Option Nat) (inst : Nat)
    (req : Nat := 0) : Except Report State :=
  let tag := (tget s.insts inst).map (fun (i : Instance) => i.tag)
  match implicitSender s k home with
  | none => .error (noChannel s k tag home)
  | some e =>
    if ((tget s.senders e).map Sender.broken).getD true then .error (channelReport s k tag 0x0511 0 e)
    else .ok ((putParts (bs.length + 1) pa bs).foldl (fun s p =>
      queueWrite s e { kind := 0, lop := p.2.length - 1, daddr := p.1, data := p.2, gath := g, inst, req }) s)

/-- A remote atomic without return (R180): a RATOM on the implicit channel. -/
def sendAtom (s : State) (k home pa op : Nat) (arg : Word) (g : Option Nat) (inst : Nat) (req : Nat := 0) :
    Except Report State :=
  let tag := (tget s.insts inst).map (fun (i : Instance) => i.tag)
  match implicitSender s k home with
  | none => .error (noChannel s k tag home)
  | some e =>
    if ((tget s.senders e).map Sender.broken).getD true then .error (channelReport s k tag 0x0511 0 e)
    else .ok (queueWrite s e { kind := 2, lop := op, daddr := pa, data := bytesOf 8 arg.toNat, gath := g, inst, req })

/-- The operations of Table 14 (R132) on the old value and the operand. -/
def atomicOp (op : Nat) (old arg : Word) : Word :=
  match op with
  | 0 => old + arg
  | 1 => old &&& arg
  | 2 => old ||| arg
  | 3 => old ^^^ arg
  | 4 => arg
  | 5 => if old.toInt ≤ arg.toInt then old else arg
  | 6 => if old.toInt ≤ arg.toInt then arg else old
  | _ => wordOfNat (f32AtomicAdd old.toNat arg.toNat)

/-- Bytes that an operation of Table 14 accesses. -/
def atomicSize (op : Nat) : Nat := if op = 7 then 4 else 8

/-- A mass addition made while an eviction runs is noted: where it lands is unspecified when no reader hold covers it (R319). -/
def noteStray (s : State) (pa : Nat) : State :=
  if s.evicts.any fun e => e.2.any fun r => r.begun && r.fin.isNone then { s with stray := pa :: s.stray } else s

/-- An atomic performed at its port (R180): the old value and the state after it; a float addition may be one of mass (R313). -/
def hbmAtomic (s : State) (pa op : Nat) (arg : Word) : Word × State :=
  let s := if op = 7 then noteStray s pa else s
  let n := atomicSize op
  let old := wordOfNat (natOfBytes (s.hbm.read pa n))
  (old, hbmWrite s pa (bytesOf n (atomicOp op old arg).toNat))

/-- Instances of a context with older unfreed tags that have not retired (R314). -/
def olderRuns (s : State) (k inst : Nat) : Bool :=
  ((s.context k).live.takeWhile (· != inst)).any fun i => ((tget s.insts i).map fun x => !x.retired).getD false

/-- A published mass addition goes to its word: at its port when the page is homed here (R313), else as a RATOM (R180). -/
def sendMass (s : State) (k : Nat) (g : Option Nat) (inst : Nat) (x : Staged) (v : Word32) : Except Report State :=
  if x.home = s.pkg then .ok (hbmAtomic s x.pa 7 (wordOfNat v.toNat)).2
  else sendAtom s k x.home x.pa 7 (wordOfNat v.toNat) g inst

/-- A mass addition is published: in deterministic mode it waits until every older instance has retired (R114, R314). -/
def applyMass (s : State) (k : Nat) (g : Option Nat) (inst : Nat) (x : Staged) (v : Word32) : Except Report State :=
  if (s.attrs k).det ∧ olderRuns s k inst then .ok { s with massHeld := s.massHeld ++ [(inst, x)] }
  else sendMass s k g inst x v

/-- Size that a staged item takes of the allotment (R39, R313). -/
def stagedSize (x : Staged) : Nat :=
  match x.op with
  | .store d => d.length
  | .aperture d _ => d.length
  | .mass _ => 8

/-- Bytes that a gathering has staged at a port, and that a port holds in all. -/
def stagedAt (g : Gathering) (p : Nat) : Nat := ((g.staged.filter fun x => x.port == p).map stagedSize).foldl (· + ·) 0
def portHeld (s : State) (p : Nat) : Nat := (s.gaths.map fun x => stagedAt x.2 p).foldl (· + ·) 0

/-! ### Apertures (R280 to R284, R404) -/

/-- Metadata code of block i of a COMPRESS aperture (R281). -/
def mdCode (s : State) (ap : Aperture) (i : Nat) : Nat :=
  let b := (s.hbm.get (bits ap.xform 47 8 + i / 2)).toNat
  if i % 2 = 0 then b % 16 else b / 16

/-- The words of a compressed block, by its presence mask (R282). -/
def expand : Nat → Nat → List Byte → List Byte
  | 0, _, _ => []
  | n + 1, mask, bs =>
    if mask % 2 = 1 then slice bs 0 4 ++ expand n (mask / 2) (bs.drop 4) else zeros 4 ++ expand n (mask / 2) bs

/-- Why an access through a window fails: the code of a block that cannot be read (R404), a poisoned line that a merge or a
decompression would consume (R403), or an address behind the window that no HBM backs (R278). -/
inductive WindowErr where
  | code (c : Nat)
  | poison
  | absent (pa : Nat)
deriving DecidableEq, Repr

/-- The bytes from an address up are HBM (R278). -/
def backed (a n : Nat) : Bool := isBacked a && isBacked (a + n - 1)

/-- Where the code of block i stands (R281). -/
def mdAddr (ap : Aperture) (i : Nat) : Nat := bits ap.xform 47 8 + i / 2

/-- The 256 B of a block, decompressed (R281, R282), or why it cannot be read. -/
def readBlock (s : State) (ap : Aperture) (i : Nat) : Except WindowErr (List Byte) :=
  let code := mdCode s ap i
  let a := ap.back + 256 * i
  if !isBacked (mdAddr ap i) then .error (.absent (mdAddr ap i))
  else if hbmPoisoned s (mdAddr ap i) 1 then .error .poison
  else if code = 0 then .ok (zeros 256)
  else if 8 < code then .error (.code code)
  else if !backed a (32 * code) then .error (.absent a)
  else if hbmPoisoned s a (32 * code) then .error .poison
  else if code = 8 then .ok (s.hbm.read a 256)
  else
    let bs := s.hbm.read a (32 * code)
    .ok (expand 64 (natOfBytes (bs.take 8)) (bs.drop 8))

/-- A line of metadata stands in the cache of a memory port (R17, R281): 256 lines of 64 B, of which a new one replaces any (log 103).
DESIGN CHOICE (log 135): the port is the one that serves the block's window address. -/
def keepCode (s : State) (ap : Aperture) (i : Nat) : State :=
  let p := portOf (ap.wbase + 256 * i)
  let x := (tget s.ports p).getD {}
  let line := mdAddr ap i / 64
  if x.codes.contains line then s
  else
    let old := if x.codes.length < 256 then x.codes else x.codes.eraseIdx (Config.replaced s.tick % 256)
    { s with ports := tset s.ports p { x with codes := line :: old } }

/-- The code of block i written (R281). -/
def putCode (s : State) (ap : Aperture) (i code : Nat) : State :=
  let old := (s.hbm.get (mdAddr ap i)).toNat
  let byte := if i % 2 = 0 then old / 16 * 16 + code else old % 16 + 16 * code
  keepCode { s with hbm := s.hbm.put (mdAddr ap i) (BitVec.ofNat 8 byte) } ap i

/-- What a block is stored as (Table 6 of R282): its code and its sectors. -/
def packBlock (bs : List Byte) : Nat × List Byte :=
  let words := (upTo 64).map fun j => field bs (4 * j) 4
  let nz := words.filter (· != 0)
  let z := nz.length
  let code := if z = 0 then 0 else if z ≤ 54 then (8 + 4 * z + 31) / 32 else 8
  let mask := ((upTo 64).map fun j => if words.getD j 0 != 0 then 2 ^ j else 0).foldl (· + ·) 0
  (code, if code = 0 then [] else if code = 8 then slice bs 0 256
    else slice (bytesOf 8 mask ++ nz.flatMap (bytesOf 4 ·)) 0 (32 * code))

/-- A block written: the stored sectors and the code of Table 6 (R282), indivisibly; the poison of its lines clears (R404). A copy of
a poisoned line leaves code 15 (R403, log 109). -/
def writeBlock (s : State) (ap : Aperture) (i : Nat) (bs : List Byte) (bad : Bool) : Except WindowErr State :=
  let a := ap.back + 256 * i
  let (code, data) := packBlock bs
  if !isBacked (mdAddr ap i) then .error (.absent (mdAddr ap i))
  else if bad then .ok (putCode s ap i 15)
  else if data ≠ [] ∧ !backed a data.length then .error (.absent a)
  else
    let s := putCode (hbmWrite s a data) ap i code
    .ok { s with hbmBad := s.hbmBad.filter fun l => !(decide (a / 64 ≤ l) && decide (l < a / 64 + 4)) }

/-- Where BLOCK finds window offset o (R283): the byte's address, and whether only its low nibble is an element. -/
def blockAddr (ap : Aperture) (o : Nat) : Option (Nat × Bool) :=
  let es := bits ap.xform 5 4
  let len := bits ap.xform 55 40 + 1
  let lb := if es = 0 then (len + 1) / 2 else len * es
  let tc := (lb + 63) / 64
  let t := o / 4096
  let row := 64 * (t / tc) + o % 4096 / 64
  let b := 64 * (t % tc) + o % 64
  if row ≤ bits ap.xform 39 24 ∧ b < lb then
    some (ap.back + row * 64 * bits ap.xform 23 8 + b, es == 0 && len % 2 == 1 && b + 1 == lb)
  else none

/-- Where TRANSPOSE finds window offset o (R284). -/
def transposeAddr (ap : Aperture) (o : Nat) : Option Nat :=
  let e := 2 ^ bits ap.xform 5 4
  let rows := bits ap.xform 43 28
  if o < bits ap.xform 59 44 * rows * e then
    some (ap.back + o % (rows * e) / e * bits ap.xform 27 8 + o / (rows * e) * e + o % e)
  else none

/-- The byte behind window offset o of BLOCK, TRANSPOSE or no transform. -/
def windowByte (s : State) (ap : Aperture) (o : Nat) : Except WindowErr Byte :=
  match ap.xform % 16 with
  | 2 =>
    let pad := bits ap.xform 63 56
    match blockAddr ap o with
    | some (a, half) =>
      if !isBacked a then .error (.absent a)
      else
        let b := s.hbm.get a
        .ok (if half then BitVec.ofNat 8 (b.toNat % 16 + pad % 16 * 16) else b)
    | none => .ok (BitVec.ofNat 8 pad)
  | 3 =>
    match transposeAddr ap o with
    | some a => if isBacked a then .ok (s.hbm.get a) else .error (.absent a)
    | none => .ok 0
  | _ => if isBacked (ap.back + o) then .ok (s.hbm.get (ap.back + o)) else .error (.absent (ap.back + o))

/-- A read through an aperture. -/
def apertureRead (s : State) (ap : Aperture) (o n : Nat) : Except WindowErr (List Byte) :=
  if ap.xform % 16 = 1 then
    (upTo n).mapM fun i => (readBlock s ap ((o + i) / 256)).map fun bs => bs.getD ((o + i) % 256) 0
  else (upTo n).mapM fun i => windowByte s ap (o + i)

/-- The blocks of 256 B that a range touches: (block, offset in it, length). -/
def blockParts : Nat → Nat → Nat → List (Nat × Nat × Nat)
  | 0, _, _ => []
  | fuel + 1, o, n =>
    if n = 0 then []
    else
      let k := min n (256 - o % 256)
      (o / 256, o % 256, k) :: blockParts fuel (o + k) (n - k)

/-- A write of the parts of COMPRESS blocks: a part of a block is merged with what it holds (R281, R404). -/
def compressWrite (s : State) (ap : Aperture) (bad : Bool) : List (Nat × Nat × Nat) → List Byte → Except WindowErr State
  | [], _ => .ok s
  | (i, at_, k) :: ps, bs =>
    match (if k = 256 then .ok bs else readBlock s ap i) with
    | .error e => .error e
    | .ok old =>
      match writeBlock s ap i (putBytes (old.take 256) at_ (bs.take k)) bad with
      | .error e => .error e
      | .ok s => compressWrite s ap bad ps (bs.drop k)

/-- Where a byte of a window write goes: padded positions are discarded, and of a half byte only the low nibble is an element. -/
def mapWrite (s : State) (ap : Aperture) (x : Nat × Byte) : Option (Nat × Byte) :=
  match ap.xform % 16 with
  | 2 => (blockAddr ap x.1).map fun y =>
      (y.1, if y.2 then BitVec.ofNat 8 (x.2.toNat % 16 + (s.hbm.get y.1).toNat / 16 * 16) else x.2)
  | 3 => (transposeAddr ap x.1).map fun a => (a, x.2)
  | _ => some (ap.back + x.1, x.2)

/-- Bytes at addresses, as runs of consecutive ones. -/
def runsOf : List (Nat × Byte) → List (Nat × List Byte)
  | [] => []
  | (a, b) :: xs =>
    match runsOf xs with
    | (a', bs) :: rs => if a' = a + 1 then (a, b :: bs) :: rs else (a, [b]) :: (a', bs) :: rs
    | [] => [(a, [b])]

/-- The lines of a range are poisoned: a copy of a poisoned line (R403). -/
def spoil (s : State) (pa n : Nat) : State :=
  { s with hbmBad := (linesOf pa n).foldl (fun b p => if b.contains (p.1 / 64) then b else p.1 / 64 :: b) s.hbmBad }

/-- A write to HBM of a line that may be a copy of a poisoned one (R403). -/
def hbmPut (s : State) (pa : Nat) (bs : List Byte) (bad : Bool) : State :=
  if bad then spoil (hbmWrite s pa bs) pa bs.length else hbmWrite s pa bs

/-- A write through an aperture, or why it fails. -/
def apertureWrite (s : State) (ap : Aperture) (o : Nat) (bs : List Byte) (bad : Bool) : Except WindowErr State :=
  if ap.xform % 16 = 1 then compressWrite s ap bad (blockParts (bs.length + 1) o bs.length) bs
  else
    let runs := runsOf (((upTo bs.length).map fun i => (o + i, bs.getD i 0)).filterMap (mapWrite s ap))
    match runs.find? fun r => !backed r.1 r.2.length with
    | some r => .error (.absent r.1)
    | none => .ok (runs.foldl (fun s r => hbmPut s r.1 r.2 bad) s)

/-! ### Publication -/

/-- A record of area 0x03 (R393): `who` is the requester code and `acc` the access code. -/
def memReport (s : State) (base : Report) (cls sev acc who : Nat) (irrev recurs : Bool) (asp : AddrKind)
    (addr pte detail : Nat) : Report :=
  let _ := s
  { base with
    cls, sev, asp, addr
    synd := bytesOf 4 (acc + who * 16 + natOfBool irrev * 256 + natOfBool recurs * 512) ++ bytesOf 8 pte
      ++ bytesOf 4 detail }

/-- A record of the memory port that serves a PA (R393). -/
def portReport (pa k : Nat) : Report :=
  { cls := 0, sev := 0, folio := bits pa 38 36, uclass := 7, uindex := portOf pa, ctx := some k }

/-- The record of an item that cannot be published (R393): of the port, with the gathering and the strand that it came from. -/
def publishReport (s : State) (k : Nat) (g : Option Nat) (x : Staged) (cls acc who pa detail : Nat) : Report :=
  let y := g.bind s.gath
  memReport s { portReport pa k with
      tag := y.map Gathering.tag, round := (y.map Gathering.round).getD 0 % 2 ^ 32, where_ := (x.core.map whereWord).getD 0 }
    cls sevTask acc who true false .pa pa 0 detail

/-- One staged item is published (R39, R43, R179, R194, R280, R313). -/
def publishItem (s : State) (k : Nat) (g : Option Nat) (inst : Nat) (x : Staged) : Except Report State :=
  match x.op with
  | .store d =>
    if x.home = s.pkg then .ok (hbmPut s x.pa d x.bad)
    else if x.bad then .error (publishReport s k g x 0x0314 5 5 x.pa 0)
    else sendPuts s k x.home x.pa d g inst
  | .mass v =>
    if x.home = s.pkg ∧ hbmPoisoned s x.pa 4 then .error (publishReport s k g x 0x0314 2 0 x.pa 0)
    else applyMass s k g inst x v
  | .aperture d ap =>
    match apertureWrite s ap (x.pa - ap.wbase) d x.bad with
    | .ok s => .ok s
    | .error (.absent pa) => .error (publishReport s k g x 0x0306 5 5 pa (bits pa 38 36))
    | .error _ => .error (publishReport s k g x 0x0314 5 5 x.pa 2)

/-- Items published in order; the first refusal stops. -/
def publishList (s : State) (k : Nat) (g : Option Nat) (inst : Nat) : List Staged → State × Option Report
  | [] => (s, none)
  | x :: xs =>
    match publishItem s k g inst x with
    | .ok s => publishList s k g inst xs
    | .error r => (s, some r)

/-- Every staged item of a gathering is published (R34 step 5, R43). -/
def publishAll (s : State) (g : Nat) : State × Option Report :=
  match s.gath g with
  | some x => publishList (s.modGath g fun y => { y with staged := [] }) x.ctx (some g) x.inst x.staged
  | none => (s, none)

/-- What became of an act that may first need the grant of R42 or may be refused. -/
inductive Tried (α : Type) where
  | done (a : α)
  | needsGrant
  | refused (s : α) (r : Report)

/-- An item reaches its port (R39, R41, R43, R407): published when there is no revocable round, staged while the
allotment and the port have room, and otherwise held for the grant. -/
def stageItem (s : State) (k : Nat) (g : Option Nat) (inst : Nat) (x : Staged) : Tried State :=
  let now := match publishItem s k g inst x with
    | .ok s => .done s
    | .error r => .refused s r
  match g.bind s.gath with
  | none => now
  | some y =>
    if y.irrev then now
    else if (s.attrs k).allotment < stagedAt y x.port + stagedSize x ∨ Config.portBuffer < portHeld s x.port + stagedSize x
    then .needsGrant
    else .done (s.modGath (g.getD 0) fun y => { y with staged := y.staged ++ [x] })

/-- A list of items reaches its ports in order: those before one that is refused have reached them, and while the round is revocable
they are taken all or none. -/
def stageAll (s : State) (k : Nat) (g : Option Nat) (inst : Nat) : List Staged → Tried State
  | [] => .done s
  | x :: xs =>
    match stageItem s k g inst x with
    | .done s => stageAll s k g inst xs
    | .needsGrant => .needsGrant
    | .refused s r => .refused s r

/-! ### The end of an instance (R59, R363, R413) -/

/-- A leaf that no gathering holds any longer: nothing in it runs. -/
def idleLeaf (l : Leaf) : Leaf :=
  { l with
    gath := none
    strands := []
    sendq := []
    turn := none
    journal := []
    f0 := { l.f0 with run := false }
    f1 := { l.f1 with run := false }
    vp := { l.vp with run := false } }

/-- Engines that leave the memory ports at which they wait, with their misses and the turns that they have had. -/
def leavePorts (s : State) (gone : PortUser → Bool) : State :=
  { s with
    ports := s.ports.map fun p => (p.1, { p.2 with queue := p.2.queue.filter fun w => !gone w.1 })
    misses := s.misses.filter fun m => !gone m.2.user
    granted := s.granted.filter fun g => !gone g.1 }

/-- What waits at a port, or for a walk, is a unit or a strand of one of the leaves, or belongs to a copy, a pool entry or a gathering that
is no more. -/
def ofLeaves (s : State) (ns : List Nat) : PortUser → Bool
  | .flow n _ => ns.contains n
  | .fetch (.strand n _) => ns.contains n
  | .instr (.strand n _) _ => ns.contains n
  | .copy id => (tget s.copies id).isNone
  | .bind e => (tget s.pool e).isNone
  | .commit g => (s.gath g).isNone
  | _ => false

/-- Tags are freed oldest first, when their instance has retired and owes no response (R59). -/
def freeTagsFrom (s : State) (k : Nat) : List Nat → State
  | [] => s.modContext k fun c => { c with live := [] }
  | i :: is =>
    match tget s.insts i with
    | some x =>
        if x.retired && !x.owed then freeTagsFrom (leavePorts { s with insts := tdel s.insts i } (· == .spine x.ctx x.tag)) k is
      else s.modContext k fun c => { c with live := i :: is }
    | none => freeTagsFrom s k is

/-- Tags of a context freed as far as R59 allows. -/
def freeTags (s : State) (k : Nat) : State := freeTagsFrom s k (s.context k).live

/-- Held mass additions of a context, by the tags of their instances and within one in the order of publication (R114). -/
def heldOf (s : State) (k : Nat) : List (Nat × Staged) :=
  (s.context k).live.flatMap fun i => s.massHeld.filter fun m => m.1 == i

/-- The first held mass addition of a context, in tag order, that no older instance keeps waiting (R114, R314). -/
def nextHeld (s : State) (k : Nat) : Option (Nat × Staged) := (heldOf s k).find? fun m => !olderRuns s k m.1

/-- An instance retires with a status (R59, R68): its response is due, in the order of retirement. -/
def retireCore (s : State) (i : Nat) (status : Nat) : State :=
  match tget s.insts i with
  | some x =>
    if x.retired then s
    else
      let owed := x.dest != .nowhere
      let s := { s with insts := tset s.insts i { x with retired := true, status, owed } }
      if owed then s.modContext x.ctx fun c => { c with due := c.due ++ [.inst i] } else s
  | none => s

/-- A gathering leaves its quires at once: strands, units and commands stop, requests and copies go, open records that
held it are closed (R363). -/
def dropGath (s : State) (g : Nat) : State :=
  match s.gath g with
  | none => s
  | some x =>
    let s := x.leaves.foldl (fun s n => s.modLeaf n idleLeaf) s
    let s := x.quires.foldl (fun s q => s.modQuire q fun u =>
      { u with
        queue := u.queue.filter fun c => c.gath != g
        started := u.started.filter fun c => c.gath != g }) s
    let s := { s with
      gaths := tdel s.gaths g
      reqs := s.reqs.filter fun r => r.2.gath != some g
      copies := s.copies.filter fun c => c.2.gath != some g
      opens := s.opens.filter fun o => o.gath != some g
      evicts := s.evicts.map fun e => (e.1, e.2.filter fun r => r.begun || r.gath != some g) }
    leavePorts s (ofLeaves s x.leaves)

/-- A sender entry when an instance ends: its queued writes go, and its numbered writes can no longer be replayed from
their source (R424). -/
def endSender (i : Nat) (e : Sender) : Sender :=
  { e with
    waits := e.waits.filter fun w => w.inst != i
    ended := if e.ring.any (fun r => r.inst == i) then i :: e.ended else e.ended }

/-- An instance that has neither retired nor ended. -/
def instLive (s : State) (i : Nat) : Bool := ((tget s.insts i).map fun (x : Instance) => !x.retired && !x.ended).getD false

/-- An instance ends at once with a status (R363): gatherings and saved gatherings, pool entries, requests, copies, queued SPAWNs
and mass additions go. It retires at once, or when its capture entry, if it has one, has been closed (R365, log 128). -/
def endCore (s : State) (i : Nat) (status : Nat) : State :=
  match tget s.insts i with
  | none => s
  | some x =>
    if x.retired || x.ended then s
    else
      let gs := (s.gaths.filter fun g => g.2.inst == i).map (·.1)
      let areas := (s.papers.filter fun p => p.2.gath.inst == i).map fun p => p.2.gath.area
      let gone := gs ++ (s.papers.filter fun p => p.2.gath.inst == i).map (·.1)
      let s := gs.foldl dropGath s
      let s := { s with
        papers := s.papers.filter fun p => p.2.gath.inst != i
        pool := s.pool.filter fun e => e.2.inst != i
        copies := s.copies.filter fun c => c.2.inst != i
        rereads := s.rereads.filter fun r => !(gone.any fun g => r.2.gath == some g)
        massHeld := s.massHeld.filter fun m => m.1 != i
        senders := s.senders.map fun (e : Nat × Sender) => (e.1, endSender i e.2)
        opens := s.opens.filter fun o => o.held != Holder.inst i
        insts := tset s.insts i { x with ended := true, status } }
      let s := s.modContext x.ctx fun c =>
        { c with
          areas := c.areas.filter fun a => !areas.contains a
          backlog := c.backlog.filter fun b => b.inst != i }
      let s := leavePorts s (ofLeaves s [])
      if x.capture.isSome then s else retireCore s i status

/-- The records of an instance that ends: the one that detects the cause, and one of severity TASK-ENDED that names a live instance
when that one does not (R363). -/
def endRecords (s : State) (i : Nat) (r : Report) : State :=
  let s := writeRecord s r
  match tget s.insts i with
  | some x =>
    if x.retired || x.ended || r.tag = some x.tag then s
    else writeRecord s { r with sev := sevTask, ctx := some x.ctx, tag := some x.tag }
  | none => s

/-- Held mass additions of a context whose older instances have retired are applied, in tag order (R114, R314). One that its channel
refuses (R427, R429) ends the instance that issued it. -/
def settleMass : Nat → State → Nat → State
  | 0, s, _ => s
  | fuel + 1, s, k =>
    match nextHeld s k with
    | none => s
    | some m =>
      let s := { s with massHeld := s.massHeld.erase m }
      match m.2.op with
      | .mass v =>
        match sendMass s k none m.1 m.2 v with
        | .ok s => settleMass fuel s k
        | .error r => settleMass fuel (endCore (endRecords s m.1 r) m.1 r.cls) k
      | _ => settleMass fuel s k

/-- What follows a retirement in a context: held mass additions that no older instance keeps waiting are applied, and tags are freed
(R59, R314). -/
def afterRetire (s : State) (k : Nat) : State := freeTags (settleMass s.massHeld.length s k) k

/-- An instance retires with a status (R59, R68), and what waited for that goes on. -/
def retireInst (s : State) (i : Nat) (status : Nat) : State :=
  match tget s.insts i with
  | some x => if x.retired then s else afterRetire (retireCore s i status) x.ctx
  | none => s

/-- An instance ends at once with a status (R363), and what waited for its retirement goes on. -/
def endInst (s : State) (i : Nat) (status : Nat) : State :=
  match tget s.insts i with
  | some x => afterRetire (endCore s i status) x.ctx
  | none => s

/-- A record of severity TASK-ENDED that names the instance, and its end (R363). -/
def endWith (s : State) (i : Nat) (r : Report) : State := endInst (endRecords s i r) i r.cls

/-! ### Faults of a strand, and the handler mode of a control core (R369 to R371, R379, R171, R364) -/

/-- The record of a halted core (R435). -/
def haltReport (c : Nat) : Report :=
  { cls := 0x0630, sev := sevCorrected, folio := if c < 8 then 8 else 9, uclass := 0x0D, uindex := c
    synd := zeros 12 ++ bytesOf 4 c }

/-- What a core has written of a batch goes (R443): every slot that it wrote, with all that stands in it. -/
def withoutLoader (c : Nat) (slots : List (Nat × Nat)) (images : Table Memory) : List (Nat × Nat) × Table Memory :=
  let gone := (slots.filter fun p => p.2 == c).map (·.1)
  (slots.filter fun p => !gone.contains p.1, images.filter fun x => !gone.contains x.1)

/-- The pending shadows that a halted core wrote are discarded, and what its `IMGW` still have under way (R441, R443). -/
def dropLoader (s : State) (c : Nat) : State :=
  let now := withoutLoader c s.pending s.shadow
  { s with
    pending := now.1
    shadow := now.2
    batches := s.batches.map fun b =>
      let x := withoutLoader c b.slots b.images
      { b with slots := x.1, images := x.2 }
    copies := s.copies.filter fun x => !(x.2.kind == 12 && x.2.claim.any fun d => d.core == .control (Fin.ofNat 16 c)) }

/-- A queue page after device reset (Table 2 of R4): the fields whose reset value is "—" keep their values. -/
def resetPage (p : QueuePage) : QueuePage := { sqTail := p.sqTail }

/-- DEVICE-RESET (R363): the package boots again; what has already left it stays outside, as does host memory. What Table 2 of R4 calls
"not changed by reset" keeps its value: the page-table entries, and with them HBM (R271, log 90), and `CYCLES` (R88). -/
def deviceReset (s : State) : State :=
  { State.reset with
    tick := s.tick
    agenda := s.agenda
    contexts := s.contexts.map fun c => { page := resetPage c.page }
    pkg := s.pkg
    nextId := s.nextId
    hbm := s.hbm
    hbmBad := s.hbmBad
    folios := s.folios.map fun x => { cycles := x.cycles }
    hubClocks := s.hubClocks
    outbox := s.outbox
    host := s.host
    irqs := s.irqs
    replies := s.replies
    reads := s.reads }

/-- The next running core of a hub takes over the traps of one that has halted (R364): the interrupt that pends on it or whose handler
it was running, and the open records that trapped it, for which it is trapped. -/
def takeOver (s : State) (c : Nat) : State :=
  let old := s.core c
  match ((upTo 8).map fun k => c / 8 * 8 + (c % 8 + k) % 8).find? fun k => !(s.core k).halted with
  | some n =>
    let s := s.modCore n fun k =>
      { k with irq := k.irq || old.irq || old.serving || s.opens.any (fun o => o.core == c), news := k.news || old.news }
    let s := s.modCore c fun k => { k with irq := false, serving := false, news := false }
    { s with opens := s.opens.map fun o => if o.core == c then { o with core := n } else o }
  | none => s

/-- A control core halts on an error that it cannot contain: the record 0x0630, its pending shadows discarded (R443), its traps
taken over (R364); when every core of a hub has halted the package resets. -/
def haltCore (s : State) (c : Nat) : State :=
  let s := takeOver (s.modCore c fun k => { k with halted := true, handler := false, cause := none }) c
  let s := dropLoader s c
  let s := writeRecord s (haltReport c)
  let hub := c / 8 * 8
  if (upTo 8).all fun k => (s.core (hub + k)).halted then deviceReset s
  else s

/-- TAKING AN EXCEPTION (R379): the core keeps the resume address, writes it to G62 and the cause to G61, enters handler mode, and
fetches the block at local address 0 next. `cls` is 0 for an interrupt. -/
def takeException (s : State) (c : Nat) (resume cls detail : Nat) : State :=
  s.modCore c fun k =>
    { k with
      regs := (k.regs.set 62 (wordOfNat resume)).set 61 (wordOfNat (cls % 65536 + detail % 2 ^ 32 * 65536))
      handler := true
      resume := resume
      cause := none
      irq := if cls = 0 then false else k.irq
      serving := cls == 0
      strand := { k.strand with pc := 0, block := none, faulted := false, wait := .running, watch := none } }

/-- RETURN FROM AN EXCEPTION (R171, R379, R380): the core leaves handler mode and fetches the resume address that entry kept; the
open records that trapped it and left the log in this handler mode close. -/
def returnFrom (s : State) (c : Nat) : State :=
  let s := s.modCore c fun k => { k with handler := false, serving := false, strand := { k.strand with pc := k.resume } }
  { s with opens := s.opens.filter fun o => !(o.core == c && o.moved) }

/-- A claim that no block can meet any longer. -/
def deadBlk : Nat := 2 ^ 32
/-- A claim of a block that is abandoned. -/
def killClaim (c : CoreId) (blk : Nat) (x : Claim) : Claim :=
  if x.core == c && x.blk == blk then { x with blk := deadBlk } else x

/-- The block in flight of a control core is abandoned (R367): what it has not performed goes, and what it has performed
goes on without a delivery. -/
def abandon (s : State) (k : Fin 16) : State :=
  let c : CoreId := .control k
  let b := (s.strand c).blkinrnd
  { s with
    reqs := s.reqs.filter fun r => !(r.2.core == c && r.2.blk == b)
    copies := s.copies.map fun (x : Nat × Copy) => (x.1, { x.2 with claim := x.2.claim.map (killClaim c b) })
    evicts := s.evicts.map fun (e : Nat × List EvictReq) =>
      (e.1, e.2.map fun r => { r with claim := killClaim c b r.claim })
    savers := s.savers.map fun (x : Nat × Claim) => (x.1, killClaim c b x.2)
    batches := s.batches.map fun x => { x with claim := killClaim c b x.claim }
    misses := s.misses.filter fun m => match m.2.user with
      | .instr d _ => d != c
      | _ => true }

/-- A fault of a strand's own block (R371, R379): a leaf strand reports it to its round controller and issues nothing
more; a control core writes its record to the device log and takes the exception, or halts in handler mode. -/
def raiseFault (s : State) (c : CoreId) (r : Report) (detail : Nat) : State :=
  match c with
  | .strand n _ =>
    if (s.strand c).faulted then s
    else
      let s := s.modStrand c fun st => { st with faulted := true }
      match (s.leaf n).gath with
      | some g => s.modGath g fun x => { x with queue := x.queue ++ [.fault r] }
      | none => s
  | .control k =>
    let (_, s) := emitRecord s { r with sev := sevStalled, tag := none, where_ := 0 } true
    let s := abandon s k
    if (s.core k.val).handler then haltCore s k.val
    else s.modCore k.val fun x =>
      { x with
        cause := some (((x.strand.block.map Block.addr).getD x.strand.pc), r.cls, detail)
        strand := { x.strand with block := none, faulted := true } }

/-- A fault of area 0x01 at a slot of a strand's block (R369, R375); only class 0x0117 names an address (log 26). -/
def blockFault (s : State) (c : CoreId) (slot : Option Nat) (cls detail : Nat) : State :=
  match (s.strand c).block with
  | some b => raiseFault s c { strandReport s c cls sevTask with synd := blockSynd b slot detail } detail
  | none => s

/-! ### Deliveries (R121, R124, R137) -/

/-- One output is produced (R126). -/
def produce (s : State) (c : CoreId) : State := s.modBlock c fun b => { b with produced := b.produced + 1 }

/-- A pending register write; a second value to one register is class 0x0111 (R124, R375). -/
def pendWrite (s : State) (c : CoreId) (slot g : Nat) (v : Word) : State :=
  match (s.strand c).block with
  | some b =>
    if b.regs.any fun x => x.1 == g then blockFault s c (some slot) 0x0111 g
    else s.modBlock c fun b => { b with regs := b.regs ++ [(g, v)] }
  | none => s

/-- Operand k of a slot. -/
def Slot.opnd (x : Slot) : OpndKind → Operand
  | .l => x.l
  | .r => x.r
  | .t => x.t
def Slot.setOpnd (x : Slot) (k : OpndKind) (o : Operand) : Slot :=
  match k with
  | .l => { x with l := o }
  | .r => { x with r := o }
  | .t => { x with t := o }

/-- Number of an operand in `DETAIL` (R376). -/
def OpndKind.detail : OpndKind → Nat
  | .l => 0
  | .r => 1
  | .t => 2

/-- A delivery arrives at an operand (R121): a second value is class 0x0110 at the receiver. -/
def arrive (s : State) (c : CoreId) (k : OpndKind) (j : Nat) (v : Option Word) : State :=
  let o := (s.slot c j).opnd k
  match v, o.value with
  | some _, some _ => blockFault s c (some j) 0x0110 (OpndKind.detail k)
  | some w, none => s.modSlot c j fun x => x.setOpnd k { o with pending := o.pending - 1, value := some w }
  | none, _ => s.modSlot c j fun x => x.setOpnd k { o with pending := o.pending - 1 }

/-- Every arrival of an operand has come (R121). -/
def Operand.arrived (o : Operand) : Bool := o.pending == 0

/-! ### Sends of the block core (R86, R87, R14) -/

/-- The receiving end of an output port whose channel is live (R240). -/
def liveChannel (s : State) (n p : Nat) : Option (Nat × Nat) :=
  let l := s.leaf n
  let w := l.routes.getD (8 + p) 0
  match l.gath.bind s.gath with
  | some g =>
    if !rtEn w then none
    else match g.leafAt (rtPx w) (rtPy w) with
      | some m =>
        let v := (s.leaf m).routes.getD (rtPort w) 0
        if rtEn v && rtSlots v == rtSlots w && rtSkip v == rtSkip w && rtPort v == p
            && g.leafAt (rtPx v) (rtPy v) == some n then some (m, rtPort w) else none
      | none => none
  | none => none

/-- A token may enter an output port: its channel is live and its free count is not zero. -/
def mayEnter (s : State) (n p : Nat) : Bool :=
  (liveChannel s n p).isSome && ((s.leaf n).outputs.getD p {}).free != 0

/-- A token enters an output port (R14). -/
def enterPort (s : State) (n p : Nat) (t : Token) : State :=
  s.modLeaf n fun l =>
    { l with outputs := lmod l.outputs p fun o =>
        { o with free := o.free - 1, inflight := o.inflight ++ [t], dseen := o.dseen || t.kind == .done, sent := o.sent + 1 } }

/-- What the block core sends enters an output port. R232 makes a token after a DONE an error until the producer is restarted and
says of no block core what restarts it; DESIGN CHOICE (log 118): each block of a strand is a start. -/
def enterFrom (s : State) (n p : Nat) (r : SendReq) (t : Token) : State :=
  let here := some (r.strand, (((s.leaf n).gath.bind s.gath).map Gathering.round).getD 0, r.blk)
  let late := ((s.leaf n).outputs.getD p {}).closer == here
  let s := enterPort s n p { t with late }
  if t.kind = .done then s.modLeaf n fun l => { l with outputs := lmod l.outputs p fun o => { o with closer := here } } else s

/-- The block of a claim is still in flight. -/
def claimLive (s : State) (x : Claim) : Bool :=
  let st := s.strand x.core
  st.block.isSome && st.blkinrnd == x.blk

/-- A claim of the block in flight. -/
def claimOf (s : State) (c : CoreId) (i : Nat) : Claim := ⟨c, i, (s.strand c).blkinrnd⟩

/-- Every lower slot's sends to a port have entered or been nullified (R87); those of a committed block have. -/
def lowerDone (s : State) (x : Claim) (p : Nat) : Bool :=
  match (s.strand x.core).block with
  | some b => !claimLive s x || (b.slots.take x.slot).all fun y => !y.ports.contains p
  | none => true

/-- The core of a strand index of a leaf. -/
def strandOf (n t : Nat) : CoreId := .strand n (Fin.ofNat 4 t)

/-- The claim of a waiting send. -/
def sendClaim (n : Nat) (r : SendReq) : Claim := ⟨strandOf n r.strand, r.slot, r.blk⟩

/-- The first waiting send to a port whose lower slots are done: it enters next (R87). -/
def nextSend (s : State) (n p : Nat) : Option SendReq :=
  (s.leaf n).sendq.find? fun r => r.port == p && lowerDone s (sendClaim n r) p

/-- A slot's send to a port is over: it has entered or been nullified. -/
def sendOver (s : State) (x : Claim) (p : Nat) : State :=
  if claimLive s x then s.modSlot x.core x.slot fun y => { y with ports := y.ports.erase p } else s

/-- Value sends that may enter port p do so, in order; the TURN of a `TTURN.emit` is no output of its block (R219). -/
def pumpPort (n p : Nat) : Nat → State → State
  | 0, s => s
  | fuel + 1, s =>
    match nextSend s n p with
    | some r =>
      match r.value with
      | some t =>
        if mayEnter s n p then
          let s := enterFrom s n p r t
          let s := s.modLeaf n fun l => { l with sendq := l.sendq.erase r }
          let s := sendOver s (sendClaim n r) p
          pumpPort n p fuel (if t.kind = .data then produce s (strandOf n r.strand) else s)
        else s
      | none => s
    | none => s

/-- Value sends of a leaf that may enter their ports do so. -/
def pumpSends (s : State) (n : Nat) : State :=
  (upTo 8).foldl (fun s p => pumpPort n p ((s.leaf n).sendq.length) s) s

/-- The token that a value sent to a port forms (R86). -/
def valueToken (w : Word) : Token :=
  { kind := .data, deckle := 3,
    lanes := [BitVec.ofNat 32 w.toNat, BitVec.ofNat 32 (w.toNat / 2 ^ 32)] ++ List.replicate 14 0 }

/-- `Deliver` of R137: a value or NULL to a target. DESIGN CHOICE (log 134): at an output port of a control core, which has no
stream ports, it counts as produced and goes nowhere. -/
def deliver (s : State) (c : CoreId) (slot : Nat) (t : Target) (v : Option Word) : State :=
  match t with
  | .none => s
  | .reg g =>
    match v with
    | some w => pendWrite (produce s c) c slot g.val w
    | none => produce s c
  | .port p =>
    match v, coreLeaf c with
    | some w, some n =>
      pumpSends (s.modLeaf n fun l =>
        { l with sendq := l.sendq ++ [⟨coreIndex c, slot, (s.strand c).blkinrnd, p.val, some (valueToken w)⟩] }) n
    | none, some n => pumpSends (produce (sendOver s (claimOf s c slot) p.val) c) n
    | _, none => produce s c
  | .opnd k j => arrive s c k j.val v

/-- Deliveries of an instruction to `TA` and `TB`, after which it is finished. -/
def deliver2 (s : State) (c : CoreId) (slot : Nat) (ta tb : Target) (va vb : Option Word) : State :=
  let s := s.modSlot c slot fun x => { x with status := .done }
  deliver (deliver s c slot ta va) c slot tb vb

/-- A completion token (R119). -/
def tok : Option Word := some 0

end Sys2Proof.Machine
end

