-- ==== Sys2Proof/Machine/Translate.lean ====
section
/-!
DEFINITION. Translation of device addresses (R269 to R277), the conditions of each access (R273, R278, R280, R285), and
how a failing access is reported (R393 to R398).
-/

namespace Sys2Proof.Machine

/-! ### Access codes (R393) -/

def accLoad : Nat := 0
def accStore : Nat := 1
def accAtomic : Nat := 2
def accFetch : Nat := 3
def accMoverRead : Nat := 4
def accMoverWrite : Nat := 5
def accFlowRead : Nat := 6
def accFlowWrite : Nat := 7
def accWalk : Nat := 8
def accTile : Nat := 9

/-- The access writes (R273). -/
def accWrites (acc : Nat) : Bool := acc == 1 || acc == 2 || acc == 5 || acc == 7
/-- The access is a bulk read, which a remote page does not serve (R285). -/
def accBulk (acc : Nat) : Bool := acc == 3 || acc == 4 || acc == 6 || acc == 9

/-- A failing access of a class, with its `DETAIL` and the last entry read. -/
def tfault (cls detail pte : Nat) : TFault := { cls, detail, pte }

/-- A poisoned line consumed at a PA (R403): `DETAIL` 0 HBM, 1 leaf, 2 compressed block. -/
def poisonFault (pa pte detail : Nat) : TFault := { cls := 0x0314, detail, pte, pa := some pa }

/-- The class is serviceable by firmware (kind S of R394). -/
def TFault.serviceable (f : TFault) : Bool := (0x0301 ≤ f.cls && f.cls ≤ 0x0305) || f.cls == 0x0308

/-- A translation: PA, entry, and the package that serves the access. -/
structure Trans where
  pa   : Nat
  pte  : Nat
  home : Nat
deriving DecidableEq, Repr

/-! ### Page-table entries (R271) and walks (R272) -/

def pteValid (e : Nat) : Bool := testBit e 0
def pteLeaf (e : Nat) : Bool := testBit e 1
def pteWrite (e : Nat) : Bool := testBit e 2
def pteExec (e : Nat) : Bool := testBit e 3
def pteDirty (e : Nat) : Bool := testBit e 5
def pteShare (e : Nat) : Nat := bits e 7 6
def pteAddr (e : Nat) : Nat := bits e 55 16
def pteHome (e : Nat) : Nat := bits e 63 56

/-- Bits of a VA below the index of a level (R270); the page size of a leaf entry there. -/
def levelShift : Nat → Nat
  | 4 => 48 | 3 => 39 | 2 => 30 | 1 => 21 | _ => 16
/-- Index of a VA at a level. -/
def levelIndex (va lvl : Nat) : Nat :=
  match lvl with
  | 4 => bits va 51 48 | 3 => bits va 47 39 | 2 => bits va 38 30 | 1 => bits va 29 21 | _ => bits va 20 16
/-- Alignment of the table that an entry of a level names. -/
def tableAlign (lvl : Nat) : Nat := if lvl = 1 then 256 else 4096

/-- An entry is malformed (class 0x0305). -/
def pteMalformed (e lvl : Nat) : Bool :=
  if pteLeaf e then
    3 ≤ lvl || pteShare e == 3 || bits e 15 12 != 0 || pteAddr e % 2 ^ levelShift lvl != 0
  else lvl == 0 || bits e 15 2 != 0 || bits e 63 56 != 0 || pteAddr e % tableAlign lvl != 0

/-- What a walk finds: the leaf entry with its level and address, and the table entries on the way (R277). -/
structure Walked where
  pte   : Nat
  level : Nat
  src   : Nat
  path  : List WalkEntry

/-- What one level of a walk finds: the leaf entry, or a table entry and the table that it names. -/
inductive WalkNext where
  | leaf (pte src : Nat)
  | table (w : WalkEntry) (a : Nat)

/-- A table entry may not lie in aperture space (R280) or at an unbacked offset (R278). -/
def tableRefused (src : Nat) : Option TFault :=
  if isAperture src then some { cls := 0x0307, detail := 0xFF, pa := some src, walk := true }
  else if !isBacked src then some { cls := 0x0306, detail := bits src 38 36, pa := some src, walk := true }
  else none

/-- The table entry that a walk cache holds for a VA at a level (R276, R277). -/
def walkCached (s : State) (place k va lvl : Nat) : Option WalkEntry :=
  s.walks.find? fun w => w.place == place && w.ctx == k && w.level == lvl && w.vpre == va / 2 ^ levelShift lvl

/-- The entry that a walk uses at a level: a cached table entry as it stands (R276), or one indivisible read of 8 B (R277). -/
def walkRead (s : State) (place k va lvl src : Nat) : Except TFault Nat :=
  match walkCached s place k va lvl with
  | some w => .ok w.pte
  | none =>
    match tableRefused src with
    | some f => .error f
    | none =>
      let e := natOfBytes (s.hbm.read src 8)
      if hbmPoisoned s src 8 then .error { tfault 0x0305 lvl e with walk := true } else .ok e

/-- The table entry that the next read of a walk goes to memory for (R277): none when a walk cache holds it, or it may not be read. -/
def walkReads (s : State) (place k va lvl a : Nat) : Option Nat :=
  let src := a + 8 * levelIndex va lvl
  if (walkCached s place k va lvl).isSome ∨ (tableRefused src).isSome then none else some src

/-- One level of the walk of R272, in the table at `a`. -/
def walkLevel (s : State) (place k va lvl a : Nat) : Except TFault WalkNext :=
  let src := a + 8 * levelIndex va lvl
  match walkRead s place k va lvl src with
  | .error f => .error f
  | .ok e =>
    if !pteValid e then .error (tfault 0x0301 lvl e)
    else if pteMalformed e lvl then .error { cls := 0x0305, detail := lvl, pte := e, level := if pteLeaf e then min lvl 2 else 0 }
    else if pteLeaf e then .ok (.leaf e src)
    else .ok (.table ⟨place, k, lvl, va / 2 ^ levelShift lvl, e⟩ (pteAddr e))

/-- The walk of R272 from a table down. -/
def walkFrom (s : State) (place k va : Nat) : List Nat → Nat → List WalkEntry → Except TFault Walked
  | [], _, _ => .error (tfault 0x0305 0 0)
  | lvl :: rest, a, path =>
    match walkLevel s place k va lvl a with
    | .error f => .error f
    | .ok (.leaf e src) => .ok ⟨e, lvl, src, path⟩
    | .ok (.table w a') => walkFrom s place k va rest a' (w :: path)

/-- The walk cache of a place: one per folio, and none is kept for the Spine's own accesses. -/
def walkPlace (place : Nat) : Nat := if place < 512 then place / 64 else 8 + (place - 512) / 8

/-- The entry is read and its bits set by one indivisible update (R167, R274). -/
def setPteBit (s : State) (src bit : Nat) : State :=
  let e := natOfBytes (s.hbm.read src 8)
  if testBit e bit then s else { s with hbm := s.hbm.write src (bytesOf 8 (e + 2 ^ bit)) }

/-- A cached translation that covers a VA (R276). -/
def tlbFind (s : State) (place k va : Nat) : Option TlbEntry :=
  s.tlb.find? fun t => t.place == place && t.ctx == k && va / 2 ^ levelShift t.level == t.base / 2 ^ levelShift t.level

/-- The PA of a VA under a leaf entry. -/
def entryPa (pte level va : Nat) : Nat := pteAddr pte + va % 2 ^ levelShift level

/-- A cache of `cap` entries takes one more: entry `v` leaves it, and when there is no entry `v` none leaves unless it is full.
Which entry a replacement takes is free (R276: it affects timing only; log 103). -/
def makeRoom {α : Type} (v cap : Nat) (xs : List α) : List α :=
  if xs.isEmpty then xs
  else if v < xs.length then xs.eraseIdx v
  else if xs.length < cap then xs
  else xs.eraseIdx (v % xs.length)

/-- Entries of a TLB slice: 192 of its first level and 4,096 of its second; a control core has 192 (R275, R276). -/
def tlbCap (place : Nat) : Nat := if place < 512 then 192 + 4096 else 192

/-- A translation enters a TLB. -/
def keepTlb (s : State) (t : TlbEntry) : State :=
  { s with tlb := t :: (makeRoom (Config.replaced s.tick) (tlbCap t.place) (s.tlb.filter fun u => u.place == t.place)
      ++ s.tlb.filter fun u => u.place != t.place) }

/-- A table entry enters the walk cache of its folio, which holds 512 (R277). -/
def keepWalk (s : State) (w : WalkEntry) : State :=
  if s.walks.contains w then s
  else
    { s with walks := w :: (makeRoom (Config.replaced s.tick) 512 (s.walks.filter fun u => u.place == w.place)
        ++ s.walks.filter fun u => u.place != w.place) }

/-- A walk has found its leaf entry: `ACCESSED` is set, and the translation enters the TLB (R272, R274). Nothing is kept for the
Spine's own accesses. -/
def enterLeaf (s : State) (place k va pte level src : Nat) : TlbEntry × State :=
  let t : TlbEntry := { place, ctx := k, base := va, level, pte := if testBit pte 4 then pte else pte + 16, src }
  let s := setPteBit s src 4
  (t, if 528 ≤ place then s else keepTlb s t)

/-- The conditions of R273 on a leaf entry, in their order of test. -/
def permitted (t : TlbEntry) (acc : Nat) : Option TFault :=
  if accWrites acc then
    if !pteWrite t.pte then some { cls := 0x0302, detail := t.level, pte := t.pte, level := t.level }
    else if pteShare t.pte = 1 then some { cls := 0x0303, detail := t.level, pte := t.pte, level := t.level } else none
  else if acc = accFetch ∧ !pteExec t.pte then some { cls := 0x0304, detail := t.level, pte := t.pte, level := t.level }
  else none

/-- `DIRTY` is set before a write through an entry whose cached bit is 0 (R274). -/
def markDirty (s : State) (t : TlbEntry) : State :=
  if pteDirty t.pte then s
  else
    let s := setPteBit s t.src 5
    { s with tlb := s.tlb.map fun u => if u == t then { u with pte := u.pte + 32 } else u }

/-- A cached entry applied to an access: conditions of R273, aperture space (R280), remote homes (R285) and unbacked
offsets (R278). `ap` is 1 for an access through an aperture, which must be by a mover, of this package (R191, R280, R285). -/
def applyEntry (s : State) (t : TlbEntry) (va acc : Nat) (ap : Bool) : Except TFault (Trans × State) :=
  match permitted t acc with
  | some f => .error f
  | none =>
    let pa := entryPa t.pte t.level va
    let home := if pteShare t.pte = 1 then s.pkg else pteHome t.pte
    if home ≠ s.pkg ∧ accBulk acc then .error { cls := 0x0308, detail := home, pte := t.pte, level := t.level }
    else if isAperture pa != ap ∨ (ap ∧ home ≠ s.pkg) then .error { tfault 0x0307 0xFF t.pte with pa := some pa }
    else if home = s.pkg ∧ !ap ∧ !isBacked pa then .error { tfault 0x0306 (bits pa 38 36) t.pte with pa := some pa }
    else .ok (⟨pa, t.pte, home⟩, if accWrites acc then markDirty s t else s)

/-! ### The translations of engines, of block fetches and of the Spine -/

/-- What an access that is not refused waits for: a walk, or its turn at the memory port of a PA for a part of n bytes, with more parts
behind it or not. -/
inductive Await where
  | walk
  | port (pa n : Nat) (more : Bool)
deriving DecidableEq, Repr

/-- An access of an engine, a fetch or the Spine that fails, or that waits. -/
structure AccessFault where
  f    : TFault
  acc  : Nat
  va   : Nat
  wait : Option Await := none
deriving DecidableEq, Repr

/-- An access that waits. -/
def waiting (acc va : Nat) (w : Await) : AccessFault := { f := tfault 0 0 0, acc, va, wait := some w }

/-- The miss of a requester on a page (R270). -/
def missOf (s : State) (u : PortUser) (place k va : Nat) : Option (Nat × Miss) :=
  s.misses.find? fun m => m.2.user == u && m.2.place == place && m.2.ctx == k && m.2.va / 65536 == va / 65536

/-- The misses of a requester that has gone, or whose access has failed. -/
def dropMisses (s : State) (u : PortUser) : State := { s with misses := s.misses.filter fun m => m.2.user != u }

/-- A miss enters the walkers' queue of its place, last (R277). -/
def queueMiss (s : State) (u : PortUser) (place k va : Nat) : State :=
  match missOf s u place k va with
  | some _ => s
  | none =>
    let (id, s) := s.fresh
    { s with misses := tset s.misses id { user := u, place, ctx := k, va, table := (s.attrs k).root.toNat } }

/-- A translation of an engine, a fetch or the Spine (R272, R275): a hit, what the walk of its miss has found, or a wait for it. -/
def engineTrans (s : State) (u : PortUser) (place k va acc : Nat) (ap : Bool) : Except AccessFault (Trans × State) :=
  let use := fun (s : State) (t : TlbEntry) => match applyEntry s t va acc ap with
    | .error f => .error ({ f, acc, va } : AccessFault)
    | .ok x => .ok x
  if 2 ^ 52 ≤ va then .error { f := tfault 0x0301 4 0, acc, va }
  else match missOf s u place k va, tlbFind s place k va with
    | some (id, _), some t => use { s with misses := tdel s.misses id } t
    | none, some t => use s t
    | some (id, m), none =>
      match m.fault, m.leaf with
      | some f, _ => .error { f, acc, va }
      | none, some t => use { s with misses := tdel s.misses id } t
      | none, none => .error (waiting acc va .walk)
    | none, none => .error (waiting acc va .walk)

/-- A walk over the tables as they stand, which reads nothing on the machine: what a definition of the model asks about a page. -/
def peekTrans (s : State) (k va : Nat) : Option Nat :=
  match walkFrom s (walkPlace 528) k va [4, 3, 2, 1, 0] (s.attrs k).root.toNat [] with
  | .ok w => some (entryPa w.pte w.level va)
  | .error _ => none

/-- The TLB slice of a VA (R275). -/
def sliceOf (k va : Nat) : Nat :=
  let vpn := va / 65536
  (vpn % 65536 ^^^ vpn / 65536 % 65536 ^^^ k * 0x9E37) % 64

/-- Where a strand's accesses are translated (R275). -/
def placeOf (c : CoreId) (k va : Nat) : Nat :=
  match c with
  | .strand n _ => 64 * folioOf n + sliceOf k va
  | .control x => 512 + x.val

/-- Where the Spine's and an engine's own accesses are translated: nothing is cached for them. -/
def hubPlace : Nat := 528

/-- The leaf, strand and unit of a requester, as one number (R397). -/
def requesterKey (c : CoreId) (unit : Nat) : Nat :=
  match c with
  | .strand n t => unit + 16 * (4 * n + t.val)
  | .control k => unit + 16 * (2 ^ 20 + k.val)

/-- Classes of HBM and apertures, whose records hold the local PA (R393). -/
def byPa (cls : Nat) : Bool := cls == 0x0306 || cls == 0x0307 || cls == 0x0314 || cls == 0x0315

/-- The page that a failing access is on, by its lowest address: that of the leaf entry that covers it, else 64 KiB (R270, R397). -/
def faultPage (va : Nat) (f : TFault) : Nat := va / 2 ^ levelShift f.level * 2 ^ levelShift f.level

/-- The access code of a failing access: a walker's own read that fails is a table walk (R393). -/
def TFault.acc (f : TFault) (acc : Nat) : Nat := if f.walk then accWalk else acc

/-- The memory port of a PA as a source (R357, R393). -/
def portSource (pa : Nat) (r : Report) : Report := { r with folio := bits pa 38 36, uclass := 7, uindex := portOf pa }

/-- The source of a translation record (R357, R393): a walker for what a walk finds, else the TLB slice. Which walker is free. -/
def transSource (s : State) (place : Nat) (f : TFault) (r : Report) : Report :=
  if f.cls = 0x0301 ∨ f.cls = 0x0305 then
    { r with uclass := 0x0A, uindex := 32 * (place / 64) + Config.walkerOf s.tick % 32 }
  else { r with uclass := 9, uindex := place }

/-- The record of a failing access of a strand or of a unit that it started (R393, R395); 16 stands for a strand's tile instruction, as a
requester a strand. -/
def accessReport (s : State) (c : CoreId) (unit acc va : Nat) (f : TFault) : Report :=
  let k := s.ctxOf c
  let r := strandReport s c f.cls sevTask
  let pa := f.pa.getD va
  let r := if coreIsControl c then r
    else if byPa f.cls then portSource pa r
    else transSource s (placeOf c k va) f r
  memReport s r f.cls sevTask (f.acc acc) (unit % 16) (irrevocable s c) false (if byPa f.cls then .pa else .va)
    (if byPa f.cls then pa else va) f.pte f.detail

/-- A failing access is reported (R371, R396, R398): a refusal as a fault of the strand, a serviceable fault to the
round controller, once. `again` is the record that held the access, when it is a retry (R397). -/
def reportAccess (s : State) (c : CoreId) (slot : Option Nat) (unit acc va : Nat) (f : TFault) (again : Option Nat := none) :
    State :=
  let r := accessReport s c unit acc va f
  match c with
  | .control _ => raiseFault s c r f.detail
  | .strand _ _ =>
    if !f.serviceable then raiseFault s c r f.detail
    else match s.gathOf c with
      | some g =>
        let rc : Recur := ⟨requesterKey c unit, faultPage va f, f.cls⟩
        s.modGath g fun x =>
          if x.queue.any (fun q => match q with
            | .service _ w _ _ _ _ => w == rc
            | _ => false) then x
          else { x with queue := x.queue ++ [.service r rc c slot unit again] }
      | none => s

end Sys2Proof.Machine
end

