-- ==== Sys2Proof/Machine/Operands.lean ====
section
/-!
DEFINITION. Operand forms: which operands an instruction reads, its output class and its targets (R120 to R125, R131),
when it is ready, when it is nullified, and the shared shape of a performing instruction; the operand limits of R376.
-/

namespace Sys2Proof.Machine

/-- Roles of the third operand (R122). -/
inductive TRole where
  | pred | data | optData | order
deriving DecidableEq, Repr

/-- Output classes V, E and C (R125). -/
inductive OutCls where
  | value | effect | control
deriving DecidableEq, Repr

/-- The columns `In` and `Out` of R131 for one instruction word, with its target fields. -/
structure Form where
  l   : Bool
  r   : Bool
  t   : TRole
  cls : OutCls
  ta  : Target
  tb  : Target
deriving DecidableEq, Repr

/-- An event has no operands of a block. -/
def noForm : Form := ⟨false, false, .order, .value, .none, .none⟩

/-- Tables 7 to 13 of R131 with the roles of R122. -/
def formOf : Instr → Form
  | .rd _ tb ta => ⟨false, false, .pred, .value, ta, tb⟩
  | .movi ta _ => ⟨false, false, .pred, .value, ta, .none⟩
  | .movhi ta _ => ⟨true, false, .pred, .value, ta, .none⟩
  | .mov tb ta => ⟨true, false, .pred, .value, ta, tb⟩
  | .br cond _ => ⟨(cond != .always), false, .pred, .control, .none, .none⟩
  | .call cond _ => ⟨(cond != .always), false, .pred, .control, .none, .none⟩
  | .brr => ⟨true, false, .pred, .control, .none, .none⟩
  | .rnd _ => ⟨false, false, .pred, .effect, .none, .none⟩
  | .exit => ⟨false, false, .pred, .control, .none, .none⟩
  | .tdone => ⟨false, false, .pred, .control, .none, .none⟩
  | .trap _ => ⟨false, false, .pred, .effect, .none, .none⟩
  | .bkpt _ => ⟨false, false, .pred, .effect, .none, .none⟩
  | .sysrd ta _ => ⟨false, false, .pred, .value, ta, .none⟩
  | .syswr _ => ⟨true, false, .pred, .effect, .none, .none⟩
  | .spawn tb ta => ⟨true, true, .pred, .effect, ta, tb⟩
  | .null tb ta => ⟨false, false, .pred, .value, ta, tb⟩
  | .add _ _ _ tb ta => ⟨true, true, .pred, .value, ta, tb⟩
  | .sub _ _ _ tb ta => ⟨true, true, .pred, .value, ta, tb⟩
  | .mul _ _ _ tb ta => ⟨true, true, .pred, .value, ta, tb⟩
  | .mulh _ _ tb ta => ⟨true, true, .pred, .value, ta, tb⟩
  | .div _ _ tb ta => ⟨true, true, .pred, .value, ta, tb⟩
  | .rem _ _ tb ta => ⟨true, true, .pred, .value, ta, tb⟩
  | .and _ _ tb ta => ⟨true, true, .pred, .value, ta, tb⟩
  | .or _ _ tb ta => ⟨true, true, .pred, .value, ta, tb⟩
  | .xor _ _ tb ta => ⟨true, true, .pred, .value, ta, tb⟩
  | .andn _ _ tb ta => ⟨true, true, .pred, .value, ta, tb⟩
  | .shl _ _ tb ta => ⟨true, true, .pred, .value, ta, tb⟩
  | .shr _ _ tb ta => ⟨true, true, .pred, .value, ta, tb⟩
  | .sar _ _ tb ta => ⟨true, true, .pred, .value, ta, tb⟩
  | .rot _ _ tb ta => ⟨true, true, .pred, .value, ta, tb⟩
  | .min _ _ tb ta => ⟨true, true, .pred, .value, ta, tb⟩
  | .max _ _ tb ta => ⟨true, true, .pred, .value, ta, tb⟩
  | .cmp _ _ _ tb ta => ⟨true, true, .pred, .value, ta, tb⟩
  | .sel tb ta => ⟨true, true, .data, .value, ta, tb⟩
  | .bitcPopc _ tb ta => ⟨true, false, .pred, .value, ta, tb⟩
  | .bitcClz _ tb ta => ⟨true, false, .pred, .value, ta, tb⟩
  | .bitcCtz _ tb ta => ⟨true, false, .pred, .value, ta, tb⟩
  | .bitcBrev _ tb ta => ⟨true, false, .pred, .value, ta, tb⟩
  | .bitcBswap _ tb ta => ⟨true, false, .pred, .value, ta, tb⟩
  | .bfx ta _ _ _ => ⟨true, false, .pred, .value, ta, .none⟩
  | .bfi tb ta => ⟨true, true, .data, .value, ta, tb⟩
  | .lea _ tb ta => ⟨true, true, .pred, .value, ta, tb⟩
  | .addi ta _ => ⟨true, false, .pred, .value, ta, .none⟩
  | .andi ta _ => ⟨true, false, .pred, .value, ta, .none⟩
  | .ori ta _ => ⟨true, false, .pred, .value, ta, .none⟩
  | .xori ta _ => ⟨true, false, .pred, .value, ta, .none⟩
  | .shfiShl ta _ => ⟨true, false, .pred, .value, ta, .none⟩
  | .shfiShr ta _ => ⟨true, false, .pred, .value, ta, .none⟩
  | .shfiSar ta _ => ⟨true, false, .pred, .value, ta, .none⟩
  | .shfiRot ta _ => ⟨true, false, .pred, .value, ta, .none⟩
  | .cmpi ta _ _ _ => ⟨true, false, .pred, .value, ta, .none⟩
  | .muli ta _ => ⟨true, false, .pred, .value, ta, .none⟩
  | .adc _ tb ta => ⟨true, true, .optData, .value, ta, tb⟩
  | .fadd _ _ _ _ tb ta => ⟨true, true, .pred, .value, ta, tb⟩
  | .fsub _ _ _ _ tb ta => ⟨true, true, .pred, .value, ta, tb⟩
  | .fmul _ _ _ _ tb ta => ⟨true, true, .pred, .value, ta, tb⟩
  | .fma _ _ _ _ tb ta => ⟨true, true, .data, .value, ta, tb⟩
  | .fmin _ _ _ tb ta => ⟨true, true, .pred, .value, ta, tb⟩
  | .fmax _ _ _ tb ta => ⟨true, true, .pred, .value, ta, tb⟩
  | .fcmp _ _ tb ta => ⟨true, true, .pred, .value, ta, tb⟩
  | .fcvt ta _ _ _ _ => ⟨true, false, .pred, .value, ta, .none⟩
  | .fsfuRcp ta => ⟨true, false, .pred, .value, ta, .none⟩
  | .fsfuRsq ta => ⟨true, false, .pred, .value, ta, .none⟩
  | .fsfuSqrt ta => ⟨true, false, .pred, .value, ta, .none⟩
  | .fsfuExp2 ta => ⟨true, false, .pred, .value, ta, .none⟩
  | .fsfuLog2 ta => ⟨true, false, .pred, .value, ta, .none⟩
  | .fsfuTanh ta => ⟨true, false, .pred, .value, ta, .none⟩
  | .fsfuSigm ta => ⟨true, false, .pred, .value, ta, .none⟩
  | .fsfuSinp ta => ⟨true, false, .pred, .value, ta, .none⟩
  | .fsfuCosp ta => ⟨true, false, .pred, .value, ta, .none⟩
  | .fclass _ tb ta => ⟨true, false, .pred, .value, ta, tb⟩
  | .qscale ta _ _ => ⟨true, false, .pred, .value, ta, .none⟩
  | .qcvt _ _ _ tb ta => ⟨true, true, .pred, .value, ta, tb⟩
  | .qdeq _ _ _ tb ta => ⟨true, true, .pred, .value, ta, tb⟩
  | .fsgnAbs _ tb ta => ⟨true, false, .pred, .value, ta, tb⟩
  | .fsgnNeg _ tb ta => ⟨true, false, .pred, .value, ta, tb⟩
  | .fsgnCopysign _ tb ta => ⟨true, true, .pred, .value, ta, tb⟩
  | .ldl _ _ _ tb ta => ⟨true, false, .order, .value, ta, tb⟩
  | .stl _ _ _ tb ta => ⟨true, true, .order, .effect, ta, tb⟩
  | .ldg _ _ _ tb ta => ⟨true, false, .order, .value, ta, tb⟩
  | .stg _ _ _ tb ta => ⟨true, true, .order, .effect, ta, tb⟩
  | .atomlAdd _ _ tb ta => ⟨true, true, .order, .effect, ta, tb⟩
  | .atomlAnd _ _ tb ta => ⟨true, true, .order, .effect, ta, tb⟩
  | .atomlOr _ _ tb ta => ⟨true, true, .order, .effect, ta, tb⟩
  | .atomlXor _ _ tb ta => ⟨true, true, .order, .effect, ta, tb⟩
  | .atomlXchg _ _ tb ta => ⟨true, true, .order, .effect, ta, tb⟩
  | .atomlSmin _ _ tb ta => ⟨true, true, .order, .effect, ta, tb⟩
  | .atomlSmax _ _ tb ta => ⟨true, true, .order, .effect, ta, tb⟩
  | .atomlFadd _ _ tb ta => ⟨true, true, .order, .effect, ta, tb⟩
  | .atomgAdd _ _ tb ta => ⟨true, true, .order, .effect, ta, tb⟩
  | .atomgAnd _ _ tb ta => ⟨true, true, .order, .effect, ta, tb⟩
  | .atomgOr _ _ tb ta => ⟨true, true, .order, .effect, ta, tb⟩
  | .atomgXor _ _ tb ta => ⟨true, true, .order, .effect, ta, tb⟩
  | .atomgXchg _ _ tb ta => ⟨true, true, .order, .effect, ta, tb⟩
  | .atomgSmin _ _ tb ta => ⟨true, true, .order, .effect, ta, tb⟩
  | .atomgSmax _ _ tb ta => ⟨true, true, .order, .effect, ta, tb⟩
  | .atomgFadd _ _ tb ta => ⟨true, true, .order, .effect, ta, tb⟩
  | .casl _ _ _ tb ta => ⟨true, true, .data, .effect, ta, tb⟩
  | .casg _ _ _ tb ta => ⟨true, true, .data, .effect, ta, tb⟩
  | .fenceAcq ta _ _ => ⟨false, false, .order, .effect, ta, .none⟩
  | .fenceRel ta _ _ => ⟨false, false, .order, .effect, ta, .none⟩
  | .fenceAr ta _ _ => ⟨false, false, .order, .effect, ta, .none⟩
  | .fenceXp ta _ => ⟨false, false, .order, .effect, ta, .none⟩
  | .waitaLeaf _ _ tb ta => ⟨true, true, .order, .effect, ta, tb⟩
  | .waitaRound _ _ tb ta => ⟨true, true, .order, .effect, ta, tb⟩
  | .waitaDev _ _ tb ta => ⟨true, true, .order, .effect, ta, tb⟩
  | .waitaSys _ _ tb ta => ⟨true, true, .order, .effect, ta, tb⟩
  | .mbarInit tb ta => ⟨true, true, .order, .effect, ta, tb⟩
  | .mbarArrive tb ta => ⟨true, true, .order, .effect, ta, tb⟩
  | .mbarExpect tb ta => ⟨true, true, .order, .effect, ta, tb⟩
  | .mbarTest tb ta => ⟨true, true, .order, .effect, ta, tb⟩
  | .mbarWait tb ta => ⟨true, true, .order, .effect, ta, tb⟩
  | .cpLd tb ta => ⟨true, false, .order, .effect, ta, tb⟩
  | .cpSt tb ta => ⟨true, false, .order, .effect, ta, tb⟩
  | .cpSend tb ta => ⟨true, false, .order, .effect, ta, tb⟩
  | .cpMc tb ta => ⟨true, false, .order, .effect, ta, tb⟩
  | .cpFib tb ta => ⟨true, false, .order, .effect, ta, tb⟩
  | .flag tb ta => ⟨true, false, .order, .effect, ta, tb⟩
  | .kvopMass tb ta => ⟨true, false, .order, .effect, ta, tb⟩
  | .kvopEvict tb ta => ⟨true, false, .order, .effect, ta, tb⟩
  | .kvopStat tb ta => ⟨true, false, .order, .effect, ta, tb⟩
  | .flcfg _ tb ta => ⟨true, false, .order, .effect, ta, tb⟩
  | .flgo _ tb ta => ⟨false, false, .order, .effect, ta, tb⟩
  | .flstat _ tb ta => ⟨false, false, .order, .value, ta, tb⟩
  | .flstop _ tb ta => ⟨false, false, .order, .effect, ta, tb⟩
  | .spush _ _ tb ta => ⟨true, true, .order, .effect, ta, tb⟩
  | .spop _ _ tb ta => ⟨true, false, .order, .effect, ta, tb⟩
  | .sctlStatus _ tb ta => ⟨true, false, .order, .effect, ta, tb⟩
  | .sctlDrain _ tb ta => ⟨true, false, .order, .effect, ta, tb⟩
  | .sctlReset _ tb ta => ⟨true, false, .order, .effect, ta, tb⟩
  | .sbar tb ta => ⟨true, false, .order, .effect, ta, tb⟩
  | .rtset _ tb ta => ⟨true, false, .order, .effect, ta, tb⟩
  | .kettle tb ta => ⟨true, false, .order, .effect, ta, tb⟩
  | .vpcfg tb ta => ⟨true, false, .order, .effect, ta, tb⟩
  | .vpgo tb ta => ⟨false, false, .order, .effect, ta, tb⟩
  | .vpstat tb ta => ⟨false, false, .order, .value, ta, tb⟩
  | .vpconst _ tb ta => ⟨true, false, .order, .effect, ta, tb⟩
  | .tldLa tb ta => ⟨true, false, .order, .effect, ta, tb⟩
  | .tldDev tb ta => ⟨true, false, .order, .effect, ta, tb⟩
  | .tturn tb ta => ⟨false, false, .order, .effect, ta, tb⟩
  | .tturnEmit _ tb ta => ⟨false, false, .order, .effect, ta, tb⟩
  | .tstLa tb ta => ⟨true, false, .order, .effect, ta, tb⟩
  | .tstDev tb ta => ⟨true, false, .order, .effect, ta, tb⟩
  | .mxcmd tb ta => ⟨true, false, .order, .effect, ta, tb⟩
  | .mxwait tb ta => ⟨true, false, .order, .effect, ta, tb⟩
  | .accopZero tb ta => ⟨true, false, .order, .effect, ta, tb⟩
  | .accopCopy tb ta => ⟨true, true, .order, .effect, ta, tb⟩
  | .tlbinvPage tb ta => ⟨true, true, .order, .effect, ta, tb⟩
  | .tlbinvCtx tb ta => ⟨false, true, .order, .effect, ta, tb⟩
  | .tlbinvAll tb ta => ⟨false, false, .order, .effect, ta, tb⟩
  | .apset tb ta => ⟨true, true, .order, .effect, ta, tb⟩
  | .ctxsv tb ta => ⟨true, false, .order, .effect, ta, tb⟩
  | .imgw tb ta => ⟨true, false, .order, .effect, ta, tb⟩
  | .imgcmt tb ta => ⟨false, false, .order, .effect, ta, tb⟩
  | .eret => ⟨false, false, .order, .control, .none, .none⟩
  | .wfi tb ta => ⟨false, false, .order, .effect, ta, tb⟩
  | .pgset tb ta => ⟨true, true, .order, .effect, ta, tb⟩
  | .elogrd tb ta => ⟨true, false, .order, .effect, ta, tb⟩
  | .blockFetch _ => noForm
  | .blockCommit _ => noForm
  | .deadlineOverrun _ => noForm
  | .noProgressWatchdog _ => noForm
  | .faultReport _ => noForm
  | .irrevocableGrant _ => noForm
  | .roundCommit _ => noForm
  | .roundVoid _ => noForm
  | .commitWatchdog _ => noForm
  | .voidLimit _ => noForm
  | .waitaWake _ => noForm
  | .remoteWatchReread _ _ => noForm
  | .kettleComplete _ _ => noForm
  | .submissionDoorbell _ _ _ => noForm
  | .fwsqDoorbell => noForm
  | .cqheadWrite _ _ => noForm
  | .hostRegisterWrite _ _ => noForm
  | .hostBar2Access _ _ _ => noForm
  | .launchAdmission _ => noForm
  | .requestFrame _ => noForm
  | .spineDispatch => noForm
  | .entryAging _ => noForm
  | .swapWaitExpiry _ => noForm
  | .bind _ => noForm
  | .contextSave _ => noForm
  | .copyNodeRun _ => noForm
  | .moverLineLand _ _ => noForm
  | .nodeRetire _ _ => noForm
  | .responseDelivery _ => noForm
  | .spawnBacklogAdmit _ => noForm
  | .contextUnload _ => noForm
  | .rangeEviction _ => noForm
  | .tileSwap _ => noForm
  | .mxCommandStart _ => noForm
  | .mxCommandComplete _ => noForm
  | .vpStep _ => noForm
  | .scannerStep _ _ => noForm
  | .scannerRefill _ _ => noForm
  | .skipReceive _ _ => noForm
  | .isectStep _ _ => noForm
  | .unionStep _ _ => noForm
  | .repeatStep _ _ => noForm
  | .reduceStep _ _ => noForm
  | .spaccStep _ _ => noForm
  | .lwriteStep _ _ => noForm
  | .gatherStep _ _ => noForm
  | .scatterStep _ _ => noForm
  | .filterStep _ _ => noForm
  | .coalesceStep _ _ => noForm
  | .agenStep _ _ => noForm
  | .tokenDelivery _ _ => noForm
  | .creditReturn _ _ => noForm
  | .meshFlitRetry _ _ _ _ => noForm
  | .meshLinkFailure _ _ => noForm
  | .tlbLookup _ => noForm
  | .pageWalk _ => noForm
  | .memoryPortService _ => noForm
  | .hbmScrub _ _ => noForm
  | .roundBufferError _ _ => noForm
  | .kvGateCheck _ => noForm
  | .kvEviction _ => noForm
  | .countedWriteIssue _ => noForm
  | .putArrival _ => noForm
  | .pushArrival _ => noForm
  | .ratomArrival _ => noForm
  | .rloadArrival _ => noForm
  | .rdataArrival _ => noForm
  | .flagArrival _ => noForm
  | .flagComplete _ => noForm
  | .flagdoneArrival _ => noForm
  | .resendArrival _ => noForm
  | .gapTimerExpiry _ => noForm
  | .flagTimerExpiry _ _ => noForm
  | .tailWriteTimeout _ => noForm
  | .rloadTimerExpiry _ => noForm
  | .flezalFlitError _ _ => noForm
  | .flezalLinkDown _ => noForm
  | .packetAgeDiscard _ => noForm
  | .packageLost _ => noForm
  | .channelAllocate _ => noForm
  | .deviceBoot _ => noForm
  | .folioCalibrationDone _ => noForm
  | .quirePowerTransition _ => noForm
  | .quireWake _ => noForm
  | .quireWakeTimeout _ => noForm
  | .governorLimit _ => noForm
  | .thermalEvent _ _ => noForm
  | .imageCommitSwitch _ _ => noForm
  | .controlCoreHalt _ => noForm
  | .handlerEntry _ => noForm
  | .contextLoad _ _ => noForm
  | .folioAdmission _ _ _ => noForm
  | .spawnCommitHoldTimeout _ => noForm
  | .settledPeriodEnd _ _ => noForm
  | .transitPacketArrival _ => noForm

/-- The instruction that a slot holds. -/
def Slot.instr (x : Slot) : Option Instr := (decode x.word).toOption

/-- The form of a slot; a word without a meaning has none of a block's operands. -/
def Slot.form (x : Slot) : Form := (x.instr.map formOf).getD noForm

/-! ### Ready and nullified (R120, R122) -/

/-- Every arrival of every operand of a slot has come. -/
def Slot.complete (x : Slot) : Bool := x.l.arrived && x.r.arrived && x.t.arrived

/-- The gathering runs: no open record holds it (R396), it is not being saved, committed or retired, and the voids of its
round have not reached the limit of R389. -/
def gathRuns (s : State) (g : Gathering) : Bool :=
  !isHeld s g.frozen && !g.retiring && !g.saving && g.cut == 0 && decide (g.voids < 64)

/-- The strand may issue: it runs, has not faulted, and its gathering is not held by an open record (R368, R396). -/
def strandRuns (s : State) (c : CoreId) : Bool :=
  let st := s.strand c
  st.wait == .running && !st.faulted && match c with
    | .strand n _ => match (s.leaf n).gath.bind s.gath with
      | some g => gathRuns s g
      | none => false
    | .control k => let x := s.core k.val; x.started && !x.halted

/-- A slot of a block in flight may issue or be tried again (R31, R120). -/
def ready (s : State) (c : CoreId) (i : Nat) : Bool :=
  strandRuns s c && match (s.strand c).block with
    | some b => match b.slots[i]? with
      | some x => x.complete && (x.status == .idle || x.status == .waiting) && !isHeld s x.hold
      | none => false
    | none => false

/-- An operand holds NULL. -/
def Operand.isNull (o : Operand) : Bool := o.targeted && o.value.isNone

/-- The slot is nullified (R122). -/
def nullified (f : Form) (x : Slot) : Bool :=
  (f.l && x.l.isNull) || (f.r && x.r.isNull) || match f.t with
    | .pred => x.t.targeted && match x.t.value with
      | some w => !testBit w.toNat 0
      | none => true
    | .data | .optData => x.t.isNull
    | .order => false

/-- The value of an operand; an optional operand that nothing targets reads 0 (R155). -/
def Operand.val (o : Operand) : Word := o.value.getD 0

/-! ### Outputs (R125, R127) -/

/-- Class-C instructions of a block. -/
def Block.controls (b : Block) : Nat := (b.slots.filter fun x => x.form.cls == .control).length

/-- A class-C instruction has performed with a transfer, or counts as nullified (R127); not exactly one performing is
class 0x0112 (R375). -/
def settleControl (s : State) (c : CoreId) (i : Nat) (mv : Option Transfer) : State :=
  let s := (produce s c).modBlock c fun b =>
    { b with
      moves := b.moves ++ mv.toList
      cslot := if mv.isSome then i else b.cslot
      settled := b.settled + 1 }
  match (s.strand c).block with
  | some b =>
    if mv.isSome ∧ 2 ≤ b.moves.length then blockFault s c (some i) 0x0112 b.moves.length
    else if b.settled = b.controls ∧ b.moves = [] then blockFault s c (some i) 0x0112 0
    else s
  | none => s

/-- The output port into which an instruction itself sends (R87): that of `SPUSH` and `TTURN.emit`. -/
def ownPort : Instr → Option Nat
  | .spush _ p _ _ => some p.val
  | .tturnEmit p _ _ => some p.val
  | _ => none

/-- A nullified `SPUSH` or `TTURN.emit` sends nothing: the sends of higher slots to its port need not wait for it (R87, R124). -/
def skipSend (s : State) (c : CoreId) (i : Nat) : State :=
  match (s.slot c i).instr.bind ownPort, coreLeaf c with
  | some p, some n => pumpSends (sendOver s (claimOf s c i) p) n
  | _, _ => s

/-- A nullified instruction: NULL to its targets, its output produced, no effect (R122, R125). -/
def nullify (f : Form) (s : State) (c : CoreId) (i : Nat) : State :=
  let s := match f.cls with
    | .value => s
    | .effect => produce (skipSend s c i) c
    | .control => settleControl s c i none
  deliver2 s c i f.ta f.tb none none

/-- What an instruction of a form does at the slot in focus: nothing when the slot is not ready; NULL to its targets
when it is nullified; and otherwise what `act` says, given the strand, the slot and the operands. -/
def perform (f : Form) (s : State) (act : State → CoreId → Nat → Word → Word → Word → State) :
    Host.Outcome State Fault Refusal :=
  let c := s.focus.core
  let i := s.focus.slot
  let x := s.slot c i
  if !ready s c i then .next s
  else if nullified f x then .next (nullify f s c i)
  else .next (act s c i x.l.val x.r.val x.t.val)

/-- A class-V instruction that sends one value to both targets. -/
def valueOp (f : Form) (s : State) (v : Word → Word → Word → Word) : Host.Outcome State Fault Refusal :=
  perform f s fun s c i l r t => deliver2 s c i f.ta f.tb (some (v l r t)) (some (v l r t))

/-- An instruction has performed: the output of one of class E counts, once (R126). -/
def performed (s : State) (c : CoreId) (i : Nat) : State :=
  if (s.slot c i).acted then s
  else
    let t := s.modSlot c i fun x => { x with acted := true }
    if (s.slot c i).form.cls == .effect then produce t c else t

/-- An instruction performs and is complete: its deliveries. -/
def complete (f : Form) (s : State) (c : CoreId) (i : Nat) (va vb : Option Word) : State :=
  deliver2 (performed s c i) c i f.ta f.tb va vb

/-- The instruction waits to perform, and is tried again. -/
def stay (s : State) (c : CoreId) (i : Nat) : State := s.modSlot c i fun x => { x with status := .waiting }

/-- The instruction waits for the grant of R42. -/
def stayGrant (s : State) (c : CoreId) (i : Nat) : State := askGrantOf (stay s c i) c

/-- The instruction has performed and owes its deliveries. -/
def owe (s : State) (c : CoreId) (i : Nat) : State :=
  (performed s c i).modSlot c i fun x => { x with status := .owing }

/-- A performed instruction of an earlier step delivers what it owes, if the slot still owes it. -/
def payOwed (s : State) (x : Claim) (va vb : Option Word) : State :=
  let y := s.slot x.core x.slot
  if claimLive s x ∧ y.status = .owing then deliver2 s x.core x.slot y.form.ta y.form.tb va vb else s

/-! ### Operand limits (R375, R376) -/

/-- Class 0x0114 unless a limit holds. -/
def limit (s : State) (c : CoreId) (i : Nat) (ok : Bool) (detail : Nat) (k : State → State) : State :=
  if ok then k s else blockFault s c (some i) 0x0114 detail

/-- An LA operand: within the leaf (or the local memory of a control core, R448), then aligned. -/
def limitLa (s : State) (c : CoreId) (i : Nat) (la align detail : Nat) (k : State → State) : State :=
  if (if coreIsControl c then Config.localBytes else Config.leafBytes) ≤ la then
    blockFault s c (some i) 0x0114 detail
  else if la % align ≠ 0 then blockFault s c (some i) 0x0115 detail
  else k s

/-- A device address operand: 52 bits, then aligned. -/
def limitVa (s : State) (c : CoreId) (i : Nat) (va align detail : Nat) (k : State → State) : State :=
  if 2 ^ 52 ≤ va then blockFault s c (some i) 0x0114 detail
  else if va % align ≠ 0 then blockFault s c (some i) 0x0115 detail
  else k s

end Sys2Proof.Machine
end

