-- ==== Sys2Proof/Machine/Flags.lean ====
section
/-!
DEFINITION. Flag computations: the flags of a block and `FPFLAGS` (R89, R90), `FPMODE` (R89, R97, R102), and the
rounding environment of a strand, a vector pipeline, a flow unit and a matrix cell (R97 to R102).
-/

namespace Sys2Proof.Machine

/-- `Raise` of R137: flags of the block in flight, entered at its commit (R90). -/
def raiseFlags (s : State) (c : CoreId) (f : Flags6) : State := s.modBlock c fun b => { b with flags := b.flags ||| f }

/-- `FPFLAGS` after a write of ones that clear (Table 7 of R89). -/
def clearFlags (old : Flags6) (v : Word) : Flags6 := old &&& ~~~(v.setWidth 6)

/-- `FPMODE` after a write (Table 6 of R89, R147): `RM` 110 and 111 leave `RM` as it is. -/
def writeMode (old : BitVec 5) (v : Word) : BitVec 5 :=
  if v.toNat % 8 < 6 then v.setWidth 5 else BitVec.ofNat 5 (bits v.toNat 4 3 * 8 + old.toNat % 8)

/-- The rounding mode that an `RM` field of `FPMODE` names. -/
def modeRm (fp : BitVec 5) : Rm :=
  match fp.toNat % 8 with
  | 1 => .rtz | 2 => .rdn | 3 => .rup | 4 => .rna | 5 => .sr | _ => .rne

/-- The environment under an `FPMODE`: `DYN` takes its `RM` (R97). -/
def envOf (fp : BitVec 5) (rm : Rm) (sr : Word) : FEnv :=
  { rm := if rm = .dyn then modeRm fp else rm, ftz := testBit fp.toNat 4, daz := testBit fp.toNat 3, sr }

/-- Round number of a strand, 0 on a control core. -/
def roundOf (s : State) (c : CoreId) : Nat := (((s.gathOf c).bind s.gath).map Gathering.round).getD 0

/-- The environment of a scalar instruction at a slot (R97 to R102, R156). DESIGN CHOICE (log 125): on a control core, of which R100
names no leaf, strand or round, `LEAF`, `STRAND` and `ROUNDNO` are 0, and `OPID` takes the count of its committed blocks modulo 2^26, not
the register of log 101. -/
def scalarEnv (s : State) (c : CoreId) (slot : Nat) (rm : Rm) : FEnv :=
  let st := s.strand c
  envOf st.fpmode rm (srWord (s.attrs (s.ctxOf c)).seed ((coreLeaf c).getD 0) (coreIndex c) (roundOf s c)
    (st.blkinrnd % 2 ^ 26 * 64 + slot))

/-- The environment of a unit of a leaf (R100): `u` is the stage of the vector pipeline, 6 for F0 and 7 for F1, and `t`
its count of tokens. -/
def unitEnv (s : State) (n : Nat) (fp : BitVec 5) (rm : Rm) (issuer u t : Nat) : FEnv :=
  let g := (s.leaf n).gath.bind s.gath
  envOf fp rm (srWord (s.attrs ((g.map Gathering.ctx).getD 0)).seed n issuer ((g.map Gathering.round).getD 0)
    (0x80000000 + u * 2 ^ 28 + t % 2 ^ 28))

end Sys2Proof.Machine
end

