-- ==== Sys2Proof/Machine/SysRegs.lean ====
section
/-!
DEFINITION. The system registers of R88: what each index reads, which may be written, and the writes of a commit.
-/

namespace Sys2Proof.Machine

/-- Assigned indices (Table 5 of R88). -/
def sysAssigned (x : Nat) : Bool :=
  x ≤ 0x008 || (0x010 ≤ x && x ≤ 0x012) || x == 0x018 || (0x020 ≤ x && x ≤ 0x028) || x == 0x030 || x == 0x031
    || x == 0x040 || (0x080 ≤ x && x ≤ 0x083)

/-- A `SYSWR` may name the index (Table 5): the firmware ring's registers are writable on control cores only. -/
def sysWritable (control : Bool) (x : Nat) : Bool :=
  x == 0x010 || x == 0x011 || (control && (x == 0x080 || x == 0x081 || x == 0x082))

/-- Commands accepted by the cell that have not read all of the leaf's recto (R83). -/
def readersOf (s : State) (n : Nat) : List MxCmd :=
  (s.quire (quireOf n)).queue.filter fun c =>
    bits c.word 15 12 == leafIndex n || bits c.word 19 16 == leafIndex n

/-- Each `TST` of the leaf, from its perform until its last line is read, by its number (R220). -/
def tstReaders (s : State) (n : Nat) : List Nat :=
  (s.copies.filter fun x =>
    (x.2.kind == 8 || x.2.kind == 9) && coreLeaf x.2.core == some n && !x.2.reads.isEmpty).map (·.1)

/-- Reader count of recto (R83, R220), in the range that Table 8 of R89 gives it. -/
def readers (s : State) (n : Nat) : Nat := min 16 ((readersOf s n).length + (tstReaders s n).length)

/-- `TILEST` (Table 8 of R89). -/
def tileSt (s : State) (n : Nat) : Nat :=
  let l := s.leaf n
  4 * readers s n + 2 * natOfBool l.rfull + natOfBool l.vfull

/-- Registers that describe a leaf (R88); a control core reads them as zero (R147). -/
def sysLeaf (s : State) (n t x : Nat) : Nat :=
  let l := s.leaf n
  let g := l.gath.bind s.gath
  let p := g.bind fun g => g.placeOf n
  let q := g.getD { ctx := 0, inst := 0, tag := 0 }
  let w := l.partw
  match x with
  | 0x000 => n % 256 + n / 256 * 256 + leafIndex n * 2 ^ 16 + folioOf n * 2 ^ 20
  | 0x001 => (n % 256 - 4 * q.qx) + (n / 256 - 4 * q.qy) * 256
  | 0x002 => (4 * q.qw - 1) + (4 * q.qh - 1) * 256 + q.qx * 2 ^ 16 + q.qy * 2 ^ 24
  | 0x003 => t + 4 * (pwStrands w - 1)
  | 0x018 => tileSt s n
  | 0x020 => w
  | 0x021 => jrnlBase
  | 0x022 => 0x1000 * pwJrnl w
  | 0x023 => accBase w
  | 0x024 => 0x4000 * pwAcc w
  | 0x025 => keepBase w
  | 0x026 => 0x1000 * pwKeep w
  | 0x027 => discBase w
  | 0x028 => Config.leafBytes - discBase w
  | 0x030 => ((tget s.insts q.inst).map Instance.args).getD 0
  | 0x031 => (p.map NodePlace.recAt).getD 0
  | 0x040 => (s.folios.getD (folioOf n) {}).cycles
  | _ => 0

/-- The value of a system register now. -/
def sysNow (s : State) (c : CoreId) (x : Nat) : Word :=
  let st := s.strand c
  let g := (s.gathOf c).bind s.gath
  match x with
  | 0x004 => wordOfNat (s.ctxOf c)
  | 0x005 => wordOfNat ((g.map Gathering.tag).getD 0)
  | 0x006 => wordOfNat ((g.map Gathering.round).getD 0 % 2 ^ 32)
  | 0x007 => wordOfNat (st.blkinrnd % 4096)
  | 0x008 => wordOfNat (st.dlrem % 4096)
  | 0x010 => st.fpmode.setWidth 64
  | 0x011 => st.fpflags.setWidth 64
  | 0x012 => (s.attrs (s.ctxOf c)).seed
  | 0x080 => if coreIsControl c then wordOfNat s.fwBase else 0
  | 0x081 => if coreIsControl c then wordOfNat s.fwSize else 0
  | 0x082 => if coreIsControl c then wordOfNat s.fwTail else 0
  | 0x083 => if coreIsControl c then wordOfNat s.fwHead else 0
  | _ => match c with
    | .strand n t => wordOfNat (sysLeaf s n t.val x)
    | .control _ => 0

/-- The registers whose value can change within a block, as held at its start: `SRSEED`, `TILEST`, `CYCLES` and the firmware ring's
(R88, R147). -/
def sysStart (s : State) (c : CoreId) : Table Word :=
  [0x012, 0x018, 0x040, 0x080, 0x081, 0x082, 0x083].map fun x => (x, sysNow s c x)

/-- `SysValue` of R146: the value at the start of the block in flight. -/
def sysValue (s : State) (c : CoreId) (x : Nat) : Word :=
  match ((s.strand c).block.map fun b => tget b.start x).getD none with
  | some v => v
  | none => sysNow s c x

/-- `SysWrite` of R146 at a commit: `FPMODE`, `FPFLAGS` and the firmware ring's registers (R54, R89). DESIGN CHOICE (log 102):
`FWSQBASE` keeps bits 51:12 of the value written, and `FWSQSIZE` bits 4:0 (R88 does not say what other bits do). -/
def sysWrite (s : State) (c : CoreId) (x : Nat) (v : Word) : State :=
  match x with
  | 0x010 => s.modStrand c fun st => { st with fpmode := writeMode st.fpmode v }
  | 0x011 => s.modStrand c fun st => { st with fpflags := clearFlags st.fpflags v }
  | 0x080 => { s with fwBase := v.toNat % 2 ^ 52 / 4096 * 4096 }
  | 0x081 => { s with fwSize := v.toNat % 32 }
  | 0x082 => { s with fwTail := v.toNat % 2 ^ 32 }
  | _ => s

end Sys2Proof.Machine
end

