-- ==== Sys2Proof/Machine/Access.lean ====
section
/-!
DEFINITION. The accesses of a strand: order within the strand (R291), the checks of a leaf access (R376, R394, R402), the
issue of a request to device memory, and its response (R173, R295).
-/

namespace Sys2Proof.Machine

/-- Bytes of an access width (R130), and the value that a load of it delivers (R177). -/
def accSize : AccWidth → Nat
  | .z8 | .s8 => 1
  | .z16 | .s16 => 2
  | .z32 | .s32 => 4
  | .w64 => 8
def accSigned : AccWidth → Bool
  | .s8 | .s16 | .s32 => true
  | _ => false
def extendTo (n : Nat) (sgn : Bool) (d : Nat) : Word :=
  if sgn then wordOfInt (signExtend d (8 * n)) else wordOfNat (d % 2 ^ (8 * n))
def casSize : CasWidth → Nat
  | .z32 | .s32 => 4
  | .w64 => 8
def casSigned : CasWidth → Bool
  | .s32 => true
  | _ => false

/-- Acquire and release of an order field; DEVICE or SYSTEM of a scope field (R130). -/
def ordAcq : Order → Bool
  | .acq | .ar => true
  | _ => false
def ordRel : Order → Bool
  | .rel | .ar => true
  | _ => false
def scopeWide : Scope → Bool
  | .device | .system => true
  | _ => false

/-! ### Order within a strand (R291) -/

/-- Two ranges share a byte. -/
def overlaps (a n b m : Nat) : Bool := decide (a < b + m) && decide (b < a + n)

/-- A scratchpad as one number: a leaf's, or a control core's local memory. -/
def padKey : CoreId → Nat
  | .strand n _ => n
  | .control k => 65536 + k.val

/-- The leaf of the destination of a `SEND` (Table 7 of R190). -/
def sendLeaf (dst : Nat) : Nat := leafNum (bits dst 25 18) (bits dst 33 26)

/-- Offset that stands for the descriptor of a fibre refill among its lines. -/
def descMark : Nat := 2 ^ 20

/-- Where a line of a copy lands in a scratchpad: the pad and the LA. An `MC` keeps a line apart for each destination, by 2^19; a
`SEND` to another package lands in none, nor does a line of device memory. -/
def Copy.landsAt (x : Copy) (own off : Nat) : Option (Nat × Nat) :=
  match x.kind with
  | 0 | 6 | 7 | 8 | 10 | 11 => some (own, x.dst + off)
  | 2 => if x.chans.isEmpty then some (sendLeaf x.dst, bits x.dst 17 0 + off) else none
  | 3 => (x.dests[off / 2 ^ 19]?).map fun n => (n, x.dst + off % 2 ^ 19)
  | 4 => some (own, if off = descMark then x.desc else x.dst + (x.head + off) % max 1 x.ring)
  | _ => none

/-- A copy is that of a tile instruction or of `IMGW`, not of the movers' path. -/
def Copy.tile (x : Copy) : Bool := decide (6 ≤ x.kind)

/-- The source of a copy lies in the strand's scratchpad. -/
def Copy.padSource (x : Copy) : Bool := [1, 2, 6, 8, 9, 11].contains x.kind

/-- The pos pair of a refill has not been read yet (R195). -/
def Copy.posDue (x : Copy) : Bool := x.kind == 4 && x.descv.isEmpty

/-- The ranges of scratchpads that a copy of a strand has still to read or write: pad, LA, length. A refill that has not read its pos
pair may write any line of its ring, and its descriptor. -/
def Copy.padOut (x : Copy) (own : Nat) : List (Nat × Nat × Nat) :=
  (if x.padSource then x.reads.map fun p => (own, x.src + p.1, p.2) else [])
    ++ (if x.posDue then [(own, x.dst, x.ring), (own, x.desc, 16)]
      else x.lines.filterMap fun p => (x.landsAt own p.1).map fun y => (y.1, y.2, p.2))

/-- The parts of a copy that are still to do: reads and landings. -/
def Copy.todo (x : Copy) : List (Bool × Nat × Nat) := x.reads.map (fun p => (true, p)) ++ x.lines.map fun p => (false, p)

/-- The ranges of device memory that a copy has still to read or write: VA, length. A refill that has not read its pos pair may read any
of the 2^32 elements of its crd array; the done word is written last. -/
def Copy.devOut (x : Copy) : List (Nat × Nat) :=
  (match x.kind with
    | 0 | 3 | 4 | 7 | 12 => x.reads.map fun p => (x.src + p.1, p.2)
    | 1 | 9 => x.lines.map fun p => (x.dst + p.1, p.2)
    | 5 => x.reads.map (fun p => (x.src + p.1, p.2)) ++ x.lines.map fun p => (x.dst + p.1, p.2)
    | _ => [])
    ++ (if x.posDue then [(x.crd, 2 ^ 34)] else [])
    ++ (if doneWord x.done = 0 then [] else [(doneWord x.done, 4)])

/-- A copy of an earlier block of the strand of which `p` holds is outstanding. -/
def olderCopies (s : State) (c : CoreId) (blk : Nat) (p : Copy → Bool) : Bool :=
  s.copies.any fun x => match x.2.claim with
    | some cl => cl.core == c && cl.blk != blk && p x.2
    | none => false

/-- A request of an earlier block of the strand of which `p` holds is outstanding. -/
def olderReqs (s : State) (c : CoreId) (blk : Nat) (p : Request → Bool) : Bool :=
  s.reqs.any fun r => r.2.core == c && r.2.blk != blk && p r.2

/-- A `KETTLE` of an earlier block has not completed (R197). -/
def kettlePending (s : State) (c : CoreId) : Bool :=
  match (s.gathOf c).bind s.gath with
  | some g => g.kettles.any fun k => k.2.any fun x => x.core == c && x.blk != (s.strand c).blkinrnd
  | none => false

/-- An acquire of an earlier block has not completed: accesses of later blocks are held (R291, R197). -/
def acquirePending (s : State) (c : CoreId) : Bool :=
  olderReqs s c (s.strand c).blkinrnd (·.acq) || kettlePending s c

/-- An access of an earlier block has not completed, a `KVOP.EVICT` that has not passed its gate check among them: a release waits
(R183, R291, R317). -/
def earlierPending (s : State) (c : CoreId) : Bool :=
  olderReqs s c (s.strand c).blkinrnd (fun _ => true)
    || (s.copies.any fun x => match x.2.claim with
      | some cl => cl.core == c && cl.blk != (s.strand c).blkinrnd
      | none => false)
    || s.evicts.any fun e => e.2.any fun r => r.claim.core == c && r.claim.blk != (s.strand c).blkinrnd && !r.begun

/-- Additions of an instance on the way to another package: RATOMs that have no number yet, or that no flag covers (R180, R314). -/
def massAway (s : State) (inst : Nat) : Bool :=
  s.senders.any fun e =>
    (e.2.waits.any fun w => w.inst == inst && w.kind == 2 && w.lop == 7)
      || e.2.ring.any fun r => r.inst == inst && r.kind == 2 && r.lop == 7 && e.2.uncovered r.num

/-- In deterministic mode, published mass additions of the strand's instance that have not been applied: they wait for older instances,
or travel to their home (R314). -/
def massPending (s : State) (c : CoreId) : Bool :=
  match (s.gathOf c).bind s.gath with
  | some g => (s.massHeld.any fun m => m.1 == g.inst) || ((s.attrs g.ctx).det && massAway s g.inst)
  | none => false

/-- Published stores of a gathering that still wait for their numbers (R43, R324). -/
def putsWait (s : State) (g : Option Nat) : Bool := s.senders.any fun e => e.2.waits.any fun w => w.gath == g

/-- Published stores of a strand's gathering that still wait for their numbers. -/
def putsWaiting (s : State) (c : CoreId) : Bool := putsWait s (s.gathOf c)

/-- What a release waits for: earlier accesses, and at DEVICE or SYSTEM scope the gathering's mass additions (R291,
R314). -/
def releasePending (s : State) (c : CoreId) (wide : Bool) : Bool := earlierPending s c || (wide && massPending s c)

/-- A copy of an earlier block still has to read or write one of the bytes (R291). -/
def copyPending (s : State) (c : CoreId) (la n : Nat) : Bool :=
  olderCopies s c (s.strand c).blkinrnd fun x => (x.padOut (padKey c)).any fun p => p.1 == padKey c && overlaps p.2.1 p.2.2 la n

/-- A copy of an earlier block still has to read or write one of the bytes of device memory (R291). -/
def devPending (s : State) (c : CoreId) (va n : Nat) : Bool :=
  olderCopies s c (s.strand c).blkinrnd fun x => x.devOut.any fun p => overlaps p.1 p.2 va n

/-! ### Leaf accesses -/

/-- A record of a leaf access of area 0x03 (R393). -/
def laReport (s : State) (c : CoreId) (unit acc la cls detail : Nat) : Report :=
  let r := strandReport s c cls sevTask
  let r := match c with
    | .strand n _ => { r with uclass := 5, uindex := (4 * n + la / 64 % 4) % 65536 }
    | .control _ => r
  memReport s r cls sevTask acc unit (irrevocable s c) false .la la 0 detail

/-- `DETAIL` of class 0x0309 where a range may not be reached (R74, R394): writing or reading. -/
def laRefused (w la n : Nat) (write : Bool) : Option Nat :=
  if Config.leafBytes < la + n then some 3
  else (linesOf la n).findSome? fun p =>
    let r := regionOf w p.1
    if write then (if r.writable then none else some r.detail)
    else if r = .journal then some 2 else none

/-- What every access of a strand to its scratchpad checks, in order: the region (R74), the poison of what it reads (R403), the order
within the strand (R291), and the grant of an irrevocable act (R41). -/
def padAccess (s : State) (c : CoreId) (i la n acc : Nat) (rel act : Bool) (k : State → State) : State :=
  let l := s.leaf ((coreLeaf c).getD 0)
  match (if coreIsControl c then (if Config.localBytes < la + n then some 3 else none)
    else laRefused l.partw la n (acc != accLoad)) with
  | some d => raiseFault s c (laReport s c 0 acc la 0x0309 d) d
  | none =>
    if !coreIsControl c && acc != accStore && leafPoisoned l la n then
      raiseFault s c (laReport s c 0 acc la 0x0314 1) 1
    else if acquirePending s c || (rel && releasePending s c act) || copyPending s c la n then stay s c i
    else if act && !irrevocable s c then stayGrant s c i
    else k s

/-- An access of a strand to its scratchpad after the limits of its operand (R376). -/
def leafAccess (s : State) (c : CoreId) (i la n acc : Nat) (rel act : Bool) (k : State → State) : State :=
  limitLa s c i la n 0 fun s => padAccess s c i la n acc rel act k

/-- A scratchpad write of an instruction that then completes, or waits for the grant that a full journal asks for (R41). -/
def padStore (s : State) (c : CoreId) (i a : Nat) (bs : List Byte) (k : State → State) : State :=
  match padWrite s c a bs with
  | some s => k s
  | none => stayGrant s c i

/-! ### Requests to device memory -/

/-- An access to device memory leaves as a request to its TLB slice (R173, R275); it performs at its memory port. -/
def request (s : State) (c : CoreId) (i va n : Nat) (write act acq rel : Bool) (scope : Scope) (op : ReqOp) : State :=
  limitVa s c i va n 0 fun s =>
    if acquirePending s c || (rel && releasePending s c (scopeWide scope)) then stay s c i
    else
      let (id, s) := s.fresh
      let r : Request := {
        core := c, slot := i, blk := (s.strand c).blkinrnd, acq, rel, gath := s.gathOf c, ctx := s.ctxOf c, va, size := n,
        write, act, scope := scope.code, op }
      { s with reqs := tset s.reqs id r }.modSlot c i fun x => { x with status := .owing }

/-- A request as it now stands. -/
def setReq (s : State) (id : Nat) (r : Request) : State := { s with reqs := tset s.reqs id r }

/-- The claim of a request. -/
def Request.claim (r : Request) : Claim := ⟨r.core, r.slot, r.blk⟩

/-- The output of a claim's instruction is produced, when its block is still in flight (R173). -/
def performedBy (s : State) (x : Claim) : State := if claimLive s x then performed s x.core x.slot else s

/-- Responses of a strand return in request order (R295). -/
def drainReqs (c : CoreId) : Nat → State → State
  | 0, s => s
  | fuel + 1, s =>
    match s.reqs.find? fun (r : Nat × Request) => r.2.core == c with
    | some (id, r) =>
      match r.stage with
      | .answered v => drainReqs c fuel (payOwed { s with reqs := tdel s.reqs id } r.claim v tok)
      | _ => s
    | none => s

/-- A request has performed, and its response carries v to `TA`. -/
def answer (s : State) (id : Nat) (v : Option Word) : State :=
  match tget s.reqs id with
  | some r =>
    let s := performedBy { s with reqs := tset s.reqs id { r with stage := .answered v } } r.claim
    drainReqs r.core s.reqs.length s
  | none => s

/-- A request leaves without a response. -/
def dropReq (s : State) (id : Nat) : State := { s with reqs := tdel s.reqs id }

end Sys2Proof.Machine
end

