-- ==== Sys2Proof/Machine/Ports.lean ====
section
/-!
DEFINITION. Requests at work: lookup and walk (R272 to R277, R395, R396), the service of a memory port (R70, R71) and
what each request does there (R178 to R181, R185, R328).
-/

namespace Sys2Proof.Machine

/-- Events that are not enabled leave the machine as it is (log 2). -/
def idle (s : State) : Host.Outcome State Fault Refusal := .next s

/-- A choice among n that no rule orders: the free value of log 2, unless there is one candidate. -/
def pickOf (s : State) (n : Nat) : Nat := if n ≤ 1 then 0 else Config.choice s.tick % n

/-! ### Translation of a request -/

/-- Access code of a request (R393). -/
def Request.acc (r : Request) : Nat :=
  match r.op with
  | .load _ | .waita .. => accLoad
  | .store _ => accStore
  | .atomic .. | .cas .. => accAtomic

/-- A request whose access has failed: a serviceable fault stalls it until its report is served (R396); a refusal, and
every fault of a control core's own strand, takes it away (R371, R398). -/
def failReq (s : State) (id : Nat) (r : Request) (f : TFault) : State :=
  let keep := f.serviceable && !coreIsControl r.core
  let s := if keep then setReq s id { r with stage := .stalled, hold := none } else dropReq s id
  reportAccess s r.core (some r.slot) 0 r.acc r.va f r.hold

/-- A compare-and-swap reached a page homed elsewhere (R181): class 0x030B. -/
def casRemote (r : Request) (t : Trans) (s : State) : Bool :=
  t.home != s.pkg && match r.op with
    | .cas .. => true
    | _ => false

/-- A translated request: an irrevocable act asks for the grant of R42, after its translation (R395). -/
def routeReq (s : State) (id : Nat) (r : Request) (t : Trans) : State :=
  if casRemote r t s then failReq s id r (tfault 0x030B t.home t.pte)
  else
    let wait := r.act && !irrevocable s r.core
    let s := setReq s id { r with pa := t.pa, home := t.home, stage := if wait then .grant else .port, hold := none }
    if wait then askGrantOf s r.core else s

/-- A request may be looked up: it has arrived at its slice, or the record that held it has closed (R396). -/
def lookable (s : State) (r : Request) : Bool :=
  match r.stage with
  | .lookup => true
  | .stalled => r.hold.isSome && !isHeld s r.hold
  | _ => false

/-- A miss enters the walkers' queue of its folio, last (R277). -/
def queueWalk (s : State) (id : Nat) (r : Request) : State :=
  let (n, s) := s.fresh
  setReq s id { r with stage := .walk, seq := n, level := 4, table := (s.attrs r.ctx).root.toNat }

/-- TLB_LOOKUP (R275, R276): a hit is checked by R273 and goes on; a miss queues for a walker. -/
def execTlbLookup (req : Nat) (s : State) : Host.Outcome State Fault Refusal :=
  match tget s.reqs req with
  | some r =>
    if !lookable s r then idle s
    else
      let place := placeOf r.core r.ctx r.va
      match tlbFind s place r.ctx r.va with
      | some t =>
        match applyEntry s t r.va r.acc false with
        | .ok (x, s) => .next (routeReq s req r x)
        | .error f => .next (failReq s req r f)
      | none => .next (queueWalk s req r)
  | none => .fault .noSuchUnit

/-! ### What a request does at its port -/

/-- The instance of a request's gathering. -/
def instOf (s : State) (g : Option Nat) : Nat := ((g.bind s.gath).map Gathering.inst).getD 0

/-- A fault that a request met at its port: its strand's block faults, or the core takes it (R371). -/
def portFault (s : State) (id : Nat) (r : Request) (p : Report) : State :=
  raiseFault (dropReq s id) r.core { p with where_ := whereWord r.core } (field p.synd 12 4)

/-- Consumption of a poisoned line of HBM (R402, R403): class 0x0314. -/
def poisonReport (s : State) (r : Request) : Report :=
  memReport s (strandReport s r.core 0x0314 sevTask) 0x0314 sevTask r.acc 0 (irrevocable s r.core) false .pa r.pa 0 0

/-- The request tags of the RLOADs that are outstanding. -/
def usedTags (s : State) : List Nat :=
  (s.reqs.filterMap fun r => match r.2.stage with
    | .remote t => some t
    | _ => none) ++ s.rereads.map fun r => r.2.tag

/-- The smallest request tag of 12 bits that no RLOAD uses; none while all are outstanding. -/
def freeTag (s : State) : Option Nat := (upTo 4096).find? fun t => !(usedTags s).contains t

/-- Access width code of a request (R130, R321). -/
def widthCode (n : Nat) (sgn : Bool) : Nat :=
  (if n = 1 then 0 else if n = 2 then 2 else if n = 4 then 4 else 6) + natOfBool (sgn && n != 8)

/-- Sign handling of a request that loads. -/
def Request.sgn (r : Request) : Bool :=
  match r.op with
  | .load b => b
  | .cas _ _ b => b
  | .waita _ _ b _ => b
  | _ => false

/-- An RLOAD on a channel (R321, R328), with the last number that the channel had assigned when it left: the access width code in
`OPW`, and the payload of one zero byte of a packet that carries none (log 107). -/
def rloadOn (s : State) (e : Sender) (k num pa opw tag : Nat) : Packet :=
  { kind := .rload, ctx := BitVec.ofNat 4 k, src := BitVec.ofNat 8 s.pkg, dst := BitVec.ofNat 8 e.dst,
    chan := BitVec.ofNat 8 e.index, num := BitVec.ofNat 32 num, daddr := BitVec.ofNat 40 pa,
    len := 0, opw := BitVec.ofNat 3 opw, aux := BitVec.ofNat 15 tag, data := [0] }

/-- The RLOAD of a request. -/
def rloadPacket (s : State) (r : Request) (e : Sender) (tag : Nat) (num : Nat) : Packet :=
  rloadOn s e r.ctx num r.pa (widthCode r.size r.sgn) tag

/-- The RLOAD of a re-read (R447). -/
def rereadPacket (s : State) (r : Reread) (e : Sender) : Packet := rloadOn s e r.ctx r.upto r.pa (widthCode r.size false) r.tag

/-- The bytes of a range that a gathering has staged, each as it now stands (R328). -/
def stagedBytes (s : State) (g : Option Nat) (home pa n : Nat) : List (Option Byte) :=
  let b := fun (i : Nat) => (deviceRead s g home (pa + i) 1).headD 0
  (upTo n).map fun i => if stagedAll s g home (pa + i) 1 then some (b i) else none

/-- Bytes that a home returned, with the staged ones laid over them. -/
def laidOver (own : List (Option Byte)) (bs : List Byte) : List Byte :=
  (upTo bs.length).map fun i => (own.getD i none).getD (bs.getD i 0)

/-- The strand's earlier stores to a byte of a remote read have their numbers (R328). -/
def putsNumbered (r : Request) (e : Sender) : Bool :=
  e.waits.all fun w => !(w.gath == r.gath && w.kind != 1 && overlaps w.daddr w.data.length r.pa r.size)

/-- A read of a page homed elsewhere leaves as an RLOAD on the implicit channel (R178, R328, R429). -/
def remoteRead (s : State) (id : Nat) (r : Request) : State :=
  match implicitSender s r.ctx r.home with
  | none => portFault s id r (noChannel s r.ctx ((r.gath.bind s.gath).map Gathering.tag) r.home)
  | some e =>
    let x := (tget s.senders e).getD { ctx := r.ctx, index := 0, dst := r.home }
    if !putsNumbered r x then s
    else match freeTag s with
      | none => s
      | some tag =>
        let p := rloadPacket s r x tag x.a
        let own := stagedBytes s r.gath r.home r.pa r.size
        queuePacket (setReq s id { r with stage := .remote tag, sent := 0, upto := x.a, laid := own }) p

/-- A condition of `WAITA` (R184). -/
def waitHolds (cond : Nat) (v cmp : Word) : Bool :=
  match cond with
  | 0 => v == cmp
  | 1 => v != cmp
  | 2 => decide (cmp.toNat ≤ v.toNat)
  | _ => decide (v.toNat < cmp.toNat)

/-- A `WAITA` whose first read fails (R185): it arms its watch, and the strand counts as having reached `RND`. A control
core has no rounds (R165): it abandons the block and sleeps at once. -/
def sleepOn (s : State) (c : CoreId) (w : Watch) : State :=
  match c with
  | .strand _ _ => s.modStrand c fun st => { st with wait := .atRnd, willSleep := true, watch := some w }
  | .control k => (abandon s k).modStrand c fun st => { st with wait := .sleeping, block := none, watch := some w }

/-- The value of a load or a `WAITA` read has come back (R177, R185). -/
def readBack (s : State) (id : Nat) (r : Request) (bs : List Byte) : State :=
  let v := extendTo r.size r.sgn (natOfBytes bs)
  match r.op with
  | .waita cond cmp _ _ =>
    if waitHolds cond v cmp then answer s id (some v)
    else
      let w : Watch := {
        device := true, line := r.pa / 64, va := r.va, size := r.size, seen := natOfBytes bs,
        remote := if r.home = s.pkg then none else some r.home }
      let s := dropReq s id
      sleepOn (drainReqs r.core s.reqs.length s) r.core w
  | _ => answer s id (some v)

/-- A load, or a `WAITA` read, at its port (R178): through the round buffer, from the home, or by RLOAD. -/
def serveRead (s : State) (id : Nat) (r : Request) : State :=
  if r.home = s.pkg then
    if readBad s r.gath r.home r.pa r.size then portFault s id r (poisonReport s r)
    else readBack s id r (deviceRead s r.gath r.home r.pa r.size)
  else if stagedBad s r.gath r.home r.pa r.size then portFault s id r (poisonReport s r)
  else if stagedAll s r.gath r.home r.pa r.size then readBack s id r (deviceRead s r.gath r.home r.pa r.size)
  else remoteRead s id r

/-- A remote store or atomic has been taken by its channel: it counts as performed, and its token waits for the numbers of its writes
(R173, R179). -/
def acceptReq (s : State) (id : Nat) (r : Request) : State :=
  performedBy (setReq s id { r with stage := .remote 4096 }) r.claim

/-- A store at its port (R39, R43, R179): staged, published, or sent when the round is irrevocable. -/
def serveStore (s : State) (id : Nat) (r : Request) (data : List Byte) : State :=
  let inst := instOf s r.gath
  if r.home ≠ s.pkg ∧ irrevocable s r.core then
    match sendPuts s r.ctx r.home r.pa data r.gath inst id with
    | .ok s => acceptReq s id r
    | .error p => portFault s id r p
  else match stageItem s r.ctx r.gath inst
      { port := portOf r.pa, pa := r.pa, home := r.home, op := .store data, core := some r.core } with
    | .done s => answer s id tok
    | .needsGrant => askGrantOf (setReq s id { r with stage := .grant }) r.core
    | .refused s p => portFault s id r p

/-- An atomic at its port (R180, R114, R314): at the home it is a RATOM, which delivers NULL once it is issued. -/
def serveAtomic (s : State) (id : Nat) (r : Request) (op : Nat) (arg : Word) : State :=
  if r.home ≠ s.pkg then
    match sendAtom s r.ctx r.home r.pa op arg r.gath (instOf s r.gath) id with
    | .ok s => acceptReq s id r
    | .error p => portFault s id r p
  else if hbmPoisoned s r.pa r.size then portFault s id r (poisonReport s r)
  else
    let (old, s) := hbmAtomic s r.pa op arg
    answer s id (some old)

/-- A compare-and-swap at its port (R181). -/
def serveCas (s : State) (id : Nat) (r : Request) (expect new : Word) : State :=
  if hbmPoisoned s r.pa r.size then portFault s id r (poisonReport s r)
  else
    let old := natOfBytes (s.hbm.read r.pa r.size)
    let s := if old = expect.toNat % 2 ^ (8 * r.size) then hbmWrite s r.pa (bytesOf r.size new.toNat) else s
    answer s id (some (extendTo r.size r.sgn old))

/-- A request performs at its port. -/
def serveReq (s : State) (id : Nat) (r : Request) : State :=
  match r.op with
  | .load _ | .waita .. => serveRead s id r
  | .store d => serveStore s id r d
  | .atomic op v => serveAtomic s id r op v
  | .cas e n _ => serveCas s id r e n

/-! ### The choice of a port (R70, R71, R51) -/

/-- A deterministic context's float atomic waits for older instances (R314). -/
def detWaits (s : State) (r : Request) : Bool :=
  (s.attrs r.ctx).det && olderRuns s r.ctx (instOf s r.gath) && match r.op with
    | .atomic op _ => op == 7
    | _ => false

/-- Nothing that R291 or R295 orders before a request is outstanding. -/
def orderFree (s : State) (id : Nat) (r : Request) : Bool :=
  !(s.reqs.any fun q => q.2.core == r.core && decide (q.1 < id) && (match q.2.stage with
      | .answered _ => false
      | _ => true) && (overlaps q.2.va q.2.size r.va r.size
        || (q.2.blk != r.blk && (q.2.acq || r.rel))))
    && !(s.copies.any fun x => match x.2.claim with
      | some cl => decide (x.1 < id) && cl.core == r.core && cl.blk != r.blk
          && x.2.devOut.any fun p => overlaps p.1 p.2 r.va r.size
      | none => false)

/-- A release at DEVICE or SYSTEM scope waits for what its gathering has published: mass additions that have not been applied (R314),
and stores toward other packages that have no number yet (R299). -/
def massWaits (s : State) (r : Request) : Bool :=
  r.rel && decide (2 ≤ r.scope) && (massPending s r.core || putsWait s r.gath)

/-- A request may be served at a port. -/
def servable (s : State) (p : Nat) (q : Nat × Request) : Bool :=
  q.2.stage == .port && portOf q.2.pa == p && orderFree s q.1 q.2 && !detWaits s q.2 && !massWaits s q.2

/-- The gathering of an access runs, where it has one. -/
def gathGoes (s : State) (g : Option Nat) : Bool :=
  match g.bind s.gath with
  | some x => gathRuns s x
  | none => g.isNone

/-- What waits at a port with a line waits still. -/
def portWaits (s : State) : PortUser → Bool
  | .copy id => (tget s.copies id).any fun (x : Copy) => !isHeld s x.hold && gathGoes s x.gath
  | .flow n u =>
    let x := if u = 0 then (s.leaf n).f0 else (s.leaf n).f1
    x.run && !isHeld s x.hold && (s.leaf n).gath.isSome && gathGoes s (s.leaf n).gath
  | .spine k t => s.insts.any fun (x : Nat × Instance) => x.2.ctx == k && x.2.tag == t && !x.2.retired && !isHeld s x.2.hold
  | .bind e => (tget s.pool e).any fun x => (tget s.insts x.inst).any fun (y : Instance) => !y.retired && !isHeld s y.hold
  | .commit g => (s.gath g).any fun x => x.cut == 1 && (tget s.insts x.inst).any fun (y : Instance) => !y.retired && !isHeld s y.hold
  | .admission k => (s.context k).attrs.isSome && !(s.context k).ended && !isHeld s (s.context k).hold
  | .evict e => ((tget s.evicts e).getD []).any fun r => r.begun
  | .gate e => ((tget s.evicts e).getD []).any fun r => !r.begun
  | .fetch c => strandRuns s c && (s.strand c).block.isNone
  | .instr c i => strandRuns s c && (s.slot c i).status == .waiting
  | .walk id => ((tget s.reqs id).any fun r => r.stage == .walk) || (tget s.misses id).any fun m => m.leaf.isNone && m.fault.isNone
  | .channel id => (tget s.senders id).any fun (e : Sender) => !e.dones.isEmpty

/-- A memory port. -/
def State.port (s : State) (p : Nat) : Port := (tget s.ports p).getD {}

/-- The contexts whose requests or lines may be served at a port. -/
def portAsks (s : State) (p : Nat) : List Nat :=
  ((s.reqs.filter (servable s p)).map fun q => q.2.ctx) ++ ((s.port p).queue.filter fun u => portWaits s u.1).map (·.2)

/-- Bytes that a port served to a context while another one waited, among its last `n`. -/
def servedTo (k : Nat) : Nat → List (Nat × Nat × Bool) → Nat
  | _, [] => 0
  | n, (c, b, rival) :: xs => if b ≤ n then (if c = k ∧ rival then b else 0) + servedTo k (n - b) xs else 0

/-- The last `n` bytes that a port served. -/
def trimServed : Nat → List (Nat × Nat × Bool) → List (Nat × Nat × Bool)
  | _, [] => []
  | n, x :: xs => if x.2.1 ≤ n then x :: trimServed (n - x.2.1) xs else []

/-- Bytes of the 4,096 service quanta of 256 B that a cap is counted over (R71). -/
def capWindow : Nat := 4096 * 256

/-- A capped context has had its share of the last 4,096 quanta (R71). -/
def capped (s : State) (p : Port) (k n : Nat) : Bool :=
  let cap := (s.attrs k).cap.toNat
  cap != 0 && decide (cap * 16 * 256 < servedTo k (capWindow - n) p.served + n)

/-- The next context after one in the cyclic order of 16, among candidates. -/
def nextCtx (last : Nat) (ks : List Nat) : Nat :=
  (((upTo 16).map fun j => (last + 1 + j) % 16).find? fun k => ks.contains k).getD last

/-- The context that a port serves next among those that ask (R70, R71): strict class order, weighted deficit round-robin within a
class, capped contexts last. DESIGN CHOICE (log 110): when every context that asks is at its cap, the caps are ignored. -/
def portPick (s : State) (p : Port) (asks : List Nat) (size : Nat → Nat) : Nat × Nat :=
  let ctxs := asks.dedup
  let free := if 1 < ctxs.length then ctxs.filter fun k => !capped s p k (size k) else ctxs
  let ks := if free = [] then ctxs else free
  let top := ks.foldl (fun c k => min c (s.attrs k).cls.val) 3
  let ks := ks.filter fun k => (s.attrs k).cls.val == top
  let stays := ks.contains p.last && decide (size p.last ≤ (tget p.deficit p.last).getD 0)
  let k := if stays then p.last else nextCtx p.last ks
  (k, if stays then (tget p.deficit k).getD 0 else (tget p.deficit k).getD 0 + 256 * max 1 (s.attrs k).weight.toNat)

/-- A port serves n bytes to a context: its deficit shrinks, and a context with nothing left to ask for has none (R70). -/
def portCharge (s : State) (p k grown n : Nat) (contended : Bool) (left : List Nat) : State :=
  let x := s.port p
  { s with ports := tset s.ports p { x with
      last := k
      deficit := (tset x.deficit k (grown - n)).filter fun d => left.contains d.1
      served := trimServed capWindow ((k, n, contended) :: x.served) } }

/-- A port without what one engine waits for at it. -/
def Port.without (x : Port) (u : PortUser) : Port := { x with queue := x.queue.filter fun w => w.1 != u }

/-- The port through which an access reaches a PA: the PA's own, but for an eviction engine, which stands at one port (R18). -/
def userPort (u : PortUser) (pa : Nat) : Nat :=
  match u with
  | .evict e | .gate e => 4 * e
  | _ => portOf pa

/-- An engine waits at its port for its context's turn. -/
def portWait (s : State) (u : PortUser) (k pa : Nat) : State :=
  let p := userPort u pa
  let x := (s.port p).without u
  { s with ports := tset s.ports p { x with queue := x.queue ++ [(u, k)] } }

/-- Whoever comes to a port with a line has more of them, so that its context still has a request pending (R70). -/
def portMore (s : State) : PortUser → Bool
  | .copy id => (tget s.copies id).any fun (x : Copy) => decide (2 ≤ x.todo.length)
  | .flow n u => !(if u = 0 then (s.leaf n).f0 else (s.leaf n).f1).st.toks.isEmpty
  | .evict e | .gate e => decide (2 ≤ ((tget s.evicts e).getD []).length)
  | _ => false

/-- An access of n bytes comes to a port for its context (R51, R70): it is served when the arbitration picks its context. `more` says
that the context has more to ask for. -/
def turnAt (s : State) (u : PortUser) (k p n : Nat) (more : Bool) : Option State :=
  let s := { s with ports := tset s.ports p ((s.port p).without u) }
  let asks := portAsks s p
  let (pick, grown) := portPick s (s.port p) (k :: asks) fun _ => n
  let left := if more || portMore s u then k :: asks else asks
  if pick = k then some (portCharge s p k grown n (asks.any (· != k)) left) else none

/-- A line of n bytes at a PA comes to a port. -/
def portTurn (s : State) (u : PortUser) (k pa n : Nat) : Option State := turnAt s u k (userPort u pa) n false

/-- Such a line served, or waiting at its port. -/
def portGate (s : State) (u : PortUser) (k pa n : Nat) : State × Bool :=
  match portTurn s u k pa n with
  | some s => (s, true)
  | none => (portWait s u k pa, false)

/-! ### Accesses of several parts -/

/-- Parts of 256 B of a range of addresses: the shares of memory ports (R279). -/
def portParts (pa n : Nat) : List (Nat × Nat) := (blockParts (n + 1) pa n).map fun p => (256 * p.1 + p.2.1, p.2.2)

/-- The parts of an access that have had their turns, counted for whoever makes it. -/
def turnsOf (s : State) (u : PortUser) : Nat := ((s.granted.find? fun g => g.1 == u).map (·.2)).getD 0

/-- That count set. -/
def setTurns (s : State) (u : PortUser) (n : Nat) : State :=
  let rest := s.granted.filter fun g => g.1 != u
  { s with granted := if n = 0 then rest else (u, n) :: rest }

/-- An access of parts of at most 256 B may be made when each part has had its turn at its port (R51, R70); else the first part that has
not waits. -/
def allTurns (s : State) (u : PortUser) (acc va : Nat) (parts : List (Nat × Nat)) : Except AccessFault State :=
  let done := turnsOf s u
  match parts[done]? with
  | none => .ok (setTurns s u (done - parts.length))
  | some (pa, n) => .error (waiting acc va (.port pa n (decide (done + 1 < parts.length))))

/-- What an access waits for is asked for: a walk, or the turn of its next part. -/
def await (s : State) (u : PortUser) (place k va : Nat) : Await → State
  | .walk => queueMiss s u place k va
  | .port pa n more =>
    match turnAt s u k (userPort u pa) n more with
    | some s => setTurns s u (turnsOf s u + 1)
    | none => portWait s u k pa

/-- Whoever made an access has made it or has gone: nothing of its misses and turns stays. -/
def endAccess (s : State) (u : PortUser) : State := setTurns (dropMisses s u) u 0

/-! ### Walks -/

/-- The misses that stand before one in the queue of its walk cache's folio or hub, and are still walked. -/
def walksBefore (s : State) (p seq : Nat) : Nat :=
  (s.reqs.filter fun q => q.2.stage == .walk && walkPlace (placeOf q.2.core q.2.ctx q.2.va) == p && decide (q.2.seq < seq)).length
    + (s.misses.filter fun m => m.2.leaf.isNone && m.2.fault.isNone && walkPlace m.2.place == p && decide (m.1 < seq)).length

/-- A walker's read of a table entry has had its turn at the entry's port, where it goes to memory (R70, R277). -/
def walkTurn (s : State) (id place k va lvl a : Nat) : State × Bool :=
  match walkReads s (walkPlace place) k va lvl a with
  | none => (s, true)
  | some src => portGate s (.walk id) k src 8

/-- The walk of a strand's request reads the entry of the next level; the leaf entry enters the TLB with `ACCESSED` set, and the request
goes on, or the walk fails. -/
def walkReq (s : State) (id : Nat) (r : Request) : State :=
  let place := placeOf r.core r.ctx r.va
  match walkLevel s (walkPlace place) r.ctx r.va r.level r.table with
  | .error f => failReq s id r f
  | .ok (.table w a) => setReq (keepWalk s w) id { r with level := r.level - 1, table := a }
  | .ok (.leaf pte src) =>
    let (t, s) := enterLeaf s place r.ctx r.va pte r.level src
    match applyEntry s t r.va r.acc false with
    | .ok (x, s) => routeReq s id r x
    | .error f => failReq s id r f

/-- The walk of another miss reads the entry of the next level; what it finds stands in the miss. Nothing of the Spine's is cached. -/
def walkMiss (s : State) (id : Nat) (m : Miss) : State :=
  let set := fun (s : State) (m : Miss) => { s with misses := tset s.misses id m }
  match walkLevel s (walkPlace m.place) m.ctx m.va m.level m.table with
  | .error f => set s { m with fault := some f }
  | .ok (.table w a) => set (if 528 ≤ m.place then s else keepWalk s w) { m with level := m.level - 1, table := a }
  | .ok (.leaf pte src) =>
    let (t, s) := enterLeaf s m.place m.ctx m.va pte m.level src
    set s { m with leaf := some t }

/-- PAGE_WALK (R272, R274, R277): one of the 32 walkers, which take the misses in the order of arrival, reads the entry of the next level
by one indivisible access. -/
def execPageWalk (req : Nat) (s : State) : Host.Outcome State Fault Refusal :=
  match tget s.reqs req, tget s.misses req with
  | some r, _ =>
    let place := placeOf r.core r.ctx r.va
    if r.stage != .walk || decide (32 ≤ walksBefore s (walkPlace place) r.seq) then idle s
    else
      let (s, go) := walkTurn s req place r.ctx r.va r.level r.table
      .next (if go then walkReq s req r else s)
  | none, some m =>
    if m.leaf.isSome || m.fault.isSome || decide (32 ≤ walksBefore s (walkPlace m.place) req) then idle s
    else
      let (s, go) := walkTurn s req m.place m.ctx m.va m.level m.table
      .next (if go then walkMiss s req m else s)
  | none, none => .fault .noSuchUnit

/-- MEMORY_PORT_SERVICE (R70, R71): the port serves a request of the context that the arbitration picks; a line of an engine that it
picks is served by the engine's own step. -/
def execMemoryPortService (port : Fin 256) (s : State) : Host.Outcome State Fault Refusal :=
  let p := port.val
  let qs := s.reqs.filter (servable s p)
  let asks := portAsks s p
  let size := fun k => ((qs.find? fun q => q.2.ctx == k).map fun q => q.2.size).getD 64
  let (k, grown) := portPick s (s.port p) asks size
  let mine := qs.filter fun q => q.2.ctx == k
  match mine[pickOf s mine.length]? with
  | some (id, r) =>
    let left := portAsks { s with reqs := tdel s.reqs id } p
    .next (serveReq (portCharge s p k grown r.size (asks.any (· != k)) left) id r)
  | none => idle s

end Sys2Proof.Machine
end

