-- ==== Sys2Proof/Machine/Blocks.lean ====
section
/-!
DEFINITION. Blocks: fetch and decode checks (R115, R116, R367 to R374), commit (R30, R90, R124, R144, R145), the deadline
and the watchdog of a block (R378).
-/

namespace Sys2Proof.Machine

/-! ### Header fields (R116) -/

def headNi (h : Word32) : Nat := bits h.toNat 31 26 + 1
def headNout (h : Word32) : Nat := bits h.toNat 25 19
def headKind (h : Word32) : Nat := bits h.toNat 18 17

/-! ### Slots at fetch (R118, R120, R87) -/

/-- The two target fields of a slot's word; a word without a meaning has none. -/
def wordTargets (w : Word32) : List Target :=
  match decode w with
  | .ok i => [(formOf i).ta, (formOf i).tb]
  | .error _ => []

/-- How many target fields of a block name an operand. -/
def producersOf (ts : List Target) (k : OpndKind) (j : Nat) : Nat :=
  (ts.filter fun t => match t with
    | .opnd k' j' => k' == k && j'.val == j
    | _ => false).length

/-- An operand as it stands when its block is fetched. -/
def freshOperand (n : Nat) : Operand := { targeted := n != 0, pending := n }

/-- The output ports that a slot sends to (R87): its port targets, and those of `SPUSH` and `TTURN.emit`. -/
def sendsOf (w : Word32) : List Nat :=
  match decode w with
  | .ok i =>
    (ownPort i).toList ++ (wordTargets w).filterMap fun t => match t with
        | .port p => some p.val
        | _ => none
  | .error _ => []

/-- The slots of a block as fetched. -/
def freshSlots (ws : List Word32) : List Slot :=
  let ts := ws.flatMap wordTargets
  (upTo ws.length).map fun j =>
    let w := ws.getD j 0
    { word := w, l := freshOperand (producersOf ts .l j), r := freshOperand (producersOf ts .r j),
      t := freshOperand (producersOf ts .t j), ports := sendsOf w }

/-! ### Decode checks (R368, R372 to R374) -/

/-- What a check finds: the slot, the class and `DETAIL`. -/
abbrev Found := Option (Option Nat × Nat × Nat)

/-- The header (Table 2 of R372). `entry` is a fetch at the handler's first block. -/
def checkHeader (h : Word32) (handler entry : Bool) : Found :=
  if headNout h = 0 ∨ headKind h = 1 ∨ headKind h = 3 ∨ h.toNat % 2 ^ 17 ≠ 0 then some (none, 0x0101, 0)
  else if (headKind h = 2 ∧ !handler) ∨ (entry ∧ headKind h ≠ 2) then some (none, 0x010A, 0)
  else none

/-- The opcode of a slot: reserved, privileged, or refused on a control core (R368 step 2, R448). -/
def checkOpcode (w : Word32) (priv control : Bool) : Option Nat :=
  let op := w.toNat / 2 ^ 25
  match decode w with
  | .error .reservedOpcode => some 0x0102
  | _ =>
    if op / 16 = 7 ∧ !priv then some 0x0108
    else if control ∧ (op / 16 = 5 ∧ op ≠ 0x59 ∨ op / 16 = 6 ∨ op = 0x4B ∧ bits w.toNat 24 18 = 3) then some 0x0119
    else none

/-- An opcode of format T1I (R117, R131). -/
def isT1i (op : Nat) : Bool :=
  op == 2 || op == 3 || op == 8 || (0x0A ≤ op && op ≤ 0x0D) || op == 0x23 || (0x26 ≤ op && op ≤ 0x2C)
    || op == 0x37 || op == 0x38 || op == 0x3A || op == 0x48

/-- A word with its target fields at 0x07F (R117): what remains is `FN`, `IMM` and the other fixed fields. -/
def untargeted (w : Word32) : Word32 :=
  let n := w.toNat
  let op := n / 2 ^ 25
  if op = 5 ∨ op = 6 then w
  else if isT1i op then BitVec.ofNat 32 (op * 2 ^ 25 + 0x7F0000 + n % 2 ^ 16)
  else BitVec.ofNat 32 (n / 2 ^ 18 * 2 ^ 18 + 0xFE7F)

/-- An assigned word of the opcode of `w` that reads what a word of it with reserved fields is taken to read (R131): the
part that selects operands is kept (`COPYSIGN`, `ACCOP_COPY`, the forms of `TLBINV`; log 100). -/
def assignedOf (w : Word32) : Word32 :=
  let op := w.toNat / 2 ^ 25
  let fn := bits w.toNat 24 18
  let rest :=
    if op = 5 ∨ op = 6 then 2 ^ 22
    else if isT1i op then 0x7F0000 + (if op = 8 then 1 else 0)
    else 0xFE7F + 2 ^ 18 *
      (if op = 0x46 ∨ op = 0x47 then 4
       else if op = 0x3D then (if fn % 4 = 2 then 2 else 0)
       else if op = 0x69 then fn % 2
       else if op = 0x70 then min (fn % 4) 2
       else 0)
  BitVec.ofNat 32 (op * 2 ^ 25 + rest)

/-- The operands of a receiver, by its opcode (R368 step 3): its targets and its reserved fields do not matter. -/
def receiverForm (w : Word32) : Option Form :=
  match decode (untargeted w) with
  | .ok r => some (formOf r)
  | .error _ =>
    match decode (assignedOf w) with
    | .ok r => some (formOf r)
    | .error _ => none

/-- A target of slot i against the block (Table 4 of R374). -/
def badTarget (ws : List Word32) (i : Nat) (t : Target) : Bool :=
  match t with
  | .opnd k j =>
    decide (ws.length ≤ j.val) || j.val == i || match receiverForm (ws.getD j.val 0) with
      | some f => match k with
        | .l => !f.l
        | .r => !f.r
        | .t => false
      | none => false
  | _ => false

/-- The `TA` field of a word, by its format (R117). -/
def taField (w : Word32) : Nat := if isT1i (w.toNat / 2 ^ 25) then bits w.toNat 24 16 else bits w.toNat 8 0

/-- Fields that the encoding admits and the entry of the instruction refuses: a system register that
is not assigned or not writable (Table 3 of R373). -/
def checkFields (i : Instr) (control : Bool) : Option (Nat × Nat) :=
  match i with
  | .sysrd _ x => if sysAssigned x.toNat then none else some (0x0109, x.toNat)
  | .syswr x => if sysWritable control x.toNat then none else some (0x0109, x.toNat)
  | _ => none

/-- `FN`, `IMM` and the other fixed fields of a slot: class 0x0103, or 0x0109 with the index (R373). -/
def checkFixed (w : Word32) (control : Bool) : Option (Nat × Nat) :=
  match decode (untargeted w) with
  | .ok x => checkFields x control
  | .error .reservedOpcode => some (0x0102, 0)
  | .error _ => some (0x0103, 0)

/-- The targets of a slot: `TA`, then `TB` (R374); `DETAIL` is 0 or 1 (R376). -/
def checkTargets (ws : List Word32) (i : Nat) : Option (Nat × Nat) :=
  let w := ws.getD i 0
  match decode w with
  | .ok x =>
    if badTarget ws i (formOf x).ta then some (0x0104, 0)
    else if badTarget ws i (formOf x).tb then some (0x0104, 1)
    else none
  | .error (.badTarget true) =>
    match Target.ofCode (taField w) with
    | some t => if badTarget ws i t then some (0x0104, 0) else some (0x0104, 1)
    | none => some (0x0104, 0)
  | .error _ => some (0x0104, 0)

/-- The fields and then the targets of one slot, in the order of R368 step 3. -/
def checkSlot (ws : List Word32) (i : Nat) (control : Bool) : Option (Nat × Nat) :=
  match checkFixed (ws.getD i 0) control with
  | some f => some f
  | none => checkTargets ws i

/-- A required operand that nothing targets (R374): class 0x0105 with its number. -/
def checkOperands (x : Slot) : Option Nat :=
  let f := x.form
  if f.l ∧ !x.l.targeted then some 0
  else if f.r ∧ !x.r.targeted then some 1
  else if f.t = .data ∧ !x.t.targeted then some 2
  else none

/-- A target field counts as an output (R126). -/
def countsTarget (t : Target) : Bool :=
  match t with
  | .reg _ | .port _ => true
  | _ => false

/-- The count of R126. -/
def countOutputs (xs : List Slot) : Nat :=
  ((xs.flatMap fun x => [x.form.ta, x.form.tb]).filter countsTarget).length
    + (xs.filter fun x => x.form.cls != .value).length

/-- A `.round`, `.dev` or `.sys` `WAITA` (R186). -/
def endsRound (x : Slot) : Bool :=
  match x.instr with
  | some (.waitaRound ..) | some (.waitaDev ..) | some (.waitaSys ..) => true
  | _ => false

/-- The block as a whole (R368 step 4, R374). -/
def checkBlock (h : Word32) (xs : List Slot) : Found :=
  match (upTo xs.length).findSome? fun i => (checkOperands (xs.getD i { word := 0 })).map fun d => (i, d) with
  | some (i, d) => some (some i, 0x0105, d)
  | none =>
    if countOutputs xs ≠ headNout h then some (none, 0x0106, countOutputs xs)
    else if (xs.filter fun x => x.form.cls == .control) = [] then some (none, 0x0107, 0)
    else match xs.findIdx? endsRound with
      | some i => if 1 < (xs.filter fun x => x.form.cls == .effect).length then some (some i, 0x0103, 0) else none
      | none => none

/-- All decode checks of a block, in the order of R368. -/
def decodeCheck (h : Word32) (ws : List Word32) (priv control handler entry : Bool) : Found :=
  match checkHeader h handler entry with
  | some f => some f
  | none =>
    match (upTo ws.length).findSome? fun i => (checkOpcode (ws.getD i 0) priv control).map fun k => (some i, k, 0) with
    | some f => some f
    | none =>
      match (upTo ws.length).findSome? fun i => (checkSlot ws i control).map fun x => (some i, x.1, x.2) with
      | some f => some f
      | none => checkBlock h (freshSlots ws)

/-! ### Fetch (R115, R367) -/

/-- The words of a block held in a leaf's block buffer. -/
def bufferedBlock (s : State) (c : CoreId) (a : Nat) : Option (List Word32) :=
  match c with
  | .strand n _ => ((s.leaf n).blocks.find? fun b => b.1 == a).map (·.2)
  | .control _ => none

/-- Oldest blocks leave the buffer until the words fit 8 KiB (log 8). -/
def trimBlocks : List (Nat × List Word32) → List (Nat × List Word32)
  | [] => []
  | b :: bs => if ((b :: bs).map fun x => x.2.length).foldl (· + ·) 0 ≤ 2048 then b :: bs else trimBlocks bs

/-- A fetched block enters the buffer. -/
def keepBlock (s : State) (c : CoreId) (a : Nat) (ws : List Word32) : State :=
  match c with
  | .strand n _ => s.modLeaf n fun l => { l with blocks := trimBlocks (l.blocks ++ [(a, ws)]) }
  | .control _ => s

/-- Little-endian words. -/
def wordsAt (bs : List Byte) : List Word32 := (upTo (bs.length / 4)).map fun i => BitVec.ofNat 32 (field bs (4 * i) 4)

/-- The record of class 0x0117 (R375): charged to the block whose transfer named the address. -/
def fetchFault (s : State) (c : CoreId) (a : Nat) : State :=
  let st := s.strand c
  let (blk, slot, word) := st.prev.getD (a, 0, 0)
  let synd := bytesOf 8 (blk % 2 ^ 52 + slot * 2 ^ 52 + natOfBool st.prev.isSome * 2 ^ 58) ++ bytesOf 4 word.toNat
    ++ bytesOf 4 0
  raiseFault s c { strandReport s c 0x0117 sevTask with asp := .va, addr := a, synd } 0

/-- A control core fetches from its local memory below 0x8_0000 (R379). -/
def localFetch (_s : State) (c : CoreId) (a : Nat) : Bool :=
  match c with
  | .control _ => decide (a < Config.localBytes)
  | .strand _ _ => false

/-- Bytes that a block takes up to the end of its 64 KiB, by the header word that stands first of `bs`: none where it crosses it. -/
def blockSize (a : Nat) (bs : List Byte) : Option Nat :=
  let ni := headNi (BitVec.ofNat 32 (natOfBytes bs))
  if (a + 4 * ni + 3) / 65536 ≠ a / 65536 then none else some (4 * ni + 4)

/-- The words of a block in device memory, as published, once its parts have had their turns at their ports (R51, R115). -/
def fetchDevice (s : State) (c : CoreId) (a : Nat) : Except AccessFault (Option (List Word32) × State) :=
  match engineTrans s (.fetch c) (placeOf c (s.ctxOf c) a) (s.ctxOf c) a accFetch false with
  | .error f => .error f
  | .ok (t, s) =>
    let size := blockSize a (s.hbm.read t.pa 4)
    let n := size.getD 4
    match allTurns s (.fetch c) accFetch a (portParts t.pa n) with
    | .error f => .error f
    | .ok s =>
      if hbmPoisoned s t.pa n then .error { f := poisonFault t.pa t.pte 0, acc := accFetch, va := a }
      else match size with
        | none => .ok (none, s)
        | some n =>
          let ws := wordsAt (s.hbm.read t.pa n)
          .ok (some ws, keepBlock s c a ws)

/-- The words of a block, header first: from the block buffer, from local memory, or fetched; none where the block crosses 64 KiB. -/
def fetchWords (s : State) (c : CoreId) (a : Nat) : Except AccessFault (Option (List Word32) × State) :=
  match bufferedBlock s c a with
  | some ws => .ok (some ws, s)
  | none =>
    if localFetch s c a then .ok ((blockSize a (padRead s c a 4)).map fun n => wordsAt (padRead s c a n), s)
    else fetchDevice s c a

/-- A block fetch that fails is reported; a retry of one that a record held may recur (R397). One that waits asks for it. -/
def fetchFails (s : State) (c : CoreId) (a : Nat) (f : AccessFault) : State :=
  let k := s.ctxOf c
  match f.wait with
  | some w => await s (.fetch c) (placeOf c k a) k a w
  | none => reportAccess (endAccess s (.fetch c)) c none 0 accFetch a f.f (s.strand c).held

/-- A block takes its place in its strand, with the system registers as held at its start (R88, R147). -/
def startBlock (s : State) (c : CoreId) (a : Nat) (h : Word32) (ws : List Word32) : State :=
  let s := tickClock s (coreFolio c)
  s.modStrand c fun st => { st with held := none, block := some { addr := a, head := h, slots := freshSlots ws, start := sysStart s c } }

/-- A strand fetches its next block: it runs, has none in flight, and no open record holds it. -/
def mayFetch (s : State) (c : CoreId) : Bool :=
  strandRuns s c && (s.strand c).block.isNone && !isHeld s (s.strand c).held && !((s.strand c).traps.any (isOpen s)) && match c with
    | .control k => (s.core k.val).cause.isNone && (!(s.core k.val).irq || (s.core k.val).handler)
    | .strand _ _ => true

/-- A strand that a `TRAP` or `BKPT` stalled runs again in the round after it, once its records are closed (R380). -/
def unstall (s : State) (c : CoreId) : State :=
  let st := s.strand c
  if st.wait = .stalled ∧ st.blkinrnd = 0 ∧ !(st.traps.any (isOpen s)) then
    s.modStrand c fun st => { st with wait := .running, traps := [] }
  else s

/-- BLOCK_FETCH (R115, R367): the fetch completes and the decode checks follow. -/
def execBlockFetch (c : CoreId) (s0 : State) : Host.Outcome State Fault Refusal :=
  let s := unstall s0 c
  if !mayFetch s c then idle s0
  else
    let a := (s.strand c).pc
    if a % 4 ≠ 0 then .next (fetchFault s c a)
    else match fetchWords s c a with
      | .error f => .next (fetchFails s c a f)
      | .ok (none, s) => .next (fetchFault s c a)
      | .ok (some ws, s) =>
        let h := ws.getD 0 0
        let s := startBlock s c a h (ws.drop 1)
        let handler := match c with
          | .control k => (s.core k.val).handler
          | .strand _ _ => false
        match decodeCheck h (ws.drop 1) (coreIsControl c || s.ctxOf c == 0) (coreIsControl c) handler
            (handler && a == 0) with
        | some (slot, cls, d) => .next (blockFault s c slot cls d)
        | none => .next s

/-! ### Commit (R30) -/

/-- The block's outputs have all been produced (R126). -/
def Block.allProduced (b : Block) : Bool := b.produced == headNout b.head

/-- A performed `EXIT` (R378; `TDONE` is not one). -/
def Block.exits (b : Block) : Bool := b.moves.contains (.finish false)

/-- The commit would bring `DLREM` from 1 to 0 without `RND` or `EXIT` (R33, R378). -/
def overruns (s : State) (c : CoreId) (b : Block) : Bool :=
  !coreIsControl c && (s.strand c).dlrem == 1 && b.rnd.isNone && !b.exits

/-- The block in flight may commit. -/
def mayCommit (s : State) (c : CoreId) : Bool :=
  strandRuns s c && match (s.strand c).block with
    | some b => b.allProduced
    | none => false

/-- The strand after the commit of a block (R32, R127, R142 to R144). DESIGN CHOICE (log 101): a control core, which has no
rounds, counts its committed blocks in the same register, which reads modulo 4,096 (R88 does not say). -/
def advance (st : Strand) (b : Block) (control : Bool) : Strand :=
  let st := { st with
    block := none
    overdue := []
    blkinrnd := st.blkinrnd + 1
    dlrem := if control then st.dlrem else st.dlrem - 1
    prev := some (b.addr, b.cslot, (b.slots.getD b.cslot { word := b.head }).word)
    fpflags := st.fpflags ||| b.flags }
  match b.moves with
  | .goto a :: _ =>
    if b.rnd.isSome && !control then { st with pc := a, wait := .atRnd, recorded := b.rnd } else { st with pc := a }
  | .finish _ :: _ => { st with wait := .finished }
  | _ => st

/-- A delivered `TRAP` or `BKPT` of a leaf strand (R380): its record is open and stalls the strand. -/
def deliverTrap (c : CoreId) (b : Block) (s : State) (t : Nat × Bool × Nat) : State :=
  match c with
  | .control _ => s
  | .strand n k =>
    let r := { strandReport s c (if t.2.1 then 0x0121 else 0x0120) sevStalled with synd := blockSynd b (some t.1) t.2.2 }
    let (num, s) := openRecord s r (fun _ => .trap n k.val) (s.gathOf c) none
    let s := s.modStrand c fun st =>
      { st with
        wait := if st.wait = .finished then .finished else .stalled
        traps := st.traps ++ [num] }
    match s.gathOf c with
    | some g => if t.2.1 then s.modGath g fun x => { x with saveDue := true } else s
    | none => s

/-- What a commit does beyond the registers: system registers, the strand, `TDONE`, `ERET` and traps. DESIGN CHOICE (log 127): of
several `TRAP` and `BKPT` of one block of a control core the first performed is the cause, and one performed in handler mode has no
effect (R145, R379 do not say). -/
def commitTail (s : State) (c : CoreId) (b : Block) : State :=
  let s := b.sys.foldl (fun s x => sysWrite s c x.1 x.2) s
  let s := s.modStrand c fun st => advance st b (coreIsControl c)
  let s := match s.gathOf c with
    | some g => if b.moves.contains (.finish true) then s.modGath g fun x => { x with final := true } else s
    | none => s
  match c with
  | .strand _ _ => b.traps.foldl (deliverTrap c b) s
  | .control k =>
    if b.moves.contains .eret then returnFrom s k.val
    else match b.traps with
      | (_, brk, code) :: _ =>
        if (s.core k.val).handler then s
        else s.modCore k.val fun x => { x with cause := some (x.strand.pc, if brk then 0x0121 else 0x0120, code) }
      | [] => s

/-- BLOCK_COMMIT (R30): register writes take effect together; a full journal first asks for the grant (R41). -/
def execBlockCommit (c : CoreId) (s : State) : Host.Outcome State Fault Refusal :=
  match (s.strand c).block with
  | some b =>
    if !mayCommit s c || overruns s c b then idle s
    else match writeRegs s c b.regs with
      | some s => .next (commitTail s c b)
      | none => .next (askGrantOf s c)
  | none => idle s

/-- DEADLINE_OVERRUN (R378): class 0x0130 with the deadline that the last `RND` recorded. -/
def execDeadlineOverrun (c : CoreId) (s : State) : Host.Outcome State Fault Refusal :=
  match (s.strand c).block with
  | some b =>
    if mayCommit s c && overruns s c b then .next (blockFault s c none 0x0130 (s.strand c).lastDl) else idle s
  | none => idle s

/-- The block is without progress (R378). -/
def noProgress (s : State) (c : CoreId) (b : Block) : Bool :=
  let st := s.strand c
  strandRuns s c && !b.allProduced
    && b.slots.all (fun x => match x.status with
      | .idle => !x.complete
      | .done => true
      | _ => false)
    && match c with
      | .strand n t => !((s.leaf n).sendq.any fun r => r.strand == t.val && r.blk == st.blkinrnd)
      | .control _ => true

/-- NO_PROGRESS_WATCHDOG (R378): class 0x0131 with the number of unfired slots. -/
def execNoProgressWatchdog (c : CoreId) (s : State) : Host.Outcome State Fault Refusal :=
  match (s.strand c).block with
  | some b =>
    if noProgress s c b then
      .next (blockFault s c none 0x0131 (b.slots.filter fun x => x.status == .idle).length)
    else idle s
  | none => idle s

end Sys2Proof.Machine
end

