-- ==== Sys2Proof/Machine/Control.lean ====
section
/-!
DEFINITION. Row 0x00: moves, control transfers, rounds, traps, system registers, `SPAWN` and `NULL` (R140 to R147, R198,
R199).
-/

namespace Sys2Proof.Machine

/-- The register lies in a poisoned line of its leaf (R79, R403): its line's address. -/
def regSick (s : State) (c : CoreId) (g : Nat) : Option Nat :=
  match c with
  | .strand n t => if leafPoisoned (s.leaf n) (regAddr t.val g) 8 then some (regAddr t.val g) else none
  | .control _ => none

/-- `RD` (R140): the register as at block start (R123): writes of the block take effect at its commit. A register of a poisoned line is
class 0x0314 (R403). -/
def execRd (g : Fin 64) (tb ta : Target) (s : State) : Host.Outcome State Fault Refusal :=
  perform (formOf (.rd g tb ta)) s fun s c i _ _ _ =>
    match regSick s c g.val with
    | some la => raiseFault s c (laReport s c 0 accLoad la 0x0314 1) 1
    | none => deliver2 s c i ta tb (some (readReg s c g.val)) (some (readReg s c g.val))

/-- `MOVI` (R140). -/
def execMovi (ta : Target) (imm : BitVec 16) (s : State) : Host.Outcome State Fault Refusal :=
  valueOp (formOf (.movi ta imm)) s fun _ _ _ => imm.signExtend 64

/-- `MOVHI` (R140). -/
def execMovhi (ta : Target) (imm : BitVec 16) (s : State) : Host.Outcome State Fault Refusal :=
  valueOp (formOf (.movhi ta imm)) s fun l _ _ => l <<< 16 ||| imm.setWidth 64

/-- `MOV` (R140). -/
def execMov (tb ta : Target) (s : State) : Host.Outcome State Fault Refusal :=
  valueOp (formOf (.mov tb ta)) s fun l _ _ => l

/-- `NULL` (R140). -/
def execNull (tb ta : Target) (s : State) : Host.Outcome State Fault Refusal :=
  perform (formOf (.null tb ta)) s fun s c i _ _ _ => deliver2 s c i ta tb none none

/-- A class-C instruction is finished, with its transfer or without one. -/
def transfer (s : State) (c : CoreId) (i : Nat) (mv : Option Transfer) : State :=
  settleControl (deliver2 s c i .none .none none none) c i mv

/-- A branch condition (R128). -/
def condHolds (cond : Cond) (l : Word) : Bool :=
  match cond with
  | .always => true
  | .nz => l != 0
  | .z => l == 0
  | .ltz => l.msb
  | .gez => !l.msb

/-- The header address of the block in flight. -/
def headerOf (s : State) (c : CoreId) : Nat := ((s.strand c).block.map Block.addr).getD 0

/-- The target of `BR` and `CALL` (R142). -/
def branchTarget (h : Nat) (off : BitVec 22) : Nat := (wordOfNat h + 4 * off.signExtend 64).toNat

/-- The link of `CALL` (R142): past the block's last word. -/
def linkOf (s : State) (c : CoreId) : Word :=
  wordOfNat (headerOf s c + 4 * (((s.strand c).block.map fun b => b.slots.length).getD 0 + 1))

/-- `BR` (R142). -/
def execBr (cond : Cond) (off : BitVec 22) (s : State) : Host.Outcome State Fault Refusal :=
  perform (formOf (.br cond off)) s fun s c i l _ _ =>
    transfer s c i (if condHolds cond l then some (.goto (branchTarget (headerOf s c) off)) else none)

/-- `CALL` (R142): the link is a pending write of G63. -/
def execCall (cond : Cond) (off : BitVec 22) (s : State) : Host.Outcome State Fault Refusal :=
  perform (formOf (.call cond off)) s fun s c i l _ _ =>
    if condHolds cond l then
      transfer (pendWrite s c i 63 (linkOf s c)) c i (some (.goto (branchTarget (headerOf s c) off)))
    else transfer s c i none

/-- `BRR` (R142). -/
def execBrr (s : State) : Host.Outcome State Fault Refusal :=
  perform (formOf .brr) s fun s c i l _ _ => transfer s c i (some (.goto l.toNat))

/-- `EXIT` (R143). -/
def execExit (s : State) : Host.Outcome State Fault Refusal :=
  perform (formOf .exit) s fun s c i _ _ _ => transfer s c i (some (.finish false))

/-- `TDONE` (R143, R199). -/
def execTdone (s : State) : Host.Outcome State Fault Refusal :=
  perform (formOf .tdone) s fun s c i _ _ _ => transfer s c i (some (.finish true))

/-- `RND` (R144): takes effect at the commit of its block; a second one is class 0x0113 (R375). -/
def execRnd (deadline : BitVec 12) (s : State) : Host.Outcome State Fault Refusal :=
  perform (formOf (.rnd deadline)) s fun s c i _ _ _ =>
    if (((s.strand c).block.map Block.rnd).getD none).isSome then blockFault s c (some i) 0x0113 0
    else complete noForm (s.modBlock c fun b => { b with rnd := some deadline.toNat }) c i none none

/-- A performed `TRAP` or `BKPT`, delivered at the commit of its block (R145). -/
def setTrap (s : State) (c : CoreId) (i : Nat) (brk : Bool) (code : Nat) : State :=
  complete noForm (s.modBlock c fun b => { b with traps := b.traps ++ [(i, brk, code)] }) c i none none

/-- `TRAP` (R145, R380). -/
def execTrap (imm : BitVec 16) (s : State) : Host.Outcome State Fault Refusal :=
  perform (formOf (.trap imm)) s fun s c i _ _ _ => setTrap s c i false imm.toNat

/-- `BKPT` (R145, R380). -/
def execBkpt (imm : BitVec 16) (s : State) : Host.Outcome State Fault Refusal :=
  perform (formOf (.bkpt imm)) s fun s c i _ _ _ => setTrap s c i true imm.toNat

/-- `SYSRD` (R146). -/
def execSysrd (ta : Target) (idx : BitVec 12) (s : State) : Host.Outcome State Fault Refusal :=
  valueOp (formOf (.sysrd ta idx)) s fun _ _ _ => sysValue s s.focus.core idx.toNat

/-- `SYSWR` (R146): at the commit of its block; two of one index are class 0x0111 (R375). -/
def execSyswr (idx : BitVec 12) (s : State) : Host.Outcome State Fault Refusal :=
  perform (formOf (.syswr idx)) s fun s c i l _ _ =>
    if ((s.strand c).block.map fun b => b.sys.any fun x => x.1 == idx.toNat).getD false then
      blockFault s c (some i) 0x0111 idx.toNat
    else complete noForm (s.modBlock c fun b => { b with sys := b.sys ++ [(idx.toNat, l)] }) c i none none

end Sys2Proof.Machine
end

