-- ==== Sys2Proof/Machine/Images.lean ====
section
/-!
DEFINITION. Configuration images (R170, R354, R355, R435, R440): CRC-32C, the keys of configuration slots, shadow images and the batch
that a commit will switch.
-/

namespace Sys2Proof.Machine

/-- One bit of CRC-32C. -/
def crcBits : Nat → Nat → Nat
  | 0, c => c
  | n + 1, c => crcBits n (if c % 2 = 1 then c / 2 ^^^ 0x82F63B78 else c / 2)

/-- CRC-32C of bytes (PRESUMED, the Castagnoli polynomial in its usual reflected form). -/
def crc32c (bs : List Byte) : Nat :=
  bs.foldl (fun c (b : Byte) => crcBits 8 (c ^^^ b.toNat)) 0xFFFFFFFF ^^^ 0xFFFFFFFF

/-- The key of a configuration slot of a quire. -/
def slotKey (quire slot : Nat) : Nat := 64 * quire + slot

/-- Who writes a shadow: a control core by its number, and 16 for a strand of CTX0. -/
def loaderOf : CoreId → Nat
  | .control k => k.val
  | .strand _ _ => 16

/-- The record of `IMGW` (Table 12, R376). -/
def imageOk (bs : List Byte) : Bool :=
  let len := field bs 8 4
  let off := field bs 16 4
  decide (field bs 0 8 < 2 ^ 52) && len % 64 == 0 && decide (64 ≤ len) && decide (len ≤ 65536)
    && decide (field bs 12 2 < Config.quireCount) && decide (field bs 14 2 < 64)
    && off % 64 == 0 && decide (off + len ≤ 65536) && field bs 24 8 == 0

/-- A record of the image loader (R435). -/
def imageReport (cls sev detail : Nat) (ctx : Option Nat) : Report :=
  { cls, sev, folio := 8, uclass := 0x13, ctx, synd := zeros 12 ++ bytesOf 4 detail }

/-- The shadow image of a slot in a batch: what its `IMGW` have written over the committed configuration. -/
def shadowIn (s : State) (b : Batch) (key : Nat) : Memory := ((tget b.images key).orElse fun _ => tget s.config key).getD []

/-- The batch that the next `IMGCMT` closes. -/
def openBatch (s : State) : Batch :=
  { claim := ⟨.control 0, 0, deadBlk⟩, slots := s.pending, images := s.shadow, bad := s.badBatch, upto := 0 }

/-- An update of the batch that the `IMGW` of a copy belongs to: the first whose `IMGCMT` performed after it, or the open one (R441). -/
def modBatch (s : State) (id : Nat) (f : Batch → Batch) : State :=
  match s.batches.findIdx? fun b => decide (id < b.upto) with
  | some i => { s with batches := lmod s.batches i f }
  | none =>
    let b := f (openBatch s)
    { s with pending := b.slots, shadow := b.images, badBatch := b.bad }

/-- The slot that an `IMGW` under way writes. -/
def copySlot (x : Copy) : Nat := slotKey (field x.descv 12 2) (field x.descv 14 2)

/-- The configuration slots that have received an `IMGW` and have not switched (R170). -/
def slotsPending (s : State) : List Nat :=
  s.pending.map (·.1) ++ s.batches.flatMap (fun b => b.slots.map (·.1)) ++ (s.copies.filter fun x => x.2.kind == 12).map fun x => copySlot x.2

/-- Images of the same slots with the same bytes. -/
def sameImages (a b : Table Memory) : Bool :=
  a.all (fun x => tget b x.1 == some x.2) && b.all fun x => tget a x.1 == some x.2

/-- `IMGW` once its data is read (R170, R440): whether its CRC holds; a failed CRC writes nothing and marks the batch. -/
def imageWrite (s : State) (id : Nat) (c : CoreId) (k : Nat) (bs data : List Byte) : State × Bool :=
  let quire := field bs 12 2
  let slot := field bs 14 2
  let off := field bs 16 4
  if crc32c data ≠ field bs 20 4 then
    (writeRecord (modBatch s id fun b => { b with bad := true }) (imageReport 0x0621 sevRefused
      (quire + off / 64 * 2 ^ 16 + slot * 2 ^ 26) (some k)), false)
  else
    let key := slotKey quire slot
    let me := (key, loaderOf c)
    (modBatch s id fun b =>
      { b with
        images := tset b.images key ((shadowIn s b key).write off data)
        slots := if b.slots.contains me then b.slots else b.slots ++ [me] }, true)

end Sys2Proof.Machine
end

