-- ==== Sys2Proof/Machine/Mbar.lean ====
section
/-!
DEFINITION. `MBAR` objects: layout, `Settle`, `Done` (R187, R188) and their updates.
-/

namespace Sys2Proof.Machine

/-- An `MBAR` object (Table 6 of R187); `tx` is S32, kept modulo 2^32. -/
structure Mbar where
  pend  : Nat
  count : Nat
  tx    : Nat
  phase : Nat
deriving DecidableEq, Repr

/-- The object that 16 bytes hold, and its bytes. -/
def mbarOf (bs : List Byte) : Mbar := ⟨field bs 0 4, field bs 4 4, field bs 8 4, field bs 12 4⟩
def Mbar.bytes (o : Mbar) : List Byte := bytesOf 4 o.pend ++ bytesOf 4 o.count ++ bytesOf 4 o.tx ++ bytesOf 4 o.phase

/-- `Settle` of R188. -/
def Mbar.settle (o : Mbar) : Mbar :=
  if o.pend = 0 ∧ o.tx = 0 then { o with phase := (o.phase + 1) % 2 ^ 32, pend := o.count } else o

/-- `Done` of R188. -/
def Mbar.isDone (o : Mbar) (p : Nat) : Bool :=
  let d := (o.phase + 2 ^ 32 - p % 2 ^ 32) % 2 ^ 32
  decide (1 ≤ d) && decide (d ≤ 2 ^ 31)

/-- `INIT`, `ARRIVE` and `EXPECT` of R188, and the update of a copy whose k bytes have landed (R194). -/
def Mbar.init (r : Nat) : Mbar := ⟨r % 2 ^ 32, r % 2 ^ 32, 0, 0⟩
def Mbar.arrive (r : Nat) (o : Mbar) : Mbar := { o with pend := (o.pend + 2 ^ 32 - r % 2 ^ 32) % 2 ^ 32 }.settle
def Mbar.expect (r : Nat) (o : Mbar) : Mbar := { o with tx := (o.tx + r) % 2 ^ 32 }.settle
def Mbar.landed (k : Nat) (o : Mbar) : Mbar := { o with tx := (o.tx + 2 ^ 32 - k % 2 ^ 32) % 2 ^ 32 }.settle

/-- The object at an address of a strand's scratchpad. -/
def mbarAt (s : State) (c : CoreId) (la : Nat) : Mbar := mbarOf (padRead s c la 16)

/-- One indivisible update of an object, journaled like any write (R37), or none when the journal has no room. -/
def mbarUpdate (s : State) (c : CoreId) (la : Nat) (f : Mbar → Mbar) : Option State :=
  padWrite s c la (f (mbarAt s c la)).bytes

/-- `MBAR.ARRIVE` of 1 in the image that the endpaper holds of a leaf (R333). -/
def paperArrive (s : State) (g n la : Nat) : State :=
  { s with papers := tmod s.papers g fun p => { p with leaves := tmod p.leaves n fun l =>
      { l with mem := l.mem.write la ((mbarOf (l.mem.read la 16)).arrive 1).bytes } } }

end Sys2Proof.Machine
end

