-- ==== Sys2Proof/Machine/Channels.lean ====
section
/-!
DEFINITION. Channels: numbering of counted writes, line slots and window (R324, R326), flags (R331, R333), replay
records (R329), and the breaking of a channel (R427).
-/

namespace Sys2Proof.Machine

/-- A sender entry. -/
def State.sender (s : State) (e : Nat) : Sender := (tget s.senders e).getD { ctx := 0, index := 0, dst := 0 }
def State.modSender (s : State) (e : Nat) (f : Sender → Sender) : State := { s with senders := tmod s.senders e f }

/-! ### Counted writes (R324, R326, R329) -/

/-- The line slot of a write, and the line as the slot holds it. -/
def SendWrite.lineSlot (w : SendWrite) : Nat := w.daddr / 64 % 64
def SendWrite.line (w : SendWrite) : Nat := w.daddr / 64 * 2 + natOfBool (w.kind == 1)

/-- The write may take the next number: the window has room, and its line slot holds its own line or a covered one. -/
def mayNumber (e : Sender) (w : SendWrite) : Bool :=
  !e.broken && decide (dist32 (e.a + 1) e.d ≤ 4096) && match tget e.lines w.lineSlot with
    | some (line, m) => line == w.line || !e.uncovered m
    | none => true

/-- `DEP` of the next write (R326). -/
def depOf (e : Sender) (w : SendWrite) : Nat :=
  match tget e.lines w.lineSlot with
  | some (line, m) => if line = w.line ∧ e.uncovered m then dist32 (e.a + 1) m else 0
  | none => 0

/-- The packet of a counted write (R321). -/
def writePacket (s : State) (e : Sender) (num dep kind lop daddr : Nat) (data : List Byte) : Packet :=
  { kind := if kind = 0 then .put else if kind = 1 then .push else .ratom, ctx := BitVec.ofNat 4 e.ctx,
    src := BitVec.ofNat 8 s.pkg, dst := BitVec.ofNat 8 e.dst, chan := BitVec.ofNat 8 e.index, num := BitVec.ofNat 32 num,
    daddr := BitVec.ofNat 40 daddr, len := BitVec.ofNat 6 (data.length - 1),
    opw := BitVec.ofNat 3 (if kind = 2 then lop else 0), aux := BitVec.ofNat 15 dep, data }

/-- A write numbered and issued: its packet, its replay record and its line slot (R324, R326, R329). -/
def numberWrite (s : State) (id : Nat) (w : SendWrite) : State :=
  let e := s.sender id
  let n := (e.a + 1) % 2 ^ 32
  let dep := depOf e w
  let r : Replay := { num := n, kind := w.kind, lop := w.lop, dep, daddr := w.daddr,
                      data := if w.kind = 1 then w.srcd else natOfBytes w.data, core := w.core, gath := w.gath, inst := w.inst }
  let s := s.modSender id fun e =>
    { e with
      a := n
      ring := e.ring ++ [r]
      lines := tset e.lines w.lineSlot (w.line, n) }
  let s := queuePacket s (writePacket s e n dep w.kind w.lop w.daddr w.data)
  match w.gath with
  | some g => s.modGath g fun x =>
      { x with
        used := if x.used.contains id then x.used else x.used ++ [id]
        pushes := if w.kind = 1 then x.pushes ++ [(id, n)] else x.pushes }
  | none => s

/-! ### Flags (R321, R324, R331) -/

/-- The FLAG packet of an outstanding flag. -/
def flagPacket (s : State) (e : Sender) (f : OutFlag) : Packet :=
  { kind := .flag, ctx := BitVec.ofNat 4 e.ctx, src := BitVec.ofNat 8 s.pkg, dst := BitVec.ofNat 8 e.dst,
    chan := BitVec.ofNat 8 e.index, num := BitVec.ofNat 32 f.upto, daddr := BitVec.ofNat 40 f.addr,
    len := 15, opw := 0, aux := BitVec.ofNat 15 f.index, data := bytesOf 8 f.value ++ zeros 8 }

/-- A flag issued with N = A and the next flag index. -/
def issueFlag (s : State) (id : Nat) (f : OutFlag) : State :=
  let e := s.sender id
  let f := { f with index := e.fidx, upto := e.a }
  let s := s.modSender id fun e => { e with fidx := (e.fidx + 1) % 2 ^ 15, flags := e.flags ++ [f] }
  queuePacket s (flagPacket s e f)

/-- Room for one more outstanding flag (R331). -/
def flagRoom (e : Sender) : Bool := decide (e.flags.length < Config.flagLimit)

/-- A window flag (R324): no address and no done word. -/
def windowFlag (s : State) (id : Nat) : State :=
  issueFlag s id { index := 0, upto := 0, addr := 0, value := 0, dval := 0, done := 0, isFlag := false, core := none,
                   gath := none, inst := 0 }

/-- A stalled write with no flag of the channel outstanding makes the sender issue a window flag (R324). -/
def stallFlag (s : State) (id : Nat) : State :=
  let e := s.sender id
  if e.flags = [] ∧ !e.broken then windowFlag s id else s

/-- Writes that want to be issued on a channel, in order: one of them is stalled at the window's limit or at its line slot. A write
behind one that waits and may take its number is not (R324, R326). -/
def stalls (s : State) (id : Nat) : List SendWrite → Bool
  | [] => false
  | w :: ws =>
    let e := s.sender id
    match e.waits with
    | v :: _ => !mayNumber e v
    | [] => if mayNumber e w then stalls (numberWrite s id w) id ws else true

/-- Writes issued at once on a channel on which nothing waits, in order, as far as the window and the line slots admit them; those that
remain. -/
def issueNow (s : State) (id : Nat) : List SendWrite → State × List SendWrite
  | [] => (s, [])
  | w :: ws =>
    let e := s.sender id
    if e.waits = [] ∧ mayNumber e w then issueNow (numberWrite s id w) id ws else (s, w :: ws)

/-- The window flags of a final commit or of a finished COPY (R424): one on each channel used whose flags do not cover
all of its writes already; the channels that have no room for it remain. -/
def coverFlags (s : State) : List Nat → State × List Nat
  | [] => (s, [])
  | id :: ids =>
    let e := s.sender id
    if e.broken ∨ e.flags.any (fun f => f.upto == e.a) then coverFlags s ids
    else if flagRoom e ∧ e.waits = [] then coverFlags (windowFlag s id) ids
    else
      let (s, rest) := coverFlags s ids
      (s, id :: rest)

/-! ### Records of area 0x05 (R430) -/

/-- A record of a sender entry. DESIGN CHOICE (log 106): every channel engine stands on hub 0 (`FOLIO` 8); R20, R357 and R430 give the
Flezal ports to both hubs and the engine of an entry to neither. -/
def senderReport (s : State) (id cls sev detail : Nat) (inst : Option Nat) : Report :=
  let e := s.sender id
  { cls, sev, folio := 8, uclass := 0x0F, uindex := id, ctx := some e.ctx
    tag := (inst.bind fun i => tget s.insts i).map fun (x : Instance) => x.tag
    asp := .channel, addr := s.pkg + e.dst * 256 + e.ctx * 65536 + e.index * 2 ^ 24,
    synd := bytesOf 4 0 ++ bytesOf 4 e.a ++ bytesOf 4 e.d ++ bytesOf 4 detail }

/-- A record of a receiver entry; its `TAGV` is clear (log 106 for `FOLIO`). -/
def receiverReport (s : State) (id : Nat) (r : Receiver) (cls sev detail : Nat) : Report :=
  { cls, sev, folio := 8, uclass := 0x0F, uindex := id, ctx := some r.ctx, asp := .channel,
    addr := r.src + s.pkg * 256 + r.ctx * 65536 + r.index * 2 ^ 24,
    synd := bytesOf 4 1 ++ bytesOf 4 r.h ++ bytesOf 4 r.top ++ bytesOf 4 detail }

/-! ### Breaking (R427) -/

/-- A counted write that meets a broken channel faults with class 0x0511: a waiting store of a strand through its strand,
and any other by the end of its instance. -/
def refuseWrite (id : Nat) (s : State) (w : SendWrite) : State :=
  match tget s.reqs w.req with
  | some r => portFault s w.req r (senderReport s id 0x0511 sevTask 0 (some w.inst))
  | none => if instLive s w.inst then endWith s w.inst (senderReport s id 0x0511 sevTask 0 (some w.inst)) else s

/-- Waiting writes of a broken channel are refused. -/
def refuseWrites (s : State) (id : Nat) : State :=
  let ws := (s.sender id).waits
  ws.foldl (refuseWrite id) (s.modSender id fun e => { e with waits := [] })

/-- The sender end breaks: it stops issuing, frees its records and drops its flags; class 0x0510 ends each unretired
instance with an uncovered write or flag on the channel. -/
def breakSender (s : State) (id detail : Nat) : State :=
  let e := s.sender id
  if e.broken then s
  else
    let hit := ((e.ring.map Replay.inst) ++ (e.flags.filter OutFlag.isFlag).map OutFlag.inst).dedup.filter (instLive s)
    let r := fun i => senderReport s id 0x0510 sevTask detail (some i)
    let s := s.modSender id fun e => { e with broken := true, ring := [], flags := [], lines := [] }
    refuseWrites (hit.foldl (fun s i => endWith s i (r i)) s) id

/-- The receiver end breaks: it discards what it holds; class 0x0512. -/
def breakReceiver (s : State) (id detail : Nat) : State :=
  match tget s.receivers id with
  | some r =>
    if r.broken then s
    else writeRecord { s with receivers := tset s.receivers id { r with broken := true, held := [], flags := [], loads := [] } }
      (receiverReport s id r 0x0512 sevTask detail)
  | none => s

end Sys2Proof.Machine
end

