-- ==== Sys2Proof/Machine/SpineAccess.lean ====
section
/-!
DEFINITION. The Spine's own accesses (R449): reads and writes through the tables of a context, how they fault, and how
the work that waits on one is held.
-/

namespace Sys2Proof.Machine

/-- The parts of a range within pages of 64 KiB. -/
def pageParts : Nat → Nat → Nat → List (Nat × Nat)
  | 0, _, _ => []
  | fuel + 1, a, n =>
    if n = 0 then []
    else
      let k := min n (65536 - a % 65536)
      (a, k) :: pageParts fuel (a + k) (n - k)

/-- The pages of a range. -/
def pagesOf (a n : Nat) : List (Nat × Nat) := pageParts (n / 65536 + 2) a n

/-- A translation for the Spine, which keeps none: a page homed on another package is refused (R449). -/
def spineTrans (s : State) (u : PortUser) (k va acc : Nat) : Except AccessFault (Trans × State) :=
  match engineTrans s u hubPlace k va acc false with
  | .error f => .error f
  | .ok (t, s) => if t.home ≠ s.pkg then .error { f := tfault 0x030B t.home t.pte, acc, va } else .ok (t, s)

/-- Reads of the parts of a range, each after its turns at its ports (R51, R70). -/
def spineReads (s : State) (u : PortUser) (k : Nat) : List (Nat × Nat) → List Byte → Except AccessFault (List Byte × State)
  | [], bs => .ok (bs, s)
  | (a, n) :: ps, bs =>
    match spineTrans s u k a accLoad with
    | .error f => .error f
    | .ok (t, s) =>
      match allTurns s u accLoad a (portParts t.pa n) with
      | .error f => .error f
      | .ok s =>
        if hbmPoisoned s t.pa n then .error { f := poisonFault t.pa t.pte 0, acc := accLoad, va := a }
        else spineReads s u k ps (bs ++ s.hbm.read t.pa n)

/-- A read of the Spine, at DEVICE scope; `u` waits for its walks and turns. -/
def spineRead (s : State) (u : PortUser) (k va n : Nat) : Except AccessFault (List Byte × State) :=
  spineReads s u k (pagesOf va n) []

/-- Translations of the parts of a range for writing, and their turns. -/
def spineTargets (s : State) (u : PortUser) (k : Nat) : List (Nat × Nat) → List Nat → Except AccessFault (List Nat × State)
  | [], out => .ok (out, s)
  | (a, n) :: ps, out =>
    match spineTrans s u k a accStore with
    | .error f => .error f
    | .ok (t, s) =>
      match allTurns s u accStore a (portParts t.pa n) with
      | .error f => .error f
      | .ok s => spineTargets s u k ps (out ++ [t.pa])

/-- The parts of a write put at their addresses. -/
def spinePuts : List (Nat × Nat) → List Nat → List Byte → State → State
  | (_, n) :: ps, pa :: pas, bs, s => spinePuts ps pas (bs.drop n) (hbmWrite s pa (bs.take n))
  | _, _, _, s => s

/-- A write of the Spine, at DEVICE scope: nothing is written unless every page translates. -/
def spineWrite (s : State) (u : PortUser) (k va : Nat) (bs : List Byte) : Except AccessFault State :=
  match spineTargets s u k (pagesOf va bs.length) [] with
  | .error f => .error f
  | .ok (pas, s) => .ok (spinePuts (pagesOf va bs.length) pas bs s)

/-- Writes of the Spine in order: those that remain when one fails. -/
def spineWrites (s : State) (u : PortUser) (k : Nat) :
    List (Nat × List Byte) → State × List (Nat × List Byte) × Option AccessFault
  | [] => (s, [], none)
  | (a, bs) :: ws =>
    match spineWrite s u k a bs with
    | .ok s => spineWrites s u k ws
    | .error f => (s, (a, bs) :: ws, some f)

/-- The record of an access that a hub unit makes (R393): what HBM or an aperture refuses is the memory port's, and for what the
translation refuses the unit itself stands, since no TLB slice or walker of R275 and R277 serves it (log 88). -/
def hubReport (s : State) (base : Report) (who sev : Nat) (recurs : Bool) (x : AccessFault) : Report :=
  let pa := x.f.pa.getD x.va
  memReport s (if byPa x.f.cls then portSource pa base else base) x.f.cls sev (x.f.acc x.acc) who true recurs
    (if byPa x.f.cls then .pa else .va) (if byPa x.f.cls then pa else x.va) x.f.pte x.f.detail

/-- The record of a Spine access (R393, R449): requester 7. -/
def spineReport (s : State) (k : Nat) (tag : Option Nat) (sev : Nat) (recurs : Bool) (x : AccessFault) : Report :=
  hubReport s { cls := x.f.cls, sev, folio := 8, uclass := 0x0C, ctx := some k, tag } 7 sev recurs x

/-- The Spine at work for an instance, at a memory port. -/
def Instance.user (x : Instance) : PortUser := .spine x.ctx x.tag

/-- Recurrence key of a Spine access (R397). -/
def spineKey (x : AccessFault) : Recur := ⟨7, faultPage x.va x.f, x.f.cls⟩

/-- A Spine access for an instance failed (R449): a serviceable fault opens a record that holds the work of the instance;
a refusal or a recurrence ends it. One that waits for a walk or for its turn asks for it, as `u`. -/
def holdInst (s : State) (i : Nat) (u : PortUser) (x : AccessFault) : State :=
  match tget s.insts i with
  | none => s
  | some y =>
    let again := y.recur.contains (spineKey x)
    match x.wait with
    | some w => await s u hubPlace y.ctx x.va w
    | none =>
      let s := endAccess s u
      if x.f.serviceable && !again then
        let (num, s) := openRecord s (spineReport s y.ctx (some y.tag) sevStalled false x) (fun _ => .inst i) none (some (spineKey x))
        { s with insts := tmod s.insts i fun y => { y with hold := some num, recur := spineKey x :: y.recur } }
      else endWith s i (spineReport s y.ctx (some y.tag) sevTask again x)

/-- The access that an instance's work waited for, as `u`, has been made: a later fault is a new one (R397). -/
def freeInst (s : State) (i : Nat) (u : PortUser) : State :=
  endAccess { s with insts := tmod s.insts i fun y => { y with hold := none, recur := [] } } u

/-- The work of an instance may go on: no open record holds it. -/
def instFree (s : State) (i : Nat) : Bool :=
  match tget s.insts i with
  | some y => !y.retired && !isHeld s y.hold
  | none => false

/-- A record of area 0x04 of the Spine (R409): `REF`, graph, node and `DETAIL`. -/
def spineRecord (cls : Nat) (k : Option Nat) (tag : Option Nat) (reqid graph node detail : Nat) : Report :=
  { cls, sev := sevTask, folio := 8, uclass := 0x0C, ctx := k, tag
    synd := bytesOf 8 reqid ++ bytesOf 2 graph ++ bytesOf 2 node ++ bytesOf 4 detail }

/-! ### The ready pool (R61, R63, R64) -/

/-- Parts of virtual time: 1/`vtUnit` each, so that a division by any weight is exact. -/
def vtUnit : Nat := (upTo 255).foldl (fun a i => Nat.lcm a (i + 1)) 1

/-- `EffClass` of an entry (R63). -/
def effClass (s : State) (e : PoolEntry) : Nat := (s.attrs e.ctx).cls.val - e.aged

/-- A context has an entry of an effective class that is not dispatched. -/
def hasClass (s : State) (k c : Nat) : Bool := s.pool.any fun e => e.2.ctx == k && !e.2.bound && effClass s e.2 == c

/-- The least virtual time among the other contexts with entries of an effective class. -/
def leastVt (s : State) (k c : Nat) : Option Nat :=
  match ((upTo 16).filter fun j => j != k && hasClass s j c).map fun j => (s.context j).vt with
  | [] => none
  | v :: vs => some (vs.foldl min v)

/-- A context gains its first entry of an effective class (R64). -/
def raiseVt (s : State) (k c : Nat) : State :=
  match leastVt s k c with
  | some v => s.modContext k fun x => { x with vt := max x.vt v }
  | none => s

/-- An entry enters the pool, or none when the pool is full (R61). -/
def addEntry (s : State) (e : PoolEntry) : Option State :=
  if Config.poolSize ≤ s.pool.length then none
  else
    let e := { e with order := s.tick }
    let s := if hasClass s e.ctx (effClass s e) then s else raiseVt s e.ctx (effClass s e)
    let (id, s) := s.fresh
    some { s with pool := tset s.pool id e }

end Sys2Proof.Machine
end

