-- ==== Sys2Proof/Machine/Rounds.lean ====
section
/-!
DEFINITION. Rounds: the round controller's queue (R42, R371, R396), voids (R44), commits (R34), the watchdogs of a
gathering (R389), waits and wakes (R46 to R48, R185, R447), kettles (R196) and saves (R47, R408).
-/

namespace Sys2Proof.Machine

/-! ### The round base (R35) -/

/-- What the round base keeps of a strand at the commit of its round (R144, R185): the new round's deadline, and for a
strand whose `WAITA` failed, the block that it abandons and its watch. -/
def baseStrand (final : Bool) (st : Strand) : StrandBase :=
  { pc := if st.willSleep then ((st.block.map Block.addr).getD st.pc) else st.pc
    dlrem := st.recorded.getD 4095
    wait := if final then .finished else st.wait
    fpmode := st.fpmode
    fpflags := st.fpflags
    watch := if st.willSleep && !final then st.watch else none
    traps := st.traps
    lastDl := st.recorded.getD st.lastDl
    prev := st.prev }

/-- A strand at the start of the round that a round base begins (R34 step 7, R44, R185): a failed `WAITA` sleeps unless
its watch has woken it. -/
def startStrand (b : StrandBase) : Strand :=
  let asleep := (b.watch.map fun w => !w.woken).getD false
  { pc := b.pc
    prev := b.prev
    wait := match b.wait with
      | .atRnd | .sleeping => if asleep then .sleeping else .running
      | w => w
    fpmode := b.fpmode
    fpflags := b.fpflags
    dlrem := b.dlrem
    lastDl := b.lastDl
    watch := if asleep then b.watch else none
    traps := b.traps }

/-- A turn whose block has committed (R173). -/
def pastTurn (t : Turn) : Turn := { t with claim := { t.claim with blk := deadBlk } }

/-- The send that a pending `TTURN.emit` of an earlier round keeps (R219). -/
def turnSends (t : Option Turn) : List SendReq :=
  match t with
  | some ⟨x, _, some p⟩ => [⟨coreIndex x.core, x.slot, x.blk, p, none⟩]
  | _ => []

/-- The round base of a leaf, with its strands as given. -/
def snapLeaf (l : Leaf) (sts : List StrandBase) : RoundBase :=
  { inputs := l.inputs.map fun i => { i with flaw := none }, routes := l.routes, f0 := l.f0, f1 := l.f1, vp := l.vp, strands := sts, swap := l.swap,
    rfull := l.rfull, vfull := l.vfull, turn := l.turn,
    accFlags := l.accFlags, outSeen := l.outputs.map OutPort.dseen }

/-- Rounds of the gathering are irrevocable from their start (R38). -/
def alwaysIrrev (s : State) (x : Gathering) : Bool := x.leaves.any fun n => pwJrnl (s.leaf n).partw == 0

/-! ### Voids (R44) -/

/-- A leaf reloads from its journal and its round base (R44 steps 1, 3, 5). -/
def reloadLeaf (l : Leaf) : Leaf :=
  let lines := l.journal.map (·.1)
  let b := l.base
  { l with
    mem := l.journal.foldl (fun m e => m.write (64 * e.1) e.2.2) l.mem
    poison := (l.poison.filter fun q => !lines.contains q) ++ ((l.journal.filter fun e => e.2.1).map (·.1))
    journal := []
    strands := b.strands.map startStrand
    routes := b.routes
    inputs := b.inputs
    outputs := b.outSeen.map fun d => { dseen := d }
    sendq := turnSends b.turn
    f0 := b.f0
    f1 := b.f1
    vp := b.vp
    swap := b.swap
    rfull := b.rfull
    vfull := b.vfull
    turn := b.turn
    accFlags := b.accFlags }

/-- The free count of an output port whose channel holds nothing in flight (R14, R240). -/
def restFree (s : State) (n p : Nat) : Nat :=
  let w := (s.leaf n).routes.getD (8 + p) 0
  match liveChannel s n p with
  | some (m, q) => rtSlots w - ((s.leaf m).inputs.getD q {}).held.length
  | none => rtSlots w

/-- Free counts of a leaf's output ports reloaded. -/
def reloadFree (s : State) (n : Nat) : State :=
  s.modLeaf n fun l => { l with outputs := (upTo 8).map fun p => { l.outputs.getD p {} with free := restFree s n p } }

/-- A request to void that another void leaves standing: a save still due. -/
def keptReq (q : CtlReq) : Bool :=
  match q with
  | .void save => save
  | _ => false

/-- A line that a void has to read and that is poisoned (R406): leaf and LA. -/
def reloadSick (s : State) (x : Gathering) : Option (Nat × Nat) :=
  x.leaves.findSome? fun n => ((s.leaf n).poison.find? (reloadLine (s.leaf n))).map fun q => (n, 64 * q)

/-- The record of a void whose reload fails (R393, R406): class 0x0332, access 11, of the bank. -/
def reloadReport (s : State) (x : Gathering) (n la : Nat) : Report :=
  memReport s { cls := 0x0332, sev := sevTask, folio := folioOf n, uclass := 5, uindex := (4 * n + bankNum la) % 65536,
                ctx := some x.ctx, tag := some x.tag, round := x.round % 2 ^ 32, where_ := n % 65536 + 2 ^ 18 }
    0x0332 sevTask 11 0 x.irrev false .la la 0 la

/-- The state of a gathering's leaves is reloaded, and what the round had asked for goes (R44). -/
def voidRound (s : State) (g : Nat) (x : Gathering) : State :=
  let s := x.leaves.foldl (fun s n => s.modLeaf n reloadLeaf) s
  let s := x.leaves.foldl reloadFree s
  let s := x.quires.foldl (fun s q => s.modQuire q fun u =>
    { u with
      queue := u.queue.filter fun c => c.gath != g
      started := u.started.filter fun c => c.gath != g }) s
  let s := { s with
    reqs := s.reqs.filter fun r => r.2.gath != some g
    copies := s.copies.filter fun c => c.2.gath != some g }
  (leavePorts s (ofLeaves s x.leaves)).modGath g fun x =>
    { x with
      staged := []
      spawns := []
      kettles := []
      final := false
      voids := x.voids + 1
      queue := x.queue.filter keptReq }

/-- The round of a gathering is voided (R44): execution can resume from its start, unless what the void reloads cannot be read, which ends
the instance (R406). -/
def doVoid (s : State) (g : Nat) : State :=
  match s.gath g with
  | none => s
  | some x =>
    match reloadSick s x with
    | some (n, la) => endWith s x.inst (reloadReport s x n la)
    | none => voidRound s g x

/-! ### The round controller's queue -/

/-- The head of the queue is served. -/
def popQueue (s : State) (g : Nat) : State := s.modGath g fun x => { x with queue := x.queue.drop 1 }

/-- A record with `ACC` bits 8 and 9 as they now stand (R393, R397). -/
def withAcc (r : Report) (sev : Nat) (irrev recurs : Bool) : Report :=
  { r with sev, synd := bytesOf 4 (field r.synd 0 4 % 256 + natOfBool irrev * 256 + natOfBool recurs * 512) ++ r.synd.drop 4 }

/-- A stalled request of a slot is held by a record. -/
def holdReq (core : CoreId) (slot num : Nat) (r : Nat × Request) : Nat × Request :=
  if r.2.core == core && r.2.slot == slot && r.2.stage == ReqStage.stalled && r.2.hold.isNone then
    (r.1, { r.2 with hold := some num })
  else r

/-- An access that a record holds waits for it to close (R396 step 3); a block fetch waits in its strand. -/
def holdAccess (s : State) (core : CoreId) (slot : Option Nat) (unit num : Nat) : State :=
  if unit = 1 ∨ unit = 2 then
    s.modLeaf ((coreLeaf core).getD 0) fun l =>
      if unit = 1 then { l with f0 := { l.f0 with hold := some num } } else { l with f1 := { l.f1 with hold := some num } }
  else if unit = 5 ∨ unit = 16 then { s with copies := tmod s.copies (slot.getD 0) fun c => { c with hold := some num } }
  else match slot with
    | none => s.modStrand core fun st => { st with held := some num }
    | some i =>
      let s := { s with reqs := s.reqs.map (holdReq core i num) }
      s.modSlot core i fun y => { y with hold := some num }

/-- What an open record of a stalled access holds. -/
def accessHolder (core : CoreId) (slot : Option Nat) (unit : Nat) : Holder :=
  if unit = 1 ∨ unit = 2 then .flow ((coreLeaf core).getD 0) (unit - 1)
  else if unit = 5 ∨ unit = 16 then .copy (slot.getD 0)
  else .slot core (slot.getD 64)

/-- Fault reports of a queue (R371). -/
def faultsIn (q : List CtlReq) : List Report :=
  q.filterMap fun r => match r with
    | .fault p => some p
    | _ => none

/-- Fault reports of an instance that stand in its controllers' queues, those behind the head that gathering g serves, and those of its
other gatherings that no void stands before (R371). -/
def otherFaults (s : State) (inst g : Nat) : List Report :=
  (s.gaths.filter fun x => x.2.inst == inst).flatMap fun x =>
    if x.1 = g then faultsIn (x.2.queue.drop 1)
    else faultsIn (x.2.queue.takeWhile fun r => match r with
      | .void _ => x.2.irrev
      | _ => true)

/-- The fault that gathering g serves ends its instance (R370); every other strand that has faulted has its record (R371). -/
def endFaulted (s : State) (g inst : Nat) (r : Report) : State := (otherFaults s inst g).foldl writeRecord (endWith s inst r)

/-- An error that loses a token or a store (R390, R405): a revocable round is voided, and an irrevocable one ends its instance. -/
def lostInRound (s : State) (g : Nat) (x : Gathering) (r : Report) : State :=
  if x.irrev || x.cut != 0 || x.retiring then endWith s x.inst { r with sev := sevTask }
  else doVoid (writeRecord s { r with sev := sevReplayed }) g

/-- A serviceable fault is served (R396, R397): a recurrence is a fault of the replay, or of the retried access, by the same requester
on the same page with the same class. -/
def serveService (s : State) (g : Nat) (x : Gathering) (r : Report) (who : Recur) (core : CoreId) (slot : Option Nat)
    (unit : Nat) (again : Option Nat) : State :=
  if x.recur.contains who || x.retried.any (fun e => some e.1 == again && e.2 == who) then
    endFaulted s g x.inst (withAcc r sevTask x.irrev true)
  else if !x.irrev then
    let s := doVoid s g
    if (s.gath g).isNone then writeRecord s (withAcc r sevReplayed false false)
    else
      let (num, s) := openRecord s (withAcc r sevReplayed false false) (fun _ => .replay g) (some g) (some who)
      s.modGath g fun y => { y with frozen := some num, recur := [who] }
  else
    let (num, s) := openRecord (popQueue s g) (withAcc r sevStalled true false)
      (fun _ => accessHolder core slot unit) (some g) (some who)
    holdAccess (s.modGath g fun y => { y with retried := (num, who) :: y.retried }) core slot unit num

/-- FAULT_REPORT (R371, R390, R396): a fault ends the instance; a serviceable one voids the round or stalls the access; a lost token voids
the round or ends the instance. -/
def execFaultReport (g : Nat) (s : State) : Host.Outcome State Fault Refusal :=
  match s.gath g with
  | some x =>
    match x.queue with
    | .fault r :: _ => .next (endFaulted s g x.inst r)
    | .lost r :: _ => .next (lostInRound (popQueue s g) g x r)
    | .service r who core slot unit again :: _ => .next (serveService s g x r who core slot unit again)
    | _ => idle s
  | none => .fault .noSuchUnit

/-- A request that waits for the grant goes on to its port. -/
def releaseReq (g : Nat) (r : Nat × Request) : Nat × Request :=
  if r.2.gath == some g && r.2.stage == ReqStage.grant then (r.1, { r.2 with stage := .port }) else r

/-- IRREVOCABLE_GRANT (R42, R43): every staged store is published before the act that caused the turn takes effect. -/
def execIrrevocableGrant (g : Nat) (s : State) : Host.Outcome State Fault Refusal :=
  match s.gath g with
  | some x =>
    match x.queue with
    | .grant :: _ =>
      let (s, bad) := publishAll ((popQueue s g).modGath g fun y => { y with irrev := true }) g
      match bad with
      | some r => .next (endWith s x.inst { r with tag := some x.tag })
      | none => .next { s with reqs := s.reqs.map (releaseReq g) }
    | _ => idle s
  | none => .fault .noSuchUnit

/-- ROUND_VOID (R42, R44, R47): a revocable round is voided, and saved when the void is for a save; an irrevocable one, and
one whose commit is in progress, is saved at its commit. -/
def execRoundVoid (g : Nat) (s : State) : Host.Outcome State Fault Refusal :=
  match s.gath g with
  | some x =>
    match x.queue with
    | .void save :: _ =>
      let s := popQueue s g
      if x.irrev || x.cut != 0 || x.retiring then .next (s.modGath g fun y => { y with saveDue := y.saveDue || save })
      else .next ((doVoid s g).modGath g fun y => { y with saving := y.saving || save })
    | _ => idle s
  | none => .fault .noSuchUnit

/-! ### Commit (R34) -/

/-- A strand has reached the end of the round (R34, R46, R185, R199, R380). -/
def atEnd (st : Strand) : Bool :=
  match st.wait with
  | .atRnd | .finished => true
  | .stalled => decide (1 ≤ st.blkinrnd)
  | _ => false

/-- The strands of a gathering. -/
def gathStrands (s : State) (x : Gathering) : List Strand := x.leaves.flatMap fun n => (s.leaf n).strands

/-- A flow unit waits at a memory port or for a walk: its engine request is outstanding (R247). -/
def unitAsks (s : State) (n k : Nat) : Bool :=
  let u : PortUser := .flow n k
  s.ports.any (fun p => p.2.queue.any fun w => w.1 == u) || s.misses.any (fun m => m.2.user == u) || turnsOf s u != 0

/-- A flow unit is not at a token boundary (R247): it has an access outstanding, or one that a record holds or held and that it has not
retried; or it has taken tokens with whose lanes it is not through. One that waits for output credit is at a boundary (R34);
`REPEAT` and `AGEN` keep a token between their steps. -/
def unitInside (s : State) (n k : Nat) (x : FlowUnit) : Bool :=
  x.run && (x.hold.isSome || unitAsks s n k
    || (x.outq.isEmpty && (x.st.lane != 0 || (!x.st.toks.isEmpty && !([0x0A, 0x14].contains (field x.record 0 1))))))

/-- A flow unit of a leaf is not at a token boundary. -/
def unitsInside (s : State) (n : Nat) : Bool := unitInside s n 0 (s.leaf n).f0 || unitInside s n 1 (s.leaf n).f1

/-- Nothing that the gathering has asked of an engine is outstanding (R34 step 2). -/
def enginesDone (s : State) (g : Nat) (x : Gathering) : Bool :=
  !(s.reqs.any fun r => r.2.gath == some g)
    && !(x.leaves.any (unitsInside s))
    && !(s.copies.any fun c => c.2.gath == some g)
    && !(x.quires.any fun q => (s.quire q).queue.any fun c => c.gath == g)
    && !(x.quires.any fun q => (s.quire q).started.any fun c => c.gath == g)
    && !(s.evicts.any fun e => e.2.any fun r => r.gath == some g && !r.begun)

/-- The round can commit: every strand is at its end, engines are done, and the controller's queue is empty. -/
def cutReady (s : State) (g : Nat) (x : Gathering) : Bool :=
  gathRuns s x && x.queue.isEmpty && (gathStrands s x).all atEnd && enginesDone s g x

/-- Tokens in flight from a leaf land in their slots (R34 step 2). -/
def landPort (n : Nat) (s : State) (p : Nat) : State :=
  match liveChannel s n p with
  | some (m, q) =>
    let ts := ((s.leaf n).outputs.getD p {}).inflight
    let s := s.modLeaf n fun l => { l with outputs := lmod l.outputs p fun o => { o with inflight := [] } }
    s.modLeaf m fun l => { l with inputs := lmod l.inputs q fun i => { i with held := i.held ++ ts } }
  | none => s

/-- A leaf at the commit (R34 steps 3 and 4, R81, R199): its round base is written, its journal cleared, its DISCARD
region left undefined, the counts of R100 start again; in the final round the tokens left in it go. -/
def cutLeaf (tick : Nat) (final : Bool) (l : Leaf) : Leaf :=
  let l := { l with
    f0 := { l.f0 with draws := 0 }
    f1 := { l.f1 with draws := 0 }
    vp := { l.vp with draws := List.replicate 6 0 }
    turn := l.turn.map pastTurn }
  let l := if final then
      { l with
        inputs := l.inputs.map fun i => { i with held := [], flaw := none }
        f0 := { l.f0 with run := false, outq := [] }
        f1 := { l.f1 with run := false, outq := [] }
        vp := { l.vp with run := false, outq := [] } }
    else l
  let sts := l.strands.map (baseStrand final)
  { l with
    journal := []
    poison := l.poison.filter fun q => !commitLine l.partw q
    mem := l.mem.clear (discBase l.partw) Config.leafBytes
    stale := some tick
    touched := []
    sendq := turnSends l.turn
    base := snapLeaf l sts }

/-- The round is final (R68, R199). -/
def isFinal (s : State) (x : Gathering) : Bool := x.final || (gathStrands s x).all fun st => st.wait == .finished

/-- Steps 1 to 5 of R34. -/
def cutRound (s : State) (g : Nat) (x : Gathering) : State × Option Report :=
  let final := isFinal s x
  let s := x.leaves.foldl (fun s n => (upTo 8).foldl (landPort n) s) s
  let s := x.leaves.foldl (fun s n => s.modLeaf n (cutLeaf s.tick final)) s
  let (s, bad) := publishAll s g
  (s.modGath g fun y => { y with cut := 1, final }, bad)

/-- The occupancy entry of quire i of a node in this round (R72). -/
def occEntry (s : State) (g : Nat) (x : Gathering) (p : NodePlace) (i : Nat) : Except AccessFault State :=
  let a := p.occ + 8 * (16 * i + x.round % 16)
  match spineRead s (.commit g) x.ctx a 8 with
  | .error f => .error f
  | .ok (bs, s) =>
    spineWrite s (.commit g) x.ctx a (bytesOf 4 (min (field bs 0 4 + Config.occBusy s.tick i) 0xFFFFFFFF)
      ++ bytesOf 4 (min (field bs 4 4 + Config.occIdle s.tick i) 0xFFFFFFFF))

/-- The occupancy entries of every node that records them. -/
def occAll (s : State) (g : Nat) (x : Gathering) : Except AccessFault State :=
  (x.nodes.filter fun p => p.occ != 0).foldlM (fun s p => (upTo (p.w * p.h)).foldlM (fun s i => occEntry s g x p i) s) s

/-- The spawn backlog has room for the round's SPAWNs (R62). -/
def spawnRoom (s : State) (x : Gathering) : Bool := decide ((s.context x.ctx).backlog.length + x.spawns.length ≤ Config.backlogSize)

/-- Step 6 of R34: the round's SPAWNs enter the spawn backlog, or none while it lacks room (R62), or while a store that the gathering has
published toward another package has no number: a child's read follows a number on that channel (R301, R328). -/
def releaseSpawns (s : State) (g : Nat) (x : Gathering) : Option State :=
  let reqid := ((tget s.insts x.inst).map fun (i : Instance) => i.reqid).getD 0
  if !spawnRoom s x || (!x.spawns.isEmpty && putsWait s (some g)) then none
  else some (s.modContext x.ctx fun c => { c with backlog := c.backlog ++ x.spawns.map fun w => ⟨w, reqid, x.inst⟩ })

/-- The strands of a leaf at the start of the new round. -/
def nextStrands (l : Leaf) : Leaf := { l with strands := l.base.strands.map startStrand }

/-- Step 7 of R34: the next round begins, or the gathering retires, or stands for a save that is due (R47, R199). -/
def nextRound (s : State) (g : Nat) (x : Gathering) : State :=
  let s := x.leaves.foldl (fun s n => s.modLeaf n nextStrands) s
  let irrev := alwaysIrrev s x
  s.modGath g fun y =>
    { y with
      round := (y.round + 1) % 2 ^ 32
      spawns := []
      kettles := []
      voids := 0
      recur := []
      retried := []
      cut := 0
      irrev
      retiring := y.final
      saving := y.saveDue && !y.final
      saveDue := false }

/-- Steps 6 and 7, with the occupancy table before them. -/
def finishRound (s : State) (g : Nat) : State :=
  match s.gath g with
  | none => s
  | some x =>
    if x.cut = 1 then
      if !instFree s x.inst then s
      else match occAll s g x with
        | .error f => holdInst s x.inst (.commit g) f
        | .ok s =>
          let s := freeInst s x.inst (.commit g)
          let s := s.modGath g fun y => { y with cut := 2 }
          match releaseSpawns s g x with
          | some s => nextRound s g x
          | none => s
    else if x.cut = 2 then
      match releaseSpawns s g x with
      | some s => nextRound s g x
      | none => s
    else s

/-- A final commit asks for the flags that cover the node's writes (R424). -/
def coverGath (s : State) (g : Nat) : State :=
  match s.gath g with
  | some x =>
    if x.retiring then
      let (s, rest) := coverFlags s x.used
      s.modGath g fun y => { y with used := rest }
    else s
  | none => s

/-- ROUND_COMMIT (R34, R62, R72, R199). -/
def execRoundCommit (g : Nat) (s : State) : Host.Outcome State Fault Refusal :=
  match s.gath g with
  | some x =>
    if x.cut ≠ 0 then .next (coverGath (finishRound s g) g)
    else if !cutReady s g x then idle s
    else
      let (s, bad) := cutRound s g x
      match bad with
      | some r => .next (endWith s x.inst { r with tag := some x.tag })
      | none => .next (coverGath (finishRound s g) g)
  | none => .fault .noSuchUnit

/-! ### Watchdogs (R389) and the hold of a commit (R410) -/

/-- A record of the round controller (R383): its unit is the gathering's origin quire, that of the bounding rectangle (R88, R357), and its
folio the one that holds the first child's origin quire (R27). -/
def controllerReport (x : Gathering) (cls detail : Nat) : Report :=
  let q := match x.nodes with
    | p :: _ => 64 * p.qy + p.qx
    | [] => 64 * x.qy + x.qx
  { cls, sev := sevTask, folio := folioOfQuire q, uclass := 0x14, uindex := 64 * x.qy + x.qx, ctx := some x.ctx, tag := some x.tag,
    round := x.round % 2 ^ 32, synd := zeros 12 ++ bytesOf 4 detail }

/-- An open record holds a gathering (R380, R389, R396): one of its own, or that of the Spine's access that its commit waits for (R449). -/
def gathHeld (s : State) (g : Nat) (x : Gathering) : Bool :=
  s.opens.any (fun o => o.gath == some g) || (x.cut != 0 && (tget s.insts x.inst).any fun (i : Instance) => isHeld s i.hold)

/-- COMMIT_WATCHDOG (R389): class 0x0220, unless the gathering sleeps in a failed `WAITA` or an open record holds it. -/
def execCommitWatchdog (g : Nat) (s : State) : Host.Outcome State Fault Refusal :=
  match s.gath g with
  | some x =>
    let sts := gathStrands s x
    if sts.any (fun st => st.wait == .sleeping) || gathHeld s g x then idle s
    else .next (endWith s x.inst (controllerReport x 0x0220 (sts.filter fun st => st.wait == .atRnd).length))
  | none => .fault .noSuchUnit

/-- VOID_LIMIT (R389): class 0x0221 in place of a further replay. -/
def execVoidLimit (g : Nat) (s : State) : Host.Outcome State Fault Refusal :=
  match s.gath g with
  | some x => if x.voids < 64 then idle s else .next (endWith s x.inst (controllerReport x 0x0221 (x.round % 65536)))
  | none => .fault .noSuchUnit

/-- Every tag of a context is taken (R60). -/
def tagsFull (s : State) (k : Nat) : Bool := decide (Config.tagCount ≤ (s.context k).live.length)

/-- SPAWN_COMMIT_HOLD_TIMEOUT (R410): class 0x0408. -/
def execSpawnCommitHoldTimeout (g : Nat) (s : State) : Host.Outcome State Fault Refusal :=
  match s.gath g with
  | some x =>
    if x.cut = 2 ∧ tagsFull s x.ctx ∧ !spawnRoom s x then
      let i := tget s.insts x.inst
      .next (endWith s x.inst (spineRecord 0x0408 (some x.ctx) (some x.tag) ((i.map Instance.reqid).getD 0)
        ((i.map Instance.graph).getD 0) ((x.nodes.map NodePlace.node).headD 0) 0))
    else idle s
  | none => .fault .noSuchUnit

/-! ### Wakes (R185, R447) -/

/-- WAITA_WAKE (R185): a strand whose watched line was written runs its block again. -/
def execWaitaWake (c : CoreId) (s : State) : Host.Outcome State Fault Refusal :=
  let st := s.strand c
  match st.watch with
  | some w =>
    if st.wait = .sleeping ∧ w.woken then
      .next ({ s with rereads := s.rereads.filter fun r => !(r.2.core == c && r.2.gath == s.gathOf c) }.modStrand c fun st =>
        { st with
          wait := .running
          watch := none
          overdue := [] })
    else idle s
  | none => idle s

/-- What a re-read finds of a remote watch. -/
def rereadWatch (v : Nat) (w : Watch) : Watch := if w.remote.isSome && w.seen != v % 2 ^ (8 * w.size) then { w with woken := true } else w

/-- The watches of the strands of saved gatherings that stood where a core stands, with the gatherings and their contexts. -/
def paperWatches (s : State) (c : CoreId) : List (Option Nat × Nat × Watch) :=
  match c with
  | .strand n t => s.papers.filterMap fun p =>
      (tget p.2.leaves n).bind fun l => ((l.base.strands.getD t.val {}).watch).map fun w => (some p.1, p.2.gath.ctx, w)
  | .control _ => []

/-- The watch in which a core's strand sleeps, with its gathering and context. -/
def sleepWatch (s : State) (c : CoreId) : List (Option Nat × Nat × Watch) :=
  let st := s.strand c
  if st.wait = .sleeping then (st.watch.map fun w => (s.gathOf c, s.ctxOf c, w)).toList else []

/-- The answer of a re-read applied to the strand of a leaf, in its round base too. -/
def rereadLeaf (t v : Nat) (l : Leaf) : Leaf :=
  { l with
    strands := lmod l.strands t fun st => { st with watch := st.watch.map (rereadWatch v) }
    base := { l.base with strands := lmod l.base.strands t fun b => { b with watch := b.watch.map (rereadWatch v) } } }

/-- A re-read that has not been answered yet stands for a strand of a gathering. -/
def rereadOut (s : State) (c : CoreId) (g : Option Nat) : Bool := s.rereads.any fun r => r.2.core == c && r.2.gath == g

/-- The re-read of a watch, as a packet of a sender entry under a tag. -/
def putReread (s : State) (c : CoreId) (g : Option Nat) (k e tag : Nat) (w : Watch) : State :=
  let x := s.sender e
  let r : Reread :=
    { core := c, gath := g, ctx := k, home := w.remote.getD 0, pa := 64 * w.line + w.va % 64, size := w.size, tag, upto := x.a }
  queuePacket { s with nextId := s.nextId + 1, rereads := tset s.rereads s.nextId r } (rereadPacket s r x)

/-- A re-read that cannot be made ends the wait (R429, R447): that of a saved gathering ends its instance. -/
def failReread (s : State) (c : CoreId) (g : Option Nat) (p : Report) : State :=
  match g.bind fun g => tget s.papers g with
  | some x => endWith s x.gath.inst { p with tag := some x.gath.tag }
  | none => raiseFault s c { p with tag := (g.bind s.gath).map Gathering.tag, where_ := whereWord c } (field p.synd 12 4)

/-- A re-read of a watch leaves (R447): an RLOAD on the context's implicit channel to the home, under a tag that no other RLOAD has.
With no channel the access is refused (R429). -/
def sendReread (s : State) (c : CoreId) (g : Option Nat) (k tag : Nat) (w : Watch) : State :=
  match implicitSender s k (w.remote.getD 0) with
  | some e => if (usedTags s).contains tag then s else putReread s c g k e tag w
  | none => failReread s c g (noChannel s k none (w.remote.getD 0))

/-- REMOTE_WATCH_REREAD (R447): once in each interval of the gap timer, the watched bytes of a strand that sleeps, or whose gathering
stays saved in that wait, are read again, under the tag given; of several gatherings that wait where the core stands, those with no
re-read outstanding take turns in any order. -/
def execRemoteWatchReread (c : CoreId) (tag : BitVec 12) (s : State) : Host.Outcome State Fault Refusal :=
  let ws := (sleepWatch s c ++ paperWatches s c).filter fun w => w.2.2.remote.isSome && !rereadOut s c w.1
  match ws[pickOf s ws.length]? with
  | some (g, k, w) => .next (sendReread s c g k tag.toNat w)
  | none => idle s

/-! ### Kettles (R196) -/

/-- Every strand of the gathering has arrived or finished. -/
def kettleFull (s : State) (x : Gathering) (cs : List Claim) : Bool :=
  x.leaves.all fun n => (upTo (s.leaf n).strands.length).all fun t =>
    ((s.leaf n).strands.getD t {}).wait == .finished || cs.any fun c => c.core == strandOf n t

/-- KETTLE_COMPLETE (R196): every participant receives its token. -/
def execKettleComplete (g : Nat) (id : Fin 64) (s : State) : Host.Outcome State Fault Refusal :=
  match s.gath g with
  | some x =>
    match tget x.kettles id.val with
    | some cs =>
      if !gathRuns s x || !kettleFull s x cs then idle s
      else .next (cs.foldl (fun s c => payOwed s c tok tok) (s.modGath g fun y => { y with kettles := tdel y.kettles id.val }))
    | none => idle s
  | none => .fault .noSuchUnit

/-! ### Swap and save (R47, R408) -/

/-- An instruction that waits as R47 counts it: `MBAR.WAIT`, `KETTLE`, a pop, `MXWAIT`, a leaf `WAITA`, `WFI` (R171). -/
def isWait (x : Slot) : Bool :=
  (x.status == .waiting || x.status == .owing) && match x.instr with
    | some (.waitaLeaf ..) | some (.mbarWait ..) | some (.kettle ..) | some (.spop ..) | some (.mxwait ..) | some (.wfi ..) => true
    | _ => false

/-- The waits of a strand: slots, and 64 for a sleep, a stall or a record that holds its gathering. -/
def waitsOf (s : State) (c : CoreId) : List Nat :=
  let st := s.strand c
  let held := ((s.gathOf c).bind s.gath).any fun x => isHeld s x.frozen
  (if held || st.wait == .sleeping || st.wait == .stalled then [64] else [])
    ++ match st.block with
      | some b => (upTo b.slots.length).filter fun i => isWait (b.slots.getD i { word := 0 })
      | none => []

/-- SWAP_WAIT_EXPIRY (R47): the strand's waits have lasted the context's threshold. -/
def execSwapWaitExpiry (c : CoreId) (s : State) : Host.Outcome State Fault Refusal :=
  if coreIsControl c then idle s
  else
    let ws := waitsOf s c
    if ws = [] then idle s else .next (s.modStrand c fun st => { st with overdue := ws })

/-- A free endpaper area of a context (R408). -/
def freeArea (s : State) (k : Nat) : Option Nat :=
  (upTo (s.attrs k).endCount).find? fun a => !(s.context k).areas.contains a

/-- The lines of an endpaper area (R52): the first, and how many. -/
def areaLines (s : State) (k a : Nat) : Nat × Nat :=
  let t := s.attrs k
  ((t.endBase + a * t.endUnits * 65536) / 64, t.endUnits * 1024)

/-- A leaf as its endpaper keeps it (R47, Table 4): its strands stand at the round base, DISCARD reads as zero. -/
def paperLeaf (l : Leaf) : Leaf :=
  { l with
    gath := none
    mem := l.mem.clear (discBase l.partw) Config.leafBytes
    poison := l.poison.filter fun q => decide (64 * q < discBase l.partw)
    stale := none
    touched := []
    base := { l.base with strands := l.base.strands.map fun b =>
      if b.watch.isSome then { b with wait := .sleeping } else b }
    blocks := [] }

/-- The leaves, quires and engines that a saved gathering held are free. -/
def freeGath (s : State) (g : Nat) (x : Gathering) : State :=
  let s := x.leaves.foldl (fun s n => s.modLeaf n idleLeaf) s
  { s with gaths := tdel s.gaths g }

/-- A saved gathering is entered into the ready pool as soon as an entry is free (R61). -/
def enterSaved (s : State) (g : Nat) : State :=
  match tget s.papers g with
  | some p =>
    if s.pool.any fun e => e.2.kind == EntryKind.saved g then s
    else (addEntry s {
      ctx := p.gath.ctx
      inst := p.gath.inst
      tag := p.gath.tag
      node := p.gath.retire
      kind := .saved g
      order := 0
      places := p.gath.nodes
      ranges := p.gath.ranges }).getD s
  | none => s

/-- The record of a save that finds no area (R408): class 0x0330, never open. -/
def deferReport (x : Gathering) : Report :=
  { cls := 0x0330, sev := sevStalled, folio := 8, uclass := 0x0C, ctx := some x.ctx, tag := some x.tag,
    round := x.round % 2 ^ 32,
    synd := bytesOf 4 (10 + 7 * 16 + natOfBool x.irrev * 256) ++ zeros 8 ++ bytesOf 4 (64 * x.qy + x.qx) }

/-- The `CTXSV` that waited for a gathering deliver (R169). -/
def paySavers (s : State) (g : Nat) : State :=
  (s.savers.filter fun x => x.1 == g).foldl (fun s x => payOwed s x.2 tok tok)
    { s with savers := s.savers.filter fun x => x.1 != g }

/-- A save that was deferred can be tried again: an area is free, and no save of the gathering has been asked for since (R408). -/
def saveRetry (s : State) (x : Gathering) : Bool :=
  x.deferred && !x.saving && !x.saveDue && !x.queue.contains (.void true) && (freeArea s x.ctx).isSome

/-- CONTEXT_SAVE (R47, R408): the endpaper is written and the quires are free; without a free area the gathering runs
on, the save is recorded as deferred once, and is asked for again when an area frees. Of a gathering that has gone, nothing is left
to save (R169). -/
def execContextSave (g : Nat) (s : State) : Host.Outcome State Fault Refusal :=
  match s.gath g with
  | some x =>
    if saveRetry s x then .next (askVoid s g true)
    else if !x.saving || 64 ≤ x.voids then idle s
    else match freeArea s x.ctx with
      | none =>
        let s := if x.deferred then s else writeRecord s (deferReport x)
        .next (s.modGath g fun y => { y with saving := false, deferred := true })
      | some a =>
        let leaves : Table Leaf := x.leaves.foldl (fun t n => tset t n (paperLeaf (s.leaf n))) []
        let y := { x with saving := false, saved := some a, area := a, queue := [], deferred := false }
        let s := freeGath s g x
        let s := { s with papers := tset s.papers g { gath := y, leaves } }
        let s := s.modContext x.ctx fun c => { c with areas := a :: c.areas }
        let (l0, n) := areaLines s x.ctx a
        let s := { s with hbmBad := s.hbmBad.filter fun l => !(decide (l0 ≤ l) && decide (l < l0 + n)) }
        .next (paySavers (enterSaved s g) g)
  | none => .next (paySavers s g)

end Sys2Proof.Machine
end

