-- ==== Sys2Proof/Machine/Sync.lean ====
section
/-!
DEFINITION. Synchronisation: `FENCE` (R182, R183), `WAITA` (R184 to R186), `MBAR` (R187, R188), `KETTLE` (R196, R197)
and `SPAWN` (R198).
-/

namespace Sys2Proof.Machine

/-! ### `FENCE` -/

/-- A store of an earlier block that has not reached its round buffer (R183 `XP`). -/
def storePending (s : State) (c : CoreId) : Bool :=
  olderReqs s c (s.strand c).blkinrnd fun r => match r.op with
    | .store _ => true
    | _ => false

/-- A load or an atomic of an earlier block that has not delivered its value (R183 ACQ). -/
def loadPending (s : State) (c : CoreId) : Bool :=
  olderReqs s c (s.strand c).blkinrnd fun r => match r.op with
    | .store _ => false
    | _ => true

/-- A fence completes when its conditions hold (R183): it is then performed, and `XP` comes into force. -/
def fence (f : Form) (acq rel xp : Bool) (scope : Scope) (s : State) : Host.Outcome State Fault Refusal :=
  perform f s fun s c i _ _ _ =>
    let act := rel && scopeWide scope
    if act && !irrevocable s c then stayGrant s c i
    else if (rel && releasePending s c act) || (acq && (loadPending s c || kettlePending s c)) || (xp && storePending s c)
        || (act && putsWaiting s c) then stay s c i
    else complete f (if xp then s.modStrand c fun st => { st with xp := true } else s) s.focus.core i tok tok

/-- `FENCE` with `KIND` ACQ (R182, R183). -/
def execFenceAcq (ta : Target) (xp : Bool) (scope : Scope) (s : State) : Host.Outcome State Fault Refusal :=
  fence (formOf (.fenceAcq ta xp scope)) true false xp scope s
/-- `FENCE` with `KIND` REL (R182, R183): an irrevocable act at DEVICE or SYSTEM scope. -/
def execFenceRel (ta : Target) (xp : Bool) (scope : Scope) (s : State) : Host.Outcome State Fault Refusal :=
  fence (formOf (.fenceRel ta xp scope)) false true xp scope s
/-- `FENCE` with `KIND` AR (R182, R183). -/
def execFenceAr (ta : Target) (xp : Bool) (scope : Scope) (s : State) : Host.Outcome State Fault Refusal :=
  fence (formOf (.fenceAr ta xp scope)) true true xp scope s
/-- `FENCE` with `XP` alone (R182, R183): never an irrevocable act; `SCOPE` has no effect. -/
def execFenceXp (ta : Target) (scope : Scope) (s : State) : Host.Outcome State Fault Refusal :=
  fence (formOf (.fenceXp ta scope)) false false true scope s

/-! ### `WAITA` -/

/-- The value that a leaf `WAITA` reads. -/
def waitValue (s : State) (c : CoreId) (la : Nat) (width : AccWidth) : Word :=
  extendTo (accSize width) (accSigned width) (natOfBytes (padRead s c la (accSize width)))

/-- `WAITA.leaf` (R185): it keeps its block in flight, and reads again until the condition holds. -/
def execWaitaLeaf (cond : WaitCond) (width : AccWidth) (tb ta : Target) (s : State) : Host.Outcome State Fault Refusal :=
  perform (formOf (.waitaLeaf cond width tb ta)) s fun s c i l r _ =>
    leafAccess s c i l.toNat (accSize width) accLoad false false fun s =>
      let v := waitValue s c l.toNat width
      if waitHolds cond.code v r then complete (formOf (.waitaLeaf cond width tb ta)) s c i (some v) tok
      else stay s c i

/-- `WAITA.round` (R46, R185): a failed first read ends the round before the strand sleeps. -/
def execWaitaRound (cond : WaitCond) (width : AccWidth) (tb ta : Target) (s : State) : Host.Outcome State Fault Refusal :=
  perform (formOf (.waitaRound cond width tb ta)) s fun s c i l r _ =>
    leafAccess s c i l.toNat (accSize width) accLoad false false fun s =>
      let v := waitValue s c l.toNat width
      if waitHolds cond.code v r then complete (formOf (.waitaRound cond width tb ta)) s c i (some v) tok
      else sleepOn s c {
        device := false, line := l.toNat / 64, va := l.toNat, size := accSize width,
        seen := natOfBytes (padRead s c l.toNat (accSize width)) }

/-- `WAITA.dev` (R185): an irrevocable act before its first read. -/
def execWaitaDev (cond : WaitCond) (width : AccWidth) (tb ta : Target) (s : State) : Host.Outcome State Fault Refusal :=
  perform (formOf (.waitaDev cond width tb ta)) s fun s c i l r _ =>
    request s c i l.toNat (accSize width) false true true false .device
      (.waita cond.code r (accSigned width) false)

/-- `WAITA.sys` (R185): as `WAITA.dev`, at SYSTEM scope. -/
def execWaitaSys (cond : WaitCond) (width : AccWidth) (tb ta : Target) (s : State) : Host.Outcome State Fault Refusal :=
  perform (formOf (.waitaSys cond width tb ta)) s fun s c i l r _ =>
    request s c i l.toNat (accSize width) false true true false .system
      (.waita cond.code r (accSigned width) true)

/-! ### `MBAR` -/

/-- The address lies in KEEP (R187); all local memory of a control core counts as KEEP (R448). -/
def inKeep (s : State) (c : CoreId) (la : Nat) : Bool :=
  match c with
  | .strand n _ => regionOf (s.leaf n).partw la == .keep
  | .control _ => true

/-- What every `MBAR` checks (R376): its object, then its second operand. -/
def mbarAccess (s : State) (c : CoreId) (i la : Nat) (ok rel : Bool) (k : State → State) : State :=
  limitLa s c i la 64 0 fun s =>
    limit s c i (inKeep s c la) 0 fun s =>
      limit s c i ok 1 fun s => leafAccess s c i la 16 accAtomic rel false k

/-- An update of the object, after which the instruction is complete. -/
def mbarSet (f : Form) (s : State) (c : CoreId) (i la : Nat) (g : Mbar → Mbar) : State :=
  match mbarUpdate s c la g with
  | some s => complete f s c i tok tok
  | none => stayGrant s c i

/-- `MBAR.INIT` (R188). -/
def execMbarInit (tb ta : Target) (s : State) : Host.Outcome State Fault Refusal :=
  perform (formOf (.mbarInit tb ta)) s fun s c i l r _ =>
    mbarAccess s c i l.toNat (decide (1 ≤ r.toNat) && decide (r.toNat < 2 ^ 31)) false fun s =>
      mbarSet (formOf (.mbarInit tb ta)) s c i l.toNat fun _ => Mbar.init r.toNat

/-- `MBAR.ARRIVE` (R188): release order at GATHERING scope. -/
def execMbarArrive (tb ta : Target) (s : State) : Host.Outcome State Fault Refusal :=
  perform (formOf (.mbarArrive tb ta)) s fun s c i l r _ =>
    mbarAccess s c i l.toNat (decide (1 ≤ r.toNat) && decide (r.toNat ≤ (mbarAt s c l.toNat).pend)) true fun s =>
      mbarSet (formOf (.mbarArrive tb ta)) s c i l.toNat (Mbar.arrive r.toNat)

/-- `MBAR.EXPECT` (R188). -/
def execMbarExpect (tb ta : Target) (s : State) : Host.Outcome State Fault Refusal :=
  perform (formOf (.mbarExpect tb ta)) s fun s c i l r _ =>
    mbarAccess s c i l.toNat (decide (1 ≤ r.toNat) && decide (r.toNat < 2 ^ 31)) false fun s =>
      mbarSet (formOf (.mbarExpect tb ta)) s c i l.toNat (Mbar.expect r.toNat)

/-- `MBAR.TEST` (R188). -/
def execMbarTest (tb ta : Target) (s : State) : Host.Outcome State Fault Refusal :=
  perform (formOf (.mbarTest tb ta)) s fun s c i l r _ =>
    mbarAccess s c i l.toNat (decide (r.toNat < 2 ^ 32)) false fun s =>
      complete (formOf (.mbarTest tb ta)) s c i
        (some (wordOfNat (natOfBool ((mbarAt s c l.toNat).isDone r.toNat)))) tok

/-- `MBAR.WAIT` (R188): re-tested until the phase is done; the round stays open. -/
def execMbarWait (tb ta : Target) (s : State) : Host.Outcome State Fault Refusal :=
  perform (formOf (.mbarWait tb ta)) s fun s c i l r _ =>
    mbarAccess s c i l.toNat (decide (r.toNat < 2 ^ 32)) false fun s =>
      if (mbarAt s c l.toNat).isDone r.toNat then complete (formOf (.mbarWait tb ta)) s c i tok tok else stay s c i

/-! ### `KETTLE` and `SPAWN` -/

/-- `KETTLE` (R196, R197): with the effect of an AR fence it arrives, and its tokens follow when the kettle completes; on a
control core it completes at once (R448). -/
def execKettle (tb ta : Target) (s : State) : Host.Outcome State Fault Refusal :=
  perform (formOf (.kettle tb ta)) s fun s c i l _ _ =>
    limit s c i (decide (l.toNat < 64)) 0 fun s =>
      if earlierPending s c || kettlePending s c then stay s c i
      else match s.gathOf c with
        | none => complete (formOf (.kettle tb ta)) s c i tok tok
        | some g =>
          let s := s.modGath g fun x =>
            { x with kettles := tset x.kettles l.toNat ((tget x.kettles l.toNat).getD [] ++ [claimOf s c i]) }
          owe s c i

/-- The fault of the 65th `SPAWN` of a round (R62, R410, R412). -/
def spawnFault (s : State) (c : CoreId) (l : Word) : State :=
  let x := (s.gathOf c).bind s.gath
  let i := x.bind fun x => tget s.insts x.inst
  let node := (x.bind fun x => x.placeOf ((coreLeaf c).getD 0)).map NodePlace.node
  raiseFault s c
    { spineRecord 0x0407 (some (s.ctxOf c)) (x.map Gathering.tag) ((i.map Instance.reqid).getD 0) (bits l.toNat 11 0)
        (node.getD 0) 0 with round := roundOf s c % 2 ^ 32, where_ := whereWord c } 0

/-- `SPAWN` (R198): the request is queued, and the token follows at once. A control core has no gathering and no round
whose commit would release a child (R165). -/
def execSpawn (tb ta : Target) (s : State) : Host.Outcome State Fault Refusal :=
  perform (formOf (.spawn tb ta)) s fun s c i l r _ =>
    limit s c i (bits l.toNat 15 12 == 0 && decide (l.toNat < 2 ^ 32)) 0 fun s =>
      match (s.gathOf c).bind s.gath with
      | none => complete (formOf (.spawn tb ta)) s c i tok tok
      | some x =>
        if Config.spawnLimit ≤ x.spawns.length then spawnFault s c l
        else complete (formOf (.spawn tb ta)) (s.modGath ((s.gathOf c).getD 0) fun x =>
          { x with spawns := x.spawns ++ [⟨bits l.toNat 11 0, bits l.toNat 31 16, r.toNat⟩] }) c i tok tok

end Sys2Proof.Machine
end

