-- ==== Sys2Proof/Machine/Moves.lean ====
section
/-!
DEFINITION. Copies at work (R189 to R195, R67): device lines and apertures, the reading of source lines, the landing of destination
lines, and completion.
-/

namespace Sys2Proof.Machine

/-! ### Windows (R280 to R284) -/

/-- The transform of an aperture is reserved (R168, Table 5 of R280). -/
def xformReserved (x : Nat) : Bool := 4 ≤ x % 16 || ((x % 16 == 2 || x % 16 == 3) && bits x 5 4 == 3)

/-- The aperture whose window holds a PA (R280): class 0x0307 where none does, or its transform is reserved. -/
def windowOf (aps : List Aperture) (pa : Nat) : Except TFault Aperture :=
  match aps.findIdx? fun a => a.wsize != 0 && decide (a.wbase ≤ pa) && decide (pa < a.wbase + a.wsize) with
  | none => .error (tfault 0x0307 0xFF 0)
  | some i =>
    let a := aps.getD i {}
    if xformReserved a.xform then .error (tfault 0x0307 i 0) else .ok a

/-- The byte at a window offset lies in a poisoned line that a read copies and does not decompress (R403). -/
def windowSpoiled (s : State) (a : Aperture) (o : Nat) : Bool :=
  match a.xform % 16 with
  | 0 => hbmPoisoned s (a.back + o) 1
  | 2 => ((blockAddr a o).map fun x => hbmPoisoned s x.1 1).getD false
  | 3 => ((transposeAddr a o).map fun x => hbmPoisoned s x 1).getD false
  | _ => false

/-- Why an access through a window fails, as a fault of the mover (R278, R403, R404). -/
def windowFault (t : Trans) : WindowErr → TFault
  | .code c => { cls := 0x0315, detail := c, pte := t.pte, pa := some t.pa }
  | .poison => poisonFault t.pa t.pte 2
  | .absent pa => { cls := 0x0306, detail := bits pa 38 36, pte := t.pte, pa := some pa }

/-- What a reader of a window sees (R183, R296): device memory with the stores that its gathering has staged through the window. -/
def seenWindow (s : State) (g : Option Nat) (a : Aperture) : State :=
  match g.bind s.gath with
  | some x => x.staged.foldl (fun s y =>
      match y.op with
      | .aperture d ap =>
        if ap = a then
          match apertureWrite s ap (y.pa - ap.wbase) d y.bad with
          | .ok s => s
          | .error _ => s
        else s
      | _ => s) s
  | none => s

/-- The bytes of a line, among those left, that one access reads or writes: all of them, or those of one element of a TRANSPOSE window,
which is no indivisible access (R284). -/
def accessBytes (a : Aperture) (o : Nat) (left : List Nat) (pick : Nat) : List Nat :=
  if a.xform % 16 = 3 then
    let e := 2 ^ bits a.xform 5 4
    let j := left.getD (pick % max 1 left.length) 0
    left.filter fun i => (o + i) / e == (o + j) / e
  else left

/-! ### Device lines of a mover -/

/-- A line read by a mover or a `TLD` (R191, R218): through the round buffer of `g`, if any, or through an aperture, where `old`
holds what earlier accesses of the line have read. With no line, it waits at its port. -/
def readLine (s : State) (u : PortUser) (place k : Nat) (g : Option Nat) (va n acc : Nat) (ap : Bool) (aps : List Aperture)
    (old : LineRead) : Except AccessFault (Option LineRead × State) :=
  match engineTrans s u place k va acc ap with
  | .error f => .error f
  | .ok (t, s) =>
    let (s, go) := portGate s u k t.pa n
    if !go then .ok (none, s)
    else if ap then
      match windowOf aps t.pa with
      | .error f => .error ⟨{ f with pte := t.pte, pa := some t.pa }, acc, va, none⟩
      | .ok a =>
        let o := t.pa - a.wbase
        let seen := seenWindow s g a
        match apertureRead seen a o n with
        | .error e => .error ⟨windowFault t e, acc, va, none⟩
        | .ok bs =>
          let s := if a.xform % 16 = 1 then (blockParts (n + 1) o n).foldl (fun s p => keepCode s a p.1) s else s
          let now := accessBytes a o ((upTo n).filter fun i => (old.bytes.getD i none).isNone) (Config.choice s.tick)
          .ok (some {
            pa := t.pa
            bytes := (upTo n).map fun i => if now.contains i then some (bs.getD i 0) else old.bytes.getD i none
            bad := old.bad || now.any fun i => windowSpoiled seen a (o + i) }, s)
    else .ok (some { pa := t.pa, bytes := (deviceRead s g t.home t.pa n).map some, bad := readBad s g t.home t.pa n }, s)

/-- What became of a part of a copy: done, done by packets of a sender entry, those of bytes `now` at first, done in part, held for the
grant, waiting, or failed. -/
inductive Landed where
  | ok (s : State)
  | sent (s : State) (e : Nat)
  | sentPart (s : State) (e : Nat) (now : List Nat)
  | part (s : State) (now : List Nat)
  | grant
  | wait (s : State)
  | fault (f : AccessFault)
  | refuse (r : Report)

/-- Words of at most 8 bytes that a remote line travels in (R328). -/
def putWrites (pa : Nat) (bs : List Byte) (core : Option Nat) (g : Option Nat) (inst : Nat) : List SendWrite :=
  (putParts (bs.length + 1) pa bs).map fun p =>
    { kind := 0, lop := p.2.length - 1, daddr := p.1, data := p.2, core, gath := g, inst }

/-- Writes issued on a sender entry as far as it admits them now: a write that stalls at the window or at its line slot asks for a window
flag (R324). The line's bytes before `done` have been issued earlier. -/
def sendNow (s : State) (e : Nat) (done : Nat) (ws : List SendWrite) : Landed :=
  let (s, rest) := issueNow s e ws
  if rest = [] then .sent s e
  else
    let s := if stalls s e rest then stallFlag s e else s
    let n := ((ws.take (ws.length - rest.length)).map fun w => w.data.length).foldl (· + ·) 0
    if n = 0 then .wait s else .sentPart s e ((upTo n).map fun i => done + i)

/-- PUTs of a line's bytes from `done` on, issued on the implicit channel (R323), or refused (R427, R429), or held by the window (R324). -/
def putNow (s : State) (k home pa : Nat) (bs : List Byte) (done : Nat) (g : Option Nat) (inst : Nat) : Landed :=
  let tag := (tget s.insts inst).map fun (i : Instance) => i.tag
  match implicitSender s k home with
  | none => .refuse (noChannel s k tag home)
  | some e =>
    if (s.sender e).broken then .refuse (channelReport s k tag 0x0511 0 e) else sendNow s e done (putWrites (pa + done) (bs.drop done) none g inst)

/-- An item of a mover reaches its port. -/
def landItem (s : State) (k : Nat) (g : Option Nat) (inst : Nat) (y : Staged) : Landed :=
  match stageItem s k g inst y with
  | .done s => .ok s
  | .needsGrant => .grant
  | .refused _ r => .refuse r

/-- What a mover writes, and for whom: requester at the port, slice, context, gathering, instance, strand, aperture bit, apertures, the
bytes of the line that earlier accesses have written, and what follows when a PUT's source is poisoned. -/
structure Writer where
  user  : PortUser
  place : Nat
  ctx   : Nat
  gath  : Option Nat
  inst  : Nat
  core  : Option CoreId := none
  acc   : Nat := accMoverWrite
  ap    : Bool := false
  aps   : List Aperture := []
  part  : List Nat := []
  sick  : Option (AccessFault ⊕ Report) := none

/-- The round of the writer's gathering is not revocable: what it writes is published as it reaches its port (R43, R67). -/
def Writer.now (w : Writer) (s : State) : Bool :=
  match w.gath.bind s.gath with
  | some x => x.irrev
  | none => true

/-- A line written through a window (R280, R284): staged whole, or published, element by element through TRANSPOSE. -/
def writeWindow (s : State) (w : Writer) (t : Trans) (va : Nat) (bs : List Byte) (bad : Bool) : Landed :=
  match windowOf w.aps t.pa with
  | .error f => .fault ⟨{ f with pte := t.pte, pa := some t.pa }, w.acc, va, none⟩
  | .ok a =>
    let item := fun (i : Nat) (d : List Byte) =>
      ({ port := portOf t.pa, pa := t.pa + i, home := t.home, op := .aperture d a, bad, core := w.core } : Staged)
    let left := (upTo bs.length).filter fun i => !w.part.contains i
    let now := accessBytes a (t.pa - a.wbase) left (Config.choice s.tick)
    if w.now s && decide (now.length < left.length) then
      match landItem s w.ctx w.gath w.inst (item (now.headD 0) (now.map fun i => bs.getD i 0)) with
      | .ok s => .part s now
      | y => y
    else if w.now s then landItem s w.ctx w.gath w.inst (item (now.headD 0) (now.map fun i => bs.getD i 0))
    else landItem s w.ctx w.gath w.inst (item 0 bs)

/-- What becomes of a line whose source is poisoned. -/
def Writer.refusal (w : Writer) : Landed :=
  match w.sick with
  | some (.inl f) => .fault f
  | some (.inr r) => .refuse r
  | none => .grant

/-- A line written by a mover (R191, R194, R285): staged, published, or sent to its home. -/
def writeLine (s : State) (w : Writer) (va : Nat) (bs : List Byte) (bad : Bool) : Landed :=
  match engineTrans s w.user w.place w.ctx va w.acc w.ap with
  | .error f => .fault f
  | .ok (t, s) =>
    if t.home != s.pkg && w.now s then
      if bad then w.refusal else putNow s w.ctx t.home t.pa bs w.part.length w.gath w.inst
    else
      let (s, go) := portGate s w.user w.ctx t.pa bs.length
      if !go then .wait s
      else if w.ap then writeWindow s w t va bs bad
      else landItem s w.ctx w.gath w.inst { port := portOf t.pa, pa := t.pa, home := t.home, op := .store bs, bad, core := w.core }

/-! ### Leaf lines of a mover -/

/-- A mover's write to the scratchpad of a strand, journaled (R37, R194). -/
def landLeaf (s : State) (c : CoreId) (la : Nat) (bs : List Byte) (bad : Bool) : Option State :=
  match padWrite s c la bs with
  | some s => some (match bad, coreLeaf c with
    | true, some n => s.modLeaf n fun l => spoilLines l la bs.length
    | _, _ => s)
  | none => none

/-- The `MBAR` update of k landed bytes (R194 step 2). -/
def landMbar (s : State) (c : CoreId) (mbar k : Nat) : Option State :=
  if mbar = 0 then some s else mbarUpdate s c mbar (Mbar.landed k)

/-- Where a copy's accesses are translated. -/
def Copy.place (x : Copy) (va : Nat) : Nat :=
  match x.claim with
  | some c => placeOf c.core x.ctx va
  | none => 64 * x.folio + sliceOf x.ctx va

/-- The gathering whose round buffer a copy reads through: only with `FENCE.XP` (R183, R300). -/
def Copy.reader (x : Copy) : Option Nat := if x.xp then x.gath else none

/-- The access code of a copy's reads, and of its writes to device memory (R393); `IMGW` reads its source through a mover (R170, R285). -/
def Copy.accIn (x : Copy) : Nat := if x.tile && x.kind != 12 then accTile else accMoverRead
def Copy.accOut (x : Copy) : Nat := if x.tile then accStore else accMoverWrite

/-- The requester of a copy's accesses (R393): a mover, or the strand of a tile instruction. -/
def Copy.unit (x : Copy) : Nat := if x.tile && x.kind != 12 then 16 else 5

/-- The source of a copy lies behind an aperture: `AP` of `LD` and `MC`, `SAP` of a COPY node. -/
def Copy.apIn (x : Copy) : Bool := (x.kind == 0 || x.kind == 3 || x.kind == 5) && testBit x.sel 7

/-- The destination of a copy lies behind an aperture: `AP` of `ST`, `DAP` of a COPY node. -/
def Copy.apOut (x : Copy) : Bool := (x.kind == 1 && testBit x.sel 7) || (x.kind == 5 && testBit x.sel 6)

/-- A line that has been read into a copy, whole or in part. -/
def keepLine (s : State) (id off : Nat) (l : LineRead) : State :=
  { s with copies := tmod s.copies id fun x =>
      { x with
        got := tset x.got off l
        reads := if l.bytes.all Option.isSome then x.reads.filter fun p => p.1 != off else x.reads } }

/-- A byte of a copy's source that has been read. -/
def Copy.byte (x : Copy) (off : Nat) : Option Byte :=
  x.got.findSome? fun l => if l.1 ≤ off ∧ off < l.1 + l.2.bytes.length then l.2.bytes.getD (off - l.1) none else none

/-- Bytes of a copy's source that have all been read. -/
def Copy.bytes (x : Copy) (off n : Nat) : Option (List Byte) := (upTo n).mapM fun i => x.byte (off + i)

/-- The poisoned line among those that a range of a copy's source comes from. -/
def Copy.sick (x : Copy) (off n : Nat) : Option (Nat × LineRead) :=
  x.got.find? fun l => l.2.bad && overlaps l.1 l.2.bytes.length off n

/-- A range of a strand's scratchpad lies in a poisoned line of its leaf. -/
def padPoisoned (s : State) (c : CoreId) (la n : Nat) : Bool :=
  match c with
  | .strand l _ => leafPoisoned (s.leaf l) la n
  | .control _ => false

/-- A source line of a copy is read: from device memory, or from the issuing scratchpad, where the source of a PUSH may not be poisoned
(R191, R403). -/
def readSource (s : State) (id : Nat) (x : Copy) (off len : Nat) : Landed :=
  if x.padSource then
    let la := x.src + off
    let bad := padPoisoned s x.core la len
    if bad && x.kind == 2 && !x.chans.isEmpty then .refuse (laReport s x.core 5 accMoverRead la 0x0314 1)
    else .ok (keepLine s id off { pa := la, bytes := (padRead s x.core la len).map some, bad })
  else
    let va := x.src + off
    match readLine s (.copy id) (x.place va) x.ctx x.reader va len x.accIn x.apIn x.aps ((tget x.got off).getD default) with
    | .error f => .fault f
    | .ok (none, s) => .wait s
    | .ok (some l, s) =>
      if l.bad && x.kind == 12 then .fault ⟨poisonFault l.pa 0 0, x.accIn, va, none⟩ else .ok (keepLine s id off l)

/-- The refusal of an `MBAR` update whose object is poisoned (R403): class 0x0314. -/
def mbarSick (s : State) (c : CoreId) (mbar : Nat) : Option Report :=
  if mbar ≠ 0 ∧ padPoisoned s c mbar 16 then some (laReport s c 5 accAtomic mbar 0x0314 1) else none

/-- A leaf write and its `MBAR` update, together. -/
def landBoth (s : State) (c : CoreId) (la : Nat) (bs : List Byte) (bad : Bool) (owner : CoreId) (mbar k : Nat) : Landed :=
  match landLeaf s c la bs bad with
  | none => .grant
  | some s =>
    match mbarSick s owner mbar, landMbar s owner mbar k with
    | some r, _ => .refuse r
    | none, some s => .ok s
    | none, none => .grant

/-- What has landed is taken off the `MBAR` object, line by line (R194 step 2). -/
def landMbars (s : State) (x : Copy) : List (Nat × Nat) → Option State
  | [] => some s
  | p :: ps => (landMbar s x.core x.mbar p.2).bind fun s => landMbars s x ps

/-- A landing followed by the `MBAR` updates of its lines. -/
def withMbar (x : Copy) (ps : List (Nat × Nat)) : Landed → Landed
  | .ok s => match mbarSick s x.core x.mbar, landMbars s x ps with
    | some r, _ => .refuse r
    | none, some s => .ok s
    | none, none => .grant
  | .sent s e => match mbarSick s x.core x.mbar, landMbars s x ps with
    | some r, _ => .refuse r
    | none, some s => .sent s e
    | none, none => .grant
  | y => y

/-- The destination lines that land with one through a COMPRESS window: those of its 256 B block, where the copy covers the whole
block (R404, log 111). -/
def landGroup (s : State) (x : Copy) (p : Nat × Nat) : List (Nat × Nat) :=
  if !x.apOut then [p]
  else match peekTrans s x.ctx (x.dst + p.1) with
    | none => [p]
    | some pa => match windowOf x.aps pa with
      | .error _ => [p]
      | .ok a =>
        let ps := x.lines.filter fun q => (x.dst + q.1) / 256 == (x.dst + p.1) / 256
        if a.xform % 16 = 1 ∧ (ps.map (·.2)).foldl (· + ·) 0 = 256 then ps else [p]

/-- The destination lines of a copy that writes device memory. -/
def landDevice (s : State) (id : Nat) (x : Copy) (ps : List (Nat × Nat)) (bs : List Byte) : Landed :=
  let off := (ps.headD (0, 0)).1
  let sick := x.sick off bs.length
  let w : Writer := {
    user := .copy id, place := x.place (x.dst + off), ctx := x.ctx, gath := x.gath, inst := x.inst, core := x.claim.map Claim.core
    acc := x.accOut, ap := x.apOut, aps := x.aps, part := (tget x.part off).getD []
    sick := match sick with
      | some l =>
        if x.kind = 1 ∨ x.tile then some (.inr (laReport s x.core (x.unit % 16) x.accIn l.2.pa 0x0314 1))
        else some (.inl ⟨poisonFault l.2.pa 0 0, accMoverRead, x.src + l.1, none⟩)
      | none => none }
  withMbar x ps (writeLine s w (x.dst + off) bs sick.isSome)

/-- A write to a leaf of another gathering of the context, in its endpaper where it is saved (R192, R327); nothing of one that has
gone. -/
def foreignWrite (s : State) (g n la : Nat) (bs : List Byte) (bad : Bool) : State :=
  if (s.leaf n).gath = some g then s.modLeaf n (pushLeaf la bs bad)
  else { s with papers := tmod s.papers g fun p => { p with leaves := tmod p.leaves n (pushLeaf la bs bad) } }

/-- A destination line of `SEND` (R192, R434): a push to a leaf of this package, or a PUSH packet. -/
def landSend (s : State) (x : Copy) (off : Nat) (bs : List Byte) (bad : Bool) : Landed :=
  let len := bs.length
  let la := bits x.dst 17 0 + off
  match x.chans with
  | e :: _ =>
    if (s.sender e).broken then .refuse (channelReport s x.ctx ((x.gath.bind s.gath).map Gathering.tag) 0x0511 0 e)
    else
      let src := (x.src + off) + (match x.core with
        | .strand n _ => n % 256 * 2 ^ 18 + n / 256 * 2 ^ 26
        | .control _ => 0)
      withMbar x [(off, len)] (sendNow s e 0 [{
        kind := 1, lop := len - 1, daddr := la + bits x.dst 33 18 * 2 ^ 18, data := bs, srcd := src
        core := match x.core with
          | .control k => some k.val
          | .strand _ _ => none
        gath := x.gath, inst := x.inst }])
  | [] =>
    let n := sendLeaf x.dst
    match x.into with
    | none => landBoth s (.strand n 0) la bs bad x.core x.mbar len
    | some g => withMbar x [(off, len)] (.ok (foreignWrite s g n la bs bad))

/-! ### `CP.FIB` (R195, R386) -/

/-- Lines of a range by the 64 B lines of an address, as offsets. -/
def linesFrom (a len : Nat) : List (Nat × Nat) := (linesOf a len).map fun p => (p.1 - a, p.2)

/-- The pos pair of a refill has been read: its element lines, its ring lines and its descriptor (R195). -/
def startFib (x : Copy) (p0 p1 : Nat) : Copy :=
  let cap := x.ring / 4
  let m := min (p1 - p0) cap
  let a := x.crd + 4 * p0
  { x with
    src := a
    len := 4 * m
    got := []
    reads := linesFrom a (4 * m)
    lines := linesFrom x.head (4 * m) ++ [(descMark, 16)]
    descv := bytesOf 8 (p0 + p1 * 2 ^ 32) ++ bytesOf 8 (m + (x.head / 4 + m) % max 1 cap * 2 ^ 32) }

/-- The record of a pos array that falls (R386): the mover's, of its memory port. -/
def fibReport (s : State) (x : Copy) (pa : Nat) : Report :=
  { strandReport s x.core 0x0204 sevTask with
    folio := bits pa 38 36, uclass := 8, uindex := portOf pa, asp := .va, addr := x.src
    synd := zeros 12 ++ bytesOf 4 0xFFFFFFFF }

/-- The pos pair of a refill, once it has been read (R195, R386, R403). -/
def startRefill (s : State) (id : Nat) (x : Copy) : Landed :=
  match x.bytes 0 8 with
  | none => .ok s
  | some bs =>
    match x.sick 0 8 with
    | some l => .fault ⟨poisonFault l.2.pa 0 0, accMoverRead, x.src + l.1, none⟩
    | none =>
      let p0 := field bs 0 4
      let p1 := field bs 4 4
      if p1 < p0 then .refuse (fibReport s x (((x.got.head?).map fun l => l.2.pa).getD 0))
      else .ok { s with copies := tset s.copies id (startFib x p0 p1) }

/-! ### Landing -/

/-- Where the scratchpad of a copy's strand is counted. -/
def Copy.own (x : Copy) : Nat := padKey x.core

/-- The source offset of a destination line. -/
def Copy.from_ (x : Copy) (off : Nat) : Nat := if x.kind = 3 then off % 2 ^ 19 else off

/-- A destination line of a copy lands, with its source bytes (R194, R195). -/
def landWith (s : State) (id : Nat) (x : Copy) (ps : List (Nat × Nat)) (bs : List Byte) : Landed :=
  let off := (ps.headD (0, 0)).1
  let bad := (x.sick (x.from_ off) bs.length).isSome
  match x.kind with
  | 1 | 5 | 9 => landDevice s id x ps bs
  | 2 => landSend s x off bs bad
  | _ =>
    match x.landsAt x.own off with
    | some (n, la) => landBoth s (if x.kind = 3 then .strand n 0 else x.core) la bs bad x.core x.mbar bs.length
    | none => .ok s

/-- The source bytes of destination lines that land together, once they have all been read; `ACCOP.zero` has no source. -/
def Copy.taken (x : Copy) (ps : List (Nat × Nat)) : Option (List Byte) :=
  if (ps.headD (0, 0)).1 = descMark ∧ x.kind = 4 then some x.descv
  else if x.kind = 10 then some (zeros ((ps.map (·.2)).foldl (· + ·) 0))
  else (ps.mapM fun p => x.bytes (x.from_ p.1) p.2).map List.flatten

/-- Nothing that R291 or R295 orders before a part of a strand's copy is outstanding: an earlier request of another block to a byte of
device memory, or the same location in an earlier copy of another block or of the movers' path. -/
def moveFree (s : State) (id : Nat) (x : Copy) (dev : List (Nat × Nat)) (pad : List (Nat × Nat × Nat)) : Bool :=
  match x.claim with
  | none => true
  | some cl =>
    let hits := fun (va n : Nat) => dev.any fun p => overlaps p.1 p.2 va n
    !(s.reqs.any fun q => q.2.core == cl.core && decide (q.1 < id) && q.2.blk != cl.blk && hits q.2.va q.2.size
        && match q.2.stage with
          | .answered _ => false
          | _ => true)
      && !(s.copies.any fun y => decide (y.1 < id) && (y.2.claim.any fun d => d.core == cl.core && (d.blk != cl.blk || (!x.tile && !y.2.tile)))
        && ((y.2.devOut.any fun p => hits p.1 p.2)
          || (y.2.padOut x.own).any fun p => pad.any fun q => p.1 == q.1 && overlaps p.2.1 p.2.2 q.2.1 q.2.2))

/-- A source line may be read; a tile instruction takes its lines in increasing order (R77). -/
def readFree (s : State) (id : Nat) (x : Copy) (p : Nat × Nat) : Bool :=
  if x.tile ∧ x.reads.head? ≠ some p then false
  else if x.padSource then moveFree s id x [] [(x.own, x.src + p.1, p.2)] else moveFree s id x [(x.src + p.1, p.2)] []

/-- A destination line may land: its order allows it, the descriptor of a refill lands last (R195), and the lines of a tile instruction
(R77) and of a `SEND` to another package (R434) go in increasing order. -/
def lineFree (s : State) (id : Nat) (x : Copy) (p : Nat × Nat) : Bool :=
  if x.kind = 4 ∧ p.1 = descMark ∧ 1 < x.lines.length then false
  else if (x.tile || (x.kind == 2 && !x.chans.isEmpty)) ∧ x.lines.head? ≠ some p then false
  else if x.kind = 1 ∨ x.kind = 9 then moveFree s id x [(x.dst + p.1, p.2)] []
  else moveFree s id x [] (((x.landsAt x.own p.1).map fun y => (y.1, y.2, p.2)).toList)

/-- A copy may go on: its gathering runs, or its instance is not held, and no open record holds it. -/
def copyRuns (s : State) (x : Copy) : Bool :=
  !isHeld s x.hold && match x.gath.bind s.gath with
    | some g => gathRuns s g
    | none => x.kind != 5 || instFree s x.inst

/-! ### Failures -/

/-- A copy that ends without completing: it has no part left to do, and delivers nothing. -/
def dropCopy (s : State) (id : Nat) : State := endAccess { s with copies := tdel s.copies id } (.copy id)

/-- A failing access of a copy (R396, R398, R67): charged to the strand that issued it, or to the instance of its node. A copy goes on
only after a fault that firmware can service. -/
def copyFault (s : State) (id : Nat) (x : Copy) (f : AccessFault) : State :=
  match x.claim with
  | some cl =>
    let s := if coreIsControl cl.core || !f.f.serviceable then dropCopy s id else endAccess s (.copy id)
    reportAccess s cl.core (some id) x.unit f.acc f.va f.f x.hold
  | none =>
    let s := endAccess s (.copy id)
    let key : Recur := ⟨5, faultPage f.va f.f, f.f.cls⟩
    let again := x.recur.contains key
    let pa := f.f.pa.getD f.va
    let r : Report := {
      cls := f.f.cls, sev := sevTask, folio := x.folio, ctx := some x.ctx
      tag := (tget s.insts x.inst).map fun (i : Instance) => i.tag }
    let r := if byPa f.f.cls then portSource pa r else transSource s (x.place f.va) f.f r
    let r := fun sev recurs => memReport s r f.f.cls sev (f.f.acc f.acc) 5 true recurs (if byPa f.f.cls then .pa else .va)
      (if byPa f.f.cls then pa else f.va) f.f.pte f.f.detail
    if f.f.serviceable && !again then
      let (num, s) := openRecord s (r sevStalled false) (fun _ => .inst x.inst) none (some key)
      { s with copies := tmod s.copies id fun y => { y with hold := some num, recur := key :: y.recur } }
    else endWith s x.inst (r sevTask again)

/-- A refusal of a part of a copy, which then neither goes on nor delivers its token (R386). -/
def copyRefuse (s : State) (id : Nat) (x : Copy) (r : Report) : State :=
  let s := dropCopy s id
  match x.claim with
  | some cl => raiseFault s cl.core { r with where_ := whereWord cl.core, round := roundOf s cl.core % 2 ^ 32 } (field r.synd 12 4)
  | none => endWith s x.inst r

/-- The access that a record held has been made: a later fault of the copy is a new one (R397). -/
def copyFreed (s : State) (id : Nat) : State :=
  { s with copies := tmod s.copies id fun y => { y with hold := none, stuck := none, recur := [] } }

/-- A sender entry that carried a COPY node's PUTs (R67). -/
def noteChan (s : State) (id e : Nat) : State :=
  { s with copies := tmod s.copies id fun x => if x.kind = 5 ∧ !x.chans.contains e then { x with chans := x.chans ++ [e] } else x }

/-- Bytes of a line that have been written or sent. -/
def notePart (s : State) (id : Nat) (at_ : Option (Bool × Nat)) (now : List Nat) : State :=
  let off := (at_.map (·.2)).getD 0
  { s with copies := tmod s.copies id fun z => { z with part := tset z.part off (((tget z.part off).getD []) ++ now) } }

/-- What a part of a copy left is taken on; `at_` says which read or line it was. -/
def settleLanded (s : State) (id : Nat) (x : Copy) (at_ : Option (Bool × Nat)) (y : Landed) (k : State → State) : State :=
  match y with
  | .ok s => copyFreed (k s) id
  | .sent s e => copyFreed (k (noteChan s id e)) id
  | .part s now => copyFreed (notePart s id at_ now) id
  | .sentPart s e now => copyFreed (notePart (noteChan s id e) id at_ now) id
  | .wait s => s
  | .grant => match x.gath with
    | some g => askGrant s g
    | none => s
  | .fault f =>
    match f.wait with
    | some w => await s (.copy id) (x.place f.va) x.ctx f.va w
    | none =>
    let s := copyFault s id x f
    { s with copies := tmod s.copies id fun z => { z with stuck := if f.f.serviceable then at_ else z.stuck } }
  | .refuse r => copyRefuse s id x r

/-! ### Completion -/

/-- The flags that cover the PUTs of a COPY node are issued, then awaited (R67, R424). -/
def coverCopy (s : State) (id : Nat) (x : Copy) : Option State :=
  if x.chans = [] then none
  else
    let (s, rest) := coverFlags s x.chans
    let nums := (x.chans.filter fun e => !rest.contains e).map fun e => (e, (s.sender e).a)
    some { s with copies := tset s.copies id { x with chans := rest, flags := x.flags ++ nums } }

/-- Every flag of a COPY node has its `FLAGDONE`. -/
def copyCovered (s : State) (x : Copy) : Bool := x.flags.all fun f => !(s.sender f.1).uncovered f.2

/-- An older copy of the strand's path to the movers has not delivered its token (R295). -/
def olderCopy (s : State) (id : Nat) (cl : Claim) : Bool :=
  s.copies.any fun y => decide (y.1 < id) && !y.2.tile && y.2.claim.any fun d => d.core == cl.core

/-- A copy off the movers' path is complete: `TLD` has filled verso (R83, R218), and `IMGW` writes its data, or delivers NULL (R170,
R440). -/
def Copy.close (s : State) (id : Nat) (x : Copy) (cl : Claim) : State :=
  if x.kind = 12 then
    let (s, ok) := imageWrite s id cl.core x.ctx x.descv ((x.bytes 0 x.len).getD [])
    payOwed s cl (if ok then tok else none) (if ok then tok else none)
  else
    let s := match x.kind, coreLeaf cl.core with
      | 6, some n | 7, some n => s.modLeaf n fun l => { l with vfull := true }
      | _, _ => s
    payOwed s cl tok tok

/-- A copy whose done word is written completes, in the order of its strand's copies (R194 step 4, R295, R67); others
complete on their own. -/
def closeCopy (s : State) (id : Nat) (x : Copy) : State :=
  match x.claim with
  | some cl =>
    if x.tile then Copy.close { s with copies := tdel s.copies id } id x cl
    else if olderCopy s id cl then s else payOwed { s with copies := tdel s.copies id } cl tok tok
  | none => { s with copies := tmod s.copies id fun y => { y with owed := false } }

/-- The done word of a copy is written, behind what R291 and R295 order before it, and the copy completes (R194 steps 3 and 4, R67). -/
def endCopy (s : State) (id : Nat) (x : Copy) : State :=
  let va := doneWord x.done
  if va = 0 then closeCopy s id x
  else if !moveFree s id x [(va, 4)] [] then s
  else
    let w : Writer := {
      user := .copy id, place := x.place va, ctx := x.ctx, gath := x.gath, inst := x.inst, core := x.claim.map Claim.core }
    settleLanded s id x none (writeLine s w va (bytesOf 4 x.dval) false) fun s =>
      closeCopy { s with copies := tmod s.copies id fun y => { y with done := 0 } } id x

/-- A copy whose lines have all landed is finished. -/
def finishCopy (s : State) (id : Nat) (x : Copy) : State :=
  if !x.owed then s
  else if x.kind = 5 then
    match coverCopy s id x with
    | some s => s
    | none => if copyCovered s x then endCopy s id x else s
  else endCopy s id x

/-- A source line of a copy is read, and with the last of a pos pair the refill begins. -/
def stepRead (s : State) (id : Nat) (x : Copy) (p : Nat × Nat) : State :=
  settleLanded s id x (some (true, p.1)) (readSource s id x p.1 p.2) fun s =>
    match tget s.copies id with
    | some y =>
      if y.posDue ∧ y.reads = [] then settleLanded s id y (some (true, p.1)) (startRefill s id y) fun s => s else s
    | none => s

/-- A destination line of a copy lands, once its source bytes have been read (R194). -/
def stepLand (s : State) (id : Nat) (x : Copy) (p : Nat × Nat) : State :=
  let ps := landGroup s x p
  match x.taken ps with
  | none => s
  | some bs =>
    settleLanded s id x (some (false, p.1)) (landWith s id x ps bs) fun s =>
      { s with copies := tmod s.copies id fun z => { z with lines := z.lines.filter fun q => !ps.contains q } }

/-- MOVER_LINE_LAND (R194, R67): a source line is read, a destination line lands, or the copy is finished. After a record closes, the
access that it held goes first (R396). -/
def execMoverLineLand (copy line : Nat) (s : State) : Host.Outcome State Fault Refusal :=
  match tget s.copies copy with
  | none => .fault .noSuchUnit
  | some x =>
    if !copyRuns s x then idle s
    else match x.todo with
      | [] => .next (finishCopy s copy x)
      | ps =>
        match ps[line % ps.length]? with
        | none => idle s
        | some (rd, p) =>
          if x.hold.isSome && x.stuck.isSome && x.stuck != some (rd, p.1) then idle s
          else if rd then (if readFree s copy x p then .next (stepRead s copy x p) else idle s)
          else if lineFree s copy x p then .next (stepLand s copy x p)
          else idle s

end Sys2Proof.Machine
end

