-- ==== Sys2Proof/Machine/Copies.lean ====
section
/-!
DEFINITION. The copy instructions `CP` (R189 to R195), `FLAG` (R330, R331) and `KVOP` (R312 to R319).
-/

namespace Sys2Proof.Machine

/-! ### Records -/

/-- A record of an instruction is read as one access when it performs (R175, R189, R312). -/
def readRecord (s : State) (c : CoreId) (i la n : Nat) (k : State → List Byte → State) : State :=
  leafAccess s c i la n accLoad false false fun s => k s (padRead s c la n)

/-- A refusal of an instruction of a strand (R371). -/
def refuse (s : State) (c : CoreId) (r : Report) : State :=
  raiseFault s c { r with where_ := whereWord c, round := roundOf s c % 2 ^ 32 } (field r.synd 12 4)

/-- A leaf range that a mover may not reach (R190, R394): class 0x0309. -/
def refuseLa (s : State) (c : CoreId) (acc la d : Nat) : State := raiseFault s c (laReport s c 5 acc la 0x0309 d) d

/-- A destination range in a leaf that a mover may not reach: the bank of that leaf detects it (R393). -/
def refuseAt (s : State) (c : CoreId) (n la d : Nat) : State :=
  let r := { laReport s c 5 accMoverWrite la 0x0309 d with folio := folioOf n, uclass := 5, uindex := (4 * n + la / 64 % 4) % 65536 }
  raiseFault s c r d

/-- `DETAIL` of class 0x0309 for a range of a strand's own scratchpad (R74, R448). -/
def padRefused (s : State) (c : CoreId) (la n : Nat) : Option Nat :=
  match c with
  | .strand l _ => laRefused (s.leaf l).partw la n true
  | .control _ => if Config.localBytes < la + n then some 3 else none

/-- The record names no `MBAR` object, or one in KEEP (R187). -/
def mbarOk (s : State) (c : CoreId) (d : Nat) : Bool := doneMbar d == 0 || inKeep s c (doneMbar d)

/-- Bits of an address operand of a strand's scratchpad. -/
def padBits (c : CoreId) : Nat := if coreIsControl c then 19 else 18

/-- A copy of a strand is accepted by its mover (R189): it performs, and owes its token. -/
def acceptCopy (s : State) (c : CoreId) (i : Nat) (x : Copy) : State :=
  let (id, s) := s.fresh
  let x := { x with
    claim := some (claimOf s c i), gath := s.gathOf c, inst := instOf s (s.gathOf c), ctx := s.ctxOf c,
    xp := (s.strand c).xp, aps := s.apertures }
  owe { s with copies := tset s.copies id x } c i

/-- A copy with its source lines still to be read, and its destination lines still to land. -/
def newCopy (kind src dst len sel dval done : Nat) (reads lines : List (Nat × Nat)) : Copy :=
  { kind, ctx := 0, src, dst, len, sel, dval, done, mbar := doneMbar done, reads, lines }

/-- What the records of Table 7 share: `LEN` and the done word (R190, R376). -/
def copyFields (len done : Nat) : Bool := decide (1 ≤ len) && decide (len ≤ 262144) && doneWord done % 4 == 0

/-- A copy between the leaf and device memory: its record checked, then accepted. -/
def deviceCopy (s : State) (c : CoreId) (i kind dev la len sel dval done acc : Nat) (ok : Bool) (x : Copy) : State :=
  limit s c i (ok && copyFields len done && decide (dev < 2 ^ 52) && decide (la < 2 ^ padBits c)) 3 fun s =>
    match padRefused s c la len with
    | some d => refuseLa s c acc la d
    | none =>
      if !mbarOk s c done then refuseLa s c accMoverWrite (doneMbar done) 4
      else acceptCopy s c i { x with kind, sel, dval }

/-- The request record of a `CP` (Table 7). -/
def copyRecord (bs : List Byte) : Nat × Nat × Nat × Nat × Nat × Nat :=
  (field bs 0 8, field bs 8 8, field bs 16 3, field bs 19 1, field bs 20 4, field bs 24 8)

/-- `CP.LD` (R189 to R194). -/
def execCpLd (tb ta : Target) (s : State) : Host.Outcome State Fault Refusal :=
  perform (formOf (.cpLd tb ta)) s fun s c i l _ _ =>
    readRecord s c i l.toNat 32 fun s bs =>
      let (src, dst, len, sel, dval, done) := copyRecord bs
      deviceCopy s c i 0 src dst len sel dval done accMoverWrite (sel % 128 == 0)
        (newCopy 0 src dst len sel dval done (linesFrom src len) (linesFrom dst len))

/-- `CP.ST` (R189 to R194). -/
def execCpSt (tb ta : Target) (s : State) : Host.Outcome State Fault Refusal :=
  perform (formOf (.cpSt tb ta)) s fun s c i l _ _ =>
    readRecord s c i l.toNat 32 fun s bs =>
      let (src, dst, len, sel, dval, done) := copyRecord bs
      deviceCopy s c i 1 dst src len sel dval done accMoverRead (sel % 128 == 0)
        (newCopy 1 src dst len sel dval done (linesFrom src len) (linesFrom dst len))

/-! ### `CP.SEND` (R192) -/

/-- A record of a channel that an instruction names by its index (R429). -/
def namedReport (s : State) (c : CoreId) (chan detail : Nat) : Report :=
  let k := s.ctxOf c
  let tag := ((s.gathOf c).bind s.gath).map Gathering.tag
  let w := (tget (s.context k).channels chan).getD 0
  if chValid w then { channelReport s k tag 0x0530 detail (chSender w) with }
  else { channelReport s k tag 0x0530 detail 0 with
    uindex := 0, addr := s.pkg + k * 65536 + chan * 2 ^ 24, synd := zeros 12 ++ bytesOf 4 detail }

/-- The gathering of the context, bound or saved, whose leaf a `SEND` or a PUSH names, with the leaf (R192, R327). DESIGN CHOICE
(log 112): where several hold that leaf, the bound one, else the first saved. -/
def otherLeaf (s : State) (k n : Nat) : Option (Nat × Leaf) :=
  match (s.leaf n).gath.bind fun g => (s.gath g).bind fun x => if x.ctx = k then some g else none with
  | some g => some (g, s.leaf n)
  | none => s.papers.findSome? fun p => if p.2.gath.ctx = k then (tget p.2.leaves n).map fun l => (p.1, l) else none

/-- A range lies in KEEP. -/
def keepRange (w la n : Nat) : Bool := decide (keepBase w ≤ la) && decide (la + n ≤ discBase w)

/-- The destination leaf of a local `SEND` belongs to the issuing gathering. -/
def sendOwnLeaf (s : State) (c : CoreId) (dst : Nat) : Bool :=
  (s.gathOf c).isSome && (s.leaf (sendLeaf dst)).gath == s.gathOf c

/-- `DETAIL` of class 0x0309 for the destination of a `SEND`, if it is refused (R190, R192): a range beyond the leaf, a region of the own
gathering that a program may not write, any region but KEEP of another gathering's leaf, no leaf of the context. -/
def sendRefused (s : State) (c : CoreId) (dst len sel : Nat) : Option Nat :=
  let la := bits dst 17 0
  if Config.leafBytes < la + len then some 3
  else if sel ≠ 0xFF then none
  else if sendOwnLeaf s c dst then laRefused (s.leaf (sendLeaf dst)).partw la len true
  else match otherLeaf s (s.ctxOf c) (sendLeaf dst) with
    | none => some 4
    | some (_, l) => if keepRange l.partw la len then none else some 4

/-- The `SEND` leaves its gathering (R41, R191). -/
def sendAway (s : State) (c : CoreId) (dst sel : Nat) : Bool := sel != 0xFF || !sendOwnLeaf s c dst

/-- The source and destination of a `SEND` to its own leaf overlap (R190). -/
def sendOverlaps (c : CoreId) (src dst len sel : Nat) : Bool :=
  match c with
  | .strand n _ => sel == 0xFF && sendLeaf dst == n && overlaps src len (bits dst 17 0) len
  | .control _ => false

/-- A `SEND` after the checks of its record and ranges. -/
def sendChecked (s : State) (c : CoreId) (i src dst len sel dval done : Nat) : State :=
  let w := (tget (s.context (s.ctxOf c)).channels sel).getD 0
  if sel ≠ 0xFF ∧ !chValid w then refuse s c (namedReport s c sel 1)
  else if bits dst 41 34 ≠ (if sel = 0xFF then s.pkg else chPkg w) then refuse s c (namedReport s c sel 4)
  else if sel ≠ 0xFF ∧ !coreIsControl c ∧ !keepRange (s.leaf ((coreLeaf c).getD 0)).partw src len then
    refuseLa s c accMoverRead src 4
  else match sendRefused s c dst len sel with
    | some d => if sel = 0xFF then refuseAt s c (sendLeaf dst) (bits dst 17 0) d else refuseLa s c accMoverWrite (bits dst 17 0) d
    | none =>
      if sendAway s c dst sel ∧ !irrevocable s c then stayGrant s c i
      else if sel ≠ 0xFF ∧ (s.sender (chSender w)).broken then
        refuse s c (channelReport s (s.ctxOf c) (((s.gathOf c).bind s.gath).map Gathering.tag) 0x0511 0 (chSender w))
      else
        let x := newCopy 2 src dst len sel dval done (linesFrom src len) (linesFrom (bits dst 17 0) len)
        acceptCopy s c i { x with
          chans := if sel = 0xFF then [] else [chSender w]
          into := if sel = 0xFF ∧ !sendOwnLeaf s c dst then (otherLeaf s (s.ctxOf c) (sendLeaf dst)).map (·.1) else none }

/-- `CP.SEND` (R189 to R194, R429, R434): to another gathering or package it is an irrevocable act. -/
def execCpSend (tb ta : Target) (s : State) : Host.Outcome State Fault Refusal :=
  perform (formOf (.cpSend tb ta)) s fun s c i l _ _ =>
    readRecord s c i l.toNat 32 fun s bs =>
      let (src, dst, len, sel, dval, done) := copyRecord bs
      limit s c i (copyFields len done && decide (src < 2 ^ padBits c) && decide (dst < 2 ^ 42)
          && !sendOverlaps c src dst len sel) 3 fun s =>
        match padRefused s c src len with
        | some d => refuseLa s c accMoverRead src d
        | none =>
          if !mbarOk s c done then refuseLa s c accMoverWrite (doneMbar done) 4
          else sendChecked s c i src dst len sel dval done

/-! ### `CP.MC` (R193) -/

/-- The leaves of a multicast group entry, if it is valid and lies within the gathering (Table 9 of R193). -/
def groupLeaves (g : Gathering) (w : Word) : Option (List Nat) :=
  let e := w.toNat
  if !testBit e 40 then none
  else
    let ns := (upTo (bits e 23 18 + 1)).flatMap fun j => (upTo (bits e 17 12 + 1)).flatMap fun i =>
      ((upTo 16).filter fun b => testBit e (24 + b)).map fun b =>
        g.leafAt (4 * (bits e 5 0 + i) + b % 4) (4 * (bits e 11 6 + j) + b / 4)
    ns.mapM id

/-- `CP.MC` (R189 to R194): the same LA of every leaf of the group. -/
def execCpMc (tb ta : Target) (s : State) : Host.Outcome State Fault Refusal :=
  perform (formOf (.cpMc tb ta)) s fun s c i l _ _ =>
    readRecord s c i l.toNat 32 fun s bs =>
      let (src, dst, len, sel, dval, done) := copyRecord bs
      limit s c i (copyFields len done && decide (src < 2 ^ 52) && decide (dst < 2 ^ 18) && bits sel 6 4 == 0) 3 fun s =>
        match ((s.gathOf c).bind s.gath).bind fun g => groupLeaves g (g.mcast.getD (sel % 16) 0) with
        | none => refuseLa s c accMoverWrite dst 4
        | some ns =>
          match ns.findSome? fun n => (laRefused (s.leaf n).partw dst len true).map fun d => (n, d) with
          | some (n, d) => refuseAt s c n dst d
          | none =>
            if !mbarOk s c done then refuseLa s c accMoverWrite (doneMbar done) 4
            else
              let x := newCopy 3 src dst len sel dval done (linesFrom src len)
                ((upTo ns.length).flatMap fun k => (linesFrom dst len).map fun p => (p.1 + k * 2 ^ 19, p.2))
              acceptCopy s c i { x with dests := ns }

/-! ### `CP.FIB` (R195) -/

/-- The LA of the descriptor in a refill record: 19 bits on a control core (R448). -/
def descLa (c : CoreId) (desc : Nat) : Nat := if coreIsControl c then bits desc 18 0 else bits desc 17 0

/-- The LA of the ring in a refill record; [17:0] also on a control core, since [29:18] hold its size (Table 10). -/
def ringLa (ring : Nat) : Nat := bits ring 17 0

/-- `CP.FIB` (R195). -/
def execCpFib (tb ta : Target) (s : State) : Host.Outcome State Fault Refusal :=
  perform (formOf (.cpFib tb ta)) s fun s c i l _ _ =>
    readRecord s c i l.toNat 32 fun s bs =>
      let pos := field bs 0 8
      let crd := field bs 8 8
      let ring := field bs 16 4
      let head := field bs 20 4
      let desc := field bs 24 8
      let rla := ringLa ring
      let size := 64 * (bits ring 29 18 + 1)
      let dla := descLa c desc
      limit s c i (decide (pos < 2 ^ 52) && pos % 4 == 0 && decide (crd < 2 ^ 52) && crd % 4 == 0 && decide (ring < 2 ^ 30)
          && rla % 64 == 0 && decide (head < 65536) && bits desc 51 (padBits c) == 0 && dla % 16 == 0) 3 fun s =>
        match padRefused s c rla size, padRefused s c dla 16 with
        | some d, _ => refuseLa s c accMoverWrite rla d
        | none, some d => refuseLa s c accMoverWrite dla d
        | none, none =>
          if !mbarOk s c desc then refuseLa s c accMoverWrite (doneMbar desc) 4
          else
            let x := newCopy 4 pos rla 8 0 0 0 (linesFrom pos 8) []
            acceptCopy s c i { x with crd, ring := size, head := 4 * head, desc := dla, mbar := doneMbar desc }

/-! ### `FLAG` (R330, R331) -/

/-- A translation of an instruction's own address, made before its grant (R395); a retry of one that a record held may recur
(R397). -/
def translateFor (s : State) (c : CoreId) (i va acc : Nat) (k : State → Trans → State) : State :=
  let k' := s.ctxOf c
  let place := placeOf c k' va
  match engineTrans s (.instr c i) place k' va acc false with
  | .ok (t, s) => k (s.modSlot c i fun x => { x with hold := none }) t
  | .error f =>
    match f.wait with
    | some w => await (stay s c i) (.instr c i) place k' va w
    | none => reportAccess (endAccess (stay s c i) (.instr c i)) c (some i) 0 acc va f.f (s.slot c i).hold

/-- The done word of a record is translated as a store; a page homed elsewhere is class 0x030B (R315, R331). -/
def translateDone (s : State) (c : CoreId) (i va : Nat) (k : State → State) : State :=
  if va = 0 then k s
  else translateFor s c i va accStore fun s t =>
    if t.home ≠ s.pkg then reportAccess s c (some i) 0 accStore va (tfault 0x030B t.home t.pte) else k s

/-- The first part of `FLAG`: the record that it has read is checked, and its addresses are translated (R331). -/
def flagStart (s : State) (c : CoreId) (i : Nat) : State :=
  let bs := (s.slot c i).latch
  let fa := field bs 0 8
  let chan := field bs 16 1
  let done := field bs 24 8
  let w := (tget (s.context (s.ctxOf c)).channels chan).getD 0
  limit s c i (decide (fa < 2 ^ 52) && fa % 8 == 0 && field bs 17 3 == 0 && doneWord done % 4 == 0) 3 fun s =>
    if !mbarOk s c done then refuseLa s c accStore (doneMbar done) 4
    else if chan = 0xFF then refuse s c (namedReport s c chan 2)
    else if !chValid w then refuse s c (namedReport s c chan 1)
    else
      let go := fun (s : State) (pa : Nat) => translateDone s c i (doneWord done) fun s =>
        (stay s c i).modSlot c i fun x => { x with phase := 2, arg := pa }
      if fa = 0 then go s 0
      else translateFor s c i fa accStore fun s t =>
        if t.home ≠ chPkg w then refuse s c (namedReport s c chan 3) else go s t.pa

/-- The second part: the grant, the numbers of every counted write before it, and the packet. -/
def flagSend (s : State) (c : CoreId) (i : Nat) (f : Form) : State :=
  let x := s.slot c i
  let bs := x.latch
  let e := chSender ((tget (s.context (s.ctxOf c)).channels (field bs 16 1)).getD 0)
  if !irrevocable s c then stayGrant s c i
  else if (s.sender e).broken then
    refuse s c (channelReport s (s.ctxOf c) (((s.gathOf c).bind s.gath).map Gathering.tag) 0x0511 0 e)
  else if releasePending s c true || (s.sender e).waits.any (fun w => w.gath == s.gathOf c) || !flagRoom (s.sender e) then stay s c i
  else
    let s := issueFlag s e {
      index := 0, upto := 0, addr := x.arg, value := field bs 8 8, dval := field bs 20 4, done := field bs 24 8
      isFlag := true, core := some c, gath := s.gathOf c, inst := instOf s (s.gathOf c) }
    complete f s c i tok tok

/-- What `FLAG` does once it has read its record: the translations, then the rest. -/
def flagGo (s : State) (c : CoreId) (i : Nat) (f : Form) : State :=
  let s := if (s.slot c i).phase = 1 then flagStart s c i else s
  if (s.slot c i).phase = 2 then flagSend s c i f else s

/-- A record is latched: later writes to it do not affect the request (R312, R330). -/
def latchRecord (s : State) (c : CoreId) (i : Nat) (bs : List Byte) : State :=
  (stay s c i).modSlot c i fun x => { x with latch := bs, phase := 1 }

/-- `FLAG` (R330, R331): always an irrevocable act; it reads its record once. -/
def execFlag (tb ta : Target) (s : State) : Host.Outcome State Fault Refusal :=
  perform (formOf (.flag tb ta)) s fun s c i l _ _ =>
    if (s.slot c i).phase = 0 then
      readRecord s c i l.toNat 32 fun s bs => flagGo (latchRecord s c i bs) c i (formOf (.flag tb ta))
    else flagGo s c i (formOf (.flag tb ta))

/-! ### `KVOP` (R312 to R319) -/

/-- A record of class 0x0420 (R409): the first failing field of a `KVOP` record. -/
def kvopFault (s : State) (c : CoreId) (la off : Nat) : State :=
  raiseFault s c
    { strandReport s c 0x0420 sevTask with asp := .la, addr := la, synd := bytesOf 8 la ++ zeros 4 ++ bytesOf 4 off } off

/-- The offset of the first failing field, if any. -/
def firstBad (fs : List (Nat × Bool)) : Option Nat := (fs.find? fun f => !f.2).map (·.1)

/-- The 64 additions of a request (R313). -/
def massItems (t : Trans) (c : CoreId) (sums : List Byte) : List Staged :=
  (upTo 64).map fun j =>
    { port := portOf (t.pa + 4 * j), pa := t.pa + 4 * j, home := t.home, op := .mass (BitVec.ofNat 32 (field sums (4 * j) 4))
      core := some c }

/-- `KVOP.MASS` once its record and sums are read: it takes the strand's path to the memory ports behind what stands there (R295),
and behind what copies of earlier blocks have still to do to its bytes (R291); its additions are held, applied, or wait for the
grant (R41). -/
def massSend (s : State) (c : CoreId) (i : Nat) (f : Form) : State :=
  let bs := (s.slot c i).latch
  let va := field bs 0 8 + 0x40
  if s.reqs.any (fun r => r.2.core == c) || devPending s c va 256 then stay s c i
  else translateFor s c i va accAtomic fun s t =>
    match stageAll s (s.ctxOf c) (s.gathOf c) (instOf s (s.gathOf c)) (massItems t c (bs.drop 16)) with
    | .done s => complete f s c i tok tok
    | .needsGrant => stayGrant s c i
    | .refused s r => refuse s c r

/-- The line reads of the partial sums, in increasing address order (R313), and then the additions. -/
def massRead (s : State) (c : CoreId) (i : Nat) (f : Form) : State :=
  let x := s.slot c i
  if 5 ≤ x.phase then massSend s c i f
  else
    let la := field x.latch 8 4 + 64 * (x.phase - 1)
    leafAccess s c i la 64 accLoad false false fun s =>
      let s := (stay s c i).modSlot c i fun x => { x with latch := x.latch ++ padRead s c la 64, phase := x.phase + 1 }
      if x.phase = 4 then massSend s c i f else s

/-- `KVOP.MASS` (R312, R313). -/
def execKvopMass (tb ta : Target) (s : State) : Host.Outcome State Fault Refusal :=
  perform (formOf (.kvopMass tb ta)) s fun s c i l _ _ =>
    if (s.slot c i).phase ≠ 0 then massRead s c i (formOf (.kvopMass tb ta))
    else readRecord s c i l.toNat 16 fun s bs =>
      let la := field bs 8 4
      match firstBad [(0, decide (field bs 0 8 < 2 ^ 52) && field bs 0 8 % 1024 == 0),
          (8, decide (la < 2 ^ padBits c) && la % 64 == 0), (12, field bs 12 4 == 0)] with
      | some d => kvopFault s c l.toNat d
      | none => massRead (latchRecord s c i bs) c i (formOf (.kvopMass tb ta))

/-- The eviction engine of a PA (R315): engine ⌊p/4⌋ of the folio of its port. -/
def engineOf (pa : Nat) : Nat := portOf pa / 4

/-- `KVOP.EVICT` once its record is checked and its addresses are translated: the grant, then the request (R315). -/
def evictSend (s : State) (c : CoreId) (i : Nat) : State :=
  let x := s.slot c i
  if !irrevocable s c then stayGrant s c i
  else
    let bs := x.latch
    let r : EvictReq := {
      claim := claimOf s c i, gath := s.gathOf c, inst := instOf s (s.gathOf c), ctx := s.ctxOf c
      seq := field bs 0 8, pa := x.arg, done := field bs 8 8, dval := field bs 16 4 }
    let e := engineOf x.arg
    owe { s with evicts := tset s.evicts e ((tget s.evicts e).getD [] ++ [r]) } c i

/-- The translations of `KVOP.EVICT`, before its grant (R315). -/
def evictStart (s : State) (c : CoreId) (i : Nat) : State :=
  let bs := (s.slot c i).latch
  let seq := field bs 0 8
  translateFor s c i seq accLoad fun s t =>
    if t.home ≠ s.pkg then reportAccess s c (some i) 0 accLoad seq (tfault 0x030B t.home t.pte)
    else translateDone s c i (field bs 8 8) fun s => (stay s c i).modSlot c i fun x => { x with phase := 2, arg := t.pa }

/-- What `KVOP.EVICT` does once it has read and checked its record. -/
def evictGo (s : State) (c : CoreId) (i : Nat) : State :=
  let s := if (s.slot c i).phase = 1 then evictStart s c i else s
  if (s.slot c i).phase = 2 then evictSend s c i else s

/-- `KVOP.EVICT` (R312, R315): it reads its record once. -/
def execKvopEvict (tb ta : Target) (s : State) : Host.Outcome State Fault Refusal :=
  perform (formOf (.kvopEvict tb ta)) s fun s c i l _ _ =>
    if (s.slot c i).phase ≠ 0 then evictGo s c i
    else readRecord s c i l.toNat 32 fun s bs =>
      let seq := field bs 0 8
      let done := field bs 8 8
      match firstBad [(0, decide (seq < 2 ^ 52) && seq % 256 == 0), (8, decide (done < 2 ^ 52) && done % 8 == 0),
          (20, slice bs 20 12 == zeros 12)] with
      | some d => kvopFault s c l.toNat d
      | none => evictGo (latchRecord s c i bs) c i

/-- `KVOP.STAT` (R318): the gate word read as by `ldg.64.acq.dev`. -/
def execKvopStat (tb ta : Target) (s : State) : Host.Outcome State Fault Refusal :=
  perform (formOf (.kvopStat tb ta)) s fun s c i l _ _ =>
    readRecord s c i l.toNat 8 fun s bs =>
      let va := field bs 0 8
      if 2 ^ 52 ≤ va ∨ va % 256 ≠ 0 then kvopFault s c l.toNat 0
      else request s c i (va + 0x20) 8 false false true false .device (.load false)

end Sys2Proof.Machine
end

