-- ==== Sys2Proof/Machine/Flezal.lean ====
section
/-!
DEFINITION. Flezal: the issue of counted writes (R324), arrivals at a receiver (R325 to R328, R332, R419, R420), at a sender
(R333, R423) and at a requester (R426), timers (R421, R425, R426), links (R416, R417, R320), lost packages (R428) and the
allocation of channels (R322).
-/

namespace Sys2Proof.Machine

/-! ### Finding an entry -/

/-- The receiver entry of an arriving packet (R322). -/
def receiverOf (s : State) (p : Packet) : Option (Nat × Receiver) :=
  s.receivers.find? fun r => r.2.src == p.src.toNat && r.2.ctx == p.ctx.toNat && r.2.index == p.chan.toNat

/-- The sender entry that a packet from its receiver names (R422). -/
def senderOf (s : State) (p : Packet) : Option (Nat × Sender) :=
  s.senders.find? fun e => e.2.dst == p.src.toNat && e.2.ctx == p.ctx.toNat && e.2.index == p.chan.toNat

/-! ### Issue (R324, R326, R427) -/

/-- The last part of a request's write has its number: its instruction completes (R179, R180). -/
def answerIssued (s : State) (id req : Nat) : State :=
  match tget s.reqs req with
  | some r =>
    if (s.sender id).waits.any fun w => w.req == req then s
    else match r.op with
      | .atomic .. => answer s req none
      | _ => answer s req tok
  | none => s

/-- The object of a flag's `DONE` receives one arrival, in its leaf, its endpaper or its control core; none while the journal of the
leaf has no room for it. -/
def doneArrive (s : State) (f : OutFlag) : Option State :=
  let la := doneMbar f.done
  if la = 0 then some s
  else match f.core, f.gath with
    | some (.strand n t), some g =>
      if (s.leaf n).gath = some g then mbarUpdate s (.strand n t) la (Mbar.arrive 1) else some (paperArrive s g n la)
    | some (.control c), _ => mbarUpdate s (.control c) la (Mbar.arrive 1)
    | _, _ => some s

/-- A leaf line that a sender entry reads for itself is poisoned (R393, R403). -/
def entrySick (s : State) (e : Sender) (inst n la acc : Nat) : Report :=
  memReport s { cls := 0x0314, sev := sevTask, folio := folioOf n, uclass := 5, uindex := (4 * n + la / 64 % 4) % 65536, ctx := some e.ctx
                tag := (tget s.insts inst).map fun (i : Instance) => i.tag }
    0x0314 sevTask acc 9 true false .la la 0 1

/-- The object of a flag's `DONE` lies in a poisoned line of its leaf or of the endpaper image (R403). -/
def doneSick (s : State) (id : Nat) (f : OutFlag) : Option Report :=
  let la := doneMbar f.done
  match f.core, f.gath with
  | some (.strand n t), some g =>
    let bad := if (s.leaf n).gath = some g then padPoisoned s (.strand n t) la 16
      else (tget s.papers g).any fun p => leafPoisoned ((tget p.leaves n).getD {}) la 16
    if la ≠ 0 ∧ bad then some (entrySick s (s.sender id) f.inst n la accAtomic) else none
  | _, _ => none

/-- The done word of a flag, translated again, is written at its port. -/
def doneWrite (s : State) (id : Nat) (f : OutFlag) : Except AccessFault State :=
  let va := doneWord f.done
  if va = 0 then .ok s
  else match engineTrans s (.channel id) hubPlace (s.sender id).ctx va accStore false with
    | .error x => .error x
    | .ok (t, s) =>
      if t.home ≠ s.pkg then .error { f := tfault 0x030B t.home t.pte, acc := accStore, va }
      else match allTurns s (.channel id) accStore va (portParts t.pa 4) with
        | .error x => .error x
        | .ok s => .ok (hbmWrite s t.pa (bytesOf 4 f.dval))

/-- A `DONE` that fails is over, and the issuing instance ends, if it has not. -/
def doneFails (s : State) (id : Nat) (f : OutFlag) (r : Report) : State :=
  let s := endAccess s (.channel id)
  if instLive s f.inst then endWith s f.inst r else writeRecord s r

/-- The record of a done word that is not written (R333): requester 9. -/
def doneReport (s : State) (id : Nat) (f : OutFlag) (x : AccessFault) : Report :=
  hubReport s { cls := x.f.cls, sev := sevTask, folio := 8, uclass := 0x0F, uindex := id, ctx := some (s.sender id).ctx
                tag := (tget s.insts f.inst).map fun (i : Instance) => i.tag } 9 sevTask false x

/-- A retired flag's `DONE` (R333): its done word is written, and its object receives one arrival. Whether it is over: it waits for a
walk, for its turn at its port, or for room in the journal of the leaf, for which it asks for the grant of R42 (R37). -/
def performDone (s : State) (id : Nat) (f : OutFlag) : State × Bool :=
  let own := match f.core with
    | some (.control _) => true
    | _ => false
  if !own && !instLive s f.inst then (s, true)
  else match doneWrite s id f with
    | .error x => match x.wait with
      | some w => (await s (.channel id) hubPlace (s.sender id).ctx x.va w, false)
      | none => (doneFails s id f (doneReport s id f x), true)
    | .ok t => match doneSick t id f, doneArrive t f, f.gath with
      | some r, _, _ => (doneFails t id f r, true)
      | none, some t, _ => (endAccess t (.channel id), true)
      | none, none, some g => (askGrant s g, false)
      | none, none, none => (s, false)

/-- The `DONE`s that are due on a channel, in order, as far as the first that must wait. -/
def runDones (s : State) (id : Nat) : List OutFlag → State
  | [] => s.modSender id fun e => { e with dones := [] }
  | f :: fs =>
    match performDone s id f with
    | (s, true) => runDones s id fs
    | (s, false) => s.modSender id fun e => { e with dones := f :: fs }

/-- COUNTED_WRITE_ISSUE (R324, R326): the oldest write that waits takes the next number and leaves, or stalls. -/
def execCountedWriteIssue (sender : Nat) (s : State) : Host.Outcome State Fault Refusal :=
  match tget s.senders sender with
  | none => .fault .noSuchUnit
  | some e =>
    let s := runDones s sender e.dones
    let e := s.sender sender
    match e.waits with
    | [] => idle s
    | w :: ws =>
      if e.broken then .next (refuseWrites s sender)
      else if mayNumber e w then
        let s := s.modSender sender fun e => { e with waits := ws }
        .next (answerIssued (numberWrite s sender w) sender w.req)
      else .next (stallFlag s sender)

/-! ### Counted writes at the receiver (R325 to R327, R419) -/

/-- Write m of a channel has been performed. -/
def Receiver.performed (r : Receiver) (m : Nat) : Bool := decide (dist32 r.h m < 2 ^ 31) || r.arrived.contains m

/-- H advances over the bits that are set (R325 step 3). -/
def Receiver.advance : Nat → Receiver → Receiver
  | 0, r => r
  | n + 1, r =>
    let m := (r.h + 1) % 2 ^ 32
    if r.arrived.contains m then
      Receiver.advance n { r with h := m, arrived := r.arrived.erase m, lastH := none, failed := 0 }
    else r

/-- A number sets its bit. -/
def Receiver.mark (r : Receiver) (n : Nat) : Receiver :=
  Receiver.advance (r.arrived.length + 1) { r with arrived := r.arrived ++ [n] }

/-- T is raised to a number that is later in modular order from H (R419). -/
def Receiver.raise (r : Receiver) (n : Nat) : Receiver :=
  if dist32 n r.h < 2 ^ 31 ∧ dist32 r.top r.h < dist32 n r.h then { r with top := n } else r

/-- A record of area 0x03 of an arrival at a PA: the access is an arrival's and the requester a remote package (R393). -/
def arrivalReport (s : State) (k pa cls detail : Nat) : Report :=
  memReport s (portReport pa k) cls sevTask 12 8 true false .pa pa 0 detail

/-- The PA of an arrival is refused (R278, R419). -/
def paBad (s : State) (k pa n : Nat) : Option Report :=
  if isAperture pa || isAperture (pa + n - 1) then some (arrivalReport s k pa 0x0307 0xFF)
  else if isBacked pa && isBacked (pa + n - 1) then none
  else some (arrivalReport s k pa 0x0306 (bits pa 38 36))

/-- The access of an arrival at its port (R20, R70): the port serves it as the packet arrives, and its context is charged (log 132). -/
def arriveAt (s : State) (k pa n : Nat) : State :=
  let p := portOf pa
  let asks := portAsks s p
  let (pick, grown) := portPick s (s.port p) (k :: asks) fun _ => n
  portCharge s p k (if pick = k then grown else n) n (asks.any (· != k)) asks

/-- A PUSH writes its leaf's KEEP, or is refused (R327). -/
def performPush (s : State) (k : Nat) (p : Packet) : State :=
  let a := p.daddr.toNat
  let la := bits a 17 0
  let n := leafNum (bits a 25 18) (bits a 33 26)
  let dest := (otherLeaf s k n).filter fun x =>
    decide (la + p.data.length ≤ Config.leafBytes) && keepRange x.2.partw la p.data.length
  match dest with
  | some (g, _) => foreignWrite s g n la p.data false
  | none => writeRecord s (memReport s
    { cls := 0x0309, sev := sevTask, folio := folioOf n, uclass := 5, uindex := (4 * n + la / 64 % 4) % 65536, ctx := some k }
    0x0309 sevTask 12 8 true false .la la 0 4)

/-- A counted write is performed (R325), or refused with a record. -/
def performWrite (s : State) (k : Nat) (p : Packet) : State :=
  let pa := p.daddr.toNat
  match p.kind with
  | .put => match paBad s k pa p.data.length with
    | some r => writeRecord s r
    | none => hbmWrite (arriveAt s k pa p.data.length) pa p.data
  | .ratom =>
    let n := atomicSize p.opw.toNat
    match paBad s k pa n with
    | some r => writeRecord s r
    | none =>
      if hbmPoisoned s pa n then writeRecord s (arrivalReport s k pa 0x0314 0)
      else (hbmAtomic (arriveAt s k pa n) pa p.opw.toNat (wordOfNat (natOfBytes p.data))).2
  | _ => performPush s k p

/-- The write that a packet's `DEP` names has been performed (R326). -/
def depDone (r : Receiver) (p : Packet) : Bool :=
  let d := p.aux.toNat % 4096
  d == 0 || r.performed (dist32 p.num.toNat d)

/-- Held writes whose dependence is met are performed, until none is. -/
def runHeld (id : Nat) : Nat → State → State
  | 0, s => s
  | fuel + 1, s =>
    match tget s.receivers id with
    | none => s
    | some r =>
      match r.held.find? (depDone r) with
      | none => s
      | some p =>
        let s := performWrite s r.ctx p
        let r := { r with
          held := r.held.erase p
          landed := if p.kind = PacketKind.push then r.landed else (p.num.toNat, p.daddr.toNat) :: r.landed }
        runHeld id fuel { s with receivers := tset s.receivers id (r.mark p.num.toNat) }

/-- Bytes of an access width code (R130). -/
def widthBytes (code : Nat) : Nat := if code < 2 then 1 else if code < 4 then 2 else if code < 6 then 4 else 8

/-- The value that an RLOAD reads at its home, as RDATA (R328), or a record. -/
def performLoad (s : State) (k : Nat) (p : Packet) : State :=
  let pa := p.daddr.toNat
  let n := widthBytes p.opw.toNat
  match paBad s k pa n with
  | some r => writeRecord s r
  | none =>
    if hbmPoisoned s pa n then writeRecord s (arrivalReport s k pa 0x0314 0)
    else queuePacket (arriveAt s k pa n) { p with
      kind := .rdata
      src := p.dst
      dst := p.src
      num := 0
      daddr := 0
      len := BitVec.ofNat 6 (n - 1)
      opw := 0
      data := s.hbm.read pa n }

/-- Every write of the channel up to a number has been performed. -/
def Receiver.covers (r : Receiver) (n : Nat) : Bool := decide (dist32 r.h n < 2 ^ 31)

/-- RLOADs that waited for H are performed. -/
def runLoads (s : State) (id : Nat) : State :=
  match tget s.receivers id with
  | none => s
  | some r =>
    let (go, rest) := r.loads.partition fun p => r.covers p.num.toNat
    go.foldl (fun s p => performLoad s r.ctx p) { s with receivers := tset s.receivers id { r with loads := rest } }

/-- A counted write arrives (Table 2 of R419). -/
def countedArrival (s : State) (id : Nat) (r : Receiver) (p : Packet) : State :=
  let n := p.num.toNat
  let d := dist32 n r.h
  if 1 ≤ d ∧ d ≤ 4096 then
    if r.arrived.contains n || r.held.any (fun q => q.num == p.num) then s
    else
      let r := { r.raise n with held := r.held ++ [p] }
      runLoads (runHeld id r.held.length { s with receivers := tset s.receivers id r }) id
  else if d = 0 ∨ 2 ^ 32 - 4096 < d then s
  else writeRecord s (receiverReport s id r 0x0503 sevCorrected n)

/-- An arrival of a counted write of a kind: one that finds no entry, or a broken one, is discarded. -/
def execArrival (s : State) (p : Packet) (kind : PacketKind) : Host.Outcome State Fault Refusal :=
  match receiverOf s p with
  | some (id, r) => if r.broken || p.kind != kind then idle s else .next (countedArrival s id r p)
  | none => idle s

/-- PUT_ARRIVAL (R325, R419). -/
def execPutArrival (p : Packet) (s : State) : Host.Outcome State Fault Refusal := execArrival s p .put
/-- PUSH_ARRIVAL (R327, R419). -/
def execPushArrival (p : Packet) (s : State) : Host.Outcome State Fault Refusal := execArrival s p .push
/-- RATOM_ARRIVAL (R325, R419). -/
def execRatomArrival (p : Packet) (s : State) : Host.Outcome State Fault Refusal := execArrival s p .ratom

/-! ### Remote reads (R328, R426) -/

/-- RLOAD_ARRIVAL (R328): performed once every write up to its number has been. -/
def execRloadArrival (p : Packet) (s : State) : Host.Outcome State Fault Refusal :=
  match receiverOf s p with
  | some (id, r) =>
    if r.broken || p.kind != .rload then idle s
    else .next (runLoads { s with receivers := tset s.receivers id { r with loads := r.loads ++ [p] } } id)
  | none => idle s

/-- The request that waits for an RDATA with a tag. -/
def requestOf (s : State) (tag : Nat) : Option (Nat × Request) := s.reqs.find? fun r => r.2.stage == ReqStage.remote tag

/-- The re-read that waits for an RDATA with a tag (R447). -/
def rereadOf (s : State) (tag : Nat) : Option (Nat × Reread) := s.rereads.find? fun r => r.2.tag == tag

/-- A re-read has come back (R447): other bytes than those of the failing read wake the strand, also in a saved gathering. -/
def rereadBack (s : State) (r : Reread) (v : Nat) : State :=
  match r.core with
  | .strand n t =>
    match r.gath.bind fun g => (tget s.papers g).map fun _ => g with
    | some g => { s with papers := tmod s.papers g fun p => { p with leaves := tmod p.leaves n (rereadLeaf t.val v) } }
    | none => if (s.leaf n).gath = r.gath then s.modLeaf n (rereadLeaf t.val v) else s
  | .control _ => s.modStrand r.core fun st => { st with watch := st.watch.map (rereadWatch v) }

/-- RDATA_ARRIVAL (R328, R426, R447): the first with a tag completes the read, with the bytes that the gathering had staged when it
left, or the re-read of a watch. -/
def execRdataArrival (p : Packet) (s : State) : Host.Outcome State Fault Refusal :=
  match requestOf s (p.aux.toNat % 4096) with
  | some (id, r) =>
    if p.kind != .rdata || r.home != p.src.toNat then idle s
    else .next (readBack s id r (laidOver r.laid (slice p.data 0 r.size)))
  | none =>
    match rereadOf s (p.aux.toNat % 4096) with
    | some (id, r) =>
      if p.kind != .rdata || r.home != p.src.toNat then idle s
      else .next (rereadBack { s with rereads := tdel s.rereads id } r (natOfBytes (slice p.data 0 r.size)))
    | none => idle s

/-- The timer of a re-read expires: the RLOAD is sent again, and at the fourth expiry the wait fails with class 0x0513. -/
def rereadTimer (s : State) (id : Nat) (r : Reread) : State :=
  match implicitSender s r.ctx r.home with
  | none => failReread { s with rereads := tdel s.rereads id } r.core r.gath (noChannel s r.ctx none r.home)
  | some e =>
    let base := senderReport s e 0x0507 sevCorrected r.tag none
    if 3 ≤ r.sent then failReread { s with rereads := tdel s.rereads id } r.core r.gath { base with cls := 0x0513, sev := sevTask }
    else
      let s := writeRecord { s with rereads := tset s.rereads id { r with sent := r.sent + 1 } }
        { base with tag := (r.gath.bind s.gath).map Gathering.tag }
      queuePacket s (rereadPacket s r (s.sender e))

/-- RLOAD_TIMER_EXPIRY (R426, R447): the RLOAD is sent again, and at the fourth expiry the read fails with class 0x0513. -/
def execRloadTimerExpiry (req : Nat) (s : State) : Host.Outcome State Fault Refusal :=
  match tget s.reqs req with
  | none =>
    match tget s.rereads req with
    | some r => .next (rereadTimer s req r)
    | none => .fault .noSuchUnit
  | some r =>
    match r.stage, implicitSender s r.ctx r.home with
    | .remote tag, some e =>
      if 4096 ≤ tag then idle s
      else
        let base := senderReport s e 0x0507 sevCorrected tag none
        let mine := ((r.gath.bind s.gath).map Gathering.tag)
        if 3 ≤ r.sent then .next (portFault s req r { base with cls := 0x0513, sev := sevTask, tag := mine })
        else
          let s := writeRecord (setReq s req { r with sent := r.sent + 1 }) { base with tag := mine }
          .next (queuePacket s (rloadPacket s r (s.sender e) tag r.upto))
    | .remote tag, none =>
      if 4096 ≤ tag then idle s else .next (portFault s req r (noChannel s r.ctx ((r.gath.bind s.gath).map Gathering.tag) r.home))
    | _, _ => idle s

/-! ### Flags (R332, R333, R420, R425) -/

/-- The answer to a flag. -/
def flagDone (p : Packet) : Packet :=
  { p with kind := .flagdone, src := p.dst, dst := p.src, daddr := 0, len := 0, data := [0] }

/-- FLAG_ARRIVAL (Table 3 of R420). -/
def execFlagArrival (p : Packet) (s : State) : Host.Outcome State Fault Refusal :=
  match receiverOf s p with
  | none => idle s
  | some (id, r) =>
    let f := p.aux.toNat
    if r.broken || p.kind != .flag then idle s
    else if dist15 f r.nextF ≤ 15 then
      if r.flags.any fun q => q.aux == p.aux then idle s
      else .next { s with receivers := tset s.receivers id { r.raise p.num.toNat with flags := r.flags ++ [p] } }
    else if dist15 r.nextF f ≤ 16 then .next (queuePacket s (flagDone p))
    else .next (writeRecord s (receiverReport s id r 0x0503 sevCorrected f))

/-- FLAG_COMPLETE (R332): the next flag in index order, once H covers its count. -/
def execFlagComplete (receiver : Nat) (s : State) : Host.Outcome State Fault Refusal :=
  match tget s.receivers receiver with
  | none => .fault .noSuchUnit
  | some r =>
    match r.flags.find? fun p => p.aux.toNat == r.nextF with
    | none => idle s
    | some p =>
      if r.broken || !r.covers p.num.toNat then idle s
      else
        let pa := p.daddr.toNat
        let s := if pa = 0 then s
          else match paBad s r.ctx pa 8 with
            | some x => writeRecord s x
            | none => hbmWrite (arriveAt s r.ctx pa 8) pa (p.data.take 8)
        let r := { r with
          flags := r.flags.erase p
          nextF := (r.nextF + 1) % 2 ^ 15
          landed := r.landed.filter fun x => !decide (dist32 p.num.toNat x.1 < 2 ^ 31) }
        .next (queuePacket { s with receivers := tset s.receivers receiver r } (flagDone p))

/-- Step 1 of R333: D advances, and the records that it covers are freed. -/
def coverTo (e : Sender) (n : Nat) : Sender :=
  if e.uncovered n then
    let e' := { e with d := n }
    { e' with ring := e.ring.filter fun r => e'.uncovered r.num }
  else e

/-- FLAGDONE_ARRIVAL (R333). -/
def execFlagdoneArrival (p : Packet) (s : State) : Host.Outcome State Fault Refusal :=
  match senderOf s p with
  | none => idle s
  | some (id, e) =>
    if e.broken || p.kind != .flagdone then idle s
    else
      let e := coverTo e p.num.toNat
      match e.flags.find? fun f => f.index == p.aux.toNat with
      | none => .next { s with senders := tset s.senders id e }
      | some f =>
        let e := { e with flags := e.flags.erase f }
        let e := if f.isFlag then { e with dones := e.dones ++ [f] } else e
        .next (runDones { s with senders := tset s.senders id e } id e.dones)

/-- FLAG_TIMER_EXPIRY (R425): the flag is sent again; its fourth expiry breaks the channel. -/
def execFlagTimerExpiry (sender : Nat) (index : BitVec 15) (s : State) : Host.Outcome State Fault Refusal :=
  match tget s.senders sender with
  | none => .fault .noSuchUnit
  | some e =>
    match e.flags.find? fun f => f.index == index.toNat with
    | none => idle s
    | some f =>
      if 3 ≤ f.tries then .next (breakSender s sender 1)
      else
        let s := writeRecord s (senderReport s sender 0x0506 sevCorrected f.index (if f.isFlag then some f.inst else none))
        let s := s.modSender sender fun e => { e with flags := e.flags.map fun g =>
          if g.index == f.index then { g with tries := g.tries + 1 } else g }
        .next (queuePacket s (flagPacket s e f))

/-- TAIL_WRITE_TIMEOUT (R425): a window flag, where no flag is outstanding and a write is uncovered. -/
def execTailWriteTimeout (sender : Nat) (s : State) : Host.Outcome State Fault Refusal :=
  match tget s.senders sender with
  | none => .fault .noSuchUnit
  | some e => if e.flags != [] || e.broken || e.a == e.d then idle s else .next (windowFlag s sender)

/-! ### Gaps and replays (R421 to R424) -/

/-- Maximal runs of clear bits in n numbers from m up: first number and length. -/
def clearRuns (r : Receiver) : Nat → Nat → List (Nat × Nat)
  | 0, _ => []
  | n + 1, m =>
    let rest := clearRuns r n ((m + 1) % 2 ^ 32)
    if r.arrived.contains m then rest
    else match rest with
      | (a, k) :: rs => if a = (m + 1) % 2 ^ 32 then (m, k + 1) :: rs else (m, 1) :: (a, k) :: rs
      | [] => [(m, 1)]

/-- A RESEND of a run (R422). -/
def resendPacket (s : State) (r : Receiver) (x : Nat × Nat) : Packet :=
  { kind := .resend, ctx := BitVec.ofNat 4 r.ctx, src := BitVec.ofNat 8 s.pkg, dst := BitVec.ofNat 8 r.src,
    chan := BitVec.ofNat 8 r.index, num := BitVec.ofNat 32 x.1, daddr := 0, len := 0, opw := 0,
    aux := BitVec.ofNat 15 (x.2 - 1), data := [0] }

/-- GAP_TIMER_EXPIRY (R421, R422). -/
def execGapTimerExpiry (receiver : Nat) (s : State) : Host.Outcome State Fault Refusal :=
  match tget s.receivers receiver with
  | none => .fault .noSuchUnit
  | some r =>
    if r.broken || r.h == r.top then idle s
    else
      let r := { r with failed := if r.lastH = some r.h then r.failed + 1 else 0, lastH := some r.h }
      let s := writeRecord { s with receivers := tset s.receivers receiver r } (receiverReport s receiver r 0x0505 sevCorrected r.failed)
      let s := ((clearRuns r (dist32 r.top r.h) ((r.h + 1) % 2 ^ 32)).take 16).foldl (fun s x => queuePacket s (resendPacket s r x)) s
      .next (if 4 ≤ r.failed then breakReceiver s receiver r.failed else s)

/-- The source of a PUSH as it now stands: the issuing leaf, its endpaper, or a control core's memory (R329, R423). -/
def pushSource (s : State) (r : Replay) : List Byte :=
  let n := r.lop % 64 + 1
  let la := if r.core.isSome then bits r.data 18 0 else bits r.data 17 0
  let leaf := leafNum (bits r.data 25 18) (bits r.data 33 26)
  match r.core, r.gath with
  | some c, _ => (s.core c).mem.read la n
  | none, some g => match tget s.papers g with
    | some p => ((tget p.leaves leaf).getD {}).mem.read la n
    | none => leafRead s leaf la n
  | none, none => leafRead s leaf la n

/-- The source of a PUSH lies in a poisoned line of its leaf or of the endpaper image (R403). -/
def pushSick (s : State) (r : Replay) : Bool :=
  let la := bits r.data 17 0
  let n := leafNum (bits r.data 25 18) (bits r.data 33 26)
  r.kind == 1 && r.core.isNone && match r.gath.bind fun g => tget s.papers g with
    | some p => leafPoisoned ((tget p.leaves n).getD {}) la (r.lop % 64 + 1)
    | none => leafPoisoned (s.leaf n) la (r.lop % 64 + 1)

/-- The record of such a source. -/
def pushReport (s : State) (e : Sender) (r : Replay) : Report :=
  entrySick s e r.inst (leafNum (bits r.data 25 18) (bits r.data 33 26)) (bits r.data 17 0) accMoverRead

/-- A replay of one number, or none where its source has gone (R424). -/
def replayOne (s : State) (e : Sender) (r : Replay) : Option State :=
  if r.kind = 1 ∧ e.ended.contains r.inst then none
  else
    let data := if r.kind = 1 then pushSource s r else bytesOf (if r.kind = 2 then 8 else r.lop % 64 + 1) r.data
    some (queuePacket s (writePacket s e r.num r.dep r.kind r.lop r.daddr data))

/-- The numbers of a run replayed in order. -/
def replayRun (id : Nat) (e : Sender) : List Replay → State → State
  | [], s => s
  | r :: rs, s =>
    if pushSick s r && !e.ended.contains r.inst then breakSender (endWith s r.inst (pushReport s e r)) id 2
    else match replayOne s e r with
      | some s => replayRun id e rs s
      | none => breakSender s id 2

/-- RESEND_ARRIVAL (R423): the run's uncovered numbers are replayed; one that cannot be breaks the channel (R424). -/
def execResendArrival (p : Packet) (s : State) : Host.Outcome State Fault Refusal :=
  match senderOf s p with
  | none => idle s
  | some (id, e) =>
    if e.broken || p.kind != .resend then idle s
    else
      let run := e.ring.filter fun r => decide (dist32 r.num p.num.toNat ≤ p.aux.toNat % 4096) && e.uncovered r.num
      .next (replayRun id e run s)

/-! ### Links (R320, R416, R417) -/

/-- Bytes of a packet on a link: its header and its padded payload (R320). -/
def packetBytes (p : Packet) : Nat := 16 + (p.data.length + 15) / 16 * 16

/-- The packets of one flit leave a list: as many whole ones as fit in 240 B. -/
def dropFlit (s : State) (fp : Nat) : Nat → List Packet → List Packet
  | _, [] => []
  | room, p :: ps =>
    if portToward s p = fp ∧ packetBytes p ≤ room then dropFlit s fp (room - packetBytes p) ps else p :: dropFlit s fp room ps

/-- A record of a Flezal port (R430): its `ADDR` names no channel. -/
def linkReport (s : State) (fp cls detail : Nat) : Report :=
  { cls, sev := sevCorrected, folio := if fp < 8 then 8 else 9, uclass := 0x0E, uindex := fp, asp := .channel, addr := s.pkg
    synd := zeros 12 ++ bytesOf 4 detail }

/-- FLEZAL_FLIT_ERROR (R416): a retry that succeeds is counted and reported at most once per millisecond; a flit that fails its
retries is dropped with its packets, which no rule picks out (log 2). -/
def execFlezalFlitError (fp : Fin 16) (recovered : Bool) (s : State) : Host.Outcome State Fault Refusal :=
  let n := fp.val
  if recovered then
    let k := (tget s.flitFix n).getD 0 + 1
    if Config.retryReport s.tick then .next (writeRecord { s with flitFix := tset s.flitFix n 0 } (linkReport s n 0x0501 k))
    else .next { s with flitFix := tset s.flitFix n k }
  else
    let i := Config.choice s.tick % (s.outbox.length + 1)
    .next { s with
      linkDrops := tset s.linkDrops n ((tget s.linkDrops n).getD 0 + 1)
      outbox := s.outbox.take i ++ dropFlit s n 240 (s.outbox.drop i) }

/-- FLEZAL_LINK_DOWN (R416): after 64 dropped flits the link is down, and the packets queued for it go. -/
def execFlezalLinkDown (fp : Fin 16) (s : State) : Host.Outcome State Fault Refusal :=
  let n := fp.val
  let k := (tget s.linkDrops n).getD 0
  if k < 64 ∨ s.linkDown.contains n then idle s
  else .next (writeRecord { s with
    linkDown := n :: s.linkDown
    linkDrops := tset s.linkDrops n 0
    outbox := s.outbox.filter fun p => portToward s p != n } (linkReport s n 0x0502 k))

/-- PACKET_AGE_DISCARD (R417): a queued packet that has waited too long. -/
def execPacketAgeDiscard (queued : Nat) (s : State) : Host.Outcome State Fault Refusal :=
  .next { s with outbox := s.outbox.eraseIdx queued }

/-- TRANSIT_PACKET_ARRIVAL (R320): a packet for another package is forwarded. -/
def execTransitPacketArrival (p : Packet) (s : State) : Host.Outcome State Fault Refusal :=
  if p.dst.toNat = s.pkg then idle s else .next (queuePacket s p)

/-- PACKAGE_LOST (R428): every channel to or from a package breaks at this end. -/
def execPackageLost (pkg : Byte) (s : State) : Host.Outcome State Fault Refusal :=
  let q := pkg.toNat
  let s := s.senders.foldl (fun s (e : Nat × Sender) => if e.2.dst = q then breakSender s e.1 3 else s) s
  let s := s.receivers.foldl (fun s r => if r.2.src = q then breakReceiver s r.1 3 else s) s
  .next (writeRecord s { cls := 0x0520, sev := sevTask, folio := 8, uclass := 0x0F, asp := .channel, addr := s.pkg + q * 256
                         synd := zeros 12 ++ bytesOf 4 q })

/-- CHANNEL_ALLOCATE (R322, R427): an entry starts afresh, at the sender with its context's channel-table entry. -/
def execChannelAllocate (spec : ChannelSpec) (s : State) : Host.Outcome State Fault Refusal :=
  match spec with
  | .sender entry ctx index dst isImplicit =>
    let w := dst.toNat * 2 ^ 20 + entry % 4096 + 2 ^ 28 + natOfBool isImplicit * 2 ^ 29
    let s := { s with senders := tset s.senders (entry % 4096) { ctx := ctx.toNat, index := index.toNat, dst := dst.toNat } }
    .next (s.modContext ctx.toNat fun c => { c with channels := tset c.channels index.toNat w })
  | .receiver entry src ctx index =>
    .next { s with receivers := tset s.receivers (entry % 4096) { src := src.toNat, ctx := ctx.toNat, index := index.toNat } }

end Sys2Proof.Machine
end

