-- ==== Sys2Proof/Machine/Sfu.lean ====
section
/-!
DEFINITION. The special functions of R110 and R161, correctly rounded under RNE: the argument is exact, the value is
computed to 400 binary places with 40 of them as guard, and it is never exactly representable on that path.
-/

namespace Sys2Proof.Machine

/-- The nine functions of Table 10 of R131. -/
inductive Sfu where
  | rcp | rsq | sqrt | exp2 | log2 | tanh | sigm | sinp | cosp
deriving DecidableEq, Repr

/-- One, in fixed point of 400 binary places. -/
def fixOne : Nat := 2 ^ 400
/-- ln 2 and pi to 400 binary places. -/
def fixLn2 : Nat := 0xb17217f7d1cf79abc9e3b39803f2f6af40f343267298b62d8a0d175b8baafa2be7b876206debac98559552fb4afa1b10ed2e
def fixPi : Nat := 0x3243f6a8885a308d313198a2e03707344a4093822299f31d0082efa98ec4e6c89452821e638d01377be5466cf34e90c6cc0ac

/-- The square root of n, rounded down: bits of the root from bit k - 1 down. -/
def isqrtFrom : Nat → Nat → Nat → Nat
  | 0, _, r => r
  | k + 1, n, r => if (r + 2 ^ k) * (r + 2 ^ k) ≤ n then isqrtFrom k n (r + 2 ^ k) else isqrtFrom k n r
def isqrt (n : Nat) : Nat := isqrtFrom (n.log2 / 2 + 1) n 0

/-- Terms of the series of exp at y, from term k. -/
def expSeries : Nat → Nat → Nat → Nat → Nat
  | 0, _, _, _ => 0
  | n + 1, k, y, term => term + expSeries n (k + 1) y (term * y / fixOne / (k + 1))
/-- Terms of the alternating series of sin, from the power k, for the square y2 of the argument. -/
def sinSeries : Nat → Nat → Nat → Nat → Nat
  | 0, _, _, _ => 0
  | n + 1, k, y2, term => term - sinSeries n (k + 2) y2 (term * y2 / fixOne / ((k + 1) * (k + 2)))
/-- Terms of the series of artanh, from the power k, for the square z2 of the argument. -/
def artanhSeries : Nat → Nat → Nat → Nat → Nat
  | 0, _, _, _ => 0
  | n + 1, k, z2, zp => zp / k + artanhSeries n (k + 2) z2 (zp * z2 / fixOne)

/-- 2 to a fraction in [0, 1). -/
def exp2Frac (f : Nat) : Nat := expSeries 90 0 (f * fixLn2 / fixOne) fixOne
/-- The base-2 logarithm of y in [1, 2). -/
def log2Frac (y : Nat) : Nat :=
  let z := (y - fixOne) * fixOne / (y + fixOne)
  2 * artanhSeries 140 1 (z * z / fixOne) z * fixOne / fixLn2
/-- e to the power -t. -/
def expNeg (t : Nat) : Nat :=
  let u := t * fixOne / fixLn2
  let k := u / fixOne
  let f := u % fixOne
  if f = 0 then fixOne / 2 ^ k else exp2Frac (fixOne - f) / 2 ^ (k + 1)
/-- sin(pi r) for r in [0, 1/2]. -/
def sinFrac (r : Nat) : Nat :=
  let y := r * fixPi / fixOne
  sinSeries 70 1 (y * y / fixOne) y

/-- Rounding of an exact magnitude, or of one that `sticky` places strictly above. -/
def roundEx (env : FEnv) (neg : Bool) (mant : Nat) (exp : Int) (sticky : Bool) : Nat × Flags6 :=
  roundTo { env with rm := .rne } .f32 ⟨neg, mant, exp, sticky⟩ false 0
/-- Rounding of an irrational magnitude given to 400 places. -/
def roundFix (env : FEnv) (neg : Bool) (mag : Nat) : Nat × Flags6 := roundEx env neg (mag / 2 ^ 40) (-360) true

/-- m · 2^e to 400 places; `e` is at least -400 wherever it is used. -/
def toFix (m : Nat) (e : Int) : Nat := m * 2 ^ (e + 400).toNat

/-- An F32 code of a sign with a magnitude. -/
def signed32 (neg : Bool) (mag : Nat) : Nat := (if neg then 2 ^ 31 else 0) + mag

/-- sin(pi x) of x in units of 2^-400; `z0` is the code of a zero result. -/
def sinPiFix (env : FEnv) (neg : Bool) (x z0 : Nat) : Nat × Flags6 :=
  let y := x % (2 * fixOne)
  let n := neg != decide (fixOne ≤ y)
  let z := y % fixOne
  if z = 0 then (z0, 0)
  else if 2 * z = fixOne then (signed32 n 0x3F800000, 0)
  else roundFix env n (sinFrac (if 2 * z < fixOne then z else fixOne - z))

/-- `EXP2` of a nonzero argument (Table 8). -/
def exp2Fin (env : FEnv) (neg : Bool) (m : Nat) (e : Int) : Nat × Flags6 :=
  let top : Int := (m.log2 : Int) + e
  if 7 ≤ top ∧ !neg then (0x7F800000, flOF ||| flNX)
  else if neg ∧ (8 ≤ top ∨ 150 * fixOne < toFix m e) then (0, flUF ||| flNX)
  else
    let x := toFix m e
    let fl : Nat := x / fixOne
    if x % fixOne = 0 then roundEx env false 1 (if neg then -(fl : Int) else fl) false
    else if neg then roundEx env false (exp2Frac (fixOne - x % fixOne) / 2 ^ 40) (-360 - (fl : Int) - 1) true
    else roundEx env false (exp2Frac (x % fixOne) / 2 ^ 40) (-360 + (fl : Int)) true

/-- `LOG2` of a positive argument. -/
def log2Fin (env : FEnv) (m : Nat) (e : Int) : Nat × Flags6 :=
  let k := m.log2
  let n : Int := (k : Int) + e
  if m = 2 ^ k then (if n = 0 then (0, 0) else roundEx env (decide (n < 0)) n.natAbs 0 false)
  else
    let fr := log2Frac (m * 2 ^ (400 - k))
    if 0 ≤ n then roundFix env false (n.toNat * fixOne + fr) else roundFix env true (n.natAbs * fixOne - fr)

/-- A square root or its reciprocal, of a positive argument. -/
def rootFin (env : FEnv) (recip : Bool) (m : Nat) (e : Int) : Nat × Flags6 :=
  let (m, e) := if e % 2 = 0 then (m, e) else (2 * m, e - 1)
  if recip then
    let r := isqrt (2 ^ 160 / m)
    roundEx env false r (-80 - e / 2) (r * r * m != 2 ^ 160)
  else
    let r := isqrt (m * 2 ^ 80)
    roundEx env false r (e / 2 - 40) (r * r != m * 2 ^ 80)

/-- A special function of a nonzero finite argument. -/
def sfuFin (env : FEnv) (f : Sfu) (neg : Bool) (m : Nat) (e : Int) : Nat × Flags6 :=
  let top : Int := (m.log2 : Int) + e
  match f with
  | .rcp => roundEx env neg (2 ^ 100 / m) (-100 - e) (2 ^ 100 % m != 0)
  | .rsq => if neg then (0x7FC00000, flNV) else rootFin env true m e
  | .sqrt => if neg then (0x7FC00000, flNV) else rootFin env false m e
  | .exp2 => exp2Fin env neg m e
  | .log2 => if neg then (0x7FC00000, flNV) else log2Fin env m e
  | .tanh =>
    if 7 ≤ top then roundEx env neg (2 ^ 100 - 1) (-100) true
    else if top < -40 then roundEx env neg (m * 2 ^ 40 - 1) (e - 40) true
    else
      let t := expNeg (2 * toFix m e)
      roundFix env neg ((fixOne - t) * fixOne / (fixOne + t))
  | .sigm =>
    if 7 ≤ top then (if neg then roundEx env false 0 (-180) true else roundEx env false (2 ^ 100 - 1) (-100) true)
    else
      let t := expNeg (toFix m e)
      roundFix env false (if neg then t * fixOne / (fixOne + t) else fixOne * fixOne / (fixOne + t))
  | .sinp => if 0 ≤ e then (signed32 neg 0, 0) else sinPiFix env neg (toFix m e) (signed32 neg 0)
  | .cosp =>
    if 0 ≤ e then (if e = 0 ∧ m % 2 = 1 then 0xBF800000 else 0x3F800000, 0)
    else sinPiFix env false (toFix m e + fixOne / 2) 0

/-- A special function of a zero (Table 8 of R110). -/
def sfuZero (f : Sfu) (neg : Bool) : Nat × Flags6 :=
  match f with
  | .rcp | .rsq => (fmtInf .f32 neg, flDZ)
  | .log2 => (0xFF800000, flDZ)
  | .sqrt | .tanh | .sinp => (signed32 neg 0, 0)
  | .exp2 | .cosp => (0x3F800000, 0)
  | .sigm => (0x3F000000, 0)

/-- A special function of an infinity (Table 8 of R110). -/
def sfuInf (f : Sfu) (neg : Bool) : Nat × Flags6 :=
  match f, neg with
  | .rcp, _ => (signed32 neg 0, 0)
  | .rsq, false | .exp2, true => (0, 0)
  | .sqrt, false | .log2, false | .exp2, false => (0x7F800000, 0)
  | .tanh, _ => (signed32 neg 0x3F800000, 0)
  | .sigm, _ => (if neg then 0 else 0x3F800000, 0)
  | _, _ => (0x7FC00000, flNV)

/-- An SFU function of an F32 code (R110, R161). -/
def sfuOf (env : FEnv) (f : Sfu) (code : Nat) : Nat × Flags6 :=
  match readF env .f32 code with
  | (.nan _, fl) => (0x7FC00000, fl)
  | (.inf n, _) => sfuInf f n
  | (.fin n m e, _) => if m = 0 then sfuZero f n else sfuFin env f n m e

end Sys2Proof.Machine
end

