-- ==== Sys2Proof/Machine/Floating.lean ====
section
/-!
DEFINITION. Row 0x30: scalar and packed floating point, conversions, special functions, scaled conversions (R156 to R164).
-/

namespace Sys2Proof.Machine

/-- Lane i of a register at width w (R156). -/
def laneOf (w i : Nat) (v : Word) : Nat := v.toNat / 2 ^ (w * i) % 2 ^ w

/-- The lanes of an instruction: one, or all that 64 bits hold under `PK` (R156). -/
def laneCount (w : Nat) (pk : Bool) : Nat := if pk then 64 / w else 1

/-- Lanes put together, lane i in bits [w·i + w - 1 : w·i]. -/
def joinLanes (w : Nat) (xs : List Nat) : Word :=
  wordOfNat (((upTo xs.length).map fun i => xs.getD i 0 * 2 ^ (w * i)).foldl (· + ·) 0)

/-- The flags of all lanes, ORed. -/
def joinFlags (xs : List Flags6) : Flags6 := xs.foldl (· ||| ·) 0

/-- A lane-wise result: lane i from its number (R156). -/
def laneWise (fmt : FloatFmt) (pk : Bool) (fn : Nat → Nat × Flags6) : Word × Flags6 :=
  let w := fmtWidth (floatData fmt)
  let rs := (upTo (laneCount w pk)).map fn
  (joinLanes w (rs.map (·.1)), joinFlags (rs.map (·.2)))

/-- An instruction that delivers a value to its targets and raises flags (R90). -/
def flagOp (f : Form) (s : State) (v : State → CoreId → Nat → Word → Word → Word → Word × Flags6) :
    Host.Outcome State Fault Refusal :=
  perform f s fun s c i l r t =>
    let x := v s c i l r t
    deliver2 (raiseFlags s c x.2) c i f.ta f.tb (some x.1) (some x.1)

/-- `FADD`, `FSUB`, `FMUL` and `FMA` (R157). -/
def fopRow (f : Form) (op : FOp) (fmt : FloatFmt) (rm : Rm) (pk sat : Bool) (s : State) :
    Host.Outcome State Fault Refusal :=
  flagOp f s fun s c i l r t =>
    let w := fmtWidth (floatData fmt)
    laneWise fmt pk fun k =>
      fopLane (scalarEnv s c i rm) (floatData fmt) op sat k (laneOf w k l) (laneOf w k r) (laneOf w k t)

/-- `FADD` (R157). -/
def execFadd (fmt : FloatFmt) (rm : Rm) (pk sat : Bool) (tb ta : Target) (s : State) :
    Host.Outcome State Fault Refusal :=
  fopRow (formOf (.fadd fmt rm pk sat tb ta)) .add fmt rm pk sat s
/-- `FSUB` (R157). -/
def execFsub (fmt : FloatFmt) (rm : Rm) (pk sat : Bool) (tb ta : Target) (s : State) :
    Host.Outcome State Fault Refusal :=
  fopRow (formOf (.fsub fmt rm pk sat tb ta)) .sub fmt rm pk sat s
/-- `FMUL` (R157). -/
def execFmul (fmt : FloatFmt) (rm : Rm) (pk sat : Bool) (tb ta : Target) (s : State) :
    Host.Outcome State Fault Refusal :=
  fopRow (formOf (.fmul fmt rm pk sat tb ta)) .mul fmt rm pk sat s
/-- `FMA` (R157). -/
def execFma (fmt : FloatFmt) (rm : Rm) (pk sat : Bool) (tb ta : Target) (s : State) :
    Host.Outcome State Fault Refusal :=
  fopRow (formOf (.fma fmt rm pk sat tb ta)) .fma fmt rm pk sat s

/-- `FMIN` and `FMAX` (R158). -/
def fminRow (f : Form) (isMax : Bool) (fmt : FloatFmt) (pk prop : Bool) (s : State) :
    Host.Outcome State Fault Refusal :=
  flagOp f s fun s c i l r _ =>
    let w := fmtWidth (floatData fmt)
    laneWise fmt pk fun k =>
      fminLane (scalarEnv s c i .rne) (floatData fmt) isMax prop (laneOf w k l) (laneOf w k r)

/-- `FMIN` (R158). -/
def execFmin (fmt : FloatFmt) (pk prop : Bool) (tb ta : Target) (s : State) : Host.Outcome State Fault Refusal :=
  fminRow (formOf (.fmin fmt pk prop tb ta)) false fmt pk prop s
/-- `FMAX` (R158). -/
def execFmax (fmt : FloatFmt) (pk prop : Bool) (tb ta : Target) (s : State) : Host.Outcome State Fault Refusal :=
  fminRow (formOf (.fmax fmt pk prop tb ta)) true fmt pk prop s

/-- `FCMP` (R159). -/
def execFcmp (fmt : FloatFmt) (cmp : FCmp) (tb ta : Target) (s : State) : Host.Outcome State Fault Refusal :=
  flagOp (formOf (.fcmp fmt cmp tb ta)) s fun s c i l r _ =>
    let x := fcmpLane (scalarEnv s c i .rne) (floatData fmt) cmp l.toNat r.toNat
    (wordOfNat (natOfBool x.1), x.2)

/-- `FCVT` (R160). -/
def execFcvt (ta : Target) (sat : Bool) (rm : Rm) (dst src : DataFmt) (s : State) : Host.Outcome State Fault Refusal :=
  flagOp (formOf (.fcvt ta sat rm dst src)) s fun s c i l _ _ => fcvt (scalarEnv s c i rm) src dst sat 0 l.toNat

/-- An `FSFU` instruction (R161). -/
def sfuRow (f : Form) (fn : Sfu) (s : State) : Host.Outcome State Fault Refusal :=
  flagOp f s fun s c i l _ _ =>
    let x := sfuOf (scalarEnv s c i .rne) fn (l.toNat % 2 ^ 32)
    (wordOfNat x.1, x.2)

/-- `FSFU_RCP` (R161). -/
def execFsfuRcp (ta : Target) (s : State) : Host.Outcome State Fault Refusal := sfuRow (formOf (.fsfuRcp ta)) .rcp s
/-- `FSFU_RSQ` (R161). -/
def execFsfuRsq (ta : Target) (s : State) : Host.Outcome State Fault Refusal := sfuRow (formOf (.fsfuRsq ta)) .rsq s
/-- `FSFU_SQRT` (R161). -/
def execFsfuSqrt (ta : Target) (s : State) : Host.Outcome State Fault Refusal := sfuRow (formOf (.fsfuSqrt ta)) .sqrt s
/-- `FSFU_EXP2` (R161). -/
def execFsfuExp2 (ta : Target) (s : State) : Host.Outcome State Fault Refusal := sfuRow (formOf (.fsfuExp2 ta)) .exp2 s
/-- `FSFU_LOG2` (R161). -/
def execFsfuLog2 (ta : Target) (s : State) : Host.Outcome State Fault Refusal := sfuRow (formOf (.fsfuLog2 ta)) .log2 s
/-- `FSFU_TANH` (R161). -/
def execFsfuTanh (ta : Target) (s : State) : Host.Outcome State Fault Refusal := sfuRow (formOf (.fsfuTanh ta)) .tanh s
/-- `FSFU_SIGM` (R161). -/
def execFsfuSigm (ta : Target) (s : State) : Host.Outcome State Fault Refusal := sfuRow (formOf (.fsfuSigm ta)) .sigm s
/-- `FSFU_SINP` (R161). -/
def execFsfuSinp (ta : Target) (s : State) : Host.Outcome State Fault Refusal := sfuRow (formOf (.fsfuSinp ta)) .sinp s
/-- `FSFU_COSP` (R161). -/
def execFsfuCosp (ta : Target) (s : State) : Host.Outcome State Fault Refusal := sfuRow (formOf (.fsfuCosp ta)) .cosp s

/-- `FCLASS` (R162): the code as it stands, no flag. -/
def execFclass (fmt : FloatFmt) (tb ta : Target) (s : State) : Host.Outcome State Fault Refusal :=
  valueOp (formOf (.fclass fmt tb ta)) s fun l _ _ => wordOfNat (fclassMask (floatData fmt) l.toNat)

/-- `QSCALE` (R105, R163). -/
def execQscale (ta : Target) (amax : QFmt) (elem : ElemFmt) (s : State) : Host.Outcome State Fault Refusal :=
  flagOp (formOf (.qscale ta amax elem)) s fun s c i l _ _ =>
    let x := qscaleOf (scalarEnv s c i .rne) (qfmtData amax) elem l.toNat
    (wordOfNat x.1, x.2)

/-- The element format of an operand R of `QCVT` and `QDEQ` (R163). -/
def elemOf (r : Word) : ElemFmt := (ElemFmt.ofCode (bits r.toNat 10 8)).getD .e4m3

/-- The limit on R of `QCVT` and `QDEQ` (R376). -/
def qOperandOk (r : Word) : Bool := r.toNat < 2048 && bits r.toNat 10 8 ≤ 4

/-- `QCVT` and `QDEQ` (R106, R107, R163). -/
def quantRow (f : Form) (fn : FEnv → ElemFmt → Nat → Nat → Nat × Flags6) (rm : Rm) (s : State) :
    Host.Outcome State Fault Refusal :=
  perform f s fun s c i l r _ => limit s c i (qOperandOk r) 1 fun s =>
    let x := fn (scalarEnv s c i rm) (elemOf r) (r.toNat % 256) l.toNat
    deliver2 (raiseFlags s c x.2) c i f.ta f.tb (some (wordOfNat x.1)) (some (wordOfNat x.1))

/-- `QCVT` (R106, R163). -/
def execQcvt (fmt : QFmt) (rm : Rm) (sat : Bool) (tb ta : Target) (s : State) : Host.Outcome State Fault Refusal :=
  quantRow (formOf (.qcvt fmt rm sat tb ta)) (fun e el sc x => qcvtOf e (qfmtData fmt) el sc sat 0 x) rm s

/-- `QDEQ` (R107, R163). -/
def execQdeq (fmt : QFmt) (rm : Rm) (sat : Bool) (tb ta : Target) (s : State) : Host.Outcome State Fault Refusal :=
  quantRow (formOf (.qdeq fmt rm sat tb ta)) (fun e el sc x => qdeqOf e (qfmtData fmt) el sc sat 0 x) rm s

/-- The code of L at the width of a format, and its bits below the sign. -/
def codeIn (fmt : FloatFmt) (l : Word) : Nat := l.toNat % 2 ^ fmtWidth (floatData fmt)
def signWeight (fmt : FloatFmt) : Nat := 2 ^ (fmtWidth (floatData fmt) - 1)

/-- `FSGN_ABS` (R164). -/
def execFsgnAbs (fmt : FloatFmt) (tb ta : Target) (s : State) : Host.Outcome State Fault Refusal :=
  valueOp (formOf (.fsgnAbs fmt tb ta)) s fun l _ _ => wordOfNat (codeIn fmt l % signWeight fmt)
/-- `FSGN_NEG` (R164). -/
def execFsgnNeg (fmt : FloatFmt) (tb ta : Target) (s : State) : Host.Outcome State Fault Refusal :=
  valueOp (formOf (.fsgnNeg fmt tb ta)) s fun l _ _ => wordOfNat (codeIn fmt l ^^^ signWeight fmt)
/-- `FSGN_COPYSIGN` (R164). -/
def execFsgnCopysign (fmt : FloatFmt) (tb ta : Target) (s : State) : Host.Outcome State Fault Refusal :=
  valueOp (formOf (.fsgnCopysign fmt tb ta)) s fun l r _ =>
    wordOfNat (codeIn fmt l % signWeight fmt + codeIn fmt r / signWeight fmt * signWeight fmt)

end Sys2Proof.Machine
end

