-- ==== Sys2Proof/Machine/Integer.lean ====
section
/-!
DEFINITION. Rows 0x10 and 0x20: integer arithmetic, comparison, bit fields and immediates (R148 to R155).
-/

namespace Sys2Proof.Machine

/-- Bits of an integer width (R130). -/
def widthOf : IntWidth → Nat
  | .w64 => 64 | .w32 => 32 | .w16 => 16 | .w8 => 8

/-- An operand at a width and signedness (R149). -/
def intIn (n : Nat) (sgn : Bool) (v : Word) : Int := if sgn then signExtend v.toNat n else (v.toNat % 2 ^ n : Nat)

/-- The final extension of R149: x taken modulo 2^n, extended. -/
def intOut (n : Nat) (sgn : Bool) (x : Int) : Word :=
  let m := (x % (2 ^ n : Nat)).toNat
  if sgn then wordOfInt (signExtend m n) else wordOfNat m

/-- The operations of Table 4 of R149. -/
inductive IOp where
  | add | sub | mul | mulh | div | rem | and | or | xor | andn | shl | shr | sar | rot | min | max
deriving DecidableEq, Repr

/-- The n-bit code of an operand, for the bitwise operations. -/
def codeOf (n : Nat) (x : Int) : Nat := (x % (2 ^ n : Nat)).toNat

/-- x of Table 4 (R149), at width n, of the operands a and b, with the shift count c. -/
def intX (op : IOp) (n : Nat) (a b : Int) (c : Nat) : Int :=
  let p : Nat := 2 ^ n
  match op with
  | .add => a + b
  | .sub => a - b
  | .mul => a * b
  | .mulh => a * b / (p : Int)
  | .div => if b = 0 then (p : Int) - 1 else a.tdiv b
  | .rem => if b = 0 then a else a.tmod b
  | .and => ((codeOf n a &&& codeOf n b : Nat) : Int)
  | .or => ((codeOf n a ||| codeOf n b : Nat) : Int)
  | .xor => ((codeOf n a ^^^ codeOf n b : Nat) : Int)
  | .andn => ((codeOf n a &&& (p - 1 - codeOf n b) : Nat) : Int)
  | .shl => a * (2 ^ c : Nat)
  | .shr => ((codeOf n a / 2 ^ c : Nat) : Int)
  | .sar => signExtend (codeOf n a) n / (2 ^ c : Nat)
  | .rot => ((codeOf n a * 2 ^ c % p + codeOf n a * 2 ^ c / p : Nat) : Int)
  | .min => if a ≤ b then a else b
  | .max => if a ≤ b then b else a

/-- Row 0x10 (R149): the result and the flags of `SAT`. -/
def intOp (op : IOp) (width : IntWidth) (sgn sat : Bool) (l r : Word) : Word × Flags6 :=
  let n := widthOf width
  let x := intX op n (intIn n sgn l) (intIn n sgn r) (r.toNat % 64 % n)
  let lo : Int := if sgn then -(2 ^ (n - 1) : Nat) else 0
  let hi : Int := if sgn then (2 ^ (n - 1) : Nat) - 1 else (2 ^ n : Nat) - 1
  if sat ∧ x < lo then (intOut n sgn lo, flSAT)
  else if sat ∧ hi < x then (intOut n sgn hi, flSAT)
  else (intOut n sgn x, 0)

/-- A row 0x10 instruction: the flags enter with the commit (R90). -/
def intRow (f : Form) (op : IOp) (width : IntWidth) (sgn sat : Bool) (s : State) : Host.Outcome State Fault Refusal :=
  perform f s fun s c i l r _ =>
    let v := intOp op width sgn sat l r
    deliver2 (raiseFlags s c v.2) c i f.ta f.tb (some v.1) (some v.1)

/-- `ADD` (R149). -/
def execAdd (width : IntWidth) (sgn sat : Bool) (tb ta : Target) (s : State) :
    Host.Outcome State Fault Refusal :=
  intRow (formOf (.add width sgn sat tb ta)) .add width sgn sat s
/-- `SUB` (R149). -/
def execSub (width : IntWidth) (sgn sat : Bool) (tb ta : Target) (s : State) :
    Host.Outcome State Fault Refusal :=
  intRow (formOf (.sub width sgn sat tb ta)) .sub width sgn sat s
/-- `MUL` (R149). -/
def execMul (width : IntWidth) (sgn sat : Bool) (tb ta : Target) (s : State) :
    Host.Outcome State Fault Refusal :=
  intRow (formOf (.mul width sgn sat tb ta)) .mul width sgn sat s
/-- `MULH` (R149). -/
def execMulh (width : IntWidth) (sgn : Bool) (tb ta : Target) (s : State) : Host.Outcome State Fault Refusal :=
  intRow (formOf (.mulh width sgn tb ta)) .mulh width sgn false s
/-- `DIV` (R149). -/
def execDiv (width : IntWidth) (sgn : Bool) (tb ta : Target) (s : State) : Host.Outcome State Fault Refusal :=
  intRow (formOf (.div width sgn tb ta)) .div width sgn false s
/-- `REM` (R149). -/
def execRem (width : IntWidth) (sgn : Bool) (tb ta : Target) (s : State) : Host.Outcome State Fault Refusal :=
  intRow (formOf (.rem width sgn tb ta)) .rem width sgn false s
/-- `AND` (R149). -/
def execAnd (width : IntWidth) (sgn : Bool) (tb ta : Target) (s : State) : Host.Outcome State Fault Refusal :=
  intRow (formOf (.and width sgn tb ta)) .and width sgn false s
/-- `OR` (R149). -/
def execOr (width : IntWidth) (sgn : Bool) (tb ta : Target) (s : State) : Host.Outcome State Fault Refusal :=
  intRow (formOf (.or width sgn tb ta)) .or width sgn false s
/-- `XOR` (R149). -/
def execXor (width : IntWidth) (sgn : Bool) (tb ta : Target) (s : State) : Host.Outcome State Fault Refusal :=
  intRow (formOf (.xor width sgn tb ta)) .xor width sgn false s
/-- `ANDN` (R149). -/
def execAndn (width : IntWidth) (sgn : Bool) (tb ta : Target) (s : State) : Host.Outcome State Fault Refusal :=
  intRow (formOf (.andn width sgn tb ta)) .andn width sgn false s
/-- `SHL` (R149). -/
def execShl (width : IntWidth) (sgn : Bool) (tb ta : Target) (s : State) : Host.Outcome State Fault Refusal :=
  intRow (formOf (.shl width sgn tb ta)) .shl width sgn false s
/-- `SHR` (R149). -/
def execShr (width : IntWidth) (sgn : Bool) (tb ta : Target) (s : State) : Host.Outcome State Fault Refusal :=
  intRow (formOf (.shr width sgn tb ta)) .shr width sgn false s
/-- `SAR` (R149). -/
def execSar (width : IntWidth) (sgn : Bool) (tb ta : Target) (s : State) : Host.Outcome State Fault Refusal :=
  intRow (formOf (.sar width sgn tb ta)) .sar width sgn false s
/-- `ROT` (R149). -/
def execRot (width : IntWidth) (sgn : Bool) (tb ta : Target) (s : State) : Host.Outcome State Fault Refusal :=
  intRow (formOf (.rot width sgn tb ta)) .rot width sgn false s
/-- `MIN` (R149). -/
def execMin (width : IntWidth) (sgn : Bool) (tb ta : Target) (s : State) : Host.Outcome State Fault Refusal :=
  intRow (formOf (.min width sgn tb ta)) .min width sgn false s
/-- `MAX` (R149). -/
def execMax (width : IntWidth) (sgn : Bool) (tb ta : Target) (s : State) : Host.Outcome State Fault Refusal :=
  intRow (formOf (.max width sgn tb ta)) .max width sgn false s

/-- A comparison of R150. -/
def cmpHolds (cc : ICmp) (a b : Int) : Bool :=
  match cc with
  | .eq => a == b
  | .ne => a != b
  | .lt => decide (a < b)
  | .le => decide (a ≤ b)
  | .gt => decide (b < a)
  | .ge => decide (b ≤ a)

/-- `CMP` (R150). -/
def execCmp (width : IntWidth) (sgn : Bool) (cmp : ICmp) (tb ta : Target) (s : State) :
    Host.Outcome State Fault Refusal :=
  valueOp (formOf (.cmp width sgn cmp tb ta)) s fun l r _ =>
    wordOfNat (natOfBool (cmpHolds cmp (intIn (widthOf width) sgn l) (intIn (widthOf width) sgn r)))

/-- `CMPI` (R150). -/
def execCmpi (ta : Target) (sgn : Bool) (cmp : ICmp) (imm : BitVec 12) (s : State) : Host.Outcome State Fault Refusal :=
  valueOp (formOf (.cmpi ta sgn cmp imm)) s fun l _ _ =>
    wordOfNat (natOfBool (cmpHolds cmp (intIn 64 sgn l) (intIn 64 sgn (imm.signExtend 64))))

/-- `SEL` (R151). -/
def execSel (tb ta : Target) (s : State) : Host.Outcome State Fault Refusal :=
  valueOp (formOf (.sel tb ta)) s fun l r t => if testBit t.toNat 0 then l else r

/-- Number of 1 bits among the n low bits. -/
def popCount (n x : Nat) : Nat := ((upTo n).filter fun i => testBit x i).length
/-- Number of 0 bits above the highest 1 bit (R152). -/
def leadZeros (n x : Nat) : Nat := if x = 0 then n else n - 1 - x.log2
/-- Number of 0 bits below the lowest 1 bit (R152). -/
def trailZeros (n x : Nat) : Nat := ((upTo n).find? fun i => testBit x i).getD n
/-- Bit i moved to bit n - 1 - i (R152). -/
def bitReverse (n x : Nat) : Nat :=
  ((upTo n).map fun i => if testBit x i then 2 ^ (n - 1 - i) else 0).foldl (· + ·) 0
/-- Byte j moved to byte n/8 - 1 - j (R152). -/
def byteSwap (n x : Nat) : Nat := natOfBytes (bytesOf (n / 8) x).reverse

/-- A `BITC` instruction (R152): a function of the zero-extended L. -/
def bitcRow (f : Form) (width : IntWidth) (fn : Nat → Nat → Nat) (s : State) : Host.Outcome State Fault Refusal :=
  valueOp f s fun l _ _ => wordOfNat (fn (widthOf width) (l.toNat % 2 ^ widthOf width))

/-- `BITC_POPC` (R152). -/
def execBitcPopc (width : IntWidth) (tb ta : Target) (s : State) : Host.Outcome State Fault Refusal :=
  bitcRow (formOf (.bitcPopc width tb ta)) width popCount s
/-- `BITC_CLZ` (R152). -/
def execBitcClz (width : IntWidth) (tb ta : Target) (s : State) : Host.Outcome State Fault Refusal :=
  bitcRow (formOf (.bitcClz width tb ta)) width leadZeros s
/-- `BITC_CTZ` (R152). -/
def execBitcCtz (width : IntWidth) (tb ta : Target) (s : State) : Host.Outcome State Fault Refusal :=
  bitcRow (formOf (.bitcCtz width tb ta)) width trailZeros s
/-- `BITC_BREV` (R152). -/
def execBitcBrev (width : IntWidth) (tb ta : Target) (s : State) : Host.Outcome State Fault Refusal :=
  bitcRow (formOf (.bitcBrev width tb ta)) width bitReverse s
/-- `BITC_BSWAP` (R152). -/
def execBitcBswap (width : IntWidth) (tb ta : Target) (s : State) : Host.Outcome State Fault Refusal :=
  bitcRow (formOf (.bitcBswap width tb ta)) width byteSwap s

/-- The field that `BFX` extracts (R153). -/
def bfxOf (sgn : Bool) (lo len : Nat) (l : Word) : Word :=
  let f := l.toNat / 2 ^ lo % 2 ^ len
  if sgn then wordOfInt (signExtend f len) else wordOfNat f

/-- `BFX` (R153). -/
def execBfx (ta : Target) (sgn : Bool) (lenM1 lo : BitVec 6) (s : State) : Host.Outcome State Fault Refusal :=
  valueOp (formOf (.bfx ta sgn lenM1 lo)) s fun l _ _ => bfxOf sgn lo.toNat (lenM1.toNat + 1) l

/-- The result of `BFI` (R153). -/
def bfiOf (l r t : Word) : Word :=
  let lo := t.toNat % 64
  let m := wordOfNat ((2 ^ (bits t.toNat 11 6 + 1) - 1) * 2 ^ lo)
  (l &&& ~~~m) ||| (r <<< lo &&& m)

/-- `BFI` (R153). -/
def execBfi (tb ta : Target) (s : State) : Host.Outcome State Fault Refusal :=
  valueOp (formOf (.bfi tb ta)) s bfiOf

/-- `LEA` (R154). -/
def execLea (sh : BitVec 3) (tb ta : Target) (s : State) : Host.Outcome State Fault Refusal :=
  valueOp (formOf (.lea sh tb ta)) s fun l r _ => l + r <<< sh.toNat

/-- `ADDI` (R154). -/
def execAddi (ta : Target) (imm : BitVec 16) (s : State) : Host.Outcome State Fault Refusal :=
  valueOp (formOf (.addi ta imm)) s fun l _ _ => l + imm.signExtend 64
/-- `ANDI` (R154). -/
def execAndi (ta : Target) (imm : BitVec 16) (s : State) : Host.Outcome State Fault Refusal :=
  valueOp (formOf (.andi ta imm)) s fun l _ _ => l &&& imm.signExtend 64
/-- `ORI` (R154). -/
def execOri (ta : Target) (imm : BitVec 16) (s : State) : Host.Outcome State Fault Refusal :=
  valueOp (formOf (.ori ta imm)) s fun l _ _ => l ||| imm.setWidth 64
/-- `XORI` (R154). -/
def execXori (ta : Target) (imm : BitVec 16) (s : State) : Host.Outcome State Fault Refusal :=
  valueOp (formOf (.xori ta imm)) s fun l _ _ => l ^^^ imm.setWidth 64
/-- `MULI` (R154). -/
def execMuli (ta : Target) (imm : BitVec 16) (s : State) : Host.Outcome State Fault Refusal :=
  valueOp (formOf (.muli ta imm)) s fun l _ _ => l * imm.signExtend 64

/-- `SHFI_SHL` (R154). -/
def execShfiShl (ta : Target) (cnt : BitVec 6) (s : State) : Host.Outcome State Fault Refusal :=
  valueOp (formOf (.shfiShl ta cnt)) s fun l _ _ => (intOp .shl .w64 false false l (cnt.setWidth 64)).1
/-- `SHFI_SHR` (R154). -/
def execShfiShr (ta : Target) (cnt : BitVec 6) (s : State) : Host.Outcome State Fault Refusal :=
  valueOp (formOf (.shfiShr ta cnt)) s fun l _ _ => (intOp .shr .w64 false false l (cnt.setWidth 64)).1
/-- `SHFI_SAR` (R154). -/
def execShfiSar (ta : Target) (cnt : BitVec 6) (s : State) : Host.Outcome State Fault Refusal :=
  valueOp (formOf (.shfiSar ta cnt)) s fun l _ _ => (intOp .sar .w64 false false l (cnt.setWidth 64)).1
/-- `SHFI_ROT` (R154). -/
def execShfiRot (ta : Target) (cnt : BitVec 6) (s : State) : Host.Outcome State Fault Refusal :=
  valueOp (formOf (.shfiRot ta cnt)) s fun l _ _ => (intOp .rot .w64 false false l (cnt.setWidth 64)).1

/-- Sum of `ADC` before it is split (R155). -/
def adcSum (n : Nat) (l r t : Word) : Nat := l.toNat % 2 ^ n + r.toNat % 2 ^ n + t.toNat % 2

/-- `ADC` (R155). -/
def execAdc (width : IntWidth) (tb ta : Target) (s : State) : Host.Outcome State Fault Refusal :=
  perform (formOf (.adc width tb ta)) s fun s c i l r t =>
    let n := widthOf width
    let x := adcSum n l r t
    deliver2 s c i ta tb (some (wordOfNat (x % 2 ^ n))) (some (wordOfNat (x / 2 ^ n)))

end Sys2Proof.Machine
end

