-- ==== Sys2Proof/Machine/Streams.lean ====
section
/-!
DEFINITION. Stream ports of a leaf: tokens and credits (R14, R240), route words (R240, R241, R388), and the instructions of
the block core on its ports (R264 to R267).
-/

namespace Sys2Proof.Machine

/-! ### Taking a token (R14, R235) -/

/-- The sending end of the channel that feeds an input port, when the channel is live. -/
def feeder (s : State) (n p : Nat) : Option (Nat × Nat) :=
  let w := (s.leaf n).routes.getD p 0
  match ((s.leaf n).gath.bind s.gath).bind fun g => g.leafAt (rtPx w) (rtPy w) with
  | some m => if rtEn w ∧ liveChannel s m (rtPort w) = some (n, p) then some (m, rtPort w) else none
  | none => none

/-- A credit of an input port leaves for its sender (R14). -/
def sendCredit (s : State) (n p : Nat) : State :=
  match feeder s n p with
  | some (m, q) => s.modLeaf m fun l => { l with outputs := lmod l.outputs q fun o => { o with credits := o.credits + 1 } }
  | none => s

/-- The head of an input port. -/
def headOf (s : State) (n p : Nat) : Option Token := ((s.leaf n).inputs.getD p {}).held.head?

/-- An input port after its head is removed. -/
def popPort (slots : Nat) (i : InPort) : InPort :=
  { i with
    held := i.held.drop 1
    flaw := none
    head := (i.head + 1) % max 1 slots
    dseen := i.dseen || (i.held.head?.map fun t => t.kind == TokKind.done).getD false }

/-- `SYND` of area 0x02. -/
def streamSynd (portw tok expect detail : Nat) : List Byte :=
  bytesOf 4 portw ++ bytesOf 4 tok ++ bytesOf 4 expect ++ bytesOf 4 detail

/-- `PORTW` of a port of a leaf: its number, its unit, and the unit's `MODE`, 0xFF for the vector pipeline, 0 for the block core. -/
def portWord (l : Leaf) (p u : Nat) : Nat :=
  p + u * 16 + 256 * (match u with
    | 0 => 0
    | 1 => field l.f0.record 0 1
    | 2 => field l.f1.record 0 1
    | _ => 0xFF)

/-- A record that names a gathering and a leaf of it. -/
def namingGath (r : Report) (x : Gathering) (n : Nat) : Report :=
  { r with ctx := some x.ctx, tag := some x.tag, round := x.round % 2 ^ 32, where_ := n % 65536 + 2 ^ 18 }

/-- A record of a slot word of a leaf (R383): the port with the unit of its route, and the token. -/
def slotReport (s : State) (n p slot cls sev : Nat) (t : Token) : Report :=
  let l := s.leaf n
  let u := rtUnit (l.routes.getD p 0)
  { cls, sev, folio := folioOf n, uclass := 1, uindex := n, synd := streamSynd (portWord l p u) t.control 0 slot }

/-- The words of the head's slot are checked as the consumer removes the token (R390): a corrected error is recorded, and one that cannot
be corrected goes to the round controller. -/
def checkHead (s : State) (n p : Nat) : State :=
  let l := s.leaf n
  let q := l.inputs.getD p {}
  match q.flaw, q.held, l.gath.bind s.gath with
  | some ok, t :: _, some x =>
    let w := l.routes.getD p 0
    let slot := slotBase l.routes p + q.head % max 1 (rtCount w)
    let r := namingGath (slotReport s n p slot (if ok then 0x0234 else 0x0235) (if ok then sevCorrected else sevTask) t) x n
    if ok then writeRecord s r else s.modGath (l.gath.getD 0) fun x => { x with queue := x.queue ++ [.lost r] }
  | _, _, _ => s

/-- The head of an input port is removed from its slot, and its credit returns. -/
def dropHead (s : State) (n p : Nat) : State :=
  let slots := rtCount ((s.leaf n).routes.getD p 0)
  sendCredit ((checkHead s n p).modLeaf n fun l => { l with inputs := lmod l.inputs p (popPort slots) }) n p

/-- Every token of an input port is removed. -/
def dropAll (n p : Nat) : Nat → State → State
  | 0, s => s
  | k + 1, s => dropAll n p k (dropHead s n p)

/-! ### Events of a channel (R14, R348) -/

/-- The quire of a leaf can take a token (R348). -/
def quireAwake (s : State) (n : Nat) : Bool :=
  let q := s.quire (quireOf n)
  q.power == .active && !q.waking

/-- TOKEN_DELIVERY (R14, R15): the oldest token in flight from an output port lands in its reserved slot; a gated quire
holds it up and is woken (R348). -/
def execTokenDelivery (leaf : Nat) (port : Fin 8) (s : State) : Host.Outcome State Fault Refusal :=
  if Config.leafCount ≤ leaf then .fault .noSuchUnit
  else match liveChannel s leaf port.val, ((s.leaf leaf).outputs.getD port.val {}).inflight with
    | some (m, q), t :: ts =>
      if !quireAwake s m then .next (s.modQuire (quireOf m) fun x => { x with waking := true })
      else
        let s := s.modLeaf leaf fun l => { l with outputs := lmod l.outputs port.val fun o => { o with inflight := ts } }
        .next (s.modLeaf m fun l => { l with inputs := lmod l.inputs q fun i => { i with held := i.held ++ [t] } })
    | _, _ => idle s

/-- CREDIT_RETURN (R14): a credit reaches the sender, whose waiting sends may go on. -/
def execCreditReturn (leaf : Nat) (port : Fin 8) (s : State) : Host.Outcome State Fault Refusal :=
  if Config.leafCount ≤ leaf then .fault .noSuchUnit
  else if ((s.leaf leaf).outputs.getD port.val {}).credits = 0 then idle s
  else .next (pumpSends (s.modLeaf leaf fun l => { l with outputs := lmod l.outputs port.val fun o =>
      { o with free := o.free + 1, credits := o.credits - 1 } }) leaf)

/-! ### Records of area 0x02 (R383) -/

/-- A record of a unit of a strand's leaf. -/
def leafReport (s : State) (c : CoreId) (cls uclass portw detail : Nat) : Report :=
  { strandReport s c cls sevTask with uclass, synd := streamSynd portw 0 0 detail }

/-! ### Route words (R240, R388) -/

/-- Slot counts of the other enabled input entries of a leaf (R36). -/
def otherSlots (routes : List Word) (p : Nat) : Nat :=
  (((upTo 8).filter fun i => i != p).map fun i => rtCount (routes.getD i 0)).foldl (· + ·) 0

/-- What makes a route word invalid (R388), as `DETAIL` of class 0x0211: ports I0 to I7 as 0 to 7, O0 to O7 as 8 to 15. DESIGN CHOICE
(log 116): `SLOTS` of 17 to 31, which R14 and R240 do not allow and R388 does not list, is accepted, as that many slots. -/
def routeBad (g : Gathering) (routes : List Word) (p : Nat) (w : Word) : Option Nat :=
  if rtEn w ∧ rtSlots w = 0 then some 0
  else if rtEn w ∧ (g.leafAt (rtPx w) (rtPy w)).isNone then some 1
  else if p < 8 ∧ rtEn w ∧ 64 < otherSlots routes p + rtSlots w then some 2
  else if rtEn w ∧ rtSkip w ∧ rtUnit w ≠ 1 ∧ rtUnit w ≠ 2 then some 3
  else if bits w.toNat 63 29 ≠ 0 ∨ testBit w.toNat 19 then some 4
  else none

/-- Number of a stream port (R241). -/
def portNum : StreamPort → Nat
  | .inp p => p.val
  | .out p => 8 + p.val

/-- The port is quiet (R241). -/
def portQuiet (s : State) (n : Nat) : StreamPort → Bool
  | .inp p =>
    ((s.leaf n).inputs.getD p.val {}).held.isEmpty && match feeder s n p.val with
      | some (m, q) => ((s.leaf m).outputs.getD q {}).inflight.isEmpty
      | none => true
  | .out p => ((s.leaf n).outputs.getD p.val {}).free == rtSlots ((s.leaf n).routes.getD (8 + p.val) 0)

/-- A route word is written: the free count of an output port starts at its `SLOTS` (R14), an input port's ring at its
first slot. -/
def setRoute (s : State) (n : Nat) (port : StreamPort) (w : Word) : State :=
  let s := s.modLeaf n fun l => { l with routes := l.routes.set (portNum port) w }
  match port with
  | .out p => pumpSends (s.modLeaf n fun l =>
      { l with outputs := lmod l.outputs p.val fun o => { o with free := rtSlots w } }) n
  | .inp p =>
    let s := s.modLeaf n fun l => { l with inputs := lmod l.inputs p.val fun i => { i with head := 0 } }
    match feeder s n p.val with
    | some (m, _) => pumpSends s m
    | none => s

/-- `RTSET` (R241, R388). -/
def execRtset (port : StreamPort) (tb ta : Target) (s : State) : Host.Outcome State Fault Refusal :=
  perform (formOf (.rtset port tb ta)) s fun s c i l _ _ =>
    match coreLeaf c, (s.gathOf c).bind s.gath with
    | some n, some g =>
      match routeBad g (s.leaf n).routes (portNum port) l with
      | some d => raiseFault s c (leafReport s c 0x0211 1 (portWord (s.leaf n) (portNum port) (rtUnit l)) d) d
      | none =>
        if portQuiet s n port then complete (formOf (.rtset port tb ta)) (setRoute s n port l) c i tok tok else stay s c i
    | _, _ => s

/-! ### `SPUSH` and `SPOP` (R264, R265) -/

/-- The port's entry is enabled and bound to the block core (R375). -/
def coreBound (s : State) (n p : Nat) : Bool :=
  let w := (s.leaf n).routes.getD p 0
  rtEn w && rtUnit w == 0

/-- The kind that `SPUSH` names. -/
def pushKind : PushKind → TokKind
  | .data => .data
  | .stop => .stop
  | .done => .done
  | .empty => .empty
  | .turn => .turn

/-- Mask and level as Table 2 of R231 allows. -/
def pushOk (kind : PushKind) (r : Word) : Bool :=
  let v := r.toNat
  decide (v < 2 ^ 19) && match kind with
    | .data => bits v 18 16 == 0
    | .stop => bits v 15 0 == 0 && decide (bits v 18 16 ≤ 6)
    | _ => v == 0

/-- Lanes of a payload, zero where the mask is clear (R231). -/
def maskLanes (mask : Nat) (bs : List Byte) : List Word32 :=
  (upTo 16).map fun i => if testBit mask i then BitVec.ofNat 32 (field bs (4 * i) 4) else 0

/-- The waiting send of an instruction that sends when it performs. -/
def ownSend (s : State) (c : CoreId) (i p : Nat) : SendReq := ⟨coreIndex c, i, (s.strand c).blkinrnd, p, none⟩

/-- An instruction's send takes its place among the waiting sends of its port, once (R87). -/
def queueSend (s : State) (c : CoreId) (i p : Nat) : State :=
  if (s.slot c i).phase = 0 then
    ((s.modLeaf ((coreLeaf c).getD 0) fun l => { l with sendq := l.sendq ++ [ownSend s c i p] }).modSlot c i fun x =>
      { x with phase := 1 })
  else s

/-- An instruction's token enters its port if the port is its turn and has a free slot (R14, R87); otherwise it waits. -/
def sendOwn (s : State) (c : CoreId) (i p : Nat) (t : Token) (k : State → State) : State :=
  let n := (coreLeaf c).getD 0
  if nextSend s n p = some (ownSend s c i p) ∧ mayEnter s n p then
    let s := (enterFrom s n p (ownSend s c i p) t).modLeaf n fun l => { l with sendq := l.sendq.erase (ownSend s c i p) }
    pumpSends (k (sendOver s (claimOf s c i) p)) n
  else stay s c i

/-- `SPUSH` (R264). -/
def execSpush (kind : PushKind) (port : Fin 8) (tb ta : Target) (s : State) : Host.Outcome State Fault Refusal :=
  perform (formOf (.spush kind port tb ta)) s fun s c i l r _ =>
    let n := (coreLeaf c).getD 0
    let fin := fun s => complete (formOf (.spush kind port tb ta)) s c i tok tok
    if !coreBound s n (8 + port.val) then blockFault s c (some i) 0x0116 (8 + port.val)
    else limit s c i (pushOk kind r) 1 fun s =>
      match kind with
      | .data =>
        limitLa s c i l.toNat 64 0 fun s =>
          leafAccess (queueSend s c i port.val) c i l.toNat 64 accLoad false false fun s =>
            sendOwn s c i port.val { kind := .data, deckle := r.setWidth 16,
                                     lanes := maskLanes r.toNat (padRead s c l.toNat 64) } fin
      | _ => sendOwn (queueSend s c i port.val) c i port.val { kind := pushKind kind, level := bits r.toNat 18 16 } fin

/-- `SPOP` (R265). -/
def execSpop (nb : Bool) (port : Fin 8) (tb ta : Target) (s : State) : Host.Outcome State Fault Refusal :=
  perform (formOf (.spop nb port tb ta)) s fun s c i l _ _ =>
    let n := (coreLeaf c).getD 0
    if !coreBound s n port.val then blockFault s c (some i) 0x0116 port.val
    else limitLa s c i l.toNat 64 0 fun s =>
      match headOf s n port.val with
      | none => if nb then complete (formOf (.spop nb port tb ta)) s c i (some 0) tok else stay s c i
      | some t =>
        leafAccess s c i l.toNat 64 accStore false false fun s =>
          padStore s c i l.toNat t.payload fun s =>
            complete (formOf (.spop nb port tb ta)) (dropHead s n port.val) c i (some (wordOfNat (t.control + 2 ^ 23))) tok

/-! ### `SCTL` (R266) -/

/-- The port status word (Table 15). -/
def portStatus (s : State) (n : Nat) (port : StreamPort) : Nat :=
  let w := (s.leaf n).routes.getD (portNum port) 0
  let common := rtUnit w * 2 ^ 19 + natOfBool (rtEn w) * 2 ^ 18 + rtSlots w * 32
  match port with
  | .inp p =>
    let q := (s.leaf n).inputs.getD p.val {}
    let head := match q.held with
      | t :: _ => 2 ^ 17 + t.kind.code * 2 ^ 13 + t.level % 8 * 1024
      | [] => 0
    natOfBool q.dseen * 2 ^ 21 + common + head + q.held.length % 32
  | .out p =>
    let o := (s.leaf n).outputs.getD p.val {}
    natOfBool o.dseen * 2 ^ 21 + common + o.free % 32

/-- `SCTL.status` (R266). -/
def execSctlStatus (port : StreamPort) (tb ta : Target) (s : State) : Host.Outcome State Fault Refusal :=
  perform (formOf (.sctlStatus port tb ta)) s fun s c i l _ _ =>
    limit s c i (l == 0) 0 fun s =>
      complete (formOf (.sctlStatus port tb ta)) s c i (some (wordOfNat (portStatus s ((coreLeaf c).getD 0) port))) tok

/-- Tokens that a drain of `want` (0: up to a DONE) still to come takes of those held, and whether it is over. -/
def drainCount (want : Nat) : Nat → List Token → Nat × Bool
  | k, [] => (k, false)
  | k, t :: ts =>
    if k + 1 = want ∨ (want = 0 ∧ t.kind = .done) then (k + 1, true) else drainCount want (k + 1) ts

/-- `SCTL.drain` (R266): the tokens discarded so far stand in the slot until it is over. -/
def execSctlDrain (port : StreamPort) (tb ta : Target) (s : State) : Host.Outcome State Fault Refusal :=
  perform (formOf (.sctlDrain port tb ta)) s fun s c i l _ _ =>
    match port with
    | .out _ => blockFault s c (some i) 0x0114 0
    | .inp p =>
      limit s c i (decide (l.toNat < 65536)) 0 fun s =>
        let n := (coreLeaf c).getD 0
        let had := (s.slot c i).arg
        let (k, ended) := drainCount l.toNat had ((s.leaf n).inputs.getD p.val {}).held
        let s := dropAll n p.val (k - had) s
        if ended then complete (formOf (.sctlDrain port tb ta)) s c i (some (wordOfNat k)) tok
        else (stay s c i).modSlot c i fun x => { x with arg := k }

/-- `SCTL.reset` (R266). -/
def execSctlReset (port : StreamPort) (tb ta : Target) (s : State) : Host.Outcome State Fault Refusal :=
  perform (formOf (.sctlReset port tb ta)) s fun s c i l _ _ =>
    limit s c i (l == 0) 0 fun s =>
      let n := (coreLeaf c).getD 0
      match port with
      | .inp p =>
        let s := dropAll n p.val ((s.leaf n).inputs.getD p.val {}).held.length s
        let s := s.modLeaf n fun l => { l with inputs := lmod l.inputs p.val fun q => { q with dseen := false } }
        complete (formOf (.sctlReset port tb ta)) s c i (some 0) tok
      | .out _ =>
        if portQuiet s n port then complete (formOf (.sctlReset port tb ta)) s c i (some 0) tok else stay s c i

/-! ### `SBAR` (R267) -/

/-- Tokens of an output port that its receiver has not removed: those on their way and those held. -/
def awaitedOf (s : State) (n p : Nat) : Nat :=
  ((s.leaf n).outputs.getD p {}).inflight.length + match liveChannel s n p with
    | some (m, q) => ((s.leaf m).inputs.getD q {}).held.length
    | none => 0

/-- The tokens that had entered an output port when the count of them was `sent` have been removed (R267). The count starts again
at a bind and at a void, whose round base holds tokens of earlier rounds: these lie before every one it counts. -/
def allRemoved (s : State) (n p sent : Nat) : Bool := decide (sent + awaitedOf s n p ≤ ((s.leaf n).outputs.getD p {}).sent)

/-- The unit has nothing of the tokens it took left to do (R267): outputs sent, accesses performed. What `AGEN` waits for next is
no work of a token taken. DEDUCED (log 119): the elements of `REPEAT` are work of `IN1` (input 1) until they have come into force, and a
shape token is finished as soon as its own token is sent. -/
def FlowUnit.finished (u : FlowUnit) (i : Nat) : Bool :=
  let m := field u.record 0 1
  !u.run || (u.outq.isEmpty && if m = 0x0A then i != 1 || u.st.queue.isEmpty
    else u.st.toks.isEmpty && (m == 0x14 || u.st.drain.isNone) && u.st.packed.isEmpty && u.st.parents.isEmpty
      && u.st.fibre.isNone && u.st.heads.all List.isEmpty && u.st.marks.all Option.isNone)

/-- The input of a flow unit that reads a port. -/
def FlowUnit.inputOf (u : FlowUnit) (p : Nat) : Nat := ((upTo 4).find? fun i => field u.record (2 + i) 1 == 8 + p).getD 0

/-- The tokens that the unit bound to an input port has taken of it. -/
def inputTaken (s : State) (n p : Nat) : Nat :=
  let l := s.leaf n
  match rtUnit (l.routes.getD p 0) with
  | 1 => l.f0.taken.getD (l.f0.inputOf p) 0
  | 2 => l.f1.taken.getD (l.f1.inputOf p) 0
  | 3 => l.vp.taken
  | _ => 0

/-- The unit bound to an input port has finished the first `k` tokens that it took; the block core has when each `SPOP` performs. -/
def inputFinished (s : State) (n p k : Nat) : Bool :=
  let l := s.leaf n
  let flow := fun (u : FlowUnit) => u.finished (u.inputOf p) || decide (k ≤ u.settled.getD (u.inputOf p) 0)
  match rtUnit (l.routes.getD p 0) with
  | 1 => flow l.f0
  | 2 => flow l.f1
  | 3 => !l.vp.run || l.vp.outq.isEmpty || decide (k ≤ l.vp.settled)
  | _ => true

/-- `SBAR` (R267): the counts of tokens sent and of tokens taken when it issued stand in its slot. -/
def execSbar (tb ta : Target) (s : State) : Host.Outcome State Fault Refusal :=
  perform (formOf (.sbar tb ta)) s fun s c i l _ _ =>
    limit s c i (decide (l.toNat < 65536)) 0 fun s =>
      let n := (coreLeaf c).getD 0
      let s := if (s.slot c i).phase = 0 then s.modSlot c i fun x =>
          { x with
            phase := 1
            latch := (upTo 8).flatMap (fun p => bytesOf 8 ((s.leaf n).outputs.getD p {}).sent)
              ++ (upTo 8).flatMap fun p => bytesOf 8 (inputTaken s n p) } else s
      let sent := (s.slot c i).latch
      if (upTo 8).all (fun p => !testBit l.toNat (8 + p) || allRemoved s n p (field sent (8 * p) 8))
          && (upTo 8).all (fun p => !testBit l.toNat p || inputFinished s n p (field sent (64 + 8 * p) 8)) then
        complete (formOf (.sbar tb ta)) s c i tok tok
      else stay s c i

end Sys2Proof.Machine
end

