-- ==== Sys2Proof/Machine/FlowUnits.lean ====
section
/-!
DEFINITION. Flow units: the record and its checks (R243, R244, R387), the unit instructions (R246), what every step of a
unit shares (inputs, EMPTY policies, outputs, accesses, errors: R235, R242, R247, R268, R385), and how a step settles.
-/

namespace Sys2Proof.Machine

/-! ### The units of a leaf -/

/-- A unit of a leaf. -/
def Leaf.unit (l : Leaf) : FUnit → FlowUnit
  | .f0 => l.f0
  | .f1 => l.f1
def State.unit (s : State) (n : Nat) (u : FUnit) : FlowUnit := (s.leaf n).unit u
def State.modUnit (s : State) (n : Nat) (u : FUnit) (f : FlowUnit → FlowUnit) : State :=
  s.modLeaf n fun l => match u with
    | .f0 => { l with f0 := f l.f0 }
    | .f1 => { l with f1 := f l.f1 }
/-- An update of a unit's mode state. -/
def State.modFlow (s : State) (n : Nat) (u : FUnit) (f : FlowState → FlowState) : State :=
  s.modUnit n u fun x => { x with st := f x.st }
/-- A unit's mode state. -/
def State.flow (s : State) (n : Nat) (u : FUnit) : FlowState := (s.unit n u).st
/-- Index of a unit, and its code as a requester and in a route word (R240, R393). -/
def unitIdx : FUnit → Nat
  | .f0 => 0
  | .f1 => 1
def unitCode (u : FUnit) : Nat := unitIdx u + 1
/-- The strand that a unit's accesses are charged to (R395). -/
def unitCore (s : State) (n : Nat) (u : FUnit) : CoreId := strandOf n (s.unit n u).issuer

/-! ### The record (R243) -/

/-- `MODE`, `EPOL`, `ECONST` and a field of the body. -/
def FlowUnit.mode (u : FlowUnit) : Nat := field u.record 0 1
def FlowUnit.pol (u : FlowUnit) : Nat := field u.record 1 1 % 4
def FlowUnit.econst (u : FlowUnit) : Word32 := BitVec.ofNat 32 (field u.record 12 4)
def FlowUnit.body (u : FlowUnit) (off n : Nat) : Nat := field u.record off n
/-- A port byte: the port that it enables. -/
def portByte (b : Nat) : Option Nat := if testBit b 3 then some (b % 8) else none
def FlowUnit.inp (u : FlowUnit) (i : Nat) : Option Nat := portByte (field u.record (2 + i) 1)
def FlowUnit.out (u : FlowUnit) (o : Nat) : Option Nat := portByte (field u.record (6 + o) 1)
def FlowUnit.skp (u : FlowUnit) (k : Nat) : Option Nat := portByte (field u.record (9 + k) 1)

/-- Assigned codes of `MODE`. -/
def modeOk (m : Nat) : Bool := [1, 2, 3, 4, 5, 8, 9, 0x0A, 0x0C, 0x0D, 0x0E, 0x10, 0x11, 0x12, 0x13, 0x14].contains m
def isScan (m : Nat) : Bool := 1 ≤ m && m ≤ 5

/-- A device address field, aligned. -/
def vaOk (v align : Nat) : Bool := decide (v < 2 ^ 52) && v % align == 0
/-- A leaf address field, aligned. -/
def laOk (v align : Nat) : Bool := decide (v < 2 ^ 18) && v % align == 0
/-- Bytes that Tables 7 and 12 to 14 name in a body and a mode leaves zero (R243). -/
def zeroFields (m : Nat) : List (Nat × Nat) :=
  match m with
  | 0x01 => [(0x10, 8), (0x18, 8), (0x24, 4), (0x28, 4), (0x2C, 4)]
  | 0x03 => [(0x24, 4), (0x28, 4), (0x2C, 4)]
  | 0x04 => [(0x18, 8), (0x20, 4), (0x24, 4), (0x28, 4), (0x2C, 4)]
  | 0x02 | 0x05 => [(0x20, 4)]
  | 0x0E => [(0x2C, 4), (0x38, 8)]
  | 0x10 | 0x11 => [(0x1E, 2)]
  | 0x14 => [(0x1A, 6)]
  | _ => []

/-- `FMT` and `ARITH` of `REDUCE` and `SPACC` (R256). -/
def fmtOk (f : Nat) : Bool := f == 0 || f == 0xC || f == 0xD
def arithOk (a : Nat) : Bool := a % 8 != 7 && a < 16
/-- The S32 that a field holds. -/
def s32 (v : Nat) : Int := signExtend v 32

/-- Fields of a mode's body: offset, size, and whether the field is valid (R248 to R263, R387). -/
def bodyFields (m : Nat) (b : Nat → Nat → Nat) : List (Nat × Nat × Bool) :=
  match m with
  | 0x01 => [(0x20, 4, 1 ≤ b 0x20 4 && b 0x20 4 ≤ 2 ^ 31)]
  | 0x03 => [(0x10, 8, vaOk (b 0x10 8) 64), (0x18, 8, vaOk (b 0x18 8) 4), (0x20, 4, 1 ≤ b 0x20 4 && b 0x20 4 ≤ 2 ^ 31)]
  | 0x04 => [(0x10, 8, vaOk (b 0x10 8) 4)]
  | 0x02 | 0x05 =>
    [(0x10, 8, vaOk (b 0x10 8) 4), (0x18, 8, vaOk (b 0x18 8) 4), (0x24, 4, b 0x24 4 < 2 ^ 30 && b 0x24 4 % 64 == 0),
      (0x28, 4, laOk (b 0x28 4) 16), (0x2C, 4, b 0x2C 4 ≤ 1)]
  | 0x08 | 0x09 => [(0x10, 4, true), (0x14, 4, true)]
  | 0x0C => [(0x10, 1, fmtOk (b 0x10 1)), (0x11, 1, arithOk (b 0x11 1)), (0x12, 1, 1 ≤ b 0x12 1 && b 0x12 1 ≤ 7)]
  | 0x0D =>
    [(0x10, 4, laOk (b 0x10 4) 64), (0x14, 4, laOk (b 0x14 4) 64), (0x18, 4, 1 ≤ b 0x18 4 && b 0x18 4 ≤ 32768),
      (0x1C, 1, fmtOk (b 0x1C 1)), (0x1D, 1, arithOk (b 0x1D 1))]
  | 0x0E =>
    [(0x10, 8, vaOk (b 0x10 8) 4), (0x18, 8, vaOk (b 0x18 8) 4), (0x20, 8, vaOk (b 0x20 8) 4), (0x28, 4, b 0x28 4 < 8),
      (0x30, 8, vaOk (b 0x30 8) 8)]
  | 0x10 | 0x11 =>
    let g := b 0x1C 1
    let add := testBit g 2
    [(0x10, 8, b 0x10 8 < (if testBit g 0 then 2 ^ 52 else 2 ^ 18)), (0x18, 4, b 0x18 4 % 4 == 0),
      (0x1C, 1, g < (if m = 0x10 then 4 else 8)),
      (0x1D, 1, if add then (if testBit g 0 then b 0x1D 1 == 0 else fmtOk (b 0x1D 1)) else b 0x1D 1 == 0),
      (0x20, 4, true), (0x24, 4, true)]
  | 0x12 => [(0x10, 1, b 0x10 1 % 8 ≤ 5 && b 0x10 1 < 128), (0x14, 4, true)]
  | 0x14 =>
    let a := b 0x18 1
    let nl := a / 4 % 4 + 1
    [(0x10, 8, if a % 4 = 2 then b 0x10 8 == 0 else b 0x10 8 < 2 ^ 52), (0x18, 1, a < 16 && a % 4 != 3),
      (0x19, 1, 1 ≤ b 0x19 1 && b 0x19 1 ≤ 64)]
      ++ (upTo 4).map (fun k =>
        (0x20 + 4 * k, 4, if k < nl then 1 ≤ b (0x20 + 4 * k) 4 && b (0x20 + 4 * k) 4 ≤ 2 ^ 31 else b (0x20 + 4 * k) 4 == 0))
      ++ (upTo 4).map (fun k =>
        (0x30 + 4 * k, 4, if k < nl then b (0x30 + 4 * k) 4 % 4 == 0 else b (0x30 + 4 * k) 4 == 0))
  | _ => []

/-- Input bytes that a mode requires (Table 3 of R244). -/
def needInputs (m : Nat) (b : Nat → Nat → Nat) : List Nat :=
  match m with
  | 0x08 | 0x09 => [2, 4]
  | 0x0A | 0x0D | 0x11 => [2, 3]
  | 0x0C => [2]
  | 0x0E => (if testBit (b 0x28 4) 1 then [2] else []) ++ (if testBit (b 0x28 4) 2 then [3] else [])
  | 0x10 => if testBit (b 0x1C 1) 1 then [2, 3] else [2]
  | 0x12 => if testBit (b 0x10 1) 3 then [2] else [2, 3]
  | 0x14 => if b 0x18 1 % 4 = 1 then [2] else []
  | _ => []

/-- Policies that a mode allows (Table 3 of R244). -/
def polOk (m p : Nat) : Bool :=
  match m with
  | 0x08 | 0x09 | 0x0E | 0x11 | 0x13 => p ≤ 1
  | 0x14 => p == 0
  | _ => p ≤ 2

/-- A mode whose FORWARD acts as ABSORB on every input (Table 3 of R244). -/
def asAbsorb (m : Nat) : Bool := [0x08, 0x09, 0x0C, 0x0D, 0x0E, 0x11, 0x13].contains m

/-- The port byte at an offset is valid: named by the mode, zero above, and bound to the unit when it is enabled. -/
def portOk (routes : List Word) (code m off v : Nat) : Bool :=
  if 9 ≤ off ∧ !((isScan m && off == 9) || m == 8) then v == 0
  else
    let isOut := (6 ≤ off && off ≤ 8) || (9 ≤ off && m == 8)
    let w := routes.getD (v % 8 + if isOut then 8 else 0) 0
    decide (v < 16) && (!testBit v 3 || (rtEn w && rtUnit w == code))

/-- Offsets of the fields of a record that fail, and of bytes of no field that are not zero (R387). DEDUCED (log 120): a byte that
no table of the mode names is a field of its own. -/
def badOffsets (routes : List Word) (code : Nat) (r : List Byte) : List Nat :=
  let b := fun off n => field r off n
  let m := b 0 1
  let fs := bodyFields m b ++ (zeroFields m).map fun z => (z.1, z.2, b z.1 z.2 == 0)
  (if b 1 1 < 4 && polOk m (b 1 1) then [] else [1])
    ++ ((upTo 9).map (· + 2)).filter (fun off => !portOk routes code m off (b off 1))
    ++ (needInputs m b).filter (fun off => !testBit (b off 1) 3)
    ++ (if (m = 0x0E ∨ m = 0x13) ∧ !((upTo (if m = 0x0E then 2 else 3)).any fun i => testBit (b (2 + i) 1) 3) then [2] else [])
    ++ (if b 0x0B 1 = 0 then [] else [0x0B])
    ++ (fs.filter fun f => !f.2.2).map (·.1)
    ++ ((upTo 48).map (· + 16)).filter fun i => b i 1 != 0 && !(fs.any fun f => decide (f.1 ≤ i) && decide (i < f.1 + f.2.1))

/-- The first failing field of a record by byte offset, if any. -/
def recordBad (routes : List Word) (code : Nat) (r : List Byte) : Option Nat :=
  if !modeOk (field r 0 1) then some 0
  else match badOffsets routes code r with
    | [] => none
    | o :: os => some (os.foldl min o)

/-! ### Unit instructions (R246) -/

/-- A unit with a record just loaded: flags, counters and state clear; the count of R100 is the round's. -/
def loadedUnit (x : FlowUnit) (r : List Byte) : FlowUnit :=
  { record := r, cfgd := true, draws := x.draws, taken := x.taken, settled := x.taken }

/-- A unit that starts: `FPMODE` latched, its position at the start of its streams. -/
def startedUnit (x : FlowUnit) (fp : BitVec 5) (strand : Nat) : FlowUnit :=
  { record := x.record, cfgd := true, run := true, flags := x.flags, fpmode := fp, issuer := strand, draws := x.draws,
    taken := x.taken, settled := x.taken }

/-- A unit stopped by `FLSTOP`: position and state go. -/
def stoppedUnit (x : FlowUnit) : FlowUnit :=
  { x with run := false, rdpos := 0, outq := [], ending := false, stopping := false, hold := none, settled := x.taken, st := {} }

/-- `FLCFG` (R246, R387). -/
def execFlcfg (u : FUnit) (tb ta : Target) (s : State) : Host.Outcome State Fault Refusal :=
  perform (formOf (.flcfg u tb ta)) s fun s c i l _ _ =>
    limitLa s c i l.toNat 64 0 fun s =>
      let n := (coreLeaf c).getD 0
      if (s.unit n u).run then stay s c i
      else leafAccess s c i l.toNat 64 accLoad false false fun s =>
        let r := padRead s c l.toNat 64
        match recordBad (s.leaf n).routes (unitCode u) r with
        | some d =>
          raiseFault (s.modUnit n u fun x => { x with cfgd := false }) c
            (leafReport s c 0x0210 2 (unitCode u * 16 + field r 0 1 * 256) d) d
        | none => complete (formOf (.flcfg u tb ta)) (s.modUnit n u fun x => loadedUnit x r) c i tok tok

/-- `FLGO` (R246): without effect on a running unit; class 0x0212 without a record (R384). -/
def execFlgo (u : FUnit) (tb ta : Target) (s : State) : Host.Outcome State Fault Refusal :=
  perform (formOf (.flgo u tb ta)) s fun s c i _ _ _ =>
    let n := (coreLeaf c).getD 0
    let x := s.unit n u
    if !x.cfgd then raiseFault s c (leafReport s c 0x0212 1 0 (unitIdx u)) (unitIdx u)
    else
      let s := if x.run then s else s.modUnit n u fun x => startedUnit x (s.strand c).fpmode (coreIndex c)
      complete (formOf (.flgo u tb ta)) s c i tok tok

/-- `FLSTAT` (R246, Table 5). -/
def execFlstat (u : FUnit) (tb ta : Target) (s : State) : Host.Outcome State Fault Refusal :=
  valueOp (formOf (.flstat u tb ta)) s fun _ _ _ =>
    wordOfNat (s.unit ((coreLeaf s.focus.core).getD 0) u).status

/-- The unit is inside a token (R247). -/
def unitBusy (s : State) (n : Nat) (u : FUnit) : Bool := unitInside s n (unitIdx u) (s.unit n u)

/-- `FLSTOP` (R246): a unit inside a token goes on to its boundary, and stops there. -/
def execFlstop (u : FUnit) (tb ta : Target) (s : State) : Host.Outcome State Fault Refusal :=
  perform (formOf (.flstop u tb ta)) s fun s c i _ _ _ =>
    let n := (coreLeaf c).getD 0
    if !(s.unit n u).run then complete (formOf (.flstop u tb ta)) s c i tok tok
    else if unitBusy s n u then stay (s.modUnit n u fun x => { x with stopping := true }) c i
    else complete (formOf (.flstop u tb ta)) (s.modUnit n u stoppedUnit) c i tok tok

/-! ### What ends a step early -/

/-- A step stops before its end: nothing to take or an older access in the way; the grant of R42 is needed; a stream error
(class, `DETAIL`, offending and required token, input, VA); an access fails, or waits for a walk or its turn; an access is refused. -/
inductive UnitStop where
  | wait
  | grant
  | stream (cls detail : Nat) (tok exp : Option Token) (inp : Nat) (addr : Option Nat)
  | access (f : AccessFault)
  | refuse (r : Report)

/-- A state, and what stopped the step there. -/
abbrev Ran := State × Option UnitStop

/-- Going on from where a step has got. -/
def Ran.next (r : Ran) (k : State → Ran) : Ran :=
  match r.2 with
  | none => k r.1
  | some _ => r

/-! ### Outputs (R247) -/

/-- A token made for an output; one that is not enabled gets nothing. -/
def emitTok (s : State) (n : Nat) (u : FUnit) (o : Nat) (t : Token) : State :=
  s.modUnit n u fun x => if (x.out o).isSome then { x with outq := x.outq ++ [(o, t)] } else x

/-- A token without lanes. -/
def bareTok (k : TokKind) (level : Nat := 0) : Token := { kind := k, level }

/-- Elements packed in lanes 0 upward (R250, R253). -/
def packTok (xs : List Word32) : Token :=
  { kind := .data, deckle := BitVec.ofNat 16 (2 ^ min xs.length 16 - 1),
    lanes := xs.take 16 ++ List.replicate (16 - xs.length) 0 }

/-- The first token that may leave: for some output, its oldest one, when its port may take it. -/
def sendable (s : State) (n : Nat) (x : FlowUnit) : Option (Nat × Token × Nat) :=
  (upTo 3).findSome? fun o => match x.outq.find? fun q => q.1 == o, x.out o with
    | some (_, t), some p => if mayEnter s n p then some (o, t, p) else none
    | _, _ => none

/-- Tokens made leave as their ports take them. -/
def drainUnit (n : Nat) (u : FUnit) : Nat → State → State
  | 0, s => s
  | k + 1, s =>
    match sendable s n (s.unit n u) with
    | some (o, t, p) =>
      let s := enterPort s n p t
      drainUnit n u k (s.modUnit n u fun x =>
        { x with
          outq := x.outq.erase (o, t)
          outcnt := lmod x.outcnt o fun c => (c + 1) % 2 ^ 32
          tokout := if o = 0 then (x.tokout + 1) % 65536 else x.tokout })
    | none => s

/-- Tokens made leave, and a unit that has sent its last one stops at its end (R246). -/
def flushUnit (s : State) (n : Nat) (u : FUnit) : State :=
  let s := drainUnit n u (s.unit n u).outq.length s
  s.modUnit n u fun x => if x.ending ∧ x.outq = [] then { x with run := false, done := true, ending := false } else x

/-- The unit's streams have ended: it stops once its tokens have left. -/
def endUnit (s : State) (n : Nat) (u : FUnit) : State := s.modUnit n u fun x => { x with ending := true }

/-! ### Inputs (R235, R244, R384) -/

/-- The head of input i. -/
def unitHead (s : State) (n : Nat) (u : FUnit) (i : Nat) : Option Token := ((s.unit n u).inp i).bind (headOf s n)

/-- Token misuse (class 0x0205). -/
def misused (back : Bool) (t : Token) : Bool :=
  (t.kind == .turn) || (t.kind == .skip) != back || (t.kind != .data && t.kind != .skip && t.deckle != 0)
    || (t.kind != .stop && t.level != 0)

/-- What is wrong with a head whatever the mode (R384): class 0x0205 for a misused token, 0x0202 for one after DONE (R232). -/
def headBad (s : State) (n p i : Nat) (t : Token) : Option UnitStop :=
  if misused (rtSkip ((s.leaf n).routes.getD p 0)) t then some (.stream 0x0205 i (some t) none i none)
  else if t.late then some (.stream 0x0202 i (some t) none i none)
  else none

/-- An EMPTY that the unit takes and discards. -/
def absorbs (x : FlowUnit) : Bool := x.pol == 0 || (x.pol == 1 && asAbsorb x.mode)

/-- Input i after a token: the level of its last one if it was a STOP, and one more than the highest STOP so far. An EMPTY
discarded leaves no mark; any other stands for a DATA token (R235). -/
def markSeen (gone : Bool) (i : Nat) (t : Token) (st : FlowState) : FlowState :=
  if t.kind = .empty ∧ gone then st
  else if t.kind = .stop then { st with seen := lset st.seen i (some t.level), tops := lmod st.tops i fun k => max k (t.level + 1) }
  else { st with seen := lset st.seen i none }

/-- The stream of input i may end (R232): its last token was the final STOP, which no other has passed. -/
def mayEnd (st : FlowState) (i : Nat) : Bool := (st.seen.getD i none).any fun k => k + 1 == st.tops.getD i 0

/-- The head of input i is taken: a stream error for a bad head, and class 0x0202 for a DONE that `ended` requires to
follow the final STOP (R232). -/
def takeTok (s : State) (n : Nat) (u : FUnit) (i : Nat) (ended : Bool) : Ran × Token :=
  let x := s.unit n u
  match x.inp i, unitHead s n u i with
  | some p, some t =>
    match headBad s n p i t with
    | some e => ((s, some e), t)
    | none =>
      if ended && t.kind == .done && !mayEnd x.st i then ((s, some (.stream 0x0202 i (some t) none i none)), t)
      else
        ((((dropHead s n p).modUnit n u fun x =>
          { x with
            incnt := lmod x.incnt i fun c => (c + 1) % 2 ^ 32
            taken := lmod x.taken i (· + 1)
            st := markSeen (absorbs x) i t x.st }), none), t)
  | _, _ => ((s, some .wait), default)

/-- The DATA token that REPLACE puts in an EMPTY's place (R235). -/
def replaced (x : FlowUnit) (t : Token) : Token :=
  if t.kind = .empty ∧ x.pol = 2 then { kind := .data, deckle := 0xFFFF, lanes := List.replicate 16 x.econst } else t

/-- One token of input i under the unit's policy; an absorbed EMPTY ends the step. -/
def takeOne (s : State) (n : Nat) (u : FUnit) (i : Nat) (ended : Bool) (k : State → Token → Ran) : Ran :=
  let (r, t) := takeTok s n u i ended
  r.next fun s => if t.kind = .empty ∧ absorbs (s.unit n u) then (s, none) else k s (replaced (s.unit n u) t)

/-- Tokens of several inputs taken together. -/
def takeAll (n : Nat) (u : FUnit) (ended : Bool) : List Nat → State → List Token → Ran × List Token
  | [], s, ts => ((s, none), ts)
  | i :: is, s, ts =>
    match takeTok s n u i ended with
    | ((s, none), t) => takeAll n u ended is s (ts ++ [t])
    | (r, t) => (r, ts ++ [t])

/-- The first of aligned tokens that disagrees with the first one (R234): its place and the token. -/
def misaligned (ts : List Token) : Option Nat :=
  let f := ts.headD default
  ts.findIdx? fun t => !(t.kind == f.kind && t.level == f.level && t.deckle == f.deckle)

/-- One step of aligned inputs under the unit's policy (R206, R234, R235, R244): an EMPTY in it drops the step (ABSORB), makes
it one EMPTY (FORWARD), or is replaced. Nothing is taken until every input holds a token. -/
def takeStep (s : State) (n : Nat) (u : FUnit) (is : List Nat) (k : State → List Token → Ran) : Ran :=
  if !is.all (fun i => (unitHead s n u i).isSome) then (s, some .wait)
  else
    let (r, ts) := takeAll n u true is s []
    r.next fun s =>
      let x := s.unit n u
      let soft := ts.all fun t => t.kind == .data || t.kind == .empty
      if soft && ts.any (fun t => t.kind == .empty) && x.pol != 2 then
        if absorbs x then (s, none) else k s (ts.map fun _ => bareTok .empty)
      else
        let ts := ts.map (replaced x)
        match misaligned ts with
        | some j => (s, some (.stream 0x0201 (is.getD j 0) ts[j]? ts.head? (is.getD j 0) none))
        | none => k s ts

/-- Valid lanes of a token. -/
def validLanes (t : Token) : List Nat := (upTo 16).filter fun i => testBit t.deckle.toNat i
/-- Lane i of a token. -/
def Token.lane (t : Token) (i : Nat) : Word32 := t.lanes.getD i 0

/-! ### Accesses (R242, R259, R268) -/

/-- What an access answers: a value and the state, or what stopped it. -/
abbrev Got (α : Type) := Except UnitStop (α × State)

/-- The gathering whose round buffer a unit's reads see: only after a `FENCE.XP` of its strand (R183, R246). -/
def unitReader (s : State) (n : Nat) (u : FUnit) : Option Nat :=
  if (s.strand (unitCore s n u)).xp then (s.leaf n).gath else none

/-- The context that a leaf works for. -/
def leafCtx (s : State) (n : Nat) : Nat := s.ctxOf (strandOf n 0)

/-- The access that a record held is made: a later fault of the unit is a new one (R397). -/
def unitFreed (s : State) (n : Nat) (u : FUnit) : State :=
  if (s.unit n u).hold.isSome then s.modUnit n u fun x => { x with hold := none } else s

/-- A unit, where it waits at the memory ports and for walks. -/
def unitUser (n : Nat) (u : FUnit) : PortUser := .flow n (unitIdx u)

/-- A line of a unit comes to its memory port (R51, R70), and waits for its turn. -/
def unitTurn (s : State) (n : Nat) (u : FUnit) (acc va pa len : Nat) : Except UnitStop State :=
  match allTurns s (unitUser n u) acc va [(pa, len)] with
  | .ok s => .ok (unitFreed s n u)
  | .error f => .error (.access f)

/-- A translation of a unit. -/
def unitTrans (s : State) (n : Nat) (u : FUnit) (va acc : Nat) : Except UnitStop (Trans × State) :=
  let k := leafCtx s n
  match engineTrans s (unitUser n u) (placeOf (unitCore s n u) k va) k va acc false with
  | .ok x => .ok x
  | .error f => .error (.access f)

/-- A read of device memory, part by part. -/
def readParts (n : Nat) (u : FUnit) : List (Nat × Nat) → List Byte → State → Got (List Byte)
  | [], bs, s => .ok (bs, s)
  | (va, len) :: ps, bs, s =>
    match unitTrans s n u va accFlowRead with
    | .error e => .error e
    | .ok (t, s) =>
      match unitTurn s n u accFlowRead va t.pa len with
      | .error e => .error e
      | .ok s =>
        let g := unitReader s n u
        if readBad s g t.home t.pa len then .error (.access ⟨poisonFault t.pa t.pte 0, accFlowRead, va, none⟩)
        else readParts n u ps (bs ++ deviceRead s g t.home t.pa len) s

/-- A read of device memory by a unit. -/
def unitRead (s : State) (n : Nat) (u : FUnit) (va len : Nat) : Got (List Byte) := readParts n u (linesOf va len) [] s

/-- A store to device memory, part by part, staged as `STG` stages it (R39, R43, R179). -/
def unitStores (n : Nat) (u : FUnit) : List (Nat × Nat) → List Byte → State → Got Unit
  | [], _, s => .ok ((), s)
  | (va, len) :: ps, bs, s =>
    let k := leafCtx s n
    match unitTrans s n u va accFlowWrite with
    | .error e => .error e
    | .ok (t, s) =>
      match unitTurn s n u accFlowWrite va t.pa len with
      | .error e => .error e
      | .ok s =>
        let g := (s.leaf n).gath
        match stageItem s k g (instOf s g)
            { port := portOf t.pa, pa := t.pa, home := t.home, op := .store (bs.take len), core := some (unitCore s n u) } with
        | .done s => unitStores n u ps (bs.drop len) s
        | .needsGrant => .error .grant
        | .refused _ r => .error (.refuse { r with where_ := whereWord (unitCore s n u) })

/-- A store to device memory by a unit. -/
def unitWrite (s : State) (n : Nat) (u : FUnit) (va : Nat) (bs : List Byte) : Got Unit :=
  unitStores n u (linesOf va bs.length) bs s

/-- A leaf access of a unit that may not be made (R74, R394, R403). -/
def unitLaStop (s : State) (n : Nat) (u : FUnit) (acc la d cls : Nat) : UnitStop :=
  .refuse (laReport s (unitCore s n u) (unitCode u) acc la cls d)

/-- A read of the leaf's SRAM by a unit. -/
def unitLeafRead (s : State) (n : Nat) (u : FUnit) (la len : Nat) : Got (List Byte) :=
  match laRefused (s.leaf n).partw la len false with
  | some d => .error (unitLaStop s n u accFlowRead la d 0x0309)
  | none =>
    if leafPoisoned (s.leaf n) la len then .error (unitLaStop s n u accFlowRead la 1 0x0314)
    else .ok (leafRead s n la len, s)

/-- A write of the leaf's SRAM by a unit, journaled (R37), or held for the grant that a full journal asks for (R41). -/
def unitLeafWrite (s : State) (n : Nat) (u : FUnit) (la : Nat) (bs : List Byte) : Got Unit :=
  match laRefused (s.leaf n).partw la bs.length true with
  | some d => .error (unitLaStop s n u accFlowWrite la d 0x0309)
  | none => match leafWrite s n la bs with
    | some s => .ok ((), s)
    | none => .error .grant

/-- Going on with what an access answers; the step stops where it was when the access does not perform. -/
def Got.andThen {α : Type} (g : Got α) (s0 : State) (k : α → State → Ran) : Ran :=
  match g with
  | .ok (a, s) => k a s
  | .error e => (s0, some e)

/-! ### How a step settles -/

/-- A report of a unit stands in the controller's queue (R371, R385). -/
def reportUnit (s : State) (n : Nat) (r : Report) : State :=
  match (s.leaf n).gath with
  | some g => s.modGath g fun x => { x with queue := x.queue ++ [.fault r] }
  | none => s

/-- A unit stopped by an error: nothing that it has not sent leaves it (R385). -/
def failUnit (s : State) (n : Nat) (u : FUnit) : State :=
  s.modUnit n u fun x => { x with run := false, outq := [], ending := false, failed := true }

/-- The control word of a token that a record names. -/
def tokWord (t : Option Token) : Nat := (t.map Token.control).getD 0

/-- The record of a stream error (R383). -/
def streamReport (s : State) (n : Nat) (u : FUnit) (cls detail : Nat) (t e : Option Token) (inp : Nat)
    (addr : Option Nat) : Report :=
  let x := s.unit n u
  let b := field x.record (if inp < 4 then 2 + inp else 9) 1
  { strandReport s (unitCore s n u) cls sevTask with
    uclass := 2, uindex := n
    asp := if addr.isSome then .va else .none
    addr := addr.getD 0
    synd := streamSynd (b % 8 + unitCode u * 16 + x.mode * 256) (tokWord t) (tokWord e) (detail % 2 ^ 32) }

/-- What became of a step. -/
def settleUnit (n : Nat) (u : FUnit) (r : Ran) : State :=
  let (s, why) := r
  match why with
  | none => flushUnit s n u
  | some .wait => s
  | some .grant => match (s.leaf n).gath with
    | some g => askGrant s g
    | none => s
  | some (.stream cls d t e inp addr) => reportUnit (failUnit s n u) n (streamReport s n u cls d t e inp addr)
  | some (.access f) =>
    let k := leafCtx s n
    match f.wait with
    | some w => await s (unitUser n u) (placeOf (unitCore s n u) k f.va) k f.va w
    | none =>
      let again := (s.unit n u).hold
      let s := endAccess (if f.f.serviceable then s else failUnit s n u) (unitUser n u)
      reportAccess s (unitCore s n u) none (unitCode u) f.acc f.va f.f again
  | some (.refuse r) => reportUnit (failUnit s n u) n r

/-- The unit works: it runs in a gathering that runs, and no open record holds it. -/
def unitRuns (s : State) (n : Nat) (u : FUnit) : Bool :=
  let x := s.unit n u
  x.run && !isHeld s x.hold && match (s.leaf n).gath.bind s.gath with
    | some g => gathRuns s g
    | none => false

/-- The tokens of each input that the unit has finished are counted (R267): all that it took, once nothing of them is left to do, and of
`COALESCE` those of which no lane stands in a token that is not full. -/
def countSettled (x : FlowUnit) : FlowUnit :=
  { x with settled := (upTo 4).map fun i =>
      if x.finished i then x.taken.getD i 0
      else if x.mode = 0x13 ∧ x.outq = [] then x.taken.getD i 0 - x.st.packing else x.settled.getD i 0 }

/-- A step of a unit in one of its modes: tokens made before leave first, and the step's work follows once they have. One that
`FLSTOP` stops does so once it is inside no token (R246). -/
def unitStep (modes : List Nat) (n : Nat) (u : FUnit) (s : State) (act : State → Ran) : Host.Outcome State Fault Refusal :=
  if Config.leafCount ≤ n then .fault .noSuchUnit
  else if !unitRuns s n u || !modes.contains (s.unit n u).mode then idle s
  else if (s.unit n u).stopping && !unitBusy s n u then .next (s.modUnit n u stoppedUnit)
  else
    let s := flushUnit s n u
    let s := if (s.unit n u).run && (s.unit n u).outq.isEmpty then settleUnit n u (act s) else s
    .next (s.modUnit n u countSettled)

end Sys2Proof.Machine
end

