-- ==== Sys2Proof/Machine/Scanners.lean ====
section
/-!
DEFINITION. Scanners (R248 to R252, R386), `ISECT` and `UNION` (R253, R254) and `REPEAT` (R255).
-/

namespace Sys2Proof.Machine

/-! ### What a scanner emits (R249) -/

/-- A token on every enabled output of a scanner. -/
def emitBoth (s : State) (n : Nat) (u : FUnit) (t : Token) : State := emitTok (emitTok s n u 0 t) n u 1 t

/-- A STOP of a scanner, counted for the epoch of R252. -/
def emitStop (s : State) (n : Nat) (u : FUnit) (k : Nat) : State :=
  (emitBoth s n u (bareTok .stop k)).modFlow n u fun st => { st with stops := st.stops + 1 }

/-- The pending S0 is emitted, and a new one held. -/
def turnPending (s : State) (n : Nat) (u : FUnit) : State :=
  (if (s.flow n u).pendS0 then emitStop s n u 0 else s).modFlow n u fun st => { st with pendS0 := true }

/-- Elements as a coordinate token and a reference token. -/
def emitElems (s : State) (n : Nat) (u : FUnit) (es : List (Nat × Nat)) : State :=
  if es = [] then s
  else emitTok (emitTok s n u 0 (packTok (es.map fun e => BitVec.ofNat 32 e.1))) n u 1
    (packTok (es.map fun e => BitVec.ofNat 32 e.2))

/-! ### Sources of a fibre (R236, R250, R251) -/

/-- Elements that the ring holds (R195). -/
def ringCap (x : FlowUnit) : Nat := 16 * (bits (x.body 0x24 4) 29 18 + 1)
/-- LA of the ring. -/
def ringBase (x : FlowUnit) : Nat := x.body 0x24 4 % 2 ^ 18

/-- Blocks of a fibre of a bitmap level (R236). -/
def bitmapBlocks (x : FlowUnit) : Nat := (x.body 0x20 4 + 511) / 512

/-- The fibre of a parent position as its scanner starts it; a ring fibre waits for its refill. -/
def newFibre (x : FlowUnit) (p : Nat) : Fibre :=
  match x.mode with
  | 0x01 => { parent := p, ready := true, stop := x.body 0x20 4 }
  | 0x03 => { parent := p, ready := true, stop := bitmapBlocks x }
  | 0x04 => { parent := p, ready := true, stop := 1 }
  | _ => { parent := p }

/-- The fibre with more of its source read; elements below the SKIP target go (R252). -/
def addElems (f : Fibre) (es : List (Nat × Nat)) : Fibre := { f with elems := f.elems ++ es.filter fun e => decide (f.skip ≤ e.1) }

/-- A coordinate or a ref that does not fit Z32 (R250). -/
def beyond (es : List (Nat × Nat)) : Option Nat := (es.find? fun e => decide (2 ^ 32 ≤ e.1) || decide (2 ^ 32 ≤ e.2)).map (·.1)

/-- The fibre set, or class 0x0203. -/
def setElems (s : State) (n : Nat) (u : FUnit) (f : Fibre) (es : List (Nat × Nat)) : Ran :=
  match beyond es with
  | some c => (s, some (.stream 0x0203 c none none 0 none))
  | none => (s.modFlow n u fun st => { st with fibre := some (addElems f es) }, none)

/-- Set bits of a bitmap block below the level size, in order: the coordinate and the number of set bits below it (R237). -/
def blockElems (size base : Nat) (bs : List Byte) : List (Nat × Nat) :=
  let cs := (upTo 512).filter fun i => decide (base + i < size) && testBit (bs.getD (i / 8) 0).toNat (i % 8)
  cs.map fun i => (base + i, ((upTo i).filter fun j => testBit (bs.getD (j / 8) 0).toNat (j % 8)).length)

/-- More of a fibre is read: 16 coordinates, a bitmap block, one coordinate, or the elements of one ring line. -/
def pullFibre (s : State) (n : Nat) (u : FUnit) (f : Fibre) : Ran :=
  let x := s.unit n u
  match x.mode with
  | 0x01 =>
    let at_ := max f.next f.skip
    let k := min 16 (f.stop - at_)
    setElems s n u { f with next := at_ + k } ((upTo k).map fun i => (at_ + i, f.stop * f.parent + at_ + i))
  | 0x03 =>
    let b := f.parent * f.stop + f.next
    (unitRead s n u (x.body 0x10 8 + 64 * b) 64).andThen s fun bs s =>
      let es := blockElems (x.body 0x20 4) (512 * f.next) bs
      if es = [] then setElems s n u { f with next := f.next + 1 } []
      else (unitRead s n u (x.body 0x18 8 + 4 * b) 4).andThen s fun pf s =>
        setElems s n u { f with next := f.next + 1 } (es.map fun e => (e.1, field pf 0 4 + e.2))
  | 0x04 =>
    (unitRead s n u (x.body 0x10 8 + 4 * f.parent) 4).andThen s fun bs s =>
      setElems s n u { f with next := 1 } [(field bs 0 4, f.parent)]
  | _ =>
    let k := min f.have_ (16 - x.rdpos % 16)
    let cap := ringCap x
    let at_ := fun i => ringBase x + 4 * ((x.rdpos + i) % cap)
    match laRefused (s.leaf n).partw (ringBase x) (4 * cap) false with
    | some d => (s, some (unitLaStop s n u accFlowRead (ringBase x) d 0x0309))
    | none =>
      if (upTo k).any fun i => leafPoisoned (s.leaf n) (at_ i) 4 then
        (s, some (unitLaStop s n u accFlowRead (at_ 0) 1 0x0314))
      else
        let es := (upTo k).map fun i => (natOfBytes (leafRead s n (at_ i) 4), f.next + i)
        setElems (s.modUnit n u fun x => { x with rdpos := (x.rdpos + k) % cap }) n u
          { f with next := f.next + k, have_ := f.have_ - k } es

/-- The source of a fibre has more, and whether it is at hand. -/
def fibreMore (f : Fibre) : Bool := !f.ready || decide (f.next < f.stop)
def fibreAtHand (x : FlowUnit) (f : Fibre) : Bool := f.ready && ((x.mode != 2 && x.mode != 5) || f.have_ != 0)

/-- A fibre goes on: a full token leaves, or more is read, or its last elements leave and it ends. -/
def fibreStep (s : State) (n : Nat) (u : FUnit) (f : Fibre) : Ran :=
  if 16 ≤ f.elems.length then
    (emitElems (s.modFlow n u fun st => { st with fibre := some { f with elems := f.elems.drop 16 } }) n u (f.elems.take 16),
      none)
  else if fibreMore f then if fibreAtHand (s.unit n u) f then pullFibre s n u f else (s, some .wait)
  else (emitElems (s.modFlow n u fun st => { st with fibre := none }) n u f.elems, none)

/-! ### Steps of a scanner (R249) -/

/-- The parent stream of a root scanner: position 0, then its end. -/
def rootStep (s : State) (n : Nat) (u : FUnit) : Ran :=
  let st := s.flow n u
  let s := s.modFlow n u fun st => { st with root := st.root + 1 }
  if st.root = 0 then (s.modFlow n u fun st => { st with parents := [0] }, none)
  else if st.root = 1 then (emitStop (s.modFlow n u fun st => { st with pendS0 := false }) n u 0, none)
  else (endUnit (emitBoth s n u (bareTok .done)) n u, none)

/-- One parent token (Table 8). -/
def parentStep (s : State) (n : Nat) (u : FUnit) : Ran :=
  takeOne s n u 0 true fun s t =>
    match t.kind with
    | .data => (s.modFlow n u fun st => { st with parents := (validLanes t).map fun i => (t.lane i).toNat }, none)
    | .empty => (emitBoth (turnPending s n u) n u (bareTok .empty), none)
    | .stop =>
      if 6 ≤ t.level then (s, some (.stream 0x0202 0 (some t) none 0 none))
      else (emitStop (s.modFlow n u fun st => { st with pendS0 := false }) n u (t.level + 1), none)
    | _ => (endUnit (emitBoth s n u (bareTok .done)) n u, none)

/-- What a scanner does next. -/
def scanStep (s : State) (n : Nat) (u : FUnit) : Ran :=
  let st := s.flow n u
  match st.fibre, st.parents with
  | some f, _ => fibreStep s n u f
  | none, p :: ps =>
    ((turnPending s n u).modFlow n u fun st => { st with parents := ps, fibre := some (newFibre (s.unit n u) p) }, none)
  | none, [] => if ((s.unit n u).inp 0).isSome then parentStep s n u else rootStep s n u

/-- SCANNER_STEP (R249, R250). -/
def execScannerStep (leaf : Nat) (u : FUnit) (s : State) : Host.Outcome State Fault Refusal :=
  unitStep [1, 2, 3, 4, 5] leaf u s fun s => scanStep s leaf u

/-- The coordinates from j on, at most m, that one line of `ARR1` holds and one line of the ring takes, written at the unit's own write
position (R77, R251): how many. -/
def refillRing (s : State) (n : Nat) (u : FUnit) (j m : Nat) (k : Nat → State → Ran) : Ran :=
  let x := s.unit n u
  let w := x.st.wpos
  let a := x.body 0x18 8 + 4 * j
  let i := min m (min (16 - w % 16) ((64 - a % 64) / 4))
  (unitRead s n u a (4 * i)).andThen s fun bs t =>
    (unitLeafWrite t n u (ringBase x + 4 * w) bs).andThen s fun _ t =>
      k i (t.modFlow n u fun st => { st with wpos := (w + i) % ringCap x })

/-- A fibre without elements. -/
def emptyFibre (f : Fibre) : Fibre := { f with ready := true, next := 0, stop := 0, have_ := 0 }

/-- The pos pair of a fibre is read (R251, R386). -/
def readPos (s : State) (n : Nat) (u : FUnit) (f : Fibre) : Ran :=
  let x := s.unit n u
  let a := x.body 0x10 8 + 4 * f.parent
  (unitRead s n u a 8).andThen s fun bs s =>
    let p0 := field bs 0 4
    let p1 := field bs 4 4
    if p1 < p0 then
      if x.body 0x2C 4 % 2 = 1 then
        ((s.modUnit n u fun x => { x with clamp := true }).modFlow n u fun st => { st with fibre := some (emptyFibre f) }, none)
      else (s, some (.stream 0x0204 f.parent none none 0 (some a)))
    else (s.modFlow n u fun st => { st with fibre := some { f with pos := some (p0, p1) } }, none)

/-- The first refill of a fibre, line by line: its elements, and the descriptor last (R239, R251). -/
def firstRefill (s : State) (n : Nat) (u : FUnit) (f : Fibre) : Ran :=
  match f.pos with
  | none => readPos s n u f
  | some (p0, p1) =>
    let x := s.unit n u
    let m := min (p1 - p0) (ringCap x)
    if f.filled < m then
      refillRing s n u (p0 + f.filled) (m - f.filled) fun i s =>
        (s.modFlow n u fun st => { st with fibre := some { f with filled := f.filled + i } }, none)
    else
      (unitLeafWrite s n u (x.body 0x28 4 % 2 ^ 18)
        (bytesOf 4 p0 ++ bytesOf 4 p1 ++ bytesOf 4 m ++ bytesOf 4 x.st.wpos)).andThen s fun _ s =>
        (s.modFlow n u fun st => { st with fibre := some { f with ready := true, next := p0, stop := p1, have_ := m } }, none)

/-- The rest of a long fibre is read as the ring frees, line by line. -/
def moreRefill (s : State) (n : Nat) (u : FUnit) (f : Fibre) : Ran :=
  let m := min (f.stop - (f.next + f.have_)) (ringCap (s.unit n u) - f.have_)
  if m = 0 then (s, some .wait)
  else refillRing s n u (f.next + f.have_) m fun i s =>
    (s.modFlow n u fun st => { st with fibre := some { f with have_ := f.have_ + i } }, none)

/-- SCANNER_REFILL (R251, R386). -/
def execScannerRefill (leaf : Nat) (u : FUnit) (s : State) : Host.Outcome State Fault Refusal :=
  unitStep [2, 5] leaf u s fun s =>
    match (s.flow leaf u).fibre with
    | some f => if f.ready then moreRefill s leaf u f else firstRefill s leaf u f
    | none => (s, some .wait)

/-- A SKIP applied to the fibre that a scanner is emitting (R252). -/
def skipFibre (c : Nat) (f : Fibre) : Fibre :=
  { f with skip := max f.skip c, elems := f.elems.filter fun e => decide (c ≤ e.1) }

/-- SKIP_RECEIVE (R252): a SKIP of another epoch is dropped. -/
def execSkipReceive (leaf : Nat) (u : FUnit) (s : State) : Host.Outcome State Fault Refusal :=
  if Config.leafCount ≤ leaf then .fault .noSuchUnit
  else if !unitRuns s leaf u || !isScan (s.unit leaf u).mode then idle s
  else
    let x := s.unit leaf u
    match x.skp 0, (x.skp 0).bind (headOf s leaf) with
    | some p, some t =>
      if t.kind ≠ .skip ∨ !rtSkip ((s.leaf leaf).routes.getD p 0) then
        .next (settleUnit leaf u (s, some (.stream 0x0205 4 (some t) none 4 none)))
      else
        let s := dropHead s leaf p
        .next (s.modFlow leaf u fun st =>
          { st with fibre := if t.epoch = st.stops % 32 then st.fibre.map (skipFibre (t.lane 0).toNat) else st.fibre })
    | _, _ => idle s

/-! ### `ISECT` and `UNION` (R253, R254) -/

/-- Inputs of a side: coordinates, and refs where they are enabled. -/
def sideInputs (x : FlowUnit) (k : Nat) : List Nat := 2 * k :: if (x.inp (2 * k + 1)).isSome then [2 * k + 1] else []

/-- Coordinates of a token checked against the last one of their fibre (R233): the one that does not increase, if any. -/
def unordered : Option Nat → List Nat → Option Nat
  | _, [] => none
  | some p, c :: cs => if c ≤ p then some c else unordered (some c) cs
  | none, c :: cs => unordered (some c) cs

/-- The next tokens of a side become its head. -/
def fillSide (s : State) (n : Nat) (u : FUnit) (k : Nat) : Ran :=
  takeStep s n u (sideInputs (s.unit n u) k) fun s ts =>
    let t := ts.headD default
    let r := ts.getD 1 t
    let st := s.flow n u
    match t.kind with
    | .data =>
      let es := (validLanes t).map fun i => ((t.lane i).toNat, (r.lane i).toNat)
      match unordered (st.lastCrd.getD k none) (es.map (·.1)) with
      | some c => (s, some (.stream 0x0203 c (some t) none (2 * k) none))
      | none => (s.modFlow n u fun st =>
          { st with
            heads := lset st.heads k es
            lastCrd := match es.getLast? with
              | some e => lset st.lastCrd k (some e.1)
              | none => st.lastCrd }, none)
    | _ => (s.modFlow n u fun st => { st with marks := lset st.marks k (some t) }, none)

/-- A partly filled token is sent: coordinates, and the refs of the enabled inputs (Table 3 of R244). -/
def flushPair (s : State) (n : Nat) (u : FUnit) : State :=
  let xs := (s.flow n u).packed
  if xs = [] then s
  else
    let x := s.unit n u
    let s := emitTok s n u 0 (packTok (xs.map fun e => e.getD 0 0))
    let s := if (x.inp 1).isSome then emitTok s n u 1 (packTok (xs.map fun e => e.getD 1 0)) else s
    let s := if (x.inp 3).isSome then emitTok s n u 2 (packTok (xs.map fun e => e.getD 2 0)) else s
    s.modFlow n u fun st => { st with packed := [] }

/-- An element emitted; 16 of them are a token. -/
def emitPair (s : State) (n : Nat) (u : FUnit) (c ra rb : Nat) : State :=
  let s := s.modFlow n u fun st => { st with packed := st.packed ++ [[BitVec.ofNat 32 c, BitVec.ofNat 32 ra, BitVec.ofNat 32 rb]] }
  if 16 ≤ (s.flow n u).packed.length then flushPair s n u else s

/-- A token without lanes on the outputs of a pair unit. -/
def emitMark (s : State) (n : Nat) (u : FUnit) (t : Token) : State :=
  let x := s.unit n u
  let s := emitTok s n u 0 t
  let s := if (x.inp 1).isSome then emitTok s n u 1 t else s
  if (x.inp 3).isSome then emitTok s n u 2 t else s

/-- The head element of a side is taken. -/
def dropSide (s : State) (n : Nat) (u : FUnit) (k : Nat) : State :=
  s.modFlow n u fun st => { st with heads := lmod st.heads k (·.drop 1) }

/-- SKIP(t) toward side k, whose head is `lag`, under the conditions of R254. -/
def sendSkip (s : State) (n : Nat) (u : FUnit) (k t lag : Nat) : State :=
  let x := s.unit n u
  match x.skp k with
  | some p =>
    if x.body 0x10 4 ≠ 0 ∧ lag + x.body 0x10 4 < t ∧ ((x.st.skipped.getD k none).all fun c => decide (c < t)) ∧ mayEnter s n p
    then
      (enterPort s n p { kind := .skip, deckle := 1, lanes := BitVec.ofNat 32 t :: List.replicate 15 0,
                         epoch := x.st.taken.getD k 0 % 32 }).modFlow n u fun st => { st with skipped := lset st.skipped k (some t) }
    else s
  | none => s

/-- Two marks at the heads: equal STOPs, two DONEs, or a structure error. -/
def markStep (s : State) (n : Nat) (u : FUnit) (a b : Token) : Ran :=
  if a.kind ≠ b.kind ∨ a.level ≠ b.level then (s, some (.stream 0x0201 2 (some b) (some a) 2 none))
  else if a.kind = .stop then
    let s := emitMark (flushPair s n u) n u (bareTok .stop a.level)
    (s.modFlow n u fun st =>
      { st with marks := [none, none], lastCrd := [none, none], skipped := [none, none], taken := st.taken.map (· + 1) }, none)
  else (endUnit (emitMark (flushPair s n u) n u (bareTok .done)) n u, none)

/-- One side holds an element and the other a mark: class 0x0201 against a DONE. -/
def loneStep (s : State) (n : Nat) (u : FUnit) (isUnion : Bool) (k : Nat) (e : Nat × Nat) (m : Token) : Ran :=
  if m.kind = .done then (s, some (.stream 0x0201 (2 * (1 - k)) (some m) none (2 * (1 - k)) none))
  else
    let none_ := (s.unit n u).body 0x14 4
    let s := dropSide s n u k
    if !isUnion then (s, none)
    else if k = 0 then (emitPair s n u e.1 e.2 none_, none) else (emitPair s n u e.1 none_ e.2, none)

/-- Two elements at the heads (Table 9). -/
def elemStep (s : State) (n : Nat) (u : FUnit) (isUnion : Bool) (a b : Nat × Nat) : Ran :=
  let none_ := (s.unit n u).body 0x14 4
  if a.1 = b.1 then (emitPair (dropSide (dropSide s n u 0) n u 1) n u a.1 a.2 b.2, none)
  else if a.1 < b.1 then
    let s := dropSide s n u 0
    (if isUnion then emitPair s n u a.1 a.2 none_ else sendSkip s n u 0 b.1 a.1, none)
  else
    let s := dropSide s n u 1
    (if isUnion then emitPair s n u b.1 none_ b.2 else sendSkip s n u 1 a.1 b.1, none)

/-- A side has nothing at its head, and its tokens have come. -/
def sideEmpty (st : FlowState) (k : Nat) : Bool := (st.heads.getD k []).isEmpty && (st.marks.getD k none).isNone
def sideHere (s : State) (n : Nat) (u : FUnit) (k : Nat) : Bool :=
  (sideInputs (s.unit n u) k).all fun i => (unitHead s n u i).isSome

/-- One action of Table 9, or the filling of a side. -/
def pairStep (isUnion : Bool) (s : State) (n : Nat) (u : FUnit) : Ran :=
  let st := s.flow n u
  if sideEmpty st 0 && sideHere s n u 0 then fillSide s n u 0
  else if sideEmpty st 1 && sideHere s n u 1 then fillSide s n u 1
  else match st.heads.getD 0 [], st.heads.getD 1 [], st.marks.getD 0 none, st.marks.getD 1 none with
    | a :: _, b :: _, _, _ => elemStep s n u isUnion a b
    | a :: _, [], _, some m => loneStep s n u isUnion 0 a m
    | [], b :: _, some m, _ => loneStep s n u isUnion 1 b m
    | [], [], some a, some b => markStep s n u a b
    | _, _, _, _ => (s, some .wait)

/-- ISECT_STEP (R253, R254). -/
def execIsectStep (leaf : Nat) (u : FUnit) (s : State) : Host.Outcome State Fault Refusal :=
  unitStep [0x08] leaf u s fun s => pairStep false s leaf u

/-- UNION_STEP (R253). -/
def execUnionStep (leaf : Nat) (u : FUnit) (s : State) : Host.Outcome State Fault Refusal :=
  unitStep [0x09] leaf u s fun s => pairStep true s leaf u

/-! ### `REPEAT` (R255) -/

/-- A token of `IN1` that contributes no element: an EMPTY under ABSORB or FORWARD, or a mask of 0. -/
def noElement (x : FlowUnit) (t : Token) : Bool := (t.kind == .empty && x.pol != 2) || (t.kind == .data && t.deckle == 0)

/-- What is wrong with the head of input i, whatever the mode. -/
def inputBad (s : State) (n : Nat) (u : FUnit) (i : Nat) (h : Token) : Option UnitStop :=
  ((s.unit n u).inp i).bind fun p => headBad s n p i h

/-- An element of `IN1` is fetched where the shape needs one. -/
def fetchElement (s : State) (n : Nat) (u : FUnit) : Ran :=
  match unitHead s n u 1 with
  | none => (s, some .wait)
  | some h =>
    if (inputBad s n u 1 h).isNone ∧ (h.kind = .stop ∨ h.kind = .done) then
      (s, some (.stream 0x0201 1 (some h) none 1 none))
    else
      let (r, t) := takeTok s n u 1 false
      r.next fun s =>
        let x := s.unit n u
        if noElement x t then (s, none)
        else
          let t := replaced x t
          (s.modFlow n u fun st => { st with queue := st.queue ++ (validLanes t).map t.lane, toks := [t] }, none)

/-- `IN1` must present a mark, which is taken, before the shape's own (Table 10). -/
def matchMark (s : State) (n : Nat) (u : FUnit) (want : Token) (k : State → Ran) : Ran :=
  let x := s.unit n u
  if x.st.queue ≠ [] then
    (s, some (.stream 0x0201 1 (s.flow n u).toks.head? (some want) 1 none))
  else match unitHead s n u 1 with
    | none => (s, some .wait)
    | some h =>
      if noElement x h || (inputBad s n u 1 h).isSome then (takeTok s n u 1 false).1
      else if h.kind ≠ want.kind ∨ h.level ≠ want.level then (s, some (.stream 0x0201 1 (some h) (some want) 1 none))
      else (takeTok s n u 1 false).1.next k

/-- The shape's head is taken and emitted as it stands. -/
def passShape (s : State) (n : Nat) (u : FUnit) (last : Bool) : Ran :=
  let (r, t) := takeTok s n u 0 true
  r.next fun s =>
    let s := emitTok s n u 0 (bareTok t.kind t.level)
    let s := s.modFlow n u fun st => { st with took := false }
    (if last then endUnit s n u else s, none)

/-- The shape's data token, every valid lane the element in force. -/
def repeatData (s : State) (n : Nat) (u : FUnit) : Ran :=
  let (r, t) := takeTok s n u 0 true
  r.next fun s =>
    let t := replaced (s.unit n u) t
    let v := (s.flow n u).repl
    (emitTok s n u 0 { t with lanes := (upTo 16).map fun i => if testBit t.deckle.toNat i then v else 0 }, none)

/-- The element of the current level-0 fibre is taken from those fetched. -/
def holdElement (s : State) (n : Nat) (u : FUnit) : State :=
  s.modFlow n u fun st => { st with took := true, repl := st.queue.headD 0, queue := st.queue.drop 1 }

/-- One action of Table 10. -/
def repeatStep (s : State) (n : Nat) (u : FUnit) : Ran :=
  match unitHead s n u 0 with
  | none => (s, some .wait)
  | some h =>
    let st := s.flow n u
    if (inputBad s n u 0 h).isSome ∨ (h.kind = .empty ∧ (s.unit n u).pol = 0) then (takeTok s n u 0 true).1
    else if (h.kind = .data ∨ h.kind = .empty ∨ h.kind = .stop) ∧ !st.took then
      if st.queue = [] then fetchElement s n u else (holdElement s n u, none)
    else match h.kind with
      | .data | .empty => repeatData s n u
      | .stop =>
        if h.level = 0 then passShape s n u false
        else matchMark s n u (bareTok .stop (h.level - 1)) fun s => passShape s n u false
      | .done => matchMark s n u (bareTok .done) fun s => passShape s n u true
      | _ => (takeTok s n u 0 true).1

/-- REPEAT_STEP (R255). -/
def execRepeatStep (leaf : Nat) (u : FUnit) (s : State) : Host.Outcome State Fault Refusal :=
  unitStep [0x0A] leaf u s fun s => repeatStep s leaf u

end Sys2Proof.Machine
end

