-- ==== Sys2Proof/Machine/FlowOps.lean ====
section
/-!
DEFINITION. `REDUCE` and `SPACC` (R256, R257), `LWRITE` (R258), `GATHER` and `SCATTER` (R259, R260), `FILTER` and `COALESCE`
(R261, R262) and `AGEN` (R263).
-/

namespace Sys2Proof.Machine

/-! ### Sums (R100, R256) -/

/-- Arithmetic flags of a unit. -/
def unitFlags (s : State) (n : Nat) (u : FUnit) (f : Flags6) : State := s.modUnit n u fun x => { x with flags := x.flags ||| f }

/-- A sum of F32, S32 or Z32 under a rounding environment (R256): the code and its flags. -/
def sum32 (fmt : Nat) (env : FEnv) (sat : Bool) (lane : Nat) (a b : Word32) : Word32 × Flags6 :=
  if fmt = 0 then
    let r := fopLane env .f32 .add sat lane a.toNat b.toNat 0
    (BitVec.ofNat 32 r.1, r.2)
  else
    let r := intOp .add .w32 (fmt == 0xC) sat (a.setWidth 64) (b.setWidth 64)
    (r.1.setWidth 32, r.2)

/-- A rounding code of R97. -/
def rmOf (c : Nat) : Rm :=
  match c with
  | 0 => .rne | 1 => .rtz | 2 => .rdn | 3 => .rup | 4 => .rna | 5 => .sr | _ => .dyn

/-- A sum of `REDUCE` or `SPACC` in the lane of its token. DESIGN CHOICE (log 121): the t of R100 is the count of DATA tokens taken
before this one, so the first draws with 0. -/
def unitSum (s : State) (n : Nat) (u : FUnit) (fmt arith lane : Nat) (a b : Word32) : Word32 × Flags6 :=
  let x := s.unit n u
  sum32 fmt (unitEnv s n x.fpmode (rmOf (arith % 8)) x.issuer (6 + unitIdx u) (x.draws - 1)) (testBit arith 3) lane a b

/-- A DATA token taken from the value input counts for R100. -/
def countDraw (s : State) (n : Nat) (u : FUnit) : State := s.modUnit n u fun x => { x with draws := x.draws + 1 }

/-! ### `REDUCE` (R256) -/

/-- The elements held leave as one token. -/
def flushPacked (s : State) (n : Nat) (u : FUnit) (outs : Nat) : State :=
  let xs := (s.flow n u).packed
  if xs = [] then s
  else ((upTo outs).foldl (fun s o => emitTok s n u o (packTok (xs.map fun e => e.getD o 0))) s).modFlow n u fun st =>
    { st with packed := [] }

/-- An element held for an output token; 16 of them leave. -/
def pushPacked (s : State) (n : Nat) (u : FUnit) (outs : Nat) (e : List Word32) : State :=
  let s := s.modFlow n u fun st => { st with packed := st.packed ++ [e] }
  if 16 ≤ (s.flow n u).packed.length then flushPacked s n u outs else s

/-- Valid lanes of a token added to the sum, in lane order. -/
def reduceLanes (n : Nat) (u : FUnit) (t : Token) (s : State) : State :=
  (validLanes t).foldl (fun s i =>
    let x := s.unit n u
    let (v, f) := unitSum s n u (x.body 0x10 1) (x.body 0x11 1) i x.st.sum (t.lane i)
    unitFlags (s.modFlow n u fun st => { st with sum := v }) n u f) s

/-- One action of Table 11. -/
def reduceStep (s : State) (n : Nat) (u : FUnit) : Ran :=
  let depth := (s.unit n u).body 0x12 1
  let last := (s.flow n u).seen.getD 0 none
  takeOne s n u 0 true fun s t =>
    match t.kind with
    | .data => (reduceLanes n u t (countDraw s n u), none)
    | .stop =>
      if depth ≤ t.level then (s, some (.stream 0x0202 0 (some t) none 0 none))
      else
        let s := (pushPacked s n u 1 [(s.flow n u).sum]).modFlow n u fun st => { st with sum := 0 }
        if t.level = 0 ∧ 2 ≤ depth then (s, none)
        else (emitTok (flushPacked s n u 1) n u 0 (bareTok .stop (t.level - 1)), none)
    | .done =>
      if last ≠ some (depth - 1) then (s, some (.stream 0x0202 0 (some t) none 0 none))
      else (endUnit (emitTok s n u 0 (bareTok .done)) n u, none)
    | _ => (s, none)

/-- REDUCE_STEP (R256). -/
def execReduceStep (leaf : Nat) (u : FUnit) (s : State) : Host.Outcome State Fault Refusal :=
  unitStep [0x0C] leaf u s fun s => reduceStep s leaf u

/-! ### Work on the lanes of tokens already taken -/

/-- The tokens of a step are kept while its accesses perform (R268: a unit holds at an access as at a token boundary). -/
def keepToks (s : State) (n : Nat) (u : FUnit) (ts : List Token) : State :=
  s.modFlow n u fun st => { st with toks := ts, lane := 0, vals := [] }

/-- The accesses of the kept tokens from where they stand: `act` performs access k; each that performs is counted. -/
def lanesLoop (n : Nat) (u : FUnit) (total : Nat) (act : State → Nat → Got Unit) : Nat → State → Ran
  | 0, s => (s, none)
  | fuel + 1, s =>
    let k := (s.flow n u).lane
    if total ≤ k then (s, none)
    else match act s k with
      | .ok (_, s) => lanesLoop n u total act fuel (s.modFlow n u fun st => { st with lane := k + 1 })
      | .error e => (s, some e)

/-- The kept tokens are done with. -/
def dropToks (s : State) (n : Nat) (u : FUnit) : State := s.modFlow n u fun st => { st with toks := [], lane := 0, vals := [] }

/-! ### `SPACC` (R257) -/

/-- The addition of one lane (c, v): the bit of c and its value, both or neither. -/
def spaccLane (n : Nat) (u : FUnit) (ts : List Token) (s : State) (i : Nat) : Got Unit :=
  let t := ts.headD default
  if !testBit t.deckle.toNat i then .ok ((), s)
  else
    let x := s.unit n u
    let c := (t.lane i).toNat
    let v := (ts.getD 1 default).lane i
    if x.body 0x18 4 ≤ c then .error (.stream 0x0203 c (some t) none 0 none)
    else
      let bl := x.body 0x10 4 + c / 8
      let vl := x.body 0x14 4 + 4 * c
      match unitLeafRead s n u bl 1, unitLeafRead s n u vl 4 with
      | .error e, _ => .error e
      | _, .error e => .error e
      | .ok (b, _), .ok (old, _) =>
        let bit := field b 0 1
        if testBit bit (c % 8) then
          let (w, f) := unitSum s n u (x.body 0x1C 1) (x.body 0x1D 1) i (BitVec.ofNat 32 (field old 0 4)) v
          (unitLeafWrite s n u vl (bytesOf 4 w.toNat)).map fun r => ((), unitFlags r.2 n u f)
        else (unitLeafWrite s n u bl (bytesOf 1 (bit + 2 ^ (c % 8)))).bind fun r =>
          unitLeafWrite r.2 n u vl (bytesOf 4 v.toNat)

/-- The lowest set coordinate at or above one, within its block of 512. -/
def nextSet (bs : List Byte) (from_ : Nat) : Option Nat :=
  ((upTo 512).find? fun i => decide (from_ % 512 ≤ i) && testBit (bs.getD (i / 8) 0).toNat (i % 8)).map fun i =>
    from_ / 512 * 512 + i

/-- One set coordinate is emitted with its value, and both are cleared. -/
def drainOne (s : State) (n : Nat) (u : FUnit) (c : Nat) : Ran :=
  let x := s.unit n u
  let bl := x.body 0x10 4 + c / 8
  let vl := x.body 0x14 4 + 4 * c
  (unitLeafRead s n u bl 1).andThen s fun b _ =>
    (unitLeafRead s n u vl 4).andThen s fun v _ =>
      (unitLeafWrite s n u bl (bytesOf 1 (field b 0 1 - 2 ^ (c % 8)))).andThen s fun _ s1 =>
        (unitLeafWrite s1 n u vl (zeros 4)).andThen s fun _ s2 =>
          (pushPacked (s2.modFlow n u fun st => { st with drain := some (c + 1) }) n u 2
            [BitVec.ofNat 32 c, BitVec.ofNat 32 (field v 0 4)], none)

/-- The drain of a level-1 fibre goes on from a coordinate: its next set one, or the flush and the STOP. -/
def drainStep (s : State) (n : Nat) (u : FUnit) (c : Nat) : Ran :=
  let x := s.unit n u
  if x.body 0x18 4 ≤ c then
    let s := flushPacked s n u 2
    let t := bareTok .stop x.st.level
    ((emitTok (emitTok s n u 0 t) n u 1 t).modFlow n u fun st => { st with drain := none }, none)
  else (unitLeafRead s n u (x.body 0x10 4 + c / 512 * 64) 64).andThen s fun bs s =>
    match nextSet bs c with
    | some d => if x.body 0x18 4 ≤ d then (s.modFlow n u fun st => { st with drain := some (x.body 0x18 4) }, none)
        else drainOne s n u d
    | none => (s.modFlow n u fun st => { st with drain := some (c / 512 * 512 + 512) }, none)

/-- What `SPACC` does next. -/
def spaccStep (s : State) (n : Nat) (u : FUnit) : Ran :=
  let st := s.flow n u
  match st.drain, st.toks with
  | some c, _ => drainStep s n u c
  | none, t :: ts => (lanesLoop n u 16 (spaccLane n u (t :: ts)) 16 s).next fun s => (dropToks s n u, none)
  | none, [] =>
    let last := st.seen.getD 0 none
    takeStep s n u [0, 1] fun s ts =>
      let t := ts.headD default
      match t.kind with
      | .data => (keepToks (countDraw s n u) n u ts, none)
      | .stop =>
        if t.level = 0 then (s, none)
        else (s.modFlow n u fun st => { st with drain := some 0, level := t.level - 1 }, none)
      | .done =>
        if last = some 0 then (s, some (.stream 0x0202 0 (some t) none 0 none))
        else (endUnit (emitTok (emitTok s n u 0 (bareTok .done)) n u 1 (bareTok .done)) n u, none)
      | _ => (s, none)

/-- SPACC_STEP (R257). -/
def execSpaccStep (leaf : Nat) (u : FUnit) (s : State) : Host.Outcome State Fault Refusal :=
  unitStep [0x0D] leaf u s fun s => spaccStep s leaf u

/-! ### `LWRITE` (R258) -/

/-- Access k of a DATA step: the coordinate (even) and the value (odd) of lane k / 2, at the count of elements before it. -/
def lwriteAccess (n : Nat) (u : FUnit) (ts : List Token) (s : State) (k : Nat) : Got Unit :=
  let x := s.unit n u
  let wf := x.body 0x28 4
  let t := ts.headD default
  let i := k / 2
  if !testBit t.deckle.toNat i then .ok ((), s)
  else if k % 2 = 0 then
    if testBit wf 1 then unitWrite s n u (x.body 0x18 8 + 4 * x.st.count) (bytesOf 4 (t.lane i).toNat) else .ok ((), s)
  else
    let bump := fun (s : State) => s.modFlow n u fun st => { st with count := (st.count + 1) % 2 ^ 32 }
    if testBit wf 2 then
      (unitWrite s n u (x.body 0x20 8 + 4 * x.st.count) (bytesOf 4 ((ts.getLast?.getD default).lane i).toNat)).map fun r =>
        ((), bump r.2)
    else .ok ((), bump s)

/-- The inputs that `LWRITE` reads. -/
def lwriteInputs (x : FlowUnit) : List Nat := [0, 1].filter fun i => (x.inp i).isSome

/-- A STOP or DONE of `LWRITE`, once taken: its write, and the count of fibres or the end. -/
def lwriteMark (s : State) (n : Nat) (u : FUnit) (t : Token) : Ran :=
  let x := s.unit n u
  let st := x.st
  if t.kind = .stop then
    (if testBit (x.body 0x28 4) 0 then unitWrite s n u (x.body 0x10 8 + 4 * (st.fibres + 1)) (bytesOf 4 st.count)
      else .ok ((), s)).andThen s fun _ s =>
      ((dropToks s n u).modFlow n u fun st => { st with fibres := (st.fibres + 1) % 2 ^ 32 }, none)
  else
    (if x.body 0x30 8 ≠ 0 then unitWrite s n u (x.body 0x30 8) (bytesOf 4 st.fibres ++ bytesOf 4 st.count ++ zeros 8)
      else .ok ((), s)).andThen s fun _ s => (endUnit (dropToks s n u) n u, none)

/-- What `LWRITE` does next. -/
def lwriteStep (s : State) (n : Nat) (u : FUnit) : Ran :=
  let x := s.unit n u
  let st := x.st
  if !st.begun then
    (if testBit (x.body 0x28 4) 0 then unitWrite s n u (x.body 0x10 8) (zeros 4) else .ok ((), s)).andThen s fun _ s =>
      (s.modFlow n u fun st => { st with begun := true }, none)
  else match st.toks with
    | t :: ts =>
      if t.kind = .data then
        (lanesLoop n u 32 (lwriteAccess n u (t :: ts)) 32 s).next fun s => (dropToks s n u, none)
      else lwriteMark s n u t
    | [] => takeStep s n u (lwriteInputs x) fun s ts => (keepToks s n u ts, none)

/-- LWRITE_STEP (R258). -/
def execLwriteStep (leaf : Nat) (u : FUnit) (s : State) : Host.Outcome State Fault Refusal :=
  unitStep [0x0E] leaf u s fun s => lwriteStep s leaf u

/-! ### `GATHER` and `SCATTER` (R259, R260) -/

/-- A refused device address (class 0x030C): `ADDR` holds its bits [63:0]. -/
def vaRefused (s : State) (n : Nat) (u : FUnit) (acc detail : Nat) (a : Int) : UnitStop :=
  let c := unitCore s n u
  .refuse (memReport s { strandReport s c 0x030C sevTask with uclass := 2 } 0x030C sevTask acc (unitCode u)
    (irrevocable s c) false .va (wordOfInt a).toNat 0 detail)

/-- The 4 B at an address of the leaf (space 0) or of device memory. -/
def readWord (s : State) (n : Nat) (u : FUnit) (device : Bool) (detail : Nat) (a : Int) : Got (List Byte) :=
  if device then
    if a < 0 ∨ (2 ^ 52 : Int) ≤ a then .error (vaRefused s n u accFlowRead detail a) else unitRead s n u a.toNat 4
  else if a < 0 ∨ (Config.leafBytes : Int) < a + 4 then .error (unitLaStop s n u accFlowRead a.toNat 3 0x0309)
  else unitLeafRead s n u a.toNat 4

/-- The address of a ref (R259), computed exactly. -/
def refAddr (x : FlowUnit) (r : Word32) : Int := ((x.body 0x10 8 + x.body 0x18 4 * r.toNat : Nat) : Int)

/-- Lane i of a `GATHER`: the value read, or `FILL`. -/
def gatherLane (n : Nat) (u : FUnit) (t : Token) (s : State) (i : Nat) : Got Unit :=
  let x := s.unit n u
  let put := fun (s : State) (v : Nat) => s.modFlow n u fun st => { st with vals := st.vals ++ [BitVec.ofNat 32 v] }
  if !testBit t.deckle.toNat i then .ok ((), put s 0)
  else if (t.lane i).toNat = x.body 0x24 4 then .ok ((), put s (x.body 0x20 4))
  else (readWord s n u (testBit (x.body 0x1C 1) 0) 0 (refAddr x (t.lane i))).map fun r => ((), put r.2 (field r.1 0 4))

/-- An ordering token of `IN1` is taken (R260). -/
def takeOrder (s : State) (n : Nat) (u : FUnit) : Ran :=
  takeOne s n u 1 false fun s t =>
    (s.modFlow n u fun st => { st with chain := st.chain + 1, chainUp := st.chainUp || t.kind == .done }, none)

/-- What `GATHER` does next. -/
def gatherStep (s : State) (n : Nat) (u : FUnit) : Ran :=
  let x := s.unit n u
  let st := x.st
  match st.toks with
  | t :: _ =>
    (lanesLoop n u 16 (gatherLane n u t) 16 s).next fun s =>
      let vals := (s.flow n u).vals
      (dropToks (emitTok s n u 0 { t with lanes := vals }) n u, none)
  | [] =>
    if testBit (x.body 0x1C 1) 1 ∧ !st.chainUp ∧ st.chain = 0 then takeOrder s n u
    else takeOne s n u 0 true fun s t =>
      let s := s.modFlow n u fun st => { st with chain := st.chain - 1 }
      match t.kind with
      | .data => (keepToks s n u [t], none)
      | .done => (endUnit (emitTok s n u 0 (bareTok .done)) n u, none)
      | _ => (emitTok s n u 0 (bareTok t.kind t.level), none)

/-- GATHER_STEP (R259, R260). -/
def execGatherStep (leaf : Nat) (u : FUnit) (s : State) : Host.Outcome State Fault Refusal :=
  unitStep [0x10] leaf u s fun s => gatherStep s leaf u

/-- An addition of `SCATTER` to device memory: an `ATOMG.fadd` (R259), an irrevocable act (R268). -/
def scatterAtomic (s : State) (n : Nat) (u : FUnit) (va : Nat) (v : Word32) : Got Unit :=
  let c := unitCore s n u
  let k := leafCtx s n
  let g := (s.leaf n).gath
  let inst := instOf s g
  match unitTrans s n u va accAtomic with
  | .error e => .error e
  | .ok (t, s) =>
    if !irrevocable s c then .error .grant
    else if (s.attrs k).det ∧ olderRuns s k inst then .error .wait
    else if t.home ≠ s.pkg then
      match sendAtom s k t.home t.pa 7 (v.setWidth 64) g inst with
      | .ok s => .ok ((), unitFreed s n u)
      | .error r => .error (.refuse { r with where_ := whereWord c })
    else match unitTurn s n u accAtomic va t.pa 4 with
      | .error e => .error e
      | .ok s =>
        if hbmPoisoned s t.pa 4 then .error (.access ⟨poisonFault t.pa t.pte 0, accAtomic, va, none⟩)
        else .ok ((), (hbmAtomic s t.pa 7 (v.setWidth 64)).2)

/-- A write or an addition of `SCATTER` in the leaf (R259). -/
def scatterLeaf (s : State) (n : Nat) (u : FUnit) (la : Nat) (v : Word32) : Got Unit :=
  let x := s.unit n u
  if testBit (x.body 0x1C 1) 2 then
    (unitLeafRead s n u la 4).bind fun r =>
      let (w, f) := sum32 (x.body 0x1D 1) (envOf x.fpmode .rne 0) false 0 (BitVec.ofNat 32 (field r.1 0 4)) v
      (unitLeafWrite r.2 n u la (bytesOf 4 w.toNat)).map fun r => ((), unitFlags r.2 n u f)
  else unitLeafWrite s n u la (bytesOf 4 v.toNat)

/-- Lane i of a `SCATTER`. -/
def scatterLane (n : Nat) (u : FUnit) (ts : List Token) (s : State) (i : Nat) : Got Unit :=
  let x := s.unit n u
  let t := ts.headD default
  let v := (ts.getD 1 default).lane i
  let a := refAddr x (t.lane i)
  if !testBit t.deckle.toNat i ∨ (t.lane i).toNat = x.body 0x24 4 then .ok ((), s)
  else if testBit (x.body 0x1C 1) 0 then
    if (2 ^ 52 : Int) ≤ a then .error (vaRefused s n u (if testBit (x.body 0x1C 1) 2 then accAtomic else accFlowWrite) 0 a)
    else if testBit (x.body 0x1C 1) 2 then scatterAtomic s n u a.toNat v
    else unitWrite s n u a.toNat (bytesOf 4 v.toNat)
  else if (Config.leafBytes : Int) < a + 4 then .error (unitLaStop s n u accFlowWrite a.toNat 3 0x0309)
  else scatterLeaf s n u a.toNat v

/-- The ordering token of a step, with `CHAIN` (R260). -/
def emitOrder (s : State) (n : Nat) (u : FUnit) (last : Bool) : State :=
  if testBit ((s.unit n u).body 0x1C 1) 1 then emitTok s n u 0 (bareTok (if last then .done else .data)) else s

/-- What `SCATTER` does next. -/
def scatterStep (s : State) (n : Nat) (u : FUnit) : Ran :=
  match (s.flow n u).toks with
  | t :: ts => (lanesLoop n u 16 (scatterLane n u (t :: ts)) 16 s).next fun s => (emitOrder (dropToks s n u) n u false, none)
  | [] => takeStep s n u [0, 1] fun s ts =>
    match (ts.headD default).kind with
    | .data => (keepToks s n u ts, none)
    | .done => (endUnit (emitOrder s n u true) n u, none)
    | _ => (emitOrder s n u false, none)

/-- SCATTER_STEP (R259, R260, R268). -/
def execScatterStep (leaf : Nat) (u : FUnit) (s : State) : Host.Outcome State Fault Refusal :=
  unitStep [0x11] leaf u s fun s => scatterStep s leaf u

/-! ### `FILTER` and `COALESCE` (R261, R262) -/

/-- A comparison of `FILTER`. -/
def relates (cc : Nat) (a b : Int) : Bool :=
  match cc with
  | 0 => decide (a = b) | 1 => decide (a ≠ b) | 2 => decide (a < b) | 3 => decide (a ≤ b) | 4 => decide (b < a)
  | _ => decide (b ≤ a)

/-- Inputs that `FILTER` reads, with their outputs: the predicate has none. -/
def filterInputs (x : FlowUnit) : List (Nat × Option Nat) :=
  [(0, some 0)] ++ (if testBit (x.body 0x10 1) 3 then [] else [(1, none)])
    ++ (if (x.inp 2).isSome then [(2, some 1)] else []) ++ (if (x.inp 3).isSome then [(3, some 2)] else [])

/-- Lanes of a DATA step that `FILTER` keeps. -/
def keptLanes (x : FlowUnit) (ts : List Token) : List Nat :=
  let p := x.body 0x10 1
  (validLanes (ts.headD default)).filter fun i =>
    if testBit p 3 then
      let a := ((ts.headD default).lane i).toNat
      let k := x.body 0x14 4
      if testBit p 4 then relates (p % 8) (s32 a) (s32 k) else relates (p % 8) a k
    else (ts.getD 1 default).lane i != 0

/-- A DATA token with the kept lanes, moved to lanes 0 upward by `COMPACT`. -/
def keepLanes (compact : Bool) (ks : List Nat) (t : Token) : Token :=
  if compact then packTok (ks.map t.lane)
  else
    { kind := .data, deckle := BitVec.ofNat 16 ((ks.map fun i => 2 ^ i).foldl (· + ·) 0),
      lanes := (upTo 16).map fun i => if ks.contains i then t.lane i else 0 }

/-- Tokens of a step emitted on the outputs of their inputs. -/
def emitOuts (n : Nat) (u : FUnit) : List ((Nat × Option Nat) × Token) → State → State
  | [], s => s
  | ((_, some o), t) :: xs, s => emitOuts n u xs (emitTok s n u o t)
  | ((_, none), _) :: xs, s => emitOuts n u xs s

/-- What `FILTER` does next. -/
def filterStep (s : State) (n : Nat) (u : FUnit) : Ran :=
  let ins := filterInputs (s.unit n u)
  takeStep s n u (ins.map (·.1)) fun s ts =>
    let x := s.unit n u
    let p := x.body 0x10 1
    let h := ts.headD default
    match h.kind with
    | .data =>
      let ks := keptLanes x ts
      if testBit p 6 ∧ ks = [] then (s, none)
      else (emitOuts n u (ins.zip (ts.map (keepLanes (testBit p 5) ks))) s, none)
    | .done => (endUnit (emitOuts n u (ins.map fun i => (i, bareTok .done)) s) n u, none)
    | _ => (emitOuts n u (ins.map fun i => (i, bareTok h.kind h.level)) s, none)

/-- FILTER_STEP (R261). -/
def execFilterStep (leaf : Nat) (u : FUnit) (s : State) : Host.Outcome State Fault Refusal :=
  unitStep [0x12] leaf u s fun s => filterStep s leaf u

/-- Inputs that `COALESCE` reads, each with its output. -/
def coalesceInputs (x : FlowUnit) : List Nat := (upTo 3).filter fun i => (x.inp i).isSome

/-- The lanes of a step, one element per valid lane; an input that is not enabled has zeros. -/
def stepElems (ins : List Nat) (ts : List Token) : List (List Word32) :=
  (validLanes (ts.headD default)).map fun i => (upTo 3).map fun o => ((ins.zip ts).find? fun x => x.1 == o).elim 0 fun x => x.2.lane i

/-- What `COALESCE` does next. -/
def coalesceStep (s : State) (n : Nat) (u : FUnit) : Ran :=
  let ins := coalesceInputs (s.unit n u)
  let all := fun (s : State) (t : Token) => ins.foldl (fun s o => emitTok s n u o t) s
  takeStep s n u ins fun s ts =>
    let h := ts.headD default
    match h.kind with
    | .data =>
      let old := (s.unit n u).outq.length
      let was := if (s.flow n u).packed = [] then 0 else (s.flow n u).packing
      let s := (stepElems ins ts).foldl (fun s e => pushPacked s n u 3 e) s
      let x := s.unit n u
      (s.modFlow n u fun st => { st with
        packing := if st.packed = [] then 0 else if x.outq.length = old then was + 1 else 1 }, none)
    | .done => (endUnit (all (flushPacked s n u 3) (bareTok .done)) n u, none)
    | _ => (all (flushPacked s n u 3) (bareTok h.kind h.level), none)

/-- COALESCE_STEP (R262). -/
def execCoalesceStep (leaf : Nat) (u : FUnit) (s : State) : Host.Outcome State Fault Refusal :=
  unitStep [0x13] leaf u s fun s => coalesceStep s leaf u

/-! ### `AGEN` (R263) -/

/-- Levels, bounds and strides of an `AGEN` record. -/
def agenLevels (x : FlowUnit) : Nat := x.body 0x18 1 / 4 % 4 + 1
def agenBound (x : FlowUnit) (k : Nat) : Nat := x.body (0x20 + 4 * k) 4
def agenStride (x : FlowUnit) (k : Nat) : Int := s32 (x.body (0x30 + 4 * k) 4)

/-- The indices of the loops as they stand. -/
def agenIndex (x : FlowUnit) (k : Nat) : Nat := x.st.index.getD k 0

/-- o of the index vector with its innermost index moved on by j. -/
def agenOffset (x : FlowUnit) (j : Nat) : Int :=
  ((upTo (agenLevels x)).map fun k => ((agenIndex x k + if k = 0 then j else 0 : Nat) : Int) * agenStride x k).foldl (· + ·) 0

/-- Lanes of the token that the innermost loop generates next. -/
def agenLanes (x : FlowUnit) : Nat := min 16 (agenBound x 0 - agenIndex x 0)

/-- Indices after the innermost loop has ended: those of the next fibre, and how many loops ended together. -/
def agenCarry (x : FlowUnit) : Nat → Nat → List Nat → List Nat × Nat
  | 0, k, ix => (ix, k)
  | fuel + 1, k, ix =>
    let v := ix.getD (k + 1) 0 + 1
    if agenLevels x ≤ k + 1 then (ix, k)
    else if v < agenBound x (k + 1) then (lset ix (k + 1) v, k)
    else agenCarry x fuel (k + 1) (lset ix (k + 1) 0)

/-- The loops move past the token just generated: the STOP that is due, if the innermost loop has ended. -/
def agenAdvance (s : State) (n : Nat) (u : FUnit) : State :=
  let x := s.unit n u
  let ix := (upTo 4).map (agenIndex x)
  let i0 := ix.getD 0 0 + agenLanes x
  s.modFlow n u fun st =>
    if i0 < agenBound x 0 then { st with index := lset ix 0 i0 }
    else
      let (ix, k) := agenCarry x 4 0 (lset ix 0 0)
      { st with index := ix, drain := some k, closed := k + 1 == agenLevels x }

/-- The address of lane j of `LOAD` and `STORE`. -/
def agenAddr (x : FlowUnit) (j : Nat) : Int := ((x.body 0x10 8 : Nat) : Int) + agenOffset x j

/-- Lane j of a `LOAD`. -/
def agenLoad (n : Nat) (u : FUnit) (s : State) (j : Nat) : Got Unit :=
  (readWord s n u true 1 (agenAddr (s.unit n u) j)).map fun r =>
    ((), r.2.modFlow n u fun st => { st with vals := st.vals ++ [BitVec.ofNat 32 (field r.1 0 4)] })

/-- Lane j of a `STORE`. -/
def agenStore (n : Nat) (u : FUnit) (t : Token) (s : State) (j : Nat) : Got Unit :=
  let a := agenAddr (s.unit n u) j
  if !testBit t.deckle.toNat j then .ok ((), s)
  else if a < 0 ∨ (2 ^ 52 : Int) ≤ a then .error (vaRefused s n u accFlowWrite 1 a)
  else unitWrite s n u a.toNat (bytesOf 4 (t.lane j).toNat)

/-- The output has a free slot for the token of the reads about to be issued (R263). -/
def outFree (s : State) (n : Nat) (x : FlowUnit) : Bool := (x.out 0).all (mayEnter s n)

/-- The stream of `REF` and `LOAD`: a token, a STOP that is due, or DONE. -/
def agenEmit (s : State) (n : Nat) (u : FUnit) : Ran :=
  let x := s.unit n u
  match x.st.drain with
  | some k => ((emitTok s n u 0 (bareTok .stop k)).modFlow n u fun st => { st with drain := none }, none)
  | none =>
    if x.st.closed then (endUnit (emitTok s n u 0 (bareTok .done)) n u, none)
    else if x.body 0x18 1 % 4 = 2 then
      let vs := (upTo (agenLanes x)).map fun j => (wordOfInt (agenOffset x j)).setWidth 32
      (agenAdvance (emitTok s n u 0 (packTok vs)) n u, none)
    else if x.st.lane = 0 ∧ !outFree s n x then (s, some .wait)
    else
      (lanesLoop n u (agenLanes x) (agenLoad n u) 16 s).next fun s =>
        (dropToks (agenAdvance (emitTok s n u 0 (packTok (s.flow n u).vals)) n u) n u, none)

/-- The token that the generated stream has next, without lanes but with the mask of its lanes. -/
def agenExpect (x : FlowUnit) : Token :=
  match x.st.drain with
  | some k => bareTok .stop k
  | none => if x.st.closed then bareTok .done else { kind := .data, deckle := BitVec.ofNat 16 (2 ^ agenLanes x - 1) }

/-- The input of `STORE` matches the generated stream: kind and level, and no valid lane beyond its lanes. -/
def agenMatches (e t : Token) : Bool :=
  t.kind == e.kind && t.level == e.level && (t.kind != .data || t.deckle ||| e.deckle == e.deckle)

/-- The stream of `STORE`. -/
def agenTake (s : State) (n : Nat) (u : FUnit) : Ran :=
  let x := s.unit n u
  match x.st.toks with
  | t :: _ =>
    (lanesLoop n u (agenLanes x) (agenStore n u t) 16 s).next fun s => (dropToks (agenAdvance s n u) n u, none)
  | [] =>
    takeOne s n u 0 false fun s t =>
      let e := agenExpect x
      if !agenMatches e t then (s, some (.stream 0x0201 0 (some t) (some e) 0 none))
      else match t.kind with
        | .data => (keepToks s n u [t], none)
        | .stop => (s.modFlow n u fun st => { st with drain := none }, none)
        | _ => (endUnit s n u, none)

/-- AGEN_STEP (R263). -/
def execAgenStep (leaf : Nat) (u : FUnit) (s : State) : Host.Outcome State Fault Refusal :=
  unitStep [0x14] leaf u s fun s =>
    if (s.unit leaf u).body 0x18 1 % 4 = 1 then agenTake s leaf u else agenEmit s leaf u

end Sys2Proof.Machine
end

