-- ==== Sys2Proof/Machine/Kv.lean ====
section
/-!
DEFINITION. The KV eviction engines: the gate check (R310, R315), the checks of a sequence (R304 to R308, R414), eviction and
compaction (R316, R342) and the finish (R317).
-/

namespace Sys2Proof.Machine

/-! ### Engine accesses and failures (R18, R414)

An access is made for an engine, which waits for its walks and for turns at its own port, or for none: as memory stands, for what a
reset leaves of an eviction (R415). -/

/-- An eviction that fails: result code, `REF`, `DETAIL`, and the access that faulted. -/
structure KvFail where
  code   : Nat
  ref    : Nat
  detail : Nat
  fault  : Option AccessFault := none

/-- The failure of an engine's access. -/
def kvFault (x : AccessFault) : KvFail := ⟨4, x.va, 0, some x⟩

/-- A translation for an engine: a page homed elsewhere is class 0x030B (R319). -/
def kvTrans (s : State) (e : Option Nat) (k va acc : Nat) : Except KvFail (Nat × State) :=
  match e with
  | none => match peekTrans s k va with
    | some pa => .ok (pa, s)
    | none => .error ⟨4, va, 0, none⟩
  | some e => match engineTrans s (.evict e) hubPlace k va acc false with
    | .error f => .error (kvFault f)
    | .ok (t, s) => if t.home ≠ s.pkg then .error (kvFault ⟨tfault 0x030B t.home t.pte, acc, va, none⟩) else .ok (t.pa, s)

/-- The turns of an access of n bytes at a PA. -/
def kvTurns (s : State) (e : Option Nat) (acc va pa n : Nat) : Except KvFail State :=
  match e with
  | none => .ok s
  | some e => match allTurns s (.evict e) acc va (portParts pa n) with
    | .error f => .error (kvFault f)
    | .ok s => .ok s

/-- The physical parts of a range to which an engine makes an access. -/
def kvParts (e : Option Nat) (k acc : Nat) : List (Nat × Nat) → List (Nat × Nat) → State → Except KvFail (List (Nat × Nat) × State)
  | [], out, s => .ok (out, s)
  | (va, n) :: ps, out, s =>
    match kvTrans s e k va acc with
    | .error f => .error f
    | .ok (pa, s) =>
      match kvTurns s e acc va pa n with
      | .error f => .error f
      | .ok s => kvParts e k acc ps (out ++ [(pa, n)]) s

/-- A range read by an engine: its bytes and its physical parts. -/
def kvRead (s : State) (e : Option Nat) (k va n : Nat) : Except KvFail (List Byte × List (Nat × Nat) × State) :=
  match kvParts e k accLoad (pagesOf va n) [] s with
  | .error f => .error f
  | .ok (ps, s) => .ok (ps.flatMap fun p => s.hbm.read p.1 p.2, ps, s)

/-- A range whose poison fails the eviction (code 7). -/
def kvReadClean (s : State) (e : Option Nat) (k va n : Nat) : Except KvFail (List Byte × List (Nat × Nat) × State) :=
  match kvRead s e k va n with
  | .error f => .error f
  | .ok (bs, ps, s) => if ps.any fun p => hbmPoisoned s p.1 p.2 then .error ⟨7, va, 0, none⟩ else .ok (bs, ps, s)

/-- The first failing check of a list: offset and whether it holds. -/
def kvBad (code ref : Nat) (cs : List (Nat × Bool)) : Option KvFail := (firstBad cs).map fun d => ⟨code, ref, d, none⟩

/-! ### A sequence as read (R304 to R308) -/

/-- A page: its metadata, its data, for each 64 B line of the data whether it is poisoned, and where its metadata lies. -/
structure KvPage where
  base  : Nat
  at_   : Nat
  rec_  : List Byte
  data  : List Byte
  bad   : List Bool
  meta_ : List (Nat × Nat)

/-- A live token (R316): position, key, mass, page and slot. -/
structure KvTok where
  pos  : Nat
  key  : Int
  mass : Nat
  page : Nat
  slot : Nat

/-- Order of F32 values: a NaN counts as −∞, and −0 equals +0 (R316 `Key`). -/
def f32Key (m : Nat) : Int :=
  if 0x7F800000 < m % 2 ^ 31 then -0x7F800000 else if m < 2 ^ 31 then (m : Int) else -((m % 2 ^ 31 : Nat) : Int)

/-- The checks of a descriptor (code 4). -/
def descBad (d : List Byte) (seq : Nat) : Option KvFail :=
  let g := field d 0x3C 4
  kvBad 4 seq [(0, decide (field d 0 8 < 2 ^ 52) && field d 0 8 % 16 == 0), (8, decide (field d 8 4 ≤ 65536)),
    (0x0C, field d 0x0C 4 != 0xFFFFFFFF), (0x1C, field d 0x1C 1 == 3 || field d 0x1C 1 == 4), (0x1D, decide (field d 0x1D 1 < 4)),
    (0x1E, field d 0x1E 2 == 0), (0x24, bits (field d 0x24 4) 15 4 == 0),
    (0x28, decide (field d 0x28 8 < 2 ^ 52) && field d 0x28 8 % 16 == 0), (0x30, decide (field d 0x30 1 < 2)),
    (0x31, field d 0x31 3 == 0), (0x34, field d 0x30 1 == 1 || decide (field d 0x34 4 % 2 ^ 31 ≤ 0x7F800000)),
    (0x3C, decide (g < 0x7F800000) || g == 0x80000000), (0x40, slice d 0x40 192 == zeros 192)]

/-- `POS` of slot i of a metadata record. -/
def slotPos (m : List Byte) (i : Nat) : Nat := field m (0x140 + 4 * i) 4

/-- The live tokens of a page. -/
def pageToks (j live : Nat) (m : List Byte) : List KvTok :=
  (upTo (min live 64)).map fun i => ⟨slotPos m i, f32Key (field m (0x40 + 4 * i) 4), field m (0x40 + 4 * i) 4, j, i⟩

/-- Number of set bits of a word. -/
def onesOf (v : Nat) : Nat := ((upTo 64).filter fun i => testBit v i).length

/-- The first failing field of a metadata record by its offset, as `DETAIL` has it (R409), with the result of Table 3; `last` is
the last live position of the pages before. -/
def recordFail (m : List Byte) (meta_ seqid : Nat) (last : Option Nat) : Option KvFail :=
  let valid := field m 0 8
  let live := onesOf valid
  let prev := fun i => if i = 0 then last else some (slotPos m (i - 1))
  let cs : List (Nat × Nat × Bool) :=
    [(5, 0, valid == 2 ^ live - 1), (5, 8, field m 8 4 == live), (5, 0x0C, field m 0x0C 4 == seqid),
      (4, 0x10, slice m 0x10 48 == zeros 48)]
    ++ (upTo 64).map (fun i => (5, 0x40 + 4 * i, decide (i < live) || field m (0x40 + 4 * i) 4 == 0))
    ++ (upTo 64).map (fun i => (5, 0x140 + 4 * i,
        if i < live then (prev i).all fun p => decide (p < slotPos m i) else slotPos m i == 0xFFFFFFFF))
    ++ [(4, 0x240, slice m 0x240 448 == zeros 448)]
  (cs.find? fun c => !c.2.2).map fun c => ⟨c.1, meta_, c.2.1, none⟩

/-- Poison of the lines of a list of physical parts, in order. -/
def partsBad (s : State) (ps : List (Nat × Nat)) : List Bool :=
  ps.flatMap fun p => (upTo (p.2 / 64)).map fun i => s.hbmBad.contains (p.1 / 64 + i)

/-- The pages of a sequence with their tokens, in order (R414). -/
def readPages (u : Option Nat) (k plist seqid size : Nat) :
    Nat → Nat → Option Nat → State → Except KvFail (List KvPage × List KvTok × State)
  | 0, _, _, s => .ok ([], [], s)
  | n + 1, j, last, s =>
    let e := plist + 16 * j
    match kvReadClean s u k e 16 with
    | .error f => .error f
    | .ok (ent, _, s) =>
      let base := field ent 0 8
      let at_ := field ent 8 8
      match kvBad 5 e [(0, decide (base < 2 ^ 52) && base % 4096 == 0), (8, decide (at_ < 2 ^ 52) && at_ % 1024 == 0)] with
      | some f => .error f
      | none =>
        match kvReadClean s u k at_ 1024 with
        | .error f => .error f
        | .ok (m, own, s) =>
          match recordFail m at_ seqid last, kvRead s u k base size with
          | some f, _ => .error f
          | none, .error f => .error { f with ref := e }
          | none, .ok (data, parts, s) =>
            let ts := pageToks j (field m 8 4) m
            match readPages u k plist seqid size n (j + 1) ((ts.getLast?.map KvTok.pos).orElse fun _ => last) s with
            | .error f => .error f
            | .ok (ps, rest, s) => .ok (⟨base, at_, m, data, partsBad s parts, own⟩ :: ps, ts ++ rest, s)

/-! ### What is kept (R316) -/

/-- The tokens that an eviction keeps, by position. -/
def kept (d : List Byte) (ts : List KvTok) : List KvTok :=
  let prot := fun (t : KvTok) => decide (t.pos < field d 0x1A 2) || decide (field d 0x0C 4 ≤ t.pos + field d 0x18 2)
  if field d 0x30 1 = 0 then ts.filter fun t => prot t || decide (f32Key (field d 0x34 4) ≤ t.key)
  else
    let cs := sortBy (fun (a b : KvTok) => decide (b.key < a.key) || (a.key == b.key && decide (b.pos < a.pos)))
      (ts.filter fun t => !prot t)
    let n := field d 0x38 4 - (ts.filter prot).length
    let own := (cs.take n).map KvTok.pos
    ts.filter fun t => prot t || own.contains t.pos

/-- The decayed mass of a token: a free value where an addition without a reader hold met its old or new slot (R319). -/
def newMass (s : State) (stray : Bool) (gamma k : Nat) (t : KvTok) : Nat :=
  if stray then (Config.movedMass (s.tick + k)).toNat else (fopLane {} .f32 .mul false 0 t.mass gamma 0).1

/-- The data of page j after compaction, by lines, each with its poison. -/
def newLines (ps : List KvPage) (us : List KvTok) (kt j : Nat) : List (List Byte × Bool) :=
  let page := fun (t : KvTok) => ps.getD t.page ⟨0, 0, [], [], [], []⟩
  let own := (upTo 64).map fun i => us[64 * j + i]?
  ((upTo kt).flatMap fun t => own.map fun u => match u with
    | some u => (slice (page u).data (4096 * t + 64 * u.slot) 64, (page u).bad.getD (64 * t + u.slot) false)
    | none => (zeros 64, false))
  ++ (upTo kt).flatMap fun v => (upTo 64).map fun r =>
    (own.map (fun u => match u with
      | some u => (page u).data.getD (4096 * (kt + v) + 64 * r + u.slot) 0
      | none => 0),
     own.any fun u => match u with
      | some u => (page u).bad.getD (64 * (kt + v) + r) false
      | none => false)

/-- The metadata of page j after compaction. -/
def newRecord (s : State) (strays : List (Nat × Nat)) (gamma newp : Nat) (us : List KvTok) (p : KvPage) (j : Nat) : List Byte :=
  let c := min 64 (us.length - 64 * j)
  let own := (upTo 64).map fun i => us[64 * j + i]?
  let hit := fun (t : KvTok) (i : Nat) => strays.contains (t.page, t.slot) || strays.contains (j, i)
  let mass := (upTo 64).flatMap fun i => match own.getD i none with
    | some t => bytesOf 4 (newMass s (hit t i) gamma (64 * j + i) t)
    | none => zeros 4
  let poss := own.flatMap fun u => bytesOf 4 ((u.map KvTok.pos).getD 0xFFFFFFFF)
  bytesOf 8 (2 ^ c - 1) ++ bytesOf 4 c ++ slice p.rec_ 0x0C 4 ++ (if j < newp then slice p.rec_ 0x10 48 else zeros 48)
    ++ mass ++ poss ++ (if j < newp then slice p.rec_ 0x240 448 else zeros 448)

/-! ### The eviction as a list of writes -/

/-- A write of an engine: its physical parts, bytes, and the poison of its lines. -/
structure KvWrite where
  parts : List (Nat × Nat)
  bytes : List Byte
  bad   : List Bool := []

/-- The plan of an eviction: its writes in order, how many tokens go, and its page list and free list as they lie in memory. -/
structure KvPlan where
  writes  : List KvWrite
  evicted : Nat
  lists   : List (Nat × Nat)

/-- The slots of a sequence that additions without a hold have met: page and slot. -/
def strayHits (s : State) (metas : List (List (Nat × Nat))) : List (Nat × Nat) :=
  (upTo metas.length).flatMap fun j =>
    let at_ := fun (o : Nat) => ((metas.getD j []).foldl (fun (x : Nat × Option Nat) p =>
      if x.2.isSome then x else if x.1 < p.2 then (0, some (p.1 + x.1)) else (x.1 - p.2, none)) (o, none)).2
    ((upTo 64).filter fun i => (at_ (0x40 + 4 * i)).any fun a => s.stray.contains a).map fun i => (j, i)

/-- Writes to ranges, translated as stores before the first of them. -/
def planWrites (e : Option Nat) (k : Nat) : List (Nat × List Byte × List Bool) → State → Except KvFail (List KvWrite × State)
  | [], s => .ok ([], s)
  | (va, bs, bad) :: ws, s =>
    match kvParts e k accStore (pagesOf va bs.length) [] s with
    | .error f => .error f
    | .ok (parts, s) =>
      match planWrites e k ws s with
      | .error f => .error f
      | .ok (out, s) => .ok (⟨parts, bs, bad⟩ :: out, s)

/-- The pages of a range as they lie in memory. -/
def peekParts (s : State) (k va n : Nat) : List (Nat × Nat) :=
  (pagesOf va n).filterMap fun p => (peekTrans s k p.1).map fun pa => (pa, p.2)

/-- What an eviction writes, or why it fails (R414, R316, R308, R342). -/
def kvPlan (s : State) (e : Option Nat) (r : EvictReq) : Except KvFail (KvPlan × State) :=
  let k := r.ctx
  match kvTurns s e accLoad r.seq r.pa 256 with
  | .error f => .error f
  | .ok s =>
  let d := s.hbm.read r.pa 256
  if hbmPoisoned s r.pa 256 then .error ⟨7, r.seq, 0, none⟩
  else match descBad d r.seq with
    | some f => .error f
    | none =>
      let free := field d 0x28 8
      let plist := field d 0 8
      let np := field d 8 4
      let kt := field d 0x1D 1 + 1
      match kvReadClean s e k free 16 with
      | .error f => .error f
      | .ok (h, _, s) =>
        let cap := field h 0 4
        let cnt := field h 4 4
        match kvBad 4 free [(4, decide (cnt ≤ cap)), (8, field h 8 8 == 0)] with
        | some f => .error f
        | none =>
          match readPages e k plist (field d 0x14 4) (8192 * kt) np 0 none s with
          | .error f => .error f
          | .ok (ps, ts, s) =>
            if ts.length ≠ field d 0x10 4 then .error ⟨5, r.seq, 0x10, none⟩
            else
              let us := kept d ts
              let newp := (us.length + 63) / 64
              if cap - cnt < np - newp then .error ⟨6, free, 0, none⟩
              else
                let strays := strayHits s (ps.map KvPage.meta_)
                let pages := (upTo np).flatMap fun j =>
                  let p := ps.getD j ⟨0, 0, [], [], [], []⟩
                  let ls := newLines ps us kt j
                  [(p.base, ls.flatMap (·.1), ls.map (·.2)), (p.at_, newRecord s strays (field d 0x3C 4) newp us p j, [])]
                let gone := (upTo (np - newp)).map fun i => (i, ps.getD (newp + i) ⟨0, 0, [], [], [], []⟩)
                let frees := gone.flatMap fun x =>
                  [(free + 16 + 16 * (cnt + x.1), bytesOf 8 x.2.base ++ bytesOf 8 x.2.at_, []), (free + 4, bytesOf 4 (cnt + x.1 + 1), [])]
                let lists := gone.map fun x => (plist + 16 * (newp + x.1), zeros 16, [])
                match planWrites e k (pages ++ frees ++ lists) s with
                | .error f => .error f
                | .ok (ws, s) =>
                  match kvTurns s e accStore r.seq (r.pa + 8) 12 with
                  | .error f => .error f
                  | .ok s =>
                    let tail := [⟨[(r.pa + 8, 4)], bytesOf 4 newp, []⟩, ⟨[(r.pa + 0x10, 4)], bytesOf 4 us.length, []⟩]
                    .ok (⟨ws ++ tail, ts.length - us.length, peekParts s k plist (16 * np) ++ peekParts s k free (16 + 16 * cap)⟩, s)

/-- Bytes written over physical parts. -/
def writeOver : List (Nat × Nat) → List Byte → State → State
  | [], _, s => s
  | (pa, n) :: ps, bs, s => writeOver ps (bs.drop n) (hbmWrite s pa (bs.take n))

/-- The lines of physical parts that are copies of poisoned ones (R403). -/
def spoilOver (ps : List (Nat × Nat)) (bad : List Bool) (s : State) : State :=
  let lines := ps.flatMap fun p => (upTo (p.2 / 64)).map fun i => p.1 / 64 + i
  (lines.zip bad).foldl (fun s x => if x.2 then spoil s (64 * x.1) 64 else s) s

/-- A plan carried out. -/
def runPlan (s : State) (p : KvPlan) : State :=
  p.writes.foldl (fun s w => spoilOver w.parts w.bad (writeOver w.parts w.bytes s)) s

/-! ### Records and finish (R317, R409, R410, R414) -/

/-- The fields of an engine's record: the tag only of an instance that has not retired. -/
def kvReport (s : State) (engine : Nat) (r : EvictReq) (cls sev : Nat) : Report :=
  { cls, sev, folio := engine / 8, uclass := 0x0B, uindex := engine, ctx := some r.ctx
    tag := if instLive s r.inst then (tget s.insts r.inst).map fun (i : Instance) => i.tag else none }

/-- A record of area 0x03 of an engine: requester 6. -/
def kvAccess (s : State) (engine : Nat) (r : EvictReq) (sev : Nat) (f : AccessFault) : Report :=
  hubReport s (kvReport s engine r f.f.cls sev) 6 sev false f

/-- A record is written, and a TASK-ENDED one ends its instance (R414). -/
def kvEnd (s : State) (r : EvictReq) (x : Report) : State :=
  if x.sev = sevTask ∧ instLive s r.inst then endWith s r.inst x else writeRecord s x

/-- A request of an engine replaced. -/
def kvSet (s : State) (e : Nat) (r r' : EvictReq) : State :=
  { s with evicts := tmod s.evicts e fun q => q.map fun x => if x == r then r' else x }

/-- The request of an engine is over: its records are written, each with the tag of an instance that has not retired (R409). -/
def kvPop (s : State) (e : Nat) (r : EvictReq) (xs : List Report) : State :=
  let s := endAccess { s with evicts := tmod s.evicts e fun q => q.erase r } (.evict e)
  let s := if s.evicts.any fun e => e.2.any fun r => r.begun then s else { s with stray := [] }
  xs.foldl (fun s (x : Report) => kvEnd s r { x with tag := (kvReport s e r x.cls x.sev).tag }) s

/-- How a failed eviction ends: its result code, and its records (R414). -/
def kvFailed (s : State) (e : Nat) (r : EvictReq) (f : KvFail) : KvEnd :=
  let sev := if f.code = 6 then sevCorrected else sevTask
  let x := { kvReport s e r (0x041D + f.code) sev with
    asp := .va, addr := r.seq, synd := bytesOf 8 f.ref ++ zeros 4 ++ bytesOf 4 f.detail }
  { code := f.code, records := (f.fault.map (kvAccess s e r sev)).toList ++ [x] }

/-- What an engine waits for is asked for. -/
def kvAwait (s : State) (e : Nat) (r : EvictReq) (f : KvFail) (fail : State) : State :=
  match f.fault with
  | some x => match x.wait with
    | some w => await s (.evict e) hubPlace r.ctx x.va w
    | none => fail
  | none => fail

/-- `STATUS` is written (R317 step 2). -/
def kvStatus (s : State) (e : Nat) (r : EvictReq) (x : KvEnd) : State :=
  match kvTurns s (some e) accStore r.seq (r.pa + 0x24) 4 with
  | .error f => kvAwait s e r f s
  | .ok s =>
    let old := field (s.hbm.read (r.pa + 0x24) 4) 0 4
    let new := (bits old 31 16 + 1) % 65536 * 65536 + bits old 15 4 * 16 + x.code * 2
    kvSet (hbmWrite (endAccess s (.evict e)) (r.pa + 0x24) (bytesOf 4 new)) e r { r with fin := some { x with wrote := true } }

/-- The done word is written, which is translated again, and then the records of a failure follow (R317 step 3, R414). -/
def kvDone (s : State) (e : Nat) (r : EvictReq) (x : KvEnd) : State :=
  if r.done = 0 then kvPop s e r x.records
  else match kvParts (some e) r.ctx accStore [(r.done, 8)] [] s with
    | .ok (ps, s) =>
      let bs := bytesOf 8 (r.dval + x.code * 2 ^ 32 + x.evicted % 2 ^ 24 * 2 ^ 40)
      kvPop (ps.foldl (fun s p => hbmWrite s p.1 bs) s) e r x.records
    | .error f => kvAwait s e r f (kvPop s e r ((f.fault.map (kvAccess s e r sevTask)).toList ++ x.records))

/-- An eviction that has passed its gate check goes on: what it writes, `STATUS`, and then the done word (R316, R317, R414). -/
def runEviction (s : State) (e : Nat) (r : EvictReq) : State :=
  match r.fin with
  | none => match kvPlan s (some e) r with
    | .error f => kvAwait s e r f (kvSet (endAccess s (.evict e)) e r { r with fin := some (kvFailed s e r f) })
    | .ok (p, s) =>
      kvSet (endAccess (runPlan s p) (.evict e)) e r { r with fin := some { code := if p.evicted = 0 then 2 else 1, evicted := p.evicted } }
  | some x => if x.wrote then kvDone s e r x else kvStatus s e r x

/-! ### The events -/

/-- The gate check of a request (R310, R315): the eviction proceeds, or the request is BUSY, which writes the done word alone; either way
the instruction's tokens follow. -/
def gateCheck (s : State) (e : Nat) (r : EvictReq) : State :=
  let gate := field (s.hbm.read (r.pa + 0x20) 8) 0 8
  let r' := { r with begun := true, claim := { r.claim with blk := deadBlk } }
  if gate % 2 ^ 32 = 0 ∧ !testBit gate 32 then
    payOwed (kvSet (hbmWrite s (r.pa + 0x20) (bytesOf 8 (gate + 2 ^ 32))) e r r') r.claim tok tok
  else payOwed (kvSet s e r { r' with fin := some { code := 3, wrote := true } }) r.claim tok tok

/-- KV_GATE_CHECK (R18, R310, R315): the oldest request whose gate has not been checked, at the engine's port. -/
def execKvGateCheck (engine : Fin 64) (s : State) : Host.Outcome State Fault Refusal :=
  let e := engine.val
  let q := (tget s.evicts e).getD []
  match q.find? fun r => !r.begun with
  | none => idle s
  | some r =>
    match portGate s (.gate e) r.ctx (r.pa + 0x20) 8 with
    | (s, true) => .next (gateCheck s e r)
    | (s, false) => .next s

/-- KV_EVICTION (R316, R317, R342, R414): the oldest request whose gate has been checked. -/
def execKvEviction (engine : Fin 64) (s : State) : Host.Outcome State Fault Refusal :=
  match ((tget s.evicts engine.val).getD []).find? fun r => r.begun with
  | none => idle s
  | some r => .next (runEviction s engine.val r)

/-- The bytes of physical parts become undefined. -/
def tearParts (ps : List (Nat × Nat)) (s : State) : State :=
  ps.foldl (fun s p => hbmWrite s p.1 ((upTo p.2).map fun i => Config.tornByte s.tick (p.1 + i))) s

/-- What a folio reset leaves of the evictions of its engines (R415): the pages, metadata and lists of a sequence that an eviction was
about to write are undefined, and `EVICTING` stays set. -/
def tearEvictions (s : State) (folio : Nat) : State :=
  s.evicts.foldl (fun s e =>
    if e.1 / 8 ≠ folio then s
    else
      let s := (e.2.filter fun r => r.begun && r.fin.isNone).foldl (fun s r =>
        match kvPlan s none r with
        | .error _ => s
        | .ok (p, s) => tearParts (p.writes.flatMap KvWrite.parts ++ p.lists) s) s
      { s with evicts := tset s.evicts e.1 (e.2.filter fun r => !r.begun) }) s

end Sys2Proof.Machine
end

