-- ==== Sys2Proof/Machine/Nodes.lean ====
section
/-!
DEFINITION. Graph instances at work: node records and their checks (R57, R58, R410), readiness, SUB modes and successors
(R23 to R25), and the retirement of nodes and instances (R59, R68, R412).
-/

namespace Sys2Proof.Machine

/-! ### Node records (R57, R58) -/

/-- Origin of a placement, in quires of the package (R58). -/
def placeX (r : List Byte) : Nat := 32 * bits (field r 0x18 8) 0 0 + bits (field r 0x18 8) 7 3
def placeY (r : List Byte) : Nat := 16 * bits (field r 0x18 8) 2 1 + bits (field r 0x18 8) 11 8
/-- Width and height of a placement. -/
def placeW (r : List Byte) : Nat := bits (field r 0x18 8) 17 12 + 1
def placeH (r : List Byte) : Nat := bits (field r 0x18 8) 23 18 + 1

/-- The placement of a FABRIC node whose record stands at an address. -/
def nodePlace (va n : Nat) (r : List Byte) : NodePlace :=
  { node := n, qx := placeX r, qy := placeY r, w := placeW r, h := placeH r, slot := bits (field r 0x18 8) 29 24,
    partw := field r 0x20 4, code := field r 0x28 8, cfg := field r 0x30 8, occ := field r 0x38 8, recAt := va }

/-- Successor indices of a record. -/
def nodeSuccs (r : List Byte) : List Nat := (upTo (field r 4 1)).map fun k => field r (8 + 2 * k) 2
/-- First child and child count of a SUB. -/
def subFirst (r : List Byte) : Nat := field r 0x28 2
def subCount (r : List Byte) : Nat := field r 0x2A 2

/-- The field `CODE` is as its kind requires. -/
def codeOk (count : Nat) (r : List Byte) : Bool :=
  if field r 0 1 = 2 then decide (field r 0x28 8 < 2 ^ 52) && field r 0x28 8 % 32 == 0
  else if field r 0 1 = 3 then field r 0x2C 4 == 0 && subCount r != 0 && decide (subFirst r + subCount r ≤ count)
  else true

/-- The offset of the first failing field of a node record (R410, class 0x0404); a child of a SUB has `PREDS` and `NSUCC` zero (R23). -/
def nodeBad (count : Nat) (child : Bool) (r : List Byte) : Option Nat :=
  let kind := field r 0 1
  let fabric := kind == 1
  let place := field r 0x18 8
  firstBad [
    (0, decide (1 ≤ kind) && decide (kind ≤ 3)),
    (1, if kind = 3 then decide (field r 1 1 ≤ 2) else field r 1 1 == 0),
    (2, !child || field r 2 2 == 0),
    (4, if child then field r 4 1 == 0 else decide (field r 4 1 ≤ 8)),
    (5, field r 5 3 == 0),
    (8, (upTo 8).all fun k => if k < field r 4 1 then decide (field r (8 + 2 * k) 2 < count) else field r (8 + 2 * k) 2 == 0),
    (0x18, if fabric then bits place 63 30 == 0 && decide (placeX r + placeW r ≤ 64) && decide (placeY r + placeH r ≤ 64)
      else place == 0),
    (0x24, field r 0x24 4 == 0),
    (0x28, codeOk count r),
    (0x30, if fabric then field r 0x30 8 % 64 == 0 else field r 0x30 8 == 0),
    (0x38, field r 0x38 8 % 64 == 0),
    (0x40, (upTo 4).all fun k => field r (0x4C + 16 * k) 4 / 4 == 0)]

/-- The ranges of a record that are in use and written (R26): base and length. -/
def writeRanges (r : List Byte) : List (Nat × Nat) :=
  ((upTo 4).filter fun k => field r (0x4C + 16 * k) 4 % 4 == 3).map fun k => (field r (0x40 + 16 * k) 8, field r (0x48 + 16 * k) 4)

/-- The ranges of a node record that are valid (R26, R57): base and length. -/
def usedRanges (r : List Byte) : List (Nat × Nat) :=
  ((upTo 4).filter fun k => testBit (field r (0x4C + 16 * k) 4) 1).map fun k =>
    (field r (0x40 + 16 * k) 8, field r (0x48 + 16 * k) 4)

/-! ### Reading nodes -/

/-- Why a node does not become ready: an access fails, or a record breaks a rule of R410 (class, node, `DETAIL`). -/
inductive NodeTrouble where
  | access (f : AccessFault)
  | bad (cls node detail : Nat)

/-- A record of area 0x04 that names an instance. -/
def instRecord (x : Instance) (cls node detail : Nat) : Report :=
  spineRecord cls (some x.ctx) (some x.tag) x.reqid x.graph node detail

/-- A trouble holds the instance's work or ends it (R412, R449). -/
def troubled (s : State) (i : Nat) (x : Instance) : NodeTrouble → State
  | .access f => holdInst s i x.user f
  | .bad cls n d => endWith s i (instRecord x cls n d)

/-- Address of a node record. -/
def Instance.nodeAt (x : Instance) (n : Nat) : Nat := x.array + 128 * n

/-- A node record, read and checked as that of a child of a SUB or not. -/
def checkedNode (s : State) (x : Instance) (child : Bool) (n : Nat) :
    Except NodeTrouble (List Byte × State) :=
  match spineRead s x.user x.ctx (x.nodeAt n) 128 with
  | .error f => .error (.access f)
  | .ok (r, s) => match nodeBad x.count child r with
    | some d => .error (.bad 0x0404 n d)
    | none => .ok (r, s)

/-- The records of the children of a STREAM node, which become ready together with it (R24, R25). -/
def checkedKids (s : State) (x : Instance) : List Nat → Except NodeTrouble (List (Nat × List Byte) × State)
  | [] => .ok ([], s)
  | n :: ns =>
    match checkedNode s x true n with
    | .error e => .error e
    | .ok (r, s) =>
      match checkedKids s x ns with
      | .error e => .error e
      | .ok (rs, s) => .ok ((n, r) :: rs, s)

/-- The first child of a STREAM node that is not FABRIC or overlaps one before it (R25). -/
def streamBad : List Nat → List (Nat × List Byte) → Option Nat
  | _, [] => none
  | seen, (n, r) :: rs =>
    let qs := (nodePlace 0 n r).quires
    if field r 0 1 ≠ 1 ∨ qs.any fun q => seen.contains q then some n else streamBad (seen ++ qs) rs

/-! ### Readiness (R23, R24) -/

/-- A node leaves the list of those to start with a status. -/
def Instance.started (x : Instance) (n : Nat) (st : NodeStatus) (r : List Byte) : Instance :=
  { x with
    nodes := tset x.nodes n st
    succs := tset x.succs n (nodeSuccs r)
    ranges := if n = x.entry then writeRanges r else x.ranges
    fresh := x.fresh.drop 1 }

/-- A SUB node starts with its children (R24). -/
def Instance.startSub (x : Instance) (n : Nat) (r : List Byte) (kids : List Nat) : Instance :=
  let x := x.started n .running r
  { x with
    declares := x.declares ++ usedRanges r
    subs := tset x.subs n ⟨field r 1 1, subFirst r, subCount r, subCount r⟩
    up := kids.foldl (fun t k => tset t k n) x.up
    fresh := x.fresh ++ (if field r 1 1 = 1 then kids else kids.take 1) }

/-- A pool entry of an instance, with the ranges that the records of its nodes declare (R26). -/
def entryFor (i : Nat) (x : Instance) (n : Nat) (kind : EntryKind) (rs : List (List Byte)) (places : List NodePlace) (src : Nat) : PoolEntry :=
  { ctx := x.ctx, inst := i, tag := x.tag, node := n, kind, order := 0, places, src, ranges := rs.flatMap usedRanges }

/-- An entry enters the pool and its node is ready; none when the pool is full (R61). -/
def enterNode (s : State) (i : Nat) (x : Instance) (n : Nat) (r : List Byte) (e : PoolEntry) : Option State :=
  (addEntry s e).map fun s =>
    { s with insts := tset s.insts i { x.started n .ready r with declares := x.declares ++ e.ranges } }

/-- A SUB node becomes ready. The children of a STREAM node are read with it; those of SEQ and PIPE are read and checked as each
becomes ready (R24, R410). -/
def startSubNode (s : State) (i : Nat) (x : Instance) (n : Nat) (r : List Byte) : State × Bool :=
  let kids := (upTo (subCount r)).map fun k => subFirst r + k
  if field r 1 1 = 2 then
    match checkedKids s x kids with
    | .error e => (troubled s i x e, false)
    | .ok (rs, s) =>
      match streamBad [] rs with
      | some k => (troubled s i x (.bad 0x0405 n k), false)
      | none =>
        let places := rs.map fun k => nodePlace (x.nodeAt k.1) k.1 k.2
        match enterNode s i x n r (entryFor i x n .stream (r :: rs.map (·.2)) places 0) with
        | some s => (s, true)
        | none => (s, false)
  else ({ s with insts := tset s.insts i (x.startSub n r kids) }, true)

/-- The first node of those to start becomes ready (R23, R61): whether the instance's work can go on. -/
def startNode (s : State) (i : Nat) (x : Instance) (n : Nat) : State × Bool :=
  match checkedNode s x (tget x.up n).isSome n with
  | .error e => (troubled s i x e, false)
  | .ok (r, s) =>
    if field r 0 1 = 3 then startSubNode s i x n r
    else
      let e := if field r 0 1 = 1 then entryFor i x n .fabric [r] [nodePlace (x.nodeAt n) n r] 0
        else entryFor i x n .copy [r] [] (field r 0x28 8)
      match enterNode s i x n r e with
      | some s => (s, true)
      | none => (s, false)

/-- Node n is a child of one of the SUB nodes among those of a list, whether that SUB has become ready or not (R23). -/
def isKid (x : Instance) (n : Nat) : List Nat → State → Except AccessFault (Bool × State)
  | [], s => .ok (false, s)
  | m :: ms, s =>
    match spineRead s x.user x.ctx (x.nodeAt m) 128 with
    | .error f => .error f
    | .ok (r, s) =>
      if field r 0 1 = 3 ∧ subFirst r ≤ n ∧ n < subFirst r + subCount r then .ok (true, s) else isKid x n ms s

/-- A node whose last predecessor has retired becomes ready by that alone: not the entry node, a child of a SUB, or one that has become
ready before (R23). -/
def becomesReady (s : State) (x : Instance) (n left : Nat) : Except AccessFault (Bool × State) :=
  if left = 1 ∧ n ≠ x.entry ∧ tget x.up n = none ∧ tget x.nodes n = none then
    match isKid x n (upTo x.count) s with
    | .error f => .error f
    | .ok (kid, s) => .ok (!kid, s)
  else .ok (false, s)

/-- A predecessor count is decremented (R23, R412): the entry node and a child of a SUB do not become ready so. -/
def dropPred (s : State) (i : Nat) (x : Instance) (n : Nat) : State × Bool :=
  let go := fun (s : State) (left : Nat) =>
    if left = 0 then (troubled s i x (.bad 0x0406 n 2), false)
    else match becomesReady s x n left with
      | .error f => (troubled s i x (.access f), false)
      | .ok (ready, s) =>
        let x := { x with
          preds := tset x.preds n (left - 1)
          drops := x.drops.drop 1
          fresh := if ready then x.fresh ++ [n] else x.fresh }
        ({ s with insts := tset s.insts i x }, true)
  match tget x.preds n with
  | some left => go s left
  | none =>
    match spineRead s x.user x.ctx (x.nodeAt n) 128 with
    | .error f => (troubled s i x (.access f), false)
    | .ok (r, s) => go s (field r 2 2)

/-- The parts of bytes put at an offset of a ring of a context's memory. -/
def ringParts (base size off : Nat) (bs : List Byte) : List (Nat × List Byte) :=
  let o := off % (if size = 0 then 1 else size)
  let k := min bs.length (size - o)
  (base + o, bs.take k) :: (if bs.length ≤ k then [] else [(base, bs.drop k)])

/-- Bytes padded with zeros to a multiple of 64. -/
def pad64 (bs : List Byte) : List Byte := bs ++ zeros ((64 - bs.length % 64) % 64)

/-- The argument bytes of a capture entry are read, and the entry waits to be written (R365): the access that stops it. -/
def readCapture (s : State) (i : Nat) (x : Instance) : State × Option AccessFault :=
  match spineRead s x.user x.ctx x.capRead.1 x.capRead.2 with
  | .error f => (s, some f)
  | .ok (bs, s) =>
    let a := s.attrs x.ctx
    let ws := ringParts a.capBase a.capSize (x.capture.getD 0) (pad64 (x.capHead ++ bs))
    ({ s with insts := tset s.insts i { x with capHead := [], writes := x.writes ++ ws } }, none)

/-- The Spine's pending writes of an instance: the access that stops them. -/
def flushWrites (s : State) (i : Nat) (x : Instance) : State × Option AccessFault :=
  let (s, rest, bad) := spineWrites s x.user x.ctx x.writes
  ({ s with insts := tset s.insts i { x with writes := rest } }, bad)

/-- What the Spine has to read and write for an instance before its nodes: its capture entry and its arguments; none when that is
done. -/
def prepare (s : State) (i : Nat) (x : Instance) : Option (State × Option AccessFault) :=
  if x.capHead ≠ [] then some (readCapture s i x)
  else if x.writes ≠ [] then some (flushWrites s i x)
  else none

/-- Every node that has become ready has retired (R59). -/
def Instance.quiet (x : Instance) : Bool := x.nodes.all fun n => n.2 == NodeStatus.retired

/-! ### Responses and captures at retirement (R68, R365, R412) -/

/-- The bytes of a list of ranges, as published. -/
def readRanges (s : State) (u : PortUser) (k : Nat) : List (Nat × Nat) → List Byte → Except AccessFault (List Byte × State)
  | [], bs => .ok (bs, s)
  | (a, n) :: rs, bs =>
    match spineRead s u k a n with
    | .error f => .error f
    | .ok (b, s) => readRanges s u k rs (bs ++ b)

/-- The capture entry of an instance receives its digest, then its status (R365). -/
def closeCapture (s : State) (x : Instance) (status : Nat) : Except AccessFault State :=
  match x.capture with
  | none => .ok s
  | some off =>
    let a := s.attrs x.ctx
    match readRanges s x.user x.ctx x.ranges [] with
    | .error f => .error f
    | .ok (bs, s) =>
      match spineWrites s x.user x.ctx (ringParts a.capBase a.capSize (off + 0x10) (sha256 bs)
          ++ ringParts a.capBase a.capSize (off + 6) (bytesOf 2 status)) with
      | (s, _, none) => .ok s
      | (_, _, some f) => .error f

/-- The response block that `RESP` names: status and data; a malformed block is class 0x040A, with the failing offset. -/
def readResponse (s : State) (x : Instance) : Except AccessFault (Nat × Option Nat × List Byte × State) :=
  if x.resp = 0 then .ok (0, none, [], s)
  else match spineRead s x.user x.ctx x.resp 8 with
    | .error f => .error f
    | .ok (h, s) =>
      if 8192 < field h 0 2 then .ok (0x040A, some 0, [], s)
      else if field h 2 6 ≠ 0 then .ok (0x040A, some 2, [], s)
      else match spineRead s x.user x.ctx (x.resp + 8) (field h 0 2) with
        | .error f => .error f
        | .ok (bs, s) => .ok (0, none, bs, s)

/-- An instance with nothing left to run retires (R59, R68): its response block is read, whatever the destination, its capture entry is
closed, and its response is due. An access that fails is held, or ends the instance (R449). -/
def closeInst (s : State) (i : Nat) (x : Instance) : State :=
  match readResponse s x with
  | .error f => holdInst s i x.user f
  | .ok (status, bad, bs, s) =>
    match closeCapture s x status with
    | .error f => holdInst s i x.user f
    | .ok s =>
      let s := endAccess s x.user
      let s := match bad with
        | some d => writeRecord s (instRecord x 0x040A 0 d)
        | none => s
      retireInst { s with insts := tmod s.insts i fun y => { y with answer := bs, capture := none, hold := none, recur := [] } } i status

/-- An ended instance retires: nothing more is written into its capture entry (log 128). -/
def retireEnded (s : State) (i : Nat) (x : Instance) : State :=
  retireInst (endAccess { s with insts := tmod s.insts i fun y => { y with capture := none, hold := none, recur := [] } } x.user) i x.status

/-- An access for the capture entry of an ended instance fails (R449): a serviceable fault is held; a refusal or a recurrence leaves
the entry as it stands. -/
def endedFails (s : State) (i : Nat) (x : Instance) (f : AccessFault) : State :=
  let again := x.recur.contains (spineKey f)
  match f.wait with
  | some w => await s x.user hubPlace x.ctx f.va w
  | none =>
    if f.f.serviceable && !again then
      let (num, s) := openRecord (endAccess s x.user) (spineReport s x.ctx (some x.tag) sevStalled false f) (fun _ => .inst i) none
        (some (spineKey f))
      { s with insts := tmod s.insts i fun y => { y with hold := some num, recur := spineKey f :: y.recur } }
    else retireEnded (writeRecord s (spineReport s x.ctx (some x.tag) sevTask again f)) i x

/-- An ended instance has its capture entry written, if it is not yet, and closed, and then retires (R363, R365). -/
def closeEnded (s : State) (i : Nat) (x : Instance) : State :=
  match prepare s i x with
  | some (s, some f) => endedFails s i x f
  | some (s, none) => freeInst s i x.user
  | none =>
    match closeCapture s x x.status with
    | .ok s => retireEnded s i x
    | .error f => endedFails s i x f

/-- The Spine's work for an instance: capture and arguments first, then decrements, then nodes that become ready; an instance
with nothing ready, running or saved retires (R56, R59, R412). -/
def workInst : Nat → State → Nat → State
  | 0, s, _ => s
  | fuel + 1, s, i =>
    if !instFree s i then s
    else match tget s.insts i with
      | none => s
      | some x =>
        let (t, go) := match prepare s i x, x.drops, x.fresh with
          | some (s, some f), _, _ => (holdInst s i x.user f, false)
          | some (s, none), _, _ => (s, true)
          | none, n :: _, _ => dropPred s i x n
          | none, [], n :: _ => startNode s i x n
          | none, [], [] => (if x.quiet then closeInst s i x else s, false)
        if go then workInst fuel (freeInst t i x.user) i else t

/-- One turn of that work. -/
def work (s : State) (i : Nat) : State := workInst 256 s i

/-- The Spine's work for one instance: an ended one has its capture entry closed. -/
def workOne (s : State) (i : Nat) : State :=
  match tget s.insts i with
  | some x => if !instFree s i then s else if x.ended then closeEnded s i x else work s i
  | none => s

/-- The tags of a context that is unloaded are free; what is still owed is delivered (R413 step 4). -/
def clearTags (s : State) (k : Nat) : State :=
  let gone := (s.context k).live.filter fun i => ((tget s.insts i).map fun (x : Instance) => !x.owed).getD true
  { s.modContext k fun c => { c with attrs := none, ended := false, live := [], nextTag := 0, backlog := [] } with
    insts := s.insts.filter fun x => !gone.contains x.1 }

/-- An unload can be completed (R413): every instance of the context has retired, and every eviction that has passed its gate check has
finished. -/
def unloaded (s : State) (k : Nat) : Bool :=
  (s.context k).ended && (s.insts.all fun (x : Nat × Instance) => x.2.ctx != k || x.2.retired)
    && !(s.evicts.any fun e => e.2.any fun r => r.ctx == k)

/-- An unload is completed, once it can be. -/
def finishUnload (s : State) (k : Nat) : State := if unloaded s k then clearTags s k else s

/-- The Spine's work for every instance, the saved gatherings that wait for an entry (R61), and the contexts that are unloaded (R413). -/
def workAll (s : State) : State :=
  let s := s.insts.foldl (fun s (x : Nat × Instance) => workOne s x.1) s
  let s := s.papers.foldl (fun s p => enterSaved s p.1) s
  (upTo 16).foldl finishUnload s

/-! ### Retirement (R23, R24, R68) -/

/-- A node retires: it counts toward its SUB alone, or its successors are due a decrement. -/
def retireNode : Nat → Instance → Nat → Instance
  | 0, x, _ => x
  | fuel + 1, x, n =>
    let x := { x with nodes := tset x.nodes n .retired }
    match (tget x.up n).bind fun p => (tget x.subs p).map fun b => (p, b) with
    | some (p, b) =>
      let left := b.left - 1
      let x := { x with subs := tset x.subs p { b with left } }
      if left = 0 then retireNode fuel x p
      else if b.mode = 0 then { x with fresh := x.fresh ++ [b.first + (b.count - left)] }
      else x
    | none => { x with drops := x.drops ++ (tget x.succs n).getD [] }

/-- A gathering whose node retires has what it needs: its writes to other packages are covered (R424). -/
def nodeCovered (s : State) (g : Nat) (x : Gathering) : Bool :=
  x.retiring && x.used.isEmpty && !putsWait s (some g) && x.pushes.all fun p => !(s.sender p.1).uncovered p.2

/-- NODE_RETIRE (R68, R424): a gathering past its final round frees its quires, or a COPY has completed; then the node
retires, and the instance with its last one. -/
def execNodeRetire (inst node : Nat) (s : State) : Host.Outcome State Fault Refusal :=
  match tget s.insts inst with
  | none => .fault .noSuchUnit
  | some _ =>
    let done := fun (s : State) =>
      work { s with insts := tmod s.insts inst fun x => retireNode (x.count + 1) x node } inst
    match s.gaths.find? fun g => g.2.inst == inst && g.2.retire == node with
    | some (g, x) =>
      if !x.retiring then idle s
      else if nodeCovered s g x then .next (done (paySavers (freeGath s g x) g))
      else .next (coverGath s g)
    | none =>
      match s.copies.find? fun c => c.2.kind == 5 && c.2.inst == inst && c.2.node == node with
      | some (id, c) => if c.owed then idle s else .next (done { s with copies := tdel s.copies id })
      | none => idle s

end Sys2Proof.Machine
end

