-- ==== Sys2Proof/Machine/Launch.lean ====
section
/-!
DEFINITION. Launches and responses: the host's doorbells and registers (R54, R335, R336, R361), request frames (R337 to R339, R69),
admission (R53 to R56, R60, R410, R411), the spawn backlog (R62), the capture ring (R365) and responses (R68).
-/

namespace Sys2Proof.Machine

/-! ### Doorbells and registers of the host (R335, R339, R361) -/

/-- An update of a context's queue page. -/
def modPage (s : State) (k : Nat) (f : QueuePage → QueuePage) : State := s.modContext k fun c => { c with page := f c.page }

/-- Host writes that PCIe orders before a doorbell. -/
def hostStores (s : State) (ws : List (Nat × Byte)) : State := ws.foldl (fun s w => hostWrite s w.1 [w.2]) s

/-- SUBMISSION_DOORBELL (R335, R336). -/
def execSubmissionDoorbell (ctx : Fin 16) (tail : Word32) (writes : List (Nat × Byte)) (s : State) :
    Host.Outcome State Fault Refusal :=
  .next (modPage (hostStores s writes) ctx.val fun p => { p with sqTail := tail.toNat })

/-- FWSQ_DOORBELL (R54): the records up to the tail that a control core has written may be admitted. -/
def execFwsqDoorbell (s : State) : Host.Outcome State Fault Refusal := .next { s with fwSeen := s.fwTail }

/-- CQHEAD_WRITE (R336). -/
def execCqheadWrite (ctx : Fin 16) (head : Word32) (s : State) : Host.Outcome State Fault Refusal :=
  .next (modPage s ctx.val fun p => { p with cqHead := head.toNat })

/-- A write to a register of a queue page that has no row of its own; read-only registers keep their values. DESIGN CHOICE (log 102): bits
11:0 of a base and the bits above 4 of a size are dropped. -/
def pageWrite (off v : Nat) (p : QueuePage) : QueuePage :=
  let base := v % 2 ^ 64 / 4096 * 4096
  let msix := bits v 10 0 + bits v 15 15 * 2 ^ 15
  match off with
  | 0x000 => { p with sqBase := base }
  | 0x008 => { p with sqSize := v % 32 }
  | 0x020 => { p with cqBase := base }
  | 0x028 => { p with cqSize := v % 32 }
  | 0x040 => { p with cqMsix := msix }
  | 0x080 => { p with eqBase := base }
  | 0x088 => { p with eqSize := v % 32 }
  | 0x098 => { p with eqHead := v % 2 ^ 32 }
  | 0x0A0 => { p with eqMsix := msix }
  | _ => p

/-- Size of BAR0. -/
def bar0Size : Nat := 0x4000000

/-- HOST_REGISTER_WRITE (R335, R361): the queue pages; at the offset past BAR0, the base PA of BAR2, whose register the
manual does not place (log 25). Every other register is read-only. -/
def execHostRegisterWrite (off : Nat) (val : Word) (s : State) : Host.Outcome State Fault Refusal :=
  if off = bar0Size then .next { s with bar2 := val.toNat }
  else if 0x100000 ≤ off ∧ off < 0x110000 then .next (modPage s (off / 0x1000 % 16) (pageWrite (off % 0x1000) val.toNat))
  else idle s

/-- HOST_BAR2_ACCESS (R335): a physical access to local HBM; an unbacked offset completes as an Unsupported Request. -/
def execHostBar2Access (off size : Nat) (data : Option (List Byte)) (s : State) : Host.Outcome State Fault Refusal :=
  let pa := s.bar2 + off
  let n := match data with
    | some bs => bs.length
    | none => size
  if !((upTo n).all fun i => isBacked (pa + i)) then .next { s with reads := s.reads ++ [[]] }
  else match data with
    | some bs => .next (hbmWrite s pa bs)
    | none => .next { s with reads := s.reads ++ [s.hbm.read pa size] }

/-! ### Launch records (R55, R410) -/

/-- A launch before it is admitted: its record, the arguments and the reply address of a frame, or the argument address of
a spawned child. -/
structure Launch where
  ctx    : Nat
  record : List Byte
  fw     : Bool := false
  frame  : Option (Frame × List Byte) := none
  child  : Bool := false

/-- Fields of a launch record. -/
def Launch.inline (l : Launch) : Bool := testBit (field l.record 2 2) 0
def Launch.graph (l : Launch) : Nat := field l.record 8 2
def Launch.entry (l : Launch) : Nat := field l.record 0x0A 2
def Launch.reqid (l : Launch) : Nat := field l.record 0x10 8
def Launch.resp (l : Launch) : Nat := field l.record 0x18 8
def Launch.destCode (l : Launch) : Nat := bits l.resp 63 62
/-- The address of `RESP` is well formed (R411). -/
def Launch.respOk (l : Launch) : Bool := bits l.resp 61 52 == 0 && l.resp % 64 == 0

/-- The first failing field of a launch record, with its class (R410): by byte offset. -/
def launchBad (s : State) (l : Launch) : Option (Nat × Nat) :=
  let r := l.record
  let checks : List (Nat × Nat × Bool) := [
    (0x0401, 0, field r 0 1 == 1),
    (0x0401, 1, field r 1 1 == 0),
    (0x0401, 2, field r 2 2 / 2 == 0 && !(l.inline && (s.attrs l.ctx).argBase == 0)),
    (0x0402, 4, field r 4 1 == l.ctx && (l.ctx == 0) == l.fw),
    (0x0401, 5, field r 5 3 == 0),
    (0x0403, 8, decide (l.graph < 4096)),
    (0x0401, 0x0C, field r 0x0C 4 == 0),
    (0x0401, 0x18, l.destCode != 3 && l.respOk && !(l.fw && decide (l.destCode < 2))),
    (0x0401, 0x20, l.inline || field r 0x2C 20 == 0)]
  (checks.find? fun c => !c.2.2).map fun c => (c.1, c.2.1)

/-- The first failing field of a graph entry, and `ENTRY` of the launch (R410). -/
def graphBad (l : Launch) (g : List Byte) : Option Nat :=
  firstBad [(0, field g 0 8 % 128 == 0), (8, field g 8 2 != 0), (0x0A, field g 0x0A 6 == 0 && decide (l.entry < field g 8 2))]

/-! ### Completion entries and replies (R68, R336, R339) -/

/-- A completion entry. -/
def completion (reqid tag status len : Nat) : List Byte :=
  bytesOf 8 reqid ++ bytesOf 8 (tag % 1024 + status % 65536 * 2 ^ 16 + len % 65536 * 2 ^ 32) ++ zeros 16

/-- The completion ring has room. -/
def cqRoom (p : QueuePage) : Bool :=
  ringOn p.cqBase p.cqSize && decide ((p.cqTail + 2 ^ 32 - p.cqHead) % 2 ^ 32 < 2 ^ p.cqSize)

/-- A completion entry is written, `CQTAIL` advances, and the vector is raised. -/
def putCompletion (s : State) (k : Nat) (bs : List Byte) : State :=
  let p := (s.context k).page
  let s := hostWrite s (p.cqBase + 32 * (p.cqTail % 2 ^ p.cqSize)) bs
  raiseVector (modPage s k fun p => { p with cqTail := (p.cqTail + 1) % 2 ^ 32 }) p.cqMsix

/-- A reply frame to the sender of a launch frame, from the context's UDP port. -/
def sendReply (s : State) (peer port cookie status : Nat) (data : List Byte) : State :=
  { s with replies := s.replies ++ [(peer, port, bytesOf 2 0xD8A5 ++ [1, 2] ++ bytesOf 2 data.length ++ bytesOf 2 status
      ++ bytesOf 8 cookie ++ data)] }

/-- The cookie of a frame. -/
def cookieOf (f : Frame) : Nat := field f.payload 8 8

/-! ### Rejection (R411, R449) -/

/-- The answers to a launch that is turned away with a class. -/
def answerReject (s : State) (l : Launch) (cls : Nat) : State :=
  let s := if !l.child && decide (l.destCode < 2) && l.respOk then
      s.modContext l.ctx fun c => { c with due := c.due ++ [.entry (completion l.reqid 0 cls 0)] }
    else s
  match l.frame with
  | some (f, _) => sendReply s f.peer f.udpPort (cookieOf f) cls []
  | none => s

/-- A rejected launch: its record has no tag. -/
def rejectLaunch (s : State) (l : Launch) (cls detail : Nat) : State :=
  answerReject (writeRecord s (spineRecord cls (some l.ctx) none l.reqid (l.graph % 4096) 0 detail)) l cls

/-- What became of a launch at the front end. -/
inductive Admission where
  | settled (s : State)
  | held (s : State)

/-- A launch is over at the front end: a fault of the next one is a new one (R397). -/
def admitted (s : State) (k : Nat) : State :=
  endAccess (s.modContext k fun c => { c with hold := none, recur := [] }) (.admission k)

/-- An access that the Spine makes before an instance takes its tag has failed (R449). -/
def admitFault (s : State) (l : Launch) (f : AccessFault) : Admission :=
  let again := (s.context l.ctx).recur.contains (spineKey f)
  match f.wait with
  | some w => .held (await s (.admission l.ctx) hubPlace l.ctx f.va w)
  | none =>
    if f.f.serviceable && !again then
      let (num, s) := openRecord (endAccess s (.admission l.ctx)) (spineReport s l.ctx none sevStalled false f) (fun _ => .ctx l.ctx) none
        (some (spineKey f))
      .held (s.modContext l.ctx fun c => { c with hold := some num, recur := spineKey f :: c.recur })
    else
      let s := writeRecord s (spineReport s l.ctx none sevTask again f)
      .settled (answerReject s l f.f.cls)

/-! ### The capture ring (R365) -/

/-- An entry of the ring may be overwritten: its instance has retired and its status is written. -/
def captureDone (s : State) (i : Nat) : Bool := ((tget s.insts i).map fun (x : Instance) => x.capture.isNone).getD true

/-- Bytes o to o + n of the ring meet no entry that stands. -/
def captureFree (size n : Nat) (es : List (Nat × Nat × Nat)) (o : Nat) : Bool :=
  decide (n ≤ size) && es.all fun e => decide (e.2.1 ≤ (o + size - e.1) % size) && decide (n ≤ (e.1 + size - o) % size)

/-- Room for n bytes at one of the places `os`: as the ring stands, or after the oldest retired entries have been overwritten; their
places are tried too. None when no retired entry remains (R365). -/
def captureRoom (s : State) (size n : Nat) : Nat → List Nat → List (Nat × Nat × Nat) → Option (Nat × List (Nat × Nat × Nat))
  | 0, _, _ => none
  | fuel + 1, os, es =>
    match os.find? (captureFree size n es) with
    | some o => some (o, es)
    | none =>
      match es.findIdx? fun e => captureDone s e.2.2 with
      | some i => captureRoom s size n fuel (os ++ (es[i]?.map (·.1)).toList) (es.eraseIdx i)
      | none => none

/-- Length of the arguments of a launch, their bytes where the launch carries them, and where they lie otherwise. -/
def launchArgs (l : Launch) : Nat × List Byte × Nat × Nat :=
  match l.frame with
  | some (_, bs) =>
    if bs ≠ [] then (bs.length, bs.take 8192, 0, 0)
    else if l.inline then (32, slice l.record 0x20 32, 0, 0)
    else (field l.record 0x28 4, [], field l.record 0x20 8, min (field l.record 0x28 4) 8192)
  | none =>
    if l.inline then (32, slice l.record 0x20 32, 0, 0)
    else (field l.record 0x28 4, [], field l.record 0x20 8, min (field l.record 0x28 4) 8192)

/-- The header of a capture entry with the launch record behind it. -/
def captureHead (l : Launch) (tag len total : Nat) : List Byte :=
  bytesOf 4 total ++ bytesOf 2 tag ++ bytesOf 2 0xFFFF ++ bytesOf 8 l.reqid ++ zeros 32
    ++ [BitVec.ofNat 8 (natOfBool (8192 < len))] ++ zeros 15 ++ slice l.record 0 64

/-- A new instance enters the capture ring, if its context has one with room. -/
def capture (s : State) (i : Nat) (l : Launch) (x : Instance) : State × Instance :=
  let a := s.attrs l.ctx
  let (len, bs, at_, n) := launchArgs l
  let total := 128 + (min len 8192 + 63) / 64 * 64
  if a.capSize = 0 then (s, x)
  else match captureRoom s a.capSize total ((s.context l.ctx).captures.length + 1) [(s.context l.ctx).capture]
      (s.context l.ctx).captures with
    | none => (s, x)
    | some (off, es) =>
      (s.modContext l.ctx fun c =>
        { c with
          captures := es ++ [(off, total, i)]
          capture := (off + total) % a.capSize },
       { x with capture := some off, capHead := captureHead l x.tag len total ++ bs, capRead := (at_, n) })

/-! ### Admission (R53, R59, R60, R61) -/

/-- Where the response of an instance goes. -/
def destOf (l : Launch) : Dest :=
  match l.destCode, l.frame with
  | 0, _ => .ring
  | 1, some (f, _) => .reply f.peer f.udpPort (cookieOf f)
  | _, _ => .nowhere

/-- The argument address of a new instance and the bytes that the Spine writes there (R56, R338). -/
def argsOf (s : State) (l : Launch) (tag : Nat) : Nat × List (Nat × List Byte) :=
  let a := s.attrs l.ctx
  match l.frame with
  | some (_, b :: bs) => (a.frameBase + 8192 * tag, [(a.frameBase + 8192 * tag, b :: bs)])
  | _ =>
    if l.inline then (a.argBase + 64 * tag, [(a.argBase + 64 * tag, slice l.record 0x20 32 ++ zeros 32)])
    else (field l.record 0x20 8, [])

/-- Step 2 of R338: the record of a frame that carries arguments names their area and their length. -/
def Launch.withArgs (l : Launch) (args : Nat) : Launch :=
  match l.frame with
  | some (_, b :: bs) => { l with record := putBytes l.record 0x20 (bytesOf 8 args ++ bytesOf 4 (b :: bs).length) }
  | _ => l

/-- A launch takes the next tag of its context, and its entry node becomes ready. -/
def takeTag (s : State) (l : Launch) (g : List Byte) : State :=
  let k := l.ctx
  let tag := (s.context k).nextTag
  let (i, s) := s.fresh
  let (args, writes) := argsOf s l tag
  let x : Instance := {
    ctx := k, tag, reqid := l.reqid, dest := destOf l, resp := bits l.resp 51 0, args, graph := l.graph
    array := field g 0 8, count := field g 8 2, entry := l.entry, fresh := [l.entry], writes }
  let (s, x) := capture s i (l.withArgs x.args) x
  let s := s.modContext k fun c =>
    { c with
      nextTag := (tag + 1) % Config.tagCount
      live := c.live ++ [i] }
  work { s with insts := tset s.insts i x } i

/-- One launch at the front end (R53, R410, R411, R449). -/
def enterLaunch (s : State) (l : Launch) : Admission :=
  match launchBad s l with
  | some (cls, d) => .settled (rejectLaunch s l cls d)
  | none =>
    match spineRead s (.admission l.ctx) l.ctx ((s.attrs l.ctx).graphBase + 16 * l.graph) 16 with
    | .error f => admitFault s l f
    | .ok (g, s) =>
      match graphBad l g with
      | some d => .settled (rejectLaunch s l 0x0403 d)
      | none => .settled (takeTag s l g)

/-- New instances of a context may be admitted (R60, R61, R363). -/
def mayAdmit (s : State) (k : Nat) : Bool :=
  let c := s.context k
  c.attrs.isSome && !c.ended && !tagsFull s k && !isHeld s c.hold && decide (s.pool.length + Config.poolKept < Config.poolSize)

/-- A launch waits on the context's submission ring, or on the firmware ring (R54). DESIGN CHOICE (log 108): a firmware ring whose
`FWSQSIZE` holds a number outside 6 to 16 has nothing pending. -/
def ringPending (s : State) (k : Nat) : Bool :=
  let p := (s.context k).page
  k != 0 && ringOn p.sqBase p.sqSize && p.sqHead != p.sqTail
def fwPending (s : State) (k : Nat) : Bool :=
  k == 0 && decide (6 ≤ s.fwSize) && decide (s.fwSize ≤ 16) && s.fwHead != s.fwSeen

/-- A context has a launch that can be admitted. -/
def launchable (s : State) (k : Nat) : Bool :=
  mayAdmit s k && (ringPending s k || fwPending s k || (s.context k).frames != [] || (s.context k).backlog != [])

/-- The context that the front end serves next (R53): round-robin. -/
def servedCtx (s : State) : Option Nat := ((upTo 16).map fun j => (s.lastCtx + 1 + j) % 16).find? (launchable s)

/-- The launch of a frame. -/
def frameLaunch (k : Nat) (f : Frame) : Launch :=
  { ctx := k, record := slice f.payload 16 64, frame := some (f, slice f.payload 80 (field f.payload 4 2)) }

/-- What an admission leaves: a launch that is over leaves its source. -/
def settleAdmit (k : Nat) (pop : State → State) : Admission → State
  | .held s => { s with lastCtx := k }
  | .settled s => { pop (admitted s k) with lastCtx := k }

/-- The next record of the firmware ring, which CTX0 addresses by its tables. -/
def admitFw (s : State) : State :=
  let pop := fun (s : State) => { s with fwHead := (s.fwHead + 1) % 2 ^ 32 }
  match spineRead s (.admission 0) 0 (s.fwBase + 64 * (s.fwHead % 2 ^ s.fwSize)) 64 with
  | .error f => settleAdmit 0 pop (admitFault s { ctx := 0, record := zeros 24 ++ bytesOf 8 (2 * 2 ^ 62), fw := true } f)
  | .ok (r, s) => settleAdmit 0 pop (enterLaunch s { ctx := 0, record := r, fw := true })

/-- LAUNCH_ADMISSION (R53): the front end takes the next record of a source of the context that it serves. -/
def execLaunchAdmission (src : LaunchSource) (s : State) : Host.Outcome State Fault Refusal :=
  match src with
  | .ring ctx =>
    let k := ctx.val
    let p := (s.context k).page
    if servedCtx s != some k || !ringPending s k then idle s
    else .next (settleAdmit k (fun s => modPage s k fun p => { p with sqHead := (p.sqHead + 1) % 2 ^ 32 })
      (enterLaunch s { ctx := k, record := s.host.read (p.sqBase + 64 * (p.sqHead % 2 ^ p.sqSize)) 64 }))
  | .firmware => if servedCtx s != some 0 || !fwPending s 0 then idle s else .next (admitFw s)
  | .frame ctx =>
    let k := ctx.val
    match (s.context k).frames with
    | [] => idle s
    | f :: _ =>
      if servedCtx s != some k then idle s
      else .next (settleAdmit k (fun s => s.modContext k fun c => { c with frames := c.frames.drop 1 })
        (enterLaunch s (frameLaunch k f)))

/-! ### The spawn backlog (R56, R62, R411) -/

/-- The launch of a spawned child: its parent's `REQID`, destination none, and its `SPAWN`'s argument address. -/
def childLaunch (k : Nat) (b : BacklogEntry) : Launch :=
  { ctx := k, child := true, fw := k == 0
    record := [1, 0, 0, 0, BitVec.ofNat 8 k, 0, 0, 0] ++ bytesOf 2 b.spawn.graph ++ bytesOf 2 b.spawn.entry ++ zeros 4
      ++ bytesOf 8 b.reqid ++ bytesOf 8 (2 * 2 ^ 62) ++ bytesOf 8 b.spawn.arg ++ zeros 24 }

/-- SPAWN_BACKLOG_ADMIT (R62): the oldest child of a context's backlog is admitted. -/
def execSpawnBacklogAdmit (ctx : Fin 16) (s : State) : Host.Outcome State Fault Refusal :=
  let k := ctx.val
  match (s.context k).backlog with
  | [] => idle s
  | b :: _ =>
    if servedCtx s != some k then idle s
    else .next (settleAdmit k (fun s => s.modContext k fun c => { c with backlog := c.backlog.drop 1 })
      (enterLaunch s (childLaunch k b)))

/-! ### Request frames (R337 to R339, R60, R69, R410) -/

/-- The first failing field of a frame (class 0x0409), as an offset in its payload. -/
def frameBad (p : List Byte) : Option Nat :=
  let n := field p 4 2
  firstBad [(2, field p 2 1 == 1), (3, field p 3 1 == 1), (4, decide (n ≤ 8192) && decide (80 + n ≤ p.length)),
    (6, field p 6 2 == 0), (0x12, n == 0 || !testBit (field p 0x12 2) 0), (0x30, n == 0 || field p 0x30 32 == 0)]

/-- The context that a UDP port is configured for, resident or parked. -/
def portCtx (s : State) (port : Nat) : Option Nat :=
  (upTo 16).find? fun k => (s.context k).parked.contains port || (s.attrs k).udpPort == some port

/-- A frame is dropped and counted in `RPDROP`. -/
def dropFrame (s : State) : State := { s with drops := min (s.drops + 1) 0xFFFFFFFF }

/-- A malformed frame: its record, and a reply with the class. -/
def refuseFrame (s : State) (k : Nat) (f : Frame) (d : Nat) : State :=
  let r := { spineRecord 0x0409 (some k) none (field f.payload 0x20 8) (field f.payload 0x18 2 % 4096) 0 d with
    uclass := 0x11, uindex := f.port.val }
  let l := { frameLaunch k f with ctx := k }
  if f.payload.length < 80 then sendReply (writeRecord s r) f.peer f.udpPort (cookieOf f) 0x0409 []
  else answerReject (writeRecord s r) l 0x0409

/-- A frame longer than 9,216 B is not accepted (R337): by its length on the link, of which the payload is a part. -/
def frameLong (f : Frame) : Bool := decide (9216 < max f.size f.payload.length)

/-- REQUEST_FRAME (R338, R339, R60, R69): a frame is dropped, refused, held, or answered BUSY. -/
def execRequestFrame (f : Frame) (s : State) : Host.Outcome State Fault Refusal :=
  if f.fragmented || !f.sumOk || frameLong f || field f.payload 0 2 != 0xD8A5 then .next (dropFrame s)
  else match portCtx s f.udpPort with
    | none => .next (dropFrame s)
    | some k =>
      match frameBad f.payload with
      | some d => .next (refuseFrame s k f d)
      | none =>
        let busy := sendReply s f.peer f.udpPort (cookieOf f) 1 []
        if (s.context k).parked.contains f.udpPort then
          if (s.parkedQ.filter fun x => x.1 == f.udpPort).length < Config.frameQueue then
            .next { s with parkedQ := s.parkedQ ++ [(f.udpPort, f)], irqs := s.irqs ++ [vecParked] }
          else .next busy
        else if (s.context k).frames.length < Config.frameQueue then
          .next (s.modContext k fun c => { c with frames := c.frames ++ [f] })
        else .next busy

/-! ### Responses (R68, R336, R365, R412) -/

/-- The next response of a context leaves. -/
def popDue (s : State) (k : Nat) : State := s.modContext k fun c => { c with due := c.due.drop 1 }

/-- The response of a retired instance is delivered, and its tag can be freed (R59). -/
def respond (s : State) (i : Nat) (x : Instance) : State :=
  let s := match x.dest with
    | .ring => putCompletion s x.ctx (completion x.reqid x.tag x.status x.answer.length)
    | .reply peer port cookie => sendReply s peer port cookie x.status x.answer
    | .nowhere => s
  let kept := (s.context x.ctx).live.contains i
  let s := { s with insts := if kept then tset s.insts i { x with owed := false } else tdel s.insts i }
  freeTags (popDue s x.ctx) x.ctx

/-- RESPONSE_DELIVERY (R68, R336): the oldest response due of a context, once its ring has room. -/
def execResponseDelivery (ctx : Fin 16) (s : State) : Host.Outcome State Fault Refusal :=
  let k := ctx.val
  let room := cqRoom (s.context k).page
  match (s.context k).due with
  | [] => idle s
  | .entry bs :: _ => if room then .next (popDue (putCompletion s k bs) k) else idle s
  | .inst i :: _ =>
    match tget s.insts i with
    | none => .next (popDue s k)
    | some x => if x.dest == .ring && !room then idle s else .next (respond s i x)

end Sys2Proof.Machine
end

