-- ==== Sys2Proof/Machine/Vector.lean ====
section
/-!
DEFINITION. The vector pipeline: its record and the checks of it (R202 to R205, R387), the stage operations (R207 to R210),
steps and control tokens (R206), the stream of an accumulator tile (R211), and its instructions (R213 to R216).
-/

namespace Sys2Proof.Machine

/-! ### The record (R202, R203) -/

/-- Where an input of the pipeline comes from: a port, or an accumulator tile of the leaf. -/
inductive VpFeed where
  | port (p : Nat)
  | tile (t : Nat)
deriving DecidableEq, Repr

/-- The feed of input k (0 to 2 for X, Y, Z) that a record enables: bit 3 of its byte (Table 1), `ASRC` or not. -/
def vpFeed (r : List Byte) (k : Nat) : Option VpFeed :=
  let b := field r k 1
  if !testBit b 3 then none
  else if k = 0 ∧ testBit b 4 then some (.tile (b / 32))
  else some (.port (b % 8))

/-- The enabled inputs of a record. -/
def vpFeeds (r : List Byte) : List (Nat × VpFeed) := (upTo 3).filterMap fun k => (vpFeed r k).map fun f => (k, f)

/-- The output port, the stage count and the policy of a record. -/
def vpOut (r : List Byte) : Nat := field r 3 1 % 8
def vpStages (r : List Byte) : Nat := field r 5 1 % 8
def vpPol (r : List Byte) : Nat := field r 4 1 % 4
def vpEconst (r : List Byte) : Word32 := BitVec.ofNat 32 (field r 8 4)

/-- Stage word k, and its fields (Table 2). -/
def vpWord (r : List Byte) (k : Nat) : Nat := field r (0x10 + 8 * k) 8
def stOp (w : Nat) : Nat := bits w 5 0
/-- Source A, B or C for j from 0 to 2. -/
def stSrc (w j : Nat) : Nat := bits w (9 + 4 * j) (6 + 4 * j)
def stRm (w : Nat) : Nat := bits w 20 18
def stSat (w : Nat) : Bool := testBit w 21
def stFmt (w : Nat) : Nat := bits w 25 22
def stAux (w : Nat) : Nat := bits w 31 26
def stConst (w : Nat) : Word32 := BitVec.ofNat 32 (bits w 63 32)

/-- `ACC` and `AMAXACC` (R209). -/
def isAcc (op : Nat) : Bool := op == 0x26 || op == 0x27
/-- The stage of a record that accumulates, and the one that holds `OSMAX`. -/
def accStage (r : List Byte) : Option Nat := (upTo (vpStages r)).find? fun k => isAcc (stOp (vpWord r k))
def osStage (r : List Byte) : Option Nat := (upTo (vpStages r)).find? fun k => stOp (vpWord r k) == 0x2C

/-! ### Record checks (R204, R205, R208, R387) -/

/-- Sources that an operation reads, from A on (Table 4). -/
def vpReads (op : Nat) : Nat :=
  if op = 0x2F then 0
  else if op = 4 ∨ op = 0x0A ∨ op = 0x2B then 3
  else if (1 ≤ op ∧ op ≤ 3) ∨ op = 5 ∨ op = 6 ∨ op = 9 ∨ op = 0x0C ∨ op = 0x0D ∨ (0x15 ≤ op ∧ op ≤ 0x20) ∨ op = 0x2A then 2
  else 1

/-- Formats that an operation allows (Table 4). -/
def vpFmtOk (op f : Nat) : Bool :=
  let float := decide (f ≤ 2)
  let int := decide (8 ≤ f) && decide (f ≤ 13)
  if op = 0 ∨ op = 0x0A ∨ op = 0x0B ∨ (0x28 ≤ op ∧ op ≤ 0x2A) ∨ op = 0x2F then decide (f ≤ 13)
  else if (1 ≤ op ∧ op ≤ 9) ∨ (0x21 ≤ op ∧ op ≤ 0x24) ∨ op = 0x27 then float
  else if op = 0x0C ∨ op = 0x0D then decide (f ≤ 1)
  else if (0x0E ≤ op ∧ op ≤ 0x14) ∨ op = 0x2B ∨ op = 0x2C then f == 0
  else if 0x15 ≤ op ∧ op ≤ 0x20 then int
  else if op = 0x25 ∨ op = 0x26 then float || int
  else if op = 0x2D ∨ op = 0x2E then decide (1 ≤ f) && decide (f ≤ 9)
  else false

/-- The largest `AUX` of an operation (Table 4). -/
def vpAuxMax (op : Nat) : Nat :=
  match op with
  | 5 | 6 => 1
  | 0x09 | 0x26 | 0x27 | 0x2C => 6
  | 0x0B => 13
  | 0x0C | 0x0D => 4
  | 0x20 => 5
  | 0x28 | 0x29 => 15
  | _ => 0

/-- A source of stage k is valid (Table 3, R205): `os` is the stage of `OSMAX`. -/
def vpSrcOk (r : List Byte) (os : Option Nat) (k c : Nat) : Bool :=
  if c ≤ 2 then (vpFeed r c).isSome
  else if c ≤ 7 then decide (c - 3 < k)
  else if c ≤ 9 then true
  else c == 0xA && os.any (· < k)

/-- Stage word k of a record is valid. -/
def vpStageOk (r : List Byte) (k : Nat) : Bool :=
  let w := vpWord r k
  let op := stOp w
  if vpStages r ≤ k then w == 0
  else
    decide (op ≤ 0x2F) && vpFmtOk op (stFmt w) && stRm w != 7 && decide (stAux w ≤ vpAuxMax op)
      && (op != 4 || k % 2 == 0)
      && (!isAcc op || accStage r == some k)
      && (op != 0x2C || (osStage r == some k && !(accStage r).any (· < k)))
      && (upTo 3).all fun j => if j < vpReads op then vpSrcOk r (osStage r) k (stSrc w j) else stSrc w j == 0

/-- An input byte is valid: its port's entry is bound to the pipeline (R85). -/
def vpInOk (routes : List Word) (r : List Byte) (k : Nat) : Bool :=
  let b := field r k 1
  if k = 0 ∧ testBit b 4 then b % 8 == 0
  else
    let w := routes.getD (b % 8) 0
    decide (b < 16) && (!testBit b 3 || (rtEn w && rtUnit w == 3))

/-- The first failing field of a record by byte offset, if any (R387). -/
def vpBad (routes : List Word) (r : List Byte) : Option Nat :=
  let out := field r 3 1
  let ow := routes.getD (8 + out % 8) 0
  match (upTo 3).find? fun k => !vpInOk routes r k with
  | some k => some k
  | none =>
    if !(decide (8 ≤ out) && decide (out < 16) && rtEn ow && rtUnit ow == 3) then some 3
    else if 3 ≤ field r 4 1 then some 4
    else if field r 5 1 = 0 ∨ 7 ≤ field r 5 1 then some 5
    else match [(6, 2), (0x0C, 4)].find? fun z => field r z.1 z.2 != 0 with
      | some z => some z.1
      | none => ((upTo 6).find? fun k => !vpStageOk r k).map fun k => 0x10 + 8 * k

/-! ### Lane operations (R207, R208) -/

/-- Sixteen zero lanes. -/
def zeroLanes : List Word32 := List.replicate 16 0

/-- The data format of a code. -/
def dataFmt (f : Nat) : DataFmt := (DataFmt.ofCode f).getD .f32

/-- The integer width of a format. -/
def vpWidth (f : DataFmt) : IntWidth :=
  match fmtWidth f with
  | 8 => .w8
  | 16 => .w16
  | _ => .w32

/-- An integer operation of R149 at a format's width. -/
def vpInt (op : IOp) (f : DataFmt) (sat : Bool) (a b : Word32) : Word32 × Flags6 :=
  let r := intOp op (vpWidth f) (fmtSigned f) sat (a.setWidth 64) (b.setWidth 64)
  (r.1.setWidth 32, r.2)

/-- The zero of addition: −0, or integer 0. -/
def sumZero (f : DataFmt) : Word32 := if fmtIsFloat f then BitVec.ofNat 32 (signOf f true) else 0

/-- A sum in a format. -/
def vpAdd (env : FEnv) (f : DataFmt) (sat : Bool) (lane : Nat) (a b : Word32) : Word32 × Flags6 :=
  if fmtIsFloat f then
    let r := fopLane env f .add sat lane a.toNat b.toNat 0
    (BitVec.ofNat 32 r.1, r.2)
  else vpInt .add f sat a b

/-- A lane as its format reads it (R207): its low bits, under `DAZ` the zero of a subnormal's sign, or an integer extended. Of
codes 0x3 to 0x7, which R207 does not describe, the low bits (DESIGN CHOICE, log 49). -/
def vpRead (env : FEnv) (f : DataFmt) (a : Word32) : Word32 :=
  if fmtIsFloat f then BitVec.ofNat 32 (selectCode env f a.toNat) else (wordOfInt (readInt f a.toNat)).setWidth 32

/-- The magnitude of a float code. -/
def vpAbs (f : DataFmt) (a : Word32) : Word32 := BitVec.ofNat 32 (a.toNat % 2 ^ (fmtWidth f - 1))

/-- A constant that a stage writes in its format (R207): the low bits of a float, or an integer extended. -/
def vpWrite (f : DataFmt) (k : Word32) : Word32 :=
  if fmtIsFloat f then BitVec.ofNat 32 (k.toNat % 2 ^ fmtWidth f) else (wordOfInt (readInt f k.toNat)).setWidth 32

/-- `RoundTo` of a code of its own format (R137): a number fits, so that only `FTZ` can change it (R102); an infinity is a special source
of Table 4 of R98, which `sat` makes the greatest finite number of its sign, with SAT. -/
def rounded (env : FEnv) (f : DataFmt) (sat : Bool) (code : Nat) : Nat × Flags6 := convertF env f (decodeF f code) sat 0

/-- A step of `RMAX`, `RMIN`, `RAMAX`, `AMAXACC` or `OSMAX`: the lesser or greater of two lanes, rounded (R111, R112). DESIGN CHOICE
(log 122): the NUM rule, which R210 states of `OSMAX` and no rule of the others. -/
def vpPick (env : FEnv) (f : DataFmt) (isMax sat : Bool) (a b : Word32) : Word32 × Flags6 :=
  let r := fminLane env f isMax false a.toNat b.toNat
  let q := rounded env f sat r.1
  (BitVec.ofNat 32 q.1, r.2 ||| q.2)

/-- A float comparison by its code. -/
def fcmpOf (c : Nat) : FCmp :=
  match c with
  | 0 => .eq | 1 => .ne | 2 => .lt | 3 => .le | 4 => .gt | 5 => .ge | _ => .un

/-- An integer comparison by its code (000 to 101). -/
def icmpLane (f : DataFmt) (c : Nat) (a b : Word32) : Bool :=
  let x := readInt f a.toNat
  let y := readInt f b.toNat
  match c with
  | 0 => x == y | 1 => x != y | 2 => decide (x < y) | 3 => decide (x ≤ y) | 4 => decide (y < x) | _ => decide (y ≤ x)

/-- The SFU function of an operation code 0x0E to 0x14. -/
def sfuCode (op : Nat) : Sfu :=
  match op with
  | 0x0E => .rcp | 0x0F => .rsq | 0x10 => .sqrt | 0x11 => .exp2 | 0x12 => .log2 | 0x13 => .tanh | _ => .sigm

/-- The integer operation of an operation code 0x15 to 0x1F. -/
def intCode (op : Nat) : IOp :=
  match op with
  | 0x15 => .add | 0x16 => .sub | 0x17 => .mul | 0x18 => .and | 0x19 => .or | 0x1A => .xor
  | 0x1B => .shl | 0x1C => .shr | 0x1D => .sar | 0x1E => .min | _ => .max

/-- A code with no flag. -/
def quiet (v : Word32) : Word32 × Flags6 := (v, 0)
/-- A code as a lane. -/
def asLane (r : Nat × Flags6) : Word32 × Flags6 := (BitVec.ofNat 32 r.1, r.2)

/-- A lane is zero as its format reads it; −0 is. -/
def vpZero (env : FEnv) (f : DataFmt) (a : Word32) : Bool :=
  let v := vpRead env f a
  if fmtIsFloat f then v.toNat % 2 ^ (fmtWidth f - 1) == 0 else v == 0

/-- One lane of an operation that works lane by lane (Table 4); `k` is the stage's constant. -/
def vpLane (env : FEnv) (w : Nat) (k : Word32) (lane : Nat) (a b c : Word32) : Word32 × Flags6 :=
  let op := stOp w
  let f := dataFmt (stFmt w)
  let aux := stAux w
  let sat := stSat w
  let elem := (ElemFmt.ofCode (aux % 8)).getD .e4m3
  match op with
  | 0x00 => quiet (vpRead env f a)
  | 0x01 => asLane (fopLane env f .add sat lane a.toNat b.toNat 0)
  | 0x02 => asLane (fopLane env f .sub sat lane a.toNat b.toNat 0)
  | 0x03 => asLane (fopLane env f .mul sat lane a.toNat b.toNat 0)
  | 0x04 => asLane (fopLane env f .fma sat lane a.toNat b.toNat c.toNat)
  | 0x05 | 0x06 => asLane (fminLane env f (op == 0x06) (testBit aux 0) a.toNat b.toNat)
  | 0x07 => quiet (vpAbs f a)
  | 0x08 => quiet (BitVec.ofNat 32 ((a.toNat + 2 ^ (fmtWidth f - 1)) % 2 ^ fmtWidth f))
  | 0x09 =>
    let r := fcmpLane env f (fcmpOf aux) a.toNat b.toNat
    asLane (natOfBool r.1, r.2)
  | 0x0A => quiet (vpRead env f (if testBit c.toNat 0 then a else b))
  | 0x0B =>
    let r := fcvt env (dataFmt aux) f sat lane a.toNat
    (r.1.setWidth 32, r.2)
  | 0x0C => asLane (qcvtOf env f elem (b.toNat % 256) sat lane a.toNat)
  | 0x0D => asLane (qdeqOf env f elem (b.toNat % 256) sat lane a.toNat)
  | 0x20 => quiet (BitVec.ofNat 32 (natOfBool (icmpLane f aux a b)))
  | 0x2A => quiet (if vpZero env f b then vpWrite f k else vpRead env f a)
  | 0x2B => quiet (if b ≤ c then vpRead env f a else 0xFF800000)
  | 0x2F => quiet (vpWrite f k)
  | _ =>
    if op ≤ 0x14 then asLane (sfuOf env (sfuCode op) a.toNat)
    else vpInt (intCode op) f (sat && decide (op ≤ 0x17)) a b

/-- The lanes of a mask, each computed; a clear lane is zero and raises nothing (R207). -/
def eachLane (mask : Nat) (f : Nat → Word32 × Flags6) : List Word32 × Flags6 :=
  let rs := (upTo 16).map fun i => if testBit mask i then f i else (0, 0)
  (rs.map (·.1), joinFlags (rs.map (·.2)))

/-- One value in every lane of a mask. -/
def spread (mask : Nat) (v : Word32) : List Word32 := (upTo 16).map fun i => if testBit mask i then v else 0

/-- One round of the pairwise tree of R111, at distance d. DESIGN CHOICE (log 123): a step under SR draws with the lane i of its left
operand and result. -/
def treeRound (f : Nat → Word32 → Word32 → Word32 × Flags6) (v : List Word32 × Flags6) (d : Nat) : List Word32 × Flags6 :=
  ((upTo 16).filter fun i => i % (2 * d) == 0).foldl (fun v i =>
    let r := f i (v.1.getD i 0) (v.1.getD (i + d) 0)
    (v.1.set i r.1, v.2 ||| r.2)) v

/-- The tree of R111 over lanes; a lane outside the mask enters as `ident`. -/
def treeOf (f : Nat → Word32 → Word32 → Word32 × Flags6) (ident : Word32) (mask : Nat) (xs : List Word32) :
    Word32 × Flags6 :=
  let ys := (upTo 16).map fun i => if testBit mask i then xs.getD i 0 else ident
  let r := [1, 2, 4, 8].foldl (treeRound f) (ys, 0)
  (r.1.getD 0 0, r.2)

/-- A tree operation 0x21 to 0x24 (R111). -/
def vpTree (env : FEnv) (w mask : Nat) (xs : List Word32) : Word32 × Flags6 :=
  let f := dataFmt (stFmt w)
  match stOp w with
  | 0x21 => treeOf (vpAdd env f (stSat w)) (sumZero f) mask xs
  | 0x22 => treeOf (fun _ => vpPick env f true (stSat w)) (BitVec.ofNat 32 (fmtInf f true)) mask xs
  | 0x23 => treeOf (fun _ => vpPick env f false (stSat w)) (BitVec.ofNat 32 (fmtInf f false)) mask xs
  | _ => treeOf (fun _ => vpPick env f true (stSat w)) 0 mask (xs.map (vpAbs f))

/-- `SCAN`: sums from lane 0 upward; `acc` is the sum so far. A lane outside the mask raises no flag (R207). -/
def scanFrom (env : FEnv) (f : DataFmt) (sat : Bool) (mask : Nat) : Nat → Word32 → List Word32 → List Word32 × Flags6
  | _, _, [] => ([], 0)
  | i, acc, x :: xs =>
    let r := if i = 0 then (vpRead env f x, 0) else vpAdd env f sat i acc x
    let q := scanFrom env f sat mask (i + 1) r.1 xs
    (r.1 :: q.1, (if testBit mask i then r.2 else 0) ||| q.2)

/-- Bits that a code of `PACK` takes. -/
def packWidth (f : Nat) : Nat := if f = 7 then 4 else if f ≤ 2 then 16 else 8

/-- `PACK`: codes of the lanes of the mask in consecutive bit positions. -/
def packLanes (wd mask : Nat) (xs : List Word32) : List Word32 :=
  let v := ((upTo 16).map fun i =>
    if testBit mask i then (xs.getD i 0).toNat % 2 ^ wd * 2 ^ (wd * i) else 0).foldl (· + ·) 0
  (upTo 16).map fun k => BitVec.ofNat 32 (v / 2 ^ (32 * k))

/-- `UNPACK`: code i of the packed low part. -/
def unpackLanes (wd : Nat) (xs : List Word32) : List Word32 :=
  let v := ((upTo 16).map fun k => (xs.getD k 0).toNat * 2 ^ (32 * k)).foldl (· + ·) 0
  (upTo 16).map fun i => BitVec.ofNat 32 (v / 2 ^ (wd * i) % 2 ^ wd)

/-! ### Stages (R206 to R210) -/

/-- What passes from stage to stage: the pipeline, the correction of the step, the results so far, the mask that `PACK` or
`UNPACK` of the last stage gives, and that an accumulating stage absorbed the step. -/
structure VpWork where
  x        : VPipe
  corr     : Word32 := 0
  res      : List (List Word32) := List.replicate 6 zeroLanes
  mask     : Option Nat := none
  absorbed : Bool := false

/-- A source of stage k (Table 3). -/
def vpSource (xyz : List (List Word32)) (k : Nat) (g : VpWork) (c : Nat) : List Word32 :=
  if c ≤ 2 then xyz.getD c zeroLanes
  else if c ≤ 7 then g.res.getD (c - 3) zeroLanes
  else if c = 8 then List.replicate 16 (g.x.consts.getD k 0)
  else if c = 9 then (upTo 16).map (BitVec.ofNat 32)
  else List.replicate 16 g.corr

/-- A stage leaves a result. -/
def VpWork.leave (g : VpWork) (k : Nat) (r : List Word32 × Flags6) (m : Option Nat := none) : VpWork :=
  { g with
    x := { g.x with flags := g.x.flags ||| r.2 }
    res := lset g.res k r.1
    mask := m }

/-- A difference in F32. -/
def vpSub (env : FEnv) (sat : Bool) (lane : Nat) (a b : Word32) : Word32 × Flags6 :=
  asLane (fopLane env .f32 .sub sat lane a.toNat b.toNat 0)

/-- `OSMAX` (R210); its maxima are steps of R111 and R112. DESIGN CHOICE (log 129): the correction, one value for every lane, draws with
lane 0 under SR. -/
def osmaxStage (env : FEnv) (w mask k : Nat) (a : List Word32) (g : VpWork) : VpWork :=
  let sat := stSat w
  let m := g.x.osmax
  let mx := treeOf (fun _ => vpPick env .f32 true sat) 0xFF800000 mask a
  let mn := vpPick env .f32 true sat m mx.1
  let same := (fcmpLane env .f32 .eq mn.1.toNat m.toNat).1
  let corr := if same then (0, 0) else vpSub env sat 0 m mn.1
  let out := eachLane mask fun i => if mn.1 = 0xFF800000 then (0xFF800000, 0) else vpSub env sat i (a.getD i 0) mn.1
  let g := g.leave k (out.1, mx.2 ||| mn.2 ||| corr.2 ||| out.2)
  { g with
    x := { g.x with osmax := mn.1 }
    corr := corr.1 }

/-- `ACC` and `AMAXACC` on a DATA step (R209, R112). -/
def accumulate (env : FEnv) (w mask : Nat) (a : List Word32) (g : VpWork) : VpWork :=
  let f := dataFmt (stFmt w)
  let rs := (upTo 16).map fun i =>
    let old := g.x.acc.getD i 0
    if !testBit mask i then (old, 0)
    else if stOp w = 0x26 then vpAdd env f (stSat w) i old (a.getD i 0)
    else vpPick env f true (stSat w) old (vpAbs f (a.getD i 0))
  { g with
    x := { g.x with
      acc := rs.map (·.1)
      flags := g.x.flags ||| joinFlags (rs.map (·.2))
      accMask := g.x.accMask ||| BitVec.ofNat 16 mask
      accAny := true }
    absorbed := true }

/-- Stage k of a step of mask `mask` (Table 4). DESIGN CHOICE (log 124): the t of R100 counts the DATA steps and flushed tokens that
have entered the stage before this one; a STOP, TURN or DONE, on which no stage computes (R206), does not count. -/
def vpStage (env : FEnv) (mask : Nat) (xyz : List (List Word32)) (k : Nat) (g : VpWork) : VpWork :=
  let w := vpWord g.x.record k
  let op := stOp w
  let a := vpSource xyz k g (stSrc w 0)
  let b := vpSource xyz k g (stSrc w 1)
  let c := vpSource xyz k g (stSrc w 2)
  let f := dataFmt (stFmt w)
  let g := { g with x := { g.x with draws := lmod g.x.draws k (· + 1) } }
  if isAcc op then accumulate env w mask a g
  else if op = 0x2C then osmaxStage env w mask k a g
  else if 0x21 ≤ op ∧ op ≤ 0x24 then
    let r := vpTree env w mask a
    g.leave k (spread mask r.1, r.2)
  else if op = 0x25 then
    let r := scanFrom env f (stSat w) mask 0 0 ((upTo 16).map fun i => if testBit mask i then a.getD i 0 else sumZero f)
    g.leave k ((upTo 16).map fun i => if testBit mask i then r.1.getD i 0 else 0, r.2)
  else if op = 0x28 then
    g.leave k (eachLane mask fun i => (if i + stAux w < 16 then vpRead env f (a.getD (i + stAux w) 0) else 0, 0))
  else if op = 0x29 then g.leave k (spread mask (vpRead env f (a.getD (stAux w % 16) 0)), 0)
  else if op = 0x2D then
    let wd := packWidth (stFmt w)
    g.leave k (packLanes wd mask a, 0) (some (2 ^ (wd / 2) - 1))
  else if op = 0x2E then g.leave k (unpackLanes (packWidth (stFmt w)) a, 0) (some 0xFFFF)
  else g.leave k (eachLane mask fun i => vpLane env w (g.x.consts.getD k 0) i (a.getD i 0) (b.getD i 0) (c.getD i 0))

/-- The environment of stage k: `DYN` takes the latched mode (R203), and the tokens that entered the stage are counted
(R100). -/
def stageEnv (s : State) (n : Nat) (x : VPipe) (k : Nat) : FEnv :=
  unitEnv s n x.fpmode (rmOf (stRm (vpWord x.record k))) x.issuer k (x.draws.getD k 0)

/-- Stages from k on, `left` of them, until one absorbs the step. -/
def vpRun (s : State) (n mask : Nat) (xyz : List (List Word32)) : Nat → Nat → VpWork → VpWork
  | 0, _, g => g
  | left + 1, k, g =>
    if g.absorbed then g else vpRun s n mask xyz left (k + 1) (vpStage (stageEnv s n g.x k) mask xyz k g)

/-- The identity that the accumulators of a record start from (R209). -/
def accIdent (r : List Byte) : Word32 :=
  match accStage r with
  | some k =>
    let w := vpWord r k
    if stOp w = 0x26 then sumZero (dataFmt (stFmt w)) else 0
  | none => 0

/-- The accumulators return to the identity. -/
def freshAcc (x : VPipe) : VPipe :=
  { x with acc := List.replicate 16 (accIdent x.record), accMask := 0, accAny := false }

/-- The DATA token that the last stage leaves. -/
def vpResult (mask : Nat) (g : VpWork) : Token :=
  { kind := .data, deckle := BitVec.ofNat 16 (g.mask.getD mask), lanes := g.res.getD (vpStages g.x.record - 1) zeroLanes }

/-- A DATA step (R206, R207). -/
def vpData (s : State) (n : Nat) (x : VPipe) (mask : Nat) (xyz : List (List Word32)) : VPipe × List Token :=
  let g := vpRun s n mask xyz (vpStages x.record) 0 { x }
  (g.x, if g.absorbed then [] else [vpResult mask g])

/-- A flush (R209): the accumulators through the stages after the accumulating one. -/
def vpFlush (s : State) (n : Nat) (x : VPipe) (k : Nat) : VPipe × List Token :=
  let mask := x.accMask.toNat
  let held := (upTo 16).map fun i => if testBit mask i then x.acc.getD i 0 else 0
  let g := vpRun s n mask [] (vpStages x.record - (k + 1)) (k + 1)
    { x, res := lset (List.replicate 6 zeroLanes) k held }
  (freshAcc g.x, [vpResult mask g])

/-- A flush at a stop or a DONE, if the accumulating stage flushes there. -/
def vpFlushIf (s : State) (n : Nat) (x : VPipe) (due : Nat → Bool) : VPipe × List Token :=
  match accStage x.record with
  | some k => if due k then vpFlush s n x k else (x, [])
  | none => (x, [])

/-- A control step: STOP, TURN or DONE (R206). -/
def vpControl (s : State) (n : Nat) (x : VPipe) (t : Token) : VPipe × List Token :=
  match t.kind with
  | .stop =>
    let (x, ts) := vpFlushIf s n x fun k => decide (stAux (vpWord x.record k) ≤ t.level)
    let reset := (osStage x.record).any fun k => decide (stAux (vpWord x.record k) ≤ t.level)
    (if reset then { x with osmax := 0xFF800000 } else x, ts ++ [t])
  | .done =>
    let (x, ts) := vpFlushIf s n x fun _ => x.accAny
    ({ freshAcc x with osmax := 0xFF800000, ending := true }, ts ++ [t])
  | _ => (x, [t])

/-! ### The pipeline of a leaf -/

/-- The pipeline of a leaf, and an update of it. -/
def State.vp (s : State) (n : Nat) : VPipe := (s.leaf n).vp
def State.modVp (s : State) (n : Nat) (f : VPipe → VPipe) : State := s.modLeaf n fun l => { l with vp := f l.vp }

/-- Matrix commands accepted and not complete that write a tile of a leaf (R211, R227, R228). -/
def tileWriters (s : State) (n t : Nat) : List Nat :=
  let q := s.quire (quireOf n)
  ((q.queue ++ q.started).filter fun c => bits c.word 23 20 == leafIndex n && bits c.word 26 24 == t).map (·.num)

/-- A command of the numbers has not completed. -/
def cmdsPending (s : State) (n : Nat) (ns : List Nat) : Bool :=
  let q := s.quire (quireOf n)
  ns.any fun k => (q.queue ++ q.started).any fun c => c.num == k

/-- Tokens made leave as the port takes them, and a pipeline that has sent its DONE stops. -/
def drainVp (n : Nat) : Nat → State → State
  | 0, s => s
  | k + 1, s =>
    let p := vpOut (s.vp n).record
    match (s.vp n).outq with
    | t :: ts => if mayEnter s n p then drainVp n k ((enterPort s n p t).modVp n fun x => { x with outq := ts }) else s
    | [] => s
def flushVp (s : State) (n : Nat) : State :=
  let s := drainVp n (s.vp n).outq.length s
  s.modVp n fun x =>
    let x := if x.outq = [] then { x with settled := x.taken } else x
    if x.ending ∧ x.outq = [] then { x with run := false, done := true, ending := false } else x

/-- The LA of a line of an accumulator tile. -/
def tileLine (l : Leaf) (t i : Nat) : Nat := accBase l.partw + 0x4000 * t + 64 * i

/-- The next token of a tile's stream (R211): four DATA tokens a row, then a stop, and a DONE at the end. -/
def tileToken (s : State) (n t : Nat) : Except UnitStop Token :=
  let p := (s.vp n).asrc
  let row := p / 5
  if 320 ≤ p then .ok (bareTok .done)
  else if p % 5 = 4 then .ok (bareTok .stop (if row = 63 then 1 else 0))
  else
    let la := tileLine (s.leaf n) t (4 * row + p % 5)
    if leafPoisoned (s.leaf n) la 64 then
      .error (.refuse (laReport s (strandOf n (s.vp n).issuer) 3 accTile la 0x0314 1))
    else .ok { kind := .data, deckle := 0xFFFF, lanes := maskLanes 0xFFFF (leafRead s n la 64) }

/-- The token that a feed offers, or what stops it. -/
def feedToken (s : State) (n : Nat) : VpFeed → Except UnitStop Token
  | .port p => match headOf s n p with
    | some t => .ok t
    | none => .error .wait
  | .tile t => if cmdsPending s n (s.vp n).after then .error .wait else tileToken s n t

/-- The token of a feed is taken. -/
def takeFeed (n : Nat) (s : State) (f : Nat × VpFeed) : State :=
  match f.2 with
  | .port p => dropHead s n p
  | .tile _ => s.modVp n fun x => { x with asrc := x.asrc + 1 }

/-- Tokens of all feeds, or the first of them that stops the step: one that waits comes first. -/
def feedTokens (s : State) (n : Nat) (fs : List (Nat × VpFeed)) : Except UnitStop (List Token) :=
  if fs.any fun f => match feedToken s n f.2 with
      | .error .wait => true
      | _ => false
  then .error .wait
  else fs.mapM fun f => feedToken s n f.2

/-- Token misuse at the pipeline (class 0x0205): a TURN passes it. -/
def vpMisused (s : State) (n : Nat) (f : VpFeed) (t : Token) : Bool :=
  match f with
  | .port p => (t.kind == .skip) != rtSkip ((s.leaf n).routes.getD p 0) || (t.kind != .data && t.kind != .skip && t.deckle != 0)
      || (t.kind != .stop && t.level != 0) || t.kind == .skip
  | .tile _ => false

/-- Inputs after the tokens of a step: the last mark of each, and the highest (R232). An EMPTY discarded leaves no mark. -/
def vpMark (gone : Bool) (x : VPipe) (q : (Nat × VpFeed) × Token) : VPipe :=
  let i := q.1.1
  match q.2.kind with
  | .empty => if gone then x else { x with seen := lset x.seen i none }
  | .stop => { x with seen := lset x.seen i (some (q.2.level + 1)), tops := lmod x.tops i (max (q.2.level + 1)) }
  | .turn => { x with seen := lset x.seen i (some 0) }
  | _ => { x with seen := lset x.seen i none }

/-- A token that R232 does not allow at its place (class 0x0202): one after DONE, or a DONE whose last token was not the final STOP
(of a tile stream, which has no STOP: a TURN, R234). -/
def vpEarly (s : State) (n : Nat) (q : (Nat × VpFeed) × Token) : Bool :=
  let x := s.vp n
  match q.1.2 with
  | .port _ => q.2.late || (q.2.kind == .done && x.seen.getD q.1.1 none != some (x.tops.getD q.1.1 0))
  | .tile _ => false

/-- A stream error of the step: class, input, offending and required token. -/
def vpError (s : State) (n : Nat) (fs : List (Nat × VpFeed)) (ts : List Token) : Option (Nat × Nat × Token × Option Token) :=
  let all := fs.zip ts
  match all.find? fun q => vpMisused s n q.1.2 q.2 with
  | some q => some (0x0205, q.1.1, q.2, none)
  | none =>
   match all.find? (vpEarly s n) with
   | some q => some (0x0202, q.1.1, q.2, none)
   | none =>
    let empty := ts.any fun t => t.kind == .empty
    match all.find? fun q => empty && q.2.kind != .empty && q.2.kind != .data with
    | some q => some (0x0201, q.1.1, q.2, none)
    | none =>
      match all.filter fun q => q.2.kind != .empty with
      | [] => none
      | f :: qs =>
        (qs.find? fun q => q.2.kind != f.2.kind || q.2.level != f.2.level).map fun q => (0x0201, q.1.1, q.2, some f.2)

/-- Payloads by input, from the tokens taken. -/
def vpPayloads (fs : List (Nat × VpFeed)) (ts : List Token) : List (List Word32) :=
  (fs.zip ts).foldl (fun xs q => xs.set q.1.1 q.2.lanes) [zeroLanes, zeroLanes, zeroLanes]

/-- One step of the pipeline (R206). -/
def vpAct (s : State) (n : Nat) : Ran :=
  let r := (s.vp n).record
  let fs := vpFeeds r
  if fs = [] then (s, some .wait)
  else match feedTokens s n fs with
    | .error e => (s, some e)
    | .ok ts =>
      match vpError s n fs ts with
      | some (cls, i, t, e) => (s, some (.stream cls i (some t) e i none))
      | none =>
        let s := (fs.foldl (takeFeed n) s).modVp n fun x =>
          (fs.zip ts).foldl (vpMark (vpPol r == 0)) { x with taken := x.taken + 1 }
        let empty := ts.any fun t => t.kind == .empty
        if empty && vpPol r == 0 then (s, none)
        else if empty && vpPol r == 1 then (s.modVp n fun x => { x with outq := x.outq ++ [bareTok .empty] }, none)
        else
          let ts := ts.map fun t =>
            if t.kind = .empty then { kind := .data, deckle := 0xFFFF, lanes := List.replicate 16 (vpEconst r) } else t
          let first := ts.headD default
          let (x, out) := match first.kind with
            | .data =>
              vpData s n (s.vp n) (ts.foldl (fun (m : BitVec 16) (t : Token) => m &&& t.deckle) 0xFFFF).toNat (vpPayloads fs ts)
            | _ => vpControl s n (s.vp n) first
          (s.modVp n fun _ => { x with outq := x.outq ++ out }, none)

/-- The pipeline stopped by an error (R385). -/
def failVp (s : State) (n : Nat) : State :=
  s.modVp n fun x => { x with run := false, outq := [], ending := false, failed := true }

/-- The record of a stream error of the pipeline (R383). -/
def vpReport (s : State) (n cls detail : Nat) (t e : Option Token) : Report :=
  let x := s.vp n
  { strandReport s (strandOf n x.issuer) cls sevTask with
    uclass := 3, uindex := n
    synd := streamSynd (field x.record detail 1 % 8 + 0xFF30) (tokWord t) (tokWord e) detail }

/-- What became of a step. -/
def settleVp (n : Nat) (r : Ran) : State :=
  let (s, why) := r
  match why with
  | none => flushVp s n
  | some (.stream cls d t e _ _) => reportUnit (failVp s n) n (vpReport s n cls d t e)
  | some (.refuse r) => reportUnit (failVp s n) n r
  | some _ => s

/-- The pipeline works. -/
def vpRuns (s : State) (n : Nat) : Bool :=
  (s.vp n).run && match (s.leaf n).gath.bind s.gath with
    | some g => gathRuns s g
    | none => false

/-- VP_STEP (R206). -/
def execVpStep (leaf : Nat) (s : State) : Host.Outcome State Fault Refusal :=
  if Config.leafCount ≤ leaf then .fault .noSuchUnit
  else if !vpRuns s leaf then idle s
  else
    let s := flushVp s leaf
    if (s.vp leaf).run && (s.vp leaf).outq.isEmpty && !(s.vp leaf).ending then .next (settleVp leaf (vpAct s leaf))
    else .next s

/-! ### Instructions (R213 to R216) -/

/-- A pipeline with a record just loaded. -/
def loadedVp (x : VPipe) (r : List Byte) : VPipe :=
  freshAcc { record := r, cfgd := true, consts := (upTo 6).map fun k => stConst (vpWord r k), draws := x.draws,
             taken := x.taken, settled := x.taken }

/-- A pipeline that starts (R214): `after` are the commands that its tile waits for. -/
def startedVp (x : VPipe) (fp : BitVec 5) (strand : Nat) (after : List Nat) : VPipe :=
  freshAcc { record := x.record, cfgd := true, run := true, flags := x.flags, fpmode := fp, issuer := strand,
             consts := x.consts, draws := x.draws, after, taken := x.taken, settled := x.taken }

/-- The commands that a pipeline about to start waits for. -/
def vpAfter (s : State) (n : Nat) : List Nat :=
  match vpFeed (s.vp n).record 0 with
  | some (.tile t) => tileWriters s n t
  | _ => []

/-- `VPCFG` (R214, R387). -/
def execVpcfg (tb ta : Target) (s : State) : Host.Outcome State Fault Refusal :=
  perform (formOf (.vpcfg tb ta)) s fun s c i l _ _ =>
    limitLa s c i l.toNat 64 0 fun s =>
      let n := (coreLeaf c).getD 0
      if (s.vp n).run then stay s c i
      else leafAccess s c i l.toNat 64 accLoad false false fun s =>
        let r := padRead s c l.toNat 64
        match vpBad (s.leaf n).routes r with
        | some d =>
          raiseFault (s.modVp n fun x => { x with cfgd := false }) c (leafReport s c 0x0210 3 0xFF30 d) d
        | none => complete (formOf (.vpcfg tb ta)) (s.modVp n fun x => loadedVp x r) c i tok tok

/-- `VPGO` (R214): without effect on a running pipeline; class 0x0212 without a record (R384). -/
def execVpgo (tb ta : Target) (s : State) : Host.Outcome State Fault Refusal :=
  perform (formOf (.vpgo tb ta)) s fun s c i _ _ _ =>
    let n := (coreLeaf c).getD 0
    let x := s.vp n
    if !x.cfgd then raiseFault s c (leafReport s c 0x0212 1 0 3) 3
    else
      let s := if x.run then s
        else s.modVp n fun x => startedVp x (s.strand c).fpmode (coreIndex c) (vpAfter s n)
      complete (formOf (.vpgo tb ta)) s c i tok tok

/-- `VPSTAT` (R215, Table 6). -/
def execVpstat (tb ta : Target) (s : State) : Host.Outcome State Fault Refusal :=
  valueOp (formOf (.vpstat tb ta)) s fun _ _ _ => wordOfNat (s.vp ((coreLeaf s.focus.core).getD 0)).status

/-- `VPCONST` (R216): a step is a single act of the pipeline, so the next one uses the new constant. -/
def execVpconst (stage : Fin 6) (tb ta : Target) (s : State) : Host.Outcome State Fault Refusal :=
  perform (formOf (.vpconst stage tb ta)) s fun s c i l _ _ =>
    limit s c i (decide (l.toNat < 2 ^ 32)) 0 fun s =>
      let n := (coreLeaf c).getD 0
      let s := s.modVp n fun x => { x with consts := lset x.consts stage.val (l.setWidth 32) }
      complete (formOf (.vpconst stage tb ta)) s c i tok tok

end Sys2Proof.Machine
end

