-- ==== Sys2Proof/Machine/Matrix.lean ====
section
/-!
DEFINITION. Tiles and matrix cells: `TLD`, `TTURN`, `TST` (R83, R218 to R220), `MXCMD`, `MXWAIT`, `ACCOP` (R221 to R228,
R391), the swap of recto and verso (R219), and the commands of a matrix cell (R113, R224, R225).
-/

namespace Sys2Proof.Machine

/-! ### Tiles that move line by line -/

/-- `TLD.la` may read the range (R218). -/
def tileSource (w la n : Nat) : Bool :=
  decide (la + n ≤ Config.leafBytes) && (linesOf la n).all fun p =>
    match regionOf w p.1 with
    | .recto | .acc | .keep | .disc => true
    | _ => false

/-- A program may write the range, and it shares nothing with [a, a + m). -/
def tileDest (w la n a m : Nat) : Bool :=
  decide (la + n ≤ Config.leafBytes) && !overlaps la n a m && (linesOf la n).all fun p => (regionOf w p.1).writable

/-- A tile instruction performs (R173, R218, R220, R228): its lines then move one by one, in increasing order (R77), and it owes its
token until the last has moved. -/
def startTile (s : State) (c : CoreId) (i kind src dst n : Nat) : State :=
  let lines := (upTo (n / 64)).map fun k => (64 * k, 64)
  acceptCopy s c i (newCopy kind src dst n 0 0 0 (if kind = 10 then [] else lines) lines)

/-! ### `TLD` (R218) -/

/-- `TLD.la` (R218): it waits until verso is empty. -/
def execTldLa (tb ta : Target) (s : State) : Host.Outcome State Fault Refusal :=
  perform (formOf (.tldLa tb ta)) s fun s c i l _ _ =>
    limitLa s c i l.toNat 64 0 fun s =>
      let x := s.leaf ((coreLeaf c).getD 0)
      limit s c i (tileSource x.partw l.toNat 4096) 0 fun s =>
        if x.vfull || acquirePending s c then stay s c i else startTile s c i 6 l.toNat 0x1000 4096

/-- `TLD.dev` (R218). -/
def execTldDev (tb ta : Target) (s : State) : Host.Outcome State Fault Refusal :=
  perform (formOf (.tldDev tb ta)) s fun s c i l _ _ =>
    limitVa s c i l.toNat 64 0 fun s =>
      if (s.leaf ((coreLeaf c).getD 0)).vfull || acquirePending s c then stay s c i
      else startTile s c i 7 l.toNat 0x1000 4096

/-! ### `TTURN` (R219) -/

/-- `TTURN` performs at issue: what it waits for is noted, and its token is owed (R219, R375). -/
def startTurn (s : State) (c : CoreId) (i : Nat) (emit : Option Nat) : State :=
  let n := (coreLeaf c).getD 0
  if (s.leaf n).turn.isSome then blockFault s c (some i) 0x0118 0
  else
    let t : Turn := { claim := claimOf s c i, before := (readersOf s n).map (·.num), emit }
    owe (s.modLeaf n fun l => { l with turn := some t }) c i

/-- `TTURN` (R219). -/
def execTturn (tb ta : Target) (s : State) : Host.Outcome State Fault Refusal :=
  perform (formOf (.tturn tb ta)) s fun s c i _ _ _ => startTurn s c i none

/-- `TTURN.emit` (R219): its TURN stands as a send in its slot (R87). -/
def execTturnEmit (port : Fin 8) (tb ta : Target) (s : State) : Host.Outcome State Fault Refusal :=
  perform (formOf (.tturnEmit port tb ta)) s fun s c i _ _ _ =>
    if (s.leaf ((coreLeaf c).getD 0)).turn.isSome then blockFault s c (some i) 0x0118 0
    else startTurn (queueSend s c i port.val) c i (some port.val)

/-- The waiting send of a turn takes its token and its place in the port's order. -/
def sendTurn (s : State) (n : Nat) (t : Turn) : State :=
  match t.emit with
  | some p =>
    let own : SendReq := ⟨coreIndex t.claim.core, t.claim.slot, t.claim.blk, p, none⟩
    pumpSends (s.modLeaf n fun l =>
      { l with sendq := l.sendq.map fun r => if r == own then { r with value := some (bareTok .turn) } else r }) n
  | none => s

/-- TILE_SWAP (R83, R219): verso is full, no command accepted before the turn still reads recto and no `TST` does (R220); the storage
is exchanged, and the commands held become eligible. -/
def execTileSwap (leaf : Nat) (s : State) : Host.Outcome State Fault Refusal :=
  if Config.leafCount ≤ leaf then .fault .noSuchUnit
  else
    let l := s.leaf leaf
    match l.turn with
    | none => idle s
    | some t =>
      if !l.vfull || (readersOf s leaf).any (fun x => t.before.contains x.num) || !(tstReaders s leaf).isEmpty then idle s
      else
        let s := s.modLeaf leaf fun l => { l with swap := !l.swap, rfull := true, vfull := false, turn := none }
        .next (payOwed (sendTurn s leaf t) t.claim tok tok)

/-! ### `TST` (R220) -/

/-- `TST.la` (R220). -/
def execTstLa (tb ta : Target) (s : State) : Host.Outcome State Fault Refusal :=
  perform (formOf (.tstLa tb ta)) s fun s c i l _ _ =>
    limitLa s c i l.toNat 64 0 fun s =>
      limit s c i (tileDest (s.leaf ((coreLeaf c).getD 0)).partw l.toNat 4096 0 4096) 0 fun s =>
        if acquirePending s c then stay s c i else startTile s c i 8 0 l.toNat 4096

/-- `TST.dev` (R220): its lines are staged as `STG` stages them (R39, R43). -/
def execTstDev (tb ta : Target) (s : State) : Host.Outcome State Fault Refusal :=
  perform (formOf (.tstDev tb ta)) s fun s c i l _ _ =>
    limitVa s c i l.toNat 64 0 fun s =>
      if acquirePending s c then stay s c i else startTile s c i 9 0 l.toNat 4096

/-! ### `MXCMD` (R221 to R223, R391) -/

/-- Fields of a command word (Table 7). -/
def mxMop (w : Nat) : Nat := bits w 3 0
def mxAfmt (w : Nat) : Nat := bits w 7 4
def mxBfmt (w : Nat) : Nat := bits w 11 8
def mxA (w : Nat) : Nat := bits w 15 12
def mxB (w : Nat) : Nat := bits w 19 16
def mxC (w : Nat) : Nat := bits w 23 20
def mxTile (w : Nat) : Nat := bits w 26 24
def mxAcc (w : Nat) : Bool := testBit w 28
def mxScale (w : Nat) : Bool := testBit w 29
def mxSla (w : Nat) : Nat := bits w 49 32

/-- Elements of a row of a tile (R217). -/
def rowElems (f : Nat) : Nat := if f = 7 then 128 else if f = 1 ∨ f = 2 then 32 else 64
/-- Groups of 32 elements of a row. -/
def rowGroups (f : Nat) : Nat := rowElems f / 32

/-- A combination of R223. -/
def mxFormats (w : Nat) : Bool :=
  let a := mxAfmt w
  let b := mxBfmt w
  let byte := fun f => 3 ≤ f && f ≤ 6
  let scalable := fun f => 3 ≤ f && f ≤ 7
  ((byte a && byte b) || (a == b && (a == 7 || a == 1 || a == 2 || a == 8)))
    && (!mxScale w || (scalable a && scalable b))
    && (mxMop w != 1 || !mxAcc w)
    && (mxMop w != 2 || (mxAcc w && !mxScale w))

/-- The ranges at `SLA` that a command reads: leaf index and length. -/
def mxSlaReads (w : Nat) : List (Nat × Nat) :=
  if mxScale w then [(mxA w, 64 * rowGroups (mxAfmt w)), (mxB w, 64 * rowGroups (mxBfmt w))]
  else if mxMop w = 2 then [(mxC w, 256)] else []

/-- What makes a command word invalid (R391), as `DETAIL` of class 0x0240; `pw` gives the partition word of a leaf of the
quire. -/
def mxBad (pw : Nat → Nat) (w : Nat) : Option Nat :=
  if 3 ≤ mxMop w then some 0
  else if !mxFormats w then some 1
  else if pwAcc (pw (mxC w)) ≤ mxTile w then some 2
  else if mxSla w % 64 ≠ 0 ∨ (mxSlaReads w = [] ∧ mxSla w ≠ 0)
      ∨ (mxSlaReads w).any (fun r => (laRefused (pw r.1) (mxSla w) r.2 false).isSome) then some 3
  else if 2 ^ 50 ≤ w ∨ bits w 31 30 ≠ 0 ∨ testBit w 27 then some 4
  else none

/-- A record of a matrix cell (R383). -/
def mxReport (s : State) (c : CoreId) (w cls detail : Nat) : Report :=
  let n := (coreLeaf c).getD 0
  { strandReport s c cls sevTask with
    uclass := 4, uindex := quireOf n
    synd := streamSynd (leafIndex n) (w % 2 ^ 32) (w / 2 ^ 32) detail }

/-- A leaf of the quire has an `MXCMD` that waits for the queue. -/
def mxWaits (s : State) (n : Nat) : Bool :=
  (upTo 4).any fun t =>
    let c := strandOf n t
    match (s.strand c).block with
    | some b => (upTo b.slots.length).any fun i => ready s c i && match b.slots[i]? with
      | some x => x.status == .waiting && match x.instr with
        | some (.mxcmd _ _) => true
        | _ => false
      | none => false
    | none => false

/-- The leaf index that the queue takes next: round-robin from the one after the last, among those that wait and `i`. -/
def mxNext (s : State) (q i : Nat) : Nat :=
  let last := (s.quire q).lastMx
  (((upTo 16).map fun j => (last + 1 + j) % 16).find? fun k => k == i || mxWaits s (leafIn q k)).getD i

/-- Entries of a cell's queue in use: a command leaves its entry when it has finished reading, so that a recto has at most the 16
readers of Table 8 of R89 among them (DEDUCED, log 113). -/
def mxQueued (u : Quire) : Nat := u.queue.length

/-- `MXCMD` (R221, R391): it waits while the queue is full or takes another leaf's; the cell then checks the word, and accepts it. -/
def execMxcmd (tb ta : Target) (s : State) : Host.Outcome State Fault Refusal :=
  perform (formOf (.mxcmd tb ta)) s fun s c i l _ _ =>
    let n := (coreLeaf c).getD 0
    let q := quireOf n
    let w := l.toNat
    if Config.mxQueue ≤ mxQueued (s.quire q) ∨ mxNext s q (leafIndex n) ≠ leafIndex n then stay s c i
    else match mxBad (fun k => (s.leaf (leafIn q k)).partw) w with
      | some d => raiseFault s c (mxReport s c w 0x0240 d) d
      | none =>
        let (num, s) := s.fresh
        let x : MxCmd := {
          num, gath := ((s.leaf n).gath).getD 0, word := w, leaf := n, strand := coreIndex c
          ftz := testBit (s.strand c).fpmode.toNat 4 }
        let s := s.modQuire q fun u => { u with queue := u.queue ++ [x], lastMx := leafIndex n }
        complete (formOf (.mxcmd tb ta)) s c i tok tok

/-! ### `MXWAIT` and `ACCOP` (R227, R228) -/

/-- The commands that an instruction waits for: those accepted before it issued that write the tile. -/
def noteWriters (s : State) (c : CoreId) (i leaf tile : Nat) : State :=
  if (s.slot c i).phase = 0 then
    s.modSlot c i fun x => { x with phase := 1, latch := (tileWriters s leaf tile).flatMap (bytesOf 8 ·) }
  else s

/-- A command noted has not completed. -/
def notedPending (s : State) (c : CoreId) (i leaf : Nat) : Bool :=
  let bs := (s.slot c i).latch
  cmdsPending s leaf ((upTo (bs.length / 8)).map fun k => field bs (8 * k) 8)

/-- `MXWAIT` (R227). -/
def execMxwait (tb ta : Target) (s : State) : Host.Outcome State Fault Refusal :=
  perform (formOf (.mxwait tb ta)) s fun s c i l _ _ =>
    let leaf := leafIn (quireOf ((coreLeaf c).getD 0)) (bits l.toNat 7 4)
    let t := bits l.toNat 2 0
    limit s c i (decide (l.toNat < 256) && !testBit l.toNat 3 && decide (t < pwAcc (s.leaf leaf).partw)) 0 fun s =>
      let s := noteWriters s c i leaf t
      if notedPending s c i leaf then stay s c i
      else
        let v := (s.leaf leaf).accFlags.getD t 0
        let s := s.modLeaf leaf fun l => { l with accFlags := lset l.accFlags t 0 }
        complete (formOf (.mxwait tb ta)) s c i (some (v.setWidth 64)) tok

/-- The operand of `ACCOP` names a tile of its leaf (R376). -/
def limitTile (s : State) (c : CoreId) (i : Nat) (l : Word) (k : State → State) : State :=
  limit s c i (decide (l.toNat < 8) && decide (l.toNat < pwAcc (s.leaf ((coreLeaf c).getD 0)).partw)) 0 k

/-- `ACCOP.zero` (R228). -/
def execAccopZero (tb ta : Target) (s : State) : Host.Outcome State Fault Refusal :=
  perform (formOf (.accopZero tb ta)) s fun s c i l _ _ =>
    limitTile s c i l fun s =>
      let n := (coreLeaf c).getD 0
      let s := noteWriters s c i n l.toNat
      if notedPending s c i n || acquirePending s c then stay s c i
      else startTile s c i 10 0 (tileLine (s.leaf n) l.toNat 0) 0x4000

/-- `ACCOP.copy` (R228). -/
def execAccopCopy (tb ta : Target) (s : State) : Host.Outcome State Fault Refusal :=
  perform (formOf (.accopCopy tb ta)) s fun s c i l r _ =>
    limitTile s c i l fun s => limitLa s c i r.toNat 64 1 fun s =>
      let n := (coreLeaf c).getD 0
      let la := tileLine (s.leaf n) l.toNat 0
      limit s c i (tileDest (s.leaf n).partw r.toNat 0x4000 la 0x4000) 1 fun s =>
        let s := noteWriters s c i n l.toNat
        if notedPending s c i n || acquirePending s c then stay s c i else startTile s c i 11 la r.toNat 0x4000

/-! ### Commands (R113, R217, R224) -/

/-- An element of a row: its value, and for a finite one the multiple of the format's smallest step. -/
structure Elem where
  val : FVal
  num : Int

/-- The exponent of the smallest step of a format. -/
def stepExp (f : DataFmt) : Int := if fmtIsFloat f then 1 - (fmtBias f : Int) - fmtMant f else 0

/-- An element of a code, never flushed (R102). -/
def elemVal (f : DataFmt) (code : Nat) : Elem :=
  if fmtIsFloat f then
    let v := decodeF f code
    match v with
    | .fin n m e => ⟨v, (if n then -1 else 1) * (m * 2 ^ (e - stepExp f).toNat : Nat)⟩
    | _ => ⟨v, 0⟩
  else ⟨.fin false 0 0, readInt f code⟩

/-- Codes of a row of 64 bytes (R93, R217). -/
def rowCodes (f : Nat) (bs : List Byte) : List Nat :=
  if f = 7 then bs.flatMap fun b => [b.toNat % 16, b.toNat / 16]
  else if f = 1 ∨ f = 2 then (upTo 32).map fun k => field bs (2 * k) 2
  else bs.map (·.toNat)

/-- A row as groups of 32 elements. -/
def rowOf (f : Nat) (bs : List Byte) : List (List Elem) :=
  let es := (rowCodes f bs).map (elemVal (dataFmt f))
  (upTo (rowGroups f)).map fun g => (es.drop (32 * g)).take 32

/-- The rows of a tile. -/
def tileRows (f : Nat) (bs : List Byte) : List (List (List Elem)) :=
  (upTo 64).map fun r => rowOf f (slice bs (64 * r) 64)

/-- What stands in the products of a group: a NaN, a signalling one, 0 × ∞, an infinity of each sign. -/
structure Special where
  nan : Bool := false
  sig : Bool := false
  inv : Bool := false
  pos : Bool := false
  neg : Bool := false

/-- One product as to special values. -/
def specialStep (x : Special) (p : Elem × Elem) : Special :=
  match p.1.val, p.2.val with
  | .nan a, .nan b => { x with nan := true, sig := x.sig || a || b }
  | .nan a, _ | _, .nan a => { x with nan := true, sig := x.sig || a }
  | a, b =>
    match mulF a b with
    | none => { x with inv := true }
    | some (.inf n) => if n then { x with neg := true } else { x with pos := true }
    | some _ => x

/-- The F32 group of 32 products (R113 steps 1 to 3): `scale` is the exponent that the block scales add, or none when a
scale code is 0xFF. -/
def groupSum (env : FEnv) (base : Int) (scale : Option Int) (a b : List Elem) : Nat × Flags6 :=
  let ps := a.zip b
  let x := ps.foldl specialStep {}
  if x.nan || x.inv || (x.pos && x.neg) then
    (fmtNaN .f32, if x.sig || x.inv || (!x.nan && x.pos && x.neg) then flNV else 0)
  else match scale with
    | none => (fmtNaN .f32, 0)
    | some e =>
      if x.pos || x.neg then (fmtInf .f32 x.neg, 0)
      else
        let t := ps.foldl (fun (t : Int) p => t + p.1.num * p.2.num) 0
        roundZ env .f32 ⟨decide (t < 0), t.natAbs, base + e, false⟩ false 0

/-- The scale exponent of a group (R223, R224). -/
def groupScale (x : MxCmd) (m n g groups : Nat) : Option Int :=
  if !mxScale x.word then some 0
  else
    let a := field x.sclA (groups * m + g) 1
    let b := field x.sclB (groups * n + g) 1
    if a = 255 ∨ b = 255 then none else some ((a : Int) - 127 + ((b : Int) - 127))

/-- The element that the groups are added to: the row factor times C, C, or +0 (R224). -/
def startElem (env : FEnv) (x : MxCmd) (m old : Nat) : Nat × Flags6 :=
  if mxMop x.word = 2 then fopLane env .f32 .mul false 0 (field x.sclA (4 * m) 4) old 0
  else (if mxAcc x.word then old else 0, 0)

/-- One element of a float command (R224). -/
def floatElem (env : FEnv) (x : MxCmd) (m n old : Nat) (a b : List (List Elem)) : Nat × Flags6 :=
  let groups := rowGroups (mxAfmt x.word)
  let base := stepExp (dataFmt (mxAfmt x.word)) + stepExp (dataFmt (mxBfmt x.word))
  (upTo groups).foldl (fun c g =>
    let t := groupSum env base (groupScale x m n g groups) (a.getD g []) (b.getD g [])
    let r := fopLane env .f32 .add false 0 c.1 t.1 0
    (r.1, c.2 ||| t.2 ||| r.2)) (startElem env x m old)

/-- One element of an INT8 command (R224): exact, modulo 2^32, no flag. -/
def intElem (x : MxCmd) (old : Nat) (a b : List (List Elem)) : Nat × Flags6 :=
  let sum := (a.flatten.zip b.flatten).foldl (fun (t : Int) p => t + p.1.num * p.2.num) 0
  let c : Int := if mxAcc x.word then signExtend old 32 else 0
  ((c + sum) % 2 ^ 32 |>.toNat, 0)

/-- The environment of a matrix cell (R102). -/
def mxEnv (x : MxCmd) : FEnv := { rm := .rne, ftz := x.ftz, daz := false }

/-- One element of a command. -/
def mxElem (x : MxCmd) (m n old : Nat) (a b : List (List Elem)) : Nat × Flags6 :=
  if mxAfmt x.word = 8 then intElem x old a b else floatElem (mxEnv x) x m n old a b

/-- Line k of C, of 16 elements, from what it held, and the flags that its elements raise. -/
def mxLine (x : MxCmd) (k : Nat) (old : List Byte) : List Byte × Flags6 :=
  let a := rowOf (mxAfmt x.word) (slice x.rowsA (64 * (k / 4)) 64)
  let bs := tileRows (mxBfmt x.word) x.rowsB
  let cells := (upTo 16).map fun j =>
    let n := 16 * (k % 4) + j
    mxElem x (k / 4) n (field old (4 * j) 4) a (bs.getD n [])
  (cells.flatMap fun c => bytesOf 4 c.1, joinFlags (cells.map (·.2)) &&& 0x1D)

/-! ### The cell at work (R221, R225) -/

/-- The strand that a command is charged to (R395). -/
def mxCore (x : MxCmd) : CoreId := strandOf x.leaf x.strand

/-- A command is held: a turn of a leaf that it names issued before it was accepted (R219). -/
def mxHeld (s : State) (q : Nat) (x : MxCmd) : Bool :=
  [mxA x.word, mxB x.word].any fun k => match (s.leaf (leafIn q k)).turn with
    | some t => !t.before.contains x.num
    | none => false

/-- The gathering of a command runs. -/
def mxRuns (s : State) (x : MxCmd) : Bool := ((s.gath x.gath).map (gathRuns s)).getD false

/-- Which rows or factors of a command a line belongs to. -/
inductive MxPart where
  | rowsA | rowsB | sclA | sclB
deriving DecidableEq, Repr

/-- The lines that a command reads, in the order of Table 8: part, leaf index, LA. Row r of A, then row r of B, and the lines of scales
or factors after the first rows. -/
def mxLines (w : Nat) : List (MxPart × Nat × Nat) :=
  let rows := fun (r : Nat) => [(MxPart.rowsA, mxA w, 64 * r), (MxPart.rowsB, mxB w, 64 * r)]
  let scl := ((mxSlaReads w).zip [MxPart.sclA, MxPart.sclB]).flatMap fun r =>
    (linesOf (mxSla w) r.1.2).map fun p => (r.2, r.1.1, p.1)
  rows 0 ++ scl ++ (upTo 63).flatMap fun r => rows (r + 1)

/-- A line read into a command. -/
def takeLine (x : MxCmd) (p : MxPart) (bs : List Byte) : MxCmd :=
  let x := { x with read := x.read + 1 }
  match p with
  | .rowsA => { x with rowsA := x.rowsA ++ bs }
  | .rowsB => { x with rowsB := x.rowsB ++ bs }
  | .sclA => { x with sclA := x.sclA ++ bs }
  | .sclB => { x with sclB := x.sclB ++ bs }

/-- The record of a poisoned line that a cell reads (R403). -/
def mxPoisonReport (s : State) (x : MxCmd) (n la : Nat) : Report :=
  let r := laReport s (mxCore x) 4 accTile la 0x0314 1
  { r with folio := folioOf n, uindex := (4 * n + la / 64 % 4) % 65536 }

/-- The first command of a queue reads its next line (R84, R225): with its last line it stands behind those that write C, and is no
reader any longer (R83). A recto that is empty at the start is class 0x0241. -/
def mxRead (s : State) (q : Nat) (x : MxCmd) (xs : List MxCmd) : State :=
  let w := x.word
  let drop := s.modQuire q fun u => { u with queue := xs }
  match (if x.read = 0 then [mxA w, mxB w].find? fun k => !(s.leaf (leafIn q k)).rfull else none) with
  | some k => reportUnit drop x.leaf (mxReport s (mxCore x) w 0x0241 k)
  | none =>
    match (mxLines w)[x.read]? with
    | none => s
    | some (p, k, la) =>
      let n := leafIn q k
      if leafPoisoned (s.leaf n) la 64 then reportUnit drop x.leaf (mxPoisonReport s x n la)
      else
        let y := takeLine x p (leafRead s n la 64)
        if y.read = (mxLines w).length then s.modQuire q fun u => { u with queue := xs, started := u.started ++ [y] }
        else s.modQuire q fun u => { u with queue := y :: xs }

/-- MX_COMMAND_START (R221, R225, R391): the command at the head of the queue starts, or reads on, a line at a time. -/
def execMxCommandStart (quire : Nat) (s : State) : Host.Outcome State Fault Refusal :=
  if Config.quireCount ≤ quire then .fault .noSuchUnit
  else
    let u := s.quire quire
    match u.queue with
    | [] => idle s
    | x :: xs =>
      if x.read = 0 ∧ (2 ≤ u.started.length ∨ mxHeld s quire x) then idle s
      else if !mxRuns s x then idle s
      else .next (mxRead s quire x xs)

/-- The first command that writes C reads and writes its next line (R224, R225), journaled; a full journal first asks for the grant
(R41). With the last line the tile's flags are updated. -/
def mxWrite (s : State) (q : Nat) (x : MxCmd) (xs : List MxCmd) : State :=
  let n := leafIn q (mxC x.word)
  let la := tileLine (s.leaf n) (mxTile x.word) 0 + 64 * x.wrote
  let put := fun (s : State) (ys : List MxCmd) => s.modQuire q fun u => { u with started := ys ++ xs }
  if mxAcc x.word && leafPoisoned (s.leaf n) la 64 then reportUnit (put s []) x.leaf (mxPoisonReport s x n la)
  else
    let (bs, fl) := mxLine x x.wrote (leafRead s n la 64)
    let fl := x.flags ||| fl
    match leafWrite s n la bs with
    | none => askGrant s x.gath
    | some s =>
      if x.wrote < 255 then put s [{ x with wrote := x.wrote + 1, flags := fl }]
      else (put s []).modLeaf n fun l => { l with accFlags := lmod l.accFlags (mxTile x.word) (· ||| fl) }

/-- MX_COMMAND_COMPLETE (R224, R225): the command that writes C writes its next line, and with the last is complete. -/
def execMxCommandComplete (quire : Nat) (s : State) : Host.Outcome State Fault Refusal :=
  if Config.quireCount ≤ quire then .fault .noSuchUnit
  else match (s.quire quire).started with
    | [] => idle s
    | x :: xs => if !mxRuns s x then idle s else .next (mxWrite s quire x xs)

end Sys2Proof.Machine
end

