-- ==== Sys2Proof/Machine/Memory.lean ====
section
/-!
DEFINITION. Loads, stores, atomics and compare-and-swap of leaf SRAM and device memory (R176 to R181).
-/

namespace Sys2Proof.Machine

/-- `LDL` (R177). -/
def execLdl (scope : Scope) (acq : Bool) (width : AccWidth) (tb ta : Target) (s : State) :
    Host.Outcome State Fault Refusal :=
  perform (formOf (.ldl scope acq width tb ta)) s fun s c i l _ _ =>
    leafAccess s c i l.toNat (accSize width) accLoad false false fun s =>
      let d := natOfBytes (padRead s c l.toNat (accSize width))
      deliver2 s c i ta tb (some (extendTo (accSize width) (accSigned width) d)) tok

/-- `STL` (R177): irrevocable with REL at DEVICE or SYSTEM scope (R41). -/
def execStl (scope : Scope) (rel : Bool) (width : AccWidth) (tb ta : Target) (s : State) :
    Host.Outcome State Fault Refusal :=
  perform (formOf (.stl scope rel width tb ta)) s fun s c i l r _ =>
    leafAccess s c i l.toNat (accSize width) accStore rel (rel && scopeWide scope) fun s =>
      padStore s c i l.toNat (bytesOf (accSize width) r.toNat) fun s =>
        complete (formOf (.stl scope rel width tb ta)) s c i tok tok

/-- `LDG` (R177, R178). -/
def execLdg (scope : Scope) (acq : Bool) (width : AccWidth) (tb ta : Target) (s : State) :
    Host.Outcome State Fault Refusal :=
  perform (formOf (.ldg scope acq width tb ta)) s fun s c i l _ _ =>
    request s c i l.toNat (accSize width) false false acq false scope (.load (accSigned width))

/-- `STG` (R177, R179). -/
def execStg (scope : Scope) (rel : Bool) (width : AccWidth) (tb ta : Target) (s : State) :
    Host.Outcome State Fault Refusal :=
  perform (formOf (.stg scope rel width tb ta)) s fun s c i l r _ =>
    request s c i l.toNat (accSize width) true (rel && scopeWide scope) false rel scope
      (.store (bytesOf (accSize width) r.toNat))

/-- `ATOML` (R180): one indivisible access of the line, journaled. -/
def atomlRow (f : Form) (op : Nat) (scope : Scope) (ord : Order) (s : State) : Host.Outcome State Fault Refusal :=
  perform f s fun s c i l r _ =>
    let n := atomicSize op
    leafAccess s c i l.toNat n accAtomic (ordRel ord) (ordRel ord && scopeWide scope) fun s =>
      let old := wordOfNat (natOfBytes (padRead s c l.toNat n))
      padStore s c i l.toNat (bytesOf n (atomicOp op old r).toNat) fun s => complete f s c i (some old) tok

/-- `ATOMG` (R180): always an irrevocable act. -/
def atomgRow (f : Form) (op : Nat) (scope : Scope) (ord : Order) (s : State) : Host.Outcome State Fault Refusal :=
  perform f s fun s c i l r _ =>
    request s c i l.toNat (atomicSize op) true true (ordAcq ord) (ordRel ord) scope (.atomic op r)

/-- `ATOML_ADD` (R180, R132). -/
def execAtomlAdd (scope : Scope) (ord : Order) (tb ta : Target) (s : State) : Host.Outcome State Fault Refusal :=
  atomlRow (formOf (.atomlAdd scope ord tb ta)) 0 scope ord s
/-- `ATOML_AND` (R180, R132). -/
def execAtomlAnd (scope : Scope) (ord : Order) (tb ta : Target) (s : State) : Host.Outcome State Fault Refusal :=
  atomlRow (formOf (.atomlAnd scope ord tb ta)) 1 scope ord s
/-- `ATOML_OR` (R180, R132). -/
def execAtomlOr (scope : Scope) (ord : Order) (tb ta : Target) (s : State) : Host.Outcome State Fault Refusal :=
  atomlRow (formOf (.atomlOr scope ord tb ta)) 2 scope ord s
/-- `ATOML_XOR` (R180, R132). -/
def execAtomlXor (scope : Scope) (ord : Order) (tb ta : Target) (s : State) : Host.Outcome State Fault Refusal :=
  atomlRow (formOf (.atomlXor scope ord tb ta)) 3 scope ord s
/-- `ATOML_XCHG` (R180, R132). -/
def execAtomlXchg (scope : Scope) (ord : Order) (tb ta : Target) (s : State) : Host.Outcome State Fault Refusal :=
  atomlRow (formOf (.atomlXchg scope ord tb ta)) 4 scope ord s
/-- `ATOML_SMIN` (R180, R132). -/
def execAtomlSmin (scope : Scope) (ord : Order) (tb ta : Target) (s : State) : Host.Outcome State Fault Refusal :=
  atomlRow (formOf (.atomlSmin scope ord tb ta)) 5 scope ord s
/-- `ATOML_SMAX` (R180, R132). -/
def execAtomlSmax (scope : Scope) (ord : Order) (tb ta : Target) (s : State) : Host.Outcome State Fault Refusal :=
  atomlRow (formOf (.atomlSmax scope ord tb ta)) 6 scope ord s
/-- `ATOML_FADD` (R180, R132). -/
def execAtomlFadd (scope : Scope) (ord : Order) (tb ta : Target) (s : State) : Host.Outcome State Fault Refusal :=
  atomlRow (formOf (.atomlFadd scope ord tb ta)) 7 scope ord s
/-- `ATOMG_ADD` (R180, R132). -/
def execAtomgAdd (scope : Scope) (ord : Order) (tb ta : Target) (s : State) : Host.Outcome State Fault Refusal :=
  atomgRow (formOf (.atomgAdd scope ord tb ta)) 0 scope ord s
/-- `ATOMG_AND` (R180, R132). -/
def execAtomgAnd (scope : Scope) (ord : Order) (tb ta : Target) (s : State) : Host.Outcome State Fault Refusal :=
  atomgRow (formOf (.atomgAnd scope ord tb ta)) 1 scope ord s
/-- `ATOMG_OR` (R180, R132). -/
def execAtomgOr (scope : Scope) (ord : Order) (tb ta : Target) (s : State) : Host.Outcome State Fault Refusal :=
  atomgRow (formOf (.atomgOr scope ord tb ta)) 2 scope ord s
/-- `ATOMG_XOR` (R180, R132). -/
def execAtomgXor (scope : Scope) (ord : Order) (tb ta : Target) (s : State) : Host.Outcome State Fault Refusal :=
  atomgRow (formOf (.atomgXor scope ord tb ta)) 3 scope ord s
/-- `ATOMG_XCHG` (R180, R132). -/
def execAtomgXchg (scope : Scope) (ord : Order) (tb ta : Target) (s : State) : Host.Outcome State Fault Refusal :=
  atomgRow (formOf (.atomgXchg scope ord tb ta)) 4 scope ord s
/-- `ATOMG_SMIN` (R180, R132). -/
def execAtomgSmin (scope : Scope) (ord : Order) (tb ta : Target) (s : State) : Host.Outcome State Fault Refusal :=
  atomgRow (formOf (.atomgSmin scope ord tb ta)) 5 scope ord s
/-- `ATOMG_SMAX` (R180, R132). -/
def execAtomgSmax (scope : Scope) (ord : Order) (tb ta : Target) (s : State) : Host.Outcome State Fault Refusal :=
  atomgRow (formOf (.atomgSmax scope ord tb ta)) 6 scope ord s
/-- `ATOMG_FADD` (R180, R132). -/
def execAtomgFadd (scope : Scope) (ord : Order) (tb ta : Target) (s : State) : Host.Outcome State Fault Refusal :=
  atomgRow (formOf (.atomgFadd scope ord tb ta)) 7 scope ord s

/-- `CASL` (R181): a failed comparison writes nothing. -/
def execCasl (scope : Scope) (ord : Order) (width : CasWidth) (tb ta : Target) (s : State) :
    Host.Outcome State Fault Refusal :=
  perform (formOf (.casl scope ord width tb ta)) s fun s c i l r t =>
    let n := casSize width
    leafAccess s c i l.toNat n accAtomic (ordRel ord) (ordRel ord && scopeWide scope) fun s =>
      let old := natOfBytes (padRead s c l.toNat n)
      let v := some (extendTo n (casSigned width) old)
      if old = r.toNat % 2 ^ (8 * n) then
        padStore s c i l.toNat (bytesOf n t.toNat) fun s => complete (formOf (.casl scope ord width tb ta)) s c i v tok
      else complete (formOf (.casl scope ord width tb ta)) s c i v tok

/-- `CASG` (R181): always an irrevocable act. -/
def execCasg (scope : Scope) (ord : Order) (width : CasWidth) (tb ta : Target) (s : State) :
    Host.Outcome State Fault Refusal :=
  perform (formOf (.casg scope ord width tb ta)) s fun s c i l r t =>
    request s c i l.toNat (casSize width) true true (ordAcq ord) (ordRel ord) scope (.cas r t (casSigned width))

end Sys2Proof.Machine
end

