-- ==== Sys2Proof/Machine/Privileged.lean ====
section
/-!
DEFINITION. Row 0x70: invalidation and page entries (R166, R167), apertures (R168), `CTXSV` (R169), configuration images (R170,
R392, R440 to R442), `ERET` and `WFI` (R171), `ELOGRD` (R172), and the handler mode of a control core (R364, R379).
-/

namespace Sys2Proof.Machine

/-- On a leaf strand an instruction of the row is an irrevocable act (R165). -/
def granted (s : State) (c : CoreId) (i : Nat) (k : State → State) : State :=
  if irrevocable s c then k s else stayGrant s c i

/-! ### `TLBINV` (R166) -/

/-- What an invalidation names: a page of a context, a context, or everything. -/
inductive Inval where
  | page (k va : Nat)
  | ctx (k : Nat)
  | all

/-- A cached translation is named. -/
def Inval.entry (x : Inval) (t : TlbEntry) : Bool :=
  match x with
  | .page k va => t.ctx == k && va / 2 ^ levelShift t.level == t.base / 2 ^ levelShift t.level
  | .ctx k => t.ctx == k
  | .all => true

/-- A walk-cache entry is named. -/
def Inval.walk (x : Inval) (w : WalkEntry) : Bool :=
  match x with
  | .page k va => w.ctx == k && w.vpre == va / 2 ^ levelShift w.level
  | .ctx k => w.ctx == k
  | .all => true

/-- The invalidation names translations of a context. -/
def Inval.of (x : Inval) (k : Nat) : Bool :=
  match x with
  | .page j _ => j == k
  | .ctx j => j == k
  | .all => true

/-- An access has been translated by an entry of the named ones and has not completed; of one whose entry has left the TLB meanwhile, the
context decides. -/
def Inval.uses (x : Inval) (s : State) (r : Request) : Bool :=
  let on := match r.stage with
    | .grant | .port | .remote _ => true
    | _ => false
  on && match tlbFind s (placeOf r.core r.ctx r.va) r.ctx r.va with
    | some t => x.entry t
    | none => x.of r.ctx

/-- A walk under way of a named context starts again: it may have read an entry that is removed (R166, R276). -/
def restartReq (s : State) (x : Inval) (r : Nat × Request) : Nat × Request :=
  if r.2.stage == .walk && x.of r.2.ctx then (r.1, { r.2 with level := 4, table := (s.attrs r.2.ctx).root.toNat }) else r
def restartMiss (s : State) (x : Inval) (m : Nat × Miss) : Nat × Miss :=
  if x.of m.2.ctx then
    (m.1, { m.2 with level := 4, table := (s.attrs m.2.ctx).root.toNat, leaf := none, fault := none })
  else m

/-- The named entries are removed, and walks start again. -/
def uncache (s : State) (x : Inval) : State :=
  { s with
    tlb := s.tlb.filter fun t => !x.entry t
    walks := s.walks.filter fun w => !x.walk w
    reqs := s.reqs.map (restartReq s x)
    misses := s.misses.map (restartMiss s x) }

/-- The accesses that used the entries removed are noted in the slot. -/
def invalidate (s : State) (c : CoreId) (i : Nat) (x : Inval) : State :=
  let ids := (s.reqs.filter fun r => x.uses s r.2).map (·.1)
  (uncache s x).modSlot c i fun y => { y with phase := 1, latch := ids.flatMap (bytesOf 8 ·) }

/-- An access noted has not completed. -/
def notedReq (s : State) (c : CoreId) (i : Nat) : Bool :=
  let bs := (s.slot c i).latch
  (upTo (bs.length / 8)).any fun k => match tget s.reqs (field bs (8 * k) 8) with
    | some r => match r.stage with
      | .answered _ => false
      | _ => true
    | none => false

/-- `TLBINV`: the token follows when the entries are gone and the accesses that used them have completed. -/
def tlbinv (f : Form) (s : State) (c : CoreId) (i : Nat) (x : Inval) : State :=
  granted s c i fun s =>
    let s := if (s.slot c i).phase = 0 then invalidate s c i x else s
    if notedReq s c i then stay s c i else complete f s c i tok tok

/-- `TLBINV.page` (R166). -/
def execTlbinvPage (tb ta : Target) (s : State) : Host.Outcome State Fault Refusal :=
  perform (formOf (.tlbinvPage tb ta)) s fun s c i l r _ =>
    limit s c i (decide (r.toNat < 16)) 1 fun s => tlbinv (formOf (.tlbinvPage tb ta)) s c i (.page r.toNat l.toNat)

/-- `TLBINV.ctx` (R166). -/
def execTlbinvCtx (tb ta : Target) (s : State) : Host.Outcome State Fault Refusal :=
  perform (formOf (.tlbinvCtx tb ta)) s fun s c i _ r _ =>
    limit s c i (decide (r.toNat < 16)) 1 fun s => tlbinv (formOf (.tlbinvCtx tb ta)) s c i (.ctx r.toNat)

/-- `TLBINV.all` (R166). -/
def execTlbinvAll (tb ta : Target) (s : State) : Host.Outcome State Fault Refusal :=
  perform (formOf (.tlbinvAll tb ta)) s fun s c i _ _ _ => tlbinv (formOf (.tlbinvAll tb ta)) s c i .all

/-! ### `PGSET` (R167) -/

/-- A refusal of a store of a strand to a local PA (R278, R394). -/
def paRefused (s : State) (c : CoreId) (pa cls detail : Nat) : State :=
  let r := strandReport s c cls sevTask
  let r := if coreIsControl c then r else portSource pa r
  raiseFault s c (memReport s r cls sevTask accStore 0 (irrevocable s c) false .pa pa 0 detail) detail

/-- `PGSET` (R167): a store of the whole entry at its local PA, at DEVICE scope with release order. -/
def execPgset (tb ta : Target) (s : State) : Host.Outcome State Fault Refusal :=
  perform (formOf (.pgset tb ta)) s fun s c i l r _ =>
    let pa := l.toNat
    if pa % 8 ≠ 0 then blockFault s c (some i) 0x0115 0
    else if isAperture pa then paRefused s c pa 0x0307 0xFF
    else if !isBacked pa then paRefused s c pa 0x0306 (bits pa 38 36)
    else if acquirePending s c || releasePending s c true then stay s c i
    else granted s c i fun s => complete (formOf (.pgset tb ta)) (hbmWrite s pa (bytesOf 8 r.toNat)) c i tok tok

/-! ### `APSET` (R168) -/

/-- The transform parameters of an aperture (Table 5 of R280, R376); what is reserved of them is refused at the access (R394). -/
def xformOk (x : Nat) : Bool :=
  let e := bits x 5 4
  match x % 16 with
  | 1 => bits x 63 48 == 0 && bits x 7 4 == 0 && bits x 47 8 % 128 == 0
  | 2 => bits x 7 6 == 0 && bits x 23 8 != 0
  | 3 => bits x 63 60 == 0 && bits x 7 6 == 0 && bits x 59 44 != 0 && bits x 43 28 != 0 && (e == 3 || bits x 27 8 % 2 ^ e == 0)
  | _ => true

/-- The record of an aperture (Table 11 of R168, R278, R376). -/
def apertureOk (bs : List Byte) : Bool :=
  field bs 0 8 % 65536 == 0 && isAperture (field bs 0 8) && decide (field bs 0 8 < 2 ^ 40) && field bs 8 8 % 65536 == 0
    && xformOk (field bs 24 8)

/-- A record of an instruction whose place no rule aligns (R168, R170): each line that it lies in is one access (R77), and what has been
read stands in the slot. -/
def readAnywhere (s : State) (c : CoreId) (i la n : Nat) (k : State → List Byte → State) : State :=
  let got := (s.slot c i).latch
  if got.length = n then k s got
  else padAccess s c i la n accLoad false false fun s =>
    let a := la + got.length
    let bs := got ++ padRead s c a (min (n - got.length) (64 - a % 64))
    let s := s.modSlot c i fun x => { x with latch := bs }
    if bs.length = n then k s bs else stay s c i

/-- `APSET` (R168). -/
def execApset (tb ta : Target) (s : State) : Host.Outcome State Fault Refusal :=
  perform (formOf (.apset tb ta)) s fun s c i l r _ =>
    limit s c i (decide (l.toNat ≤ 63)) 0 fun s =>
      readAnywhere s c i r.toNat 32 fun s bs =>
        limit s c i (apertureOk bs) 3 fun s => granted s c i fun s =>
          let a : Aperture := { wbase := field bs 0 8, wsize := field bs 8 8, back := field bs 16 8, xform := field bs 24 8 }
          complete (formOf (.apset tb ta)) { s with apertures := lset s.apertures l.toNat a } c i tok tok

/-! ### `CTXSV` (R169) -/

/-- The gathering that holds a quire. -/
def holderOf (s : State) (q : Nat) : Option Nat := (s.gaths.find? fun g => g.2.quires.contains q).map (·.1)

/-- `CTXSV` (R169): it asks for a save as a pre-emption does, and its token follows the endpaper. -/
def execCtxsv (tb ta : Target) (s : State) : Host.Outcome State Fault Refusal :=
  perform (formOf (.ctxsv tb ta)) s fun s c i l _ _ =>
    limit s c i (decide (l.toNat < 4096)) 0 fun s => granted s c i fun s =>
      match holderOf s l.toNat with
      | none => complete (formOf (.ctxsv tb ta)) s c i tok tok
      | some g => owe (askVoid { s with savers := s.savers ++ [(g, claimOf s c i)] } g true) c i

/-! ### Configuration images (R170, R392, R435, R440 to R442) -/

/-- `IMGW` (R170): its mover takes the request once the record is read and checked. -/
def execImgw (tb ta : Target) (s : State) : Host.Outcome State Fault Refusal :=
  perform (formOf (.imgw tb ta)) s fun s c i l _ _ =>
    readAnywhere s c i l.toNat 32 fun s bs =>
      limit s c i (imageOk bs) 3 fun s => granted s c i fun s =>
        let n := field bs 8 4
        acceptCopy s c i { newCopy 12 (field bs 0 8) 0 n 0 0 0 (linesFrom (field bs 0 8) n) [] with descv := bs }

/-- `IMGCMT` (R170, R441): it performs, which closes the batch of the `IMGW` that performed before it; its token follows the commit. -/
def execImgcmt (tb ta : Target) (s : State) : Host.Outcome State Fault Refusal :=
  perform (formOf (.imgcmt tb ta)) s fun s c i _ _ _ =>
    granted s c i fun s =>
      let (n, s) := s.fresh
      let b := { openBatch s with claim := claimOf s c i, upto := n }
      owe { s with batches := s.batches ++ [b], pending := [], shadow := [], badBatch := false } c i

/-- A gathering holds a pending quire with a pending slot (R170). -/
def slotHeld (s : State) (key : Nat) : Bool :=
  s.gaths.any fun g => g.2.nodes.any fun p => p.slot == key % 64 && p.quires.contains (key / 64)

/-- The `IMGW` of a batch have all been completed. -/
def batchLanded (s : State) (b : Batch) : Bool := !(s.copies.any fun x => x.2.kind == 12 && decide (x.1 < b.upto))

/-- Every slot of a batch switches to its shadow; also that of a quire that does not acknowledge, whose folio is reset, so that no gathering
ever binds to a mixture (R170, R392). -/
def switchSlots (s : State) (b : Batch) : State :=
  (b.slots.map (·.1)).foldl (fun t k => { t with config := tset t.config k (shadowIn s b k) }) s

/-- The first quire of a batch whose shadow cannot be read. -/
def firstUnreadable (b : Batch) (bad : List Nat) : Option Nat := (b.slots.map fun p => p.1 / 64).find? fun q => bad.contains q

/-- A batch whose prepare fails (R392, R442): class 0x0250, and 0x0622 when it is the second of the same image, which closes the matter. -/
def failPrepare (s : State) (b : Batch) (q ctx : Nat) : State :=
  let s := writeRecord s (imageReport 0x0250 sevStalled q none)
  if s.failed.any fun x => sameImages x b.images then
    { writeRecord s (imageReport 0x0622 sevRefused q (some ctx)) with failed := none }
  else { s with failed := some b.images }

/-! ### `ERET`, `WFI` (R171) and `ELOGRD` (R172) -/

/-- A control core in handler mode. -/
def inHandler (s : State) : CoreId → Bool
  | .control k => (s.core k.val).handler
  | .strand _ _ => false

/-- `ERET` (R171, R379): outside handler mode it is class 0x010A. -/
def execEret (s : State) : Host.Outcome State Fault Refusal :=
  perform (formOf .eret) s fun s c i _ _ _ =>
    if inHandler s c then transfer s c i (some .eret) else blockFault s c (some i) 0x010A 0

/-- `WFI` (R171): on a control core until an interrupt is pending, a trap, an MSI or a new error record; on a strand of CTX0 until the
Spine signals. -/
def execWfi (tb ta : Target) (s : State) : Host.Outcome State Fault Refusal :=
  perform (formOf (.wfi tb ta)) s fun s c i _ _ _ =>
    match c with
    | .control k =>
      if (s.core k.val).irq || (s.core k.val).news then
        complete (formOf (.wfi tb ta)) (s.modCore k.val fun x => { x with news := false }) c i tok tok
      else stay s c i
    | .strand _ _ => if Config.spineSignal s.tick then complete (formOf (.wfi tb ta)) s c i tok tok else stay s c i

/-- The destination of `ELOGRD` is refused (R172, R394): on a leaf strand it lies in KEEP or DISCARD. -/
def logRefused (s : State) (c : CoreId) (la : Nat) : Option Nat :=
  match padRefused s c la 1024, c with
  | some d, _ => some d
  | none, .strand n _ => if la < keepBase (s.leaf n).partw then some 4 else none
  | none, .control _ => none

/-- Records leave the device log for good (R172); one that trapped a core now in handler mode closes with that mode's `ERET` (R380,
log 105). -/
def takeLog (s : State) (out : List (Nat × List Byte)) : State :=
  { s with
    log := s.log.drop out.length
    opens := s.opens.map fun (o : OpenRec) =>
      if (out.any fun x => x.1 == o.num) && (s.core o.core).handler then { o with moved := true } else o }

/-- The records taken go to the scratchpad, a line each (R77), and then the token carries their number. -/
def putLog (f : Form) (s : State) (c : CoreId) (i la : Nat) : State :=
  let x := s.slot c i
  if x.latch.length ≤ 64 * x.arg then complete f s c i (some (wordOfNat (x.latch.length / 64))) tok
  else padStore s c i (la + 64 * x.arg) (slice x.latch (64 * x.arg) 64) fun s =>
    (stay s c i).modSlot c i fun x => { x with arg := x.arg + 1 }

/-- `ELOGRD` (R172): up to 16 of the oldest records leave the device log. -/
def execElogrd (tb ta : Target) (s : State) : Host.Outcome State Fault Refusal :=
  perform (formOf (.elogrd tb ta)) s fun s c i l _ _ =>
    limitLa s c i l.toNat 64 0 fun s =>
      match logRefused s c l.toNat with
      | some d => raiseFault s c (laReport s c 0 accStore l.toNat 0x0309 d) d
      | none =>
        if (s.slot c i).phase = 1 then putLog (formOf (.elogrd tb ta)) s c i l.toNat
        else if acquirePending s c || copyPending s c l.toNat 1024 then stay s c i
        else granted s c i fun s =>
          let out := s.log.take 16
          let s := (takeLog s out).modSlot c i fun x => { x with phase := 1, latch := out.flatMap (·.2) }
          putLog (formOf (.elogrd tb ta)) s c i l.toNat

/-! ### Handler mode and halts (R364, R379, R443) -/

/-- HANDLER_ENTRY (R379): a fault of the core's own block or a committed `TRAP` enters at its cause; an interrupt enters at
a block boundary, outside handler mode. -/
def execHandlerEntry (core : Fin 16) (s : State) : Host.Outcome State Fault Refusal :=
  let k := s.core core.val
  if !k.started || k.halted || k.handler then idle s
  else match k.cause with
    | some (resume, cls, detail) => .next (takeException s core.val resume cls detail)
    | none =>
      if k.irq && k.strand.block.isNone && !k.strand.faulted then .next (takeException s core.val k.strand.pc 0 0) else idle s

/-- CONTROL_CORE_HALT (R364, R443): an error within the core that it cannot correct. -/
def execControlCoreHalt (core : Fin 16) (s : State) : Host.Outcome State Fault Refusal :=
  if (s.core core.val).halted then idle s else .next (haltCore (abandon s core) core.val)

end Sys2Proof.Machine
end

