-- ==== Sys2Proof/Machine/Spine.lean ====
section
/-!
DEFINITION. The Spine's dispatch (R22, R63, R64, R47, R48, R51), bind and restore (R65, R91, R355, R387, R388, R408), and the
start of COPY nodes (R66, R67).
-/

namespace Sys2Proof.Machine

/-! ### What an entry needs (R28, R48, R170, R351, R437) -/

/-- The quires of an entry. -/
def PoolEntry.quires (e : PoolEntry) : List Nat := e.places.flatMap NodePlace.quires

/-- Two lists of quires share one. -/
def meets (a b : List Nat) : Bool := a.any fun q => b.contains q

/-- Every quire lies in an admitted folio and is not mapped out. -/
def quiresUsable (s : State) (qs : List Nat) : Bool :=
  qs.all fun q => (s.folios.getD (folioOfQuire q) {}).admitted && !(s.quire q).mapped

/-- A watch that no store has met. -/
def watching (b : StrandBase) : Bool := (b.watch.map fun w => w.device && !w.woken).getD false

/-- A saved gathering sleeps in a device-memory `WAITA` (R48): a strand watches a line to which no store has been published,
and no strand of it can run. -/
def paperAsleep (p : Endpaper) : Bool :=
  let bs := p.leaves.flatMap fun l => l.2.base.strands
  bs.any watching && bs.all fun b => b.wait == .finished || (b.watch.map fun w => !w.woken).getD false

/-- A saved gathering may be dispatched: it does not sleep, and no open record holds it (R48, R380, R396). -/
def paperFree (s : State) (g : Nat) : Bool :=
  match tget s.papers g with
  | some p => !paperAsleep p && !isHeld s p.gath.frozen && !(s.opens.any fun o => o.gath == some g)
  | none => false

/-- An entry may be chosen: its context is loaded and not held, and its quires exist. -/
def eligible (s : State) (e : PoolEntry) : Bool :=
  let c := s.context e.ctx
  !e.bound && c.attrs.isSome && !c.ended && (s.attrs e.ctx).weight != 0 && quiresUsable s e.quires && match e.kind with
    | .saved g => paperFree s g
    | _ => true

/-- A new gathering would read a configuration slot that has a pending shadow (R170). -/
def entryPending (s : State) (e : PoolEntry) : Bool :=
  match e.kind with
  | .saved _ => false
  | _ => e.places.any fun p => p.quires.any fun q => (slotsPending s).contains (slotKey q p.slot)

/-- Gatherings that hold a quire of an entry. -/
def holders (s : State) (qs : List Nat) : List (Nat × Gathering) := s.gaths.filter fun g => meets g.2.quires qs

/-- A quire of an entry is promised to an entry already dispatched, which no entry pre-empts while its bind waits (log 131). -/
def promised (s : State) (qs : List Nat) : Bool := s.pool.any fun e => e.2.bound && meets e.2.quires qs

/-- `NotReserved` of R63 (R64); a reservation stands under the class at which it was made, though its entry ages (log 131). -/
def notReserved (s : State) (id : Nat) (qs : List Nat) (c : Nat) : Bool :=
  s.reserve.all fun r => decide (c < r.1) || r.2.1 == id || (tget s.pool r.2.1).isNone || !meets r.2.2 qs

/-- The reservation of a class that stands. -/
def hasReserve (s : State) (c : Nat) : Bool :=
  ((tget s.reserve c).map fun r => (tget s.pool r.1).isSome).getD false

/-! ### Pre-emption and swap (R47, R63, R408) -/

/-- A strand of a gathering has waited longer than its context's threshold. -/
def overdue (s : State) (x : Gathering) : Bool :=
  x.leaves.any fun n => (upTo (s.leaf n).strands.length).any fun t =>
    let c := strandOf n t
    (s.strand c).overdue.any fun w => (waitsOf s c).contains w

/-- An entry of class c pre-empts a gathering: the gathering's class is lower (R63). -/
def yields (s : State) (c : Nat) (x : Gathering) : Bool := decide (c < (s.attrs x.ctx).cls.val)

/-- A gathering is swapped out for an entry of class c (R47): a strand of it is overdue, and the entry is of the same or a higher
class. -/
def swapped (s : State) (c : Nat) (x : Gathering) : Bool := decide (c ≤ (s.attrs x.ctx).cls.val) && overdue s x

/-- A save of a gathering has been asked for, or is tried again when an area frees (R408); one that retires leaves its quires by itself. -/
def saveAsked (x : Gathering) : Bool := x.saving || x.saveDue || x.queue.contains (.void true) || x.deferred || x.retiring

/-- Saves asked of gatherings. -/
def askSaves (s : State) (gs : List (Nat × Gathering)) : State := gs.foldl (fun s g => askVoid s g.1 true) s

/-- A reservation is made by a pre-emption: it replaces those of lower classes on its quires (R64). -/
def preemptReserve (s : State) (id : Nat) (qs : List Nat) (c : Nat) : State :=
  { s with reserve := tset (s.reserve.filter fun r => decide (r.1 ≤ c) || !meets r.2.2 qs) c (id, qs) }

/-! ### The dispatch procedure (R63) -/

/-- An entry is dispatched: its context's virtual time advances, and its reservations clear (R64). -/
def dispatch (s : State) (id : Nat) (e : PoolEntry) (n : Nat) : State :=
  let s := s.modContext e.ctx fun c => { c with vt := c.vt + n * 4096 * vtUnit / (s.attrs e.ctx).weight.toNat }
  { s with
    pool := tset s.pool id { e with bound := true }
    reserve := s.reserve.filter fun r => r.2.1 != id }

/-- The body of the procedure for one entry: the state, and whether the decision is taken. Gatherings that R47 swaps out for the
entry are asked to save, whoever else holds its quires. With no gathering on the quires of an entry that another has reserved,
nobody is pre-empted (log 131). -/
def tryEntry (s : State) (c id : Nat) (e : PoolEntry) : State × Bool :=
  if e.kind = .copy then (dispatch s id e 1, true)
  else
    let qs := e.quires
    let hs := holders s qs
    let held := !hs.isEmpty || promised s qs
    if !held && notReserved s id qs c && !entryPending s e then (dispatch s id e qs.length, true)
    else
      let new := hs.filter fun h => !saveAsked h.2
      if !hs.isEmpty && !promised s qs && hs.all (fun h => yields s c h.2) then
        (preemptReserve (askSaves s new) id qs c, true)
      else
        let s := askSaves s (new.filter fun h => swapped s c h.2)
        (if hasReserve s c then s else { s with reserve := tset s.reserve c (id, qs) }, false)

/-- Candidates visited in order until the decision is taken. -/
def scan (s : State) : List (Nat × Nat × PoolEntry) → State
  | [] => s
  | (c, id, e) :: es =>
    let (s, stop) := tryEntry s c id e
    if stop then s else scan s es

/-- Age of an entry's tag in its context: the oldest is 0. -/
def tagAge (s : State) (e : PoolEntry) : Nat := ((s.context e.ctx).live.takeWhile (· != e.inst)).length

/-- Visiting order of the entries of one context (R63). -/
def visitBefore (s : State) (a b : Nat × PoolEntry) : Bool :=
  let x := tagAge s a.2
  let y := tagAge s b.2
  decide (x < y) || (x == y && (decide (a.2.order < b.2.order) || (a.2.order == b.2.order && decide (a.2.node < b.2.node))))

/-- Entries of one class, by contexts in increasing virtual time. -/
def classCandidates (s : State) (c : Nat) : List (Nat × Nat × PoolEntry) :=
  let es := s.pool.filter fun e => eligible s e.2 && effClass s e.2 == c
  let ks := (upTo 16).filter fun k => es.any fun e => e.2.ctx == k
  let ks := sortBy (fun a b => let x := (s.context a).vt
                               let y := (s.context b).vt
                               decide (x < y) || (x == y && decide (a ≤ b))) ks
  ks.flatMap fun k => (sortBy (visitBefore s) (es.filter fun e => e.2.ctx == k)).map fun e => (c, e.1, e.2)

/-- SPINE_DISPATCH (R63, R64): the work of the instances, then at most one decision. -/
def execSpineDispatch (s : State) : Host.Outcome State Fault Refusal :=
  let s := workAll s
  .next (scan s ((upTo 4).flatMap (classCandidates s)))

/-- ENTRY_AGING (R51, R63, R64): an entry that has waited 4 ms more is promoted one class. -/
def execEntryAging (e : Nat) (s : State) : Host.Outcome State Fault Refusal :=
  match tget s.pool e with
  | none => .fault .noSuchUnit
  | some x =>
    let c := effClass s x
    if x.bound || c = 0 then idle s
    else
      let s := if hasClass s x.ctx (c - 1) then s else raiseVt s x.ctx (c - 1)
      .next { s with pool := tset s.pool e { x with aged := x.aged + 1 } }

/-! ### Bind (R65, R91, R355) -/

/-- Bounding rectangle of placements (R27): origin and size. -/
def boundsOf (ps : List NodePlace) : Nat × Nat × Nat × Nat :=
  let x0 := (ps.map NodePlace.qx).foldl min 63
  let y0 := (ps.map NodePlace.qy).foldl min 63
  let x1 := (ps.map fun p => p.qx + p.w).foldl max 0
  let y1 := (ps.map fun p => p.qy + p.h).foldl max 0
  (x0, y0, x1 - x0, y1 - y0)

/-- The gathering of an entry, in round 0. -/
def newGath (e : PoolEntry) (mcast : List Word) : Gathering :=
  let (qx, qy, qw, qh) := boundsOf e.places
  { ctx := e.ctx, inst := e.inst, tag := e.tag, retire := e.node, nodes := e.places, qx, qy, qw, qh, mcast, ranges := e.ranges }

/-- The 16 route words of a leaf entry loaded in turn, or the first invalid one with its port and `DETAIL` (R388). -/
def loadRoutes (g : Gathering) (ent : List Byte) : List Nat → List Word → Except (Nat × Word × Nat) (List Word)
  | [], ws => .ok ws
  | p :: ps, ws =>
    let w := wordOfNat (field ent (0x10 + 8 * p) 8)
    match routeBad g ws p w with
    | some d => .error (p, w, d)
    | none => loadRoutes g ent ps (lset ws p w)

/-- A record of a leaf entry, if it is present. -/
def entryRecord (ent : List Byte) (k : Nat) : Option (List Byte) :=
  if testBit (field ent 0 1) k then some (slice ent (0xC0 + 64 * k) 64) else none

/-- A flow unit as its entry's record leaves it, or the first failing offset (R387). -/
def bindUnit (routes : List Word) (code : Nat) : Option (List Byte) → Except Nat FlowUnit
  | none => .ok {}
  | some r => match recordBad routes code r with
    | some d => .error d
    | none => .ok (loadedUnit {} r)

/-- The vector pipeline as its entry's record leaves it. -/
def bindPipe (routes : List Word) : Option (List Byte) → Except Nat VPipe
  | none => .ok {}
  | some r => match vpBad routes r with
    | some d => .error d
    | none => .ok (loadedVp {} r)

/-- `DETAIL` of class 0x0309 for the leaf data of an entry, if its range is refused (R355). -/
def dataRefused (partw : Nat) (ent : List Byte) : Option Nat :=
  let la := field ent 4 4
  let n := field ent 8 4
  let off := field ent 12 4
  if !testBit (field ent 0 1) 3 || n == 0 then none
  else if la % 64 ≠ 0 ∨ n % 64 ≠ 0 ∨ off % 64 ≠ 0 ∨ 65536 < off + n then some 4
  else laRefused partw la n true

/-- The leaf data of an entry written without journaling. -/
def loadData (img : Memory) (ent : List Byte) (l : Leaf) : Leaf :=
  if testBit (field ent 0 1) 3 then
    storeParts l (linesOf (field ent 4 4) (field ent 8 4)) (img.read (field ent 12 4) (field ent 8 4))
  else l

/-- A leaf of a placement at bind: zeroed, then loaded from the committed shadow image of its quire (R91, R355). -/
def bindLeaf (s : State) (g : Nat) (x : Gathering) (p : NodePlace) (n : Nat) : Except Report State :=
  let img := (tget s.config (slotKey (quireOf n) p.slot)).getD []
  let ent := img.read (384 * leafIndex n) 384
  let s := s.setLeaf n { gath := some g, partw := p.partw }
  let c : CoreId := .strand n 0
  match loadRoutes x ent (upTo 16) (List.replicate 16 0) with
  | .error (q, w, d) =>
    let l : Leaf := { f0 := { record := (entryRecord ent 0).getD [] }, f1 := { record := (entryRecord ent 1).getD [] } }
    .error { leafReport s c 0x0211 1 (portWord l q (rtUnit w)) d with where_ := whereWord c }
  | .ok routes =>
    let bad := fun (k mode d : Nat) =>
      { leafReport s c 0x0210 (if k = 3 then 3 else 2) (k * 16 + mode * 256) d with where_ := whereWord c }
    match bindUnit routes 1 (entryRecord ent 0), bindUnit routes 2 (entryRecord ent 1), bindPipe routes (entryRecord ent 2) with
    | .error d, _, _ => .error (bad 1 (field ent 0xC0 1) d)
    | .ok _, .error d, _ => .error (bad 2 (field ent 0x100 1) d)
    | .ok _, .ok _, .error d => .error (bad 3 0xFF d)
    | .ok f0, .ok f1, .ok vp =>
      match dataRefused p.partw ent with
      | some d => .error { laReport s c 7 accStore (field ent 4 4) 0x0309 d with where_ := whereWord c }
      | none =>
        let l := loadData img ent { s.leaf n with routes, f0, f1, vp }
        let b : StrandBase := { pc := p.code }
        .ok (s.setLeaf n { l with
          strands := List.replicate (pwStrands p.partw) (startStrand b)
          base := snapLeaf l (List.replicate (pwStrands p.partw) b) })

/-- The leaves of a placement bound in turn. -/
def bindPlace (g : Nat) (x : Gathering) (p : NodePlace) (s : State) : Except Report State :=
  (p.quires.flatMap leavesOfQuire).foldlM (fun s n => bindLeaf s g x p n) s

/-- The record of a partition word that breaks R78 (R394). -/
def partReport (s : State) (e : PoolEntry) (w : Nat) : Report :=
  memReport s { cls := 0x030A, sev := sevTask, folio := 8, uclass := 0x0C, ctx := some e.ctx, tag := some e.tag }
    0x030A sevTask 0 7 false false .none 0 0 w

/-- A pool entry leaves the pool, and its node runs. -/
def takeEntry (s : State) (id : Nat) (e : PoolEntry) : State :=
  { s with
    pool := tdel s.pool id
    insts := tmod s.insts e.inst fun x => { x with nodes := tset x.nodes e.node .running } }

/-- A new gathering binds to its placement (R65). -/
def bindNew (s : State) (id : Nat) (e : PoolEntry) : State :=
  match spineRead s (.bind id) e.ctx ((e.places.map NodePlace.cfg).headD 0) 192 with
  | .error f => holdInst s e.inst (.bind id) f
  | .ok (h, s) =>
    let s := freeInst s e.inst (.bind id)
    match e.places.find? fun p => !pwValid p.partw with
    | some p => endWith s e.inst (partReport s e p.partw)
    | none =>
      let x := newGath e ((upTo 16).map fun k => wordOfNat (field h (0x40 + 8 * k) 8))
      let (g, s) := s.fresh
      let s := takeEntry s id e
      let s := { s with gaths := tset s.gaths g x }
      match e.places.foldlM (fun s p => bindPlace g x p s) s with
      | .error r => endWith s e.inst r
      | .ok s =>
        let s := x.leaves.foldl reloadFree s
        s.modGath g fun y => { y with irrev := alwaysIrrev s y }

/-! ### Restore (R48, R408) -/

/-- The control area of a saved gathering's endpaper is poisoned (R408). -/
def paperPoisoned (s : State) (p : Endpaper) : Bool :=
  let (l0, n) := areaLines s p.gath.ctx p.gath.area
  s.hbmBad.any fun l => decide (l0 ≤ l) && decide (l < l0 + n) && Config.controlLine (l - l0)

/-- Lines of leaf i of a saved gathering that lie in poisoned data lines of its endpaper area (R408). -/
def paperBad (s : State) (p : Endpaper) (i : Nat) : List Nat :=
  let (l0, n) := areaLines s p.gath.ctx p.gath.area
  (s.hbmBad.filter fun l => decide (l0 ≤ l) && decide (l < l0 + n) && !Config.controlLine (l - l0)
    && (Config.paperPlace (l - l0)).1 % (max 1 p.leaves.length) == i).map fun l => (Config.paperPlace (l - l0)).2 % 4096

/-- A leaf restored from an endpaper: it stands at its round base, with the lines read from poisoned ones poisoned (R408). -/
def restoreLeaf (g : Nat) (bad : List Nat) (l : Leaf) : Leaf :=
  let l := reloadLeaf { l with journal := [] }
  { l with
    gath := some g
    poison := bad.filter (fun q => decide (64 * q < discBase l.partw) && !l.poison.contains q) ++ l.poison
    blocks := [] }

/-- The leaf, by its index in the gathering, whose control area is poisoned. -/
def paperLeafIndex (s : State) (p : Endpaper) : Nat :=
  let (l0, n) := areaLines s p.gath.ctx p.gath.area
  match s.hbmBad.find? fun l => decide (l0 ≤ l) && decide (l < l0 + n) && Config.controlLine (l - l0) with
  | some l => (Config.paperPlace (l - l0)).1 % max 1 p.leaves.length
  | none => 0

/-- The record of a restore that fails (R393, R394): class 0x0331, access 11, with the index of the leaf in the gathering. -/
def restoreReport (s : State) (p : Endpaper) : Report :=
  memReport s { cls := 0x0331, sev := sevTask, folio := 8, uclass := 0x0C, ctx := some p.gath.ctx, tag := some p.gath.tag,
                round := p.gath.round % 2 ^ 32 } 0x0331 sevTask 11 7 p.gath.irrev false .none 0 0 (paperLeafIndex s p)

/-- A saved gathering is restored on its own placement, with the same round (R48). -/
def restore (s : State) (id : Nat) (e : PoolEntry) (g : Nat) : State :=
  match tget s.papers g with
  | none => { s with pool := tdel s.pool id }
  | some p =>
    if paperPoisoned s p then endWith s e.inst (restoreReport s p)
    else
      let s := takeEntry s id e
      let s := { s with
        gaths := tset s.gaths g { p.gath with saved := none }
        papers := tdel s.papers g }
      let s := s.modContext e.ctx fun c => { c with areas := c.areas.filter (· != p.gath.area) }
      let bad := paperBad s p
      let s := (upTo p.leaves.length).foldl (fun s i =>
        match p.leaves[i]? with
        | some l => s.setLeaf l.1 (restoreLeaf g (bad i) l.2)
        | none => s) s
      let s := p.gath.leaves.foldl reloadFree s
      s.modGath g fun y => { y with irrev := alwaysIrrev s y }

/-- Quires that are not ACTIVE are woken (R348). -/
def wakeQuires (s : State) (qs : List Nat) : State :=
  qs.foldl (fun s q => if (s.quire q).power = .active then s else s.modQuire q fun u => { u with waking := true }) s

/-- Every quire is ACTIVE. -/
def allAwake (s : State) (qs : List Nat) : Bool := qs.all fun q => (s.quire q).power == .active && !(s.quire q).waking

/-! ### Declared ranges (R26, R288) -/

/-- Two ranges overlap. -/
def rangesMeet (a b : Nat × Nat) : Bool := decide (a.1 < b.1 + b.2) && decide (b.1 < a.1 + a.2)

/-- The leaf entry of a VA as it stands in memory. -/
def leafEntry (s : State) (k va : Nat) : Option Walked :=
  (walkFrom s (walkPlace hubPlace) k va [4, 3, 2, 1, 0] (s.attrs k).root.toNat []).toOption

/-- Every page of a range is mapped. -/
def rangeResident (s : State) (k : Nat) (r : Nat × Nat) : Bool := (pagesOf r.1 r.2).all fun p => (leafEntry s k p.1).isSome

/-- A range that an entry declares lies in a page that has been evicted, and is not resident again (R288). -/
def rangesGone (s : State) (e : PoolEntry) : Bool :=
  e.ranges.any fun r =>
    s.evicted.any (fun v => v.ctx == e.ctx && v.pages.any fun p => rangesMeet p r) && !rangeResident s e.ctx r

/-- BIND (R65, R91, R170, R348, R355): a dispatched entry binds once its ranges are resident, its slots have no pending shadow, and its
quires are ACTIVE. -/
def execBind (e : Nat) (s : State) : Host.Outcome State Fault Refusal :=
  match tget s.pool e with
  | none => .fault .noSuchUnit
  | some x =>
    if !x.bound || x.kind == .copy || !instFree s x.inst then idle s
    else if (x.kind == .fabric || x.kind == .stream) && (rangesGone s x || entryPending s x) then idle s
    else if !allAwake s x.quires then .next (wakeQuires s x.quires)
    else match x.kind with
      | .saved g => .next (restore s e x g)
      | _ => .next (bindNew s e x)

/-! ### COPY nodes (R66, R67) -/

/-- The first failing field of a COPY request record (R410, class 0x0404). -/
def copyNodeBad (r : List Byte) : Option Nat :=
  let src := field r 0 8
  let dst := field r 8 8
  let len := field r 0x10 3
  firstBad [(0, decide (src < 2 ^ 52) && !overlaps src len dst len), (8, decide (dst < 2 ^ 52)), (0x10, len != 0),
    (0x13, field r 0x13 1 % 64 == 0), (0x18, decide (field r 0x18 8 < 2 ^ 52) && field r 0x18 8 % 4 == 0)]

/-- The folio whose mover runs a COPY: that of the memory port that serves the first byte of its source (R66). -/
def copyFolio (s : State) (k src : Nat) : Nat :=
  bits ((peekTrans s k src).getD 0) 38 36

/-- COPY_NODE_RUN (R67): the mover reads the request record, checks it, and starts the copy. -/
def execCopyNodeRun (e : Nat) (s : State) : Host.Outcome State Fault Refusal :=
  match tget s.pool e with
  | none => .fault .noSuchUnit
  | some x =>
    if !x.bound || x.kind != .copy || !instFree s x.inst then idle s
    else match spineRead s (.bind e) x.ctx x.src 32 with
      | .error f => .next (holdInst s x.inst (.bind e) f)
      | .ok (r, s) =>
        let s := freeInst s x.inst (.bind e)
        match copyNodeBad r, tget s.insts x.inst with
        | some d, some i => .next (endWith s x.inst (instRecord i 0x0404 x.node d))
        | _, _ =>
          let src := field r 0 8
          let len := field r 0x10 3
          let sel := field r 0x13 1
          let (id, s) := s.fresh
          let dst := field r 8 8
          let c : Copy := { newCopy 5 src dst len sel (field r 0x14 4) (field r 0x18 8) (linesFrom src len) (linesFrom dst len) with
            mbar := 0, ctx := x.ctx, inst := x.inst, node := x.node, aps := s.apertures,
            folio := copyFolio s x.ctx src }
          let s := takeEntry s e x
          .next { s with copies := tset s.copies id c }

end Sys2Proof.Machine
end

