-- ==== Sys2Proof/Machine/Platform.lean ====
section
/-!
DEFINITION. Contexts loaded and unloaded (R21, R69, R413), eviction of declared ranges (R288, R401), settled pages (R287), errors of
the mesh and of memory (R390, R402, R405), boot, folios and power (R345 to R351, R435 to R439), and the commit of
configuration images (R170, R392).
-/

namespace Sys2Proof.Machine

/-! ### Contexts (R21, R69, R413) -/

/-- An instance of a context that is unloaded ends with class 0x040B. -/
def endUnloaded (s : State) (i : Nat) : State :=
  match tget s.insts i with
  | some x => if x.retired || x.ended then s else endWith s i (instRecord x 0x040B 0 0)
  | none => s

/-- Evictions of a context whose gate has not been checked are dropped, and the others go on (R413 step 3). -/
def dropEvictions (s : State) (k : Nat) : State :=
  { s with evicts := s.evicts.map fun (e : Nat × List EvictReq) => (e.1, e.2.filter fun r => r.begun || r.ctx != k) }

/-- A port of a context is parked, and the frames held for the context wait there (R69). -/
def parkPort (s : State) (k p : Nat) : State :=
  let fs := (s.context k).frames
  { s.modContext k fun c => { c with frames := [], parked := if c.parked.contains p then c.parked else p :: c.parked } with
    parkedQ := fs.map (fun f => (p, f)) ++ s.parkedQ }

/-- CONTEXT_UNLOAD (R69, R413): the context's port is parked and its admission stops; the held mass additions of its unretired
instances are discarded before any of them ends; its tags are free once all have retired and its evictions have finished. -/
def execContextUnload (ctx : Fin 16) (s : State) : Host.Outcome State Fault Refusal :=
  let k := ctx.val
  match (s.context k).attrs with
  | none => idle s
  | some a =>
    if (s.context k).ended then idle s
    else
      let s := match a.udpPort with
        | some p => parkPort s k p
        | none => s
      let s := s.modContext k fun c => { c with ended := true, backlog := [] }
      let is := (s.context k).live.filter (instLive s)
      let s := is.foldl endUnloaded { s with massHeld := s.massHeld.filter fun m => !is.contains m.1 }
      .next (finishUnload (dropEvictions s k) k)

/-- A port is parked no longer: a context is loaded onto it (R69). -/
def unpark (port : Option Nat) (c : Context) : Context := { c with parked := c.parked.filter fun p => port != some p }

/-- CONTEXT_LOAD (R21, R52, R69): the attributes of the context are set; its port is parked no longer, for whichever context it was, and
the frames held for it enter admission in order. A context that is still being unloaded waits for that (log 87). -/
def execContextLoad (ctx : Fin 16) (attrs : ContextAttrs) (s : State) : Host.Outcome State Fault Refusal :=
  let k := ctx.val
  let mine := s.parkedQ.filter fun x => attrs.udpPort == some x.1
  if (s.context k).ended then idle s
  else
    let s := { s with contexts := s.contexts.map (unpark attrs.udpPort) }
    .next { s.modContext k fun c => { c with attrs := some attrs, frames := c.frames ++ mine.map (·.2) } with
      parkedQ := s.parkedQ.filter fun x => attrs.udpPort != some x.1 }

/-! ### Eviction of ranges (R288, R401) -/

/-- The stack on which a range has its first resident page. -/
def onStack (s : State) (k : Nat) (stack : Nat) (r : Nat × Nat) : Bool :=
  (pagesOf r.1 r.2).any fun p => match leafEntry s k p.1 with
    | some w => pteHome w.pte == s.pkg && bits (entryPa w.pte w.level p.1) 38 36 == stack
    | none => false

/-- Ranges that the nodes of unretired instances declare, with their context. -/
def declared (s : State) : List (Nat × Nat × Nat) :=
  s.insts.flatMap fun (x : Nat × Instance) => if x.2.retired || x.2.ended then [] else x.2.declares.map fun r => (x.2.ctx, r)

/-- Ranges that bound and saved gatherings, and entries already dispatched, declare. -/
def inUse (s : State) : List (Nat × Nat × Nat) :=
  let of := fun (k : Nat) (rs : List (Nat × Nat)) => rs.map fun r => (k, r)
  s.gaths.flatMap (fun g => of g.2.ctx g.2.ranges) ++ s.papers.flatMap (fun p => of p.2.gath.ctx p.2.gath.ranges)
    ++ (s.pool.filter fun e => e.2.bound).flatMap fun e => of e.2.ctx e.2.ranges

/-- A mover has requests in flight in a range. -/
def moverBusy (s : State) (k : Nat) (r : Nat × Nat) : Bool :=
  s.copies.any fun (c : Nat × Copy) => c.2.ctx == k && c.2.devOut.any (rangesMeet r)

/-- A PA lies in a page of a range. -/
def inRange (s : State) (k pa : Nat) (r : Nat × Nat) : Bool :=
  (pagesOf r.1 r.2).any fun p => match leafEntry s k p.1 with
    | some w => let a := entryPa w.pte w.level p.1
                decide (a ≤ pa) && decide (pa < a + p.2)
    | none => false

/-- Counted writes that no completed flag covers have been delivered into a range. -/
def uncoveredIn (s : State) (k : Nat) (r : Nat × Nat) : Bool :=
  s.receivers.any fun (x : Nat × Receiver) => x.2.landed.any fun l => inRange s k l.2 r

/-- The next use of a range: the place of the first entry in the visiting order of R63 that declares an overlapping one. -/
def nextUse (s : State) (k : Nat) (r : Nat × Nat) : Nat :=
  let es := (upTo 4).flatMap (classCandidates s)
  (es.findIdx? fun e => e.2.2.ctx == k && e.2.2.ranges.any (rangesMeet r)).getD es.length

/-- The range to evict: the greatest next use, then the lower context, then the lower base. -/
def victim (s : State) (stack : Nat) : Option (Nat × Nat × Nat) :=
  let busy := inUse s
  let rs := (declared s).filter fun x =>
    onStack s x.1 stack x.2 && !(busy.any fun y => y.1 == x.1 && rangesMeet y.2 x.2)
      && !moverBusy s x.1 x.2 && !uncoveredIn s x.1 x.2
  let before := fun (a b : Nat × Nat × Nat) =>
    let ua := nextUse s a.1 a.2
    let ub := nextUse s b.1 b.2
    decide (ub < ua) || (ua == ub && (decide (a.1 < b.1) || (a.1 == b.1 && decide (a.2.1 ≤ b.2.1))))
  (sortBy before rs).head?

/-- The pages, of any size, in which a range lies: base VA and leaf entry. -/
def heldPages (s : State) (k : Nat) (r : Nat × Nat) : List (Nat × Walked) :=
  let ws := (pagesOf r.1 r.2).filterMap fun p => (leafEntry s k p.1).map fun w => (p.1 / 2 ^ levelShift w.level * 2 ^ levelShift w.level, w)
  ws.foldl (fun out w => if out.any fun v => v.2.src == w.2.src then out else out ++ [w]) []

/-- An access that was translated has not completed in a page. -/
def pageBusy (s : State) (k : Nat) (p : Nat × Walked) : Bool :=
  s.reqs.any fun r => r.2.ctx == k && decide (p.1 ≤ r.2.va) && decide (r.2.va < p.1 + 2 ^ levelShift p.2.level) && match r.2.stage with
    | .grant | .port | .remote _ => true
    | _ => false

/-- A page is evicted: all of its bytes are copied out, its entry loses `VALID`, and no cached translation of it is left (R401). -/
def evictPage (k : Nat) (x : State × Memory) (p : Nat × Walked) : State × Memory :=
  let (s, out) := x
  let (base, w) := p
  let pa := entryPa w.pte w.level base
  let data := if pteHome w.pte = s.pkg then
      (s.hbm.filter fun c => decide (pa ≤ c.1) && decide (c.1 < pa + 2 ^ levelShift w.level)).map fun c => (base + (c.1 - pa), c.2)
    else []
  let e := natOfBytes (s.hbm.read w.src 8)
  (uncache { s with hbm := s.hbm.write w.src (bytesOf 8 (e / 2 * 2)) } (.page k base), data.foldl (fun m c => m.put c.1 c.2) out)

/-- RANGE_EVICTION (R288, R401): the Spine evicts one declared range of a stack, once no access uses its pages. -/
def execRangeEviction (stack : Fin 8) (s : State) : Host.Outcome State Fault Refusal :=
  match victim s stack.val with
  | none => idle s
  | some (k, r) =>
    let ps := heldPages s k r
    if ps.any (pageBusy s k) then idle s
    else
      let (s, data) := ps.foldl (evictPage k) (s, [])
      let rest := s.evicted.filter fun v => !(v.ctx == k && v.base == r.1 && v.len == r.2)
      .next { s with evicted := rest ++
        [{ ctx := k, base := r.1, len := r.2, pages := ps.map fun p => (p.1, 2 ^ levelShift p.2.level), data }] }

/-! ### Settled pages (R287) -/

/-- SETTLED_PERIOD_END (R287): the entry of a settled page returns to `SHARE` 00 and `MOVES` 0, and no cached translation of the
page is left. -/
def execSettledPeriodEnd (ctx : Fin 16) (va : Nat) (s : State) : Host.Outcome State Fault Refusal :=
  match leafEntry s ctx.val va with
  | none => idle s
  | some w =>
    let e := natOfBytes (s.hbm.read w.src 8)
    if pteShare e ≠ 2 then idle s
    else .next (uncache { s with hbm := s.hbm.write w.src (bytesOf 8 (e - bits e 7 6 * 2 ^ 6 - bits e 11 8 * 2 ^ 8)) } (.page ctx.val va))

/-! ### Folio reset (R363, R415) -/

/-- The instance ends, reported by one record of its own that names it (R363). -/
def endNamed (r : Report) (s : State) (i : Nat) : State :=
  match tget s.insts i with
  | some x => if x.retired || x.ended then s else endWith s i { r with sev := sevTask, ctx := some x.ctx, tag := some x.tag }
  | none => s

/-- Instances with a gathering on a folio. -/
def onFolio (s : State) (f : Nat) : List Nat :=
  ((s.gaths.filter fun g => g.2.quires.any fun q => folioOfQuire q == f).map fun g => g.2.inst).dedup

/-- FOLIO-RESET (R363): instances on the folio end, its evictions are torn (R415), its SRAM reads zero, its translations are gone,
and it waits for its test. -/
def folioReset (s : State) (r : Report) (f : Nat) : State :=
  let s := (onFolio s f).foldl (endNamed r) s
  let s := tearEvictions s f
  { s with
    leaves := s.leaves.filter fun l => folioOf l.1 != f
    quires := (s.quires.filter fun q => folioOfQuire q.1 != f || q.2.mapped).map fun (q : Nat × Quire) =>
      if folioOfQuire q.1 = f then (q.1, { mapped := true }) else q
    tlb := s.tlb.filter fun t => decide (512 ≤ t.place) || t.place / 64 != f
    walks := s.walks.filter fun w => w.place != f
    folios := lmod s.folios f fun x => { cycles := x.cycles } }

/-! ### The mesh (R390) -/

/-- The link crosses a folio boundary: it runs through a bridge (R13). -/
def isBridge (n : Nat) : LinkEnd → Bool
  | .leaf m => folioOf n != folioOf m
  | .port _ => false

/-- A link as one number, the same for both of its directions: by its end with an E or S link, or by its leaf at a memory port. -/
def linkKey (n dir : Nat) : Nat :=
  match linkEnd n dir with
  | some (.leaf m) => if dir = 0 then 4 * m + 2 else if dir = 3 then 4 * m + 1 else 4 * n + dir
  | _ => 4 * n + dir

/-- A record of a router or bridge (R383). -/
def meshReport (n dir : Nat) (m : LinkEnd) (cls sev detail : Nat) : Report :=
  { cls, sev, folio := folioOf n, uclass := 6, uindex := n,
    synd := bytesOf 4 (dir + 4 * natOfBool (isBridge n m)) ++ zeros 8 ++ bytesOf 4 detail }

/-- The input port whose next token stands in a slot of a leaf. -/
def headIn (l : Leaf) (slot : Nat) : Option Nat :=
  (upTo 8).find? fun p =>
    let w := l.routes.getD p 0
    let q := l.inputs.getD p {}
    !q.held.isEmpty && rtCount w != 0 && slotBase l.routes p + q.head % rtCount w == slot

/-- A flit or a credit that fails its check: it is sent again, or is lost to its gathering. -/
def flitFailed (s : State) (n dir g detail : Nat) (m : LinkEnd) (recovered : Bool) : Host.Outcome State Fault Refusal :=
  match s.gath g with
  | none => idle s
  | some x =>
    if recovered then
      let k := (tget s.meshFix n).getD 0 + 1
      if Config.meshReport s.tick then
        .next (writeRecord { s with meshFix := tset s.meshFix n 0 } (meshReport n dir m 0x0230 sevCorrected k))
      else .next { s with meshFix := tset s.meshFix n k }
    else
      let key := linkKey n dir
      let s := { s with meshBad := tset s.meshBad key ((tget s.meshBad key).getD 0 + 1) }
      .next (lostInRound s g x (namingGath (meshReport n dir m 0x0231 sevTask detail) x n))

/-- MESH_FLIT_RETRY (R390): a hop check of a flit or credit of a gathering fails, or a word of an input slot gets an error, which is found
as the consumer removes the token. -/
def execMeshFlitRetry (leaf : Nat) (dir : Fin 4) (what : MeshItem) (recovered : Bool) (s : State) :
    Host.Outcome State Fault Refusal :=
  if Config.leafCount ≤ leaf then .fault .noSuchUnit
  else match what with
    | .slotWord slot =>
      match headIn (s.leaf leaf) slot.val with
      | some p => .next (s.modLeaf leaf fun l => { l with inputs := lmod l.inputs p fun i => { i with flaw := some recovered } })
      | none => idle s
    | .flit g => match linkEnd leaf dir.val with
      | none => .fault .noSuchUnit
      | some m => flitFailed s leaf dir.val g 0 m recovered
    | .credit g => match linkEnd leaf dir.val with
      | none => .fault .noSuchUnit
      | some m => flitFailed s leaf dir.val g 1 m recovered

/-- MESH_LINK_FAILURE (R390): a link that has produced 16 records of class 0x0231 has failed; its folio is reset, or both folios of
a bridge. -/
def execMeshLinkFailure (leaf : Nat) (dir : Fin 4) (s : State) : Host.Outcome State Fault Refusal :=
  if Config.leafCount ≤ leaf then .fault .noSuchUnit
  else match linkEnd leaf dir.val with
    | none => .fault .noSuchUnit
    | some m =>
      let key := linkKey leaf dir.val
      let n := (tget s.meshBad key).getD 0
      if n < 16 then idle s
      else
        let r := meshReport leaf dir.val m 0x0232 sevFolio n
        let s := folioReset (writeRecord { s with meshBad := tset s.meshBad key 0 } r) r (folioOf leaf)
        .next (match m with
          | .leaf k => if isBridge leaf m then folioReset s r (folioOf k) else s
          | .port _ => s)

/-! ### Memory (R402, R405) -/

/-- A record of a memory port that names no gathering: the HBM line at a PA. -/
def hbmReport (s : State) (pa cls sev : Nat) : Report :=
  memReport s { portReport pa 0 with ctx := none } cls sev 0 0 false false .pa pa 0 (Config.channelSyndrome s.tick).toNat

/-- HBM_SCRUB (R402): a memory port reads a backed line; a corrected error leaves the data, and an uncorrectable one poisons
the line. -/
def execHbmScrub (line : Nat) (found : EccResult) (s : State) : Host.Outcome State Fault Refusal :=
  let pa := 64 * line
  if isAperture pa || !isBacked pa then .fault .noSuchUnit
  else match found with
    | .clean => idle s
    | .corrected => .next (writeRecord s (hbmReport s pa 0x0312 sevCorrected))
    | .uncorrectable => .next (writeRecord (spoil s pa 64) (hbmReport s pa 0x0313 sevDeferred))

/-- The record of an uncorrectable entry of a port's round buffer, with the strand whose store it holds. -/
def bufferReport (s : State) (x : Gathering) (port : Nat) : Report :=
  let r := { cls := 0x0317, sev := sevReplayed, folio := port / 32, uclass := 7, uindex := port, ctx := some x.ctx,
             tag := some x.tag, round := x.round % 2 ^ 32
             where_ := (((x.staged.find? fun y => y.port == port).bind Staged.core).map whereWord).getD 0 }
  memReport s r 0x0317 sevReplayed 1 0 x.irrev false .none 0 0 port

/-- The items of a gathering up to the failing one are published (R405). -/
def publishUpTo (s : State) (g : Nat) (x : Gathering) (port : Nat) : State :=
  (publishList s x.ctx (some g) x.inst (x.staged.takeWhile fun y => y.port != port)).1

/-- ROUND_BUFFER_ERROR (R405): the round whose staged stores are lost is voided; at the moment of turning irrevocable the
publication may have reached the failing entry. -/
def execRoundBufferError (g : Nat) (port : Fin 256) (s : State) : Host.Outcome State Fault Refusal :=
  match s.gath g with
  | none => .fault .noSuchUnit
  | some x =>
    if !x.staged.any fun y => y.port == port.val then idle s
    else
      let s := if x.queue.head? == some .grant && pickOf s 2 == 0 then publishUpTo s g x port.val else s
      .next (lostInRound s g x (bufferReport s x port.val))

/-! ### Boot and folios (R351, R438, R439) -/

/-- The firmware that boot starts: its bytes stand in the local memory of every control core. -/
def startCore (firmware : List (Nat × Byte)) (k : Core) : Core :=
  { k with
    started := true
    mem := firmware.foldl (fun m x => if x.1 < Config.localBytes then m.put x.1 x.2 else m) k.mem }

/-- A failure of boot before firmware runs (R438): CC0 halts, `BOOTST` holds the class, and no record is written. -/
def bootFailed (s : State) (cls : Nat) : State :=
  { s.modCore 0 fun k => { k with halted := true } with bootSt := cls }

/-- DEVICE_BOOT (R351, R438): the ROM checks the firmware image, measures it and starts it on every control core. -/
def execDeviceBoot (found : BootResult) (s : State) : Host.Outcome State Fault Refusal :=
  if s.booted || s.bootSt != 0 then idle s
  else match found with
    | .started image firmware =>
      .next { s with booted := true, measured := s.measured ++ [sha256 image], cores := s.cores.map (startCore firmware) }
    | .badSignature => .next (bootFailed s 0x0610)
    | .badKeyHash => .next (bootFailed s 0x0611)
    | .extendFailed => .next (bootFailed s 0x0612)

/-- A quire that fails its test is mapped out (R351, R352, R437). -/
def mapOut (s : State) (q : Nat) : State :=
  { s.modQuire q fun u => { u with mapped := true, waking := false } with
    mapped := if s.mapped.contains q then s.mapped else s.mapped ++ [q] }

/-- A record of boot that names no context. -/
def bootReport (cls sev detail : Nat) : Report := imageReport cls sev detail none

/-- Once every folio is admitted or mapped out, the firmware signs the attestation report of the colophon with the device identity key
(R351 step 5). -/
def attest (s : State) : State :=
  if s.folios.all (·.tested) ∧ s.attested.isNone then { s with attested := some (Config.attestation s.measured s.mapped) } else s

/-- FOLIO_ADMISSION (R351, R435, R439): a folio in reset is tested; its failed quires are mapped out, and it is admitted or stays in
reset. -/
def execFolioAdmission (folio : Fin 8) (passed : Bool) (mappedOut : List Nat) (s : State) : Host.Outcome State Fault Refusal :=
  let f := s.folios.getD folio.val {}
  if !s.booted || f.admitted || f.tested then idle s
  else
    let qs := mappedOut.filter fun q => decide (q < Config.quireCount) && folioOfQuire q == folio.val
    let s := qs.foldl (fun s q => writeRecord (mapOut s q) (bootReport 0x0619 sevCorrected q)) s
    let s := if passed then s else writeRecord s (bootReport 0x0618 sevFolio folio.val)
    .next (attest { s with folios := lmod s.folios folio.val fun x => { x with tested := true, admitted := passed } })

/-- FOLIO_CALIBRATION_DONE (R351). -/
def execFolioCalibrationDone (folio : Fin 8) (s : State) : Host.Outcome State Fault Refusal :=
  .next { s with folios := lmod s.folios folio.val fun x => { x with fast := x.admitted } }

/-! ### Power (R345 to R348, R435 to R437) -/

/-- Wake time of a power state in nanoseconds. -/
def wakeTime : Power → Nat
  | .active => 0
  | .idle => 20
  | .retain => 2000
  | .off => 10000

/-- Bytes of a context's memory as they stand, where they are mapped. -/
def peekRead (s : State) (k va n : Nat) : Option (List Byte) :=
  ((pagesOf va n).mapM fun p => (peekTrans s k p.1).map fun pa => s.hbm.read pa p.2).map List.flatten

/-- A FABRIC node of the graph of an instance is placed over a quire, by the node records as they stand. -/
def graphCovers (s : State) (x : Instance) (q : Nat) : Bool :=
  (upTo x.count).any fun n => (peekRead s x.ctx (x.nodeAt n) 128).any fun r =>
    field r 0 1 == 1 && (nodePlace 0 n r).quires.contains q

/-- A placement of a loaded context covers a quire (R347), one of its image or of a launched graph; a saved gathering does not count. -/
def covers (s : State) (k q : Nat) : Bool :=
  (s.context k).attrs.isSome && (((s.attrs k).placed.any fun p => (rectQuires p.1 p.2.1 p.2.2.1 p.2.2.2).contains q)
    || (s.pool.any fun e => e.2.ctx == k && e.2.quires.contains q && match e.2.kind with
      | .saved _ => false
      | _ => true)
    || s.insts.any fun (x : Nat × Instance) => x.2.ctx == k && !x.2.retired && !x.2.ended && graphCovers s x.2 q)

/-- The state of an idle quire: the lowest whose wake time the least tolerance of the contexts placed over it allows. -/
def restState (s : State) (q : Nat) : Power :=
  match ((upTo 16).filter fun k => covers s k q).map fun k => (s.attrs k).tolerance with
  | [] => .off
  | t :: ts =>
    let least := ts.foldl min t
    ([Power.off, .retain, .idle].find? fun p => decide (wakeTime p ≤ least)).getD .active

/-- The SRAM of a quire is zero. -/
def zeroQuire (s : State) (q : Nat) : State :=
  (leavesOfQuire q).foldl (fun s n => { s with leaves := tdel s.leaves n }) s

/-- QUIRE_POWER_TRANSITION (R346, R347): a quire that no gathering holds and no bind awaits goes to its state of rest; one that
goes OFF, or comes from OFF, holds zero. -/
def execQuirePowerTransition (quire : Nat) (s : State) : Host.Outcome State Fault Refusal :=
  if Config.quireCount ≤ quire then .fault .noSuchUnit
  else
    let q := s.quire quire
    if (holderOf s quire).isSome || promised s [quire] || q.waking || q.mapped then idle s
    else
      let p := restState s quire
      let s := if p = .off ∨ q.power = .off then zeroQuire s quire else s
      .next (s.modQuire quire fun q => { q with power := p })

/-- QUIRE_WAKE (R346, R348): a waking quire is ACTIVE; one that was OFF holds zero. -/
def execQuireWake (quire : Nat) (s : State) : Host.Outcome State Fault Refusal :=
  if Config.quireCount ≤ quire then .fault .noSuchUnit
  else
    let q := s.quire quire
    if !q.waking || !quiresUsable s [quire] then idle s
    else
      let s := if q.power = .off then zeroQuire s quire else s
      .next (s.modQuire quire fun q => { q with power := .active, waking := false })

/-- A record of power and thermal (R435). -/
def powerReport (cls sev folio unit detail : Nat) : Report :=
  { cls, sev, folio, uclass := 0x12, uindex := unit, synd := zeros 12 ++ bytesOf 4 detail }

/-- QUIRE_WAKE_TIMEOUT (R435, R437): a quire that fails to wake is mapped out, and the instances whose bind waited on it end. -/
def execQuireWakeTimeout (quire : Nat) (s : State) : Host.Outcome State Fault Refusal :=
  if Config.quireCount ≤ quire then .fault .noSuchUnit
  else if !(s.quire quire).waking then idle s
  else
    let r := powerReport 0x0608 sevTask (folioOfQuire quire) 0 quire
    let is := ((s.pool.filter fun e => e.2.bound && e.2.quires.contains quire).map fun e => e.2.inst).dedup.filter (instLive s)
    let s := mapOut s quire
    .next (if is.isEmpty then writeRecord s r else is.foldl (endNamed r) s)

/-- GOVERNOR_LIMIT (R345, R435): only timing changes while the governor delays work; a rail beyond its limits resets the package. -/
def execGovernorLimit (what : GovernorLimit) (s : State) : Host.Outcome State Fault Refusal :=
  match what with
  | .delayed f => .next (writeRecord s (powerReport 0x0601 sevCorrected f.val 0 f.val))
  | .overrun rail => .next (deviceReset (writeRecord s (powerReport 0x0602 sevDevice 8 rail rail)))

/-- THERMAL_EVENT (R435, R436). -/
def execThermalEvent (folio : Fin 8) (level : ThermalLevel) (s : State) : Host.Outcome State Fault Refusal :=
  let f := folio.val
  match level with
  | .hot sensor =>
    let s := { s with folios := lmod s.folios f fun x => { x with hot := true } }
    .next (writeRecord s (powerReport 0x0603 sevCorrected f sensor sensor))
  | .critical sensor =>
    let r := powerReport 0x0604 sevFolio f sensor sensor
    .next (folioReset (writeRecord s r) r f)
  | .cooled => .next { s with folios := lmod s.folios f fun x => { x with hot := false } }

/-! ### Commit of configuration images (R170, R392, R441, R442) -/

/-- A quire that cannot acknowledge its switch: class 0x0251, and its folio is reset. -/
def loseQuire (s : State) (q : Nat) : State :=
  let r := imageReport 0x0251 sevFolio q none
  folioReset (writeRecord s r) r (folioOfQuire q)

/-- What becomes of a batch (R170, R392, R441, R442): one that a failed `IMGW` has spoiled, or whose prepare fails, switches nothing; else
every pending slot reads its shadow, and the folio of a quire that does not acknowledge is reset, which then finds the new
configuration (R355). -/
def settleBatch (s : State) (b : Batch) (unreadable lost : List Nat) : State :=
  if b.bad then s
  else match firstUnreadable b unreadable with
    | some q => failPrepare s b q (s.ctxOf b.claim.core)
    | none =>
      let gone := (lost.filter fun q => b.slots.any fun p => p.1 / 64 == q).dedup
      let s := { switchSlots s b with failed := if s.failed.any fun x => sameImages x b.images then none else s.failed }
      gone.foldl loseQuire s

/-- IMAGE_COMMIT_SWITCH (R170, R392): the first batch that an `IMGCMT` has closed is settled once its `IMGW` have been completed and, unless
one of them has failed, no gathering holds a pending slot; then the token of the `IMGCMT` follows. `unreadable` and `lost` name the quires
whose shadow cannot be read and those that do not acknowledge. -/
def execImageCommitSwitch (unreadable lost : List Nat) (s : State) : Host.Outcome State Fault Refusal :=
  match s.batches with
  | [] => idle s
  | b :: bs =>
    if !batchLanded s b || (!b.bad && b.slots.any fun p => slotHeld s p.1) then idle s
    else .next (payOwed (settleBatch { s with batches := bs } b unreadable lost) b.claim tok tok)

end Sys2Proof.Machine
end

