-- ==== Sys2Proof/Machine/Dispatch.lean ====
section
/-!
DEFINITION. One arm per instruction: each calls its meaning.
-/

namespace Sys2Proof.Machine

/-- The meaning of an instruction (every step of the opcode table) at a state. -/
def exec (i : Instr) (s : State) : Host.Outcome State Fault Refusal :=
  match i with
  | .rd g tb ta => Sys2Proof.Machine.execRd g tb ta s
  | .movi ta imm => Sys2Proof.Machine.execMovi ta imm s
  | .movhi ta imm => Sys2Proof.Machine.execMovhi ta imm s
  | .mov tb ta => Sys2Proof.Machine.execMov tb ta s
  | .br cond off => Sys2Proof.Machine.execBr cond off s
  | .call cond off => Sys2Proof.Machine.execCall cond off s
  | .brr => Sys2Proof.Machine.execBrr s
  | .rnd deadline => Sys2Proof.Machine.execRnd deadline s
  | .exit => Sys2Proof.Machine.execExit s
  | .tdone => Sys2Proof.Machine.execTdone s
  | .trap imm => Sys2Proof.Machine.execTrap imm s
  | .bkpt imm => Sys2Proof.Machine.execBkpt imm s
  | .sysrd ta idx => Sys2Proof.Machine.execSysrd ta idx s
  | .syswr idx => Sys2Proof.Machine.execSyswr idx s
  | .spawn tb ta => Sys2Proof.Machine.execSpawn tb ta s
  | .null tb ta => Sys2Proof.Machine.execNull tb ta s
  | .add width sgn sat tb ta => Sys2Proof.Machine.execAdd width sgn sat tb ta s
  | .sub width sgn sat tb ta => Sys2Proof.Machine.execSub width sgn sat tb ta s
  | .mul width sgn sat tb ta => Sys2Proof.Machine.execMul width sgn sat tb ta s
  | .mulh width sgn tb ta => Sys2Proof.Machine.execMulh width sgn tb ta s
  | .div width sgn tb ta => Sys2Proof.Machine.execDiv width sgn tb ta s
  | .rem width sgn tb ta => Sys2Proof.Machine.execRem width sgn tb ta s
  | .and width sgn tb ta => Sys2Proof.Machine.execAnd width sgn tb ta s
  | .or width sgn tb ta => Sys2Proof.Machine.execOr width sgn tb ta s
  | .xor width sgn tb ta => Sys2Proof.Machine.execXor width sgn tb ta s
  | .andn width sgn tb ta => Sys2Proof.Machine.execAndn width sgn tb ta s
  | .shl width sgn tb ta => Sys2Proof.Machine.execShl width sgn tb ta s
  | .shr width sgn tb ta => Sys2Proof.Machine.execShr width sgn tb ta s
  | .sar width sgn tb ta => Sys2Proof.Machine.execSar width sgn tb ta s
  | .rot width sgn tb ta => Sys2Proof.Machine.execRot width sgn tb ta s
  | .min width sgn tb ta => Sys2Proof.Machine.execMin width sgn tb ta s
  | .max width sgn tb ta => Sys2Proof.Machine.execMax width sgn tb ta s
  | .cmp width sgn cmp tb ta => Sys2Proof.Machine.execCmp width sgn cmp tb ta s
  | .sel tb ta => Sys2Proof.Machine.execSel tb ta s
  | .bitcPopc width tb ta => Sys2Proof.Machine.execBitcPopc width tb ta s
  | .bitcClz width tb ta => Sys2Proof.Machine.execBitcClz width tb ta s
  | .bitcCtz width tb ta => Sys2Proof.Machine.execBitcCtz width tb ta s
  | .bitcBrev width tb ta => Sys2Proof.Machine.execBitcBrev width tb ta s
  | .bitcBswap width tb ta => Sys2Proof.Machine.execBitcBswap width tb ta s
  | .bfx ta sgn lenM1 lo => Sys2Proof.Machine.execBfx ta sgn lenM1 lo s
  | .bfi tb ta => Sys2Proof.Machine.execBfi tb ta s
  | .lea sh tb ta => Sys2Proof.Machine.execLea sh tb ta s
  | .addi ta imm => Sys2Proof.Machine.execAddi ta imm s
  | .andi ta imm => Sys2Proof.Machine.execAndi ta imm s
  | .ori ta imm => Sys2Proof.Machine.execOri ta imm s
  | .xori ta imm => Sys2Proof.Machine.execXori ta imm s
  | .shfiShl ta cnt => Sys2Proof.Machine.execShfiShl ta cnt s
  | .shfiShr ta cnt => Sys2Proof.Machine.execShfiShr ta cnt s
  | .shfiSar ta cnt => Sys2Proof.Machine.execShfiSar ta cnt s
  | .shfiRot ta cnt => Sys2Proof.Machine.execShfiRot ta cnt s
  | .cmpi ta sgn cmp imm => Sys2Proof.Machine.execCmpi ta sgn cmp imm s
  | .muli ta imm => Sys2Proof.Machine.execMuli ta imm s
  | .adc width tb ta => Sys2Proof.Machine.execAdc width tb ta s
  | .fadd fmt rm pk sat tb ta => Sys2Proof.Machine.execFadd fmt rm pk sat tb ta s
  | .fsub fmt rm pk sat tb ta => Sys2Proof.Machine.execFsub fmt rm pk sat tb ta s
  | .fmul fmt rm pk sat tb ta => Sys2Proof.Machine.execFmul fmt rm pk sat tb ta s
  | .fma fmt rm pk sat tb ta => Sys2Proof.Machine.execFma fmt rm pk sat tb ta s
  | .fmin fmt pk prop tb ta => Sys2Proof.Machine.execFmin fmt pk prop tb ta s
  | .fmax fmt pk prop tb ta => Sys2Proof.Machine.execFmax fmt pk prop tb ta s
  | .fcmp fmt cmp tb ta => Sys2Proof.Machine.execFcmp fmt cmp tb ta s
  | .fcvt ta sat rm dst src => Sys2Proof.Machine.execFcvt ta sat rm dst src s
  | .fsfuRcp ta => Sys2Proof.Machine.execFsfuRcp ta s
  | .fsfuRsq ta => Sys2Proof.Machine.execFsfuRsq ta s
  | .fsfuSqrt ta => Sys2Proof.Machine.execFsfuSqrt ta s
  | .fsfuExp2 ta => Sys2Proof.Machine.execFsfuExp2 ta s
  | .fsfuLog2 ta => Sys2Proof.Machine.execFsfuLog2 ta s
  | .fsfuTanh ta => Sys2Proof.Machine.execFsfuTanh ta s
  | .fsfuSigm ta => Sys2Proof.Machine.execFsfuSigm ta s
  | .fsfuSinp ta => Sys2Proof.Machine.execFsfuSinp ta s
  | .fsfuCosp ta => Sys2Proof.Machine.execFsfuCosp ta s
  | .fclass fmt tb ta => Sys2Proof.Machine.execFclass fmt tb ta s
  | .qscale ta amax elem => Sys2Proof.Machine.execQscale ta amax elem s
  | .qcvt fmt rm sat tb ta => Sys2Proof.Machine.execQcvt fmt rm sat tb ta s
  | .qdeq fmt rm sat tb ta => Sys2Proof.Machine.execQdeq fmt rm sat tb ta s
  | .fsgnAbs fmt tb ta => Sys2Proof.Machine.execFsgnAbs fmt tb ta s
  | .fsgnNeg fmt tb ta => Sys2Proof.Machine.execFsgnNeg fmt tb ta s
  | .fsgnCopysign fmt tb ta => Sys2Proof.Machine.execFsgnCopysign fmt tb ta s
  | .ldl scope acq width tb ta => Sys2Proof.Machine.execLdl scope acq width tb ta s
  | .stl scope rel width tb ta => Sys2Proof.Machine.execStl scope rel width tb ta s
  | .ldg scope acq width tb ta => Sys2Proof.Machine.execLdg scope acq width tb ta s
  | .stg scope rel width tb ta => Sys2Proof.Machine.execStg scope rel width tb ta s
  | .atomlAdd scope ord tb ta => Sys2Proof.Machine.execAtomlAdd scope ord tb ta s
  | .atomlAnd scope ord tb ta => Sys2Proof.Machine.execAtomlAnd scope ord tb ta s
  | .atomlOr scope ord tb ta => Sys2Proof.Machine.execAtomlOr scope ord tb ta s
  | .atomlXor scope ord tb ta => Sys2Proof.Machine.execAtomlXor scope ord tb ta s
  | .atomlXchg scope ord tb ta => Sys2Proof.Machine.execAtomlXchg scope ord tb ta s
  | .atomlSmin scope ord tb ta => Sys2Proof.Machine.execAtomlSmin scope ord tb ta s
  | .atomlSmax scope ord tb ta => Sys2Proof.Machine.execAtomlSmax scope ord tb ta s
  | .atomlFadd scope ord tb ta => Sys2Proof.Machine.execAtomlFadd scope ord tb ta s
  | .atomgAdd scope ord tb ta => Sys2Proof.Machine.execAtomgAdd scope ord tb ta s
  | .atomgAnd scope ord tb ta => Sys2Proof.Machine.execAtomgAnd scope ord tb ta s
  | .atomgOr scope ord tb ta => Sys2Proof.Machine.execAtomgOr scope ord tb ta s
  | .atomgXor scope ord tb ta => Sys2Proof.Machine.execAtomgXor scope ord tb ta s
  | .atomgXchg scope ord tb ta => Sys2Proof.Machine.execAtomgXchg scope ord tb ta s
  | .atomgSmin scope ord tb ta => Sys2Proof.Machine.execAtomgSmin scope ord tb ta s
  | .atomgSmax scope ord tb ta => Sys2Proof.Machine.execAtomgSmax scope ord tb ta s
  | .atomgFadd scope ord tb ta => Sys2Proof.Machine.execAtomgFadd scope ord tb ta s
  | .casl scope ord width tb ta => Sys2Proof.Machine.execCasl scope ord width tb ta s
  | .casg scope ord width tb ta => Sys2Proof.Machine.execCasg scope ord width tb ta s
  | .fenceAcq ta xp scope => Sys2Proof.Machine.execFenceAcq ta xp scope s
  | .fenceRel ta xp scope => Sys2Proof.Machine.execFenceRel ta xp scope s
  | .fenceAr ta xp scope => Sys2Proof.Machine.execFenceAr ta xp scope s
  | .fenceXp ta scope => Sys2Proof.Machine.execFenceXp ta scope s
  | .waitaLeaf cond width tb ta => Sys2Proof.Machine.execWaitaLeaf cond width tb ta s
  | .waitaRound cond width tb ta => Sys2Proof.Machine.execWaitaRound cond width tb ta s
  | .waitaDev cond width tb ta => Sys2Proof.Machine.execWaitaDev cond width tb ta s
  | .waitaSys cond width tb ta => Sys2Proof.Machine.execWaitaSys cond width tb ta s
  | .mbarInit tb ta => Sys2Proof.Machine.execMbarInit tb ta s
  | .mbarArrive tb ta => Sys2Proof.Machine.execMbarArrive tb ta s
  | .mbarExpect tb ta => Sys2Proof.Machine.execMbarExpect tb ta s
  | .mbarTest tb ta => Sys2Proof.Machine.execMbarTest tb ta s
  | .mbarWait tb ta => Sys2Proof.Machine.execMbarWait tb ta s
  | .cpLd tb ta => Sys2Proof.Machine.execCpLd tb ta s
  | .cpSt tb ta => Sys2Proof.Machine.execCpSt tb ta s
  | .cpSend tb ta => Sys2Proof.Machine.execCpSend tb ta s
  | .cpMc tb ta => Sys2Proof.Machine.execCpMc tb ta s
  | .cpFib tb ta => Sys2Proof.Machine.execCpFib tb ta s
  | .flag tb ta => Sys2Proof.Machine.execFlag tb ta s
  | .kvopMass tb ta => Sys2Proof.Machine.execKvopMass tb ta s
  | .kvopEvict tb ta => Sys2Proof.Machine.execKvopEvict tb ta s
  | .kvopStat tb ta => Sys2Proof.Machine.execKvopStat tb ta s
  | .flcfg u tb ta => Sys2Proof.Machine.execFlcfg u tb ta s
  | .flgo u tb ta => Sys2Proof.Machine.execFlgo u tb ta s
  | .flstat u tb ta => Sys2Proof.Machine.execFlstat u tb ta s
  | .flstop u tb ta => Sys2Proof.Machine.execFlstop u tb ta s
  | .spush kind port tb ta => Sys2Proof.Machine.execSpush kind port tb ta s
  | .spop nb port tb ta => Sys2Proof.Machine.execSpop nb port tb ta s
  | .sctlStatus port tb ta => Sys2Proof.Machine.execSctlStatus port tb ta s
  | .sctlDrain port tb ta => Sys2Proof.Machine.execSctlDrain port tb ta s
  | .sctlReset port tb ta => Sys2Proof.Machine.execSctlReset port tb ta s
  | .sbar tb ta => Sys2Proof.Machine.execSbar tb ta s
  | .rtset port tb ta => Sys2Proof.Machine.execRtset port tb ta s
  | .kettle tb ta => Sys2Proof.Machine.execKettle tb ta s
  | .vpcfg tb ta => Sys2Proof.Machine.execVpcfg tb ta s
  | .vpgo tb ta => Sys2Proof.Machine.execVpgo tb ta s
  | .vpstat tb ta => Sys2Proof.Machine.execVpstat tb ta s
  | .vpconst stage tb ta => Sys2Proof.Machine.execVpconst stage tb ta s
  | .tldLa tb ta => Sys2Proof.Machine.execTldLa tb ta s
  | .tldDev tb ta => Sys2Proof.Machine.execTldDev tb ta s
  | .tturn tb ta => Sys2Proof.Machine.execTturn tb ta s
  | .tturnEmit port tb ta => Sys2Proof.Machine.execTturnEmit port tb ta s
  | .tstLa tb ta => Sys2Proof.Machine.execTstLa tb ta s
  | .tstDev tb ta => Sys2Proof.Machine.execTstDev tb ta s
  | .mxcmd tb ta => Sys2Proof.Machine.execMxcmd tb ta s
  | .mxwait tb ta => Sys2Proof.Machine.execMxwait tb ta s
  | .accopZero tb ta => Sys2Proof.Machine.execAccopZero tb ta s
  | .accopCopy tb ta => Sys2Proof.Machine.execAccopCopy tb ta s
  | .tlbinvPage tb ta => Sys2Proof.Machine.execTlbinvPage tb ta s
  | .tlbinvCtx tb ta => Sys2Proof.Machine.execTlbinvCtx tb ta s
  | .tlbinvAll tb ta => Sys2Proof.Machine.execTlbinvAll tb ta s
  | .apset tb ta => Sys2Proof.Machine.execApset tb ta s
  | .ctxsv tb ta => Sys2Proof.Machine.execCtxsv tb ta s
  | .imgw tb ta => Sys2Proof.Machine.execImgw tb ta s
  | .imgcmt tb ta => Sys2Proof.Machine.execImgcmt tb ta s
  | .eret => Sys2Proof.Machine.execEret s
  | .wfi tb ta => Sys2Proof.Machine.execWfi tb ta s
  | .pgset tb ta => Sys2Proof.Machine.execPgset tb ta s
  | .elogrd tb ta => Sys2Proof.Machine.execElogrd tb ta s
  | .blockFetch c => Sys2Proof.Machine.execBlockFetch c s
  | .blockCommit c => Sys2Proof.Machine.execBlockCommit c s
  | .deadlineOverrun c => Sys2Proof.Machine.execDeadlineOverrun c s
  | .noProgressWatchdog c => Sys2Proof.Machine.execNoProgressWatchdog c s
  | .faultReport g => Sys2Proof.Machine.execFaultReport g s
  | .irrevocableGrant g => Sys2Proof.Machine.execIrrevocableGrant g s
  | .roundCommit g => Sys2Proof.Machine.execRoundCommit g s
  | .roundVoid g => Sys2Proof.Machine.execRoundVoid g s
  | .commitWatchdog g => Sys2Proof.Machine.execCommitWatchdog g s
  | .voidLimit g => Sys2Proof.Machine.execVoidLimit g s
  | .waitaWake c => Sys2Proof.Machine.execWaitaWake c s
  | .remoteWatchReread c tag => Sys2Proof.Machine.execRemoteWatchReread c tag s
  | .kettleComplete g id => Sys2Proof.Machine.execKettleComplete g id s
  | .submissionDoorbell ctx tail writes => Sys2Proof.Machine.execSubmissionDoorbell ctx tail writes s
  | .fwsqDoorbell => Sys2Proof.Machine.execFwsqDoorbell s
  | .cqheadWrite ctx head => Sys2Proof.Machine.execCqheadWrite ctx head s
  | .hostRegisterWrite off val => Sys2Proof.Machine.execHostRegisterWrite off val s
  | .hostBar2Access off size data => Sys2Proof.Machine.execHostBar2Access off size data s
  | .launchAdmission src => Sys2Proof.Machine.execLaunchAdmission src s
  | .requestFrame f => Sys2Proof.Machine.execRequestFrame f s
  | .spineDispatch => Sys2Proof.Machine.execSpineDispatch s
  | .entryAging e => Sys2Proof.Machine.execEntryAging e s
  | .swapWaitExpiry c => Sys2Proof.Machine.execSwapWaitExpiry c s
  | .bind e => Sys2Proof.Machine.execBind e s
  | .contextSave g => Sys2Proof.Machine.execContextSave g s
  | .copyNodeRun e => Sys2Proof.Machine.execCopyNodeRun e s
  | .moverLineLand copy line => Sys2Proof.Machine.execMoverLineLand copy line s
  | .nodeRetire inst node => Sys2Proof.Machine.execNodeRetire inst node s
  | .responseDelivery ctx => Sys2Proof.Machine.execResponseDelivery ctx s
  | .spawnBacklogAdmit ctx => Sys2Proof.Machine.execSpawnBacklogAdmit ctx s
  | .contextUnload ctx => Sys2Proof.Machine.execContextUnload ctx s
  | .rangeEviction stack => Sys2Proof.Machine.execRangeEviction stack s
  | .tileSwap leaf => Sys2Proof.Machine.execTileSwap leaf s
  | .mxCommandStart quire => Sys2Proof.Machine.execMxCommandStart quire s
  | .mxCommandComplete quire => Sys2Proof.Machine.execMxCommandComplete quire s
  | .vpStep leaf => Sys2Proof.Machine.execVpStep leaf s
  | .scannerStep leaf u => Sys2Proof.Machine.execScannerStep leaf u s
  | .scannerRefill leaf u => Sys2Proof.Machine.execScannerRefill leaf u s
  | .skipReceive leaf u => Sys2Proof.Machine.execSkipReceive leaf u s
  | .isectStep leaf u => Sys2Proof.Machine.execIsectStep leaf u s
  | .unionStep leaf u => Sys2Proof.Machine.execUnionStep leaf u s
  | .repeatStep leaf u => Sys2Proof.Machine.execRepeatStep leaf u s
  | .reduceStep leaf u => Sys2Proof.Machine.execReduceStep leaf u s
  | .spaccStep leaf u => Sys2Proof.Machine.execSpaccStep leaf u s
  | .lwriteStep leaf u => Sys2Proof.Machine.execLwriteStep leaf u s
  | .gatherStep leaf u => Sys2Proof.Machine.execGatherStep leaf u s
  | .scatterStep leaf u => Sys2Proof.Machine.execScatterStep leaf u s
  | .filterStep leaf u => Sys2Proof.Machine.execFilterStep leaf u s
  | .coalesceStep leaf u => Sys2Proof.Machine.execCoalesceStep leaf u s
  | .agenStep leaf u => Sys2Proof.Machine.execAgenStep leaf u s
  | .tokenDelivery leaf port => Sys2Proof.Machine.execTokenDelivery leaf port s
  | .creditReturn leaf port => Sys2Proof.Machine.execCreditReturn leaf port s
  | .meshFlitRetry leaf dir what recovered => Sys2Proof.Machine.execMeshFlitRetry leaf dir what recovered s
  | .meshLinkFailure leaf dir => Sys2Proof.Machine.execMeshLinkFailure leaf dir s
  | .tlbLookup req => Sys2Proof.Machine.execTlbLookup req s
  | .pageWalk req => Sys2Proof.Machine.execPageWalk req s
  | .memoryPortService port => Sys2Proof.Machine.execMemoryPortService port s
  | .hbmScrub line found => Sys2Proof.Machine.execHbmScrub line found s
  | .roundBufferError g port => Sys2Proof.Machine.execRoundBufferError g port s
  | .kvGateCheck engine => Sys2Proof.Machine.execKvGateCheck engine s
  | .kvEviction engine => Sys2Proof.Machine.execKvEviction engine s
  | .countedWriteIssue sender => Sys2Proof.Machine.execCountedWriteIssue sender s
  | .putArrival p => Sys2Proof.Machine.execPutArrival p s
  | .pushArrival p => Sys2Proof.Machine.execPushArrival p s
  | .ratomArrival p => Sys2Proof.Machine.execRatomArrival p s
  | .rloadArrival p => Sys2Proof.Machine.execRloadArrival p s
  | .rdataArrival p => Sys2Proof.Machine.execRdataArrival p s
  | .flagArrival p => Sys2Proof.Machine.execFlagArrival p s
  | .flagComplete receiver => Sys2Proof.Machine.execFlagComplete receiver s
  | .flagdoneArrival p => Sys2Proof.Machine.execFlagdoneArrival p s
  | .resendArrival p => Sys2Proof.Machine.execResendArrival p s
  | .gapTimerExpiry receiver => Sys2Proof.Machine.execGapTimerExpiry receiver s
  | .flagTimerExpiry sender index => Sys2Proof.Machine.execFlagTimerExpiry sender index s
  | .tailWriteTimeout sender => Sys2Proof.Machine.execTailWriteTimeout sender s
  | .rloadTimerExpiry req => Sys2Proof.Machine.execRloadTimerExpiry req s
  | .flezalFlitError fp recovered => Sys2Proof.Machine.execFlezalFlitError fp recovered s
  | .flezalLinkDown fp => Sys2Proof.Machine.execFlezalLinkDown fp s
  | .packetAgeDiscard queued => Sys2Proof.Machine.execPacketAgeDiscard queued s
  | .packageLost pkg => Sys2Proof.Machine.execPackageLost pkg s
  | .channelAllocate spec => Sys2Proof.Machine.execChannelAllocate spec s
  | .imageCommitSwitch unreadable lost => Sys2Proof.Machine.execImageCommitSwitch unreadable lost s
  | .handlerEntry core => Sys2Proof.Machine.execHandlerEntry core s
  | .deviceBoot found => Sys2Proof.Machine.execDeviceBoot found s
  | .folioCalibrationDone folio => Sys2Proof.Machine.execFolioCalibrationDone folio s
  | .quirePowerTransition quire => Sys2Proof.Machine.execQuirePowerTransition quire s
  | .quireWake quire => Sys2Proof.Machine.execQuireWake quire s
  | .quireWakeTimeout quire => Sys2Proof.Machine.execQuireWakeTimeout quire s
  | .governorLimit what => Sys2Proof.Machine.execGovernorLimit what s
  | .thermalEvent folio level => Sys2Proof.Machine.execThermalEvent folio level s
  | .controlCoreHalt core => Sys2Proof.Machine.execControlCoreHalt core s
  | .contextLoad ctx attrs => Sys2Proof.Machine.execContextLoad ctx attrs s
  | .folioAdmission folio passed mappedOut => Sys2Proof.Machine.execFolioAdmission folio passed mappedOut s
  | .spawnCommitHoldTimeout g => Sys2Proof.Machine.execSpawnCommitHoldTimeout g s
  | .settledPeriodEnd ctx va => Sys2Proof.Machine.execSettledPeriodEnd ctx va s
  | .transitPacketArrival p => Sys2Proof.Machine.execTransitPacketArrival p s

end Sys2Proof.Machine
end

