-- ==== Sys2Proof/Machine/Outside.lean ====
section
/-!
DEFINITION. What comes to the part from outside and has no row of the operation table: interrupts of the host (R171, R379), reads of BAR0
and of the colophon (R4, R335, R339, R352, R361, R438), images (R354, R440), and errors found in leaf SRAM, TLBs, walk caches, block
buffers and metadata caches (R402, R404).
-/

namespace Sys2Proof.Machine

/-! ### The host link -/

/-- An MSI of the host pends on a control core (R171, R379). -/
def hostMsi (s : State) (core : Fin 16) : State :=
  let k := s.core core.val
  if k.started && !k.halted then s.modCore core.val fun k => { k with irq := true } else s

/-- A register of a queue page, as a read returns it (Table 6 of R335, Table 4 of R361): the doorbell is write-only and reads zero, and
reserved offsets read zero (R4). -/
def pageRead (off : Nat) (p : QueuePage) : Nat :=
  match off with
  | 0x000 => p.sqBase
  | 0x008 => p.sqSize
  | 0x018 => p.sqHead
  | 0x020 => p.cqBase
  | 0x028 => p.cqSize
  | 0x030 => p.cqTail
  | 0x038 => p.cqHead
  | 0x040 => p.cqMsix
  | 0x080 => p.eqBase
  | 0x088 => p.eqSize
  | 0x090 => p.eqTail
  | 0x098 => p.eqHead
  | 0x0A0 => p.eqMsix
  | 0x0A8 => p.eqLost
  | _ => 0

/-- A byte of BAR0 (R335): the queue pages, `RPDROP` (R339) and `BOOTST` (R438); what the manual does not place is a free value. -/
def barByte (s : State) (off : Nat) : Byte :=
  if 0x100000 ≤ off ∧ off < 0x110000 then
    (bytesOf 8 (pageRead (off % 0x1000 / 8 * 8) (s.context (off / 0x1000 % 16)).page)).getD (off % 8) 0
  else if 0x2000 ≤ off ∧ off < 0x2004 then (bytesOf 4 s.drops).getD (off % 4) 0
  else if 0x2004 ≤ off ∧ off < 0x2008 then (bytesOf 4 (s.bootSt % 65536)).getD (off % 4) 0
  else Config.barByte s.tick off

/-- A host read of BAR0: its bytes go to the host. -/
def barRead (s : State) (off size : Nat) : State := { s with reads := s.reads ++ [(upTo size).map fun i => barByte s (off + i)] }

/-- A driver reads the colophon (R352): the device identity, the hash of the identity public key, the measurement log and the map of
quires mapped out; and the attestation report, once it is signed (R351). -/
def colophonRead (s : State) : State :=
  { s with reads := s.reads ++ [Config.deviceIdentity, Config.identityHash] ++ s.measured
      ++ [s.mapped.flatMap (bytesOf 2 ·)] ++ s.attested.toList }

/-! ### Images (R353, R354, R440) -/

/-- An image comes to the loader: a failing signature, or an image with `CTX` 0 from the host path, is class 0x0620 and leaves no trace;
otherwise its SHA-256 extends the colophon log. Its sections are then written by `IMGW` and `IMGCMT` of the loader's program. -/
def loadImage (s : State) (image : List Byte) (host signed : Bool) : State :=
  let ctx := field image 6 1
  if !signed || (host && ctx == 0) then writeRecord s (imageReport 0x0620 sevRefused 0 (some ctx))
  else { s with measured := s.measured ++ [sha256 image] }

/-! ### Errors of storage (R402, R404) -/

/-- A record of a leaf SRAM bank, with the gathering that holds the leaf (R393): `DETAIL` is the bank offset (R394). -/
def wordReport (s : State) (n la cls sev : Nat) : Report :=
  let r := memReport s { cls, sev, folio := folioOf n, uclass := 5, uindex := (4 * n + bankNum la) % 65536 }
    cls sev 0 0 (((s.leaf n).gath.bind s.gath).any Gathering.irrev) false .la la 0 (bankOffset la)
  match (s.leaf n).gath.bind s.gath with
  | some x => namingGath r x n
  | none => r

/-- A word of leaf SRAM is found in error: a corrected one is written back, and an uncorrectable one poisons its line and changes no data
bit. -/
def leafWord (s : State) (n la : Nat) (corrected : Bool) : State :=
  if corrected then writeRecord s (wordReport s n la 0x0310 sevCorrected)
  else (writeRecord s (wordReport s n la 0x0311 sevDeferred)).modLeaf n fun l => spoilLines l (la / 64 * 64) 64

/-- A record of an entry that failed parity, of the translation or block at a device address. -/
def parityReport (s : State) (folio uclass uindex : Nat) (ctx : Option Nat) (va detail : Nat) : Report :=
  memReport s { cls := 0x0318, sev := sevCorrected, folio, uclass, uindex, ctx } 0x0318 sevCorrected 0 0 false false .va va 0 detail

/-- The folio or hub, and the source, of a TLB (R357): a slice, or the first level of a control core. -/
def tlbSource (place : Nat) : Nat × Nat × Nat :=
  if place < 512 then (place / 64, 9, place) else (if place < 520 then 8 else 9, 0x0D, place - 512)

/-- An entry that fails parity is discarded: the translation is walked again, and the block fetched again. -/
def parityError (s : State) (what : ParityEntry) : State :=
  match what with
  | .tlb i second =>
    match s.tlb[i]? with
    | some t =>
      let (f, u, x) := tlbSource t.place
      writeRecord { s with tlb := s.tlb.eraseIdx i } (parityReport s f u x (some t.ctx) t.base (natOfBool (second && decide (t.place < 512))))
    | none => s
  | .walk i =>
    match s.walks[i]? with
    | some w =>
      let va := w.vpre * 2 ^ levelShift w.level
      writeRecord { s with walks := s.walks.eraseIdx i }
        (parityReport s w.place 0x0A (32 * w.place + Config.walkerOf s.tick % 32) (some w.ctx) va 2)
    | none => s
  | .block n i =>
    match (s.leaf n).blocks[i]? with
    | some b =>
      let r := parityReport s (folioOf n) 1 n none b.1 3
      let r := match (s.leaf n).gath.bind s.gath with
        | some x => namingGath r x n
        | none => r
      writeRecord (s.modLeaf n fun l => { l with blocks := l.blocks.eraseIdx i }) r
    | none => s

/-- A line of a port's metadata cache is uncorrectable (R404): code 15 for every block that it describes, 128 codes (log 117). -/
def metadataError (s : State) (port line : Nat) : State :=
  if ((s.port port).codes.contains line) then
    writeRecord { s with hbm := s.hbm.write (64 * line) (List.replicate 64 0xFF) }
      (memReport s { portReport (64 * line) 0 with ctx := none, folio := port / 32, uindex := port } 0x0316 sevDeferred 0 0 false false .pa
        (64 * line) 0 128)
  else s

/-- What comes from outside takes effect. -/
def takeOutside (s : State) : Outside → Host.Outcome State Fault Refusal
  | .msi core => .next (hostMsi s core)
  | .barRead off size => .next (barRead s off size)
  | .colophonRead => .next (colophonRead s)
  | .loadImage image host signed => .next (loadImage s image host signed)
  | .leafWord n la corrected =>
    if Config.leafCount ≤ n ∨ Config.leafBytes ≤ la then .fault .noSuchUnit else .next (leafWord s n la corrected)
  | .parity what => .next (parityError s what)
  | .metadata port line => .next (metadataError s port line)

end Sys2Proof.Machine
end

