-- ==== Sys2Proof/Machine/Turns.lean ====
section
/-!
DEFINITION. What a step does next: the issue order of a leaf (R31), the steps that can come about at a state, and where
a word stands that a step fetches next.
-/

namespace Sys2Proof.Machine

/-! ### Issue order (R31) -/

/-- Slots of a strand's block that are ready and have not issued. -/
def readySlots (s : State) (c : CoreId) : List Nat :=
  match (s.strand c).block with
  | some b => (upTo b.slots.length).filter fun i => ready s c i && (b.slots.getD i { word := 0 }).status == .idle
  | none => []

/-- Slots that have issued and wait to perform. -/
def waitSlots (s : State) (c : CoreId) : List Nat :=
  match (s.strand c).block with
  | some b => (upTo b.slots.length).filter fun i => ready s c i && (b.slots.getD i { word := 0 }).status == .waiting
  | none => []

/-- The bank of the scratchpad that an instruction accesses with its L operand, an `APSET` with R (LA bits [7:6]): that of a load, a
store, an atomic, a leaf `WAITA` or an `MBAR`, of the record of `CP`, `FLAG`, `KVOP`, `FLCFG`, `VPCFG`, `APSET` and `IMGW`, of the
line of a `SPUSH` or `SPOP`, and of the destination of `ELOGRD` (R31, R175). -/
def bankOf (x : Slot) : Option Nat :=
  let b := bankNum x.l.val.toNat
  match x.instr with
  | some (.ldl _ _ _ _ _) | some (.stl _ _ _ _ _) | some (.casl _ _ _ _ _) => some b
  | some (.atomlAdd _ _ _ _) | some (.atomlAnd _ _ _ _) | some (.atomlOr _ _ _ _) | some (.atomlXor _ _ _ _)
  | some (.atomlXchg _ _ _ _) | some (.atomlSmin _ _ _ _) | some (.atomlSmax _ _ _ _) | some (.atomlFadd _ _ _ _) => some b
  | some (.waitaLeaf _ _ _ _) | some (.waitaRound _ _ _ _) => some b
  | some (.mbarInit _ _) | some (.mbarArrive _ _) | some (.mbarExpect _ _) | some (.mbarTest _ _) | some (.mbarWait _ _) => some b
  | some (.cpLd _ _) | some (.cpSt _ _) | some (.cpSend _ _) | some (.cpMc _ _) | some (.cpFib _ _) | some (.flag _ _) => some b
  | some (.kvopMass _ _) | some (.kvopEvict _ _) | some (.kvopStat _ _) => some b
  | some (.flcfg _ _ _) | some (.vpcfg _ _) | some (.spush .data _ _ _) | some (.spop _ _ _ _) => some b
  | some (.imgw _ _) | some (.elogrd _ _) => some b
  | some (.apset _ _) => some (bankNum x.r.val.toNat)
  | _ => none

/-- The instruction uses the special function unit. -/
def usesSfu (x : Slot) : Bool :=
  match x.instr with
  | some (.fsfuRcp _) | some (.fsfuRsq _) | some (.fsfuSqrt _) | some (.fsfuExp2 _) | some (.fsfuLog2 _)
  | some (.fsfuTanh _) | some (.fsfuSigm _) | some (.fsfuSinp _) | some (.fsfuCosp _) => true
  | _ => false

/-- `Fits` of R31 for the second issue of a cycle, after the slot `x`. -/
def fitsAfter (x y : Slot) : Bool :=
  !(usesSfu x && usesSfu y) && match bankOf x, bankOf y with
    | some a, some b => a != b
    | _, _ => true

/-- Ready slots of a leaf in the order of the procedure of R31: strands in turn from the first, lowest slot first. -/
def issueOrder (s : State) (n first : Nat) : List (Nat × Nat) :=
  let ns := (s.leaf n).strands.length
  (upTo ns).flatMap fun k =>
    let t := (first + k) % ns
    (readySlots s (strandOf n t)).map fun i => (t, i)

/-- Position (t, i) comes after (t0, i0) in the order that starts at a strand. -/
def laterIn (ns first t0 i0 t i : Nat) : Bool :=
  let d := fun x => (x + ns - first) % ns
  decide (d t0 < d t) || (t == t0 && decide (i0 < i))

/-- The second issue of the cycle that issues (t0, i0) first: the next instruction in order that is ready and fits. -/
def secondAfter (s : State) (n first t0 i0 : Nat) : Option (Nat × Nat) :=
  let x := s.slot (strandOf n t0) i0
  (issueOrder s n first).find? fun p =>
    laterIn (s.leaf n).strands.length first t0 i0 p.1 p.2 && fitsAfter x (s.slot (strandOf n p.1) p.2)

/-- The second issue of the cycle under way: chosen with the first, and made unless the first has taken it away (a fault of the strand, the
end of its block). -/
def secondIssue (s : State) (n : Nat) : Option (Nat × Nat) :=
  match (s.leaf n).cycle with
  | some p => if (readySlots s (strandOf n p.1)).contains p.2 then some p else none
  | none => none

/-- The first issue of a new cycle. -/
def firstIssue (s : State) (n : Nat) : Option (Nat × Nat) :=
  let l := s.leaf n
  (issueOrder s n ((l.last + 1) % l.strands.length)).head?

/-- The next issue of a leaf: the second of its cycle, or else the first of a new one. -/
def leafIssue (s : State) (n : Nat) : List Turnout :=
  ((secondIssue s n).or (firstIssue s n)).toList.map fun p => .issue (strandOf n p.1) p.2

/-- The instruction at a slot issues, and is in focus; the leaf notes the strand that it serves and, at the first issue of a cycle, the
second one. An instruction that has issued and waits is only tried again. -/
def issueAt (s : State) (c : CoreId) (i : Nat) : State :=
  let s := match c with
    | .strand n t =>
      if (s.slot c i).status == SlotStatus.waiting then s
      else
        let second := secondIssue s n == some (t.val, i)
        s.modLeaf n fun l =>
          { l with
            last := t.val
            cycle := if second then none else secondAfter s n ((l.last + 1) % l.strands.length) t.val i }
    | .control _ => s
  { s with focus := ⟨c, i⟩ }

/-! ### Choice of a turn -/

/-- Steps of a strand or a control core besides the first issue of its instructions. -/
def coreTurns (s : State) (c : CoreId) : List Turnout :=
  (waitSlots s c).map (Turnout.issue c) ++ [.event (.blockFetch c), .event (.blockCommit c), .event (.deadlineOverrun c),
    .event (.noProgressWatchdog c), .event (.waitaWake c)]

/-- Steps of a flow unit. -/
def unitTurns (n : Nat) (u : FUnit) : List Turnout :=
  [.event (.scannerStep n u), .event (.scannerRefill n u), .event (.skipReceive n u), .event (.isectStep n u),
    .event (.unionStep n u), .event (.repeatStep n u), .event (.reduceStep n u), .event (.spaccStep n u),
    .event (.lwriteStep n u), .event (.gatherStep n u), .event (.scatterStep n u), .event (.filterStep n u),
    .event (.coalesceStep n u), .event (.agenStep n u)]

/-- Steps of a leaf: issue, strands, units, the vector pipeline, tiles and channels. -/
def leafTurns (s : State) (n : Nat) : List Turnout :=
  leafIssue s n ++ (upTo (s.leaf n).strands.length).flatMap (fun t => coreTurns s (strandOf n t))
    ++ unitTurns n .f0 ++ unitTurns n .f1 ++ [.event (.vpStep n), .event (.tileSwap n)]
    ++ (upTo 8).flatMap fun p => [.event (.tokenDelivery n (Fin.ofNat 8 p)), .event (.creditReturn n (Fin.ofNat 8 p))]

/-- Steps of a round controller. -/
def gathTurns (g : Nat) (x : Gathering) : List Turnout :=
  [.event (.faultReport g), .event (.irrevocableGrant g), .event (.roundCommit g), .event (.roundVoid g), .event (.voidLimit g),
    .event (.contextSave g), .event (.nodeRetire x.inst x.retire)]
    ++ x.kettles.map fun k => .event (.kettleComplete g (Fin.ofNat 64 k.1))

/-- Steps of a control core. -/
def controlTurns (s : State) (k : Nat) : List Turnout :=
  let c : CoreId := .control (Fin.ofNat 16 k)
  (readySlots s c).map (Turnout.issue c) ++ coreTurns s c ++ [.event (.handlerEntry (Fin.ofNat 16 k))]

/-- Steps of the memory system. -/
def memoryTurns (s : State) : List Turnout :=
  s.reqs.flatMap (fun (r : Nat × Request) => [.event (.tlbLookup r.1), .event (.pageWalk r.1),
      .event (.memoryPortService (Fin.ofNat 256 (portOf r.2.pa)))])
    ++ s.misses.map (fun (m : Nat × Miss) => .event (.pageWalk m.1))
    ++ s.copies.flatMap (fun (c : Nat × Copy) => (upTo (max 1 c.2.todo.length)).map fun l => .event (.moverLineLand c.1 l))
    ++ s.copies.map (fun (c : Nat × Copy) => .event (.nodeRetire c.2.inst c.2.node))
    ++ s.evicts.flatMap (fun (e : Nat × List EvictReq) =>
      [.event (.kvGateCheck (Fin.ofNat 64 e.1)), .event (.kvEviction (Fin.ofNat 64 e.1))])
    ++ s.savers.map fun x => .event (.contextSave x.1)

/-- Steps of the Spine for a context. -/
def ctxTurns (k : Fin 16) : List Turnout :=
  [.event (.launchAdmission (.ring k)), .event (.launchAdmission (.frame k)), .event (.spawnBacklogAdmit k),
    .event (.responseDelivery k)]

/-- Steps of the Spine, the Flezal engines, quires and the image commit. -/
def spineTurns (s : State) : List Turnout :=
  [.event .spineDispatch, .event (.launchAdmission .firmware), .event (.imageCommitSwitch [] [])]
    ++ (upTo 16).flatMap (fun k => ctxTurns (Fin.ofNat 16 k))
    ++ s.pool.flatMap (fun (e : Nat × PoolEntry) => [.event (.bind e.1), .event (.copyNodeRun e.1)])
    ++ s.quires.flatMap (fun (q : Nat × Quire) =>
      [.event (.quireWake q.1), .event (.mxCommandStart q.1), .event (.mxCommandComplete q.1)])
    ++ s.senders.map (fun (e : Nat × Sender) => .event (.countedWriteIssue e.1))
    ++ s.receivers.map fun (e : Nat × Receiver) => .event (.flagComplete e.1)

/-- The steps that can come about at a state by themselves; one that is not enabled changes nothing. -/
def openTurns (s : State) : List Turnout :=
  s.leaves.flatMap (fun x => leafTurns s x.1) ++ s.gaths.flatMap (fun (g : Nat × Gathering) => gathTurns g.1 g.2)
    ++ (upTo 16).flatMap (controlTurns s) ++ memoryTurns s ++ spineTurns s

/-- The next turn: the agenda's, or one of those open; `tick` advances. -/
def nextTurn (s : State) : Option Turnout × State :=
  match s.agenda with
  | t :: ts => (some t, { s with agenda := ts, tick := s.tick + 1 })
  | [] =>
    let ts := openTurns s
    (ts[pickOf s ts.length]?, { s with tick := s.tick + 1 })

/-! ### The word that a step fetches next -/

/-- The strand whose slot holds it. -/
def wordCore : CoreId := .strand 0 0

/-- An operand that has arrived with a value. -/
def givenOperand (v : Word) : Operand := { targeted := true, value := some v }

/-- A slot with its operands given: 0 to L and R, and 1 to T. -/
def givenSlot (w : Word32) : Slot :=
  { word := w, l := givenOperand 0, r := givenOperand 0, t := givenOperand 1, ports := sendsOf w }

/-- The gathering that holds the strand: one leaf's quire, a task of CTX0 in an irrevocable round. -/
def wordGath : Gathering :=
  { ctx := 0, inst := 0, tag := 0, irrev := true,
    nodes := [{ node := 0, qx := 0, qy := 0, w := 1, h := 1, slot := 0, partw := 0, code := 0, cfg := 0, occ := 0, recAt := 0 }] }

/-- The machine with a word as the only slot of a block in flight, whose issue comes next. -/
def placeWord (s : State) (w : Word32) : State :=
  let s := { s with gaths := tset s.gaths 0 wordGath, agenda := .issue wordCore 0 :: s.agenda }
  let b : Block := { addr := 0, head := 0, slots := [givenSlot w] }
  s.setLeaf 0 { s.leaf 0 with gath := some 0, strands := [{ block := some b }] }

end Sys2Proof.Machine
end

