-- ==== Sys2Proof/Machine/Step.lean ====
section
/-!
DEFINITION. One step of the machine: the next turn of the agenda, or one that can come about by itself.
-/

namespace Sys2Proof.Machine

/-- One step: time of the model advances, and the next turn is taken: an instruction issues, an event comes about, or something comes from
outside. -/
def step (s : State) : Host.Outcome State Fault Refusal :=
  match nextTurn s with
  | (some (.issue c i), s) =>
    match (s.slot c i).instr with
    | some x => exec x (issueAt s c i)
    | none => idle s
  | (some (.event x), s) => exec x s
  | (some (.outside x), s) => takeOutside s x
  | (none, s) => idle s

/-- The machine with an instruction's word where the next step fetches it. -/
def State.withFetchWord (s : State) (_nbits w : Nat) : State := placeWord s (BitVec.ofNat 32 w)

end Sys2Proof.Machine
end

