-- ==== Sys2Proof/Safety.lean ====
section
/-!
DEFINITION. What counts as a safe run: the invariants that claims are stated with, and the conditions under which an instruction
executes.
-/

namespace Sys2Proof.Machine

/-- The step answers a next state: the machine neither faults nor is refused. -/
def isNext {α β γ : Type} (x : Host.Outcome α β γ) : Bool :=
  match x with
  | .next _ => true
  | _ => false

/-! ### The instruction in focus -/

/-- The strand in focus, and the slot in focus. -/
def State.me (s : State) : CoreId := s.focus.core
def State.here (s : State) : Slot := s.slot s.focus.core s.focus.slot
/-- The leaf of the strand in focus; 0 for a control core, which has none. -/
def State.lf (s : State) : Nat := (coreLeaf s.focus.core).getD 0
/-- The operands of the slot in focus. -/
def State.opL (s : State) : Word := s.here.l.val
def State.opR (s : State) : Word := s.here.r.val
def State.opT (s : State) : Word := s.here.t.val

/-- The slot in focus holds the instruction, may issue (R31, R120, R368, R396), and is not nullified (R122). -/
abbrev fires (s : State) (x : Instr) : Prop :=
  s.here.instr = some x ∧ ready s s.focus.core s.focus.slot = true ∧ nullified (formOf x) s.here = false

/-- The slot in focus holds the instruction, may issue, and is nullified. -/
abbrev nulls (s : State) (x : Instr) : Prop :=
  s.here.instr = some x ∧ ready s s.focus.core s.focus.slot = true ∧ nullified (formOf x) s.here = true

/-- The slot in focus of `s` delivers from the state `t`, and nothing else happens. -/
def delivers (s t : State) (ta tb : Target) (va vb : Option Word) : Host.Outcome State Fault Refusal :=
  .next (deliver2 t s.focus.core s.focus.slot ta tb va vb)

/-- The slot in focus of `s` has performed, its output counts (R126), and it delivers from the state `t`. -/
def completes (s t : State) (x : Instr) (va vb : Option Word) : Host.Outcome State Fault Refusal :=
  .next (complete (formOf x) t s.focus.core s.focus.slot va vb)

/-- An n-bit result extended to an operand (R149). -/
def extended (sgn : Bool) {n : Nat} (x : BitVec n) : Word := if sgn then x.signExtend 64 else x.setWidth 64

/-- A strand that the part has: of a leaf whose gathering runs it, or a control core. -/
def State.hasCore (s : State) : CoreId → Bool
  | .strand n t => decide (t.val < (s.leaf n).strands.length)
  | .control k => decide (k.val < s.cores.length)

/-! ### When an access of the strand in focus goes through -/

/-- The bytes lie in the scratchpad, their region may be reached (R74, R394), nothing that is read of them is poisoned (R403),
nothing that R291 orders before the access is outstanding, and an irrevocable act has its grant (R41). -/
def mayPad (s : State) (la n acc : Nat) (rel act : Bool) : Prop :=
  (if coreIsControl s.me then (if Config.localBytes < la + n then some 3 else none)
    else laRefused (s.leaf ((coreLeaf s.me).getD 0)).partw la n (acc != accLoad)) = none ∧
  (!coreIsControl s.me && acc != accStore && leafPoisoned (s.leaf ((coreLeaf s.me).getD 0)) la n) = false ∧
  (acquirePending s s.me || (rel && releasePending s s.me act) || copyPending s s.me la n) = false ∧
  (act && !irrevocable s s.me) = false

/-- The scratchpad address is in range and aligned (R376), and its bytes may be reached. -/
def mayAccess (s : State) (la n acc : Nat) (rel act : Bool) : Prop :=
  la < (if coreIsControl s.me then Config.localBytes else Config.leafBytes) ∧ la % n = 0 ∧ mayPad s la n acc rel act

/-- The operands of an `MBAR` are good (R187, R376), and its object may be reached. -/
def mayMbar (s : State) (la : Nat) (ok rel : Bool) : Prop :=
  la % 64 = 0 ∧ inKeep s s.me la = true ∧ ok = true ∧ mayAccess s la 16 accAtomic rel false

/-- A device address is in range and aligned (R376), and nothing that R291 orders before its access is outstanding. -/
def mayRequest (s : State) (va n : Nat) (rel : Bool) (scope : Scope) : Prop :=
  va < 2 ^ 52 ∧ va % n = 0 ∧ (acquirePending s s.me || (rel && releasePending s s.me (scopeWide scope))) = false

/-- The request of the slot in focus. -/
def focusRequest (s : State) (va n : Nat) (write act acq rel : Bool) (scope : Scope) (op : ReqOp) : Request :=
  { core := s.me, slot := s.focus.slot, blk := (s.strand s.me).blkinrnd, acq, rel, gath := s.gathOf s.me,
    ctx := s.ctxOf s.me, va, size := n, write, act, scope := scope.code, op }

/-- The machine after a request has left: it stands among the requests, and its slot owes its deliveries. -/
def sends (s : State) (r : Request) : Host.Outcome State Fault Refusal :=
  .next (({ s with nextId := s.nextId + 1, reqs := tset s.reqs s.nextId r } : State).modSlot s.me s.focus.slot
    fun x => { x with status := .owing })

/-! ### When a unit of a leaf works -/

/-- A flow unit can act: it runs in one of some modes, `FLSTOP` does not stop it here, and the tokens that it had made have left. -/
def unitReady (s : State) (n : Nat) (u : FUnit) (modes : List Nat) : Prop :=
  n < Config.leafCount ∧ unitRuns s n u = true ∧ modes.contains (s.unit n u).mode = true ∧
  ((s.unit n u).stopping && !unitBusy s n u) = false ∧
  ((flushUnit s n u).unit n u).run = true ∧ ((flushUnit s n u).unit n u).outq = []

/-- A flow unit can act, and its step `act` reaches the state `t` without an error, a wait or a request for the grant. -/
def unitActs (s : State) (n : Nat) (u : FUnit) (modes : List Nat) (act : State → Nat → FUnit → Ran) (t : State) : Prop :=
  unitReady s n u modes ∧ act (flushUnit s n u) n u = (t, none)

/-- Input i of a unit is port p, and its head is a token that no rule calls an error by itself (R232, R384). -/
def holdsTok (s : State) (n : Nat) (u : FUnit) (i p : Nat) (t : Token) : Prop :=
  (s.unit n u).inp i = some p ∧ headOf s n p = some t ∧ (headBad s n p i t).isNone = true

/-- The head of input i removed and counted (R235, R246). -/
def tookTok (s : State) (n : Nat) (u : FUnit) (i p : Nat) (t : Token) : State :=
  (dropHead s n p).modUnit n u fun x =>
    { x with
      incnt := lmod x.incnt i fun c => (c + 1) % 2 ^ 32
      taken := lmod x.taken i (· + 1)
      st := markSeen (absorbs x) i t x.st }

/-- A step of a unit is over: the tokens that it made leave, and those that it has finished are counted (R246, R267). -/
def stepped (t : State) (n : Nat) (u : FUnit) : State := (flushUnit t n u).modUnit n u countSettled

/-- The vector pipeline runs, has sent what it had made, and its step reaches the state `t` without an error or a wait. -/
def vpActs (s : State) (n : Nat) (t : State) : Prop :=
  n < Config.leafCount ∧ vpRuns s n = true ∧ ((flushVp s n).vp n).run = true ∧ ((flushVp s n).vp n).outq = [] ∧
  ((flushVp s n).vp n).ending = false ∧ vpAct (flushVp s n) n = (t, none)

/-! ### What the machine keeps -/

/-- The canonical form of every memory that a leaf table holds. -/
def leavesWf (t : Table Leaf) : Bool := t.all fun x => x.2.mem.wf

/-- What every step keeps: each memory stands in its canonical form, and the part has its 16 contexts, 16 control cores with 64
registers each, 8 folios and 64 apertures (R10, R19, R20, R21, R165, R280). -/
def State.sound (s : State) : Bool :=
  s.hbm.wf && s.host.wf && leavesWf s.leaves && s.cores.all (fun k => k.mem.wf && k.regs.length == 64)
    && s.shadow.all (fun x => x.2.wf) && s.config.all (fun x => x.2.wf)
    && s.papers.all (fun p => leavesWf p.2.leaves) && s.evicted.all (fun v => v.data.wf)
    && s.batches.all (fun b => b.images.all fun x => x.2.wf) && s.failed.all (fun t => t.all fun x => x.2.wf)
    && s.contexts.length == 16 && s.cores.length == 16 && s.folios.length == 8 && s.apertures.length == 64

/-! ### What an instruction leaves alone -/

/-- The parts of a strand, a leaf and a control core that scalar instructions of a block in flight leave alone: all but the block
itself and the mark that it has faulted, the sends and channels, the cause of a fault, and the news of its record in the log. -/
def Strand.kept (x : Strand) : Strand := { x with block := none, faulted := false }
def Leaf.kept (x : Leaf) : Leaf := { x with strands := [], outputs := [], sendq := [] }
def Core.kept (x : Core) : Core := { x with strand := {}, cause := none, news := false }
def Gathering.kept (x : Gathering) : Gathering := { x with queue := [] }
/-- The rest of the machine; the records of a control core's own faults reach the device log with the clock that they read, and its block's
claims and misses go. -/
def State.kept (s : State) : State :=
  { s with
    leaves := []
    gaths := []
    cores := []
    folios := s.folios.map fun x => { x with cycles := 0 }
    hubClocks := []
    nextId := 0
    log := []
    logLost := 0
    seqs := []
    reqs := []
    copies := []
    evicts := []
    savers := []
    misses := []
    batches := [] }

/-- `t` differs from `s` in a block in flight, its sends and its fault alone. -/
structure framed (s t : State) : Prop where
  strand : ∀ c, (t.strand c).kept = (s.strand c).kept
  leaf   : ∀ n, (t.leaf n).kept = (s.leaf n).kept
  core   : ∀ k, (t.core k).kept = (s.core k).kept
  gath   : ∀ g, (t.gath g).map Gathering.kept = (s.gath g).map Gathering.kept
  rest   : t.kept = s.kept
  leafOnly : coreIsControl s.me = false → t.reqs = s.reqs ∧ t.copies = s.copies ∧ t.evicts = s.evicts ∧ t.savers = s.savers ∧
    t.misses = s.misses ∧ t.batches = s.batches ∧ t.log = s.log ∧ t.logLost = s.logLost ∧ t.seqs = s.seqs ∧ t.nextId = s.nextId ∧
    t.folios = s.folios ∧ t.hubClocks = s.hubClocks

/-- Where and how many bytes of its scratchpad an instruction with a plain store writes when it performs: `STL`, `ATOML`, `CASL`, `SPOP`,
and the `MBAR`s that update their object. -/
def storeOf (s : State) : Instr → Option (Nat × Nat)
  | .stl _ _ w _ _ => some (s.opL.toNat, accSize w)
  | .atomlAdd _ _ _ _ | .atomlAnd _ _ _ _ | .atomlOr _ _ _ _ | .atomlXor _ _ _ _ | .atomlXchg _ _ _ _ | .atomlSmin _ _ _ _
  | .atomlSmax _ _ _ _ => some (s.opL.toNat, 8)
  | .atomlFadd _ _ _ _ => some (s.opL.toNat, 4)
  | .casl _ _ w _ _ => some (s.opL.toNat, casSize w)
  | .spop _ _ _ _ => some (s.opL.toNat, 64)
  | .mbarInit _ _ | .mbarArrive _ _ | .mbarExpect _ _ => some (s.opL.toNat, 16)
  | _ => none

/-- The instructions that do nothing but deliver a value and raise flags (rows 0x00 to 0x3F, class V). -/
def valueInstr : Instr → Bool
  | .rd _ _ _ | .movi _ _ | .movhi _ _ | .mov _ _ | .null _ _ | .sysrd _ _ => true
  | .add _ _ _ _ _ | .sub _ _ _ _ _ | .mul _ _ _ _ _ | .mulh _ _ _ _ | .div _ _ _ _ | .rem _ _ _ _ | .and _ _ _ _ | .or _ _ _ _
  | .xor _ _ _ _ | .andn _ _ _ _ | .shl _ _ _ _ | .shr _ _ _ _ | .sar _ _ _ _ | .rot _ _ _ _ | .min _ _ _ _ | .max _ _ _ _ => true
  | .cmp _ _ _ _ _ | .cmpi _ _ _ _ | .sel _ _ | .bitcPopc _ _ _ | .bitcClz _ _ _ | .bitcCtz _ _ _ | .bitcBrev _ _ _
  | .bitcBswap _ _ _ | .bfx _ _ _ _ | .bfi _ _ | .lea _ _ _ | .addi _ _ | .andi _ _ | .ori _ _ | .xori _ _ | .muli _ _
  | .shfiShl _ _ | .shfiShr _ _ | .shfiSar _ _ | .shfiRot _ _ | .adc _ _ _ => true
  | .fadd _ _ _ _ _ _ | .fsub _ _ _ _ _ _ | .fmul _ _ _ _ _ _ | .fma _ _ _ _ _ _ | .fmin _ _ _ _ _ | .fmax _ _ _ _ _
  | .fcmp _ _ _ _ | .fcvt _ _ _ _ _ | .fsfuRcp _ | .fsfuRsq _ | .fsfuSqrt _ | .fsfuExp2 _ | .fsfuLog2 _ | .fsfuTanh _
  | .fsfuSigm _ | .fsfuSinp _ | .fsfuCosp _ | .fclass _ _ _ | .qscale _ _ _ | .qcvt _ _ _ _ _ | .qdeq _ _ _ _ _
  | .fsgnAbs _ _ _ | .fsgnNeg _ _ _ | .fsgnCopysign _ _ _ => true
  | _ => false

end Sys2Proof.Machine
end

