-- ==== Sys2Proof/WellFormed.lean ====
section
/-!
DEFINITION. Well-formed instructions: encoded ones whose fields the decode checks accept (R368, R373), and events whose
operands name a unit that the part has (R1, R9 to R21).
-/

namespace Sys2Proof

/-- A leaf, a quire, a gathering rectangle's part: numbers that the part has (R1). -/
def wfLeaf (n : Nat) : Bool := decide (n < 65536)
def wfQuire (q : Nat) : Bool := decide (q < 4096)
/-- A strand's core (R20, R29). -/
def wfCore : CoreId → Bool
  | .strand n _ => wfLeaf n
  | .control _ => true

/-- An index that R88 assigns. -/
def wfSysIndex (x : Nat) : Bool :=
  x ≤ 0x008 || (0x010 ≤ x && x ≤ 0x012) || x == 0x018 || (0x020 ≤ x && x ≤ 0x028) || x == 0x030 || x == 0x031
    || x == 0x040 || (0x080 ≤ x && x ≤ 0x083)

/-- An index that some strand may write (R88). -/
def wfSysWrite (x : Nat) : Bool := x == 0x010 || x == 0x011 || x == 0x080 || x == 0x081 || x == 0x082

/-- A packet's payload is as long as its `LEN` says (R321). -/
def wfPacket (p : Packet) : Bool := p.data.length == p.len.toNat + 1

/-- The instruction is well formed. -/
def Instr.wf : Instr → Bool
  | .rnd d => d != 0
  | .sysrd _ x => wfSysIndex x.toNat
  | .syswr x => wfSysWrite x.toNat
  | .blockFetch c | .blockCommit c | .deadlineOverrun c | .noProgressWatchdog c | .waitaWake c
  | .remoteWatchReread c _ | .swapWaitExpiry c => wfCore c
  | .tileSwap n | .vpStep n => wfLeaf n
  | .mxCommandStart q | .mxCommandComplete q | .quirePowerTransition q | .quireWake q | .quireWakeTimeout q => wfQuire q
  | .scannerStep n _ | .scannerRefill n _ | .skipReceive n _ | .isectStep n _ | .unionStep n _ | .repeatStep n _
  | .reduceStep n _ | .spaccStep n _ | .lwriteStep n _ | .gatherStep n _ | .scatterStep n _ | .filterStep n _
  | .coalesceStep n _ | .agenStep n _ | .tokenDelivery n _ | .creditReturn n _ => wfLeaf n
  | .meshFlitRetry n _ _ _ | .meshLinkFailure n _ => wfLeaf n
  | .putArrival p | .pushArrival p | .ratomArrival p | .rloadArrival p | .rdataArrival p | .flagArrival p
  | .flagdoneArrival p | .resendArrival p | .transitPacketArrival p => wfPacket p
  | _ => true

end Sys2Proof
end

