-- ==== Sys2Proof/Certificates/Slice0/Obligations.lean ====
section
/-!
DEFINITION. The statements for the provers: what the manual says each instruction and each event of the ZD8 does, what they leave
alone, and what every step keeps.
-/

set_option Elab.async false

open Sys2Proof Sys2Proof.Machine

/-! ### Scalar instructions: each runs, and delivers the value that the manual gives -/

/-- R140, R146: the moves and `SYSRD`, for every state in which the slot in focus fires; R79, R403: `RD` of a register whose line is
poisoned is class 0x0314. -/
def Obligations.MovesDeliver : Prop := ∀ s : State,
  (∀ g tb ta, fires s (.rd g tb ta) →
    (regSick s s.me g.val = none →
      exec (.rd g tb ta) s = delivers s s ta tb (some (readReg s s.me g.val)) (some (readReg s s.me g.val))) ∧
    (∀ la, regSick s s.me g.val = some la →
      exec (.rd g tb ta) s = .next (raiseFault s s.me (laReport s s.me 0 accLoad la 0x0314 1) 1))) ∧
  (∀ ta imm, fires s (.movi ta imm) →
    exec (.movi ta imm) s = delivers s s ta .none (some (imm.signExtend 64)) (some (imm.signExtend 64))) ∧
  (∀ ta imm, fires s (.movhi ta imm) →
    exec (.movhi ta imm) s =
      delivers s s ta .none (some (s.opL <<< 16 ||| imm.setWidth 64)) (some (s.opL <<< 16 ||| imm.setWidth 64))) ∧
  (∀ tb ta, fires s (.mov tb ta) → exec (.mov tb ta) s = delivers s s ta tb (some s.opL) (some s.opL)) ∧
  (∀ tb ta, fires s (.null tb ta) → exec (.null tb ta) s = delivers s s ta tb none none) ∧
  (∀ ta idx, fires s (.sysrd ta idx) →
    exec (.sysrd ta idx) s =
      delivers s s ta .none (some (sysValue s s.me idx.toNat)) (some (sysValue s s.me idx.toNat)))

/-- R128, R142, R143: control transfers settle their block's control output, with a transfer when the condition holds. -/
def Obligations.TransfersSettle : Prop := ∀ s : State,
  (∀ cond off, fires s (.br cond off) →
    exec (.br cond off) s = .next (transfer s s.me s.focus.slot
      (if condHolds cond s.opL then some (.goto (branchTarget (headerOf s s.me) off)) else none))) ∧
  (∀ cond off, fires s (.call cond off) → condHolds cond s.opL = true →
    exec (.call cond off) s = .next (transfer (pendWrite s s.me s.focus.slot 63 (linkOf s s.me)) s.me s.focus.slot
      (some (.goto (branchTarget (headerOf s s.me) off))))) ∧
  (∀ cond off, fires s (.call cond off) → condHolds cond s.opL = false →
    exec (.call cond off) s = .next (transfer s s.me s.focus.slot none)) ∧
  (fires s .brr → exec .brr s = .next (transfer s s.me s.focus.slot (some (.goto s.opL.toNat)))) ∧
  (fires s .exit → exec .exit s = .next (transfer s s.me s.focus.slot (some (.finish false)))) ∧
  (fires s .tdone → exec .tdone s = .next (transfer s s.me s.focus.slot (some (.finish true))))

/-- R144, R145, R146: `RND`, `TRAP`, `BKPT` and `SYSWR` note in the block in flight what its commit is to do. -/
def Obligations.CommitActsNoted : Prop := ∀ (s : State) (b : Block), (s.strand s.me).block = some b →
  (∀ dl, fires s (.rnd dl) → b.rnd = none →
    exec (.rnd dl) s = .next (complete noForm (s.modBlock s.me fun b => { b with rnd := some dl.toNat })
      s.me s.focus.slot none none)) ∧
  (∀ imm, fires s (.trap imm) →
    exec (.trap imm) s = .next (complete noForm
      (s.modBlock s.me fun b => { b with traps := b.traps ++ [(s.focus.slot, false, imm.toNat)] })
      s.me s.focus.slot none none)) ∧
  (∀ imm, fires s (.bkpt imm) →
    exec (.bkpt imm) s = .next (complete noForm
      (s.modBlock s.me fun b => { b with traps := b.traps ++ [(s.focus.slot, true, imm.toNat)] })
      s.me s.focus.slot none none)) ∧
  (∀ idx, fires s (.syswr idx) → (b.sys.any fun x => x.1 == idx.toNat) = false →
    exec (.syswr idx) s = .next (complete noForm
      (s.modBlock s.me fun b => { b with sys := b.sys ++ [(idx.toNat, s.opL)] }) s.me s.focus.slot none none))

/-- R149: the sixteen operations of row 0x10 deliver the result of `intOp` and raise its flags. -/
def Obligations.IntegerRowDelivers : Prop := ∀ (s : State) (w : IntWidth) (sgn sat : Bool) (tb ta : Target),
  let d := fun (op : IOp) (sat : Bool) =>
    let v := intOp op w sgn sat s.opL s.opR
    delivers s (raiseFlags s s.me v.2) ta tb (some v.1) (some v.1)
  (fires s (.add w sgn sat tb ta) → exec (.add w sgn sat tb ta) s = d .add sat) ∧
  (fires s (.sub w sgn sat tb ta) → exec (.sub w sgn sat tb ta) s = d .sub sat) ∧
  (fires s (.mul w sgn sat tb ta) → exec (.mul w sgn sat tb ta) s = d .mul sat) ∧
  (fires s (.mulh w sgn tb ta) → exec (.mulh w sgn tb ta) s = d .mulh false) ∧
  (fires s (.div w sgn tb ta) → exec (.div w sgn tb ta) s = d .div false) ∧
  (fires s (.rem w sgn tb ta) → exec (.rem w sgn tb ta) s = d .rem false) ∧
  (fires s (.and w sgn tb ta) → exec (.and w sgn tb ta) s = d .and false) ∧
  (fires s (.or w sgn tb ta) → exec (.or w sgn tb ta) s = d .or false) ∧
  (fires s (.xor w sgn tb ta) → exec (.xor w sgn tb ta) s = d .xor false) ∧
  (fires s (.andn w sgn tb ta) → exec (.andn w sgn tb ta) s = d .andn false) ∧
  (fires s (.shl w sgn tb ta) → exec (.shl w sgn tb ta) s = d .shl false) ∧
  (fires s (.shr w sgn tb ta) → exec (.shr w sgn tb ta) s = d .shr false) ∧
  (fires s (.sar w sgn tb ta) → exec (.sar w sgn tb ta) s = d .sar false) ∧
  (fires s (.rot w sgn tb ta) → exec (.rot w sgn tb ta) s = d .rot false) ∧
  (fires s (.min w sgn tb ta) → exec (.min w sgn tb ta) s = d .min false) ∧
  (fires s (.max w sgn tb ta) → exec (.max w sgn tb ta) s = d .max false)

/-- Table 4 of R149 in the arithmetic of bit vectors, for every width and signedness, without `SAT`. -/
def Obligations.IntegerResults : Prop := ∀ (w : IntWidth) (sgn : Bool) (l r : Word),
  let n := widthOf w
  let a := l.setWidth n
  let b := r.setWidth n
  let k := r.toNat % n
  let is := fun (op : IOp) (x : BitVec n) => intOp op w sgn false l r = (extended sgn x, 0)
  is .add (a + b) ∧ is .sub (a - b) ∧ is .mul (a * b) ∧
  is .mulh (BitVec.ofInt n ((if sgn then a.toInt * b.toInt else (a.toNat : Int) * b.toNat) / 2 ^ n)) ∧
  is .div (if b = 0 then BitVec.allOnes n else if sgn then a.sdiv b else a / b) ∧
  is .rem (if b = 0 then a else if sgn then a.srem b else a % b) ∧
  is .and (a &&& b) ∧ is .or (a ||| b) ∧ is .xor (a ^^^ b) ∧ is .andn (a &&& ~~~b) ∧
  is .shl (a <<< k) ∧ is .shr (a >>> k) ∧ is .sar (a.sshiftRight k) ∧ is .rot (a.rotateLeft k) ∧
  is .min (if (if sgn then a.sle b else decide (a ≤ b)) then a else b) ∧
  is .max (if (if sgn then a.sle b else decide (a ≤ b)) then b else a)

/-- R149: with `SAT`, an exact result outside the width's range becomes the nearer bound and raises SAT; within it, the result and
the flags are those without `SAT`. -/
def Obligations.IntegerSaturates : Prop := ∀ (op : IOp) (w : IntWidth) (sgn : Bool) (l r : Word),
  let n := widthOf w
  let a := intIn n sgn l
  let b := intIn n sgn r
  let lo : Int := if sgn then -2 ^ (n - 1) else 0
  let hi : Int := if sgn then 2 ^ (n - 1) - 1 else 2 ^ n - 1
  let x := match op with
    | .add => a + b
    | .sub => a - b
    | _ => a * b
  op = .add ∨ op = .sub ∨ op = .mul →
    (x < lo → intOp op w sgn true l r = (wordOfInt lo, flSAT)) ∧
    (hi < x → intOp op w sgn true l r = (wordOfInt hi, flSAT)) ∧
    (lo ≤ x → x ≤ hi → intOp op w sgn true l r = (wordOfInt x, 0))

/-- R150 to R155: comparisons, selection, bit counts, bit fields, immediates and the carry addition. R151 whole: `SEL` has `OP` 0x21
and `FN` zero, delivers L or R by bit 0 of T to both targets, and is nullified by a NULL T. -/
def Obligations.IntegerOthersDeliver : Prop := ∀ s : State,
  let one := fun (ta tb : Target) (v : Word) => delivers s s ta tb (some v) (some v)
  (∀ w sgn cc tb ta, fires s (.cmp w sgn cc tb ta) → exec (.cmp w sgn cc tb ta) s = one ta tb
    (if cmpHolds cc (intIn (widthOf w) sgn s.opL) (intIn (widthOf w) sgn s.opR) then 1 else 0)) ∧
  (∀ ta sgn cc imm, fires s (.cmpi ta sgn cc imm) → exec (.cmpi ta sgn cc imm) s = one ta .none
    (if cmpHolds cc (intIn 64 sgn s.opL) (intIn 64 sgn (imm.signExtend 64)) then 1 else 0)) ∧
  (∀ tb ta, fires s (.sel tb ta) → exec (.sel tb ta) s = one ta tb (if s.opT.getLsbD 0 then s.opL else s.opR)) ∧
  (∀ tb ta, s.here.instr = some (.sel tb ta) → ready s s.me s.focus.slot = true → s.here.t.isNull = true →
    exec (.sel tb ta) s = delivers s s ta tb none none) ∧
  (∀ tb ta w, encode (.sel tb ta) = some w → w.extractLsb' 25 7 = 0x21 ∧ w.extractLsb' 18 7 = 0) ∧
  (∀ w tb ta, fires s (.bitcPopc w tb ta) → exec (.bitcPopc w tb ta) s = one ta tb
    (wordOfNat (popCount (widthOf w) (s.opL.toNat % 2 ^ widthOf w)))) ∧
  (∀ w tb ta, fires s (.bitcClz w tb ta) → exec (.bitcClz w tb ta) s = one ta tb
    (wordOfNat (leadZeros (widthOf w) (s.opL.toNat % 2 ^ widthOf w)))) ∧
  (∀ w tb ta, fires s (.bitcCtz w tb ta) → exec (.bitcCtz w tb ta) s = one ta tb
    (wordOfNat (trailZeros (widthOf w) (s.opL.toNat % 2 ^ widthOf w)))) ∧
  (∀ w tb ta, fires s (.bitcBrev w tb ta) → exec (.bitcBrev w tb ta) s = one ta tb
    (wordOfNat (bitReverse (widthOf w) (s.opL.toNat % 2 ^ widthOf w)))) ∧
  (∀ w tb ta, fires s (.bitcBswap w tb ta) → exec (.bitcBswap w tb ta) s = one ta tb
    (wordOfNat (byteSwap (widthOf w) (s.opL.toNat % 2 ^ widthOf w)))) ∧
  (∀ ta sgn len lo, fires s (.bfx ta sgn len lo) → exec (.bfx ta sgn len lo) s = one ta .none
    (bfxOf sgn lo.toNat (len.toNat + 1) s.opL)) ∧
  (∀ tb ta, fires s (.bfi tb ta) → exec (.bfi tb ta) s = one ta tb (bfiOf s.opL s.opR s.opT)) ∧
  (∀ sh tb ta, fires s (.lea sh tb ta) → exec (.lea sh tb ta) s = one ta tb (s.opL + s.opR <<< sh.toNat)) ∧
  (∀ ta imm, fires s (.addi ta imm) → exec (.addi ta imm) s = one ta .none (s.opL + imm.signExtend 64)) ∧
  (∀ ta imm, fires s (.andi ta imm) → exec (.andi ta imm) s = one ta .none (s.opL &&& imm.signExtend 64)) ∧
  (∀ ta imm, fires s (.ori ta imm) → exec (.ori ta imm) s = one ta .none (s.opL ||| imm.setWidth 64)) ∧
  (∀ ta imm, fires s (.xori ta imm) → exec (.xori ta imm) s = one ta .none (s.opL ^^^ imm.setWidth 64)) ∧
  (∀ ta imm, fires s (.muli ta imm) → exec (.muli ta imm) s = one ta .none (s.opL * imm.signExtend 64)) ∧
  (∀ ta cnt, fires s (.shfiShl ta cnt) → exec (.shfiShl ta cnt) s = one ta .none (s.opL <<< cnt.toNat)) ∧
  (∀ ta cnt, fires s (.shfiShr ta cnt) → exec (.shfiShr ta cnt) s = one ta .none (s.opL >>> cnt.toNat)) ∧
  (∀ ta cnt, fires s (.shfiSar ta cnt) → exec (.shfiSar ta cnt) s = one ta .none (s.opL.sshiftRight cnt.toNat)) ∧
  (∀ ta cnt, fires s (.shfiRot ta cnt) → exec (.shfiRot ta cnt) s = one ta .none (s.opL.rotateLeft cnt.toNat)) ∧
  (∀ w tb ta, fires s (.adc w tb ta) → exec (.adc w tb ta) s =
    delivers s s ta tb
      (some (wordOfNat ((s.opL.toNat % 2 ^ widthOf w + s.opR.toNat % 2 ^ widthOf w + s.opT.toNat % 2) % 2 ^ widthOf w)))
      (some (wordOfNat ((s.opL.toNat % 2 ^ widthOf w + s.opR.toNat % 2 ^ widthOf w + s.opT.toNat % 2) / 2 ^ widthOf w))))

/-- R157 to R164: floating-point instructions deliver the result of their lanes and raise its flags. -/
def Obligations.FloatsDeliver : Prop := ∀ s : State,
  let env := scalarEnv s s.me s.focus.slot
  let one := fun (ta tb : Target) (v : Word × Flags6) =>
    delivers s (raiseFlags s s.me v.2) ta tb (some v.1) (some v.1)
  let plain := fun (ta tb : Target) (v : Word) => delivers s s ta tb (some v) (some v)
  let arith := fun (op : FOp) (fmt : FloatFmt) (rm : Rm) (pk sat : Bool) =>
    let w := fmtWidth (floatData fmt)
    laneWise fmt pk fun k =>
      fopLane (env rm) (floatData fmt) op sat k (laneOf w k s.opL) (laneOf w k s.opR) (laneOf w k s.opT)
  let least := fun (isMax : Bool) (fmt : FloatFmt) (pk prop : Bool) =>
    let w := fmtWidth (floatData fmt)
    laneWise fmt pk fun k => fminLane (env .rne) (floatData fmt) isMax prop (laneOf w k s.opL) (laneOf w k s.opR)
  let sfu := fun (fn : Sfu) =>
    (wordOfNat (sfuOf (env .rne) fn (s.opL.toNat % 2 ^ 32)).1, (sfuOf (env .rne) fn (s.opL.toNat % 2 ^ 32)).2)
  (∀ fmt rm pk sat tb ta, fires s (.fadd fmt rm pk sat tb ta) →
    exec (.fadd fmt rm pk sat tb ta) s = one ta tb (arith .add fmt rm pk sat)) ∧
  (∀ fmt rm pk sat tb ta, fires s (.fsub fmt rm pk sat tb ta) →
    exec (.fsub fmt rm pk sat tb ta) s = one ta tb (arith .sub fmt rm pk sat)) ∧
  (∀ fmt rm pk sat tb ta, fires s (.fmul fmt rm pk sat tb ta) →
    exec (.fmul fmt rm pk sat tb ta) s = one ta tb (arith .mul fmt rm pk sat)) ∧
  (∀ fmt rm pk sat tb ta, fires s (.fma fmt rm pk sat tb ta) →
    exec (.fma fmt rm pk sat tb ta) s = one ta tb (arith .fma fmt rm pk sat)) ∧
  (∀ fmt pk prop tb ta, fires s (.fmin fmt pk prop tb ta) →
    exec (.fmin fmt pk prop tb ta) s = one ta tb (least false fmt pk prop)) ∧
  (∀ fmt pk prop tb ta, fires s (.fmax fmt pk prop tb ta) →
    exec (.fmax fmt pk prop tb ta) s = one ta tb (least true fmt pk prop)) ∧
  (∀ fmt cc tb ta, fires s (.fcmp fmt cc tb ta) → exec (.fcmp fmt cc tb ta) s =
    let x := fcmpLane (env .rne) (floatData fmt) cc s.opL.toNat s.opR.toNat
    one ta tb (if x.1 then 1 else 0, x.2)) ∧
  (∀ ta sat rm dst src, fires s (.fcvt ta sat rm dst src) →
    exec (.fcvt ta sat rm dst src) s = one ta .none (fcvt (env rm) src dst sat 0 s.opL.toNat)) ∧
  (∀ ta, fires s (.fsfuRcp ta) → exec (.fsfuRcp ta) s = one ta .none (sfu .rcp)) ∧
  (∀ ta, fires s (.fsfuRsq ta) → exec (.fsfuRsq ta) s = one ta .none (sfu .rsq)) ∧
  (∀ ta, fires s (.fsfuSqrt ta) → exec (.fsfuSqrt ta) s = one ta .none (sfu .sqrt)) ∧
  (∀ ta, fires s (.fsfuExp2 ta) → exec (.fsfuExp2 ta) s = one ta .none (sfu .exp2)) ∧
  (∀ ta, fires s (.fsfuLog2 ta) → exec (.fsfuLog2 ta) s = one ta .none (sfu .log2)) ∧
  (∀ ta, fires s (.fsfuTanh ta) → exec (.fsfuTanh ta) s = one ta .none (sfu .tanh)) ∧
  (∀ ta, fires s (.fsfuSigm ta) → exec (.fsfuSigm ta) s = one ta .none (sfu .sigm)) ∧
  (∀ ta, fires s (.fsfuSinp ta) → exec (.fsfuSinp ta) s = one ta .none (sfu .sinp)) ∧
  (∀ ta, fires s (.fsfuCosp ta) → exec (.fsfuCosp ta) s = one ta .none (sfu .cosp)) ∧
  (∀ fmt tb ta, fires s (.fclass fmt tb ta) → exec (.fclass fmt tb ta) s =
    plain ta tb (wordOfNat (fclassMask (floatData fmt) s.opL.toNat))) ∧
  (∀ ta amax elem, fires s (.qscale ta amax elem) → exec (.qscale ta amax elem) s =
    let x := qscaleOf (env .rne) (qfmtData amax) elem s.opL.toNat
    one ta .none (wordOfNat x.1, x.2)) ∧
  (∀ fmt rm sat tb ta, fires s (.qcvt fmt rm sat tb ta) → qOperandOk s.opR = true → exec (.qcvt fmt rm sat tb ta) s =
    let x := qcvtOf (env rm) (qfmtData fmt) (elemOf s.opR) (s.opR.toNat % 256) sat 0 s.opL.toNat
    one ta tb (wordOfNat x.1, x.2)) ∧
  (∀ fmt rm sat tb ta, fires s (.qdeq fmt rm sat tb ta) → qOperandOk s.opR = true → exec (.qdeq fmt rm sat tb ta) s =
    let x := qdeqOf (env rm) (qfmtData fmt) (elemOf s.opR) (s.opR.toNat % 256) sat 0 s.opL.toNat
    one ta tb (wordOfNat x.1, x.2)) ∧
  (∀ fmt tb ta, fires s (.fsgnAbs fmt tb ta) → exec (.fsgnAbs fmt tb ta) s =
    plain ta tb (wordOfNat (codeIn fmt s.opL % signWeight fmt))) ∧
  (∀ fmt tb ta, fires s (.fsgnNeg fmt tb ta) → exec (.fsgnNeg fmt tb ta) s =
    plain ta tb (wordOfNat (codeIn fmt s.opL ^^^ signWeight fmt))) ∧
  (∀ fmt tb ta, fires s (.fsgnCopysign fmt tb ta) → exec (.fsgnCopysign fmt tb ta) s =
    plain ta tb (wordOfNat (codeIn fmt s.opL % signWeight fmt + codeIn fmt s.opR / signWeight fmt * signWeight fmt)))

/-! ### Scratchpad accesses, device accesses, fences, barriers -/

/-- R177: `LDL` delivers the extended bytes, and `STL` writes its bytes where the journal has room. -/
def Obligations.LeafLoadStore : Prop := ∀ s : State,
  (∀ scope acq w tb ta, fires s (.ldl scope acq w tb ta) →
    mayAccess s s.opL.toNat (accSize w) accLoad false false →
    exec (.ldl scope acq w tb ta) s =
      delivers s s ta tb
        (some (extendTo (accSize w) (accSigned w) (natOfBytes (padRead s s.me s.opL.toNat (accSize w))))) (some 0)) ∧
  (∀ scope rel w tb ta t, fires s (.stl scope rel w tb ta) →
    mayAccess s s.opL.toNat (accSize w) accStore rel (rel && scopeWide scope) →
    padWrite s s.me s.opL.toNat (bytesOf (accSize w) s.opR.toNat) = some t →
    exec (.stl scope rel w tb ta) s = completes s t (.stl scope rel w tb ta) (some 0) (some 0))

/-- R180, R132: an `ATOML` writes the result of its operation and delivers the old value; R181: `CASL` writes only when the compared
bytes are equal. -/
def Obligations.LeafAtomics : Prop := ∀ (s : State) (scope : Scope) (ord : Order) (tb ta : Target),
  let acts := fun (op : Nat) (x : Instr) => ∀ t, fires s x →
    mayAccess s s.opL.toNat (atomicSize op) accAtomic (ordRel ord) (ordRel ord && scopeWide scope) →
    let old := wordOfNat (natOfBytes (padRead s s.me s.opL.toNat (atomicSize op)))
    padWrite s s.me s.opL.toNat (bytesOf (atomicSize op) (atomicOp op old s.opR).toNat) = some t →
    exec x s = completes s t x (some old) (some 0)
  acts 0 (.atomlAdd scope ord tb ta) ∧ acts 1 (.atomlAnd scope ord tb ta) ∧ acts 2 (.atomlOr scope ord tb ta) ∧
  acts 3 (.atomlXor scope ord tb ta) ∧ acts 4 (.atomlXchg scope ord tb ta) ∧ acts 5 (.atomlSmin scope ord tb ta) ∧
  acts 6 (.atomlSmax scope ord tb ta) ∧ acts 7 (.atomlFadd scope ord tb ta) ∧
  (∀ w, fires s (.casl scope ord w tb ta) →
    mayAccess s s.opL.toNat (casSize w) accAtomic (ordRel ord) (ordRel ord && scopeWide scope) →
    let old := natOfBytes (padRead s s.me s.opL.toNat (casSize w))
    let v := some (extendTo (casSize w) (casSigned w) old)
    (old ≠ s.opR.toNat % 2 ^ (8 * casSize w) →
      exec (.casl scope ord w tb ta) s = completes s s (.casl scope ord w tb ta) v (some 0)) ∧
    ∀ t, old = s.opR.toNat % 2 ^ (8 * casSize w) →
      padWrite s s.me s.opL.toNat (bytesOf (casSize w) s.opT.toNat) = some t →
      exec (.casl scope ord w tb ta) s = completes s t (.casl scope ord w tb ta) v (some 0))

/-- R132, R114: the operations of Table 14 on an old value and an operand: the seven on 64 bits, and the F32 addition of the low words,
rounded once under RNE with its subnormals kept, which raises no flag. -/
def Obligations.AtomicTable : Prop := ∀ old arg : Word,
  atomicOp 0 old arg = old + arg ∧ atomicOp 1 old arg = old &&& arg ∧ atomicOp 2 old arg = old ||| arg ∧
  atomicOp 3 old arg = old ^^^ arg ∧ atomicOp 4 old arg = arg ∧
  atomicOp 5 old arg = (if old.sle arg then old else arg) ∧ atomicOp 6 old arg = (if old.sle arg then arg else old) ∧
  atomicOp 7 old arg = wordOfNat (fopLane {} .f32 .add false 0 (old.toNat % 2 ^ 32) (arg.toNat % 2 ^ 32) 0).1

/-- R173, R178 to R181, R185: an access to device memory leaves as one request, with its order, scope and operation, and its slot
then owes its deliveries; the request performs at its memory port. -/
def Obligations.DeviceRequestsLeave : Prop := ∀ (s : State) (scope : Scope) (tb ta : Target),
  (∀ acq w, fires s (.ldg scope acq w tb ta) → mayRequest s s.opL.toNat (accSize w) false scope →
    exec (.ldg scope acq w tb ta) s =
      sends s (focusRequest s s.opL.toNat (accSize w) false false acq false scope (.load (accSigned w)))) ∧
  (∀ rel w, fires s (.stg scope rel w tb ta) → mayRequest s s.opL.toNat (accSize w) rel scope →
    exec (.stg scope rel w tb ta) s =
      sends s (focusRequest s s.opL.toNat (accSize w) true (rel && scopeWide scope) false rel scope
        (.store (bytesOf (accSize w) s.opR.toNat)))) ∧
  (∀ ord, let acts := fun (op : Nat) (x : Instr) => fires s x →
      mayRequest s s.opL.toNat (atomicSize op) (ordRel ord) scope →
      exec x s = sends s (focusRequest s s.opL.toNat (atomicSize op) true true (ordAcq ord) (ordRel ord) scope
        (.atomic op s.opR))
    acts 0 (.atomgAdd scope ord tb ta) ∧ acts 1 (.atomgAnd scope ord tb ta) ∧ acts 2 (.atomgOr scope ord tb ta) ∧
    acts 3 (.atomgXor scope ord tb ta) ∧ acts 4 (.atomgXchg scope ord tb ta) ∧ acts 5 (.atomgSmin scope ord tb ta) ∧
    acts 6 (.atomgSmax scope ord tb ta) ∧ acts 7 (.atomgFadd scope ord tb ta)) ∧
  (∀ ord w, fires s (.casg scope ord w tb ta) → mayRequest s s.opL.toNat (casSize w) (ordRel ord) scope →
    exec (.casg scope ord w tb ta) s =
      sends s (focusRequest s s.opL.toNat (casSize w) true true (ordAcq ord) (ordRel ord) scope
        (.cas s.opR s.opT (casSigned w)))) ∧
  (∀ cond w, fires s (.waitaDev cond w tb ta) → mayRequest s s.opL.toNat (accSize w) false .device →
    exec (.waitaDev cond w tb ta) s =
      sends s (focusRequest s s.opL.toNat (accSize w) false true true false .device
        (.waita cond.code s.opR (accSigned w) false))) ∧
  (∀ cond w, fires s (.waitaSys cond w tb ta) → mayRequest s s.opL.toNat (accSize w) false .system →
    exec (.waitaSys cond w tb ta) s =
      sends s (focusRequest s s.opL.toNat (accSize w) false true true false .system
        (.waita cond.code s.opR (accSigned w) true)))

/-- R183: a fence whose conditions hold completes; with `XP` it brings the cross-path order into force. -/
def Obligations.FencesComplete : Prop := ∀ (s : State) (ta : Target) (scope : Scope),
  let wide := scopeWide scope
  let t := fun (xp : Bool) => if xp then s.modStrand s.me fun st => { st with xp := true } else s
  (∀ xp, fires s (.fenceAcq ta xp scope) →
    loadPending s s.me = false → kettlePending s s.me = false → (xp && storePending s s.me) = false →
    exec (.fenceAcq ta xp scope) s = completes s (t xp) (.fenceAcq ta xp scope) (some 0) (some 0)) ∧
  (∀ xp, fires s (.fenceRel ta xp scope) →
    (wide && !irrevocable s s.me) = false → releasePending s s.me wide = false → (xp && storePending s s.me) = false →
    (wide && putsWaiting s s.me) = false →
    exec (.fenceRel ta xp scope) s = completes s (t xp) (.fenceRel ta xp scope) (some 0) (some 0)) ∧
  (∀ xp, fires s (.fenceAr ta xp scope) →
    (wide && !irrevocable s s.me) = false → releasePending s s.me wide = false → loadPending s s.me = false →
    kettlePending s s.me = false → (xp && storePending s s.me) = false → (wide && putsWaiting s s.me) = false →
    exec (.fenceAr ta xp scope) s = completes s (t xp) (.fenceAr ta xp scope) (some 0) (some 0)) ∧
  (fires s (.fenceXp ta scope) → storePending s s.me = false →
    exec (.fenceXp ta scope) s = completes s (t true) (.fenceXp ta scope) (some 0) (some 0))

/-- R185: a leaf `WAITA` whose condition holds delivers the value read; `WAITA.round` whose condition fails ends the round, and its
strand sleeps on the line; R184: the conditions, of which the last two compare unsigned. -/
def Obligations.LeafWaits : Prop :=
  (∀ (s : State) (cond : WaitCond) (w : AccWidth) (tb ta : Target),
  let la := s.opL.toNat
  let v := waitValue s s.me la w
  (fires s (.waitaLeaf cond w tb ta) → mayAccess s la (accSize w) accLoad false false →
    (waitHolds cond.code v s.opR = true →
      exec (.waitaLeaf cond w tb ta) s = completes s s (.waitaLeaf cond w tb ta) (some v) (some 0)) ∧
    (waitHolds cond.code v s.opR = false →
      exec (.waitaLeaf cond w tb ta) s = .next (stay s s.me s.focus.slot))) ∧
  (fires s (.waitaRound cond w tb ta) → mayAccess s la (accSize w) accLoad false false →
    (waitHolds cond.code v s.opR = true →
      exec (.waitaRound cond w tb ta) s = completes s s (.waitaRound cond w tb ta) (some v) (some 0)) ∧
    (waitHolds cond.code v s.opR = false →
      exec (.waitaRound cond w tb ta) s = .next (sleepOn s s.me
        { device := false, line := la / 64, va := la, size := accSize w,
          seen := natOfBytes (padRead s s.me la (accSize w)) })))) ∧
  (∀ v cmp : Word,
  (waitHolds 0 v cmp = true ↔ v = cmp) ∧ (waitHolds 1 v cmp = true ↔ v ≠ cmp) ∧
  (waitHolds 2 v cmp = true ↔ cmp ≤ v) ∧ (waitHolds 3 v cmp = true ↔ v < cmp))

/-- R188: `MBAR.INIT`, `ARRIVE` and `EXPECT` update their object by one indivisible write; `TEST` delivers whether the phase is
done, and `WAIT` completes when it is. -/
def Obligations.BarriersComplete : Prop := ∀ (s : State) (tb ta : Target),
  let la := s.opL.toNat
  let r := s.opR.toNat
  let o := mbarAt s s.me la
  (∀ t, fires s (.mbarInit tb ta) → mayMbar s la (decide (1 ≤ r) && decide (r < 2 ^ 31)) false →
    padWrite s s.me la (Mbar.init r).bytes = some t →
    exec (.mbarInit tb ta) s = completes s t (.mbarInit tb ta) (some 0) (some 0)) ∧
  (∀ t, fires s (.mbarArrive tb ta) → mayMbar s la (decide (1 ≤ r) && decide (r ≤ o.pend)) true →
    padWrite s s.me la (Mbar.arrive r o).bytes = some t →
    exec (.mbarArrive tb ta) s = completes s t (.mbarArrive tb ta) (some 0) (some 0)) ∧
  (∀ t, fires s (.mbarExpect tb ta) → mayMbar s la (decide (1 ≤ r) && decide (r < 2 ^ 31)) false →
    padWrite s s.me la (Mbar.expect r o).bytes = some t →
    exec (.mbarExpect tb ta) s = completes s t (.mbarExpect tb ta) (some 0) (some 0)) ∧
  (fires s (.mbarTest tb ta) → mayMbar s la (decide (r < 2 ^ 32)) false →
    exec (.mbarTest tb ta) s = completes s s (.mbarTest tb ta) (some (if o.isDone r then 1 else 0)) (some 0)) ∧
  (fires s (.mbarWait tb ta) → mayMbar s la (decide (r < 2 ^ 32)) false → o.isDone r = true →
    exec (.mbarWait tb ta) s = completes s s (.mbarWait tb ta) (some 0) (some 0))

/-- R188: what the operations leave in an object: `INIT` sets `pend` and `count` and clears `tx` and `phase`; an `ARRIVE` or an
`EXPECT` that leaves arrivals or bytes to come changes only its own field; one after which none are to come completes the phase. -/
def Obligations.BarrierObject : Prop := ∀ (o : Mbar) (r : Nat), o.pend < 2 ^ 32 → o.tx < 2 ^ 32 →
  (r < 2 ^ 31 → Mbar.init r = ⟨r, r, 0, 0⟩) ∧
  (r ≤ o.pend → ¬ (r = o.pend ∧ o.tx = 0) → Mbar.arrive r o = { o with pend := o.pend - r }) ∧
  (r = o.pend → o.tx = 0 →
    Mbar.arrive r o = { o with pend := o.count, phase := (o.phase + 1) % 2 ^ 32 }) ∧
  (¬ (o.pend = 0 ∧ (o.tx + r) % 2 ^ 32 = 0) → Mbar.expect r o = { o with tx := (o.tx + r) % 2 ^ 32 }) ∧
  (o.pend = 0 → (o.tx + r) % 2 ^ 32 = 0 →
    Mbar.expect r o = { o with tx := 0, pend := o.count, phase := (o.phase + 1) % 2 ^ 32 }) ∧
  mbarOf o.bytes = ⟨o.pend, o.count % 2 ^ 32, o.tx, o.phase % 2 ^ 32⟩

/-- R196, R198: `KETTLE` arrives at its barrier and owes its tokens; `SPAWN` queues the child of its operands, in a gathering. -/
def Obligations.KettleSpawn : Prop := ∀ (s : State) (g : Nat) (x : Gathering) (tb ta : Target),
  s.gathOf s.me = some g → s.gath g = some x →
  (fires s (.kettle tb ta) → s.opL.toNat < 64 → earlierPending s s.me = false → kettlePending s s.me = false →
    exec (.kettle tb ta) s = .next (owe
      (s.modGath g fun x =>
        let came := (tget x.kettles s.opL.toNat).getD [] ++ [claimOf s s.me s.focus.slot]
        { x with kettles := tset x.kettles s.opL.toNat came })
      s.me s.focus.slot)) ∧
  (fires s (.spawn tb ta) → bits s.opL.toNat 15 12 = 0 → s.opL.toNat < 2 ^ 32 → x.spawns.length < Config.spawnLimit →
    exec (.spawn tb ta) s = completes s
      (s.modGath g fun x =>
        { x with spawns := x.spawns ++ [⟨bits s.opL.toNat 11 0, bits s.opL.toNat 31 16, s.opR.toNat⟩] })
      (.spawn tb ta) (some 0) (some 0))

/-- R189 to R195: a `CP` whose record, ranges and object are good is accepted: its copy stands with its lines still to land, and its
slot owes a token; so is a `CP.FIB`, its pos pair to be read first. -/
def Obligations.CopiesAccepted : Prop :=
  (∀ (s : State) (tb ta : Target) (src dst len sel dval done : Nat),
  mayAccess s s.opL.toNat 32 accLoad false false →
  copyRecord (padRead s s.me s.opL.toNat 32) = (src, dst, len, sel, dval, done) →
  copyFields len done = true → mbarOk s s.me done = true →
  (fires s (.cpLd tb ta) → sel % 128 = 0 → src < 2 ^ 52 → dst < 2 ^ padBits s.me → padRefused s s.me dst len = none →
    exec (.cpLd tb ta) s = .next (acceptCopy s s.me s.focus.slot
      (newCopy 0 src dst len sel dval done (linesFrom src len) (linesFrom dst len)))) ∧
  (fires s (.cpSt tb ta) → sel % 128 = 0 → dst < 2 ^ 52 → src < 2 ^ padBits s.me → padRefused s s.me src len = none →
    exec (.cpSt tb ta) s = .next (acceptCopy s s.me s.focus.slot
      (newCopy 1 src dst len sel dval done (linesFrom src len) (linesFrom dst len)))) ∧
  (fires s (.cpSend tb ta) → sel = 0xFF → src < 2 ^ padBits s.me → dst < 2 ^ 42 →
    sendOverlaps s.me src dst len sel = false → padRefused s s.me src len = none → bits dst 41 34 = s.pkg →
    sendRefused s s.me dst len sel = none → (sendAway s s.me dst sel = true → irrevocable s s.me = true) →
    exec (.cpSend tb ta) s = .next (acceptCopy s s.me s.focus.slot
      { newCopy 2 src dst len sel dval done (linesFrom src len) (linesFrom (bits dst 17 0) len) with
        into := if sendOwnLeaf s s.me dst then none else (otherLeaf s (s.ctxOf s.me) (sendLeaf dst)).map (·.1) })) ∧
  (∀ w, fires s (.cpSend tb ta) → sel ≠ 0xFF → (tget (s.context (s.ctxOf s.me)).channels sel).getD 0 = w →
    chValid w = true → src < 2 ^ padBits s.me → dst < 2 ^ 42 → padRefused s s.me src len = none →
    bits dst 41 34 = chPkg w → bits dst 17 0 + len ≤ Config.leafBytes →
    (coreIsControl s.me = true ∨ keepRange (s.leaf ((coreLeaf s.me).getD 0)).partw src len = true) →
    irrevocable s s.me = true → (s.sender (chSender w)).broken = false →
    exec (.cpSend tb ta) s = .next (acceptCopy s s.me s.focus.slot
      { newCopy 2 src dst len sel dval done (linesFrom src len) (linesFrom (bits dst 17 0) len) with
        chans := [chSender w] })) ∧
  (∀ g ns, fires s (.cpMc tb ta) → bits sel 6 4 = 0 → src < 2 ^ 52 → dst < 2 ^ 18 →
    (s.gathOf s.me).bind s.gath = some g → groupLeaves g (g.mcast.getD (sel % 16) 0) = some ns →
    (∀ n ∈ ns, laRefused (s.leaf n).partw dst len true = none) →
    exec (.cpMc tb ta) s = .next (acceptCopy s s.me s.focus.slot
      { newCopy 3 src dst len sel dval done (linesFrom src len)
          ((upTo ns.length).flatMap fun k => (linesFrom dst len).map fun p => (p.1 + k * 2 ^ 19, p.2)) with dests := ns }))) ∧
  (∀ (s : State) (tb ta : Target),
  let bs := padRead s s.me s.opL.toNat 32
  let ring := field bs 16 4
  let size := 64 * (bits ring 29 18 + 1)
  let desc := field bs 24 8
  fires s (.cpFib tb ta) → mayAccess s s.opL.toNat 32 accLoad false false →
  field bs 0 8 < 2 ^ 52 → field bs 0 8 % 4 = 0 → field bs 8 8 < 2 ^ 52 → field bs 8 8 % 4 = 0 → ring < 2 ^ 30 →
  bits ring 17 0 % 64 = 0 → field bs 20 4 < 65536 → bits desc 51 (padBits s.me) = 0 → descLa s.me desc % 16 = 0 →
  padRefused s s.me (bits ring 17 0) size = none → padRefused s s.me (descLa s.me desc) 16 = none →
  mbarOk s s.me desc = true →
  exec (.cpFib tb ta) s = .next (acceptCopy s s.me s.focus.slot
    { newCopy 4 (field bs 0 8) (bits ring 17 0) 8 0 0 0 (linesFrom (field bs 0 8) 8) [] with
      crd := field bs 8 8, ring := size, head := 4 * field bs 20 4, desc := descLa s.me desc, mbar := doneMbar desc }))

/-- R331, R313, R315, R318: `FLAG` and the `KVOP`s once their records have been read: the flag leaves, the 64 additions are held or
applied, the eviction request is queued, and the gate word is requested; a `FLAG` record that names a usable channel and neither
a flag nor a done word goes straight on to the flag's grant and issue. -/
def Obligations.EngineRequestsLeave : Prop :=
  (∀ (s : State) (tb ta : Target),
  let bs := s.here.latch
  let e := chSender ((tget (s.context (s.ctxOf s.me)).channels (field bs 16 1)).getD 0)
  (fires s (.flag tb ta) → s.here.phase = 2 → irrevocable s s.me = true → (s.sender e).broken = false →
    releasePending s s.me true = false → ((s.sender e).waits.any fun w => w.gath == s.gathOf s.me) = false →
    flagRoom (s.sender e) = true →
    exec (.flag tb ta) s = completes s
      (issueFlag s e
        { index := 0, upto := 0, addr := s.here.arg, value := field bs 8 8, dval := field bs 20 4, done := field bs 24 8,
          isFlag := true, core := some s.me, gath := s.gathOf s.me, inst := instOf s (s.gathOf s.me) })
      (.flag tb ta) (some 0) (some 0)) ∧
  (∀ t u v, fires s (.kvopMass tb ta) → 5 ≤ s.here.phase →
    let va := field bs 0 8 + 0x40
    s.reqs.any (fun r => r.2.core == s.me) = false → devPending s s.me va 256 = false →
    engineTrans s (.instr s.me s.focus.slot) (placeOf s.me (s.ctxOf s.me) va) (s.ctxOf s.me) va accAtomic false = .ok (t, u) →
    let u := u.modSlot s.me s.focus.slot fun x => { x with hold := none }
    stageAll u (u.ctxOf s.me) (u.gathOf s.me) (instOf u (u.gathOf s.me)) (massItems t s.me (bs.drop 16)) = .done v →
    exec (.kvopMass tb ta) s = completes s v (.kvopMass tb ta) (some 0) (some 0)) ∧
  (fires s (.kvopEvict tb ta) → s.here.phase = 2 → irrevocable s s.me = true →
    let q := engineOf s.here.arg
    let r : EvictReq :=
      { claim := claimOf s s.me s.focus.slot, gath := s.gathOf s.me, inst := instOf s (s.gathOf s.me), ctx := s.ctxOf s.me,
        seq := field bs 0 8, pa := s.here.arg, done := field bs 8 8, dval := field bs 16 4 }
    exec (.kvopEvict tb ta) s =
      .next (owe { s with evicts := tset s.evicts q ((tget s.evicts q).getD [] ++ [r]) } s.me s.focus.slot)) ∧
  (let va := field (padRead s s.me s.opL.toNat 8) 0 8
   fires s (.kvopStat tb ta) → mayAccess s s.opL.toNat 8 accLoad false false → va + 0x20 < 2 ^ 52 → va % 256 = 0 →
    acquirePending s s.me = false →
    exec (.kvopStat tb ta) s = sends s (focusRequest s (va + 0x20) 8 false false true false .device (.load false)))) ∧
  (∀ (s : State) (tb ta : Target),
  let bs := padRead s s.me s.opL.toNat 32
  let w := (tget (s.context (s.ctxOf s.me)).channels (field bs 16 1)).getD 0
  fires s (.flag tb ta) → s.here.phase = 0 → mayAccess s s.opL.toNat 32 accLoad false false →
  field bs 0 8 = 0 → field bs 17 3 = 0 → field bs 24 8 = 0 → field bs 16 1 ≠ 0xFF → chValid w = true →
  exec (.flag tb ta) s = .next (flagSend
    ((stay (latchRecord s s.me s.focus.slot bs) s.me s.focus.slot).modSlot s.me s.focus.slot fun x =>
      { x with phase := 2, arg := 0 })
    s.me s.focus.slot (formOf (.flag tb ta))))

/-! ### Streams, vector pipelines, tiles and matrix cells -/

/-- R246: a record that passes its checks is loaded into a stopped unit; a unit with a record starts, reports its status, and
stops, at its next token boundary when it is inside a token. -/
def Obligations.FlowUnitControl : Prop := ∀ (s : State) (u : FUnit) (tb ta : Target),
  let r := padRead s s.me s.opL.toNat 64
  (fires s (.flcfg u tb ta) → (s.unit s.lf u).run = false → mayAccess s s.opL.toNat 64 accLoad false false →
    recordBad (s.leaf s.lf).routes (unitCode u) r = none →
    exec (.flcfg u tb ta) s = completes s (s.modUnit s.lf u fun x => loadedUnit x r) (.flcfg u tb ta) (some 0) (some 0)) ∧
  (fires s (.flgo u tb ta) → (s.unit s.lf u).cfgd = true →
    exec (.flgo u tb ta) s = completes s
      (if (s.unit s.lf u).run then s
        else s.modUnit s.lf u fun x => startedUnit x (s.strand s.me).fpmode (coreIndex s.me))
      (.flgo u tb ta) (some 0) (some 0)) ∧
  (fires s (.flstat u tb ta) →
    exec (.flstat u tb ta) s =
      delivers s s ta tb (some (wordOfNat (s.unit s.lf u).status)) (some (wordOfNat (s.unit s.lf u).status))) ∧
  (fires s (.flstop u tb ta) →
    ((s.unit s.lf u).run = false → exec (.flstop u tb ta) s = completes s s (.flstop u tb ta) (some 0) (some 0)) ∧
    ((s.unit s.lf u).run = true → unitBusy s s.lf u = false →
      exec (.flstop u tb ta) s = completes s (s.modUnit s.lf u stoppedUnit) (.flstop u tb ta) (some 0) (some 0)) ∧
    ((s.unit s.lf u).run = true → unitBusy s s.lf u = true →
      exec (.flstop u tb ta) s =
        .next (stay (s.modUnit s.lf u fun x => { x with stopping := true }) s.me s.focus.slot)))

/-- R264: `SPUSH` of a token other than data, and of data, when its send is the port's next and the port may take it; R267: `SBAR`
that names no port, or whose ports owe nothing since it issued, completes. -/
def Obligations.PushAndBarrier : Prop :=
  (∀ (s : State) (kind : PushKind) (port : Fin 8) (tb ta : Target) (t : Token),
  let q := queueSend s s.me s.focus.slot port.val
  fires s (.spush kind port tb ta) → coreBound s s.lf (8 + port.val) = true → pushOk kind s.opR = true →
  (kind = .data → s.opL.toNat % 64 = 0 ∧ s.opL.toNat < (if coreIsControl s.me then Config.localBytes else Config.leafBytes) ∧
    mayAccess q s.opL.toNat 64 accLoad false false) →
  t = (if kind = .data then
      { kind := .data, deckle := s.opR.setWidth 16, lanes := maskLanes s.opR.toNat (padRead q s.me s.opL.toNat 64) }
    else { kind := pushKind kind, level := bits s.opR.toNat 18 16 }) →
  nextSend q s.lf port.val = some (ownSend q s.me s.focus.slot port.val) → mayEnter q s.lf port.val = true →
  exec (.spush kind port tb ta) s =
    let e := (enterFrom q s.lf port.val (ownSend q s.me s.focus.slot port.val) t).modLeaf s.lf fun l =>
      { l with sendq := l.sendq.erase (ownSend q s.me s.focus.slot port.val) }
    .next (pumpSends (complete (formOf (.spush kind port tb ta))
      (sendOver e (claimOf e s.me s.focus.slot) port.val) s.me s.focus.slot (some 0) (some 0)) s.lf)) ∧
  (∀ (s : State) (tb ta : Target),
  fires s (.sbar tb ta) → s.opL.toNat < 65536 → s.here.phase = 1 →
  (∀ p < 8, s.opL.toNat.testBit (8 + p) = true → allRemoved s s.lf p (field s.here.latch (8 * p) 8) = true) →
  (∀ p < 8, s.opL.toNat.testBit p = true → inputFinished s s.lf p (field s.here.latch (64 + 8 * p) 8) = true) →
  exec (.sbar tb ta) s = completes s s (.sbar tb ta) (some 0) (some 0))

/-- R265, R266, R241: `SPOP` takes the head of its port into leaf SRAM and delivers the control word; `.nb` on an empty port delivers
0; `SCTL` reports, discards and resets; `RTSET` writes the route word of a quiet port. -/
def Obligations.PortsServed : Prop := ∀ (s : State) (tb ta : Target),
  (∀ nb (p : Fin 8) t u, fires s (.spop nb p tb ta) → coreBound s s.lf p.val = true →
    headOf s s.lf p.val = some t → mayAccess s s.opL.toNat 64 accStore false false →
    padWrite s s.me s.opL.toNat t.payload = some u →
    exec (.spop nb p tb ta) s =
      completes s (dropHead u s.lf p.val) (.spop nb p tb ta) (some (wordOfNat (t.control + 2 ^ 23))) (some 0)) ∧
  (∀ p : Fin 8, fires s (.spop true p tb ta) → coreBound s s.lf p.val = true → headOf s s.lf p.val = none →
    s.opL.toNat < (if coreIsControl s.me then Config.localBytes else Config.leafBytes) → s.opL.toNat % 64 = 0 →
    exec (.spop true p tb ta) s = completes s s (.spop true p tb ta) (some 0) (some 0)) ∧
  (∀ port, fires s (.sctlStatus port tb ta) → s.opL = 0 →
    exec (.sctlStatus port tb ta) s =
      completes s s (.sctlStatus port tb ta) (some (wordOfNat (portStatus s s.lf port))) (some 0)) ∧
  (∀ (p : Fin 8) k, fires s (.sctlDrain (.inp p) tb ta) → s.opL.toNat < 65536 →
    drainCount s.opL.toNat s.here.arg ((s.leaf s.lf).inputs.getD p.val {}).held = (k, true) →
    exec (.sctlDrain (.inp p) tb ta) s =
      completes s (dropAll s.lf p.val (k - s.here.arg) s) (.sctlDrain (.inp p) tb ta) (some (wordOfNat k)) (some 0)) ∧
  (∀ p : Fin 8, fires s (.sctlReset (.inp p) tb ta) → s.opL = 0 →
    exec (.sctlReset (.inp p) tb ta) s = completes s
      ((dropAll s.lf p.val ((s.leaf s.lf).inputs.getD p.val {}).held.length s).modLeaf s.lf fun l =>
        { l with inputs := lmod l.inputs p.val fun q => { q with dseen := false } })
      (.sctlReset (.inp p) tb ta) (some 0) (some 0)) ∧
  (∀ p : Fin 8, fires s (.sctlReset (.out p) tb ta) → s.opL = 0 → portQuiet s s.lf (.out p) = true →
    exec (.sctlReset (.out p) tb ta) s = completes s s (.sctlReset (.out p) tb ta) (some 0) (some 0)) ∧
  (∀ port n g, fires s (.rtset port tb ta) → coreLeaf s.me = some n → (s.gathOf s.me).bind s.gath = some g →
    routeBad g (s.leaf n).routes (portNum port) s.opL = none → portQuiet s n port = true →
    exec (.rtset port tb ta) s = completes s (setRoute s n port s.opL) (.rtset port tb ta) (some 0) (some 0))

/-- R214 to R216: the vector pipeline's instructions. -/
def Obligations.VectorControl : Prop := ∀ (s : State) (tb ta : Target),
  let r := padRead s s.me s.opL.toNat 64
  (fires s (.vpcfg tb ta) → (s.vp s.lf).run = false → mayAccess s s.opL.toNat 64 accLoad false false →
    vpBad (s.leaf s.lf).routes r = none →
    exec (.vpcfg tb ta) s = completes s (s.modVp s.lf fun x => loadedVp x r) (.vpcfg tb ta) (some 0) (some 0)) ∧
  (fires s (.vpgo tb ta) → (s.vp s.lf).cfgd = true →
    exec (.vpgo tb ta) s = completes s
      (if (s.vp s.lf).run then s
        else s.modVp s.lf fun x => startedVp x (s.strand s.me).fpmode (coreIndex s.me) (vpAfter s s.lf))
      (.vpgo tb ta) (some 0) (some 0)) ∧
  (fires s (.vpstat tb ta) →
    exec (.vpstat tb ta) s =
      delivers s s ta tb (some (wordOfNat (s.vp s.lf).status)) (some (wordOfNat (s.vp s.lf).status))) ∧
  (∀ stage, fires s (.vpconst stage tb ta) → s.opL.toNat < 2 ^ 32 →
    exec (.vpconst stage tb ta) s = completes s
      (s.modVp s.lf fun x => { x with consts := lset x.consts stage.val (s.opL.setWidth 32) })
      (.vpconst stage tb ta) (some 0) (some 0))

/-- R77, R218 to R220, R173: `TLD`, `TST` and `TTURN` perform: the lines of a tile stand to be moved one by one, in increasing order
(the model's reading, log 22), into an empty verso or out of recto; `TTURN` performs at issue, and its turn stands with the readers
of recto that it waits for, `TTURN.emit` as a send of its port too; each owes its token. -/
def Obligations.TilesMoved : Prop :=
  (∀ (s : State) (tb ta : Target),
  let la := s.opL.toNat
  let starts := fun (x : Instr) (kind src dst : Nat) =>
    exec x s = .next (startTile s s.me s.focus.slot kind src dst 4096)
  acquirePending s s.me = false → la % 64 = 0 →
  (fires s (.tldLa tb ta) → coreIsControl s.me = false → la < Config.leafBytes →
    tileSource (s.leaf s.lf).partw la 4096 = true → (s.leaf s.lf).vfull = false → starts (.tldLa tb ta) 6 la 0x1000) ∧
  (fires s (.tldDev tb ta) → la < 2 ^ 52 → (s.leaf s.lf).vfull = false → starts (.tldDev tb ta) 7 la 0x1000) ∧
  (fires s (.tstLa tb ta) → coreIsControl s.me = false → la < Config.leafBytes →
    tileDest (s.leaf s.lf).partw la 4096 0 4096 = true → starts (.tstLa tb ta) 8 0 la) ∧
  (fires s (.tstDev tb ta) → la < 2 ^ 52 → starts (.tstDev tb ta) 9 0 la)) ∧
  (∀ (s : State) (tb ta : Target), (s.leaf s.lf).turn = none →
  (fires s (.tturn tb ta) →
    let t : Turn := { claim := claimOf s s.me s.focus.slot, before := (readersOf s s.lf).map (·.num), emit := none }
    exec (.tturn tb ta) s = .next (owe (s.modLeaf s.lf fun l => { l with turn := some t }) s.me s.focus.slot)) ∧
  (∀ p : Fin 8, fires s (.tturnEmit p tb ta) →
    exec (.tturnEmit p tb ta) s =
      .next (startTurn (queueSend s s.me s.focus.slot p.val) s.me s.focus.slot (some p.val))))

/-- R221, R227, R228: a good command enters its quire's queue; `MXWAIT` delivers and clears the tile's flags; `ACCOP` performs: the
lines of its tile stand to be zeroed or copied. -/
def Obligations.MatrixIssued : Prop := ∀ (s : State) (tb ta : Target),
  let q := quireOf s.lf
  (fires s (.mxcmd tb ta) → mxBad (fun k => (s.leaf (leafIn q k)).partw) s.opL.toNat = none →
    mxQueued (s.quire q) < Config.mxQueue → mxNext s q (leafIndex s.lf) = leafIndex s.lf →
    let x : MxCmd :=
      { num := s.nextId, gath := ((s.leaf s.lf).gath).getD 0, word := s.opL.toNat, leaf := s.lf, strand := coreIndex s.me,
        ftz := (s.strand s.me).fpmode.getLsbD 4 }
    exec (.mxcmd tb ta) s = completes s
      (({ s with nextId := s.nextId + 1 } : State).modQuire q fun u =>
        { u with queue := u.queue ++ [x], lastMx := leafIndex s.lf })
      (.mxcmd tb ta) (some 0) (some 0)) ∧
  (let n := leafIn q (bits s.opL.toNat 7 4)
   let t := bits s.opL.toNat 2 0
   fires s (.mxwait tb ta) → s.opL.toNat < 256 → s.opL.toNat.testBit 3 = false → t < pwAcc (s.leaf n).partw →
    s.here.phase = 1 → notedPending s s.me s.focus.slot n = false →
    exec (.mxwait tb ta) s = completes s (s.modLeaf n fun l => { l with accFlags := lset l.accFlags t 0 })
      (.mxwait tb ta) (some (((s.leaf n).accFlags.getD t 0).setWidth 64)) (some 0)) ∧
  (s.opL.toNat < 8 → s.opL.toNat < pwAcc (s.leaf s.lf).partw → s.here.phase = 1 →
    notedPending s s.me s.focus.slot s.lf = false → acquirePending s s.me = false →
    let la := tileLine (s.leaf s.lf) s.opL.toNat 0
    let dst := s.opR.toNat
    (fires s (.accopZero tb ta) →
      exec (.accopZero tb ta) s = .next (startTile s s.me s.focus.slot 10 0 la 0x4000)) ∧
    (fires s (.accopCopy tb ta) →
      dst < (if coreIsControl s.me then Config.localBytes else Config.leafBytes) → dst % 64 = 0 →
      tileDest (s.leaf s.lf).partw dst 0x4000 la 0x4000 = true →
      exec (.accopCopy tb ta) s = .next (startTile s s.me s.focus.slot 11 la dst 0x4000)))

/-! ### Privileged instructions -/

/-- R166: a `TLBINV` that finds no access in flight through the entries that it removes completes with the entries gone; R167 to R170,
R172: page entries, apertures, saves, images and the device log. -/
def Obligations.FirmwareActs : Prop :=
  (∀ (s : State) (tb ta : Target),
  irrevocable s s.me = true → s.here.phase = 0 →
  let gone := fun (x : Inval) (i : Instr) => (s.reqs.any fun r => x.uses s r.2) = false →
    exec i s = completes s
      (({ s with
          tlb := s.tlb.filter fun t => !x.entry t
          walks := s.walks.filter fun w => !x.walk w
          reqs := s.reqs.map (restartReq s x)
          misses := s.misses.map (restartMiss s x) } : State).modSlot
        s.me s.focus.slot fun y => { y with phase := 1, latch := [] })
      i (some 0) (some 0)
  (fires s (.tlbinvPage tb ta) → s.opR.toNat < 16 → gone (.page s.opR.toNat s.opL.toNat) (.tlbinvPage tb ta)) ∧
  (fires s (.tlbinvCtx tb ta) → s.opR.toNat < 16 → gone (.ctx s.opR.toNat) (.tlbinvCtx tb ta)) ∧
  (fires s (.tlbinvAll tb ta) → gone .all (.tlbinvAll tb ta))) ∧
  (∀ (s : State) (tb ta : Target), irrevocable s s.me = true →
  let la := s.opL.toNat
  let read := fun (a : Nat) (bs : List Byte) (u : State) =>
    (s.here.latch = [] ∧ a % 64 + 32 ≤ 64 ∧ mayPad s a 32 accLoad false false ∧ bs = padRead s s.me a 32 ∧
      u = s.modSlot s.me s.focus.slot fun x => { x with latch := bs }) ∨
    (s.here.latch = bs ∧ bs.length = 32 ∧ u = s)
  (fires s (.pgset tb ta) → la % 8 = 0 → isAperture la = false → isBacked la = true → acquirePending s s.me = false →
    releasePending s s.me true = false →
    exec (.pgset tb ta) s = completes s (hbmWrite s la (bytesOf 8 s.opR.toNat)) (.pgset tb ta) (some 0) (some 0)) ∧
  (∀ ap u, fires s (.apset tb ta) → la ≤ 63 → read s.opR.toNat ap u → apertureOk ap = true →
    let a : Aperture := { wbase := field ap 0 8, wsize := field ap 8 8, back := field ap 16 8, xform := field ap 24 8 }
    exec (.apset tb ta) s = completes s { u with apertures := lset u.apertures la a } (.apset tb ta) (some 0) (some 0)) ∧
  (fires s (.ctxsv tb ta) → la < 4096 → holderOf s la = none →
    exec (.ctxsv tb ta) s = completes s s (.ctxsv tb ta) (some 0) (some 0)) ∧
  (∀ g, fires s (.ctxsv tb ta) → la < 4096 → holderOf s la = some g →
    exec (.ctxsv tb ta) s = .next (owe
      (askVoid { s with savers := s.savers ++ [(g, claimOf s s.me s.focus.slot)] } g true) s.me s.focus.slot)) ∧
  (∀ bs u, fires s (.imgw tb ta) → read la bs u → imageOk bs = true →
    let va := field bs 0 8
    let n := field bs 8 4
    exec (.imgw tb ta) s = .next (acceptCopy u s.me s.focus.slot
      { newCopy 12 va 0 n 0 0 0 (linesFrom va n) [] with descv := bs })) ∧
  (fires s (.imgcmt tb ta) →
    exec (.imgcmt tb ta) s =
      .next (owe { s with
        nextId := s.nextId + 1
        batches := s.batches ++ [{ claim := claimOf s s.me s.focus.slot, slots := s.pending, images := s.shadow, bad := s.badBatch
                                   upto := s.nextId }]
        pending := [], shadow := [], badBatch := false } s.me s.focus.slot)) ∧
  (fires s (.elogrd tb ta) → la < (if coreIsControl s.me then Config.localBytes else Config.leafBytes) →
    la % 64 = 0 → logRefused s s.me la = none →
    (s.here.phase = 0 → acquirePending s s.me = false → copyPending s s.me la 1024 = false →
      let u := (takeLog s (s.log.take 16)).modSlot s.me s.focus.slot fun x =>
        { x with phase := 1, latch := (s.log.take 16).flatMap (·.2) }
      exec (.elogrd tb ta) s = .next (putLog (formOf (.elogrd tb ta)) u s.me s.focus.slot la)) ∧
    (∀ t, s.here.phase = 1 → 64 * s.here.arg < s.here.latch.length →
      padWrite s s.me (la + 64 * s.here.arg) (slice s.here.latch (64 * s.here.arg) 64) = some t →
      exec (.elogrd tb ta) s =
        .next ((stay t s.me s.focus.slot).modSlot s.me s.focus.slot fun x => { x with arg := x.arg + 1 })) ∧
    (s.here.phase = 1 → s.here.latch.length ≤ 64 * s.here.arg →
      exec (.elogrd tb ta) s =
        completes s s (.elogrd tb ta) (some (wordOfNat (s.here.latch.length / 64))) (some 0))))

/-- R170: an image whose CRC holds is written over its quire's shadow slot, which is then pending, and `IMGW` delivers its token; one whose
CRC fails writes nothing but its record, and `IMGW` delivers NULL. That the bytes of a shadow that no `IMGW` writes are those of the
configuration is the model's reading (log 57), and the polynomial and form of `crc32c` are presumed (log 58). -/
def Obligations.ImageWritten : Prop :=
  (∀ (s : State) (id : Nat) (c : CoreId) (k : Nat) (bs data : List Byte),
  let key := slotKey (field bs 12 2) (field bs 14 2)
  ((s.batches.any fun b => decide (id < b.upto)) = false →
    (crc32c data = field bs 20 4 → ∃ t, imageWrite s id c k bs data = (t, true) ∧
      tget t.shadow key = some (((tget s.shadow key).orElse fun _ => tget s.config key).getD [] |>.write (field bs 16 4) data) ∧
      (t.pending.any fun p => p == (key, loaderOf c)) = true ∧ t.batches = s.batches ∧ t.config = s.config ∧ t.hbm = s.hbm ∧
      t.leaves = s.leaves) ∧
    (crc32c data ≠ field bs 20 4 → ∃ t, imageWrite s id c k bs data = (t, false) ∧
      t.shadow = s.shadow ∧ t.pending = s.pending ∧ t.batches = s.batches ∧ t.badBatch = true)) ∧
  (∀ b xs, s.batches = b :: xs → id < b.upto →
    (crc32c data = field bs 20 4 → ∃ t y, imageWrite s id c k bs data = (t, true) ∧ t.batches = y :: xs ∧
      tget y.images key = some (((tget b.images key).orElse fun _ => tget s.config key).getD [] |>.write (field bs 16 4) data) ∧
      y.bad = b.bad ∧ (y.slots.any fun p => p == (key, loaderOf c)) = true ∧ t.shadow = s.shadow ∧ t.pending = s.pending) ∧
    (crc32c data ≠ field bs 20 4 → ∃ t, imageWrite s id c k bs data = (t, false) ∧
      t.batches = { b with bad := true } :: xs ∧ t.shadow = s.shadow ∧ t.pending = s.pending ∧ t.badBatch = s.badBatch))) ∧
  (∀ (s : State) (id : Nat) (x : Copy) (cl : Claim) (data : List Byte), x.kind = 12 → x.claim = some cl → x.reads = [] →
  x.lines = [] → x.owed = true → doneWord x.done = 0 → tget s.copies id = some x → copyRuns s x = true →
  x.bytes 0 x.len = some data →
  let u := imageWrite { s with copies := tdel s.copies id } id cl.core x.ctx x.descv data
  let v := if crc32c data = field x.descv 20 4 then some (0 : Word) else none
  ∀ l, exec (.moverLineLand id l) s = .next (payOwed u.1 cl v v))

/-- R171: `ERET` in handler mode settles its block's control output with the return; `WFI` on a control core completes when an
interrupt is pending or a new error record stands, which it then no longer is (the model's reading, logs 46 and 105), and waits while none
is; on a strand of CTX0 it completes when the Spine signals, which is a free value
(log 11), and waits otherwise. -/
def Obligations.HandlerInstructions : Prop := ∀ (s : State) (tb ta : Target),
  (∀ n t, s.me = .strand n t → fires s (.wfi tb ta) →
    exec (.wfi tb ta) s =
      if Config.spineSignal s.tick then completes s s (.wfi tb ta) (some 0) (some 0)
      else .next (stay s s.me s.focus.slot)) ∧
  ∀ k : Fin 16, s.me = .control k →
  (fires s .eret → (s.core k.val).handler = true →
    exec .eret s = .next (transfer s s.me s.focus.slot (some .eret))) ∧
  (fires s .eret → (s.core k.val).handler = false →
    exec .eret s = .next (blockFault s s.me (some s.focus.slot) 0x010A 0)) ∧
  (fires s (.wfi tb ta) → (s.core k.val).irq = true ∨ (s.core k.val).news = true →
    exec (.wfi tb ta) s = completes s (s.modCore k.val fun x => { x with news := false }) (.wfi tb ta) (some 0) (some 0)) ∧
  (fires s (.wfi tb ta) → (s.core k.val).irq = false → (s.core k.val).news = false →
    exec (.wfi tb ta) s = .next (stay s s.me s.focus.slot))

/-! ### Blocks and rounds -/

/-- R115, R30, R378: a fetch whose words pass the decode checks starts its block; a block whose outputs have all been produced
commits; a commit that would overrun the deadline, and a block without progress, fault instead. -/
def Obligations.BlocksFetchCommit : Prop := ∀ (s : State) (c : CoreId),
  (∀ ws u handler, (s.strand c).wait ≠ .stalled → mayFetch s c = true → (s.strand c).pc % 4 = 0 →
    fetchWords s c (s.strand c).pc = .ok (some ws, u) →
    handler = (match c with
      | .control k => (u.core k.val).handler
      | .strand _ _ => false) →
    decodeCheck (ws.getD 0 0) (ws.drop 1) (coreIsControl c || u.ctxOf c == 0) (coreIsControl c) handler
      (handler && (s.strand c).pc == 0) = none →
    exec (.blockFetch c) s = .next (startBlock u c (s.strand c).pc (ws.getD 0 0) (ws.drop 1))) ∧
  (∀ b t, (s.strand c).block = some b → mayCommit s c = true → overruns s c b = false → writeRegs s c b.regs = some t →
    exec (.blockCommit c) s = .next (commitTail t c b)) ∧
  (∀ b, (s.strand c).block = some b → mayCommit s c = true → overruns s c b = true →
    exec (.blockCommit c) s = .next s ∧
    exec (.deadlineOverrun c) s = .next (blockFault s c none 0x0130 (s.strand c).lastDl)) ∧
  (∀ b, (s.strand c).block = some b → noProgress s c b = true →
    exec (.noProgressWatchdog c) s =
      .next (blockFault s c none 0x0131 (b.slots.filter fun x => x.status == .idle).length))

/-- R30, R32, R90, R142: a commit with one transfer by address, no system write and no trap leaves no block in flight, goes on at the
target, counts the block, and enters the block's flags; where the block performed `RND` the strand waits for the round's commit. -/
def Obligations.CommitGoesOn : Prop := ∀ (s : State) (c : CoreId) (b : Block) (a : Nat),
  (s.strand c).block = some b → b.moves = [.goto a] → b.sys = [] → b.traps = [] →
  let t := commitTail s c b
  (t.strand c).block = none ∧ (t.strand c).pc = a ∧ (t.strand c).blkinrnd = (s.strand c).blkinrnd + 1 ∧
  (t.strand c).fpflags = (s.strand c).fpflags ||| b.flags ∧ (t.strand c).fpmode = (s.strand c).fpmode ∧
  (b.rnd = none → (t.strand c).wait = (s.strand c).wait) ∧
  (coreIsControl c = false → b.rnd.isSome = true → (t.strand c).wait = .atRnd ∧ (t.strand c).recorded = b.rnd)

/-- R371, R42, R44, R34: the round controller serves the first request of its queue; a round whose strands are all at their end, with
nothing of its engines outstanding, commits. -/
def Obligations.RoundsServed : Prop := ∀ (s : State) (g : Nat) (x : Gathering), s.gath g = some x →
  (∀ r q, x.queue = .fault r :: q →
    exec (.faultReport g) s = .next ((otherFaults s x.inst g).foldl writeRecord (endWith s x.inst r))) ∧
  (∀ r q, x.queue = .lost r :: q →
    exec (.faultReport g) s = .next (lostInRound (popQueue s g) g x r)) ∧
  (∀ r who core slot unit again q, x.queue = .service r who core slot unit again :: q →
    exec (.faultReport g) s = .next (serveService s g x r who core slot unit again)) ∧
  (∀ q t, x.queue = .grant :: q →
    publishAll ((popQueue s g).modGath g fun y => { y with irrev := true }) g = (t, none) →
    exec (.irrevocableGrant g) s = .next { t with reqs := t.reqs.map (releaseReq g) }) ∧
  (∀ save q, x.queue = .void save :: q → x.irrev = false → x.cut = 0 → x.retiring = false →
    exec (.roundVoid g) s =
      .next ((doVoid (popQueue s g) g).modGath g fun y => { y with saving := y.saving || save })) ∧
  (∀ save q, x.queue = .void save :: q → x.irrev = true ∨ x.cut ≠ 0 ∨ x.retiring = true →
    exec (.roundVoid g) s = .next ((popQueue s g).modGath g fun y => { y with saveDue := y.saveDue || save })) ∧
  (∀ t, x.cut = 0 → cutReady s g x = true → cutRound s g x = (t, none) →
    exec (.roundCommit g) s = .next (coverGath (finishRound t g) g)) ∧
  (x.cut ≠ 0 → exec (.roundCommit g) s = .next (coverGath (finishRound s g) g))

/-- R389, R410: the limits of a round end its instance with the record of their class. -/
def Obligations.RoundLimits : Prop := ∀ (s : State) (g : Nat) (x : Gathering), s.gath g = some x →
  ((gathStrands s x).any (fun st => st.wait == .sleeping) = false → gathHeld s g x = false →
    exec (.commitWatchdog g) s = .next (endWith s x.inst
      (controllerReport x 0x0220 ((gathStrands s x).filter fun st => st.wait == .atRnd).length))) ∧
  (64 ≤ x.voids → exec (.voidLimit g) s = .next (endWith s x.inst (controllerReport x 0x0221 (x.round % 65536)))) ∧
  (x.voids < 64 → exec (.voidLimit g) s = .next s) ∧
  (∀ i, x.cut = 2 → tagsFull s x.ctx = true → spawnRoom s x = false → tget s.insts x.inst = some i →
    exec (.spawnCommitHoldTimeout g) s = .next (endWith s x.inst
      (spineRecord 0x0408 (some x.ctx) (some x.tag) i.reqid i.graph ((x.nodes.map NodePlace.node).headD 0) 0)))

/-- R185, R447, R47, R196: a woken strand runs its block again; a remote watch is read again by an RLOAD of its own, also while its
gathering is saved, and with no implicit channel its access is refused (R429); a strand's wait may count as overdue; a full kettle
delivers every participant's token. Which of several remote watches of one place is read next is a free value (log 2). -/
def Obligations.WaitsEnd : Prop := ∀ s : State,
  (∀ c w, (s.strand c).watch = some w → (s.strand c).wait = .sleeping → w.woken = true →
    exec (.waitaWake c) s =
      .next (({ s with rereads := s.rereads.filter fun r => !(r.2.core == c && r.2.gath == s.gathOf c) } : State).modStrand c
        fun st => { st with wait := .running, watch := none, overdue := [] })) ∧
  (∀ c g k w (tag : BitVec 12),
    let ws := (sleepWatch s c ++ paperWatches s c).filter fun y => y.2.2.remote.isSome && !rereadOut s c y.1
    ws[pickOf s ws.length]? = some (g, k, w) →
    (∀ e, implicitSender s k (w.remote.getD 0) = some e → (usedTags s).contains tag.toNat = false →
      exec (.remoteWatchReread c tag) s = .next (putReread s c g k e tag.toNat w)) ∧
    (implicitSender s k (w.remote.getD 0) = none →
      exec (.remoteWatchReread c tag) s = .next (failReread s c g (noChannel s k none (w.remote.getD 0))))) ∧
  (∀ c w, (s.strand c).watch = some w → (s.strand c).wait = .sleeping → sleepWatch s c = [(s.gathOf c, s.ctxOf c, w)]) ∧
  (∀ c, coreIsControl c = false → waitsOf s c ≠ [] →
    exec (.swapWaitExpiry c) s = .next (s.modStrand c fun st => { st with overdue := waitsOf s c })) ∧
  (∀ g x (id : Fin 64) cs, s.gath g = some x → tget x.kettles id.val = some cs → gathRuns s x = true →
    kettleFull s x cs = true →
    exec (.kettleComplete g id) s = .next (cs.foldl (fun s c => payOwed s c tok tok)
      (s.modGath g fun y => { y with kettles := tdel y.kettles id.val })))

/-- R47, R408: a save with a free area writes the endpaper, frees the quires and the leaves, and notes the area; without an area it writes
its record once and is put off, and it is asked for again when an area is free. -/
def Obligations.ContextSaved : Prop := ∀ (s : State) (g : Nat) (x : Gathering), s.gath g = some x →
  (x.saving = true → x.voids < 64 →
    (∀ a, freeArea s x.ctx = some a → ∃ t p, exec (.contextSave g) s = .next (paySavers (enterSaved t g) g) ∧
      t.gaths = (freeGath s g x).gaths ∧ tget t.papers g = some p ∧ p.gath.saved = some a ∧ p.gath.area = a ∧ p.gath.inst = x.inst ∧
      (∀ n ∈ x.leaves, tget p.leaves n = some (paperLeaf (s.leaf n)))) ∧
    (freeArea s x.ctx = none → x.deferred = false →
      exec (.contextSave g) s =
        .next ((writeRecord s (deferReport x)).modGath g fun y => { y with saving := false, deferred := true }))) ∧
  (x.deferred = true → x.saving = false → x.saveDue = false → x.queue.contains (.void true) = false →
    (freeArea s x.ctx).isSome = true → exec (.contextSave g) s = .next (askVoid s g true))


/-! ### The host, launches and the Spine -/

/-- R54, R335, R336, R361: the doorbells and registers of the host. -/
def Obligations.HostEvents : Prop := ∀ s : State,
  (∀ ctx tail writes, exec (.submissionDoorbell ctx tail writes) s =
    .next (modPage (hostStores s writes) ctx.val fun p => { p with sqTail := tail.toNat })) ∧
  exec .fwsqDoorbell s = .next { s with fwSeen := s.fwTail } ∧
  (∀ ctx head, exec (.cqheadWrite ctx head) s = .next (modPage s ctx.val fun p => { p with cqHead := head.toNat })) ∧
  (∀ (k : Fin 16) (off : Nat) val, off < 4096 → exec (.hostRegisterWrite (0x100000 + 0x1000 * k.val + off) val) s =
    .next (modPage s k.val (pageWrite off val.toNat))) ∧
  (∀ off size bs, ((upTo bs.length).all fun i => isBacked (s.bar2 + off + i)) = true →
    exec (.hostBar2Access off size (some bs)) s = .next (hbmWrite s (s.bar2 + off) bs)) ∧
  (∀ off size, ((upTo size).all fun i => isBacked (s.bar2 + off + i)) = true →
    exec (.hostBar2Access off size none) s = .next { s with reads := s.reads ++ [s.hbm.read (s.bar2 + off) size] })

/-- R53, R55, R62, R338, R410: a launch record with no failing field, whose graph entry can be read and has none either, takes the
next tag of its context and leaves its source; R60, R69, R339: a request frame is held for its context, dropped and counted, or
answered BUSY; one for a parked port waits for its context. That a bad checksum and a length above 9,216 B are counted in `RPDROP` is the
model's reading (log 62). -/
def Obligations.LaunchesEnter : Prop :=
  (∀ (s u : State) (l : Launch) (g : List Byte) (k : Fin 16),
  l.ctx = k.val → launchBad s l = none → servedCtx s = some k.val →
  let p := (s.context k.val).page
  let good := fun (s : State) =>
    spineRead s (.admission k.val) k.val ((s.attrs k.val).graphBase + 16 * l.graph) 16 = .ok (g, u) ∧ graphBad l g = none
  let t := admitted (takeTag u l g) k.val
  (ringPending s k.val = true → good s →
    l = { ctx := k.val, record := s.host.read (p.sqBase + 64 * (p.sqHead % 2 ^ p.sqSize)) 64 } →
    exec (.launchAdmission (.ring k)) s =
      .next { modPage t k.val (fun p => { p with sqHead := (p.sqHead + 1) % 2 ^ 32 }) with lastCtx := k.val }) ∧
  (∀ v r, k = 0 → fwPending s 0 = true →
    spineRead s (.admission 0) 0 (s.fwBase + 64 * (s.fwHead % 2 ^ s.fwSize)) 64 = .ok (r, v) →
    launchBad v l = none → good v → l = { ctx := 0, record := r, fw := true } →
    exec (.launchAdmission .firmware) s = .next { t with fwHead := (t.fwHead + 1) % 2 ^ 32, lastCtx := 0 }) ∧
  (∀ f fs, (s.context k.val).frames = f :: fs → good s → l = frameLaunch k.val f →
    exec (.launchAdmission (.frame k)) s =
      .next { t.modContext k.val (fun c => { c with frames := c.frames.drop 1 }) with lastCtx := k.val }) ∧
  (∀ b bs, (s.context k.val).backlog = b :: bs → good s → l = childLaunch k.val b →
    exec (.spawnBacklogAdmit k) s =
      .next { t.modContext k.val (fun c => { c with backlog := c.backlog.drop 1 }) with lastCtx := k.val })) ∧
  (∀ (s : State) (f : Frame),
  ((f.fragmented = true ∨ f.sumOk = false ∨ frameLong f = true ∨ field f.payload 0 2 ≠ 0xD8A5 ∨ portCtx s f.udpPort = none) →
    exec (.requestFrame f) s = .next { s with drops := min (s.drops + 1) 0xFFFFFFFF }) ∧
  (f.fragmented = false → f.sumOk = true → frameLong f = false → field f.payload 0 2 = 0xD8A5 → ∀ k, portCtx s f.udpPort = some k →
    (∀ d, frameBad f.payload = some d → exec (.requestFrame f) s = .next (refuseFrame s k f d)) ∧
    (frameBad f.payload = none → (s.context k).parked.contains f.udpPort = false →
      ((s.context k).frames.length < Config.frameQueue →
        exec (.requestFrame f) s = .next (s.modContext k fun c => { c with frames := c.frames ++ [f] })) ∧
      (Config.frameQueue ≤ (s.context k).frames.length →
        exec (.requestFrame f) s = .next (sendReply s f.peer f.udpPort (cookieOf f) 1 []))) ∧
    (frameBad f.payload = none → (s.context k).parked.contains f.udpPort = true →
      ((s.parkedQ.filter fun x => x.1 == f.udpPort).length < Config.frameQueue →
        exec (.requestFrame f) s = .next { s with parkedQ := s.parkedQ ++ [(f.udpPort, f)], irqs := s.irqs ++ [vecParked] }) ∧
      (Config.frameQueue ≤ (s.parkedQ.filter fun x => x.1 == f.udpPort).length →
        exec (.requestFrame f) s = .next (sendReply s f.peer f.udpPort (cookieOf f) 1 [])))))

/-- R21, R52, R59, R66 to R69, R194, R336, R413: responses, retirement, COPY nodes, and the loading and unloading of contexts. That
a copy completes by a turn of its own (log 81), that a load keeps the rest of its context and takes the frames parked for its port,
and that an unload parks the frames held (log 87), are the model's readings. -/
def Obligations.InstancesServed : Prop := ∀ s : State,
  (∀ (k : Fin 16) bs ds, (s.context k.val).due = .entry bs :: ds → cqRoom (s.context k.val).page = true →
    exec (.responseDelivery k) s = .next (popDue (putCompletion s k.val bs) k.val)) ∧
  (∀ (k : Fin 16) i x ds, (s.context k.val).due = .inst i :: ds → tget s.insts i = some x →
    (x.dest = .ring → cqRoom (s.context k.val).page = true) →
    exec (.responseDelivery k) s = .next (respond s i x)) ∧
  (∀ i n x g y, tget s.insts i = some x → (s.gaths.find? fun g => g.2.inst == i && g.2.retire == n) = some (g, y) →
    nodeCovered s g y = true →
    exec (.nodeRetire i n) s = .next (work { paySavers (freeGath s g y) g with
      insts := tmod (paySavers (freeGath s g y) g).insts i fun x => retireNode (x.count + 1) x n } i)) ∧
  (∀ e x r u, tget s.pool e = some x → x.bound = true → x.kind = .copy → instFree s x.inst = true →
    spineRead s (.bind e) x.ctx x.src 32 = .ok (r, u) → copyNodeBad r = none →
    let v := freeInst u x.inst (.bind e)
    ∃ c : Copy, exec (.copyNodeRun e) s =
      .next { takeEntry { v with nextId := v.nextId + 1 } e x with copies := tset v.copies v.nextId c } ∧
    c.kind = 5 ∧ c.src = field r 0 8 ∧ c.dst = field r 8 8 ∧ c.len = field r 0x10 3 ∧ c.sel = field r 0x13 1 ∧
    c.dval = field r 0x14 4 ∧ c.done = field r 0x18 8 ∧ c.reads = linesFrom (field r 0 8) (field r 0x10 3) ∧
    c.lines = linesFrom (field r 8 8) (field r 0x10 3) ∧ c.ctx = x.ctx ∧ c.inst = x.inst ∧ c.node = x.node) ∧
  (∀ id x, tget s.copies id = some x → copyRuns s x = true →
    (∀ rd p l, x.todo[l % x.todo.length]? = some (rd, p) → x.hold = none ∨ x.stuck = none ∨ x.stuck = some (rd, p.1) →
      (rd = true → readFree s id x p = true → exec (.moverLineLand id l) s = .next (stepRead s id x p)) ∧
      (rd = false → lineFree s id x p = true → exec (.moverLineLand id l) s = .next (stepLand s id x p))) ∧
    (∀ l, x.todo = [] → exec (.moverLineLand id l) s = .next (finishCopy s id x))) ∧
  (∀ (k : Fin 16) attrs, (s.context k.val).ended = false →
    let u : State := { s with contexts := s.contexts.map (unpark attrs.udpPort) }
    exec (.contextLoad k attrs) s = .next { u.modContext k.val (fun c =>
      { c with
        attrs := some attrs
        frames := c.frames ++ (s.parkedQ.filter fun x => attrs.udpPort == some x.1).map (·.2) }) with
    parkedQ := s.parkedQ.filter fun x => attrs.udpPort != some x.1 }) ∧
  (∀ (k : Fin 16) a, (s.context k.val).attrs = some a → (s.context k.val).ended = false →
    let u := match a.udpPort with
      | some p => parkPort s k.val p
      | none => s
    let u := u.modContext k.val fun c => { c with ended := true, backlog := [] }
    let is := (u.context k.val).live.filter (instLive u)
    let v : State := { u with massHeld := u.massHeld.filter fun m => !is.contains m.1 }
    exec (.contextUnload k) s = .next (finishUnload (dropEvictions (is.foldl endUnloaded v) k.val) k.val))

/-- R51, R63, R65, R91, R287, R288, R348, R401: the ready pool, binds, evictions of declared ranges and settled pages. That an
eviction and the end of a settled period change page entries and drop cached translations in one step is the model's reading (log
84). -/
def Obligations.PoolServed : Prop := ∀ s : State,
  exec .spineDispatch s = .next (scan (workAll s) ((upTo 4).flatMap (classCandidates (workAll s)))) ∧
  (∀ e x, tget s.pool e = some x → x.bound = false → effClass s x ≠ 0 → hasClass s x.ctx (effClass s x - 1) = true →
    exec (.entryAging e) s = .next { s with pool := tset s.pool e { x with aged := x.aged + 1 } }) ∧
  (∀ e x, tget s.pool e = some x → x.bound = true → instFree s x.inst = true → x.kind ≠ .copy →
    (x.kind = .fabric ∨ x.kind = .stream → rangesGone s x = false ∧ entryPending s x = false) →
    (allAwake s x.quires = false → exec (.bind e) s = .next (wakeQuires s x.quires)) ∧
    (allAwake s x.quires = true → x.kind = .fabric ∨ x.kind = .stream → exec (.bind e) s = .next (bindNew s e x)) ∧
    (∀ g, allAwake s x.quires = true → x.kind = .saved g → exec (.bind e) s = .next (restore s e x g))) ∧
  (∀ (stack : Fin 8) k r, victim s stack.val = some (k, r) → (heldPages s k r).any (pageBusy s k) = false →
    let t := (heldPages s k r).foldl (evictPage k) (s, [])
    exec (.rangeEviction stack) s = .next { t.1 with
      evicted := (t.1.evicted.filter fun v => !(v.ctx == k && v.base == r.1 && v.len == r.2))
        ++ [{ ctx := k, base := r.1, len := r.2, pages := (heldPages s k r).map fun p => (p.1, 2 ^ levelShift p.2.level), data := t.2 }] }) ∧
  (∀ (k : Fin 16) va w, leafEntry s k.val va = some w → pteShare (natOfBytes (s.hbm.read w.src 8)) = 2 →
    let e := natOfBytes (s.hbm.read w.src 8)
    exec (.settledPeriodEnd k va) s = .next (uncache
      { s with hbm := s.hbm.write w.src (bytesOf 8 (e - bits e 7 6 * 2 ^ 6 - bits e 11 8 * 2 ^ 8)) } (.page k.val va)))

/-! ### Flow units, the vector pipeline, tiles and channels -/

/-- R206, R232 to R263: every event of a flow unit and of the vector pipeline completes, on conditions on the unit's state, its record
and the heads of its inputs alone: `scannerStep` (16 elements, the last ones, a fibre of a dense level, a parent, or the marks of its
level), `scannerRefill` (pos, elements and descriptor), `isectStep` and `unionStep` (two heads compared, or two marks), `repeatStep`,
`reduceStep`, `spaccStep`, `lwriteStep`, `gatherStep`, `scatterStep`, `filterStep`, `coalesceStep` and `agenStep` (a token taken or
made), `vpStep` (a token through the stages of the pipeline) and `skipReceive` (a SKIP removed at a scanner's SKIP input). Then, for
every step that meets no error, wait or request for the grant, its tokens leave. Draws under SR count tokens as logs 121 and 124 say,
which are the model's choice. -/
def Obligations.UnitsWork : Prop := ∀ (s : State) (n : Nat) (u : FUnit),
  let v := flushUnit s n u
  let x := v.unit n u
  let does := fun (i : Instr) (t : State) => exec i s = .next (stepped t n u)
  let flow := v.modFlow n u
  (unitReady s n u [1, 2, 3, 4, 5] →
    (∀ f, x.st.fibre = some f → 16 ≤ f.elems.length →
      does (.scannerStep n u) (emitElems (flow fun st => { st with fibre := some { f with elems := f.elems.drop 16 } }) n u
        (f.elems.take 16))) ∧
    (∀ f, x.st.fibre = some f → f.elems.length < 16 → f.ready = true → f.stop ≤ f.next →
      does (.scannerStep n u) (emitElems (flow fun st => { st with fibre := none }) n u f.elems)) ∧
    (∀ f, x.mode = 1 → x.st.fibre = some f → f.elems.length < 16 → f.ready = true → f.next < f.stop →
      let c := max f.next f.skip
      let k := min 16 (f.stop - c)
      let es := (upTo k).map fun i => (c + i, f.stop * f.parent + c + i)
      beyond es = none → does (.scannerStep n u) (flow fun st => { st with fibre := some (addElems { f with next := c + k } es) })) ∧
    (∀ p ps, x.st.fibre = none → x.st.parents = p :: ps →
      does (.scannerStep n u) ((turnPending v n u).modFlow n u fun st =>
        { st with parents := ps, fibre := some (newFibre x p) })) ∧
    (∀ p h, x.st.fibre = none → x.st.parents = [] → holdsTok v n u 0 p h →
      (h.kind = .data → does (.scannerStep n u) ((tookTok v n u 0 p h).modFlow n u fun st =>
        { st with parents := (validLanes h).map fun i => (h.lane i).toNat })) ∧
      (h.kind = .stop → h.level < 6 → does (.scannerStep n u)
        (emitStop ((tookTok v n u 0 p h).modFlow n u fun st => { st with pendS0 := false }) n u (h.level + 1)))) ∧
    (x.st.fibre = none → x.st.parents = [] → x.inp 0 = none →
      let w := flow fun st => { st with root := st.root + 1 }
      does (.scannerStep n u) (
        if x.st.root = 0 then w.modFlow n u fun st => { st with parents := [0] }
        else if x.st.root = 1 then emitStop (w.modFlow n u fun st => { st with pendS0 := false }) n u 0
        else endUnit (emitBoth w n u (bareTok .done)) n u))) ∧
  (unitReady s n u [2, 5] → ∀ f, x.st.fibre = some f → f.ready = false →
    (∀ bs t, f.pos = none → unitRead v n u (x.body 0x10 8 + 4 * f.parent) 8 = .ok (bs, t) →
      let p0 := field bs 0 4
      let p1 := field bs 4 4
      (p1 < p0 → x.body 0x2C 4 % 2 = 1 → does (.scannerRefill n u)
        ((t.modUnit n u fun x => { x with clamp := true }).modFlow n u fun st => { st with fibre := some (emptyFibre f) })) ∧
      (p0 ≤ p1 → does (.scannerRefill n u) (t.modFlow n u fun st => { st with fibre := some { f with pos := some (p0, p1) } }))) ∧
    (∀ p0 p1, f.pos = some (p0, p1) →
      let m := min (p1 - p0) (ringCap x)
      (∀ cs t w, f.filled < m →
        let a := x.body 0x18 8 + 4 * (p0 + f.filled)
        let i := min (m - f.filled) (min (16 - x.st.wpos % 16) ((64 - a % 64) / 4))
        unitRead v n u a (4 * i) = .ok (cs, t) → unitLeafWrite t n u (ringBase x + 4 * x.st.wpos) cs = .ok ((), w) →
        does (.scannerRefill n u) ((w.modFlow n u fun st => { st with wpos := (x.st.wpos + i) % ringCap x }).modFlow n u fun st =>
          { st with fibre := some { f with filled := f.filled + i } })) ∧
      (∀ t, m ≤ f.filled →
        unitLeafWrite v n u (x.body 0x28 4 % 2 ^ 18) (bytesOf 4 p0 ++ bytesOf 4 p1 ++ bytesOf 4 m ++ bytesOf 4 x.st.wpos) = .ok ((), t) →
        does (.scannerRefill n u) (t.modFlow n u fun st =>
          { st with fibre := some { f with ready := true, next := p0, stop := p1, have_ := m } })))) ∧
  (∀ a as b bs, x.st.heads.getD 0 [] = a :: as → x.st.heads.getD 1 [] = b :: bs →
    let both := emitPair (dropSide (dropSide v n u 0) n u 1) n u a.1 a.2 b.2
    let fill := x.body 0x14 4
    (unitReady s n u [0x08] → does (.isectStep n u) (
      if a.1 = b.1 then both else if a.1 < b.1 then sendSkip (dropSide v n u 0) n u 0 b.1 a.1
      else sendSkip (dropSide v n u 1) n u 1 a.1 b.1)) ∧
    (unitReady s n u [0x09] → does (.unionStep n u) (
      if a.1 = b.1 then both else if a.1 < b.1 then emitPair (dropSide v n u 0) n u a.1 a.2 fill
      else emitPair (dropSide v n u 1) n u b.1 fill b.2))) ∧
  (∀ a b, x.st.heads.getD 0 [] = [] → x.st.heads.getD 1 [] = [] → x.st.marks.getD 0 none = some a → x.st.marks.getD 1 none = some b →
    a.kind = .stop → b.kind = .stop → a.level = b.level →
    let w := (emitMark (flushPair v n u) n u (bareTok .stop a.level)).modFlow n u fun st =>
      { st with marks := [none, none], lastCrd := [none, none], skipped := [none, none], taken := st.taken.map (· + 1) }
    (unitReady s n u [0x08] → does (.isectStep n u) w) ∧ (unitReady s n u [0x09] → does (.unionStep n u) w)) ∧
  (∀ p h, holdsTok v n u 0 p h →
    let w := tookTok v n u 0 p h
    (unitReady s n u [0x0A] → x.st.took = true →
      (h.kind = .data → does (.repeatStep n u) (emitTok w n u 0
        { h with lanes := (upTo 16).map fun i => if testBit h.deckle.toNat i then (w.flow n u).repl else 0 })) ∧
      (h.kind = .stop → h.level = 0 → does (.repeatStep n u)
        ((emitTok w n u 0 (bareTok .stop 0)).modFlow n u fun st => { st with took := false }))) ∧
    (unitReady s n u [0x0C] →
      (h.kind = .data → does (.reduceStep n u) (reduceLanes n u h (countDraw w n u))) ∧
      (h.kind = .stop → 1 ≤ h.level → h.level < x.body 0x12 1 → does (.reduceStep n u) (emitTok (flushPacked
        ((pushPacked w n u 1 [(w.flow n u).sum]).modFlow n u fun st => { st with sum := 0 }) n u 1) n u 0
        (bareTok .stop (h.level - 1))))) ∧
    (unitReady s n u [0x10] → x.st.toks = [] → testBit (x.body 0x1C 1) 1 = false →
      let w := w.modFlow n u fun st => { st with chain := st.chain - 1 }
      (h.kind = .data → does (.gatherStep n u) (keepToks w n u [h])) ∧
      (h.kind = .stop → does (.gatherStep n u) (emitTok w n u 0 (bareTok .stop h.level)))) ∧
    (unitReady s n u [0x12] → testBit (x.body 0x10 1) 3 = true → x.inp 2 = none → x.inp 3 = none →
      let ks := keptLanes (w.unit n u) [h]
      let b := (w.unit n u).body 0x10 1
      (h.kind = .data → does (.filterStep n u)
        (if testBit b 6 = true ∧ ks = [] then w else emitTok w n u 0 (keepLanes (testBit b 5) ks h))) ∧
      (h.kind = .stop → does (.filterStep n u) (emitTok w n u 0 (bareTok .stop h.level)))) ∧
    (unitReady s n u [0x13] → x.inp 1 = none → x.inp 2 = none →
      (h.kind = .data →
        let t := (stepElems [0] [h]).foldl (fun t e => pushPacked t n u 3 e) w
        let was := if (w.flow n u).packed = [] then 0 else (w.flow n u).packing
        does (.coalesceStep n u) (t.modFlow n u fun st => { st with packing :=
          if st.packed = [] then 0 else if (t.unit n u).outq.length = (w.unit n u).outq.length then was + 1 else 1 })) ∧
      (h.kind = .stop → does (.coalesceStep n u) (emitTok (flushPacked w n u 3) n u 0 (bareTok .stop h.level)))) ∧
    (unitReady s n u [0x14] → x.body 0x18 1 % 4 = 1 → x.st.toks = [] → h.kind = .data →
      agenMatches (agenExpect x) h = true → does (.agenStep n u) (keepToks w n u [h]))) ∧
  (∀ p q a b, p ≠ q → holdsTok v n u 0 p a → holdsTok v n u 1 q b → a.kind = .data → b.kind = .data → a.level = b.level →
    a.deckle = b.deckle → x.st.toks = [] →
    let w := tookTok (tookTok v n u 0 p a) n u 1 q b
    (unitReady s n u [0x0D] → x.st.drain = none → does (.spaccStep n u) (keepToks (countDraw w n u) n u [a, b])) ∧
    (unitReady s n u [0x0E] → x.st.begun = true → does (.lwriteStep n u) (keepToks w n u [a, b])) ∧
    (unitReady s n u [0x11] → does (.scatterStep n u) (keepToks w n u [a, b]))) ∧
  (∀ c, unitReady s n u [0x0D] → x.st.drain = some c → x.body 0x18 4 ≤ c →
    let w := flushPacked v n u 2
    does (.spaccStep n u) ((emitTok (emitTok w n u 0 (bareTok .stop x.st.level)) n u 1 (bareTok .stop x.st.level)).modFlow n u
      fun st => { st with drain := none })) ∧
  (unitReady s n u [0x0E] → x.st.begun = false → testBit (x.body 0x28 4) 0 = false →
    does (.lwriteStep n u) (flow fun st => { st with begun := true })) ∧
  (unitReady s n u [0x14] → x.body 0x18 1 % 4 ≠ 1 →
    (∀ k, x.st.drain = some k → does (.agenStep n u) ((emitTok v n u 0 (bareTok .stop k)).modFlow n u fun st =>
      { st with drain := none })) ∧
    (x.st.drain = none → x.st.closed = true → does (.agenStep n u) (endUnit (emitTok v n u 0 (bareTok .done)) n u)) ∧
    (x.st.drain = none → x.st.closed = false → x.body 0x18 1 % 4 = 2 → does (.agenStep n u) (agenAdvance (emitTok v n u 0
      (packTok ((upTo (agenLanes x)).map fun j => (wordOfInt (agenOffset x j)).setWidth 32))) n u))) ∧
  (∀ p h, n < Config.leafCount → vpRuns s n = true →
    let v := flushVp s n
    (v.vp n).run = true → (v.vp n).outq = [] → (v.vp n).ending = false → vpFeeds (v.vp n).record = [(0, .port p)] →
    headOf v n p = some h → h.kind = .data → h.level = 0 → h.late = false → rtSkip ((v.leaf n).routes.getD p 0) = false →
    let w := (dropHead v n p).modVp n fun x =>
      vpMark (vpPol (v.vp n).record == 0) { x with taken := x.taken + 1 } ((0, .port p), h)
    let r := vpData w n (w.vp n) (0xFFFF &&& h.deckle).toNat (vpPayloads [(0, .port p)] [h])
    exec (.vpStep n) s = .next (flushVp (w.modVp n fun _ => { r.1 with outq := r.1.outq ++ r.2 }) n)) ∧
  (∀ p k, n < Config.leafCount → unitRuns s n u = true → isScan (s.unit n u).mode = true → (s.unit n u).skp 0 = some p →
    headOf s n p = some k → k.kind = .skip → rtSkip ((s.leaf n).routes.getD p 0) = true →
    exec (.skipReceive n u) s = .next ((dropHead s n p).modFlow n u fun st =>
      { st with fibre := if k.epoch = st.stops % 32 then st.fibre.map (skipFibre (k.lane 0).toNat) else st.fibre })) ∧
  (∀ t,
    (unitActs s n u [1, 2, 3, 4, 5] scanStep t → exec (.scannerStep n u) s = .next (stepped t n u)) ∧
    (unitActs s n u [2, 5] (fun s n u => match (s.flow n u).fibre with
        | some f => if f.ready then moreRefill s n u f else firstRefill s n u f
        | none => (s, some .wait)) t → exec (.scannerRefill n u) s = .next (stepped t n u)) ∧
    (unitActs s n u [0x08] (pairStep false) t → exec (.isectStep n u) s = .next (stepped t n u)) ∧
    (unitActs s n u [0x09] (pairStep true) t → exec (.unionStep n u) s = .next (stepped t n u)) ∧
    (unitActs s n u [0x0A] repeatStep t → exec (.repeatStep n u) s = .next (stepped t n u)) ∧
    (unitActs s n u [0x0C] reduceStep t → exec (.reduceStep n u) s = .next (stepped t n u)) ∧
    (unitActs s n u [0x0D] spaccStep t → exec (.spaccStep n u) s = .next (stepped t n u)) ∧
    (unitActs s n u [0x0E] lwriteStep t → exec (.lwriteStep n u) s = .next (stepped t n u)) ∧
    (unitActs s n u [0x10] gatherStep t → exec (.gatherStep n u) s = .next (stepped t n u)) ∧
    (unitActs s n u [0x11] scatterStep t → exec (.scatterStep n u) s = .next (stepped t n u)) ∧
    (unitActs s n u [0x12] filterStep t → exec (.filterStep n u) s = .next (stepped t n u)) ∧
    (unitActs s n u [0x13] coalesceStep t → exec (.coalesceStep n u) s = .next (stepped t n u)) ∧
    (unitActs s n u [0x14] (fun s n u => if (s.unit n u).body 0x18 1 % 4 = 1 then agenTake s n u else agenEmit s n u) t →
      exec (.agenStep n u) s = .next (stepped t n u)) ∧
    (vpActs s n t → exec (.vpStep n) s = .next (flushVp t n)))

/-- R14, R83, R219, R221, R224, R225, R348: tiles change sides, matrix commands read their lines and write those of C, one a step in
increasing order (the model's reading, logs 22 and 51), and tokens and credits travel. -/
def Obligations.TilesAndChannels : Prop := ∀ s : State,
  (∀ n t, n < Config.leafCount → (s.leaf n).turn = some t → (s.leaf n).vfull = true →
    ((readersOf s n).any fun x => t.before.contains x.num) = false → tstReaders s n = [] →
    let u := s.modLeaf n fun l => { l with swap := !l.swap, rfull := true, vfull := false, turn := none }
    exec (.tileSwap n) s = .next (payOwed (sendTurn u n t) t.claim tok tok)) ∧
  (∀ q x xs p k la, q < Config.quireCount → (s.quire q).queue = x :: xs → mxRuns s x = true →
    (x.read = 0 → (s.quire q).started.length < 2 ∧ mxHeld s q x = false ∧
      (s.leaf (leafIn q (mxA x.word))).rfull = true ∧ (s.leaf (leafIn q (mxB x.word))).rfull = true) →
    (mxLines x.word)[x.read]? = some (p, k, la) → leafPoisoned (s.leaf (leafIn q k)) la 64 = false →
    let y := takeLine x p (leafRead s (leafIn q k) la 64)
    exec (.mxCommandStart q) s = .next (s.modQuire q fun v =>
      if x.read + 1 = (mxLines x.word).length then { v with queue := xs, started := v.started ++ [y] }
      else { v with queue := y :: xs })) ∧
  (∀ q x xs u, q < Config.quireCount → (s.quire q).started = x :: xs → mxRuns s x = true →
    let n := leafIn q (mxC x.word)
    let la := tileLine (s.leaf n) (mxTile x.word) 0 + 64 * x.wrote
    let line := mxLine x x.wrote (leafRead s n la 64)
    let fl := x.flags ||| line.2
    (mxAcc x.word = true → leafPoisoned (s.leaf n) la 64 = false) → leafWrite s n la line.1 = some u →
    (x.wrote < 255 → exec (.mxCommandComplete q) s =
      .next (u.modQuire q fun v => { v with started := { x with wrote := x.wrote + 1, flags := fl } :: xs })) ∧
    (255 ≤ x.wrote → exec (.mxCommandComplete q) s = .next ((u.modQuire q fun v => { v with started := xs }).modLeaf n fun l =>
      { l with accFlags := lmod l.accFlags (mxTile x.word) (· ||| fl) }))) ∧
  (∀ n (p : Fin 8) m q t ts, n < Config.leafCount → liveChannel s n p.val = some (m, q) →
    ((s.leaf n).outputs.getD p.val {}).inflight = t :: ts → quireAwake s m = true →
    exec (.tokenDelivery n p) s = .next
      ((s.modLeaf n fun l => { l with outputs := lmod l.outputs p.val fun o => { o with inflight := ts } }).modLeaf m
        fun l => { l with inputs := lmod l.inputs q fun i => { i with held := i.held ++ [t] } })) ∧
  (∀ n (p : Fin 8), n < Config.leafCount → ((s.leaf n).outputs.getD p.val {}).credits ≠ 0 →
    exec (.creditReturn n p) s = .next (pumpSends (s.modLeaf n fun l => { l with outputs := lmod l.outputs p.val fun o =>
      { o with free := o.free + 1, credits := o.credits - 1 } }) n))

/-! ### Memory, the mesh and the key-value engines -/

/-- R272 to R277, R395: a request is looked up; a miss queues for one of the 32 walkers of its folio, which reads one entry at a time once
that read has had its turn at its memory port, and the request goes on to its port or waits for the grant; a fault turns it away. The
miss of an engine, of a block fetch or of the Spine (R270, R276) is walked in the same queue, and what its walk finds stands in the miss;
nothing of the Spine's own accesses is cached. -/
def Obligations.RequestsTranslated : Prop :=
  (∀ (s : State) (id : Nat) (r : Request), tget s.reqs id = some r →
    let place := placeOf r.core r.ctx r.va
    (lookable s r = true →
      (∀ e x t, tlbFind s place r.ctx r.va = some e → applyEntry s e r.va r.acc false = .ok (x, t) →
        exec (.tlbLookup id) s = .next (routeReq t id r x)) ∧
      (∀ e f, tlbFind s place r.ctx r.va = some e → applyEntry s e r.va r.acc false = .error f →
        exec (.tlbLookup id) s = .next (failReq s id r f)) ∧
      (tlbFind s place r.ctx r.va = none →
        exec (.tlbLookup id) s = .next (setReq { s with nextId := s.nextId + 1 } id
          { r with stage := .walk, seq := s.nextId, level := 4, table := (s.attrs r.ctx).root.toNat }))) ∧
    (r.stage = .walk → walksBefore s (walkPlace place) r.seq < 32 → ∀ v,
      (walkTurn s id place r.ctx r.va r.level r.table = (v, false) → exec (.pageWalk id) s = .next v) ∧
      (walkTurn s id place r.ctx r.va r.level r.table = (v, true) →
        (∀ w a, walkLevel v (walkPlace place) r.ctx r.va r.level r.table = .ok (.table w a) →
          exec (.pageWalk id) s = .next (setReq (keepWalk v w) id { r with level := r.level - 1, table := a })) ∧
        (∀ pte src e t, walkLevel v (walkPlace place) r.ctx r.va r.level r.table = .ok (.leaf pte src) →
          enterLeaf v place r.ctx r.va pte r.level src = (e, t) →
          (∀ x u, applyEntry t e r.va r.acc false = .ok (x, u) → exec (.pageWalk id) s = .next (routeReq u id r x)) ∧
          (∀ f, applyEntry t e r.va r.acc false = .error f → exec (.pageWalk id) s = .next (failReq t id r f))) ∧
        (∀ f, walkLevel v (walkPlace place) r.ctx r.va r.level r.table = .error f →
          exec (.pageWalk id) s = .next (failReq v id r f))))) ∧
  (∀ (s : State) (id : Nat) (m : Miss), tget s.reqs id = none → tget s.misses id = some m →
    m.leaf = none → m.fault = none → walksBefore s (walkPlace m.place) id < 32 → ∀ v,
      let now := fun (u : State) (x : Miss) => exec (.pageWalk id) s = .next { u with misses := tset u.misses id x }
      (walkTurn s id m.place m.ctx m.va m.level m.table = (v, false) → exec (.pageWalk id) s = .next v) ∧
      (walkTurn s id m.place m.ctx m.va m.level m.table = (v, true) →
        (∀ w a, walkLevel v (walkPlace m.place) m.ctx m.va m.level m.table = .ok (.table w a) →
          (528 ≤ m.place → now v { m with level := m.level - 1, table := a }) ∧
          (m.place < 528 → now (keepWalk v w) { m with level := m.level - 1, table := a })) ∧
        (∀ pte src e t, walkLevel v (walkPlace m.place) m.ctx m.va m.level m.table = .ok (.leaf pte src) →
          enterLeaf v m.place m.ctx m.va pte m.level src = (e, t) → now t { m with leaf := some e }) ∧
        (∀ f, walkLevel v (walkPlace m.place) m.ctx m.va m.level m.table = .error f → now v { m with fault := some f })))

/-- R39, R43, R70, R71, R178 to R181, R185: a memory port with one request, at which no engine waits, serves it: what a load, an atomic
and a compare-and-swap of a page homed here do and deliver; a store, which is made at once by a control core or in an irrevocable round
and is staged in a revocable one; and a `WAITA`, which answers when its condition holds and else arms its watch. -/
def Obligations.PortServes : Prop := ∀ (s : State) (p : Fin 256) (id : Nat) (r : Request),
  s.reqs.filter (servable s p.val) = [(id, r)] → ((s.port p.val).queue.all fun u => !portWaits s u.1) = true → r.ctx < 16 →
  ∃ t : State, exec (.memoryPortService p) s = .next (serveReq t id r) ∧
    t = { s with ports := t.ports } ∧
    (∀ sgn, r.op = .load sgn → r.home = s.pkg → readBad s r.gath r.home r.pa r.size = false →
      serveReq t id r = answer t id (some (extendTo r.size sgn (natOfBytes (deviceRead s r.gath r.home r.pa r.size))))) ∧
    (∀ d, r.op = .store d → r.gath.bind s.gath = none → r.home = s.pkg →
      serveReq t id r = answer (hbmWrite t r.pa d) id tok) ∧
    (∀ d g x, r.op = .store d → r.gath = some g → s.gath g = some x → r.home = s.pkg → x.irrev = true →
      serveReq t id r = answer (hbmWrite t r.pa d) id tok) ∧
    (∀ d g x, r.op = .store d → r.gath = some g → s.gath g = some x → (r.home = s.pkg ∨ irrevocable s r.core = false) →
      x.irrev = false → stagedAt x (portOf r.pa) + d.length ≤ (s.attrs r.ctx).allotment →
      portHeld s (portOf r.pa) + d.length ≤ Config.portBuffer →
      serveReq t id r = answer (t.modGath g fun x =>
        { x with staged := x.staged ++ [{ port := portOf r.pa, pa := r.pa, home := r.home, op := .store d, core := some r.core }] }) id tok) ∧
    (∀ cond cmp sgn plain, r.op = .waita cond cmp sgn plain → r.home = s.pkg → readBad s r.gath r.home r.pa r.size = false →
      let bs := deviceRead s r.gath r.home r.pa r.size
      let v := extendTo r.size sgn (natOfBytes bs)
      let u := dropReq t id
      (waitHolds cond v cmp = true → serveReq t id r = answer t id (some v)) ∧
      (waitHolds cond v cmp = false → serveReq t id r = sleepOn (drainReqs r.core u.reqs.length u) r.core
        { device := true, line := r.pa / 64, va := r.va, size := r.size, seen := natOfBytes bs, remote := none })) ∧
    (∀ op arg, r.op = .atomic op arg → r.home = s.pkg → hbmPoisoned s r.pa r.size = false →
      serveReq t id r = answer
        (hbmWrite (if op = 7 then noteStray t r.pa else t) r.pa
          (bytesOf (atomicSize op) (atomicOp op (wordOfNat (natOfBytes (s.hbm.read r.pa (atomicSize op)))) arg).toNat))
        id (some (wordOfNat (natOfBytes (s.hbm.read r.pa (atomicSize op)))))) ∧
    (∀ e new sgn, r.op = .cas e new sgn → hbmPoisoned s r.pa r.size = false →
      let old := natOfBytes (s.hbm.read r.pa r.size)
      serveReq t id r = answer (if old = e.toNat % 2 ^ (8 * r.size) then hbmWrite t r.pa (bytesOf r.size new.toNat) else t)
        id (some (extendTo r.size sgn old)))

/-- R390, R402, R405, R415: errors of the mesh, of HBM and of round buffers. Whether a corrected retry writes its record is free
(log 11), and the unit fields of a router's record are the model's reading (log 88). -/
def Obligations.ErrorsHandled : Prop := ∀ s : State,
  (∀ n (dir : Fin 4) m g x, n < Config.leafCount → linkEnd n dir.val = some m → s.gath g = some x →
    let k := (tget s.meshFix n).getD 0 + 1
    let key := linkKey n dir.val
    exec (.meshFlitRetry n dir (.flit g) true) s = .next (
      if Config.meshReport s.tick then writeRecord { s with meshFix := tset s.meshFix n 0 } (meshReport n dir.val m 0x0230 sevCorrected k)
      else { s with meshFix := tset s.meshFix n k }) ∧
    exec (.meshFlitRetry n dir (.flit g) false) s =
      .next (lostInRound { s with meshBad := tset s.meshBad key ((tget s.meshBad key).getD 0 + 1) } g x
        (namingGath (meshReport n dir.val m 0x0231 sevTask 0) x n))) ∧
  (∀ n (dir : Fin 4) m, n < Config.leafCount → linkEnd n dir.val = some m →
    let key := linkKey n dir.val
    let k := (tget s.meshBad key).getD 0
    let r := meshReport n dir.val m 0x0232 sevFolio k
    let t := folioReset (writeRecord { s with meshBad := tset s.meshBad key 0 } r) r (folioOf n)
    16 ≤ k → exec (.meshLinkFailure n dir) s = .next (match m with
      | .leaf j => if isBridge n m then folioReset t r (folioOf j) else t
      | .port _ => t)) ∧
  (∀ n (dir : Fin 4) (slot : Fin 64) ok p, n < Config.leafCount → headIn (s.leaf n) slot.val = some p →
    exec (.meshFlitRetry n dir (.slotWord slot) ok) s =
      .next (s.modLeaf n fun l => { l with inputs := lmod l.inputs p fun i => { i with flaw := some ok } })) ∧
  (∀ n p g x t ts, (s.leaf n).gath = some g → s.gath g = some x → ((s.leaf n).inputs.getD p {}).held = t :: ts →
    let slot := slotBase (s.leaf n).routes p + ((s.leaf n).inputs.getD p {}).head % max 1 (rtCount ((s.leaf n).routes.getD p 0))
    let r := fun cls sev => namingGath (slotReport s n p slot cls sev t) x n
    (((s.leaf n).inputs.getD p {}).flaw = none → checkHead s n p = s) ∧
    (((s.leaf n).inputs.getD p {}).flaw = some true → checkHead s n p = writeRecord s (r 0x0234 sevCorrected)) ∧
    (((s.leaf n).inputs.getD p {}).flaw = some false →
      checkHead s n p = s.modGath g fun x => { x with queue := x.queue ++ [.lost (r 0x0235 sevTask)] })) ∧
  (∀ line, isAperture (64 * line) = false → isBacked (64 * line) = true →
    exec (.hbmScrub line .corrected) s = .next (writeRecord s (hbmReport s (64 * line) 0x0312 sevCorrected)) ∧
    exec (.hbmScrub line .uncorrectable) s =
      .next (writeRecord (spoil s (64 * line) 64) (hbmReport s (64 * line) 0x0313 sevDeferred))) ∧
  (∀ g (p : Fin 256) x, s.gath g = some x → (x.staged.any fun y => y.port == p.val) = true → x.queue.head? ≠ some .grant →
    exec (.roundBufferError g p) s = .next (lostInRound s g x (bufferReport s x p.val)))

/-- R18, R310, R315 to R317, R414: the gate of an eviction request, and the eviction of one that has passed it, each made at the memory
port of its engine: what it writes, then `STATUS`, then the done word. That an eviction is planned whole and its writes are made in one
step, once each of its reads and writes has had its turn, is the model's reading (log 71). -/
def Obligations.EvictionsServed : Prop := ∀ (s : State) (e : Fin 64) (r : EvictReq),
  let q := (tget s.evicts e.val).getD []
  let u := PortUser.evict e.val
  let turn := fun (w : Await) (va : Nat) => await s u hubPlace r.ctx va w
  let next := fun (t : State) => exec (.kvEviction e) s = .next t
  ((q.find? fun r => !r.begun) = some r → ∀ t,
    (portGate s (.gate e.val) r.ctx (r.pa + 0x20) 8 = (t, false) → exec (.kvGateCheck e) s = .next t) ∧
    (portGate s (.gate e.val) r.ctx (r.pa + 0x20) 8 = (t, true) →
      let gate := field (t.hbm.read (r.pa + 0x20) 8) 0 8
      let r' := { r with begun := true, claim := { r.claim with blk := deadBlk } }
      (gate % 2 ^ 32 = 0 → testBit gate 32 = false → exec (.kvGateCheck e) s =
        .next (payOwed (kvSet (hbmWrite t (r.pa + 0x20) (bytesOf 8 (gate + 2 ^ 32))) e.val r r') r.claim tok tok)) ∧
      (gate % 2 ^ 32 ≠ 0 ∨ testBit gate 32 = true → exec (.kvGateCheck e) s =
        .next (payOwed (kvSet t e.val r { r' with fin := some { code := 3, wrote := true } }) r.claim tok tok)))) ∧
  ((q.find? fun r => r.begun) = some r →
    (r.fin = none →
      (∀ p t, kvPlan s (some e.val) r = .ok (p, t) → next (kvSet (endAccess (runPlan t p) u) e.val r
        { r with fin := some { code := if p.evicted = 0 then 2 else 1, evicted := p.evicted } })) ∧
      (∀ f x w, kvPlan s (some e.val) r = .error f → f.fault = some x → x.wait = some w → next (turn w x.va)) ∧
      (∀ f, kvPlan s (some e.val) r = .error f → (f.fault.bind fun x => x.wait) = none →
        next (kvSet (endAccess s u) e.val r { r with fin := some (kvFailed s e.val r f) }))) ∧
    (∀ x, r.fin = some x → x.wrote = false →
      (∀ t, kvTurns s (some e.val) accStore r.seq (r.pa + 0x24) 4 = .ok t →
        let old := field (t.hbm.read (r.pa + 0x24) 4) 0 4
        let new := (bits old 31 16 + 1) % 65536 * 65536 + bits old 15 4 * 16 + x.code * 2
        next (kvSet (hbmWrite (endAccess t u) (r.pa + 0x24) (bytesOf 4 new)) e.val r { r with fin := some { x with wrote := true } })) ∧
      (∀ f y w, kvTurns s (some e.val) accStore r.seq (r.pa + 0x24) 4 = .error f → f.fault = some y → y.wait = some w →
        next (turn w y.va))) ∧
    (∀ x, r.fin = some x → x.wrote = true →
      (r.done = 0 → next (kvPop s e.val r x.records)) ∧
      (∀ ps t, r.done ≠ 0 → kvParts (some e.val) r.ctx accStore [(r.done, 8)] [] s = .ok (ps, t) →
        let bs := bytesOf 8 (r.dval + x.code * 2 ^ 32 + x.evicted % 2 ^ 24 * 2 ^ 40)
        next (kvPop (ps.foldl (fun s p => hbmWrite s p.1 bs) t) e.val r x.records)) ∧
      (∀ f y w, r.done ≠ 0 → kvParts (some e.val) r.ctx accStore [(r.done, 8)] [] s = .error f → f.fault = some y → y.wait = some w →
        next (turn w y.va)) ∧
      (∀ f y, r.done ≠ 0 → kvParts (some e.val) r.ctx accStore [(r.done, 8)] [] s = .error f → f.fault = some y → y.wait = none →
        next (kvPop s e.val r (kvAccess s e.val r sevTask y :: x.records)))))


/-! ### Flezal -/

/-- R323 to R327, R419: a counted write leaves with the next number of its channel; one that arrives for the first time within 4,096
numbers of H is performed once its dependence is met; a PUT that is next in order and depends on nothing is performed at once, and H
advances to it. -/
def Obligations.CountedWrites : Prop := ∀ s : State,
  (∀ id e w ws, tget s.senders id = some e → e.dones = [] → e.waits = w :: ws → mayNumber e w = true →
    ∃ u, u = (s.modSender id fun e => { e with dones := [] }).modSender id (fun e => { e with waits := ws }) ∧
      exec (.countedWriteIssue id) s = .next (answerIssued (numberWrite u id w) id w.req) ∧
      ((numberWrite u id w).sender id).a = (e.a + 1) % 2 ^ 32) ∧
  (∀ p id r, receiverOf s p = some (id, r) → r.broken = false →
    1 ≤ dist32 p.num.toNat r.h → dist32 p.num.toNat r.h ≤ 4096 → r.arrived.contains p.num.toNat = false →
    (r.held.any fun q => q.num == p.num) = false →
    let t := runLoads (runHeld id (r.held.length + 1)
      { s with receivers := tset s.receivers id { r.raise p.num.toNat with held := r.held ++ [p] } }) id
    (p.kind = .put → exec (.putArrival p) s = .next t) ∧
    (p.kind = .push → exec (.pushArrival p) s = .next t) ∧
    (p.kind = .ratom → exec (.ratomArrival p) s = .next t)) ∧
  (∀ p id r, receiverOf s p = some (id, r) → r.broken = false → p.kind = .put → p.num.toNat = (r.h + 1) % 2 ^ 32 →
    r.h < 2 ^ 32 → r.arrived = [] → r.held = [] → r.loads = [] → p.aux.toNat % 4096 = 0 →
    paBad s r.ctx p.daddr.toNat p.data.length = none →
    ∃ t r', exec (.putArrival p) s = .next t ∧ t.hbm = s.hbm.write p.daddr.toNat p.data ∧
      tget t.receivers id = some r' ∧ r'.h = (r.h + 1) % 2 ^ 32 ∧ r'.arrived = [] ∧ r'.held = [])

/-- R328, R332, R333, R420, R422 to R424, R426: remote reads, flags, their completion, and replays. -/
def Obligations.FlagsAndReads : Prop := ∀ s : State,
  (∀ p id r, receiverOf s p = some (id, r) → r.broken = false → p.kind = .rload →
    exec (.rloadArrival p) s =
      .next (runLoads { s with receivers := tset s.receivers id { r with loads := r.loads ++ [p] } } id)) ∧
  (∀ p id r, requestOf s (p.aux.toNat % 4096) = some (id, r) → p.kind = .rdata → r.home = p.src.toNat →
    exec (.rdataArrival p) s = .next (readBack s id r (laidOver r.laid (slice p.data 0 r.size)))) ∧
  (∀ p id r, requestOf s (p.aux.toNat % 4096) = none → rereadOf s (p.aux.toNat % 4096) = some (id, r) → p.kind = .rdata →
    r.home = p.src.toNat →
    exec (.rdataArrival p) s =
      .next (rereadBack { s with rereads := tdel s.rereads id } r (natOfBytes (slice p.data 0 r.size)))) ∧
  (∀ p id r, receiverOf s p = some (id, r) → r.broken = false → p.kind = .flag →
    dist15 p.aux.toNat r.nextF ≤ 15 → (r.flags.any fun q => q.aux == p.aux) = false →
    exec (.flagArrival p) s =
      .next { s with receivers := tset s.receivers id { r.raise p.num.toNat with flags := r.flags ++ [p] } }) ∧
  (∀ id r p, tget s.receivers id = some r → r.broken = false → (r.flags.find? fun p => p.aux.toNat == r.nextF) = some p →
    r.covers p.num.toNat = true → p.daddr.toNat ≠ 0 → paBad s r.ctx p.daddr.toNat 8 = none →
    let t := hbmWrite (arriveAt s r.ctx p.daddr.toNat 8) p.daddr.toNat (p.data.take 8)
    exec (.flagComplete id) s =
      .next (queuePacket { t with
        receivers := tset t.receivers id
          { r with
            flags := r.flags.erase p
            nextF := (r.nextF + 1) % 2 ^ 15
            landed := r.landed.filter fun x => !decide (dist32 p.num.toNat x.1 < 2 ^ 31) } } (flagDone p))) ∧
  (∀ p id e f, senderOf s p = some (id, e) → e.broken = false → p.kind = .flagdone → e.dones = [] → f.isFlag = false →
    ((coverTo e p.num.toNat).flags.find? fun f => f.index == p.aux.toNat) = some f →
    let e' := coverTo e p.num.toNat
    let u : State := { s with senders := tset s.senders id { e' with flags := e'.flags.erase f } }
    exec (.flagdoneArrival p) s = .next (u.modSender id fun e => { e with dones := [] })) ∧
  (∀ p id e f, senderOf s p = some (id, e) → e.broken = false → p.kind = .flagdone → e.dones = [] → f.isFlag = true →
    (∃ c, f.core = some (.control c)) ∨ instLive s f.inst = true →
    ((coverTo e p.num.toNat).flags.find? fun f => f.index == p.aux.toNat) = some f →
    let e' := coverTo e p.num.toNat
    let u : State := { s with senders := tset s.senders id { e' with flags := e'.flags.erase f, dones := [f] } }
    let va := doneWord f.done
    let la := doneMbar f.done
    let now := fun (v : State) => exec (.flagdoneArrival p) s =
      .next ((endAccess v (.channel id)).modSender id fun e => { e with dones := [] })
    (va = 0 → la = 0 → now u) ∧
    (∀ c v, va = 0 → la ≠ 0 → f.core = some (.control c) → mbarUpdate u (.control c) la (Mbar.arrive 1) = some v → now v) ∧
    (∀ n t g, va = 0 → la ≠ 0 → f.core = some (.strand n t) → f.gath = some g →
      (∀ v, (s.leaf n).gath = some g → padPoisoned u (.strand n t) la 16 = false →
        mbarUpdate u (.strand n t) la (Mbar.arrive 1) = some v → now v) ∧
      ((s.leaf n).gath ≠ some g → ((tget s.papers g).any fun p => leafPoisoned ((tget p.leaves n).getD {}) la 16) = false →
        now (paperArrive u g n la))) ∧
    (∀ x t v, va ≠ 0 → la = 0 → engineTrans u (.channel id) hubPlace e.ctx va accStore false = .ok (x, t) → x.home = s.pkg →
      allTurns t (.channel id) accStore va (portParts x.pa 4) = .ok v → now (hbmWrite v x.pa (bytesOf 4 f.dval))) ∧
    (∀ y w, va ≠ 0 → engineTrans u (.channel id) hubPlace e.ctx va accStore false = .error y → y.wait = some w →
      exec (.flagdoneArrival p) s =
        .next ((await u (.channel id) hubPlace e.ctx y.va w).modSender id fun e => { e with dones := [f] }))) ∧
  (∀ p id e, senderOf s p = some (id, e) → e.broken = false → p.kind = .resend →
    exec (.resendArrival p) s = .next (replayRun id e
      (e.ring.filter fun r => decide (dist32 r.num p.num.toNat ≤ p.aux.toNat % 4096) && e.uncovered r.num) s))

/-- R320, R322, R416, R417, R421, R425, R426, R428: timers, links, lost packages, new channels and packets in transit. That every
channel engine stands on hub 0, and the one zero byte of a packet without payload, are the model's choice (logs 106, 107); that the
fourth gap expiry writes 0x0505 and then breaks the channel (log 75), and the tag of 0x0506 and 0x0507 (log 94), are its readings.
Which packets a lost flit held is free (logs 2, 91), and so is whether a corrected retry writes its record (log 11). -/
def Obligations.TimersAndLinks : Prop := ∀ s : State,
  (∀ id r, tget s.receivers id = some r → r.broken = false → r.h ≠ r.top →
    let r' : Receiver := { r with failed := if r.lastH = some r.h then r.failed + 1 else 0, lastH := some r.h }
    let u := writeRecord { s with receivers := tset s.receivers id r' } (receiverReport s id r' 0x0505 sevCorrected r'.failed)
    let v := ((clearRuns r' (dist32 r'.top r'.h) ((r'.h + 1) % 2 ^ 32)).take 16).foldl (fun s x => queuePacket s (resendPacket s r' x)) u
    exec (.gapTimerExpiry id) s = .next (if 4 ≤ r'.failed then breakReceiver v id r'.failed else v)) ∧
  (∀ id (ix : BitVec 15) e f, tget s.senders id = some e → (e.flags.find? fun f => f.index == ix.toNat) = some f →
    (f.tries < 3 →
      let u := (writeRecord s (senderReport s id 0x0506 sevCorrected f.index (if f.isFlag then some f.inst else none))).modSender
        id fun e => { e with flags := e.flags.map fun g => if g.index == f.index then { g with tries := g.tries + 1 } else g }
      exec (.flagTimerExpiry id ix) s = .next (queuePacket u (flagPacket u e f))) ∧
    (3 ≤ f.tries → exec (.flagTimerExpiry id ix) s = .next (breakSender s id 1))) ∧
  (∀ id e, tget s.senders id = some e → e.flags = [] → e.broken = false → e.a ≠ e.d →
    exec (.tailWriteTimeout id) s = .next (windowFlag s id)) ∧
  (∀ id r tag e, tget s.reqs id = some r → r.stage = .remote tag → tag < 4096 → implicitSender s r.ctx r.home = some e →
    let base := senderReport s e 0x0507 sevCorrected tag none
    let mine := (r.gath.bind s.gath).map Gathering.tag
    (r.sent < 3 →
      let u := writeRecord (setReq s id { r with sent := r.sent + 1 }) { base with tag := mine }
      exec (.rloadTimerExpiry id) s = .next (queuePacket u (rloadPacket u r (u.sender e) tag r.upto))) ∧
    (3 ≤ r.sent → exec (.rloadTimerExpiry id) s =
      .next (portFault s id r { base with cls := 0x0513, sev := sevTask, tag := mine }))) ∧
  (∀ id r, tget s.reqs id = none → tget s.rereads id = some r →
    exec (.rloadTimerExpiry id) s = .next (rereadTimer s id r)) ∧
  (∀ fp : Fin 16,
    exec (.flezalFlitError fp true) s = .next (
      if Config.retryReport s.tick then
        writeRecord { s with flitFix := tset s.flitFix fp.val 0 } (linkReport s fp.val 0x0501 ((tget s.flitFix fp.val).getD 0 + 1))
      else { s with flitFix := tset s.flitFix fp.val ((tget s.flitFix fp.val).getD 0 + 1) }) ∧
    ∃ ps : List Packet, ps.Sublist s.outbox ∧ exec (.flezalFlitError fp false) s = .next
      { s with linkDrops := tset s.linkDrops fp.val ((tget s.linkDrops fp.val).getD 0 + 1), outbox := ps }) ∧
  (∀ fp : Fin 16, 64 ≤ (tget s.linkDrops fp.val).getD 0 → s.linkDown.contains fp.val = false →
    exec (.flezalLinkDown fp) s = .next (writeRecord { s with
      linkDown := fp.val :: s.linkDown
      linkDrops := tset s.linkDrops fp.val 0
      outbox := s.outbox.filter fun p => portToward s p != fp.val }
      (linkReport s fp.val 0x0502 ((tget s.linkDrops fp.val).getD 0)))) ∧
  (∀ i, exec (.packetAgeDiscard i) s = .next { s with outbox := s.outbox.eraseIdx i }) ∧
  (∀ q : Byte, exec (.packageLost q) s = .next (
    let u := s.senders.foldl (fun s (e : Nat × Sender) => if e.2.dst = q.toNat then breakSender s e.1 3 else s) s
    let u := u.receivers.foldl (fun s r => if r.2.src = q.toNat then breakReceiver s r.1 3 else s) u
    writeRecord u { cls := 0x0520, sev := sevTask, folio := 8, uclass := 0x0F, asp := .channel, addr := u.pkg + q.toNat * 256
                    synd := zeros 12 ++ bytesOf 4 q.toNat })) ∧
  (∀ entry (ctx : BitVec 4) (index dst : Byte) imp, exec (.channelAllocate (.sender entry ctx index dst imp)) s =
    let e : Sender := { ctx := ctx.toNat, index := index.toNat, dst := dst.toNat }
    let u : State := { s with senders := tset s.senders (entry % 4096) e }
    let w := dst.toNat * 2 ^ 20 + entry % 4096 + 2 ^ 28 + natOfBool imp * 2 ^ 29
    .next (u.modContext ctx.toNat fun c => { c with channels := tset c.channels index.toNat w })) ∧
  (∀ entry (src : Byte) (ctx : BitVec 4) (index : Byte), exec (.channelAllocate (.receiver entry src ctx index)) s =
    let r : Receiver := { src := src.toNat, ctx := ctx.toNat, index := index.toNat }
    .next { s with receivers := tset s.receivers (entry % 4096) r }) ∧
  (∀ p : Packet, p.dst.toNat ≠ s.pkg →
    (s.linkDown.contains (portToward s p) = false →
      exec (.transitPacketArrival p) s = .next { s with outbox := s.outbox ++ [p] }) ∧
    (s.linkDown.contains (portToward s p) = true → exec (.transitPacketArrival p) s = .next s))

/-! ### Platform -/

/-- R170, R345 to R351, R435 to R439, R364, R392: boot, folios, power, thermal events, halts and the switch of committed images.
Where the firmware's bytes stand at boot is presumed (log 86), and so is the digest `sha256` (log 24); which placements cover a
quire is the model's choice (log 114), and the unit fields of 0x0601, 0x0602 and 0x0608 are its reading (log 88). -/
def Obligations.PlatformEvents : Prop := ∀ s : State,
  (∀ image fw, s.booted = false → s.bootSt = 0 → exec (.deviceBoot (.started image fw)) s =
    .next { s with booted := true, measured := s.measured ++ [sha256 image], cores := s.cores.map (startCore fw) }) ∧
  (∀ f : Fin 8, exec (.folioCalibrationDone f) s =
    .next { s with folios := lmod s.folios f.val fun x => { x with fast := x.admitted } }) ∧
  (∀ (f : Fin 8) passed, s.booted = true → (s.folios.getD f.val {}).admitted = false → (s.folios.getD f.val {}).tested = false →
    let u := if passed then s else writeRecord s (bootReport 0x0618 sevFolio f.val)
    exec (.folioAdmission f passed []) s =
      .next (attest { u with folios := lmod u.folios f.val fun x => { x with tested := true, admitted := passed } })) ∧
  (∀ q, q < Config.quireCount → (holderOf s q).isSome = false → promised s [q] = false → (s.quire q).waking = false →
    (s.quire q).mapped = false → restState s q ≠ .off → (s.quire q).power ≠ .off →
    exec (.quirePowerTransition q) s = .next (s.modQuire q fun x => { x with power := restState s q })) ∧
  (∀ q, q < Config.quireCount → (s.quire q).waking = true → quiresUsable s [q] = true →
    ((s.quire q).power ≠ .off →
      exec (.quireWake q) s = .next (s.modQuire q fun x => { x with power := .active, waking := false })) ∧
    ((s.quire q).power = .off →
      exec (.quireWake q) s = .next ((zeroQuire s q).modQuire q fun x => { x with power := .active, waking := false }))) ∧
  (∀ q, q < Config.quireCount → (s.quire q).waking = true → s.pool = [] →
    exec (.quireWakeTimeout q) s =
      .next (writeRecord (mapOut s q) (powerReport 0x0608 sevTask (folioOfQuire q) 0 q))) ∧
  (∀ f : Fin 8, exec (.governorLimit (.delayed f)) s =
    .next (writeRecord s (powerReport 0x0601 sevCorrected f.val 0 f.val))) ∧
  (∀ rail, exec (.governorLimit (.overrun rail)) s =
    .next (deviceReset (writeRecord s (powerReport 0x0602 sevDevice 8 rail rail)))) ∧
  (∀ (f : Fin 8) sensor,
    exec (.thermalEvent f (.hot sensor)) s = .next (writeRecord
      { s with folios := lmod s.folios f.val fun x => { x with hot := true } } (powerReport 0x0603 sevCorrected f.val sensor sensor)) ∧
    exec (.thermalEvent f (.critical sensor)) s = .next (folioReset
      (writeRecord s (powerReport 0x0604 sevFolio f.val sensor sensor)) (powerReport 0x0604 sevFolio f.val sensor sensor) f.val) ∧
    exec (.thermalEvent f .cooled) s =
      .next { s with folios := lmod s.folios f.val fun x => { x with hot := false } }) ∧
  (∀ k : Fin 16, (s.core k.val).halted = false →
    exec (.controlCoreHalt k) s = .next (haltCore (abandon s k) k.val)) ∧
  (∀ b bs, s.batches = b :: bs → batchLanded s b = true →
    let u : State := { s with batches := bs }
    (b.bad = false → (b.slots.any fun p => slotHeld s p.1) = false → firstUnreadable b [] = none →
      exec (.imageCommitSwitch [] []) s = .next (payOwed { switchSlots u b with
        failed := if s.failed.any fun x => sameImages x b.images then none else s.failed } b.claim tok tok)) ∧
    (b.bad = true → ∀ xs ys, exec (.imageCommitSwitch xs ys) s = .next (payOwed u b.claim tok tok)))

/-! ### Decoding, steps, reset -/

/-- R117, R118, R129, R131: the words of the manual's encodings decode to the instructions that they stand for, and reserved words are
refused by name. -/
def Obligations.WordsDecoded : Prop :=
  decode 0x0208FE81 = .ok (.rd 1 .none (.opnd .l 1)) ∧
  decode 0x04830020 = .ok (.movi (.opnd .l 3) 32) ∧
  decode 0x1200FE7F = .ok .exit ∧
  decode 0xCE00FF83 = .ok (.mxcmd .none (.opnd .t 3)) ∧
  decode 0xD000FE02 = .ok (.mxwait .none (.reg 2)) ∧
  decode 0x9800FE7F = .ok (.flag .none .none) ∧
  decode 0x9A00FE7F = .ok (.kvopMass .none .none) ∧
  decode 0x9A04FE7F = .ok (.kvopEvict .none .none) ∧
  decode 0x9A08FE7F = .ok (.kvopStat .none .none) ∧
  decode 0 = .error .reservedOpcode ∧ decode 0xEE00FE7F = .error .reservedOpcode ∧
  decode 0x0204FE81 = .error .reservedField ∧ decode 0x0200FE48 = .error (.badTarget false)

/-- R117, R129, R131: decoding the word of a well-formed encoded instruction gives the instruction back, with every operand at every
value that the encoding admits; and no two instructions share a word. -/
def Obligations.DecodeEncode : Prop :=
  (∀ i w, encode i = some w → i.wf = true → decode w = .ok i) ∧
  (∀ i j w, encode i = some w → encode j = some w → i.wf = true → j.wf = true → i = j)

/-- The words that a fetch brings stand in the slots, and a step that issues a slot runs the instruction that its word decodes to; a
step that an event comes about in runs the event, and one that something comes from outside in takes it; with nothing on the agenda,
one of the turns that can come about is taken, which a free value picks (log 2); time of the model advances by one. -/
def Obligations.StepRunsDecoded : Prop := ∀ s : State,
  (∀ c i x ts, s.agenda = .issue c i :: ts → decode (s.slot c i).word = .ok x →
    step s = exec x (issueAt { s with agenda := ts, tick := s.tick + 1 } c i)) ∧
  (∀ c i ts, (issueAt { s with agenda := ts, tick := s.tick + 1 } c i).focus = ⟨c, i⟩ ∧
    (issueAt { s with agenda := ts, tick := s.tick + 1 } c i).slot c i = s.slot c i) ∧
  (∀ x ts, s.agenda = .event x :: ts → step s = exec x { s with agenda := ts, tick := s.tick + 1 }) ∧
  (∀ x ts, s.agenda = .outside x :: ts → step s = takeOutside { s with agenda := ts, tick := s.tick + 1 } x) ∧
  (s.agenda = [] →
    let u : State := { s with tick := s.tick + 1 }
    step s = match (openTurns s)[pickOf s (openTurns s).length]? with
      | some (.issue c i) => (match decode (u.slot c i).word with
        | .ok x => exec x (issueAt u c i)
        | .error _ => .next u)
      | some (.event x) => exec x u
      | some (.outside x) => takeOutside u x
      | none => .next u) ∧
  (∀ c a h ws i, s.hasCore c = true → i < ws.length →
    ((startBlock s c a h ws).slot c i).word = ws.getD i 0 ∧ ((startBlock s c a h ws).slot c i).status = .idle) ∧
  (∀ nbits w, ((s.withFetchWord nbits w).slot wordCore 0).word = BitVec.ofNat 32 w ∧
    (s.withFetchWord nbits w).agenda = .issue wordCore 0 :: s.agenda)

/-- What reset leaves (R21, R88, R335, R339, R351, R361, R438): no folio admitted, no context loaded, no gathering, instance or
request, no control core started, the registers that the manual gives a reset value at that value, and every memory as power-on
leaves it. Registers without a stated reset value, and a byte that nothing has written, read zero: logs 1 and 3 to 6. -/
def Obligations.ResetState : Prop :=
  let s := State.reset
  (∀ f, ((s.folios.getD f {}).admitted = false)) ∧ (∀ k, (s.context k).attrs = none) ∧
  (∀ k, (s.core k).started = false ∧ (s.core k).handler = false) ∧
  (s.gaths = [] ∧ s.insts = [] ∧ s.pool = [] ∧ s.reqs = [] ∧ s.copies = [] ∧ s.rereads = [] ∧ s.tlb = [] ∧
    s.log = [] ∧ s.measured = [] ∧ s.attested = none) ∧
  (∀ k, let p := (s.context k).page
    p.sqBase = 0 ∧ p.sqSize = 0 ∧ p.sqTail = 0 ∧ p.sqHead = 0 ∧ p.cqBase = 0 ∧ p.cqSize = 0 ∧ p.cqTail = 0 ∧ p.cqHead = 0 ∧
    p.eqBase = 0 ∧ p.eqSize = 0 ∧ p.eqTail = 0 ∧ p.eqHead = 0 ∧ p.eqLost = 0) ∧
  (s.fwBase = 0 ∧ s.fwSize = 0 ∧ s.fwTail = 0 ∧ s.fwHead = 0 ∧ s.drops = 0 ∧ s.bootSt = 0) ∧
  (∀ c, (s.strand c).fpmode = 0 ∧ (s.strand c).fpflags = 0 ∧ (s.strand c).dlrem = 4095 ∧ (s.strand c).blkinrnd = 0) ∧
  (∀ c g, readReg s c g = 0) ∧ (∀ a, s.hbm.get a = 0) ∧ s.sound = true

/-! ### Delivery, nullification, checks -/

/-- R121, R375, R377: an operand with as many producers as deliveries: it has arrived after them, with the one value that was delivered, or
NULL when none was; a second value is class 0x0110. That the fault is raised at the delivery, at the slot that receives, is the model's
reading (log 98). -/
def Obligations.ArrivalsCounted : Prop := ∀ (s : State) (c : CoreId) (k : OpndKind) (j : Nat) (b : Block) (x : Slot),
  s.hasCore c = true → (s.strand c).block = some b → b.slots[j]? = some x → (x.opnd k).value = none →
  ∀ vs : List (Option Word),
    let u := vs.foldl (fun s v => arrive s c k j v) s
    ((x.opnd k).pending = vs.length → (vs.filter Option.isSome).length ≤ 1 →
      ((u.slot c j).opnd k).arrived = true ∧ ((u.slot c j).opnd k).value = (vs.find? Option.isSome).getD none) ∧
    ((vs.filter Option.isSome).length = 1 →
      ∀ w, arrive u c k j (some w) = blockFault u c (some j) 0x0110 (OpndKind.detail k))

/-- R372: the header of a block is checked first, when it is fetched: a failing field is class 0x0101, and a handler block outside
handler mode, or on a leaf strand, is class 0x010A. -/
def Obligations.HeaderChecked : Prop := ∀ (s u : State) (c : CoreId) (ws : List Word32),
  (s.strand c).wait ≠ .stalled → mayFetch s c = true → (s.strand c).pc % 4 = 0 →
  fetchWords s c (s.strand c).pc = .ok (some ws, u) →
  let h := ws.getD 0 0
  let nout := (h.extractLsb' 19 7).toNat
  let kind := (h.extractLsb' 17 2).toNat
  let malformed := nout = 0 ∨ kind = 1 ∨ kind = 3 ∨ h.extractLsb' 0 17 ≠ 0
  let t := startBlock u c (s.strand c).pc h (ws.drop 1)
  (malformed → exec (.blockFetch c) s = .next (blockFault t c none 0x0101 0)) ∧
  (¬ malformed → kind = 2 → (∀ k, c = .control k → (u.core k.val).handler = false) →
    exec (.blockFetch c) s = .next (blockFault t c none 0x010A 0))

/-- R122: an instruction whose predicate is not true, or which reads NULL, delivers NULL to its targets and does nothing else; its
output still counts (R126), and a send of its own that others wait for is over (R87). The class of each is as R125 and the opcode
map mark it. -/
def Obligations.Nullified : Prop := ∀ (s : State) (x : Instr) (w : Word32), encode x = some w → nulls s x →
  let f := formOf x
  let mute := fun (s : State) => deliver2 s s.me s.focus.slot f.ta f.tb none none
  (f.cls = .value → exec x s = .next (mute s)) ∧
  (f.cls = .effect → exec x s =
    .next (deliver2 (produce (skipSend s s.me s.focus.slot) s.me) s.me s.focus.slot f.ta f.tb none none)) ∧
  (f.cls = .control → exec x s =
    .next (deliver2 (settleControl s s.me s.focus.slot none) s.me s.focus.slot f.ta f.tb none none))

/-- R375, R376: an access whose address is out of range is class 0x0114, and one that is not aligned is class 0x0115, with the number of
the operand; an `MBAR` whose object is not in KEEP, or whose second operand is out of its limits, is class 0x0114; nothing is accessed. -/
def Obligations.AddressesChecked : Prop := ∀ (s : State) (scope : Scope) (w : AccWidth) (ord : Bool) (o : Order) (v : CasWidth)
    (tb ta : Target),
  let la := s.opL.toNat
  let r := s.opR.toNat
  let top := if coreIsControl s.me then Config.localBytes else Config.leafBytes
  let out := Host.Outcome.next (blockFault s s.me (some s.focus.slot) 0x0114 0)
  let skew := Host.Outcome.next (blockFault s s.me (some s.focus.slot) 0x0115 0)
  (∀ x, x = .ldl scope ord w tb ta ∨ x = .stl scope ord w tb ta → fires s x →
    (top ≤ la → exec x s = out) ∧ (la < top → la % accSize w ≠ 0 → exec x s = skew)) ∧
  (∀ x, x = .ldg scope ord w tb ta ∨ x = .stg scope ord w tb ta → fires s x →
    (2 ^ 52 ≤ la → exec x s = out) ∧ (la < 2 ^ 52 → la % accSize w ≠ 0 → exec x s = skew)) ∧
  (∀ x, x ∈ [.atomlAdd scope o tb ta, .atomlAnd scope o tb ta, .atomlOr scope o tb ta, .atomlXor scope o tb ta, .atomlXchg scope o tb ta,
      .atomlSmin scope o tb ta, .atomlSmax scope o tb ta] → fires s x →
    (top ≤ la → exec x s = out) ∧ (la < top → la % 8 ≠ 0 → exec x s = skew)) ∧
  (fires s (.atomlFadd scope o tb ta) →
    (top ≤ la → exec (.atomlFadd scope o tb ta) s = out) ∧ (la < top → la % 4 ≠ 0 → exec (.atomlFadd scope o tb ta) s = skew)) ∧
  (fires s (.casl scope o v tb ta) →
    (top ≤ la → exec (.casl scope o v tb ta) s = out) ∧
    (la < top → la % casSize v ≠ 0 → exec (.casl scope o v tb ta) s = skew)) ∧
  (∀ nb p, fires s (.spop nb p tb ta) → coreBound s s.lf p.val = true →
    (top ≤ la → exec (.spop nb p tb ta) s = out) ∧ (la < top → la % 64 ≠ 0 → exec (.spop nb p tb ta) s = skew)) ∧
  (∀ x, x ∈ [.mbarInit tb ta, .mbarArrive tb ta, .mbarExpect tb ta, .mbarTest tb ta, .mbarWait tb ta] → fires s x →
    (top ≤ la → exec x s = out) ∧ (la < top → la % 64 ≠ 0 → exec x s = skew) ∧
    (la < top → la % 64 = 0 → inKeep s s.me la = false → exec x s = out)) ∧
  (la < top → la % 64 = 0 → inKeep s s.me la = true →
    let bad := Host.Outcome.next (blockFault s s.me (some s.focus.slot) 0x0114 1)
    (∀ x, x = .mbarInit tb ta ∨ x = .mbarExpect tb ta → fires s x → r = 0 ∨ 2 ^ 31 ≤ r → exec x s = bad) ∧
    (fires s (.mbarArrive tb ta) → r = 0 ∨ (mbarAt s s.me la).pend < r → exec (.mbarArrive tb ta) s = bad) ∧
    (∀ x, x = .mbarTest tb ta ∨ x = .mbarWait tb ta → fires s x → 2 ^ 32 ≤ r → exec x s = bad))

/-- R379, R380, R171, R364: a started control core outside handler mode takes the exception that waits: an interrupt at a block
boundary, or the fault or trap of its own block. Entry saves the resume address in G62 and the cause in G61, fetches local address
0 next and leaves the other registers; the commit of `ERET` leaves the mode and fetches the address that entry kept. A fault in handler
mode halts the core. -/
def Obligations.HandlerEntered : Prop := ∀ (s : State) (k : Fin 16), k.val < s.cores.length →
  let x := s.core k.val
  (x.started = true → x.halted = false → x.handler = false →
    (∀ resume cls detail, x.cause = some (resume, cls, detail) ∨
        (x.cause = none ∧ x.irq = true ∧ x.strand.block = none ∧ x.strand.faulted = false ∧
          resume = x.strand.pc ∧ cls = 0 ∧ detail = 0) →
      ∃ t, exec (.handlerEntry k) s = .next t ∧ (t.core k.val).handler = true ∧ (t.core k.val).strand.pc = 0 ∧
        (t.core k.val).resume = resume ∧
        (t.core k.val).regs = (x.regs.set 62 (wordOfNat resume)).set 61 (wordOfNat (cls % 2 ^ 16 + detail % 2 ^ 32 * 2 ^ 16)) ∧
        (t.core k.val).cause = none ∧ (t.core k.val).strand.block = none ∧ (t.core k.val).mem = x.mem ∧
        t.leaves = s.leaves ∧ t.hbm = s.hbm ∧ t.contexts = s.contexts)) ∧
  (∀ b, x.strand.block = some b → b.moves = [.eret] → b.sys = [] →
    let t := commitTail s (.control k) b
    (t.core k.val).handler = false ∧ (t.core k.val).strand.pc = x.resume ∧ (t.core k.val).regs = x.regs) ∧
  (∀ b i cls d, x.strand.block = some b → x.handler = true →
    ∃ u, blockFault s (.control k) i cls d = haltCore u k.val ∧ u.hbm = s.hbm ∧ u.leaves = s.leaves)

/-! ### What instructions leave alone, and what every step keeps -/

/-- Frame of the instructions that only deliver values (rows 0x00 to 0x3F, class V): every memory, every register, flag, special and
exception register, stream input, tile and unit, the host and the Spine stay as they are. What changes is the block in flight, the
sends that it makes, and the strand's fault. (In handler mode a fault halts the core: `HandlerEntered`.) -/
def Obligations.ValuesFrame : Prop := ∀ (s t : State) (x : Instr), valueInstr x = true →
  (∀ k, s.me = .control k → (s.core k.val).handler = false) → exec x s = .next t → framed s t

/-- Frame of the scratchpad stores: with the stored bytes where the instruction's own operand puts them, every other byte of the
scratchpad reads as before, and so do every register, every other leaf and control core, and device memory; the write of a memory
port leaves every byte of HBM outside it. Memories stand in canonical form, which `StepKeepsSound` says every step keeps. -/
def Obligations.StoresFrame : Prop := ∀ (s t : State) (x : Instr) (la n : Nat), s.sound = true →
  (∀ k, s.me = .control k → (s.core k.val).handler = false) → storeOf s x = some (la, n) → exec x s = .next t →
  (∀ m a, a < Config.leafBytes → (coreLeaf s.me = some m → a < la ∨ la + n ≤ a) →
    leafByte t.tick (t.leaf m) a = leafByte s.tick (s.leaf m) a) ∧
  (∀ k a, (s.me = .control k → a < la ∨ la + n ≤ a) → (t.core k.val).mem.get a = (s.core k.val).mem.get a) ∧
  (∀ c g, g < 64 → readReg t c g = readReg s c g) ∧
  (∀ c, (t.strand c).pc = (s.strand c).pc ∧ (t.strand c).fpmode = (s.strand c).fpmode ∧
    (t.strand c).fpflags = (s.strand c).fpflags) ∧
  t.hbm = s.hbm ∧ t.host = s.host ∧ t.contexts = s.contexts ∧
  (∀ pa bs a, a < pa ∨ pa + bs.length ≤ a → (hbmWrite s pa bs).hbm.get a = s.hbm.get a)

/-- Every step keeps what the machine is made of: each memory in its canonical form, and the numbers of contexts, control cores and
their registers, folios and apertures that the part has. -/
def Obligations.StepKeepsSound : Prop := ∀ s t : State, s.sound = true → step s = .next t → t.sound = true
end

