-- ==== Sys2Proof/Laws/Codes.lean ====
section
/-!
SUPPORT. Codes of the fields of an instruction word: their bounds, and that a code names what it is the code of.
-/

namespace Sys2Proof

theorem IntWidth.code_lt (x : IntWidth) : x.code < 4 := by cases x <;> decide
@[simp] theorem IntWidth.ofCode_code (x : IntWidth) : IntWidth.ofCode x.code = some x := by cases x <;> rfl

theorem FloatFmt.code_lt (x : FloatFmt) : x.code < 4 := by cases x <;> decide
@[simp] theorem FloatFmt.ofCode_code (x : FloatFmt) : FloatFmt.ofCode x.code = some x := by cases x <;> rfl

theorem QFmt.code_lt (x : QFmt) : x.code < 2 := by cases x <;> decide
@[simp] theorem QFmt.ofCode_code (x : QFmt) : QFmt.ofCode x.code = some x := by cases x <;> rfl

theorem DataFmt.code_lt (x : DataFmt) : x.code < 16 := by cases x <;> decide
@[simp] theorem DataFmt.ofCode_code (x : DataFmt) : DataFmt.ofCode x.code = some x := by cases x <;> rfl

theorem ElemFmt.code_lt (x : ElemFmt) : x.code < 8 := by cases x <;> decide
@[simp] theorem ElemFmt.ofCode_code (x : ElemFmt) : ElemFmt.ofCode x.code = some x := by cases x <;> rfl

theorem Rm.code_lt (x : Rm) : x.code < 8 := by cases x <;> decide
@[simp] theorem Rm.ofCode_code (x : Rm) : Rm.ofCode x.code = some x := by cases x <;> rfl

theorem AccWidth.code_lt (x : AccWidth) : x.code < 8 := by cases x <;> decide
@[simp] theorem AccWidth.ofCode_code (x : AccWidth) : AccWidth.ofCode x.code = some x := by cases x <;> rfl

theorem CasWidth.code_lt (x : CasWidth) : x.code < 4 := by cases x <;> decide
@[simp] theorem CasWidth.ofCode_code (x : CasWidth) : CasWidth.ofCode x.code = some x := by cases x <;> rfl

theorem Order.code_lt (x : Order) : x.code < 4 := by cases x <;> decide
@[simp] theorem Order.ofCode_code (x : Order) : Order.ofCode x.code = some x := by cases x <;> rfl

theorem Scope.code_lt (x : Scope) : x.code < 4 := by cases x <;> decide
@[simp] theorem Scope.ofCode_code (x : Scope) : Scope.ofCode x.code = some x := by cases x <;> rfl

theorem ICmp.code_lt (x : ICmp) : x.code < 8 := by cases x <;> decide
@[simp] theorem ICmp.ofCode_code (x : ICmp) : ICmp.ofCode x.code = some x := by cases x <;> rfl

theorem FCmp.code_lt (x : FCmp) : x.code < 8 := by cases x <;> decide
@[simp] theorem FCmp.ofCode_code (x : FCmp) : FCmp.ofCode x.code = some x := by cases x <;> rfl

theorem Cond.code_lt (x : Cond) : x.code < 8 := by cases x <;> decide
@[simp] theorem Cond.ofCode_code (x : Cond) : Cond.ofCode x.code = some x := by cases x <;> rfl

theorem WaitCond.code_lt (x : WaitCond) : x.code < 4 := by cases x <;> decide
@[simp] theorem WaitCond.ofCode_code (x : WaitCond) : WaitCond.ofCode x.code = some x := by cases x <;> rfl

theorem FUnit.code_lt (x : FUnit) : x.code < 2 := by cases x <;> decide
@[simp] theorem FUnit.ofCode_code (x : FUnit) : FUnit.ofCode x.code = some x := by cases x <;> rfl

theorem PushKind.code_lt (x : PushKind) : x.code < 8 := by cases x <;> decide
@[simp] theorem PushKind.ofCode_code (x : PushKind) : PushKind.ofCode x.code = some x := by cases x <;> rfl

theorem StreamPort.code_lt (x : StreamPort) : x.code < 16 := by
  cases x with
  | inp p => have := p.isLt; simp only [StreamPort.code]; omega
  | out p => have := p.isLt; simp only [StreamPort.code]; omega
@[simp] theorem StreamPort.ofCode_code (x : StreamPort) : StreamPort.ofCode x.code = x := by
  cases x with
  | inp p => revert p; decide
  | out p => revert p; decide

theorem bitCode_lt (b : Bool) : bitCode b < 2 := by cases b <;> decide
@[simp] theorem bitOf_bitCode (b : Bool) : bitOf (bitCode b) = b := by cases b <;> rfl

@[simp] theorem finOf_val (k : Nat) (x : Fin k) : finOf k x.val = some x := by simp [finOf, x.isLt]

theorem Target.code_lt (x : Target) : x.code < 512 := by
  cases x with
  | none => decide
  | reg g => have := g.isLt; simp only [Target.code]; omega
  | port p => have := p.isLt; simp only [Target.code]; omega
  | opnd k j => have := j.isLt; cases k <;> simp only [Target.code, OpndKind.code] <;> omega

@[simp] theorem Target.ofCode_code (x : Target) : Target.ofCode x.code = some x := by
  cases x with
  | none => rfl
  | reg g => revert g; decide
  | port p => revert p; decide
  | opnd k j => cases k <;> (revert j; decide)

theorem decode_row0 (n : Nat) (h : n / 536870912 = 0) :
    decode (BitVec.ofNat 32 n) = decodeRow0 n (n / 33554432 % 16) := by
  have hn : n < 2 ^ 32 := by omega
  simp only [decode, BitVec.toNat_ofNat, Nat.mod_eq_of_lt hn, h]

theorem decode_row1 (n : Nat) (h : n / 536870912 = 1) :
    decode (BitVec.ofNat 32 n) = decodeRow1 n (n / 33554432 % 16) := by
  have hn : n < 2 ^ 32 := by omega
  simp only [decode, BitVec.toNat_ofNat, Nat.mod_eq_of_lt hn, h]

theorem decode_row2 (n : Nat) (h : n / 536870912 = 2) :
    decode (BitVec.ofNat 32 n) = decodeRow2 n (n / 33554432 % 16) := by
  have hn : n < 2 ^ 32 := by omega
  simp only [decode, BitVec.toNat_ofNat, Nat.mod_eq_of_lt hn, h]

theorem decode_row3 (n : Nat) (h : n / 536870912 = 3) :
    decode (BitVec.ofNat 32 n) = decodeRow3 n (n / 33554432 % 16) := by
  have hn : n < 2 ^ 32 := by omega
  simp only [decode, BitVec.toNat_ofNat, Nat.mod_eq_of_lt hn, h]

theorem decode_row4 (n : Nat) (h : n / 536870912 = 4) :
    decode (BitVec.ofNat 32 n) = decodeRow4 n (n / 33554432 % 16) := by
  have hn : n < 2 ^ 32 := by omega
  simp only [decode, BitVec.toNat_ofNat, Nat.mod_eq_of_lt hn, h]

theorem decode_row5 (n : Nat) (h : n / 536870912 = 5) :
    decode (BitVec.ofNat 32 n) = decodeRow5 n (n / 33554432 % 16) := by
  have hn : n < 2 ^ 32 := by omega
  simp only [decode, BitVec.toNat_ofNat, Nat.mod_eq_of_lt hn, h]

theorem decode_row6 (n : Nat) (h : n / 536870912 = 6) :
    decode (BitVec.ofNat 32 n) = decodeRow6 n (n / 33554432 % 16) := by
  have hn : n < 2 ^ 32 := by omega
  simp only [decode, BitVec.toNat_ofNat, Nat.mod_eq_of_lt hn, h]

theorem decode_row7 (n : Nat) (h : n / 536870912 = 7) :
    decode (BitVec.ofNat 32 n) = decodeRow7 n (n / 33554432 % 16) := by
  have hn : n < 2 ^ 32 := by omega
  simp only [decode, BitVec.toNat_ofNat, Nat.mod_eq_of_lt hn, h]

end Sys2Proof
end

