-- ==== Sys2Proof/Laws/Dispatch.lean ====
section
/-!
SUPPORT. Dispatch, one equation per instruction: `exec` of a constructor is its meaning.
-/

set_option Elab.async false

namespace Sys2Proof.Machine

@[simp] theorem exec_rd (g : Fin 64) (tb : Target) (ta : Target) (s : State) :
    exec (.rd g tb ta) s = execRd g tb ta s := rfl
@[simp] theorem exec_movi (ta : Target) (imm : BitVec 16) (s : State) :
    exec (.movi ta imm) s = execMovi ta imm s := rfl
@[simp] theorem exec_movhi (ta : Target) (imm : BitVec 16) (s : State) :
    exec (.movhi ta imm) s = execMovhi ta imm s := rfl
@[simp] theorem exec_mov (tb : Target) (ta : Target) (s : State) :
    exec (.mov tb ta) s = execMov tb ta s := rfl
@[simp] theorem exec_br (cond : Cond) (off : BitVec 22) (s : State) :
    exec (.br cond off) s = execBr cond off s := rfl
@[simp] theorem exec_call (cond : Cond) (off : BitVec 22) (s : State) :
    exec (.call cond off) s = execCall cond off s := rfl
@[simp] theorem exec_brr (s : State) :
    exec (.brr) s = execBrr s := rfl
@[simp] theorem exec_rnd (deadline : BitVec 12) (s : State) :
    exec (.rnd deadline) s = execRnd deadline s := rfl
@[simp] theorem exec_exit (s : State) :
    exec (.exit) s = execExit s := rfl
@[simp] theorem exec_tdone (s : State) :
    exec (.tdone) s = execTdone s := rfl
@[simp] theorem exec_trap (imm : BitVec 16) (s : State) :
    exec (.trap imm) s = execTrap imm s := rfl
@[simp] theorem exec_bkpt (imm : BitVec 16) (s : State) :
    exec (.bkpt imm) s = execBkpt imm s := rfl
@[simp] theorem exec_sysrd (ta : Target) (idx : BitVec 12) (s : State) :
    exec (.sysrd ta idx) s = execSysrd ta idx s := rfl
@[simp] theorem exec_syswr (idx : BitVec 12) (s : State) :
    exec (.syswr idx) s = execSyswr idx s := rfl
@[simp] theorem exec_spawn (tb : Target) (ta : Target) (s : State) :
    exec (.spawn tb ta) s = execSpawn tb ta s := rfl
@[simp] theorem exec_null (tb : Target) (ta : Target) (s : State) :
    exec (.null tb ta) s = execNull tb ta s := rfl
@[simp] theorem exec_add (width : IntWidth) (sgn : Bool) (sat : Bool) (tb : Target) (ta : Target) (s : State) :
    exec (.add width sgn sat tb ta) s = execAdd width sgn sat tb ta s := rfl
@[simp] theorem exec_sub (width : IntWidth) (sgn : Bool) (sat : Bool) (tb : Target) (ta : Target) (s : State) :
    exec (.sub width sgn sat tb ta) s = execSub width sgn sat tb ta s := rfl
@[simp] theorem exec_mul (width : IntWidth) (sgn : Bool) (sat : Bool) (tb : Target) (ta : Target) (s : State) :
    exec (.mul width sgn sat tb ta) s = execMul width sgn sat tb ta s := rfl
@[simp] theorem exec_mulh (width : IntWidth) (sgn : Bool) (tb : Target) (ta : Target) (s : State) :
    exec (.mulh width sgn tb ta) s = execMulh width sgn tb ta s := rfl
@[simp] theorem exec_div (width : IntWidth) (sgn : Bool) (tb : Target) (ta : Target) (s : State) :
    exec (.div width sgn tb ta) s = execDiv width sgn tb ta s := rfl
@[simp] theorem exec_rem (width : IntWidth) (sgn : Bool) (tb : Target) (ta : Target) (s : State) :
    exec (.rem width sgn tb ta) s = execRem width sgn tb ta s := rfl
@[simp] theorem exec_and (width : IntWidth) (sgn : Bool) (tb : Target) (ta : Target) (s : State) :
    exec (.and width sgn tb ta) s = execAnd width sgn tb ta s := rfl
@[simp] theorem exec_or (width : IntWidth) (sgn : Bool) (tb : Target) (ta : Target) (s : State) :
    exec (.or width sgn tb ta) s = execOr width sgn tb ta s := rfl
@[simp] theorem exec_xor (width : IntWidth) (sgn : Bool) (tb : Target) (ta : Target) (s : State) :
    exec (.xor width sgn tb ta) s = execXor width sgn tb ta s := rfl
@[simp] theorem exec_andn (width : IntWidth) (sgn : Bool) (tb : Target) (ta : Target) (s : State) :
    exec (.andn width sgn tb ta) s = execAndn width sgn tb ta s := rfl
@[simp] theorem exec_shl (width : IntWidth) (sgn : Bool) (tb : Target) (ta : Target) (s : State) :
    exec (.shl width sgn tb ta) s = execShl width sgn tb ta s := rfl
@[simp] theorem exec_shr (width : IntWidth) (sgn : Bool) (tb : Target) (ta : Target) (s : State) :
    exec (.shr width sgn tb ta) s = execShr width sgn tb ta s := rfl
@[simp] theorem exec_sar (width : IntWidth) (sgn : Bool) (tb : Target) (ta : Target) (s : State) :
    exec (.sar width sgn tb ta) s = execSar width sgn tb ta s := rfl
@[simp] theorem exec_rot (width : IntWidth) (sgn : Bool) (tb : Target) (ta : Target) (s : State) :
    exec (.rot width sgn tb ta) s = execRot width sgn tb ta s := rfl
@[simp] theorem exec_min (width : IntWidth) (sgn : Bool) (tb : Target) (ta : Target) (s : State) :
    exec (.min width sgn tb ta) s = execMin width sgn tb ta s := rfl
@[simp] theorem exec_max (width : IntWidth) (sgn : Bool) (tb : Target) (ta : Target) (s : State) :
    exec (.max width sgn tb ta) s = execMax width sgn tb ta s := rfl
@[simp] theorem exec_cmp (width : IntWidth) (sgn : Bool) (cmp : ICmp) (tb : Target) (ta : Target) (s : State) :
    exec (.cmp width sgn cmp tb ta) s = execCmp width sgn cmp tb ta s := rfl
@[simp] theorem exec_sel (tb : Target) (ta : Target) (s : State) :
    exec (.sel tb ta) s = execSel tb ta s := rfl
@[simp] theorem exec_bitcPopc (width : IntWidth) (tb : Target) (ta : Target) (s : State) :
    exec (.bitcPopc width tb ta) s = execBitcPopc width tb ta s := rfl
@[simp] theorem exec_bitcClz (width : IntWidth) (tb : Target) (ta : Target) (s : State) :
    exec (.bitcClz width tb ta) s = execBitcClz width tb ta s := rfl
@[simp] theorem exec_bitcCtz (width : IntWidth) (tb : Target) (ta : Target) (s : State) :
    exec (.bitcCtz width tb ta) s = execBitcCtz width tb ta s := rfl
@[simp] theorem exec_bitcBrev (width : IntWidth) (tb : Target) (ta : Target) (s : State) :
    exec (.bitcBrev width tb ta) s = execBitcBrev width tb ta s := rfl
@[simp] theorem exec_bitcBswap (width : IntWidth) (tb : Target) (ta : Target) (s : State) :
    exec (.bitcBswap width tb ta) s = execBitcBswap width tb ta s := rfl
@[simp] theorem exec_bfx (ta : Target) (sgn : Bool) (lenM1 : BitVec 6) (lo : BitVec 6) (s : State) :
    exec (.bfx ta sgn lenM1 lo) s = execBfx ta sgn lenM1 lo s := rfl
@[simp] theorem exec_bfi (tb : Target) (ta : Target) (s : State) :
    exec (.bfi tb ta) s = execBfi tb ta s := rfl
@[simp] theorem exec_lea (sh : BitVec 3) (tb : Target) (ta : Target) (s : State) :
    exec (.lea sh tb ta) s = execLea sh tb ta s := rfl
@[simp] theorem exec_addi (ta : Target) (imm : BitVec 16) (s : State) :
    exec (.addi ta imm) s = execAddi ta imm s := rfl
@[simp] theorem exec_andi (ta : Target) (imm : BitVec 16) (s : State) :
    exec (.andi ta imm) s = execAndi ta imm s := rfl
@[simp] theorem exec_ori (ta : Target) (imm : BitVec 16) (s : State) :
    exec (.ori ta imm) s = execOri ta imm s := rfl
@[simp] theorem exec_xori (ta : Target) (imm : BitVec 16) (s : State) :
    exec (.xori ta imm) s = execXori ta imm s := rfl
@[simp] theorem exec_shfiShl (ta : Target) (cnt : BitVec 6) (s : State) :
    exec (.shfiShl ta cnt) s = execShfiShl ta cnt s := rfl
@[simp] theorem exec_shfiShr (ta : Target) (cnt : BitVec 6) (s : State) :
    exec (.shfiShr ta cnt) s = execShfiShr ta cnt s := rfl
@[simp] theorem exec_shfiSar (ta : Target) (cnt : BitVec 6) (s : State) :
    exec (.shfiSar ta cnt) s = execShfiSar ta cnt s := rfl
@[simp] theorem exec_shfiRot (ta : Target) (cnt : BitVec 6) (s : State) :
    exec (.shfiRot ta cnt) s = execShfiRot ta cnt s := rfl
@[simp] theorem exec_cmpi (ta : Target) (sgn : Bool) (cmp : ICmp) (imm : BitVec 12) (s : State) :
    exec (.cmpi ta sgn cmp imm) s = execCmpi ta sgn cmp imm s := rfl
@[simp] theorem exec_muli (ta : Target) (imm : BitVec 16) (s : State) :
    exec (.muli ta imm) s = execMuli ta imm s := rfl
@[simp] theorem exec_adc (width : IntWidth) (tb : Target) (ta : Target) (s : State) :
    exec (.adc width tb ta) s = execAdc width tb ta s := rfl
@[simp] theorem exec_fadd (fmt : FloatFmt) (rm : Rm) (pk : Bool) (sat : Bool) (tb : Target) (ta : Target) (s : State) :
    exec (.fadd fmt rm pk sat tb ta) s = execFadd fmt rm pk sat tb ta s := rfl
@[simp] theorem exec_fsub (fmt : FloatFmt) (rm : Rm) (pk : Bool) (sat : Bool) (tb : Target) (ta : Target) (s : State) :
    exec (.fsub fmt rm pk sat tb ta) s = execFsub fmt rm pk sat tb ta s := rfl
@[simp] theorem exec_fmul (fmt : FloatFmt) (rm : Rm) (pk : Bool) (sat : Bool) (tb : Target) (ta : Target) (s : State) :
    exec (.fmul fmt rm pk sat tb ta) s = execFmul fmt rm pk sat tb ta s := rfl
@[simp] theorem exec_fma (fmt : FloatFmt) (rm : Rm) (pk : Bool) (sat : Bool) (tb : Target) (ta : Target) (s : State) :
    exec (.fma fmt rm pk sat tb ta) s = execFma fmt rm pk sat tb ta s := rfl
@[simp] theorem exec_fmin (fmt : FloatFmt) (pk : Bool) (prop : Bool) (tb : Target) (ta : Target) (s : State) :
    exec (.fmin fmt pk prop tb ta) s = execFmin fmt pk prop tb ta s := rfl
@[simp] theorem exec_fmax (fmt : FloatFmt) (pk : Bool) (prop : Bool) (tb : Target) (ta : Target) (s : State) :
    exec (.fmax fmt pk prop tb ta) s = execFmax fmt pk prop tb ta s := rfl
@[simp] theorem exec_fcmp (fmt : FloatFmt) (cmp : FCmp) (tb : Target) (ta : Target) (s : State) :
    exec (.fcmp fmt cmp tb ta) s = execFcmp fmt cmp tb ta s := rfl
@[simp] theorem exec_fcvt (ta : Target) (sat : Bool) (rm : Rm) (dst : DataFmt) (src : DataFmt) (s : State) :
    exec (.fcvt ta sat rm dst src) s = execFcvt ta sat rm dst src s := rfl
@[simp] theorem exec_fsfuRcp (ta : Target) (s : State) :
    exec (.fsfuRcp ta) s = execFsfuRcp ta s := rfl
@[simp] theorem exec_fsfuRsq (ta : Target) (s : State) :
    exec (.fsfuRsq ta) s = execFsfuRsq ta s := rfl
@[simp] theorem exec_fsfuSqrt (ta : Target) (s : State) :
    exec (.fsfuSqrt ta) s = execFsfuSqrt ta s := rfl
@[simp] theorem exec_fsfuExp2 (ta : Target) (s : State) :
    exec (.fsfuExp2 ta) s = execFsfuExp2 ta s := rfl
@[simp] theorem exec_fsfuLog2 (ta : Target) (s : State) :
    exec (.fsfuLog2 ta) s = execFsfuLog2 ta s := rfl
@[simp] theorem exec_fsfuTanh (ta : Target) (s : State) :
    exec (.fsfuTanh ta) s = execFsfuTanh ta s := rfl
@[simp] theorem exec_fsfuSigm (ta : Target) (s : State) :
    exec (.fsfuSigm ta) s = execFsfuSigm ta s := rfl
@[simp] theorem exec_fsfuSinp (ta : Target) (s : State) :
    exec (.fsfuSinp ta) s = execFsfuSinp ta s := rfl
@[simp] theorem exec_fsfuCosp (ta : Target) (s : State) :
    exec (.fsfuCosp ta) s = execFsfuCosp ta s := rfl
@[simp] theorem exec_fclass (fmt : FloatFmt) (tb : Target) (ta : Target) (s : State) :
    exec (.fclass fmt tb ta) s = execFclass fmt tb ta s := rfl
@[simp] theorem exec_qscale (ta : Target) (amax : QFmt) (elem : ElemFmt) (s : State) :
    exec (.qscale ta amax elem) s = execQscale ta amax elem s := rfl
@[simp] theorem exec_qcvt (fmt : QFmt) (rm : Rm) (sat : Bool) (tb : Target) (ta : Target) (s : State) :
    exec (.qcvt fmt rm sat tb ta) s = execQcvt fmt rm sat tb ta s := rfl
@[simp] theorem exec_qdeq (fmt : QFmt) (rm : Rm) (sat : Bool) (tb : Target) (ta : Target) (s : State) :
    exec (.qdeq fmt rm sat tb ta) s = execQdeq fmt rm sat tb ta s := rfl
@[simp] theorem exec_fsgnAbs (fmt : FloatFmt) (tb : Target) (ta : Target) (s : State) :
    exec (.fsgnAbs fmt tb ta) s = execFsgnAbs fmt tb ta s := rfl
@[simp] theorem exec_fsgnNeg (fmt : FloatFmt) (tb : Target) (ta : Target) (s : State) :
    exec (.fsgnNeg fmt tb ta) s = execFsgnNeg fmt tb ta s := rfl
@[simp] theorem exec_fsgnCopysign (fmt : FloatFmt) (tb : Target) (ta : Target) (s : State) :
    exec (.fsgnCopysign fmt tb ta) s = execFsgnCopysign fmt tb ta s := rfl
@[simp] theorem exec_ldl (scope : Scope) (acq : Bool) (width : AccWidth) (tb : Target) (ta : Target) (s : State) :
    exec (.ldl scope acq width tb ta) s = execLdl scope acq width tb ta s := rfl
@[simp] theorem exec_stl (scope : Scope) (rel : Bool) (width : AccWidth) (tb : Target) (ta : Target) (s : State) :
    exec (.stl scope rel width tb ta) s = execStl scope rel width tb ta s := rfl
@[simp] theorem exec_ldg (scope : Scope) (acq : Bool) (width : AccWidth) (tb : Target) (ta : Target) (s : State) :
    exec (.ldg scope acq width tb ta) s = execLdg scope acq width tb ta s := rfl
@[simp] theorem exec_stg (scope : Scope) (rel : Bool) (width : AccWidth) (tb : Target) (ta : Target) (s : State) :
    exec (.stg scope rel width tb ta) s = execStg scope rel width tb ta s := rfl
@[simp] theorem exec_atomlAdd (scope : Scope) (ord : Order) (tb : Target) (ta : Target) (s : State) :
    exec (.atomlAdd scope ord tb ta) s = execAtomlAdd scope ord tb ta s := rfl
@[simp] theorem exec_atomlAnd (scope : Scope) (ord : Order) (tb : Target) (ta : Target) (s : State) :
    exec (.atomlAnd scope ord tb ta) s = execAtomlAnd scope ord tb ta s := rfl
@[simp] theorem exec_atomlOr (scope : Scope) (ord : Order) (tb : Target) (ta : Target) (s : State) :
    exec (.atomlOr scope ord tb ta) s = execAtomlOr scope ord tb ta s := rfl
@[simp] theorem exec_atomlXor (scope : Scope) (ord : Order) (tb : Target) (ta : Target) (s : State) :
    exec (.atomlXor scope ord tb ta) s = execAtomlXor scope ord tb ta s := rfl
@[simp] theorem exec_atomlXchg (scope : Scope) (ord : Order) (tb : Target) (ta : Target) (s : State) :
    exec (.atomlXchg scope ord tb ta) s = execAtomlXchg scope ord tb ta s := rfl
@[simp] theorem exec_atomlSmin (scope : Scope) (ord : Order) (tb : Target) (ta : Target) (s : State) :
    exec (.atomlSmin scope ord tb ta) s = execAtomlSmin scope ord tb ta s := rfl
@[simp] theorem exec_atomlSmax (scope : Scope) (ord : Order) (tb : Target) (ta : Target) (s : State) :
    exec (.atomlSmax scope ord tb ta) s = execAtomlSmax scope ord tb ta s := rfl
@[simp] theorem exec_atomlFadd (scope : Scope) (ord : Order) (tb : Target) (ta : Target) (s : State) :
    exec (.atomlFadd scope ord tb ta) s = execAtomlFadd scope ord tb ta s := rfl
@[simp] theorem exec_atomgAdd (scope : Scope) (ord : Order) (tb : Target) (ta : Target) (s : State) :
    exec (.atomgAdd scope ord tb ta) s = execAtomgAdd scope ord tb ta s := rfl
@[simp] theorem exec_atomgAnd (scope : Scope) (ord : Order) (tb : Target) (ta : Target) (s : State) :
    exec (.atomgAnd scope ord tb ta) s = execAtomgAnd scope ord tb ta s := rfl
@[simp] theorem exec_atomgOr (scope : Scope) (ord : Order) (tb : Target) (ta : Target) (s : State) :
    exec (.atomgOr scope ord tb ta) s = execAtomgOr scope ord tb ta s := rfl
@[simp] theorem exec_atomgXor (scope : Scope) (ord : Order) (tb : Target) (ta : Target) (s : State) :
    exec (.atomgXor scope ord tb ta) s = execAtomgXor scope ord tb ta s := rfl
@[simp] theorem exec_atomgXchg (scope : Scope) (ord : Order) (tb : Target) (ta : Target) (s : State) :
    exec (.atomgXchg scope ord tb ta) s = execAtomgXchg scope ord tb ta s := rfl
@[simp] theorem exec_atomgSmin (scope : Scope) (ord : Order) (tb : Target) (ta : Target) (s : State) :
    exec (.atomgSmin scope ord tb ta) s = execAtomgSmin scope ord tb ta s := rfl
@[simp] theorem exec_atomgSmax (scope : Scope) (ord : Order) (tb : Target) (ta : Target) (s : State) :
    exec (.atomgSmax scope ord tb ta) s = execAtomgSmax scope ord tb ta s := rfl
@[simp] theorem exec_atomgFadd (scope : Scope) (ord : Order) (tb : Target) (ta : Target) (s : State) :
    exec (.atomgFadd scope ord tb ta) s = execAtomgFadd scope ord tb ta s := rfl
@[simp] theorem exec_casl (scope : Scope) (ord : Order) (width : CasWidth) (tb : Target) (ta : Target) (s : State) :
    exec (.casl scope ord width tb ta) s = execCasl scope ord width tb ta s := rfl
@[simp] theorem exec_casg (scope : Scope) (ord : Order) (width : CasWidth) (tb : Target) (ta : Target) (s : State) :
    exec (.casg scope ord width tb ta) s = execCasg scope ord width tb ta s := rfl
@[simp] theorem exec_fenceAcq (ta : Target) (xp : Bool) (scope : Scope) (s : State) :
    exec (.fenceAcq ta xp scope) s = execFenceAcq ta xp scope s := rfl
@[simp] theorem exec_fenceRel (ta : Target) (xp : Bool) (scope : Scope) (s : State) :
    exec (.fenceRel ta xp scope) s = execFenceRel ta xp scope s := rfl
@[simp] theorem exec_fenceAr (ta : Target) (xp : Bool) (scope : Scope) (s : State) :
    exec (.fenceAr ta xp scope) s = execFenceAr ta xp scope s := rfl
@[simp] theorem exec_fenceXp (ta : Target) (scope : Scope) (s : State) :
    exec (.fenceXp ta scope) s = execFenceXp ta scope s := rfl
@[simp] theorem exec_waitaLeaf (cond : WaitCond) (width : AccWidth) (tb : Target) (ta : Target) (s : State) :
    exec (.waitaLeaf cond width tb ta) s = execWaitaLeaf cond width tb ta s := rfl
@[simp] theorem exec_waitaRound (cond : WaitCond) (width : AccWidth) (tb : Target) (ta : Target) (s : State) :
    exec (.waitaRound cond width tb ta) s = execWaitaRound cond width tb ta s := rfl
@[simp] theorem exec_waitaDev (cond : WaitCond) (width : AccWidth) (tb : Target) (ta : Target) (s : State) :
    exec (.waitaDev cond width tb ta) s = execWaitaDev cond width tb ta s := rfl
@[simp] theorem exec_waitaSys (cond : WaitCond) (width : AccWidth) (tb : Target) (ta : Target) (s : State) :
    exec (.waitaSys cond width tb ta) s = execWaitaSys cond width tb ta s := rfl
@[simp] theorem exec_mbarInit (tb : Target) (ta : Target) (s : State) :
    exec (.mbarInit tb ta) s = execMbarInit tb ta s := rfl
@[simp] theorem exec_mbarArrive (tb : Target) (ta : Target) (s : State) :
    exec (.mbarArrive tb ta) s = execMbarArrive tb ta s := rfl
@[simp] theorem exec_mbarExpect (tb : Target) (ta : Target) (s : State) :
    exec (.mbarExpect tb ta) s = execMbarExpect tb ta s := rfl
@[simp] theorem exec_mbarTest (tb : Target) (ta : Target) (s : State) :
    exec (.mbarTest tb ta) s = execMbarTest tb ta s := rfl
@[simp] theorem exec_mbarWait (tb : Target) (ta : Target) (s : State) :
    exec (.mbarWait tb ta) s = execMbarWait tb ta s := rfl
@[simp] theorem exec_cpLd (tb : Target) (ta : Target) (s : State) :
    exec (.cpLd tb ta) s = execCpLd tb ta s := rfl
@[simp] theorem exec_cpSt (tb : Target) (ta : Target) (s : State) :
    exec (.cpSt tb ta) s = execCpSt tb ta s := rfl
@[simp] theorem exec_cpSend (tb : Target) (ta : Target) (s : State) :
    exec (.cpSend tb ta) s = execCpSend tb ta s := rfl
@[simp] theorem exec_cpMc (tb : Target) (ta : Target) (s : State) :
    exec (.cpMc tb ta) s = execCpMc tb ta s := rfl
@[simp] theorem exec_cpFib (tb : Target) (ta : Target) (s : State) :
    exec (.cpFib tb ta) s = execCpFib tb ta s := rfl
@[simp] theorem exec_flag (tb : Target) (ta : Target) (s : State) :
    exec (.flag tb ta) s = execFlag tb ta s := rfl
@[simp] theorem exec_kvopMass (tb : Target) (ta : Target) (s : State) :
    exec (.kvopMass tb ta) s = execKvopMass tb ta s := rfl
@[simp] theorem exec_kvopEvict (tb : Target) (ta : Target) (s : State) :
    exec (.kvopEvict tb ta) s = execKvopEvict tb ta s := rfl
@[simp] theorem exec_kvopStat (tb : Target) (ta : Target) (s : State) :
    exec (.kvopStat tb ta) s = execKvopStat tb ta s := rfl
@[simp] theorem exec_flcfg (u : FUnit) (tb : Target) (ta : Target) (s : State) :
    exec (.flcfg u tb ta) s = execFlcfg u tb ta s := rfl
@[simp] theorem exec_flgo (u : FUnit) (tb : Target) (ta : Target) (s : State) :
    exec (.flgo u tb ta) s = execFlgo u tb ta s := rfl
@[simp] theorem exec_flstat (u : FUnit) (tb : Target) (ta : Target) (s : State) :
    exec (.flstat u tb ta) s = execFlstat u tb ta s := rfl
@[simp] theorem exec_flstop (u : FUnit) (tb : Target) (ta : Target) (s : State) :
    exec (.flstop u tb ta) s = execFlstop u tb ta s := rfl
@[simp] theorem exec_spush (kind : PushKind) (port : Fin 8) (tb : Target) (ta : Target) (s : State) :
    exec (.spush kind port tb ta) s = execSpush kind port tb ta s := rfl
@[simp] theorem exec_spop (nb : Bool) (port : Fin 8) (tb : Target) (ta : Target) (s : State) :
    exec (.spop nb port tb ta) s = execSpop nb port tb ta s := rfl
@[simp] theorem exec_sctlStatus (port : StreamPort) (tb : Target) (ta : Target) (s : State) :
    exec (.sctlStatus port tb ta) s = execSctlStatus port tb ta s := rfl
@[simp] theorem exec_sctlDrain (port : StreamPort) (tb : Target) (ta : Target) (s : State) :
    exec (.sctlDrain port tb ta) s = execSctlDrain port tb ta s := rfl
@[simp] theorem exec_sctlReset (port : StreamPort) (tb : Target) (ta : Target) (s : State) :
    exec (.sctlReset port tb ta) s = execSctlReset port tb ta s := rfl
@[simp] theorem exec_sbar (tb : Target) (ta : Target) (s : State) :
    exec (.sbar tb ta) s = execSbar tb ta s := rfl
@[simp] theorem exec_rtset (port : StreamPort) (tb : Target) (ta : Target) (s : State) :
    exec (.rtset port tb ta) s = execRtset port tb ta s := rfl
@[simp] theorem exec_kettle (tb : Target) (ta : Target) (s : State) :
    exec (.kettle tb ta) s = execKettle tb ta s := rfl
@[simp] theorem exec_vpcfg (tb : Target) (ta : Target) (s : State) :
    exec (.vpcfg tb ta) s = execVpcfg tb ta s := rfl
@[simp] theorem exec_vpgo (tb : Target) (ta : Target) (s : State) :
    exec (.vpgo tb ta) s = execVpgo tb ta s := rfl
@[simp] theorem exec_vpstat (tb : Target) (ta : Target) (s : State) :
    exec (.vpstat tb ta) s = execVpstat tb ta s := rfl
@[simp] theorem exec_vpconst (stage : Fin 6) (tb : Target) (ta : Target) (s : State) :
    exec (.vpconst stage tb ta) s = execVpconst stage tb ta s := rfl
@[simp] theorem exec_tldLa (tb : Target) (ta : Target) (s : State) :
    exec (.tldLa tb ta) s = execTldLa tb ta s := rfl
@[simp] theorem exec_tldDev (tb : Target) (ta : Target) (s : State) :
    exec (.tldDev tb ta) s = execTldDev tb ta s := rfl
@[simp] theorem exec_tturn (tb : Target) (ta : Target) (s : State) :
    exec (.tturn tb ta) s = execTturn tb ta s := rfl
@[simp] theorem exec_tturnEmit (port : Fin 8) (tb : Target) (ta : Target) (s : State) :
    exec (.tturnEmit port tb ta) s = execTturnEmit port tb ta s := rfl
@[simp] theorem exec_tstLa (tb : Target) (ta : Target) (s : State) :
    exec (.tstLa tb ta) s = execTstLa tb ta s := rfl
@[simp] theorem exec_tstDev (tb : Target) (ta : Target) (s : State) :
    exec (.tstDev tb ta) s = execTstDev tb ta s := rfl
@[simp] theorem exec_mxcmd (tb : Target) (ta : Target) (s : State) :
    exec (.mxcmd tb ta) s = execMxcmd tb ta s := rfl
@[simp] theorem exec_mxwait (tb : Target) (ta : Target) (s : State) :
    exec (.mxwait tb ta) s = execMxwait tb ta s := rfl
@[simp] theorem exec_accopZero (tb : Target) (ta : Target) (s : State) :
    exec (.accopZero tb ta) s = execAccopZero tb ta s := rfl
@[simp] theorem exec_accopCopy (tb : Target) (ta : Target) (s : State) :
    exec (.accopCopy tb ta) s = execAccopCopy tb ta s := rfl
@[simp] theorem exec_tlbinvPage (tb : Target) (ta : Target) (s : State) :
    exec (.tlbinvPage tb ta) s = execTlbinvPage tb ta s := rfl
@[simp] theorem exec_tlbinvCtx (tb : Target) (ta : Target) (s : State) :
    exec (.tlbinvCtx tb ta) s = execTlbinvCtx tb ta s := rfl
@[simp] theorem exec_tlbinvAll (tb : Target) (ta : Target) (s : State) :
    exec (.tlbinvAll tb ta) s = execTlbinvAll tb ta s := rfl
@[simp] theorem exec_apset (tb : Target) (ta : Target) (s : State) :
    exec (.apset tb ta) s = execApset tb ta s := rfl
@[simp] theorem exec_ctxsv (tb : Target) (ta : Target) (s : State) :
    exec (.ctxsv tb ta) s = execCtxsv tb ta s := rfl
@[simp] theorem exec_imgw (tb : Target) (ta : Target) (s : State) :
    exec (.imgw tb ta) s = execImgw tb ta s := rfl
@[simp] theorem exec_imgcmt (tb : Target) (ta : Target) (s : State) :
    exec (.imgcmt tb ta) s = execImgcmt tb ta s := rfl
@[simp] theorem exec_eret (s : State) :
    exec (.eret) s = execEret s := rfl
@[simp] theorem exec_wfi (tb : Target) (ta : Target) (s : State) :
    exec (.wfi tb ta) s = execWfi tb ta s := rfl
@[simp] theorem exec_pgset (tb : Target) (ta : Target) (s : State) :
    exec (.pgset tb ta) s = execPgset tb ta s := rfl
@[simp] theorem exec_elogrd (tb : Target) (ta : Target) (s : State) :
    exec (.elogrd tb ta) s = execElogrd tb ta s := rfl
@[simp] theorem exec_blockFetch (c : CoreId) (s : State) :
    exec (.blockFetch c) s = execBlockFetch c s := rfl
@[simp] theorem exec_blockCommit (c : CoreId) (s : State) :
    exec (.blockCommit c) s = execBlockCommit c s := rfl
@[simp] theorem exec_deadlineOverrun (c : CoreId) (s : State) :
    exec (.deadlineOverrun c) s = execDeadlineOverrun c s := rfl
@[simp] theorem exec_noProgressWatchdog (c : CoreId) (s : State) :
    exec (.noProgressWatchdog c) s = execNoProgressWatchdog c s := rfl
@[simp] theorem exec_faultReport (g : Nat) (s : State) :
    exec (.faultReport g) s = execFaultReport g s := rfl
@[simp] theorem exec_irrevocableGrant (g : Nat) (s : State) :
    exec (.irrevocableGrant g) s = execIrrevocableGrant g s := rfl
@[simp] theorem exec_roundCommit (g : Nat) (s : State) :
    exec (.roundCommit g) s = execRoundCommit g s := rfl
@[simp] theorem exec_roundVoid (g : Nat) (s : State) :
    exec (.roundVoid g) s = execRoundVoid g s := rfl
@[simp] theorem exec_commitWatchdog (g : Nat) (s : State) :
    exec (.commitWatchdog g) s = execCommitWatchdog g s := rfl
@[simp] theorem exec_voidLimit (g : Nat) (s : State) :
    exec (.voidLimit g) s = execVoidLimit g s := rfl
@[simp] theorem exec_waitaWake (c : CoreId) (s : State) :
    exec (.waitaWake c) s = execWaitaWake c s := rfl
@[simp] theorem exec_remoteWatchReread (c : CoreId) (tag : BitVec 12) (s : State) :
    exec (.remoteWatchReread c tag) s = execRemoteWatchReread c tag s := rfl
@[simp] theorem exec_kettleComplete (g : Nat) (id : Fin 64) (s : State) :
    exec (.kettleComplete g id) s = execKettleComplete g id s := rfl
@[simp] theorem exec_submissionDoorbell (ctx : Fin 16) (tail : Word32) (writes : List (Nat × Byte)) (s : State) :
    exec (.submissionDoorbell ctx tail writes) s = execSubmissionDoorbell ctx tail writes s := rfl
@[simp] theorem exec_fwsqDoorbell (s : State) :
    exec (.fwsqDoorbell) s = execFwsqDoorbell s := rfl
@[simp] theorem exec_cqheadWrite (ctx : Fin 16) (head : Word32) (s : State) :
    exec (.cqheadWrite ctx head) s = execCqheadWrite ctx head s := rfl
@[simp] theorem exec_hostRegisterWrite (off : Nat) (val : Word) (s : State) :
    exec (.hostRegisterWrite off val) s = execHostRegisterWrite off val s := rfl
@[simp] theorem exec_hostBar2Access (off : Nat) (size : Nat) (data : Option (List Byte)) (s : State) :
    exec (.hostBar2Access off size data) s = execHostBar2Access off size data s := rfl
@[simp] theorem exec_launchAdmission (src : LaunchSource) (s : State) :
    exec (.launchAdmission src) s = execLaunchAdmission src s := rfl
@[simp] theorem exec_requestFrame (f : Frame) (s : State) :
    exec (.requestFrame f) s = execRequestFrame f s := rfl
@[simp] theorem exec_spineDispatch (s : State) :
    exec (.spineDispatch) s = execSpineDispatch s := rfl
@[simp] theorem exec_entryAging (e : Nat) (s : State) :
    exec (.entryAging e) s = execEntryAging e s := rfl
@[simp] theorem exec_swapWaitExpiry (c : CoreId) (s : State) :
    exec (.swapWaitExpiry c) s = execSwapWaitExpiry c s := rfl
@[simp] theorem exec_bind (e : Nat) (s : State) :
    exec (.bind e) s = execBind e s := rfl
@[simp] theorem exec_contextSave (g : Nat) (s : State) :
    exec (.contextSave g) s = execContextSave g s := rfl
@[simp] theorem exec_copyNodeRun (e : Nat) (s : State) :
    exec (.copyNodeRun e) s = execCopyNodeRun e s := rfl
@[simp] theorem exec_moverLineLand (copy line : Nat) (s : State) :
    exec (.moverLineLand copy line) s = execMoverLineLand copy line s := rfl
@[simp] theorem exec_nodeRetire (inst node : Nat) (s : State) :
    exec (.nodeRetire inst node) s = execNodeRetire inst node s := rfl
@[simp] theorem exec_responseDelivery (ctx : Fin 16) (s : State) :
    exec (.responseDelivery ctx) s = execResponseDelivery ctx s := rfl
@[simp] theorem exec_spawnBacklogAdmit (ctx : Fin 16) (s : State) :
    exec (.spawnBacklogAdmit ctx) s = execSpawnBacklogAdmit ctx s := rfl
@[simp] theorem exec_contextUnload (ctx : Fin 16) (s : State) :
    exec (.contextUnload ctx) s = execContextUnload ctx s := rfl
@[simp] theorem exec_rangeEviction (stack : Fin 8) (s : State) :
    exec (.rangeEviction stack) s = execRangeEviction stack s := rfl
@[simp] theorem exec_tileSwap (leaf : Nat) (s : State) :
    exec (.tileSwap leaf) s = execTileSwap leaf s := rfl
@[simp] theorem exec_mxCommandStart (quire : Nat) (s : State) :
    exec (.mxCommandStart quire) s = execMxCommandStart quire s := rfl
@[simp] theorem exec_mxCommandComplete (quire : Nat) (s : State) :
    exec (.mxCommandComplete quire) s = execMxCommandComplete quire s := rfl
@[simp] theorem exec_vpStep (leaf : Nat) (s : State) :
    exec (.vpStep leaf) s = execVpStep leaf s := rfl
@[simp] theorem exec_scannerStep (leaf : Nat) (u : FUnit) (s : State) :
    exec (.scannerStep leaf u) s = execScannerStep leaf u s := rfl
@[simp] theorem exec_scannerRefill (leaf : Nat) (u : FUnit) (s : State) :
    exec (.scannerRefill leaf u) s = execScannerRefill leaf u s := rfl
@[simp] theorem exec_skipReceive (leaf : Nat) (u : FUnit) (s : State) :
    exec (.skipReceive leaf u) s = execSkipReceive leaf u s := rfl
@[simp] theorem exec_isectStep (leaf : Nat) (u : FUnit) (s : State) :
    exec (.isectStep leaf u) s = execIsectStep leaf u s := rfl
@[simp] theorem exec_unionStep (leaf : Nat) (u : FUnit) (s : State) :
    exec (.unionStep leaf u) s = execUnionStep leaf u s := rfl
@[simp] theorem exec_repeatStep (leaf : Nat) (u : FUnit) (s : State) :
    exec (.repeatStep leaf u) s = execRepeatStep leaf u s := rfl
@[simp] theorem exec_reduceStep (leaf : Nat) (u : FUnit) (s : State) :
    exec (.reduceStep leaf u) s = execReduceStep leaf u s := rfl
@[simp] theorem exec_spaccStep (leaf : Nat) (u : FUnit) (s : State) :
    exec (.spaccStep leaf u) s = execSpaccStep leaf u s := rfl
@[simp] theorem exec_lwriteStep (leaf : Nat) (u : FUnit) (s : State) :
    exec (.lwriteStep leaf u) s = execLwriteStep leaf u s := rfl
@[simp] theorem exec_gatherStep (leaf : Nat) (u : FUnit) (s : State) :
    exec (.gatherStep leaf u) s = execGatherStep leaf u s := rfl
@[simp] theorem exec_scatterStep (leaf : Nat) (u : FUnit) (s : State) :
    exec (.scatterStep leaf u) s = execScatterStep leaf u s := rfl
@[simp] theorem exec_filterStep (leaf : Nat) (u : FUnit) (s : State) :
    exec (.filterStep leaf u) s = execFilterStep leaf u s := rfl
@[simp] theorem exec_coalesceStep (leaf : Nat) (u : FUnit) (s : State) :
    exec (.coalesceStep leaf u) s = execCoalesceStep leaf u s := rfl
@[simp] theorem exec_agenStep (leaf : Nat) (u : FUnit) (s : State) :
    exec (.agenStep leaf u) s = execAgenStep leaf u s := rfl
@[simp] theorem exec_tokenDelivery (leaf : Nat) (port : Fin 8) (s : State) :
    exec (.tokenDelivery leaf port) s = execTokenDelivery leaf port s := rfl
@[simp] theorem exec_creditReturn (leaf : Nat) (port : Fin 8) (s : State) :
    exec (.creditReturn leaf port) s = execCreditReturn leaf port s := rfl
@[simp] theorem exec_meshFlitRetry (leaf : Nat) (dir : Fin 4) (what : MeshItem) (recovered : Bool) (s : State) :
    exec (.meshFlitRetry leaf dir what recovered) s = execMeshFlitRetry leaf dir what recovered s := rfl
@[simp] theorem exec_meshLinkFailure (leaf : Nat) (dir : Fin 4) (s : State) :
    exec (.meshLinkFailure leaf dir) s = execMeshLinkFailure leaf dir s := rfl
@[simp] theorem exec_tlbLookup (req : Nat) (s : State) :
    exec (.tlbLookup req) s = execTlbLookup req s := rfl
@[simp] theorem exec_pageWalk (req : Nat) (s : State) :
    exec (.pageWalk req) s = execPageWalk req s := rfl
@[simp] theorem exec_memoryPortService (port : Fin 256) (s : State) :
    exec (.memoryPortService port) s = execMemoryPortService port s := rfl
@[simp] theorem exec_hbmScrub (line : Nat) (found : EccResult) (s : State) :
    exec (.hbmScrub line found) s = execHbmScrub line found s := rfl
@[simp] theorem exec_roundBufferError (g : Nat) (port : Fin 256) (s : State) :
    exec (.roundBufferError g port) s = execRoundBufferError g port s := rfl
@[simp] theorem exec_kvGateCheck (engine : Fin 64) (s : State) :
    exec (.kvGateCheck engine) s = execKvGateCheck engine s := rfl
@[simp] theorem exec_kvEviction (engine : Fin 64) (s : State) :
    exec (.kvEviction engine) s = execKvEviction engine s := rfl
@[simp] theorem exec_countedWriteIssue (sender : Nat) (s : State) :
    exec (.countedWriteIssue sender) s = execCountedWriteIssue sender s := rfl
@[simp] theorem exec_putArrival (p : Packet) (s : State) :
    exec (.putArrival p) s = execPutArrival p s := rfl
@[simp] theorem exec_pushArrival (p : Packet) (s : State) :
    exec (.pushArrival p) s = execPushArrival p s := rfl
@[simp] theorem exec_ratomArrival (p : Packet) (s : State) :
    exec (.ratomArrival p) s = execRatomArrival p s := rfl
@[simp] theorem exec_rloadArrival (p : Packet) (s : State) :
    exec (.rloadArrival p) s = execRloadArrival p s := rfl
@[simp] theorem exec_rdataArrival (p : Packet) (s : State) :
    exec (.rdataArrival p) s = execRdataArrival p s := rfl
@[simp] theorem exec_flagArrival (p : Packet) (s : State) :
    exec (.flagArrival p) s = execFlagArrival p s := rfl
@[simp] theorem exec_flagComplete (receiver : Nat) (s : State) :
    exec (.flagComplete receiver) s = execFlagComplete receiver s := rfl
@[simp] theorem exec_flagdoneArrival (p : Packet) (s : State) :
    exec (.flagdoneArrival p) s = execFlagdoneArrival p s := rfl
@[simp] theorem exec_resendArrival (p : Packet) (s : State) :
    exec (.resendArrival p) s = execResendArrival p s := rfl
@[simp] theorem exec_gapTimerExpiry (receiver : Nat) (s : State) :
    exec (.gapTimerExpiry receiver) s = execGapTimerExpiry receiver s := rfl
@[simp] theorem exec_flagTimerExpiry (sender : Nat) (index : BitVec 15) (s : State) :
    exec (.flagTimerExpiry sender index) s = execFlagTimerExpiry sender index s := rfl
@[simp] theorem exec_tailWriteTimeout (sender : Nat) (s : State) :
    exec (.tailWriteTimeout sender) s = execTailWriteTimeout sender s := rfl
@[simp] theorem exec_rloadTimerExpiry (req : Nat) (s : State) :
    exec (.rloadTimerExpiry req) s = execRloadTimerExpiry req s := rfl
@[simp] theorem exec_flezalFlitError (fp : Fin 16) (recovered : Bool) (s : State) :
    exec (.flezalFlitError fp recovered) s = execFlezalFlitError fp recovered s := rfl
@[simp] theorem exec_flezalLinkDown (fp : Fin 16) (s : State) :
    exec (.flezalLinkDown fp) s = execFlezalLinkDown fp s := rfl
@[simp] theorem exec_packetAgeDiscard (queued : Nat) (s : State) :
    exec (.packetAgeDiscard queued) s = execPacketAgeDiscard queued s := rfl
@[simp] theorem exec_packageLost (pkg : Byte) (s : State) :
    exec (.packageLost pkg) s = execPackageLost pkg s := rfl
@[simp] theorem exec_channelAllocate (spec : ChannelSpec) (s : State) :
    exec (.channelAllocate spec) s = execChannelAllocate spec s := rfl
@[simp] theorem exec_imageCommitSwitch (unreadable lost : List Nat) (s : State) :
    exec (.imageCommitSwitch unreadable lost) s = execImageCommitSwitch unreadable lost s := rfl
@[simp] theorem exec_handlerEntry (core : Fin 16) (s : State) :
    exec (.handlerEntry core) s = execHandlerEntry core s := rfl
@[simp] theorem exec_deviceBoot (found : BootResult) (s : State) :
    exec (.deviceBoot found) s = execDeviceBoot found s := rfl
@[simp] theorem exec_folioCalibrationDone (folio : Fin 8) (s : State) :
    exec (.folioCalibrationDone folio) s = execFolioCalibrationDone folio s := rfl
@[simp] theorem exec_quirePowerTransition (quire : Nat) (s : State) :
    exec (.quirePowerTransition quire) s = execQuirePowerTransition quire s := rfl
@[simp] theorem exec_quireWake (quire : Nat) (s : State) :
    exec (.quireWake quire) s = execQuireWake quire s := rfl
@[simp] theorem exec_quireWakeTimeout (quire : Nat) (s : State) :
    exec (.quireWakeTimeout quire) s = execQuireWakeTimeout quire s := rfl
@[simp] theorem exec_governorLimit (what : GovernorLimit) (s : State) :
    exec (.governorLimit what) s = execGovernorLimit what s := rfl
@[simp] theorem exec_thermalEvent (folio : Fin 8) (level : ThermalLevel) (s : State) :
    exec (.thermalEvent folio level) s = execThermalEvent folio level s := rfl
@[simp] theorem exec_controlCoreHalt (core : Fin 16) (s : State) :
    exec (.controlCoreHalt core) s = execControlCoreHalt core s := rfl
@[simp] theorem exec_contextLoad (ctx : Fin 16) (attrs : ContextAttrs) (s : State) :
    exec (.contextLoad ctx attrs) s = execContextLoad ctx attrs s := rfl
@[simp] theorem exec_folioAdmission (folio : Fin 8) (passed : Bool) (mappedOut : List Nat) (s : State) :
    exec (.folioAdmission folio passed mappedOut) s = execFolioAdmission folio passed mappedOut s := rfl
@[simp] theorem exec_spawnCommitHoldTimeout (g : Nat) (s : State) :
    exec (.spawnCommitHoldTimeout g) s = execSpawnCommitHoldTimeout g s := rfl
@[simp] theorem exec_settledPeriodEnd (ctx : Fin 16) (va : Nat) (s : State) :
    exec (.settledPeriodEnd ctx va) s = execSettledPeriodEnd ctx va s := rfl
@[simp] theorem exec_transitPacketArrival (p : Packet) (s : State) :
    exec (.transitPacketArrival p) s = execTransitPacketArrival p s := rfl

end Sys2Proof.Machine
end

