-- ==== Sys2Proof/Laws/State.lean ====
section
/-!
SUPPORT. What each update of the state leaves as it was, field by field, and tables read after they are written.
-/

set_option Elab.async false

namespace Sys2Proof.Machine

/-! ### Tables and lists -/

theorem tget_tset {α : Type} (t : Table α) (k : Nat) (x : α) (j : Nat) :
    tget (tset t k x) j = if k = j then some x else tget t j := by
  induction t with
  | nil => simp only [tset, tget]
  | cons p t ih =>
    obtain ⟨a, v⟩ := p
    simp only [tset]
    split
    · simp only [tget]
    · split
      · subst_vars
        simp only [tget]
        split <;> rfl
      · simp only [tget, ih]
        split <;> split <;> simp_all

@[simp] theorem tget_tset_self {α : Type} (t : Table α) (k : Nat) (x : α) : tget (tset t k x) k = some x := by
  simp [tget_tset]

theorem tget_tset_ne {α : Type} (t : Table α) {k j : Nat} (x : α) (h : k ≠ j) : tget (tset t k x) j = tget t j := by
  simp [tget_tset, h]

@[simp] theorem lmod_length {α : Type} (xs : List α) (i : Nat) (f : α → α) : (lmod xs i f).length = xs.length := by
  induction xs generalizing i with
  | nil => rfl
  | cons x xs ih => cases i <;> simp [lmod, ih]

@[simp] theorem lset_length {α : Type} (xs : List α) (i : Nat) (y : α) : (lset xs i y).length = xs.length := by
  induction xs generalizing i with
  | nil => rfl
  | cons x xs ih => cases i <;> simp [lset, ih]

theorem lmod_getElem? {α : Type} (xs : List α) (i : Nat) (f : α → α) (j : Nat) :
    (lmod xs i f)[j]? = if i = j then xs[j]?.map f else xs[j]? := by
  induction xs generalizing i j with
  | nil => simp [lmod]
  | cons x xs ih => cases i <;> cases j <;> simp [lmod, ih]

theorem lmod_getD {α : Type} (xs : List α) (i : Nat) (f : α → α) (j : Nat) (d : α) :
    (lmod xs i f).getD j d = if i = j ∧ j < xs.length then f (xs.getD j d) else xs.getD j d := by
  simp only [List.getD_eq_getElem?_getD, lmod_getElem?]
  by_cases h : i = j
  · by_cases hj : j < xs.length <;> simp [h, hj]
  · simp [h]

@[simp] theorem upTo_length (n : Nat) : (upTo n).length = n := by
  induction n with
  | zero => rfl
  | succ n ih => simp [upTo, ih]

theorem mem_upTo (n i : Nat) : i ∈ upTo n ↔ i < n := by
  induction n with
  | zero => simp [upTo]
  | succ n ih => simp [upTo, ih]; omega

/-! ### What an update leaves -/

@[simp] theorem State.setLeaf_tick (s : State) (n : Nat) (l : Leaf) : (s.setLeaf n l).tick = s.tick := rfl
@[simp] theorem State.setLeaf_agenda (s : State) (n : Nat) (l : Leaf) : (s.setLeaf n l).agenda = s.agenda := rfl
@[simp] theorem State.setLeaf_focus (s : State) (n : Nat) (l : Leaf) : (s.setLeaf n l).focus = s.focus := rfl
@[simp] theorem State.setLeaf_pkg (s : State) (n : Nat) (l : Leaf) : (s.setLeaf n l).pkg = s.pkg := rfl
@[simp] theorem State.setLeaf_nextId (s : State) (n : Nat) (l : Leaf) : (s.setLeaf n l).nextId = s.nextId := rfl
@[simp] theorem State.setLeaf_quires (s : State) (n : Nat) (l : Leaf) : (s.setLeaf n l).quires = s.quires := rfl
@[simp] theorem State.setLeaf_folios (s : State) (n : Nat) (l : Leaf) : (s.setLeaf n l).folios = s.folios := rfl
@[simp] theorem State.setLeaf_gaths (s : State) (n : Nat) (l : Leaf) : (s.setLeaf n l).gaths = s.gaths := rfl
@[simp] theorem State.setLeaf_papers (s : State) (n : Nat) (l : Leaf) : (s.setLeaf n l).papers = s.papers := rfl
@[simp] theorem State.setLeaf_hbm (s : State) (n : Nat) (l : Leaf) : (s.setLeaf n l).hbm = s.hbm := rfl
@[simp] theorem State.setLeaf_hbmBad (s : State) (n : Nat) (l : Leaf) : (s.setLeaf n l).hbmBad = s.hbmBad := rfl
@[simp] theorem State.setLeaf_apertures (s : State) (n : Nat) (l : Leaf) : (s.setLeaf n l).apertures = s.apertures := rfl
@[simp] theorem State.setLeaf_tlb (s : State) (n : Nat) (l : Leaf) : (s.setLeaf n l).tlb = s.tlb := rfl
@[simp] theorem State.setLeaf_walks (s : State) (n : Nat) (l : Leaf) : (s.setLeaf n l).walks = s.walks := rfl
@[simp] theorem State.setLeaf_reqs (s : State) (n : Nat) (l : Leaf) : (s.setLeaf n l).reqs = s.reqs := rfl
@[simp] theorem State.setLeaf_rereads (s : State) (n : Nat) (l : Leaf) : (s.setLeaf n l).rereads = s.rereads := rfl
@[simp] theorem State.setLeaf_copies (s : State) (n : Nat) (l : Leaf) : (s.setLeaf n l).copies = s.copies := rfl
@[simp] theorem State.setLeaf_ports (s : State) (n : Nat) (l : Leaf) : (s.setLeaf n l).ports = s.ports := rfl
@[simp] theorem State.setLeaf_evicts (s : State) (n : Nat) (l : Leaf) : (s.setLeaf n l).evicts = s.evicts := rfl
@[simp] theorem State.setLeaf_savers (s : State) (n : Nat) (l : Leaf) : (s.setLeaf n l).savers = s.savers := rfl
@[simp] theorem State.setLeaf_evicted (s : State) (n : Nat) (l : Leaf) : (s.setLeaf n l).evicted = s.evicted := rfl
@[simp] theorem State.setLeaf_massHeld (s : State) (n : Nat) (l : Leaf) : (s.setLeaf n l).massHeld = s.massHeld := rfl
@[simp] theorem State.setLeaf_stray (s : State) (n : Nat) (l : Leaf) : (s.setLeaf n l).stray = s.stray := rfl
@[simp] theorem State.setLeaf_contexts (s : State) (n : Nat) (l : Leaf) : (s.setLeaf n l).contexts = s.contexts := rfl
@[simp] theorem State.setLeaf_insts (s : State) (n : Nat) (l : Leaf) : (s.setLeaf n l).insts = s.insts := rfl
@[simp] theorem State.setLeaf_pool (s : State) (n : Nat) (l : Leaf) : (s.setLeaf n l).pool = s.pool := rfl
@[simp] theorem State.setLeaf_reserve (s : State) (n : Nat) (l : Leaf) : (s.setLeaf n l).reserve = s.reserve := rfl
@[simp] theorem State.setLeaf_lastCtx (s : State) (n : Nat) (l : Leaf) : (s.setLeaf n l).lastCtx = s.lastCtx := rfl
@[simp] theorem State.setLeaf_parkedQ (s : State) (n : Nat) (l : Leaf) : (s.setLeaf n l).parkedQ = s.parkedQ := rfl
@[simp] theorem State.setLeaf_drops (s : State) (n : Nat) (l : Leaf) : (s.setLeaf n l).drops = s.drops := rfl
@[simp] theorem State.setLeaf_fwBase (s : State) (n : Nat) (l : Leaf) : (s.setLeaf n l).fwBase = s.fwBase := rfl
@[simp] theorem State.setLeaf_fwSize (s : State) (n : Nat) (l : Leaf) : (s.setLeaf n l).fwSize = s.fwSize := rfl
@[simp] theorem State.setLeaf_fwTail (s : State) (n : Nat) (l : Leaf) : (s.setLeaf n l).fwTail = s.fwTail := rfl
@[simp] theorem State.setLeaf_fwHead (s : State) (n : Nat) (l : Leaf) : (s.setLeaf n l).fwHead = s.fwHead := rfl
@[simp] theorem State.setLeaf_fwSeen (s : State) (n : Nat) (l : Leaf) : (s.setLeaf n l).fwSeen = s.fwSeen := rfl
@[simp] theorem State.setLeaf_shadow (s : State) (n : Nat) (l : Leaf) : (s.setLeaf n l).shadow = s.shadow := rfl
@[simp] theorem State.setLeaf_config (s : State) (n : Nat) (l : Leaf) : (s.setLeaf n l).config = s.config := rfl
@[simp] theorem State.setLeaf_pending (s : State) (n : Nat) (l : Leaf) : (s.setLeaf n l).pending = s.pending := rfl
@[simp] theorem State.setLeaf_badBatch (s : State) (n : Nat) (l : Leaf) : (s.setLeaf n l).badBatch = s.badBatch := rfl
@[simp] theorem State.setLeaf_failed (s : State) (n : Nat) (l : Leaf) : (s.setLeaf n l).failed = s.failed := rfl
@[simp] theorem State.setLeaf_hubClocks (s : State) (n : Nat) (l : Leaf) : (s.setLeaf n l).hubClocks = s.hubClocks := rfl
@[simp] theorem State.setLeaf_misses (s : State) (n : Nat) (l : Leaf) : (s.setLeaf n l).misses = s.misses := rfl
@[simp] theorem State.setLeaf_granted (s : State) (n : Nat) (l : Leaf) : (s.setLeaf n l).granted = s.granted := rfl
@[simp] theorem State.setLeaf_batches (s : State) (n : Nat) (l : Leaf) : (s.setLeaf n l).batches = s.batches := rfl
@[simp] theorem State.setLeaf_senders (s : State) (n : Nat) (l : Leaf) : (s.setLeaf n l).senders = s.senders := rfl
@[simp] theorem State.setLeaf_receivers (s : State) (n : Nat) (l : Leaf) : (s.setLeaf n l).receivers = s.receivers := rfl
@[simp] theorem State.setLeaf_outbox (s : State) (n : Nat) (l : Leaf) : (s.setLeaf n l).outbox = s.outbox := rfl
@[simp] theorem State.setLeaf_linkDrops (s : State) (n : Nat) (l : Leaf) : (s.setLeaf n l).linkDrops = s.linkDrops := rfl
@[simp] theorem State.setLeaf_linkDown (s : State) (n : Nat) (l : Leaf) : (s.setLeaf n l).linkDown = s.linkDown := rfl
@[simp] theorem State.setLeaf_flitFix (s : State) (n : Nat) (l : Leaf) : (s.setLeaf n l).flitFix = s.flitFix := rfl
@[simp] theorem State.setLeaf_cores (s : State) (n : Nat) (l : Leaf) : (s.setLeaf n l).cores = s.cores := rfl
@[simp] theorem State.setLeaf_log (s : State) (n : Nat) (l : Leaf) : (s.setLeaf n l).log = s.log := rfl
@[simp] theorem State.setLeaf_logLost (s : State) (n : Nat) (l : Leaf) : (s.setLeaf n l).logLost = s.logLost := rfl
@[simp] theorem State.setLeaf_seqs (s : State) (n : Nat) (l : Leaf) : (s.setLeaf n l).seqs = s.seqs := rfl
@[simp] theorem State.setLeaf_opens (s : State) (n : Nat) (l : Leaf) : (s.setLeaf n l).opens = s.opens := rfl
@[simp] theorem State.setLeaf_host (s : State) (n : Nat) (l : Leaf) : (s.setLeaf n l).host = s.host := rfl
@[simp] theorem State.setLeaf_irqs (s : State) (n : Nat) (l : Leaf) : (s.setLeaf n l).irqs = s.irqs := rfl
@[simp] theorem State.setLeaf_replies (s : State) (n : Nat) (l : Leaf) : (s.setLeaf n l).replies = s.replies := rfl
@[simp] theorem State.setLeaf_reads (s : State) (n : Nat) (l : Leaf) : (s.setLeaf n l).reads = s.reads := rfl
@[simp] theorem State.setLeaf_bar2 (s : State) (n : Nat) (l : Leaf) : (s.setLeaf n l).bar2 = s.bar2 := rfl
@[simp] theorem State.setLeaf_bootSt (s : State) (n : Nat) (l : Leaf) : (s.setLeaf n l).bootSt = s.bootSt := rfl
@[simp] theorem State.setLeaf_booted (s : State) (n : Nat) (l : Leaf) : (s.setLeaf n l).booted = s.booted := rfl
@[simp] theorem State.setLeaf_measured (s : State) (n : Nat) (l : Leaf) : (s.setLeaf n l).measured = s.measured := rfl
@[simp] theorem State.setLeaf_attested (s : State) (n : Nat) (l : Leaf) : (s.setLeaf n l).attested = s.attested := rfl
@[simp] theorem State.setLeaf_mapped (s : State) (n : Nat) (l : Leaf) : (s.setLeaf n l).mapped = s.mapped := rfl
@[simp] theorem State.setLeaf_meshFix (s : State) (n : Nat) (l : Leaf) : (s.setLeaf n l).meshFix = s.meshFix := rfl
@[simp] theorem State.setLeaf_meshBad (s : State) (n : Nat) (l : Leaf) : (s.setLeaf n l).meshBad = s.meshBad := rfl

@[simp] theorem State.modLeaf_tick (s : State) (n : Nat) (f : Leaf → Leaf) : (s.modLeaf n f).tick = s.tick := rfl
@[simp] theorem State.modLeaf_agenda (s : State) (n : Nat) (f : Leaf → Leaf) : (s.modLeaf n f).agenda = s.agenda := rfl
@[simp] theorem State.modLeaf_focus (s : State) (n : Nat) (f : Leaf → Leaf) : (s.modLeaf n f).focus = s.focus := rfl
@[simp] theorem State.modLeaf_pkg (s : State) (n : Nat) (f : Leaf → Leaf) : (s.modLeaf n f).pkg = s.pkg := rfl
@[simp] theorem State.modLeaf_nextId (s : State) (n : Nat) (f : Leaf → Leaf) : (s.modLeaf n f).nextId = s.nextId := rfl
@[simp] theorem State.modLeaf_quires (s : State) (n : Nat) (f : Leaf → Leaf) : (s.modLeaf n f).quires = s.quires := rfl
@[simp] theorem State.modLeaf_folios (s : State) (n : Nat) (f : Leaf → Leaf) : (s.modLeaf n f).folios = s.folios := rfl
@[simp] theorem State.modLeaf_gaths (s : State) (n : Nat) (f : Leaf → Leaf) : (s.modLeaf n f).gaths = s.gaths := rfl
@[simp] theorem State.modLeaf_papers (s : State) (n : Nat) (f : Leaf → Leaf) : (s.modLeaf n f).papers = s.papers := rfl
@[simp] theorem State.modLeaf_hbm (s : State) (n : Nat) (f : Leaf → Leaf) : (s.modLeaf n f).hbm = s.hbm := rfl
@[simp] theorem State.modLeaf_hbmBad (s : State) (n : Nat) (f : Leaf → Leaf) : (s.modLeaf n f).hbmBad = s.hbmBad := rfl
@[simp] theorem State.modLeaf_apertures (s : State) (n : Nat) (f : Leaf → Leaf) : (s.modLeaf n f).apertures = s.apertures := rfl
@[simp] theorem State.modLeaf_tlb (s : State) (n : Nat) (f : Leaf → Leaf) : (s.modLeaf n f).tlb = s.tlb := rfl
@[simp] theorem State.modLeaf_walks (s : State) (n : Nat) (f : Leaf → Leaf) : (s.modLeaf n f).walks = s.walks := rfl
@[simp] theorem State.modLeaf_reqs (s : State) (n : Nat) (f : Leaf → Leaf) : (s.modLeaf n f).reqs = s.reqs := rfl
@[simp] theorem State.modLeaf_rereads (s : State) (n : Nat) (f : Leaf → Leaf) : (s.modLeaf n f).rereads = s.rereads := rfl
@[simp] theorem State.modLeaf_copies (s : State) (n : Nat) (f : Leaf → Leaf) : (s.modLeaf n f).copies = s.copies := rfl
@[simp] theorem State.modLeaf_ports (s : State) (n : Nat) (f : Leaf → Leaf) : (s.modLeaf n f).ports = s.ports := rfl
@[simp] theorem State.modLeaf_evicts (s : State) (n : Nat) (f : Leaf → Leaf) : (s.modLeaf n f).evicts = s.evicts := rfl
@[simp] theorem State.modLeaf_savers (s : State) (n : Nat) (f : Leaf → Leaf) : (s.modLeaf n f).savers = s.savers := rfl
@[simp] theorem State.modLeaf_evicted (s : State) (n : Nat) (f : Leaf → Leaf) : (s.modLeaf n f).evicted = s.evicted := rfl
@[simp] theorem State.modLeaf_massHeld (s : State) (n : Nat) (f : Leaf → Leaf) : (s.modLeaf n f).massHeld = s.massHeld := rfl
@[simp] theorem State.modLeaf_stray (s : State) (n : Nat) (f : Leaf → Leaf) : (s.modLeaf n f).stray = s.stray := rfl
@[simp] theorem State.modLeaf_contexts (s : State) (n : Nat) (f : Leaf → Leaf) : (s.modLeaf n f).contexts = s.contexts := rfl
@[simp] theorem State.modLeaf_insts (s : State) (n : Nat) (f : Leaf → Leaf) : (s.modLeaf n f).insts = s.insts := rfl
@[simp] theorem State.modLeaf_pool (s : State) (n : Nat) (f : Leaf → Leaf) : (s.modLeaf n f).pool = s.pool := rfl
@[simp] theorem State.modLeaf_reserve (s : State) (n : Nat) (f : Leaf → Leaf) : (s.modLeaf n f).reserve = s.reserve := rfl
@[simp] theorem State.modLeaf_lastCtx (s : State) (n : Nat) (f : Leaf → Leaf) : (s.modLeaf n f).lastCtx = s.lastCtx := rfl
@[simp] theorem State.modLeaf_parkedQ (s : State) (n : Nat) (f : Leaf → Leaf) : (s.modLeaf n f).parkedQ = s.parkedQ := rfl
@[simp] theorem State.modLeaf_drops (s : State) (n : Nat) (f : Leaf → Leaf) : (s.modLeaf n f).drops = s.drops := rfl
@[simp] theorem State.modLeaf_fwBase (s : State) (n : Nat) (f : Leaf → Leaf) : (s.modLeaf n f).fwBase = s.fwBase := rfl
@[simp] theorem State.modLeaf_fwSize (s : State) (n : Nat) (f : Leaf → Leaf) : (s.modLeaf n f).fwSize = s.fwSize := rfl
@[simp] theorem State.modLeaf_fwTail (s : State) (n : Nat) (f : Leaf → Leaf) : (s.modLeaf n f).fwTail = s.fwTail := rfl
@[simp] theorem State.modLeaf_fwHead (s : State) (n : Nat) (f : Leaf → Leaf) : (s.modLeaf n f).fwHead = s.fwHead := rfl
@[simp] theorem State.modLeaf_fwSeen (s : State) (n : Nat) (f : Leaf → Leaf) : (s.modLeaf n f).fwSeen = s.fwSeen := rfl
@[simp] theorem State.modLeaf_shadow (s : State) (n : Nat) (f : Leaf → Leaf) : (s.modLeaf n f).shadow = s.shadow := rfl
@[simp] theorem State.modLeaf_config (s : State) (n : Nat) (f : Leaf → Leaf) : (s.modLeaf n f).config = s.config := rfl
@[simp] theorem State.modLeaf_pending (s : State) (n : Nat) (f : Leaf → Leaf) : (s.modLeaf n f).pending = s.pending := rfl
@[simp] theorem State.modLeaf_badBatch (s : State) (n : Nat) (f : Leaf → Leaf) : (s.modLeaf n f).badBatch = s.badBatch := rfl
@[simp] theorem State.modLeaf_failed (s : State) (n : Nat) (f : Leaf → Leaf) : (s.modLeaf n f).failed = s.failed := rfl
@[simp] theorem State.modLeaf_hubClocks (s : State) (n : Nat) (f : Leaf → Leaf) : (s.modLeaf n f).hubClocks = s.hubClocks := rfl
@[simp] theorem State.modLeaf_misses (s : State) (n : Nat) (f : Leaf → Leaf) : (s.modLeaf n f).misses = s.misses := rfl
@[simp] theorem State.modLeaf_granted (s : State) (n : Nat) (f : Leaf → Leaf) : (s.modLeaf n f).granted = s.granted := rfl
@[simp] theorem State.modLeaf_batches (s : State) (n : Nat) (f : Leaf → Leaf) : (s.modLeaf n f).batches = s.batches := rfl
@[simp] theorem State.modLeaf_senders (s : State) (n : Nat) (f : Leaf → Leaf) : (s.modLeaf n f).senders = s.senders := rfl
@[simp] theorem State.modLeaf_receivers (s : State) (n : Nat) (f : Leaf → Leaf) : (s.modLeaf n f).receivers = s.receivers := rfl
@[simp] theorem State.modLeaf_outbox (s : State) (n : Nat) (f : Leaf → Leaf) : (s.modLeaf n f).outbox = s.outbox := rfl
@[simp] theorem State.modLeaf_linkDrops (s : State) (n : Nat) (f : Leaf → Leaf) : (s.modLeaf n f).linkDrops = s.linkDrops := rfl
@[simp] theorem State.modLeaf_linkDown (s : State) (n : Nat) (f : Leaf → Leaf) : (s.modLeaf n f).linkDown = s.linkDown := rfl
@[simp] theorem State.modLeaf_flitFix (s : State) (n : Nat) (f : Leaf → Leaf) : (s.modLeaf n f).flitFix = s.flitFix := rfl
@[simp] theorem State.modLeaf_cores (s : State) (n : Nat) (f : Leaf → Leaf) : (s.modLeaf n f).cores = s.cores := rfl
@[simp] theorem State.modLeaf_log (s : State) (n : Nat) (f : Leaf → Leaf) : (s.modLeaf n f).log = s.log := rfl
@[simp] theorem State.modLeaf_logLost (s : State) (n : Nat) (f : Leaf → Leaf) : (s.modLeaf n f).logLost = s.logLost := rfl
@[simp] theorem State.modLeaf_seqs (s : State) (n : Nat) (f : Leaf → Leaf) : (s.modLeaf n f).seqs = s.seqs := rfl
@[simp] theorem State.modLeaf_opens (s : State) (n : Nat) (f : Leaf → Leaf) : (s.modLeaf n f).opens = s.opens := rfl
@[simp] theorem State.modLeaf_host (s : State) (n : Nat) (f : Leaf → Leaf) : (s.modLeaf n f).host = s.host := rfl
@[simp] theorem State.modLeaf_irqs (s : State) (n : Nat) (f : Leaf → Leaf) : (s.modLeaf n f).irqs = s.irqs := rfl
@[simp] theorem State.modLeaf_replies (s : State) (n : Nat) (f : Leaf → Leaf) : (s.modLeaf n f).replies = s.replies := rfl
@[simp] theorem State.modLeaf_reads (s : State) (n : Nat) (f : Leaf → Leaf) : (s.modLeaf n f).reads = s.reads := rfl
@[simp] theorem State.modLeaf_bar2 (s : State) (n : Nat) (f : Leaf → Leaf) : (s.modLeaf n f).bar2 = s.bar2 := rfl
@[simp] theorem State.modLeaf_bootSt (s : State) (n : Nat) (f : Leaf → Leaf) : (s.modLeaf n f).bootSt = s.bootSt := rfl
@[simp] theorem State.modLeaf_booted (s : State) (n : Nat) (f : Leaf → Leaf) : (s.modLeaf n f).booted = s.booted := rfl
@[simp] theorem State.modLeaf_measured (s : State) (n : Nat) (f : Leaf → Leaf) : (s.modLeaf n f).measured = s.measured := rfl
@[simp] theorem State.modLeaf_attested (s : State) (n : Nat) (f : Leaf → Leaf) : (s.modLeaf n f).attested = s.attested := rfl
@[simp] theorem State.modLeaf_mapped (s : State) (n : Nat) (f : Leaf → Leaf) : (s.modLeaf n f).mapped = s.mapped := rfl
@[simp] theorem State.modLeaf_meshFix (s : State) (n : Nat) (f : Leaf → Leaf) : (s.modLeaf n f).meshFix = s.meshFix := rfl
@[simp] theorem State.modLeaf_meshBad (s : State) (n : Nat) (f : Leaf → Leaf) : (s.modLeaf n f).meshBad = s.meshBad := rfl

@[simp] theorem State.modQuire_tick (s : State) (q : Nat) (f : Quire → Quire) : (s.modQuire q f).tick = s.tick := rfl
@[simp] theorem State.modQuire_agenda (s : State) (q : Nat) (f : Quire → Quire) : (s.modQuire q f).agenda = s.agenda := rfl
@[simp] theorem State.modQuire_focus (s : State) (q : Nat) (f : Quire → Quire) : (s.modQuire q f).focus = s.focus := rfl
@[simp] theorem State.modQuire_pkg (s : State) (q : Nat) (f : Quire → Quire) : (s.modQuire q f).pkg = s.pkg := rfl
@[simp] theorem State.modQuire_nextId (s : State) (q : Nat) (f : Quire → Quire) : (s.modQuire q f).nextId = s.nextId := rfl
@[simp] theorem State.modQuire_leaves (s : State) (q : Nat) (f : Quire → Quire) : (s.modQuire q f).leaves = s.leaves := rfl
@[simp] theorem State.modQuire_folios (s : State) (q : Nat) (f : Quire → Quire) : (s.modQuire q f).folios = s.folios := rfl
@[simp] theorem State.modQuire_gaths (s : State) (q : Nat) (f : Quire → Quire) : (s.modQuire q f).gaths = s.gaths := rfl
@[simp] theorem State.modQuire_papers (s : State) (q : Nat) (f : Quire → Quire) : (s.modQuire q f).papers = s.papers := rfl
@[simp] theorem State.modQuire_hbm (s : State) (q : Nat) (f : Quire → Quire) : (s.modQuire q f).hbm = s.hbm := rfl
@[simp] theorem State.modQuire_hbmBad (s : State) (q : Nat) (f : Quire → Quire) : (s.modQuire q f).hbmBad = s.hbmBad := rfl
@[simp] theorem State.modQuire_apertures (s : State) (q : Nat) (f : Quire → Quire) : (s.modQuire q f).apertures = s.apertures := rfl
@[simp] theorem State.modQuire_tlb (s : State) (q : Nat) (f : Quire → Quire) : (s.modQuire q f).tlb = s.tlb := rfl
@[simp] theorem State.modQuire_walks (s : State) (q : Nat) (f : Quire → Quire) : (s.modQuire q f).walks = s.walks := rfl
@[simp] theorem State.modQuire_reqs (s : State) (q : Nat) (f : Quire → Quire) : (s.modQuire q f).reqs = s.reqs := rfl
@[simp] theorem State.modQuire_rereads (s : State) (q : Nat) (f : Quire → Quire) : (s.modQuire q f).rereads = s.rereads := rfl
@[simp] theorem State.modQuire_copies (s : State) (q : Nat) (f : Quire → Quire) : (s.modQuire q f).copies = s.copies := rfl
@[simp] theorem State.modQuire_ports (s : State) (q : Nat) (f : Quire → Quire) : (s.modQuire q f).ports = s.ports := rfl
@[simp] theorem State.modQuire_evicts (s : State) (q : Nat) (f : Quire → Quire) : (s.modQuire q f).evicts = s.evicts := rfl
@[simp] theorem State.modQuire_savers (s : State) (q : Nat) (f : Quire → Quire) : (s.modQuire q f).savers = s.savers := rfl
@[simp] theorem State.modQuire_evicted (s : State) (q : Nat) (f : Quire → Quire) : (s.modQuire q f).evicted = s.evicted := rfl
@[simp] theorem State.modQuire_massHeld (s : State) (q : Nat) (f : Quire → Quire) : (s.modQuire q f).massHeld = s.massHeld := rfl
@[simp] theorem State.modQuire_stray (s : State) (q : Nat) (f : Quire → Quire) : (s.modQuire q f).stray = s.stray := rfl
@[simp] theorem State.modQuire_contexts (s : State) (q : Nat) (f : Quire → Quire) : (s.modQuire q f).contexts = s.contexts := rfl
@[simp] theorem State.modQuire_insts (s : State) (q : Nat) (f : Quire → Quire) : (s.modQuire q f).insts = s.insts := rfl
@[simp] theorem State.modQuire_pool (s : State) (q : Nat) (f : Quire → Quire) : (s.modQuire q f).pool = s.pool := rfl
@[simp] theorem State.modQuire_reserve (s : State) (q : Nat) (f : Quire → Quire) : (s.modQuire q f).reserve = s.reserve := rfl
@[simp] theorem State.modQuire_lastCtx (s : State) (q : Nat) (f : Quire → Quire) : (s.modQuire q f).lastCtx = s.lastCtx := rfl
@[simp] theorem State.modQuire_parkedQ (s : State) (q : Nat) (f : Quire → Quire) : (s.modQuire q f).parkedQ = s.parkedQ := rfl
@[simp] theorem State.modQuire_drops (s : State) (q : Nat) (f : Quire → Quire) : (s.modQuire q f).drops = s.drops := rfl
@[simp] theorem State.modQuire_fwBase (s : State) (q : Nat) (f : Quire → Quire) : (s.modQuire q f).fwBase = s.fwBase := rfl
@[simp] theorem State.modQuire_fwSize (s : State) (q : Nat) (f : Quire → Quire) : (s.modQuire q f).fwSize = s.fwSize := rfl
@[simp] theorem State.modQuire_fwTail (s : State) (q : Nat) (f : Quire → Quire) : (s.modQuire q f).fwTail = s.fwTail := rfl
@[simp] theorem State.modQuire_fwHead (s : State) (q : Nat) (f : Quire → Quire) : (s.modQuire q f).fwHead = s.fwHead := rfl
@[simp] theorem State.modQuire_fwSeen (s : State) (q : Nat) (f : Quire → Quire) : (s.modQuire q f).fwSeen = s.fwSeen := rfl
@[simp] theorem State.modQuire_shadow (s : State) (q : Nat) (f : Quire → Quire) : (s.modQuire q f).shadow = s.shadow := rfl
@[simp] theorem State.modQuire_config (s : State) (q : Nat) (f : Quire → Quire) : (s.modQuire q f).config = s.config := rfl
@[simp] theorem State.modQuire_pending (s : State) (q : Nat) (f : Quire → Quire) : (s.modQuire q f).pending = s.pending := rfl
@[simp] theorem State.modQuire_badBatch (s : State) (q : Nat) (f : Quire → Quire) : (s.modQuire q f).badBatch = s.badBatch := rfl
@[simp] theorem State.modQuire_failed (s : State) (q : Nat) (f : Quire → Quire) : (s.modQuire q f).failed = s.failed := rfl
@[simp] theorem State.modQuire_hubClocks (s : State) (q : Nat) (f : Quire → Quire) : (s.modQuire q f).hubClocks = s.hubClocks := rfl
@[simp] theorem State.modQuire_misses (s : State) (q : Nat) (f : Quire → Quire) : (s.modQuire q f).misses = s.misses := rfl
@[simp] theorem State.modQuire_granted (s : State) (q : Nat) (f : Quire → Quire) : (s.modQuire q f).granted = s.granted := rfl
@[simp] theorem State.modQuire_batches (s : State) (q : Nat) (f : Quire → Quire) : (s.modQuire q f).batches = s.batches := rfl
@[simp] theorem State.modQuire_senders (s : State) (q : Nat) (f : Quire → Quire) : (s.modQuire q f).senders = s.senders := rfl
@[simp] theorem State.modQuire_receivers (s : State) (q : Nat) (f : Quire → Quire) : (s.modQuire q f).receivers = s.receivers := rfl
@[simp] theorem State.modQuire_outbox (s : State) (q : Nat) (f : Quire → Quire) : (s.modQuire q f).outbox = s.outbox := rfl
@[simp] theorem State.modQuire_linkDrops (s : State) (q : Nat) (f : Quire → Quire) : (s.modQuire q f).linkDrops = s.linkDrops := rfl
@[simp] theorem State.modQuire_linkDown (s : State) (q : Nat) (f : Quire → Quire) : (s.modQuire q f).linkDown = s.linkDown := rfl
@[simp] theorem State.modQuire_flitFix (s : State) (q : Nat) (f : Quire → Quire) : (s.modQuire q f).flitFix = s.flitFix := rfl
@[simp] theorem State.modQuire_cores (s : State) (q : Nat) (f : Quire → Quire) : (s.modQuire q f).cores = s.cores := rfl
@[simp] theorem State.modQuire_log (s : State) (q : Nat) (f : Quire → Quire) : (s.modQuire q f).log = s.log := rfl
@[simp] theorem State.modQuire_logLost (s : State) (q : Nat) (f : Quire → Quire) : (s.modQuire q f).logLost = s.logLost := rfl
@[simp] theorem State.modQuire_seqs (s : State) (q : Nat) (f : Quire → Quire) : (s.modQuire q f).seqs = s.seqs := rfl
@[simp] theorem State.modQuire_opens (s : State) (q : Nat) (f : Quire → Quire) : (s.modQuire q f).opens = s.opens := rfl
@[simp] theorem State.modQuire_host (s : State) (q : Nat) (f : Quire → Quire) : (s.modQuire q f).host = s.host := rfl
@[simp] theorem State.modQuire_irqs (s : State) (q : Nat) (f : Quire → Quire) : (s.modQuire q f).irqs = s.irqs := rfl
@[simp] theorem State.modQuire_replies (s : State) (q : Nat) (f : Quire → Quire) : (s.modQuire q f).replies = s.replies := rfl
@[simp] theorem State.modQuire_reads (s : State) (q : Nat) (f : Quire → Quire) : (s.modQuire q f).reads = s.reads := rfl
@[simp] theorem State.modQuire_bar2 (s : State) (q : Nat) (f : Quire → Quire) : (s.modQuire q f).bar2 = s.bar2 := rfl
@[simp] theorem State.modQuire_bootSt (s : State) (q : Nat) (f : Quire → Quire) : (s.modQuire q f).bootSt = s.bootSt := rfl
@[simp] theorem State.modQuire_booted (s : State) (q : Nat) (f : Quire → Quire) : (s.modQuire q f).booted = s.booted := rfl
@[simp] theorem State.modQuire_measured (s : State) (q : Nat) (f : Quire → Quire) : (s.modQuire q f).measured = s.measured := rfl
@[simp] theorem State.modQuire_attested (s : State) (q : Nat) (f : Quire → Quire) : (s.modQuire q f).attested = s.attested := rfl
@[simp] theorem State.modQuire_mapped (s : State) (q : Nat) (f : Quire → Quire) : (s.modQuire q f).mapped = s.mapped := rfl
@[simp] theorem State.modQuire_meshFix (s : State) (q : Nat) (f : Quire → Quire) : (s.modQuire q f).meshFix = s.meshFix := rfl
@[simp] theorem State.modQuire_meshBad (s : State) (q : Nat) (f : Quire → Quire) : (s.modQuire q f).meshBad = s.meshBad := rfl

@[simp] theorem State.modContext_tick (s : State) (k : Nat) (f : Context → Context) : (s.modContext k f).tick = s.tick := rfl
@[simp] theorem State.modContext_agenda (s : State) (k : Nat) (f : Context → Context) : (s.modContext k f).agenda = s.agenda := rfl
@[simp] theorem State.modContext_focus (s : State) (k : Nat) (f : Context → Context) : (s.modContext k f).focus = s.focus := rfl
@[simp] theorem State.modContext_pkg (s : State) (k : Nat) (f : Context → Context) : (s.modContext k f).pkg = s.pkg := rfl
@[simp] theorem State.modContext_nextId (s : State) (k : Nat) (f : Context → Context) : (s.modContext k f).nextId = s.nextId := rfl
@[simp] theorem State.modContext_leaves (s : State) (k : Nat) (f : Context → Context) : (s.modContext k f).leaves = s.leaves := rfl
@[simp] theorem State.modContext_quires (s : State) (k : Nat) (f : Context → Context) : (s.modContext k f).quires = s.quires := rfl
@[simp] theorem State.modContext_folios (s : State) (k : Nat) (f : Context → Context) : (s.modContext k f).folios = s.folios := rfl
@[simp] theorem State.modContext_gaths (s : State) (k : Nat) (f : Context → Context) : (s.modContext k f).gaths = s.gaths := rfl
@[simp] theorem State.modContext_papers (s : State) (k : Nat) (f : Context → Context) : (s.modContext k f).papers = s.papers := rfl
@[simp] theorem State.modContext_hbm (s : State) (k : Nat) (f : Context → Context) : (s.modContext k f).hbm = s.hbm := rfl
@[simp] theorem State.modContext_hbmBad (s : State) (k : Nat) (f : Context → Context) : (s.modContext k f).hbmBad = s.hbmBad := rfl
@[simp] theorem State.modContext_apertures (s : State) (k : Nat) (f : Context → Context) : (s.modContext k f).apertures = s.apertures := rfl
@[simp] theorem State.modContext_tlb (s : State) (k : Nat) (f : Context → Context) : (s.modContext k f).tlb = s.tlb := rfl
@[simp] theorem State.modContext_walks (s : State) (k : Nat) (f : Context → Context) : (s.modContext k f).walks = s.walks := rfl
@[simp] theorem State.modContext_reqs (s : State) (k : Nat) (f : Context → Context) : (s.modContext k f).reqs = s.reqs := rfl
@[simp] theorem State.modContext_rereads (s : State) (k : Nat) (f : Context → Context) : (s.modContext k f).rereads = s.rereads := rfl
@[simp] theorem State.modContext_copies (s : State) (k : Nat) (f : Context → Context) : (s.modContext k f).copies = s.copies := rfl
@[simp] theorem State.modContext_ports (s : State) (k : Nat) (f : Context → Context) : (s.modContext k f).ports = s.ports := rfl
@[simp] theorem State.modContext_evicts (s : State) (k : Nat) (f : Context → Context) : (s.modContext k f).evicts = s.evicts := rfl
@[simp] theorem State.modContext_savers (s : State) (k : Nat) (f : Context → Context) : (s.modContext k f).savers = s.savers := rfl
@[simp] theorem State.modContext_evicted (s : State) (k : Nat) (f : Context → Context) : (s.modContext k f).evicted = s.evicted := rfl
@[simp] theorem State.modContext_massHeld (s : State) (k : Nat) (f : Context → Context) : (s.modContext k f).massHeld = s.massHeld := rfl
@[simp] theorem State.modContext_stray (s : State) (k : Nat) (f : Context → Context) : (s.modContext k f).stray = s.stray := rfl
@[simp] theorem State.modContext_insts (s : State) (k : Nat) (f : Context → Context) : (s.modContext k f).insts = s.insts := rfl
@[simp] theorem State.modContext_pool (s : State) (k : Nat) (f : Context → Context) : (s.modContext k f).pool = s.pool := rfl
@[simp] theorem State.modContext_reserve (s : State) (k : Nat) (f : Context → Context) : (s.modContext k f).reserve = s.reserve := rfl
@[simp] theorem State.modContext_lastCtx (s : State) (k : Nat) (f : Context → Context) : (s.modContext k f).lastCtx = s.lastCtx := rfl
@[simp] theorem State.modContext_parkedQ (s : State) (k : Nat) (f : Context → Context) : (s.modContext k f).parkedQ = s.parkedQ := rfl
@[simp] theorem State.modContext_drops (s : State) (k : Nat) (f : Context → Context) : (s.modContext k f).drops = s.drops := rfl
@[simp] theorem State.modContext_fwBase (s : State) (k : Nat) (f : Context → Context) : (s.modContext k f).fwBase = s.fwBase := rfl
@[simp] theorem State.modContext_fwSize (s : State) (k : Nat) (f : Context → Context) : (s.modContext k f).fwSize = s.fwSize := rfl
@[simp] theorem State.modContext_fwTail (s : State) (k : Nat) (f : Context → Context) : (s.modContext k f).fwTail = s.fwTail := rfl
@[simp] theorem State.modContext_fwHead (s : State) (k : Nat) (f : Context → Context) : (s.modContext k f).fwHead = s.fwHead := rfl
@[simp] theorem State.modContext_fwSeen (s : State) (k : Nat) (f : Context → Context) : (s.modContext k f).fwSeen = s.fwSeen := rfl
@[simp] theorem State.modContext_shadow (s : State) (k : Nat) (f : Context → Context) : (s.modContext k f).shadow = s.shadow := rfl
@[simp] theorem State.modContext_config (s : State) (k : Nat) (f : Context → Context) : (s.modContext k f).config = s.config := rfl
@[simp] theorem State.modContext_pending (s : State) (k : Nat) (f : Context → Context) : (s.modContext k f).pending = s.pending := rfl
@[simp] theorem State.modContext_badBatch (s : State) (k : Nat) (f : Context → Context) : (s.modContext k f).badBatch = s.badBatch := rfl
@[simp] theorem State.modContext_failed (s : State) (k : Nat) (f : Context → Context) : (s.modContext k f).failed = s.failed := rfl
@[simp] theorem State.modContext_hubClocks (s : State) (k : Nat) (f : Context → Context) : (s.modContext k f).hubClocks = s.hubClocks := rfl
@[simp] theorem State.modContext_misses (s : State) (k : Nat) (f : Context → Context) : (s.modContext k f).misses = s.misses := rfl
@[simp] theorem State.modContext_granted (s : State) (k : Nat) (f : Context → Context) : (s.modContext k f).granted = s.granted := rfl
@[simp] theorem State.modContext_batches (s : State) (k : Nat) (f : Context → Context) : (s.modContext k f).batches = s.batches := rfl
@[simp] theorem State.modContext_senders (s : State) (k : Nat) (f : Context → Context) : (s.modContext k f).senders = s.senders := rfl
@[simp] theorem State.modContext_receivers (s : State) (k : Nat) (f : Context → Context) : (s.modContext k f).receivers = s.receivers := rfl
@[simp] theorem State.modContext_outbox (s : State) (k : Nat) (f : Context → Context) : (s.modContext k f).outbox = s.outbox := rfl
@[simp] theorem State.modContext_linkDrops (s : State) (k : Nat) (f : Context → Context) : (s.modContext k f).linkDrops = s.linkDrops := rfl
@[simp] theorem State.modContext_linkDown (s : State) (k : Nat) (f : Context → Context) : (s.modContext k f).linkDown = s.linkDown := rfl
@[simp] theorem State.modContext_flitFix (s : State) (k : Nat) (f : Context → Context) : (s.modContext k f).flitFix = s.flitFix := rfl
@[simp] theorem State.modContext_cores (s : State) (k : Nat) (f : Context → Context) : (s.modContext k f).cores = s.cores := rfl
@[simp] theorem State.modContext_log (s : State) (k : Nat) (f : Context → Context) : (s.modContext k f).log = s.log := rfl
@[simp] theorem State.modContext_logLost (s : State) (k : Nat) (f : Context → Context) : (s.modContext k f).logLost = s.logLost := rfl
@[simp] theorem State.modContext_seqs (s : State) (k : Nat) (f : Context → Context) : (s.modContext k f).seqs = s.seqs := rfl
@[simp] theorem State.modContext_opens (s : State) (k : Nat) (f : Context → Context) : (s.modContext k f).opens = s.opens := rfl
@[simp] theorem State.modContext_host (s : State) (k : Nat) (f : Context → Context) : (s.modContext k f).host = s.host := rfl
@[simp] theorem State.modContext_irqs (s : State) (k : Nat) (f : Context → Context) : (s.modContext k f).irqs = s.irqs := rfl
@[simp] theorem State.modContext_replies (s : State) (k : Nat) (f : Context → Context) : (s.modContext k f).replies = s.replies := rfl
@[simp] theorem State.modContext_reads (s : State) (k : Nat) (f : Context → Context) : (s.modContext k f).reads = s.reads := rfl
@[simp] theorem State.modContext_bar2 (s : State) (k : Nat) (f : Context → Context) : (s.modContext k f).bar2 = s.bar2 := rfl
@[simp] theorem State.modContext_bootSt (s : State) (k : Nat) (f : Context → Context) : (s.modContext k f).bootSt = s.bootSt := rfl
@[simp] theorem State.modContext_booted (s : State) (k : Nat) (f : Context → Context) : (s.modContext k f).booted = s.booted := rfl
@[simp] theorem State.modContext_measured (s : State) (k : Nat) (f : Context → Context) : (s.modContext k f).measured = s.measured := rfl
@[simp] theorem State.modContext_attested (s : State) (k : Nat) (f : Context → Context) : (s.modContext k f).attested = s.attested := rfl
@[simp] theorem State.modContext_mapped (s : State) (k : Nat) (f : Context → Context) : (s.modContext k f).mapped = s.mapped := rfl
@[simp] theorem State.modContext_meshFix (s : State) (k : Nat) (f : Context → Context) : (s.modContext k f).meshFix = s.meshFix := rfl
@[simp] theorem State.modContext_meshBad (s : State) (k : Nat) (f : Context → Context) : (s.modContext k f).meshBad = s.meshBad := rfl

@[simp] theorem State.modCore_tick (s : State) (k : Nat) (f : Core → Core) : (s.modCore k f).tick = s.tick := rfl
@[simp] theorem State.modCore_agenda (s : State) (k : Nat) (f : Core → Core) : (s.modCore k f).agenda = s.agenda := rfl
@[simp] theorem State.modCore_focus (s : State) (k : Nat) (f : Core → Core) : (s.modCore k f).focus = s.focus := rfl
@[simp] theorem State.modCore_pkg (s : State) (k : Nat) (f : Core → Core) : (s.modCore k f).pkg = s.pkg := rfl
@[simp] theorem State.modCore_nextId (s : State) (k : Nat) (f : Core → Core) : (s.modCore k f).nextId = s.nextId := rfl
@[simp] theorem State.modCore_leaves (s : State) (k : Nat) (f : Core → Core) : (s.modCore k f).leaves = s.leaves := rfl
@[simp] theorem State.modCore_quires (s : State) (k : Nat) (f : Core → Core) : (s.modCore k f).quires = s.quires := rfl
@[simp] theorem State.modCore_folios (s : State) (k : Nat) (f : Core → Core) : (s.modCore k f).folios = s.folios := rfl
@[simp] theorem State.modCore_gaths (s : State) (k : Nat) (f : Core → Core) : (s.modCore k f).gaths = s.gaths := rfl
@[simp] theorem State.modCore_papers (s : State) (k : Nat) (f : Core → Core) : (s.modCore k f).papers = s.papers := rfl
@[simp] theorem State.modCore_hbm (s : State) (k : Nat) (f : Core → Core) : (s.modCore k f).hbm = s.hbm := rfl
@[simp] theorem State.modCore_hbmBad (s : State) (k : Nat) (f : Core → Core) : (s.modCore k f).hbmBad = s.hbmBad := rfl
@[simp] theorem State.modCore_apertures (s : State) (k : Nat) (f : Core → Core) : (s.modCore k f).apertures = s.apertures := rfl
@[simp] theorem State.modCore_tlb (s : State) (k : Nat) (f : Core → Core) : (s.modCore k f).tlb = s.tlb := rfl
@[simp] theorem State.modCore_walks (s : State) (k : Nat) (f : Core → Core) : (s.modCore k f).walks = s.walks := rfl
@[simp] theorem State.modCore_reqs (s : State) (k : Nat) (f : Core → Core) : (s.modCore k f).reqs = s.reqs := rfl
@[simp] theorem State.modCore_rereads (s : State) (k : Nat) (f : Core → Core) : (s.modCore k f).rereads = s.rereads := rfl
@[simp] theorem State.modCore_copies (s : State) (k : Nat) (f : Core → Core) : (s.modCore k f).copies = s.copies := rfl
@[simp] theorem State.modCore_ports (s : State) (k : Nat) (f : Core → Core) : (s.modCore k f).ports = s.ports := rfl
@[simp] theorem State.modCore_evicts (s : State) (k : Nat) (f : Core → Core) : (s.modCore k f).evicts = s.evicts := rfl
@[simp] theorem State.modCore_savers (s : State) (k : Nat) (f : Core → Core) : (s.modCore k f).savers = s.savers := rfl
@[simp] theorem State.modCore_evicted (s : State) (k : Nat) (f : Core → Core) : (s.modCore k f).evicted = s.evicted := rfl
@[simp] theorem State.modCore_massHeld (s : State) (k : Nat) (f : Core → Core) : (s.modCore k f).massHeld = s.massHeld := rfl
@[simp] theorem State.modCore_stray (s : State) (k : Nat) (f : Core → Core) : (s.modCore k f).stray = s.stray := rfl
@[simp] theorem State.modCore_contexts (s : State) (k : Nat) (f : Core → Core) : (s.modCore k f).contexts = s.contexts := rfl
@[simp] theorem State.modCore_insts (s : State) (k : Nat) (f : Core → Core) : (s.modCore k f).insts = s.insts := rfl
@[simp] theorem State.modCore_pool (s : State) (k : Nat) (f : Core → Core) : (s.modCore k f).pool = s.pool := rfl
@[simp] theorem State.modCore_reserve (s : State) (k : Nat) (f : Core → Core) : (s.modCore k f).reserve = s.reserve := rfl
@[simp] theorem State.modCore_lastCtx (s : State) (k : Nat) (f : Core → Core) : (s.modCore k f).lastCtx = s.lastCtx := rfl
@[simp] theorem State.modCore_parkedQ (s : State) (k : Nat) (f : Core → Core) : (s.modCore k f).parkedQ = s.parkedQ := rfl
@[simp] theorem State.modCore_drops (s : State) (k : Nat) (f : Core → Core) : (s.modCore k f).drops = s.drops := rfl
@[simp] theorem State.modCore_fwBase (s : State) (k : Nat) (f : Core → Core) : (s.modCore k f).fwBase = s.fwBase := rfl
@[simp] theorem State.modCore_fwSize (s : State) (k : Nat) (f : Core → Core) : (s.modCore k f).fwSize = s.fwSize := rfl
@[simp] theorem State.modCore_fwTail (s : State) (k : Nat) (f : Core → Core) : (s.modCore k f).fwTail = s.fwTail := rfl
@[simp] theorem State.modCore_fwHead (s : State) (k : Nat) (f : Core → Core) : (s.modCore k f).fwHead = s.fwHead := rfl
@[simp] theorem State.modCore_fwSeen (s : State) (k : Nat) (f : Core → Core) : (s.modCore k f).fwSeen = s.fwSeen := rfl
@[simp] theorem State.modCore_shadow (s : State) (k : Nat) (f : Core → Core) : (s.modCore k f).shadow = s.shadow := rfl
@[simp] theorem State.modCore_config (s : State) (k : Nat) (f : Core → Core) : (s.modCore k f).config = s.config := rfl
@[simp] theorem State.modCore_pending (s : State) (k : Nat) (f : Core → Core) : (s.modCore k f).pending = s.pending := rfl
@[simp] theorem State.modCore_badBatch (s : State) (k : Nat) (f : Core → Core) : (s.modCore k f).badBatch = s.badBatch := rfl
@[simp] theorem State.modCore_failed (s : State) (k : Nat) (f : Core → Core) : (s.modCore k f).failed = s.failed := rfl
@[simp] theorem State.modCore_hubClocks (s : State) (k : Nat) (f : Core → Core) : (s.modCore k f).hubClocks = s.hubClocks := rfl
@[simp] theorem State.modCore_misses (s : State) (k : Nat) (f : Core → Core) : (s.modCore k f).misses = s.misses := rfl
@[simp] theorem State.modCore_granted (s : State) (k : Nat) (f : Core → Core) : (s.modCore k f).granted = s.granted := rfl
@[simp] theorem State.modCore_batches (s : State) (k : Nat) (f : Core → Core) : (s.modCore k f).batches = s.batches := rfl
@[simp] theorem State.modCore_senders (s : State) (k : Nat) (f : Core → Core) : (s.modCore k f).senders = s.senders := rfl
@[simp] theorem State.modCore_receivers (s : State) (k : Nat) (f : Core → Core) : (s.modCore k f).receivers = s.receivers := rfl
@[simp] theorem State.modCore_outbox (s : State) (k : Nat) (f : Core → Core) : (s.modCore k f).outbox = s.outbox := rfl
@[simp] theorem State.modCore_linkDrops (s : State) (k : Nat) (f : Core → Core) : (s.modCore k f).linkDrops = s.linkDrops := rfl
@[simp] theorem State.modCore_linkDown (s : State) (k : Nat) (f : Core → Core) : (s.modCore k f).linkDown = s.linkDown := rfl
@[simp] theorem State.modCore_flitFix (s : State) (k : Nat) (f : Core → Core) : (s.modCore k f).flitFix = s.flitFix := rfl
@[simp] theorem State.modCore_log (s : State) (k : Nat) (f : Core → Core) : (s.modCore k f).log = s.log := rfl
@[simp] theorem State.modCore_logLost (s : State) (k : Nat) (f : Core → Core) : (s.modCore k f).logLost = s.logLost := rfl
@[simp] theorem State.modCore_seqs (s : State) (k : Nat) (f : Core → Core) : (s.modCore k f).seqs = s.seqs := rfl
@[simp] theorem State.modCore_opens (s : State) (k : Nat) (f : Core → Core) : (s.modCore k f).opens = s.opens := rfl
@[simp] theorem State.modCore_host (s : State) (k : Nat) (f : Core → Core) : (s.modCore k f).host = s.host := rfl
@[simp] theorem State.modCore_irqs (s : State) (k : Nat) (f : Core → Core) : (s.modCore k f).irqs = s.irqs := rfl
@[simp] theorem State.modCore_replies (s : State) (k : Nat) (f : Core → Core) : (s.modCore k f).replies = s.replies := rfl
@[simp] theorem State.modCore_reads (s : State) (k : Nat) (f : Core → Core) : (s.modCore k f).reads = s.reads := rfl
@[simp] theorem State.modCore_bar2 (s : State) (k : Nat) (f : Core → Core) : (s.modCore k f).bar2 = s.bar2 := rfl
@[simp] theorem State.modCore_bootSt (s : State) (k : Nat) (f : Core → Core) : (s.modCore k f).bootSt = s.bootSt := rfl
@[simp] theorem State.modCore_booted (s : State) (k : Nat) (f : Core → Core) : (s.modCore k f).booted = s.booted := rfl
@[simp] theorem State.modCore_measured (s : State) (k : Nat) (f : Core → Core) : (s.modCore k f).measured = s.measured := rfl
@[simp] theorem State.modCore_attested (s : State) (k : Nat) (f : Core → Core) : (s.modCore k f).attested = s.attested := rfl
@[simp] theorem State.modCore_mapped (s : State) (k : Nat) (f : Core → Core) : (s.modCore k f).mapped = s.mapped := rfl
@[simp] theorem State.modCore_meshFix (s : State) (k : Nat) (f : Core → Core) : (s.modCore k f).meshFix = s.meshFix := rfl
@[simp] theorem State.modCore_meshBad (s : State) (k : Nat) (f : Core → Core) : (s.modCore k f).meshBad = s.meshBad := rfl

@[simp] theorem State.modGath_tick (s : State) (g : Nat) (f : Gathering → Gathering) : (s.modGath g f).tick = s.tick := by unfold State.modGath; split <;> rfl
@[simp] theorem State.modGath_agenda (s : State) (g : Nat) (f : Gathering → Gathering) : (s.modGath g f).agenda = s.agenda := by unfold State.modGath; split <;> rfl
@[simp] theorem State.modGath_focus (s : State) (g : Nat) (f : Gathering → Gathering) : (s.modGath g f).focus = s.focus := by unfold State.modGath; split <;> rfl
@[simp] theorem State.modGath_pkg (s : State) (g : Nat) (f : Gathering → Gathering) : (s.modGath g f).pkg = s.pkg := by unfold State.modGath; split <;> rfl
@[simp] theorem State.modGath_nextId (s : State) (g : Nat) (f : Gathering → Gathering) : (s.modGath g f).nextId = s.nextId := by unfold State.modGath; split <;> rfl
@[simp] theorem State.modGath_leaves (s : State) (g : Nat) (f : Gathering → Gathering) : (s.modGath g f).leaves = s.leaves := by unfold State.modGath; split <;> rfl
@[simp] theorem State.modGath_quires (s : State) (g : Nat) (f : Gathering → Gathering) : (s.modGath g f).quires = s.quires := by unfold State.modGath; split <;> rfl
@[simp] theorem State.modGath_folios (s : State) (g : Nat) (f : Gathering → Gathering) : (s.modGath g f).folios = s.folios := by unfold State.modGath; split <;> rfl
@[simp] theorem State.modGath_papers (s : State) (g : Nat) (f : Gathering → Gathering) : (s.modGath g f).papers = s.papers := by unfold State.modGath; split <;> rfl
@[simp] theorem State.modGath_hbm (s : State) (g : Nat) (f : Gathering → Gathering) : (s.modGath g f).hbm = s.hbm := by unfold State.modGath; split <;> rfl
@[simp] theorem State.modGath_hbmBad (s : State) (g : Nat) (f : Gathering → Gathering) : (s.modGath g f).hbmBad = s.hbmBad := by unfold State.modGath; split <;> rfl
@[simp] theorem State.modGath_apertures (s : State) (g : Nat) (f : Gathering → Gathering) : (s.modGath g f).apertures = s.apertures := by unfold State.modGath; split <;> rfl
@[simp] theorem State.modGath_tlb (s : State) (g : Nat) (f : Gathering → Gathering) : (s.modGath g f).tlb = s.tlb := by unfold State.modGath; split <;> rfl
@[simp] theorem State.modGath_walks (s : State) (g : Nat) (f : Gathering → Gathering) : (s.modGath g f).walks = s.walks := by unfold State.modGath; split <;> rfl
@[simp] theorem State.modGath_reqs (s : State) (g : Nat) (f : Gathering → Gathering) : (s.modGath g f).reqs = s.reqs := by unfold State.modGath; split <;> rfl
@[simp] theorem State.modGath_rereads (s : State) (g : Nat) (f : Gathering → Gathering) : (s.modGath g f).rereads = s.rereads := by unfold State.modGath; split <;> rfl
@[simp] theorem State.modGath_copies (s : State) (g : Nat) (f : Gathering → Gathering) : (s.modGath g f).copies = s.copies := by unfold State.modGath; split <;> rfl
@[simp] theorem State.modGath_ports (s : State) (g : Nat) (f : Gathering → Gathering) : (s.modGath g f).ports = s.ports := by unfold State.modGath; split <;> rfl
@[simp] theorem State.modGath_evicts (s : State) (g : Nat) (f : Gathering → Gathering) : (s.modGath g f).evicts = s.evicts := by unfold State.modGath; split <;> rfl
@[simp] theorem State.modGath_savers (s : State) (g : Nat) (f : Gathering → Gathering) : (s.modGath g f).savers = s.savers := by unfold State.modGath; split <;> rfl
@[simp] theorem State.modGath_evicted (s : State) (g : Nat) (f : Gathering → Gathering) : (s.modGath g f).evicted = s.evicted := by unfold State.modGath; split <;> rfl
@[simp] theorem State.modGath_massHeld (s : State) (g : Nat) (f : Gathering → Gathering) : (s.modGath g f).massHeld = s.massHeld := by unfold State.modGath; split <;> rfl
@[simp] theorem State.modGath_stray (s : State) (g : Nat) (f : Gathering → Gathering) : (s.modGath g f).stray = s.stray := by unfold State.modGath; split <;> rfl
@[simp] theorem State.modGath_contexts (s : State) (g : Nat) (f : Gathering → Gathering) : (s.modGath g f).contexts = s.contexts := by unfold State.modGath; split <;> rfl
@[simp] theorem State.modGath_insts (s : State) (g : Nat) (f : Gathering → Gathering) : (s.modGath g f).insts = s.insts := by unfold State.modGath; split <;> rfl
@[simp] theorem State.modGath_pool (s : State) (g : Nat) (f : Gathering → Gathering) : (s.modGath g f).pool = s.pool := by unfold State.modGath; split <;> rfl
@[simp] theorem State.modGath_reserve (s : State) (g : Nat) (f : Gathering → Gathering) : (s.modGath g f).reserve = s.reserve := by unfold State.modGath; split <;> rfl
@[simp] theorem State.modGath_lastCtx (s : State) (g : Nat) (f : Gathering → Gathering) : (s.modGath g f).lastCtx = s.lastCtx := by unfold State.modGath; split <;> rfl
@[simp] theorem State.modGath_parkedQ (s : State) (g : Nat) (f : Gathering → Gathering) : (s.modGath g f).parkedQ = s.parkedQ := by unfold State.modGath; split <;> rfl
@[simp] theorem State.modGath_drops (s : State) (g : Nat) (f : Gathering → Gathering) : (s.modGath g f).drops = s.drops := by unfold State.modGath; split <;> rfl
@[simp] theorem State.modGath_fwBase (s : State) (g : Nat) (f : Gathering → Gathering) : (s.modGath g f).fwBase = s.fwBase := by unfold State.modGath; split <;> rfl
@[simp] theorem State.modGath_fwSize (s : State) (g : Nat) (f : Gathering → Gathering) : (s.modGath g f).fwSize = s.fwSize := by unfold State.modGath; split <;> rfl
@[simp] theorem State.modGath_fwTail (s : State) (g : Nat) (f : Gathering → Gathering) : (s.modGath g f).fwTail = s.fwTail := by unfold State.modGath; split <;> rfl
@[simp] theorem State.modGath_fwHead (s : State) (g : Nat) (f : Gathering → Gathering) : (s.modGath g f).fwHead = s.fwHead := by unfold State.modGath; split <;> rfl
@[simp] theorem State.modGath_fwSeen (s : State) (g : Nat) (f : Gathering → Gathering) : (s.modGath g f).fwSeen = s.fwSeen := by unfold State.modGath; split <;> rfl
@[simp] theorem State.modGath_shadow (s : State) (g : Nat) (f : Gathering → Gathering) : (s.modGath g f).shadow = s.shadow := by unfold State.modGath; split <;> rfl
@[simp] theorem State.modGath_config (s : State) (g : Nat) (f : Gathering → Gathering) : (s.modGath g f).config = s.config := by unfold State.modGath; split <;> rfl
@[simp] theorem State.modGath_pending (s : State) (g : Nat) (f : Gathering → Gathering) : (s.modGath g f).pending = s.pending := by unfold State.modGath; split <;> rfl
@[simp] theorem State.modGath_badBatch (s : State) (g : Nat) (f : Gathering → Gathering) : (s.modGath g f).badBatch = s.badBatch := by unfold State.modGath; split <;> rfl
@[simp] theorem State.modGath_failed (s : State) (g : Nat) (f : Gathering → Gathering) : (s.modGath g f).failed = s.failed := by unfold State.modGath; split <;> rfl
@[simp] theorem State.modGath_hubClocks (s : State) (g : Nat) (f : Gathering → Gathering) : (s.modGath g f).hubClocks = s.hubClocks := by unfold State.modGath; split <;> rfl
@[simp] theorem State.modGath_misses (s : State) (g : Nat) (f : Gathering → Gathering) : (s.modGath g f).misses = s.misses := by unfold State.modGath; split <;> rfl
@[simp] theorem State.modGath_granted (s : State) (g : Nat) (f : Gathering → Gathering) : (s.modGath g f).granted = s.granted := by unfold State.modGath; split <;> rfl
@[simp] theorem State.modGath_batches (s : State) (g : Nat) (f : Gathering → Gathering) : (s.modGath g f).batches = s.batches := by unfold State.modGath; split <;> rfl
@[simp] theorem State.modGath_senders (s : State) (g : Nat) (f : Gathering → Gathering) : (s.modGath g f).senders = s.senders := by unfold State.modGath; split <;> rfl
@[simp] theorem State.modGath_receivers (s : State) (g : Nat) (f : Gathering → Gathering) : (s.modGath g f).receivers = s.receivers := by unfold State.modGath; split <;> rfl
@[simp] theorem State.modGath_outbox (s : State) (g : Nat) (f : Gathering → Gathering) : (s.modGath g f).outbox = s.outbox := by unfold State.modGath; split <;> rfl
@[simp] theorem State.modGath_linkDrops (s : State) (g : Nat) (f : Gathering → Gathering) : (s.modGath g f).linkDrops = s.linkDrops := by unfold State.modGath; split <;> rfl
@[simp] theorem State.modGath_linkDown (s : State) (g : Nat) (f : Gathering → Gathering) : (s.modGath g f).linkDown = s.linkDown := by unfold State.modGath; split <;> rfl
@[simp] theorem State.modGath_flitFix (s : State) (g : Nat) (f : Gathering → Gathering) : (s.modGath g f).flitFix = s.flitFix := by unfold State.modGath; split <;> rfl
@[simp] theorem State.modGath_cores (s : State) (g : Nat) (f : Gathering → Gathering) : (s.modGath g f).cores = s.cores := by unfold State.modGath; split <;> rfl
@[simp] theorem State.modGath_log (s : State) (g : Nat) (f : Gathering → Gathering) : (s.modGath g f).log = s.log := by unfold State.modGath; split <;> rfl
@[simp] theorem State.modGath_logLost (s : State) (g : Nat) (f : Gathering → Gathering) : (s.modGath g f).logLost = s.logLost := by unfold State.modGath; split <;> rfl
@[simp] theorem State.modGath_seqs (s : State) (g : Nat) (f : Gathering → Gathering) : (s.modGath g f).seqs = s.seqs := by unfold State.modGath; split <;> rfl
@[simp] theorem State.modGath_opens (s : State) (g : Nat) (f : Gathering → Gathering) : (s.modGath g f).opens = s.opens := by unfold State.modGath; split <;> rfl
@[simp] theorem State.modGath_host (s : State) (g : Nat) (f : Gathering → Gathering) : (s.modGath g f).host = s.host := by unfold State.modGath; split <;> rfl
@[simp] theorem State.modGath_irqs (s : State) (g : Nat) (f : Gathering → Gathering) : (s.modGath g f).irqs = s.irqs := by unfold State.modGath; split <;> rfl
@[simp] theorem State.modGath_replies (s : State) (g : Nat) (f : Gathering → Gathering) : (s.modGath g f).replies = s.replies := by unfold State.modGath; split <;> rfl
@[simp] theorem State.modGath_reads (s : State) (g : Nat) (f : Gathering → Gathering) : (s.modGath g f).reads = s.reads := by unfold State.modGath; split <;> rfl
@[simp] theorem State.modGath_bar2 (s : State) (g : Nat) (f : Gathering → Gathering) : (s.modGath g f).bar2 = s.bar2 := by unfold State.modGath; split <;> rfl
@[simp] theorem State.modGath_bootSt (s : State) (g : Nat) (f : Gathering → Gathering) : (s.modGath g f).bootSt = s.bootSt := by unfold State.modGath; split <;> rfl
@[simp] theorem State.modGath_booted (s : State) (g : Nat) (f : Gathering → Gathering) : (s.modGath g f).booted = s.booted := by unfold State.modGath; split <;> rfl
@[simp] theorem State.modGath_measured (s : State) (g : Nat) (f : Gathering → Gathering) : (s.modGath g f).measured = s.measured := by unfold State.modGath; split <;> rfl
@[simp] theorem State.modGath_attested (s : State) (g : Nat) (f : Gathering → Gathering) : (s.modGath g f).attested = s.attested := by unfold State.modGath; split <;> rfl
@[simp] theorem State.modGath_mapped (s : State) (g : Nat) (f : Gathering → Gathering) : (s.modGath g f).mapped = s.mapped := by unfold State.modGath; split <;> rfl
@[simp] theorem State.modGath_meshFix (s : State) (g : Nat) (f : Gathering → Gathering) : (s.modGath g f).meshFix = s.meshFix := by unfold State.modGath; split <;> rfl
@[simp] theorem State.modGath_meshBad (s : State) (g : Nat) (f : Gathering → Gathering) : (s.modGath g f).meshBad = s.meshBad := by unfold State.modGath; split <;> rfl

@[simp] theorem State.modStrand_tick (s : State) (c : CoreId) (f : Strand → Strand) : (s.modStrand c f).tick = s.tick := by cases c <;> rfl
@[simp] theorem State.modStrand_agenda (s : State) (c : CoreId) (f : Strand → Strand) : (s.modStrand c f).agenda = s.agenda := by cases c <;> rfl
@[simp] theorem State.modStrand_focus (s : State) (c : CoreId) (f : Strand → Strand) : (s.modStrand c f).focus = s.focus := by cases c <;> rfl
@[simp] theorem State.modStrand_pkg (s : State) (c : CoreId) (f : Strand → Strand) : (s.modStrand c f).pkg = s.pkg := by cases c <;> rfl
@[simp] theorem State.modStrand_nextId (s : State) (c : CoreId) (f : Strand → Strand) : (s.modStrand c f).nextId = s.nextId := by cases c <;> rfl
@[simp] theorem State.modStrand_quires (s : State) (c : CoreId) (f : Strand → Strand) : (s.modStrand c f).quires = s.quires := by cases c <;> rfl
@[simp] theorem State.modStrand_folios (s : State) (c : CoreId) (f : Strand → Strand) : (s.modStrand c f).folios = s.folios := by cases c <;> rfl
@[simp] theorem State.modStrand_gaths (s : State) (c : CoreId) (f : Strand → Strand) : (s.modStrand c f).gaths = s.gaths := by cases c <;> rfl
@[simp] theorem State.modStrand_papers (s : State) (c : CoreId) (f : Strand → Strand) : (s.modStrand c f).papers = s.papers := by cases c <;> rfl
@[simp] theorem State.modStrand_hbm (s : State) (c : CoreId) (f : Strand → Strand) : (s.modStrand c f).hbm = s.hbm := by cases c <;> rfl
@[simp] theorem State.modStrand_hbmBad (s : State) (c : CoreId) (f : Strand → Strand) : (s.modStrand c f).hbmBad = s.hbmBad := by cases c <;> rfl
@[simp] theorem State.modStrand_apertures (s : State) (c : CoreId) (f : Strand → Strand) : (s.modStrand c f).apertures = s.apertures := by cases c <;> rfl
@[simp] theorem State.modStrand_tlb (s : State) (c : CoreId) (f : Strand → Strand) : (s.modStrand c f).tlb = s.tlb := by cases c <;> rfl
@[simp] theorem State.modStrand_walks (s : State) (c : CoreId) (f : Strand → Strand) : (s.modStrand c f).walks = s.walks := by cases c <;> rfl
@[simp] theorem State.modStrand_reqs (s : State) (c : CoreId) (f : Strand → Strand) : (s.modStrand c f).reqs = s.reqs := by cases c <;> rfl
@[simp] theorem State.modStrand_rereads (s : State) (c : CoreId) (f : Strand → Strand) : (s.modStrand c f).rereads = s.rereads := by cases c <;> rfl
@[simp] theorem State.modStrand_copies (s : State) (c : CoreId) (f : Strand → Strand) : (s.modStrand c f).copies = s.copies := by cases c <;> rfl
@[simp] theorem State.modStrand_ports (s : State) (c : CoreId) (f : Strand → Strand) : (s.modStrand c f).ports = s.ports := by cases c <;> rfl
@[simp] theorem State.modStrand_evicts (s : State) (c : CoreId) (f : Strand → Strand) : (s.modStrand c f).evicts = s.evicts := by cases c <;> rfl
@[simp] theorem State.modStrand_savers (s : State) (c : CoreId) (f : Strand → Strand) : (s.modStrand c f).savers = s.savers := by cases c <;> rfl
@[simp] theorem State.modStrand_evicted (s : State) (c : CoreId) (f : Strand → Strand) : (s.modStrand c f).evicted = s.evicted := by cases c <;> rfl
@[simp] theorem State.modStrand_massHeld (s : State) (c : CoreId) (f : Strand → Strand) : (s.modStrand c f).massHeld = s.massHeld := by cases c <;> rfl
@[simp] theorem State.modStrand_stray (s : State) (c : CoreId) (f : Strand → Strand) : (s.modStrand c f).stray = s.stray := by cases c <;> rfl
@[simp] theorem State.modStrand_contexts (s : State) (c : CoreId) (f : Strand → Strand) : (s.modStrand c f).contexts = s.contexts := by cases c <;> rfl
@[simp] theorem State.modStrand_insts (s : State) (c : CoreId) (f : Strand → Strand) : (s.modStrand c f).insts = s.insts := by cases c <;> rfl
@[simp] theorem State.modStrand_pool (s : State) (c : CoreId) (f : Strand → Strand) : (s.modStrand c f).pool = s.pool := by cases c <;> rfl
@[simp] theorem State.modStrand_reserve (s : State) (c : CoreId) (f : Strand → Strand) : (s.modStrand c f).reserve = s.reserve := by cases c <;> rfl
@[simp] theorem State.modStrand_lastCtx (s : State) (c : CoreId) (f : Strand → Strand) : (s.modStrand c f).lastCtx = s.lastCtx := by cases c <;> rfl
@[simp] theorem State.modStrand_parkedQ (s : State) (c : CoreId) (f : Strand → Strand) : (s.modStrand c f).parkedQ = s.parkedQ := by cases c <;> rfl
@[simp] theorem State.modStrand_drops (s : State) (c : CoreId) (f : Strand → Strand) : (s.modStrand c f).drops = s.drops := by cases c <;> rfl
@[simp] theorem State.modStrand_fwBase (s : State) (c : CoreId) (f : Strand → Strand) : (s.modStrand c f).fwBase = s.fwBase := by cases c <;> rfl
@[simp] theorem State.modStrand_fwSize (s : State) (c : CoreId) (f : Strand → Strand) : (s.modStrand c f).fwSize = s.fwSize := by cases c <;> rfl
@[simp] theorem State.modStrand_fwTail (s : State) (c : CoreId) (f : Strand → Strand) : (s.modStrand c f).fwTail = s.fwTail := by cases c <;> rfl
@[simp] theorem State.modStrand_fwHead (s : State) (c : CoreId) (f : Strand → Strand) : (s.modStrand c f).fwHead = s.fwHead := by cases c <;> rfl
@[simp] theorem State.modStrand_fwSeen (s : State) (c : CoreId) (f : Strand → Strand) : (s.modStrand c f).fwSeen = s.fwSeen := by cases c <;> rfl
@[simp] theorem State.modStrand_shadow (s : State) (c : CoreId) (f : Strand → Strand) : (s.modStrand c f).shadow = s.shadow := by cases c <;> rfl
@[simp] theorem State.modStrand_config (s : State) (c : CoreId) (f : Strand → Strand) : (s.modStrand c f).config = s.config := by cases c <;> rfl
@[simp] theorem State.modStrand_pending (s : State) (c : CoreId) (f : Strand → Strand) : (s.modStrand c f).pending = s.pending := by cases c <;> rfl
@[simp] theorem State.modStrand_badBatch (s : State) (c : CoreId) (f : Strand → Strand) : (s.modStrand c f).badBatch = s.badBatch := by cases c <;> rfl
@[simp] theorem State.modStrand_failed (s : State) (c : CoreId) (f : Strand → Strand) : (s.modStrand c f).failed = s.failed := by cases c <;> rfl
@[simp] theorem State.modStrand_hubClocks (s : State) (c : CoreId) (f : Strand → Strand) : (s.modStrand c f).hubClocks = s.hubClocks := by cases c <;> rfl
@[simp] theorem State.modStrand_misses (s : State) (c : CoreId) (f : Strand → Strand) : (s.modStrand c f).misses = s.misses := by cases c <;> rfl
@[simp] theorem State.modStrand_granted (s : State) (c : CoreId) (f : Strand → Strand) : (s.modStrand c f).granted = s.granted := by cases c <;> rfl
@[simp] theorem State.modStrand_batches (s : State) (c : CoreId) (f : Strand → Strand) : (s.modStrand c f).batches = s.batches := by cases c <;> rfl
@[simp] theorem State.modStrand_senders (s : State) (c : CoreId) (f : Strand → Strand) : (s.modStrand c f).senders = s.senders := by cases c <;> rfl
@[simp] theorem State.modStrand_receivers (s : State) (c : CoreId) (f : Strand → Strand) : (s.modStrand c f).receivers = s.receivers := by cases c <;> rfl
@[simp] theorem State.modStrand_outbox (s : State) (c : CoreId) (f : Strand → Strand) : (s.modStrand c f).outbox = s.outbox := by cases c <;> rfl
@[simp] theorem State.modStrand_linkDrops (s : State) (c : CoreId) (f : Strand → Strand) : (s.modStrand c f).linkDrops = s.linkDrops := by cases c <;> rfl
@[simp] theorem State.modStrand_linkDown (s : State) (c : CoreId) (f : Strand → Strand) : (s.modStrand c f).linkDown = s.linkDown := by cases c <;> rfl
@[simp] theorem State.modStrand_flitFix (s : State) (c : CoreId) (f : Strand → Strand) : (s.modStrand c f).flitFix = s.flitFix := by cases c <;> rfl
@[simp] theorem State.modStrand_log (s : State) (c : CoreId) (f : Strand → Strand) : (s.modStrand c f).log = s.log := by cases c <;> rfl
@[simp] theorem State.modStrand_logLost (s : State) (c : CoreId) (f : Strand → Strand) : (s.modStrand c f).logLost = s.logLost := by cases c <;> rfl
@[simp] theorem State.modStrand_seqs (s : State) (c : CoreId) (f : Strand → Strand) : (s.modStrand c f).seqs = s.seqs := by cases c <;> rfl
@[simp] theorem State.modStrand_opens (s : State) (c : CoreId) (f : Strand → Strand) : (s.modStrand c f).opens = s.opens := by cases c <;> rfl
@[simp] theorem State.modStrand_host (s : State) (c : CoreId) (f : Strand → Strand) : (s.modStrand c f).host = s.host := by cases c <;> rfl
@[simp] theorem State.modStrand_irqs (s : State) (c : CoreId) (f : Strand → Strand) : (s.modStrand c f).irqs = s.irqs := by cases c <;> rfl
@[simp] theorem State.modStrand_replies (s : State) (c : CoreId) (f : Strand → Strand) : (s.modStrand c f).replies = s.replies := by cases c <;> rfl
@[simp] theorem State.modStrand_reads (s : State) (c : CoreId) (f : Strand → Strand) : (s.modStrand c f).reads = s.reads := by cases c <;> rfl
@[simp] theorem State.modStrand_bar2 (s : State) (c : CoreId) (f : Strand → Strand) : (s.modStrand c f).bar2 = s.bar2 := by cases c <;> rfl
@[simp] theorem State.modStrand_bootSt (s : State) (c : CoreId) (f : Strand → Strand) : (s.modStrand c f).bootSt = s.bootSt := by cases c <;> rfl
@[simp] theorem State.modStrand_booted (s : State) (c : CoreId) (f : Strand → Strand) : (s.modStrand c f).booted = s.booted := by cases c <;> rfl
@[simp] theorem State.modStrand_measured (s : State) (c : CoreId) (f : Strand → Strand) : (s.modStrand c f).measured = s.measured := by cases c <;> rfl
@[simp] theorem State.modStrand_attested (s : State) (c : CoreId) (f : Strand → Strand) : (s.modStrand c f).attested = s.attested := by cases c <;> rfl
@[simp] theorem State.modStrand_mapped (s : State) (c : CoreId) (f : Strand → Strand) : (s.modStrand c f).mapped = s.mapped := by cases c <;> rfl
@[simp] theorem State.modStrand_meshFix (s : State) (c : CoreId) (f : Strand → Strand) : (s.modStrand c f).meshFix = s.meshFix := by cases c <;> rfl
@[simp] theorem State.modStrand_meshBad (s : State) (c : CoreId) (f : Strand → Strand) : (s.modStrand c f).meshBad = s.meshBad := by cases c <;> rfl

@[simp] theorem State.modBlock_tick (s : State) (c : CoreId) (f : Block → Block) : (s.modBlock c f).tick = s.tick := by cases c <;> rfl
@[simp] theorem State.modBlock_agenda (s : State) (c : CoreId) (f : Block → Block) : (s.modBlock c f).agenda = s.agenda := by cases c <;> rfl
@[simp] theorem State.modBlock_focus (s : State) (c : CoreId) (f : Block → Block) : (s.modBlock c f).focus = s.focus := by cases c <;> rfl
@[simp] theorem State.modBlock_pkg (s : State) (c : CoreId) (f : Block → Block) : (s.modBlock c f).pkg = s.pkg := by cases c <;> rfl
@[simp] theorem State.modBlock_nextId (s : State) (c : CoreId) (f : Block → Block) : (s.modBlock c f).nextId = s.nextId := by cases c <;> rfl
@[simp] theorem State.modBlock_quires (s : State) (c : CoreId) (f : Block → Block) : (s.modBlock c f).quires = s.quires := by cases c <;> rfl
@[simp] theorem State.modBlock_folios (s : State) (c : CoreId) (f : Block → Block) : (s.modBlock c f).folios = s.folios := by cases c <;> rfl
@[simp] theorem State.modBlock_gaths (s : State) (c : CoreId) (f : Block → Block) : (s.modBlock c f).gaths = s.gaths := by cases c <;> rfl
@[simp] theorem State.modBlock_papers (s : State) (c : CoreId) (f : Block → Block) : (s.modBlock c f).papers = s.papers := by cases c <;> rfl
@[simp] theorem State.modBlock_hbm (s : State) (c : CoreId) (f : Block → Block) : (s.modBlock c f).hbm = s.hbm := by cases c <;> rfl
@[simp] theorem State.modBlock_hbmBad (s : State) (c : CoreId) (f : Block → Block) : (s.modBlock c f).hbmBad = s.hbmBad := by cases c <;> rfl
@[simp] theorem State.modBlock_apertures (s : State) (c : CoreId) (f : Block → Block) : (s.modBlock c f).apertures = s.apertures := by cases c <;> rfl
@[simp] theorem State.modBlock_tlb (s : State) (c : CoreId) (f : Block → Block) : (s.modBlock c f).tlb = s.tlb := by cases c <;> rfl
@[simp] theorem State.modBlock_walks (s : State) (c : CoreId) (f : Block → Block) : (s.modBlock c f).walks = s.walks := by cases c <;> rfl
@[simp] theorem State.modBlock_reqs (s : State) (c : CoreId) (f : Block → Block) : (s.modBlock c f).reqs = s.reqs := by cases c <;> rfl
@[simp] theorem State.modBlock_rereads (s : State) (c : CoreId) (f : Block → Block) : (s.modBlock c f).rereads = s.rereads := by cases c <;> rfl
@[simp] theorem State.modBlock_copies (s : State) (c : CoreId) (f : Block → Block) : (s.modBlock c f).copies = s.copies := by cases c <;> rfl
@[simp] theorem State.modBlock_ports (s : State) (c : CoreId) (f : Block → Block) : (s.modBlock c f).ports = s.ports := by cases c <;> rfl
@[simp] theorem State.modBlock_evicts (s : State) (c : CoreId) (f : Block → Block) : (s.modBlock c f).evicts = s.evicts := by cases c <;> rfl
@[simp] theorem State.modBlock_savers (s : State) (c : CoreId) (f : Block → Block) : (s.modBlock c f).savers = s.savers := by cases c <;> rfl
@[simp] theorem State.modBlock_evicted (s : State) (c : CoreId) (f : Block → Block) : (s.modBlock c f).evicted = s.evicted := by cases c <;> rfl
@[simp] theorem State.modBlock_massHeld (s : State) (c : CoreId) (f : Block → Block) : (s.modBlock c f).massHeld = s.massHeld := by cases c <;> rfl
@[simp] theorem State.modBlock_stray (s : State) (c : CoreId) (f : Block → Block) : (s.modBlock c f).stray = s.stray := by cases c <;> rfl
@[simp] theorem State.modBlock_contexts (s : State) (c : CoreId) (f : Block → Block) : (s.modBlock c f).contexts = s.contexts := by cases c <;> rfl
@[simp] theorem State.modBlock_insts (s : State) (c : CoreId) (f : Block → Block) : (s.modBlock c f).insts = s.insts := by cases c <;> rfl
@[simp] theorem State.modBlock_pool (s : State) (c : CoreId) (f : Block → Block) : (s.modBlock c f).pool = s.pool := by cases c <;> rfl
@[simp] theorem State.modBlock_reserve (s : State) (c : CoreId) (f : Block → Block) : (s.modBlock c f).reserve = s.reserve := by cases c <;> rfl
@[simp] theorem State.modBlock_lastCtx (s : State) (c : CoreId) (f : Block → Block) : (s.modBlock c f).lastCtx = s.lastCtx := by cases c <;> rfl
@[simp] theorem State.modBlock_parkedQ (s : State) (c : CoreId) (f : Block → Block) : (s.modBlock c f).parkedQ = s.parkedQ := by cases c <;> rfl
@[simp] theorem State.modBlock_drops (s : State) (c : CoreId) (f : Block → Block) : (s.modBlock c f).drops = s.drops := by cases c <;> rfl
@[simp] theorem State.modBlock_fwBase (s : State) (c : CoreId) (f : Block → Block) : (s.modBlock c f).fwBase = s.fwBase := by cases c <;> rfl
@[simp] theorem State.modBlock_fwSize (s : State) (c : CoreId) (f : Block → Block) : (s.modBlock c f).fwSize = s.fwSize := by cases c <;> rfl
@[simp] theorem State.modBlock_fwTail (s : State) (c : CoreId) (f : Block → Block) : (s.modBlock c f).fwTail = s.fwTail := by cases c <;> rfl
@[simp] theorem State.modBlock_fwHead (s : State) (c : CoreId) (f : Block → Block) : (s.modBlock c f).fwHead = s.fwHead := by cases c <;> rfl
@[simp] theorem State.modBlock_fwSeen (s : State) (c : CoreId) (f : Block → Block) : (s.modBlock c f).fwSeen = s.fwSeen := by cases c <;> rfl
@[simp] theorem State.modBlock_shadow (s : State) (c : CoreId) (f : Block → Block) : (s.modBlock c f).shadow = s.shadow := by cases c <;> rfl
@[simp] theorem State.modBlock_config (s : State) (c : CoreId) (f : Block → Block) : (s.modBlock c f).config = s.config := by cases c <;> rfl
@[simp] theorem State.modBlock_pending (s : State) (c : CoreId) (f : Block → Block) : (s.modBlock c f).pending = s.pending := by cases c <;> rfl
@[simp] theorem State.modBlock_badBatch (s : State) (c : CoreId) (f : Block → Block) : (s.modBlock c f).badBatch = s.badBatch := by cases c <;> rfl
@[simp] theorem State.modBlock_failed (s : State) (c : CoreId) (f : Block → Block) : (s.modBlock c f).failed = s.failed := by cases c <;> rfl
@[simp] theorem State.modBlock_hubClocks (s : State) (c : CoreId) (f : Block → Block) : (s.modBlock c f).hubClocks = s.hubClocks := by cases c <;> rfl
@[simp] theorem State.modBlock_misses (s : State) (c : CoreId) (f : Block → Block) : (s.modBlock c f).misses = s.misses := by cases c <;> rfl
@[simp] theorem State.modBlock_granted (s : State) (c : CoreId) (f : Block → Block) : (s.modBlock c f).granted = s.granted := by cases c <;> rfl
@[simp] theorem State.modBlock_batches (s : State) (c : CoreId) (f : Block → Block) : (s.modBlock c f).batches = s.batches := by cases c <;> rfl
@[simp] theorem State.modBlock_senders (s : State) (c : CoreId) (f : Block → Block) : (s.modBlock c f).senders = s.senders := by cases c <;> rfl
@[simp] theorem State.modBlock_receivers (s : State) (c : CoreId) (f : Block → Block) : (s.modBlock c f).receivers = s.receivers := by cases c <;> rfl
@[simp] theorem State.modBlock_outbox (s : State) (c : CoreId) (f : Block → Block) : (s.modBlock c f).outbox = s.outbox := by cases c <;> rfl
@[simp] theorem State.modBlock_linkDrops (s : State) (c : CoreId) (f : Block → Block) : (s.modBlock c f).linkDrops = s.linkDrops := by cases c <;> rfl
@[simp] theorem State.modBlock_linkDown (s : State) (c : CoreId) (f : Block → Block) : (s.modBlock c f).linkDown = s.linkDown := by cases c <;> rfl
@[simp] theorem State.modBlock_flitFix (s : State) (c : CoreId) (f : Block → Block) : (s.modBlock c f).flitFix = s.flitFix := by cases c <;> rfl
@[simp] theorem State.modBlock_log (s : State) (c : CoreId) (f : Block → Block) : (s.modBlock c f).log = s.log := by cases c <;> rfl
@[simp] theorem State.modBlock_logLost (s : State) (c : CoreId) (f : Block → Block) : (s.modBlock c f).logLost = s.logLost := by cases c <;> rfl
@[simp] theorem State.modBlock_seqs (s : State) (c : CoreId) (f : Block → Block) : (s.modBlock c f).seqs = s.seqs := by cases c <;> rfl
@[simp] theorem State.modBlock_opens (s : State) (c : CoreId) (f : Block → Block) : (s.modBlock c f).opens = s.opens := by cases c <;> rfl
@[simp] theorem State.modBlock_host (s : State) (c : CoreId) (f : Block → Block) : (s.modBlock c f).host = s.host := by cases c <;> rfl
@[simp] theorem State.modBlock_irqs (s : State) (c : CoreId) (f : Block → Block) : (s.modBlock c f).irqs = s.irqs := by cases c <;> rfl
@[simp] theorem State.modBlock_replies (s : State) (c : CoreId) (f : Block → Block) : (s.modBlock c f).replies = s.replies := by cases c <;> rfl
@[simp] theorem State.modBlock_reads (s : State) (c : CoreId) (f : Block → Block) : (s.modBlock c f).reads = s.reads := by cases c <;> rfl
@[simp] theorem State.modBlock_bar2 (s : State) (c : CoreId) (f : Block → Block) : (s.modBlock c f).bar2 = s.bar2 := by cases c <;> rfl
@[simp] theorem State.modBlock_bootSt (s : State) (c : CoreId) (f : Block → Block) : (s.modBlock c f).bootSt = s.bootSt := by cases c <;> rfl
@[simp] theorem State.modBlock_booted (s : State) (c : CoreId) (f : Block → Block) : (s.modBlock c f).booted = s.booted := by cases c <;> rfl
@[simp] theorem State.modBlock_measured (s : State) (c : CoreId) (f : Block → Block) : (s.modBlock c f).measured = s.measured := by cases c <;> rfl
@[simp] theorem State.modBlock_attested (s : State) (c : CoreId) (f : Block → Block) : (s.modBlock c f).attested = s.attested := by cases c <;> rfl
@[simp] theorem State.modBlock_mapped (s : State) (c : CoreId) (f : Block → Block) : (s.modBlock c f).mapped = s.mapped := by cases c <;> rfl
@[simp] theorem State.modBlock_meshFix (s : State) (c : CoreId) (f : Block → Block) : (s.modBlock c f).meshFix = s.meshFix := by cases c <;> rfl
@[simp] theorem State.modBlock_meshBad (s : State) (c : CoreId) (f : Block → Block) : (s.modBlock c f).meshBad = s.meshBad := by cases c <;> rfl

@[simp] theorem State.modSlot_tick (s : State) (c : CoreId) (i : Nat) (f : Slot → Slot) : (s.modSlot c i f).tick = s.tick := by cases c <;> rfl
@[simp] theorem State.modSlot_agenda (s : State) (c : CoreId) (i : Nat) (f : Slot → Slot) : (s.modSlot c i f).agenda = s.agenda := by cases c <;> rfl
@[simp] theorem State.modSlot_focus (s : State) (c : CoreId) (i : Nat) (f : Slot → Slot) : (s.modSlot c i f).focus = s.focus := by cases c <;> rfl
@[simp] theorem State.modSlot_pkg (s : State) (c : CoreId) (i : Nat) (f : Slot → Slot) : (s.modSlot c i f).pkg = s.pkg := by cases c <;> rfl
@[simp] theorem State.modSlot_nextId (s : State) (c : CoreId) (i : Nat) (f : Slot → Slot) : (s.modSlot c i f).nextId = s.nextId := by cases c <;> rfl
@[simp] theorem State.modSlot_quires (s : State) (c : CoreId) (i : Nat) (f : Slot → Slot) : (s.modSlot c i f).quires = s.quires := by cases c <;> rfl
@[simp] theorem State.modSlot_folios (s : State) (c : CoreId) (i : Nat) (f : Slot → Slot) : (s.modSlot c i f).folios = s.folios := by cases c <;> rfl
@[simp] theorem State.modSlot_gaths (s : State) (c : CoreId) (i : Nat) (f : Slot → Slot) : (s.modSlot c i f).gaths = s.gaths := by cases c <;> rfl
@[simp] theorem State.modSlot_papers (s : State) (c : CoreId) (i : Nat) (f : Slot → Slot) : (s.modSlot c i f).papers = s.papers := by cases c <;> rfl
@[simp] theorem State.modSlot_hbm (s : State) (c : CoreId) (i : Nat) (f : Slot → Slot) : (s.modSlot c i f).hbm = s.hbm := by cases c <;> rfl
@[simp] theorem State.modSlot_hbmBad (s : State) (c : CoreId) (i : Nat) (f : Slot → Slot) : (s.modSlot c i f).hbmBad = s.hbmBad := by cases c <;> rfl
@[simp] theorem State.modSlot_apertures (s : State) (c : CoreId) (i : Nat) (f : Slot → Slot) : (s.modSlot c i f).apertures = s.apertures := by cases c <;> rfl
@[simp] theorem State.modSlot_tlb (s : State) (c : CoreId) (i : Nat) (f : Slot → Slot) : (s.modSlot c i f).tlb = s.tlb := by cases c <;> rfl
@[simp] theorem State.modSlot_walks (s : State) (c : CoreId) (i : Nat) (f : Slot → Slot) : (s.modSlot c i f).walks = s.walks := by cases c <;> rfl
@[simp] theorem State.modSlot_reqs (s : State) (c : CoreId) (i : Nat) (f : Slot → Slot) : (s.modSlot c i f).reqs = s.reqs := by cases c <;> rfl
@[simp] theorem State.modSlot_rereads (s : State) (c : CoreId) (i : Nat) (f : Slot → Slot) : (s.modSlot c i f).rereads = s.rereads := by cases c <;> rfl
@[simp] theorem State.modSlot_copies (s : State) (c : CoreId) (i : Nat) (f : Slot → Slot) : (s.modSlot c i f).copies = s.copies := by cases c <;> rfl
@[simp] theorem State.modSlot_ports (s : State) (c : CoreId) (i : Nat) (f : Slot → Slot) : (s.modSlot c i f).ports = s.ports := by cases c <;> rfl
@[simp] theorem State.modSlot_evicts (s : State) (c : CoreId) (i : Nat) (f : Slot → Slot) : (s.modSlot c i f).evicts = s.evicts := by cases c <;> rfl
@[simp] theorem State.modSlot_savers (s : State) (c : CoreId) (i : Nat) (f : Slot → Slot) : (s.modSlot c i f).savers = s.savers := by cases c <;> rfl
@[simp] theorem State.modSlot_evicted (s : State) (c : CoreId) (i : Nat) (f : Slot → Slot) : (s.modSlot c i f).evicted = s.evicted := by cases c <;> rfl
@[simp] theorem State.modSlot_massHeld (s : State) (c : CoreId) (i : Nat) (f : Slot → Slot) : (s.modSlot c i f).massHeld = s.massHeld := by cases c <;> rfl
@[simp] theorem State.modSlot_stray (s : State) (c : CoreId) (i : Nat) (f : Slot → Slot) : (s.modSlot c i f).stray = s.stray := by cases c <;> rfl
@[simp] theorem State.modSlot_contexts (s : State) (c : CoreId) (i : Nat) (f : Slot → Slot) : (s.modSlot c i f).contexts = s.contexts := by cases c <;> rfl
@[simp] theorem State.modSlot_insts (s : State) (c : CoreId) (i : Nat) (f : Slot → Slot) : (s.modSlot c i f).insts = s.insts := by cases c <;> rfl
@[simp] theorem State.modSlot_pool (s : State) (c : CoreId) (i : Nat) (f : Slot → Slot) : (s.modSlot c i f).pool = s.pool := by cases c <;> rfl
@[simp] theorem State.modSlot_reserve (s : State) (c : CoreId) (i : Nat) (f : Slot → Slot) : (s.modSlot c i f).reserve = s.reserve := by cases c <;> rfl
@[simp] theorem State.modSlot_lastCtx (s : State) (c : CoreId) (i : Nat) (f : Slot → Slot) : (s.modSlot c i f).lastCtx = s.lastCtx := by cases c <;> rfl
@[simp] theorem State.modSlot_parkedQ (s : State) (c : CoreId) (i : Nat) (f : Slot → Slot) : (s.modSlot c i f).parkedQ = s.parkedQ := by cases c <;> rfl
@[simp] theorem State.modSlot_drops (s : State) (c : CoreId) (i : Nat) (f : Slot → Slot) : (s.modSlot c i f).drops = s.drops := by cases c <;> rfl
@[simp] theorem State.modSlot_fwBase (s : State) (c : CoreId) (i : Nat) (f : Slot → Slot) : (s.modSlot c i f).fwBase = s.fwBase := by cases c <;> rfl
@[simp] theorem State.modSlot_fwSize (s : State) (c : CoreId) (i : Nat) (f : Slot → Slot) : (s.modSlot c i f).fwSize = s.fwSize := by cases c <;> rfl
@[simp] theorem State.modSlot_fwTail (s : State) (c : CoreId) (i : Nat) (f : Slot → Slot) : (s.modSlot c i f).fwTail = s.fwTail := by cases c <;> rfl
@[simp] theorem State.modSlot_fwHead (s : State) (c : CoreId) (i : Nat) (f : Slot → Slot) : (s.modSlot c i f).fwHead = s.fwHead := by cases c <;> rfl
@[simp] theorem State.modSlot_fwSeen (s : State) (c : CoreId) (i : Nat) (f : Slot → Slot) : (s.modSlot c i f).fwSeen = s.fwSeen := by cases c <;> rfl
@[simp] theorem State.modSlot_shadow (s : State) (c : CoreId) (i : Nat) (f : Slot → Slot) : (s.modSlot c i f).shadow = s.shadow := by cases c <;> rfl
@[simp] theorem State.modSlot_config (s : State) (c : CoreId) (i : Nat) (f : Slot → Slot) : (s.modSlot c i f).config = s.config := by cases c <;> rfl
@[simp] theorem State.modSlot_pending (s : State) (c : CoreId) (i : Nat) (f : Slot → Slot) : (s.modSlot c i f).pending = s.pending := by cases c <;> rfl
@[simp] theorem State.modSlot_badBatch (s : State) (c : CoreId) (i : Nat) (f : Slot → Slot) : (s.modSlot c i f).badBatch = s.badBatch := by cases c <;> rfl
@[simp] theorem State.modSlot_failed (s : State) (c : CoreId) (i : Nat) (f : Slot → Slot) : (s.modSlot c i f).failed = s.failed := by cases c <;> rfl
@[simp] theorem State.modSlot_hubClocks (s : State) (c : CoreId) (i : Nat) (f : Slot → Slot) : (s.modSlot c i f).hubClocks = s.hubClocks := by cases c <;> rfl
@[simp] theorem State.modSlot_misses (s : State) (c : CoreId) (i : Nat) (f : Slot → Slot) : (s.modSlot c i f).misses = s.misses := by cases c <;> rfl
@[simp] theorem State.modSlot_granted (s : State) (c : CoreId) (i : Nat) (f : Slot → Slot) : (s.modSlot c i f).granted = s.granted := by cases c <;> rfl
@[simp] theorem State.modSlot_batches (s : State) (c : CoreId) (i : Nat) (f : Slot → Slot) : (s.modSlot c i f).batches = s.batches := by cases c <;> rfl
@[simp] theorem State.modSlot_senders (s : State) (c : CoreId) (i : Nat) (f : Slot → Slot) : (s.modSlot c i f).senders = s.senders := by cases c <;> rfl
@[simp] theorem State.modSlot_receivers (s : State) (c : CoreId) (i : Nat) (f : Slot → Slot) : (s.modSlot c i f).receivers = s.receivers := by cases c <;> rfl
@[simp] theorem State.modSlot_outbox (s : State) (c : CoreId) (i : Nat) (f : Slot → Slot) : (s.modSlot c i f).outbox = s.outbox := by cases c <;> rfl
@[simp] theorem State.modSlot_linkDrops (s : State) (c : CoreId) (i : Nat) (f : Slot → Slot) : (s.modSlot c i f).linkDrops = s.linkDrops := by cases c <;> rfl
@[simp] theorem State.modSlot_linkDown (s : State) (c : CoreId) (i : Nat) (f : Slot → Slot) : (s.modSlot c i f).linkDown = s.linkDown := by cases c <;> rfl
@[simp] theorem State.modSlot_flitFix (s : State) (c : CoreId) (i : Nat) (f : Slot → Slot) : (s.modSlot c i f).flitFix = s.flitFix := by cases c <;> rfl
@[simp] theorem State.modSlot_log (s : State) (c : CoreId) (i : Nat) (f : Slot → Slot) : (s.modSlot c i f).log = s.log := by cases c <;> rfl
@[simp] theorem State.modSlot_logLost (s : State) (c : CoreId) (i : Nat) (f : Slot → Slot) : (s.modSlot c i f).logLost = s.logLost := by cases c <;> rfl
@[simp] theorem State.modSlot_seqs (s : State) (c : CoreId) (i : Nat) (f : Slot → Slot) : (s.modSlot c i f).seqs = s.seqs := by cases c <;> rfl
@[simp] theorem State.modSlot_opens (s : State) (c : CoreId) (i : Nat) (f : Slot → Slot) : (s.modSlot c i f).opens = s.opens := by cases c <;> rfl
@[simp] theorem State.modSlot_host (s : State) (c : CoreId) (i : Nat) (f : Slot → Slot) : (s.modSlot c i f).host = s.host := by cases c <;> rfl
@[simp] theorem State.modSlot_irqs (s : State) (c : CoreId) (i : Nat) (f : Slot → Slot) : (s.modSlot c i f).irqs = s.irqs := by cases c <;> rfl
@[simp] theorem State.modSlot_replies (s : State) (c : CoreId) (i : Nat) (f : Slot → Slot) : (s.modSlot c i f).replies = s.replies := by cases c <;> rfl
@[simp] theorem State.modSlot_reads (s : State) (c : CoreId) (i : Nat) (f : Slot → Slot) : (s.modSlot c i f).reads = s.reads := by cases c <;> rfl
@[simp] theorem State.modSlot_bar2 (s : State) (c : CoreId) (i : Nat) (f : Slot → Slot) : (s.modSlot c i f).bar2 = s.bar2 := by cases c <;> rfl
@[simp] theorem State.modSlot_bootSt (s : State) (c : CoreId) (i : Nat) (f : Slot → Slot) : (s.modSlot c i f).bootSt = s.bootSt := by cases c <;> rfl
@[simp] theorem State.modSlot_booted (s : State) (c : CoreId) (i : Nat) (f : Slot → Slot) : (s.modSlot c i f).booted = s.booted := by cases c <;> rfl
@[simp] theorem State.modSlot_measured (s : State) (c : CoreId) (i : Nat) (f : Slot → Slot) : (s.modSlot c i f).measured = s.measured := by cases c <;> rfl
@[simp] theorem State.modSlot_attested (s : State) (c : CoreId) (i : Nat) (f : Slot → Slot) : (s.modSlot c i f).attested = s.attested := by cases c <;> rfl
@[simp] theorem State.modSlot_mapped (s : State) (c : CoreId) (i : Nat) (f : Slot → Slot) : (s.modSlot c i f).mapped = s.mapped := by cases c <;> rfl
@[simp] theorem State.modSlot_meshFix (s : State) (c : CoreId) (i : Nat) (f : Slot → Slot) : (s.modSlot c i f).meshFix = s.meshFix := by cases c <;> rfl
@[simp] theorem State.modSlot_meshBad (s : State) (c : CoreId) (i : Nat) (f : Slot → Slot) : (s.modSlot c i f).meshBad = s.meshBad := by cases c <;> rfl

/-! ### Reading what an update wrote -/

theorem State.leaf_setLeaf (s : State) (n : Nat) (l : Leaf) (m : Nat) :
    (s.setLeaf n l).leaf m = if n = m then l else s.leaf m := by
  simp only [State.leaf, State.setLeaf, tget_tset]
  split <;> rfl

@[simp] theorem State.leaf_setLeaf_self (s : State) (n : Nat) (l : Leaf) : (s.setLeaf n l).leaf n = l := by
  simp [State.leaf_setLeaf]

theorem State.leaf_modLeaf (s : State) (n : Nat) (f : Leaf → Leaf) (m : Nat) :
    (s.modLeaf n f).leaf m = if n = m then f (s.leaf m) else s.leaf m := by
  simp only [State.modLeaf, State.leaf_setLeaf]
  split
  · subst_vars; rfl
  · rfl

@[simp] theorem State.leaf_modLeaf_self (s : State) (n : Nat) (f : Leaf → Leaf) :
    (s.modLeaf n f).leaf n = f (s.leaf n) := by simp [State.leaf_modLeaf]

@[simp] theorem State.quire_modQuire_self (s : State) (q : Nat) (f : Quire → Quire) :
    (s.modQuire q f).quire q = f (s.quire q) := by simp [State.quire, State.modQuire]

theorem State.gath_modGath (s : State) (g : Nat) (f : Gathering → Gathering) (j : Nat) :
    (s.modGath g f).gath j = if g = j then (s.gath j).map f else s.gath j := by
  unfold State.modGath State.gath
  cases h : tget s.gaths g with
  | none =>
    by_cases e : g = j
    · subst e; simp [h]
    · simp [e]
  | some x =>
    by_cases e : g = j
    · subst e; simp [h]
    · simp [tget_tset, e]

@[simp] theorem State.gath_modGath_self (s : State) (g : Nat) (f : Gathering → Gathering) :
    (s.modGath g f).gath g = (s.gath g).map f := by simp [State.gath_modGath]

theorem State.core_modCore (s : State) (k : Nat) (f : Core → Core) (j : Nat) :
    (s.modCore k f).core j = if k = j ∧ j < s.cores.length then f (s.core j) else s.core j := by
  simp only [State.core, State.modCore, lmod_getD]

theorem State.context_modContext (s : State) (k : Nat) (f : Context → Context) (j : Nat) :
    (s.modContext k f).context j = if k = j ∧ j < s.contexts.length then f (s.context j) else s.context j := by
  simp only [State.context, State.modContext, lmod_getD]

@[simp] theorem State.leaf_modGath (s : State) (g : Nat) (f : Gathering → Gathering) (n : Nat) :
    (s.modGath g f).leaf n = s.leaf n := by simp [State.leaf]
@[simp] theorem State.core_modGath (s : State) (g : Nat) (f : Gathering → Gathering) (n : Nat) :
    (s.modGath g f).core n = s.core n := by simp [State.core]
@[simp] theorem State.gath_modLeaf (s : State) (n : Nat) (f : Leaf → Leaf) (g : Nat) : (s.modLeaf n f).gath g = s.gath g := rfl
@[simp] theorem State.core_modLeaf (s : State) (n : Nat) (f : Leaf → Leaf) (k : Nat) : (s.modLeaf n f).core k = s.core k := rfl
@[simp] theorem State.quire_modLeaf (s : State) (n : Nat) (f : Leaf → Leaf) (q : Nat) : (s.modLeaf n f).quire q = s.quire q := rfl
@[simp] theorem State.leaf_modCore (s : State) (k : Nat) (f : Core → Core) (n : Nat) : (s.modCore k f).leaf n = s.leaf n := rfl
@[simp] theorem State.gath_modCore (s : State) (k : Nat) (f : Core → Core) (g : Nat) : (s.modCore k f).gath g = s.gath g := rfl
@[simp] theorem State.leaf_modQuire (s : State) (q : Nat) (f : Quire → Quire) (n : Nat) : (s.modQuire q f).leaf n = s.leaf n := rfl
@[simp] theorem State.gath_modQuire (s : State) (q : Nat) (f : Quire → Quire) (g : Nat) : (s.modQuire q f).gath g = s.gath g := rfl

theorem State.strand_modStrand_self (s : State) (c : CoreId) (f : Strand → Strand) (h : s.hasCore c = true) :
    (s.modStrand c f).strand c = f (s.strand c) := by
  cases c with
  | strand n t =>
    simp only [State.hasCore, decide_eq_true_eq] at h
    simp [State.modStrand, State.strand, lmod_getElem?, List.getElem?_eq_getElem h]
  | control k =>
    simp only [State.hasCore, decide_eq_true_eq] at h
    simp [State.modStrand, State.strand, State.core_modCore, h]

theorem State.strand_modStrand_ne (s : State) (c d : CoreId) (f : Strand → Strand) (h : c ≠ d) :
    (s.modStrand c f).strand d = s.strand d := by
  cases c with
  | strand n t =>
    cases d with
    | strand m u =>
      simp only [State.modStrand, State.strand, State.leaf_modLeaf]
      split
      · subst_vars
        have : t.val ≠ u.val := fun e => h (by rw [Fin.ext e])
        simp [lmod_getElem?, this]
      · rfl
    | control k => rfl
  | control k =>
    cases d with
    | strand m u => rfl
    | control j =>
      have : k.val ≠ j.val := fun e => h (by rw [Fin.ext e])
      simp [State.modStrand, State.strand, State.core_modCore, this]

end Sys2Proof.Machine
end

