-- ==== Sys2Proof/Laws/Memory.lean ====
section
/-!
SUPPORT. Laws of the memory list and of little-endian bytes: the canonical form is kept by every operation; a read after a write;
a write leaves every other byte alone.
-/

set_option Elab.async false

namespace Sys2Proof.Machine

/-! ### The canonical form -/

theorem above_mono {m : Memory} {i j : Nat} (h : j ≤ i) (w : Memory.above m i = true) : Memory.above m j = true := by
  cases m with
  | nil => rfl
  | cons c m =>
    obtain ⟨k, v⟩ := c
    simp only [Memory.above, Bool.and_eq_true, decide_eq_true_eq] at w ⊢
    exact ⟨⟨h.trans w.1.1, w.1.2⟩, w.2⟩

theorem above_put {m : Memory} {i a : Nat} (b : Byte) (w : Memory.above m i = true) (h : i ≤ a) :
    Memory.above (Memory.put m a b) i = true := by
  induction m generalizing i with
  | nil =>
    simp only [Memory.put]
    split
    · rfl
    · simp_all [Memory.above]
  | cons c m ih =>
    obtain ⟨k, v⟩ := c
    simp only [Memory.above, Bool.and_eq_true, decide_eq_true_eq] at w
    obtain ⟨⟨hk, hv⟩, hm⟩ := w
    simp only [Memory.put]
    split
    · split
      · simp_all [Memory.above]
      · simp_all [Memory.above]
    · split
      · split
        · exact above_mono (by omega) hm
        · subst_vars; simp_all [Memory.above]
      · simp only [Memory.above, Bool.and_eq_true, decide_eq_true_eq]
        exact ⟨⟨hk, hv⟩, ih hm (by omega)⟩

/-- A byte written keeps the canonical form. -/
theorem Memory.put_wf {m : Memory} (a : Nat) (b : Byte) (w : m.wf = true) : (m.put a b).wf = true :=
  above_put b w (Nat.zero_le a)

/-- Bytes written keep the canonical form. -/
theorem Memory.write_wf {m : Memory} (a : Nat) (bs : List Byte) (w : m.wf = true) : (m.write a bs).wf = true := by
  induction bs generalizing m a with
  | nil => exact w
  | cons b bs ih => exact ih (a + 1) (Memory.put_wf a b w)

theorem above_filter {m : Memory} {i : Nat} (p : Host.Cell → Bool) (w : Memory.above m i = true) :
    Memory.above (m.filter p) i = true := by
  induction m generalizing i with
  | nil => rfl
  | cons c m ih =>
    obtain ⟨k, v⟩ := c
    simp only [Memory.above, Bool.and_eq_true, decide_eq_true_eq] at w
    obtain ⟨⟨hk, hv⟩, hm⟩ := w
    by_cases hp : p (k, v) = true
    · simp only [List.filter_cons_of_pos hp, Memory.above, Bool.and_eq_true, decide_eq_true_eq]
      exact ⟨⟨hk, hv⟩, ih hm⟩
    · simp only [List.filter_cons_of_neg hp]
      exact above_mono (by omega) (ih hm)

/-- Bytes removed keep the canonical form. -/
theorem Memory.filter_wf {m : Memory} (p : Host.Cell → Bool) (w : m.wf = true) : Memory.wf (m.filter p) = true :=
  above_filter p w

theorem Memory.clear_wf {m : Memory} (lo hi : Nat) (w : m.wf = true) : (m.clear lo hi).wf = true :=
  above_filter _ w

@[simp] theorem Memory.nil_wf : Memory.wf [] = true := rfl

/-! ### Read after write -/

theorem get_of_above {m : Memory} {i a : Nat} (w : Memory.above m i = true) (h : a < i) : Memory.get m a = 0 := by
  induction m generalizing i with
  | nil => rfl
  | cons c m ih =>
    obtain ⟨k, v⟩ := c
    simp only [Memory.above, Bool.and_eq_true, decide_eq_true_eq] at w
    simp only [Memory.get]
    rw [if_neg (by omega)]
    exact ih w.2 (by omega)

theorem get_put_of_above {m : Memory} {i a : Nat} (b : Byte) (w : Memory.above m i = true) (x : Nat) :
    Memory.get (Memory.put m a b) x = if x = a then b else Memory.get m x := by
  induction m generalizing i with
  | nil =>
    simp only [Memory.put]
    by_cases hx : x = a
    · subst hx; split <;> simp_all [Memory.get]
    · have hx' : ¬ a = x := fun h => hx h.symm
      split <;> simp [Memory.get, hx']
  | cons c m ih =>
    obtain ⟨k, v⟩ := c
    simp only [Memory.above, Bool.and_eq_true, decide_eq_true_eq] at w
    obtain ⟨⟨hk, hv⟩, hm⟩ := w
    simp only [Memory.put]
    split
    · split
      · split
        · subst_vars; simp only [Memory.get]; rw [if_neg (by omega)]; exact get_of_above hm (by omega)
        · rfl
      · simp only [Memory.get]
        by_cases hx : x = a
        · subst hx; simp
        · rw [if_neg hx, if_neg fun h => hx h.symm]
    · split
      · subst_vars
        split
        · split
          · subst_vars; exact get_of_above hm (by omega)
          · simp only [Memory.get]; rw [if_neg (by omega)]
        · simp only [Memory.get]
          by_cases hx : x = k
          · subst hx; simp
          · rw [if_neg hx, if_neg fun h => hx h.symm, if_neg fun h => hx h.symm]
      · simp only [Memory.get, ih hm]
        split
        · subst_vars; rw [if_neg (by omega)]
        · rfl

/-- A byte read after a byte written. -/
theorem Memory.get_put {m : Memory} (w : m.wf = true) (a : Nat) (b : Byte) (x : Nat) :
    (m.put a b).get x = if x = a then b else m.get x := get_put_of_above b w x

/-- A byte read after bytes written. -/
theorem Memory.get_write {m : Memory} (w : m.wf = true) (a : Nat) (bs : List Byte) (x : Nat) :
    (m.write a bs).get x = if a ≤ x ∧ x < a + bs.length then bs.getD (x - a) 0 else m.get x := by
  induction bs generalizing m a with
  | nil =>
    have : ¬ (a ≤ x ∧ x < a + ([] : List Byte).length) := by simp
    rw [if_neg this]; rfl
  | cons b bs ih =>
    simp only [Memory.write]
    rw [ih (Memory.put_wf a b w), Memory.get_put w]
    simp only [List.length_cons]
    by_cases h : x = a
    · subst h; simp
    · by_cases h2 : a ≤ x ∧ x < a + (bs.length + 1)
      · rw [if_pos h2, if_pos (by omega)]
        obtain ⟨n, rfl⟩ : ∃ n, x = a + 1 + n := ⟨x - a - 1, by omega⟩
        rw [show a + 1 + n - a = n + 1 by omega, show a + 1 + n - (a + 1) = n by omega]; rfl
      · rw [if_neg h2, if_neg (by omega), if_neg h]

/-- Writing bytes leaves every other byte alone. -/
theorem Memory.get_write_ne {m : Memory} (w : m.wf = true) {a : Nat} {bs : List Byte} {x : Nat}
    (h : x < a ∨ a + bs.length ≤ x) : (m.write a bs).get x = m.get x := by
  rw [Memory.get_write w, if_neg (by omega)]

theorem Memory.get_filter {m : Memory} (p : Nat → Bool) (x : Nat) :
    Memory.get (m.filter fun c => p c.1) x = if p x then m.get x else 0 := by
  induction m with
  | nil => simp [Memory.get]
  | cons c m ih =>
    obtain ⟨k, v⟩ := c
    by_cases hp : p k = true
    · rw [List.filter_cons_of_pos (by exact hp)]
      simp only [Memory.get, ih]
      by_cases h : k = x
      · subst h; simp [hp]
      · simp [h]
    · rw [List.filter_cons_of_neg (by exact hp)]
      simp only [Memory.get, ih]
      by_cases h : k = x
      · subst h; simp [hp]
      · simp [h]

/-- A cleared byte reads as an unlisted one, every other byte as before. -/
theorem Memory.get_clear (m : Memory) (lo hi x : Nat) :
    (m.clear lo hi).get x = if lo ≤ x ∧ x < hi then 0 else m.get x := by
  rw [Memory.clear, Memory.get_filter fun a => a < lo || hi ≤ a]
  by_cases h : lo ≤ x ∧ x < hi
  · have : (decide (x < lo) || decide (hi ≤ x)) = false := by simp; omega
    simp [h, this]
  · have : (decide (x < lo) || decide (hi ≤ x)) = true := by simp; omega
    simp [h, this]

/-! ### Little-endian bytes -/

@[simp] theorem bytesOf_length (n v : Nat) : (bytesOf n v).length = n := by
  induction n generalizing v with
  | zero => rfl
  | succ n ih => simp [bytesOf, ih]

@[simp] theorem read_length (m : Memory) (a n : Nat) : (m.read a n).length = n := by
  induction n generalizing a with
  | zero => rfl
  | succ n ih => simp [Memory.read, ih]

/-- What a number's bytes hold is the number, modulo the width. -/
@[simp] theorem natOfBytes_bytesOf (n v : Nat) : natOfBytes (bytesOf n v) = v % 256 ^ n := by
  induction n generalizing v with
  | zero => simp [bytesOf, natOfBytes, Nat.mod_one]
  | succ n ih =>
    have h : (BitVec.ofNat 8 v).toNat = v % 256 := rfl
    rw [bytesOf, natOfBytes, ih, h, Nat.pow_succ', Nat.mod_mul]

/-- Bytes written and read back. -/
theorem Memory.read_write {m : Memory} (w : m.wf = true) (a : Nat) (bs : List Byte) :
    (m.write a bs).read a bs.length = bs := by
  apply List.ext_getElem
  · simp
  · intro i h1 h2
    have key : ∀ (m : Memory) (a n i : Nat) (h : i < (m.read a n).length), (m.read a n)[i] = m.get (a + i) := by
      intro m a n
      induction n generalizing a with
      | zero => intro i h; simp [Memory.read] at h
      | succ n ih =>
        intro i h
        cases i with
        | zero => rfl
        | succ i =>
          simp only [Memory.read, List.getElem_cons_succ]
          rw [ih]; congr 1; omega
    rw [key, Memory.get_write w, if_pos (by omega)]
    simp [h2]

end Sys2Proof.Machine
end

