-- ==== Sys2Proof/Laws/Operands.lean ====
section
/-!
SUPPORT. What the shared shapes of an instruction can do: `perform`, `valueOp`, `flagOp`, the operand limits, a leaf access and a
request.
-/

set_option Elab.async false

namespace Sys2Proof.Machine

/-! ### Blocks and slots -/

/-- A strand with a block in flight is one that the part has. -/
theorem hasCore_of_block {s : State} {c : CoreId} {b : Block} (h : (s.strand c).block = some b) : s.hasCore c = true := by
  cases c with
  | strand n t =>
    by_contra hn
    simp only [State.hasCore, decide_eq_true_eq, not_lt] at hn
    rw [State.strand, List.getD_eq_default _ _ hn] at h
    exact absurd h (by simp)
  | control k =>
    by_contra hn
    simp only [State.hasCore, decide_eq_true_eq, not_lt] at hn
    rw [State.strand, State.core, List.getD_eq_default _ _ hn] at h
    exact absurd h (by simp)

/-- The block in flight after an update of it. -/
theorem block_modBlock {s : State} {c : CoreId} {b : Block} (h : (s.strand c).block = some b) (f : Block → Block) :
    ((s.modBlock c f).strand c).block = some (f b) := by
  rw [State.modBlock, State.strand_modStrand_self _ _ _ (hasCore_of_block h), h]; rfl

theorem block_modSlot {s : State} {c : CoreId} {b : Block} (h : (s.strand c).block = some b) (i : Nat) (f : Slot → Slot) :
    ((s.modSlot c i f).strand c).block = some { b with slots := lmod b.slots i f } := block_modBlock h _

/-- A slot after an update of it. -/
theorem slot_modSlot_self {s : State} {c : CoreId} {b : Block} {i : Nat} (h : (s.strand c).block = some b)
    (hi : i < b.slots.length) (f : Slot → Slot) : (s.modSlot c i f).slot c i = f (s.slot c i) := by
  simp only [State.slot, block_modSlot h, h, List.getD_eq_getElem?_getD, lmod_getElem?, List.getElem?_eq_getElem hi,
    if_true, Option.map_some, Option.getD_some]

theorem slot_modSlot_ne {s : State} {c : CoreId} {i j : Nat} (f : Slot → Slot) (hij : i ≠ j) :
    (s.modSlot c i f).slot c j = s.slot c j := by
  by_cases h : ∃ b, (s.strand c).block = some b
  · obtain ⟨b, h⟩ := h
    simp only [State.slot, block_modSlot h, h, List.getD_eq_getElem?_getD, lmod_getElem?, if_neg hij]
  · have hn : (s.strand c).block = none := by
      cases hb : (s.strand c).block with
      | none => rfl
      | some b => exact absurd ⟨b, hb⟩ h
    by_cases hc : s.hasCore c = true
    · simp only [State.slot, State.modSlot, State.modBlock, State.strand_modStrand_self _ _ _ hc, hn, Option.map_none]
    · have : (s.modSlot c i f).strand c = s.strand c := by
        cases c with
        | strand n t =>
          simp only [State.hasCore, decide_eq_true_eq, not_lt] at hc
          simp only [State.modSlot, State.modBlock, State.modStrand, State.strand, State.leaf_modLeaf_self]
          rw [List.getD_eq_default _ _ (by simpa using hc), List.getD_eq_default _ _ hc]
        | control k =>
          simp only [State.hasCore, decide_eq_true_eq, not_lt] at hc
          simp only [State.modSlot, State.modBlock, State.modStrand, State.strand, State.core, State.modCore]
          rw [List.getD_eq_default _ _ (by simpa using hc), List.getD_eq_default _ _ hc]
      simp only [State.slot, this]

/-- A slot that is ready stands in a block in flight. -/
theorem ready_block {s : State} {c : CoreId} {i : Nat} (h : ready s c i = true) :
    ∃ b, (s.strand c).block = some b ∧ i < b.slots.length := by
  simp only [ready, Bool.and_eq_true] at h
  obtain ⟨-, h⟩ := h
  split at h
  · rename_i b hb
    refine ⟨b, hb, ?_⟩
    by_contra hn
    rw [List.getElem?_eq_none (not_lt.mp hn)] at h
    simp at h
  · simp at h

/-! ### The shape of an instruction -/

/-- An instruction that fires does what its meaning says, on the operands of its slot. -/
theorem perform_fires {s : State} {x : Instr} (h : fires s x)
    (act : State → CoreId → Nat → Word → Word → Word → State) :
    perform (formOf x) s act = .next (act s s.focus.core s.focus.slot s.opL s.opR s.opT) := by
  obtain ⟨-, h2, h3⟩ := h
  unfold State.here at h3
  simp only [perform, h2, h3, State.opL, State.opR, State.opT, State.here]
  rfl

/-- An instruction that is nullified delivers NULL, whatever its meaning. -/
theorem perform_nulls {s : State} {x : Instr} (h : nulls s x)
    (act : State → CoreId → Nat → Word → Word → Word → State) :
    perform (formOf x) s act = .next (nullify (formOf x) s s.focus.core s.focus.slot) := by
  obtain ⟨-, h2, h3⟩ := h
  unfold State.here at h3
  simp only [perform, h2, h3]
  rfl

/-- A slot that is not ready changes nothing. -/
theorem perform_not_ready {s : State} (h : ready s s.focus.core s.focus.slot = false) (f : Form)
    (act : State → CoreId → Nat → Word → Word → Word → State) : perform f s act = .next s := by
  simp [perform, h]

/-- Everything that a performing instruction can answer. -/
theorem perform_cases (f : Form) (s : State) (act : State → CoreId → Nat → Word → Word → Word → State) :
    (ready s s.focus.core s.focus.slot = false ∧ perform f s act = .next s) ∨
    (nullified f s.here = true ∧ perform f s act = .next (nullify f s s.focus.core s.focus.slot)) ∨
    (ready s s.focus.core s.focus.slot = true ∧ nullified f s.here = false ∧
      perform f s act = .next (act s s.focus.core s.focus.slot s.opL s.opR s.opT)) := by
  unfold State.here State.opL State.opR State.opT
  simp only [perform]
  by_cases h : ready s s.focus.core s.focus.slot <;> by_cases h2 : nullified f (s.slot s.focus.core s.focus.slot) <;>
    simp [h, h2, State.here]

theorem perform_next (f : Form) (s : State) (act : State → CoreId → Nat → Word → Word → Word → State) :
    isNext (perform f s act) = true := by
  obtain ⟨-, h⟩ | ⟨-, h⟩ | ⟨-, -, h⟩ := perform_cases f s act <;> rw [h] <;> rfl

theorem valueOp_fires {s : State} {x : Instr} (h : fires s x) (v : Word → Word → Word → Word) :
    valueOp (formOf x) s v =
      delivers s s (formOf x).ta (formOf x).tb (some (v s.opL s.opR s.opT)) (some (v s.opL s.opR s.opT)) := by
  rw [valueOp, perform_fires h]; rfl

theorem flagOp_fires {s : State} {x : Instr} (h : fires s x)
    (v : State → CoreId → Nat → Word → Word → Word → Word × Flags6) :
    flagOp (formOf x) s v =
      delivers s (raiseFlags s s.me (v s s.me s.focus.slot s.opL s.opR s.opT).2) (formOf x).ta (formOf x).tb
        (some (v s s.me s.focus.slot s.opL s.opR s.opT).1) (some (v s s.me s.focus.slot s.opL s.opR s.opT).1) := by
  rw [flagOp, perform_fires h]; rfl

theorem intRow_fires {s : State} {x : Instr} (h : fires s x) (op : IOp) (w : IntWidth) (sgn sat : Bool) :
    intRow (formOf x) op w sgn sat s =
      delivers s (raiseFlags s s.me (intOp op w sgn sat s.opL s.opR).2) (formOf x).ta (formOf x).tb
        (some (intOp op w sgn sat s.opL s.opR).1) (some (intOp op w sgn sat s.opL s.opR).1) := by
  rw [intRow, perform_fires h]; rfl

theorem bitcRow_fires {s : State} {x : Instr} (h : fires s x) (w : IntWidth) (fn : Nat → Nat → Nat) :
    bitcRow (formOf x) w fn s =
      delivers s s (formOf x).ta (formOf x).tb (some (wordOfNat (fn (widthOf w) (s.opL.toNat % 2 ^ widthOf w))))
        (some (wordOfNat (fn (widthOf w) (s.opL.toNat % 2 ^ widthOf w)))) :=
  valueOp_fires h _

theorem fopRow_fires {s : State} {x : Instr} (h : fires s x) (op : FOp) (fmt : FloatFmt) (rm : Rm) (pk sat : Bool) :
    let w := fmtWidth (floatData fmt)
    let v := laneWise fmt pk fun k =>
      fopLane (scalarEnv s s.me s.focus.slot rm) (floatData fmt) op sat k (laneOf w k s.opL) (laneOf w k s.opR)
        (laneOf w k s.opT)
    fopRow (formOf x) op fmt rm pk sat s =
      delivers s (raiseFlags s s.me v.2) (formOf x).ta (formOf x).tb (some v.1) (some v.1) :=
  flagOp_fires h _

theorem fminRow_fires {s : State} {x : Instr} (h : fires s x) (isMax : Bool) (fmt : FloatFmt) (pk prop : Bool) :
    let w := fmtWidth (floatData fmt)
    let v := laneWise fmt pk fun k =>
      fminLane (scalarEnv s s.me s.focus.slot .rne) (floatData fmt) isMax prop (laneOf w k s.opL) (laneOf w k s.opR)
    fminRow (formOf x) isMax fmt pk prop s =
      delivers s (raiseFlags s s.me v.2) (formOf x).ta (formOf x).tb (some v.1) (some v.1) :=
  flagOp_fires h _

theorem sfuRow_fires {s : State} {x : Instr} (h : fires s x) (fn : Sfu) :
    let v := sfuOf (scalarEnv s s.me s.focus.slot .rne) fn (s.opL.toNat % 2 ^ 32)
    sfuRow (formOf x) fn s =
      delivers s (raiseFlags s s.me v.2) (formOf x).ta (formOf x).tb (some (wordOfNat v.1)) (some (wordOfNat v.1)) :=
  flagOp_fires h _

theorem quantRow_fires {s : State} {x : Instr} (h : fires s x) (fn : FEnv → ElemFmt → Nat → Nat → Nat × Flags6)
    (rm : Rm) (hq : qOperandOk s.opR = true) :
    let v := fn (scalarEnv s s.me s.focus.slot rm) (elemOf s.opR) (s.opR.toNat % 256) s.opL.toNat
    quantRow (formOf x) fn rm s =
      delivers s (raiseFlags s s.me v.2) (formOf x).ta (formOf x).tb (some (wordOfNat v.1)) (some (wordOfNat v.1)) := by
  rw [quantRow, perform_fires h, hq]; rfl

theorem valueOp_next (f : Form) (s : State) (v : Word → Word → Word → Word) : isNext (valueOp f s v) = true :=
  perform_next f s _

theorem flagOp_next (f : Form) (s : State) (v : State → CoreId → Nat → Word → Word → Word → Word × Flags6) :
    isNext (flagOp f s v) = true := perform_next f s _

/-! ### Operand limits -/

theorem limit_ok (s : State) (c : CoreId) (i detail : Nat) (k : State → State) : limit s c i true detail k = k s := rfl

theorem limit_bad (s : State) (c : CoreId) (i detail : Nat) (k : State → State) :
    limit s c i false detail k = blockFault s c (some i) 0x0114 detail := rfl

theorem limitLa_ok {s : State} {c : CoreId} {i la al detail : Nat} {k : State → State}
    (h1 : la < (if coreIsControl c then Config.localBytes else Config.leafBytes)) (h2 : la % al = 0) :
    limitLa s c i la al detail k = k s := by
  simp [limitLa, Nat.not_le.mpr h1, h2]

theorem limitLa_range {s : State} {c : CoreId} {i la al detail : Nat} {k : State → State}
    (h1 : (if coreIsControl c then Config.localBytes else Config.leafBytes) ≤ la) :
    limitLa s c i la al detail k = blockFault s c (some i) 0x0114 detail := by
  simp [limitLa, h1]

theorem limitLa_align {s : State} {c : CoreId} {i la al detail : Nat} {k : State → State}
    (h1 : la < (if coreIsControl c then Config.localBytes else Config.leafBytes)) (h2 : la % al ≠ 0) :
    limitLa s c i la al detail k = blockFault s c (some i) 0x0115 detail := by
  simp [limitLa, Nat.not_le.mpr h1, h2]

theorem limitVa_ok {s : State} {c : CoreId} {i va al detail : Nat} {k : State → State}
    (h1 : va < 2 ^ 52) (h2 : va % al = 0) : limitVa s c i va al detail k = k s := by
  simp only [limitVa, if_neg (Nat.not_le.mpr h1), h2, ne_eq, not_true_eq_false, if_false]

theorem limitVa_range {s : State} {c : CoreId} {i va al detail : Nat} {k : State → State} (h1 : 2 ^ 52 ≤ va) :
    limitVa s c i va al detail k = blockFault s c (some i) 0x0114 detail := by
  simp only [limitVa, if_pos h1]

theorem limitVa_align {s : State} {c : CoreId} {i va al detail : Nat} {k : State → State}
    (h1 : va < 2 ^ 52) (h2 : va % al ≠ 0) :
    limitVa s c i va al detail k = blockFault s c (some i) 0x0115 detail := by
  simp only [limitVa, if_neg (Nat.not_le.mpr h1), if_pos h2]

/-! ### Accesses -/

theorem padAccess_ok {s : State} {la n acc : Nat} {rel act : Bool} (h : mayPad s la n acc rel act) (i : Nat)
    (k : State → State) : padAccess s s.focus.core i la n acc rel act k = k s := by
  obtain ⟨h3, h4, h5, h6⟩ := h
  unfold State.me at *
  unfold padAccess
  simp only [h3, h4, h5, h6, Bool.false_eq_true, if_false]

theorem leafAccess_ok {s : State} {la n acc : Nat} {rel act : Bool} (h : mayAccess s la n acc rel act) (i : Nat)
    (k : State → State) : leafAccess s s.focus.core i la n acc rel act k = k s := by
  obtain ⟨h1, h2, h3⟩ := h
  have h4 := padAccess_ok h3 i k
  unfold State.me at *
  rw [leafAccess, limitLa_ok h1 h2, h4]

theorem mbarAccess_ok {s : State} {la : Nat} {ok rel : Bool} (h : mayMbar s la ok rel) (i : Nat) (k : State → State) :
    mbarAccess s s.focus.core i la ok rel k = k s := by
  obtain ⟨h1, h2, h3, h4⟩ := h
  have hr : la < (if coreIsControl s.focus.core then Config.localBytes else Config.leafBytes) := h4.1
  unfold State.me at h2
  rw [mbarAccess, limitLa_ok hr h1, h2, limit_ok, h3, limit_ok, leafAccess_ok h4]

theorem request_ok {s : State} {va n : Nat} {rel : Bool} {scope : Scope} (h : mayRequest s va n rel scope)
    (write act acq : Bool) (op : ReqOp) :
    .next (request s s.focus.core s.focus.slot va n write act acq rel scope op) =
      sends s (focusRequest s va n write act acq rel scope op) := by
  obtain ⟨h1, h2, h3⟩ := h
  unfold State.me at *
  rw [request, limitVa_ok h1 h2]
  simp only [h3, Bool.false_eq_true, if_false]
  rfl

end Sys2Proof.Machine
end

