-- ==== Sys2Proof/Laws/Records.lean ====
section
/-!
SUPPORT. What writing an error record can change: the log, the queues, and the number that records are drawn with.
-/

set_option Elab.async false

namespace Sys2Proof.Machine

/-- Two states that differ only in what the delivery of records touches. -/
def Recorded (s t : State) : Prop :=
  ∃ (n : Nat) (seqs : Table Nat) (log : List (Nat × List Byte)) (lost : Nat) (cs : List Context) (host : Memory)
    (irqs : List Nat) (cores : List Core) (folios : List Folio) (hubs : List Nat),
    t = { s with nextId := n, seqs := seqs, log := log, logLost := lost, contexts := cs, host := host, irqs := irqs, cores := cores,
                 folios := folios, hubClocks := hubs }

theorem Recorded.refl (s : State) : Recorded s s := ⟨_, _, _, _, _, _, _, _, _, _, rfl⟩

theorem Recorded.trans {s t u : State} (h : Recorded s t) (k : Recorded t u) : Recorded s u := by
  obtain ⟨_, _, _, _, _, _, _, _, _, _, rfl⟩ := h
  obtain ⟨a, b, c, d, e, f, g, i, j, l, rfl⟩ := k
  exact ⟨a, b, c, d, e, f, g, i, j, l, rfl⟩

theorem Recorded.ite {s a b : State} {p : Prop} [Decidable p] (h : Recorded s a) (k : Recorded s b) :
    Recorded s (if p then a else b) := by split <;> assumption

theorem Recorded.modContext (s : State) (k : Nat) (f : Context → Context) : Recorded s (s.modContext k f) :=
  ⟨_, _, _, _, lmod s.contexts k f, _, _, _, _, _, rfl⟩

theorem Recorded.modCore (s : State) (k : Nat) (f : Core → Core) : Recorded s (s.modCore k f) :=
  ⟨_, _, _, _, _, _, _, lmod s.cores k f, _, _, rfl⟩

theorem Recorded.hostWrite (s : State) (a : Nat) (bs : List Byte) : Recorded s (hostWrite s a bs) :=
  ⟨_, _, _, _, _, s.host.write a bs, _, _, _, _, rfl⟩

theorem Recorded.irq (s : State) (irqs : List Nat) : Recorded s { s with irqs := irqs } :=
  ⟨_, _, _, _, _, _, irqs, _, _, _, rfl⟩

theorem Recorded.seq (s : State) (n : Nat) (seqs : Table Nat) : Recorded s { s with nextId := n, seqs := seqs } :=
  ⟨n, seqs, _, _, _, _, _, _, _, _, rfl⟩

theorem Recorded.tickClock (s : State) (f : Nat) : Recorded s (tickClock s f) := by
  unfold Machine.tickClock; split
  · exact ⟨_, _, _, _, _, _, _, _, _, _, rfl⟩
  · exact ⟨_, _, _, _, _, _, _, _, _, _, rfl⟩

theorem Recorded.enterLog (s : State) (num : Nat) (r : Report) (seq cycles : Nat) :
    Recorded s (enterLog s num r seq cycles) := by
  unfold Machine.enterLog; split
  · exact ⟨_, _, _, 0, _, _, _, lmod s.cores (trapCore s r.folio) fun c => { c with news := true }, _, _, rfl⟩
  · exact ⟨_, _, _, s.logLost + 1, _, _, _, _, _, _, rfl⟩

theorem Recorded.raiseVector (s : State) (reg : Nat) : Recorded s (raiseVector s reg) := by
  unfold Machine.raiseVector; split
  · exact .irq ..
  · exact .refl s

theorem Recorded.enterQueue (s : State) (k : Nat) (r : Report) (seq cycles : Nat) :
    Recorded s (enterQueue s k r seq cycles) := by
  unfold Machine.enterQueue; dsimp only
  split
  · exact .modContext ..
  · split
    · exact .modContext ..
    · exact ((Recorded.hostWrite ..).trans (.modContext ..)).trans (.raiseVector ..)

/-- Everything that the delivery of a record can change. -/
theorem Recorded.emitRecord (s : State) (r : Report) (lo : Bool) : Recorded s (emitRecord s r lo).2 := by
  unfold Machine.emitRecord State.fresh; dsimp only
  have h0 := (Recorded.seq s (s.nextId + 1) (tset s.seqs (sourceKey r) (((tget s.seqs (sourceKey r)).getD 0 + 1) % 2 ^ 32))).trans
    (.tickClock _ r.folio)
  revert h0
  generalize Machine.tickClock _ r.folio = v
  intro h0
  have h1 := h0.trans (.enterLog v s.nextId r (((tget s.seqs (sourceKey r)).getD 0 + 1) % 2 ^ 32) (clockOf v r.folio))
  revert h1
  generalize Machine.enterLog v s.nextId r _ _ = u
  intro h1
  have h2 : Recorded s (match r.ctx with
      | some k => if (r.sev != sevCorrected) = true ∧ 1 ≤ k ∧ (!lo) = true then
          Machine.enterQueue u k r (((tget s.seqs (sourceKey r)).getD 0 + 1) % 2 ^ 32) (clockOf v r.folio) else u
      | none => u) := by
    cases r.ctx with
    | none => exact h1
    | some k => exact .ite (h1.trans (.enterQueue ..)) h1
  have h3 : ∀ w, Recorded s w → ∀ (p : Prop) [Decidable p] (l : List Nat),
      Recorded s (if p then { w with irqs := l } else w) :=
    fun w hw p _ l => .ite (hw.trans (.irq w l)) hw
  exact h3 _ (.ite (h2.trans (.modCore ..)) h2) _ _

theorem Recorded.writeRecord (s : State) (r : Report) : Recorded s (writeRecord s r) := .emitRecord s r false

/-- What a record's delivery leaves alone. -/
theorem Recorded.keeps {s t : State} (h : Recorded s t) :
    t.leaves = s.leaves ∧ t.gaths = s.gaths ∧ t.quires = s.quires ∧ t.hbm = s.hbm ∧ t.hbmBad = s.hbmBad ∧ t.shadow = s.shadow ∧
    t.config = s.config ∧ t.pending = s.pending ∧ t.badBatch = s.badBatch ∧ t.insts = s.insts ∧ t.reqs = s.reqs ∧
    t.copies = s.copies ∧ t.focus = s.focus ∧ t.papers = s.papers ∧ t.opens = s.opens := by
  obtain ⟨_, _, _, _, _, _, _, _, _, _, rfl⟩ := h
  exact ⟨rfl, rfl, rfl, rfl, rfl, rfl, rfl, rfl, rfl, rfl, rfl, rfl, rfl, rfl, rfl⟩

end Sys2Proof.Machine
end

