-- ==== Sys2Proof/Laws/Frames.lean ====
section
/-!
SUPPORT. What deliveries leave alone: a block in flight, its sends and its fault are all that they touch.
-/

set_option Elab.async false

namespace Sys2Proof.Machine

theorem framed.refl (s : State) : framed s s :=
  ⟨fun _ => rfl, fun _ => rfl, fun _ => rfl, fun _ => rfl, rfl, fun _ => ⟨rfl, rfl, rfl, rfl, rfl, rfl, rfl, rfl, rfl, rfl, rfl, rfl⟩⟩

theorem framed.focus {s t : State} (h : framed s t) : t.focus = s.focus  := by
  have e : t.kept.focus = s.kept.focus := by rw [h.rest]
  exact e

theorem framed.me {s t : State} (h : framed s t) : t.me = s.me := by rw [State.me, h.focus, State.me]

theorem framed.trans {s t u : State} (h : framed s t) (k : framed t u) : framed s u where
  strand c := (k.strand c).trans (h.strand c)
  leaf n := (k.leaf n).trans (h.leaf n)
  core n := (k.core n).trans (h.core n)
  gath g := (k.gath g).trans (h.gath g)
  rest := k.rest.trans h.rest
  leafOnly c := by
    obtain ⟨a, b, d, e, f, g, i, j, l, m, n, o⟩ := h.leafOnly c
    obtain ⟨a', b', d', e', f', g', i', j', l', m', n', o'⟩ := k.leafOnly (by rw [h.me]; exact c)
    exact ⟨a'.trans a, b'.trans b, d'.trans d, e'.trans e, f'.trans f, g'.trans g, i'.trans i, j'.trans j, l'.trans l,
      m'.trans m, n'.trans n, o'.trans o⟩

theorem framed.handler {s t : State} (h : framed s t) (k : Nat) : (t.core k).handler = (s.core k).handler  := by
  have e : (t.core k).kept.handler = (s.core k).kept.handler := by rw [h.core k]
  exact e

/-- No control core that could fault here is in handler mode. -/
def calm (s : State) : Prop := ∀ k, s.me = .control k → (s.core k.val).handler = false

theorem framed.calm {s t : State} (h : framed s t) (c : calm s) : calm t := fun k e => by
  rw [h.handler]; exact c k (by rw [← e, h.me])

/-- An update of a strand that keeps all but its block and its fault. -/
theorem framed_modStrand (s : State) (c : CoreId) (f : Strand → Strand) (hf : ∀ x, (f x).kept = x.kept) :
    framed s (s.modStrand c f) where
  strand d := by
    by_cases e : c = d
    · subst e
      by_cases h : s.hasCore c = true
      · rw [State.strand_modStrand_self s c f h, hf]
      · cases c with
        | strand n t =>
          simp only [State.hasCore, decide_eq_true_eq, Nat.not_lt] at h
          simp [State.modStrand, State.strand, h]
        | control k =>
          simp only [State.hasCore, decide_eq_true_eq] at h
          simp [State.modStrand, State.strand, State.core_modCore, h]
    · rw [State.strand_modStrand_ne s c d f e]
  leaf n := by
    cases c with
    | strand m t => simp only [State.modStrand, State.leaf_modLeaf]; split <;> rfl
    | control k => rfl
  core n := by
    cases c with
    | strand m t => rfl
    | control k => simp only [State.modStrand, State.core_modCore]; split <;> rfl
  gath g := by cases c <;> rfl
  rest := by cases c <;> rfl
  leafOnly h := by cases c <;> exact ⟨rfl, rfl, rfl, rfl, rfl, rfl, rfl, rfl, rfl, rfl, rfl, rfl⟩

theorem framed_modBlock (s : State) (c : CoreId) (f : Block → Block) : framed s (s.modBlock c f) :=
  framed_modStrand s c _ fun _ => rfl

theorem framed_modSlot (s : State) (c : CoreId) (i : Nat) (f : Slot → Slot) : framed s (s.modSlot c i f) :=
  framed_modBlock s c _

/-- An update of a leaf that keeps all but its strands' blocks and its sends. -/
theorem framed_modLeaf (s : State) (n : Nat) (f : Leaf → Leaf) (hf : ∀ x, (f x).kept = x.kept)
    (hs : ∀ x, (f x).strands = x.strands) : framed s (s.modLeaf n f) where
  strand d := by
    cases d with
    | strand m u =>
      simp only [State.strand, State.leaf_modLeaf]
      split
      · rw [hs]
      · rfl
    | control k => rfl
  leaf m := by rw [State.leaf_modLeaf]; split <;> simp only [hf]
  core _ := rfl
  gath _ := rfl
  rest := rfl
  leafOnly _ := ⟨rfl, rfl, rfl, rfl, rfl, rfl, rfl, rfl, rfl, rfl, rfl, rfl⟩

/-- An entry of a queue of a gathering. -/
theorem framed_modGath (s : State) (g : Nat) (f : Gathering → Gathering) (hf : ∀ x, (f x).kept = x.kept) :
    framed s (s.modGath g f) where
  strand d := by cases d <;> simp [State.strand]
  leaf m := by simp
  core m := by simp
  gath j := by
    rw [State.gath_modGath]
    split
    · cases s.gath j <;> simp [hf]
    · rfl
  rest := by unfold State.modGath; split <;> rfl
  leafOnly _ := by unfold State.modGath; split <;> exact ⟨rfl, rfl, rfl, rfl, rfl, rfl, rfl, rfl, rfl, rfl, rfl, rfl⟩

/-- The news of a record changes nothing else of a core. -/
theorem core_news (s : State) (k j : Nat) :
    ∃ b, (s.modCore k fun c => { c with news := true }).core j = { s.core j with news := b } := by
  rw [State.core_modCore]
  split
  · exact ⟨true, rfl⟩
  · exact ⟨(s.core j).news, rfl⟩

/-- The cycle counts are no part of what is kept. -/
theorem map_cycles (xs : List Folio) (f d : Nat) :
    (lmod xs f fun x => { x with cycles := x.cycles + d }).map (fun x => { x with cycles := 0 }) =
      xs.map fun x => { x with cycles := 0 } := by
  induction xs generalizing f with
  | nil => rfl
  | cons x xs ih =>
    cases f with
    | zero => rfl
    | succ f => simp only [lmod, List.map_cons, ih]

/-- An advance of a clock changes its cycle count alone. -/
theorem tickClock_form (s : State) (f : Nat) : ∃ folios hubs,
    (folios : List Folio).map (fun x => { x with cycles := 0 }) = s.folios.map (fun x => { x with cycles := 0 }) ∧
      tickClock s f = { s with folios := folios, hubClocks := hubs } := by
  unfold tickClock; split
  · exact ⟨_, _, map_cycles s.folios f _, rfl⟩
  · exact ⟨_, _, rfl, rfl⟩

/-- A record for the device log alone, or of a corrected error, changes the log and its clock, and gives a core its news. -/
theorem emitRecord_log (s : State) (r : Report) (lo : Bool) (h : (r.sev != sevCorrected && !lo) = false) :
    ∃ log lost seqs cores folios hubs, (∀ j, ∃ b, cores.getD j {} = { s.core j with news := b }) ∧
      (folios : List Folio).map (fun x => { x with cycles := 0 }) = s.folios.map (fun x => { x with cycles := 0 }) ∧
      (emitRecord s r lo).2 = { s with
        nextId := s.nextId + 1, log := log, logLost := lost, seqs := seqs, cores := cores, folios := folios, hubClocks := hubs } := by
  unfold emitRecord State.fresh enterLog
  dsimp only
  have h1 : ¬((r.sev != sevCorrected) = true ∧ (!lo) = true) := by rw [← Bool.and_eq_true, h]; decide
  have h2 : ∀ p, ¬((r.sev != sevCorrected) = true ∧ p ∧ (!lo) = true) := fun p a => h1 ⟨a.1, a.2.2⟩
  have h3 : ∀ p q, ¬((r.sev != sevCorrected) = true ∧ p ∧ (!lo) = true ∧ q) := fun p q a => h1 ⟨a.1, a.2.2.1⟩
  simp only [h1, h2, h3, if_false]
  obtain ⟨folios, hubs, hf, e⟩ := tickClock_form
    { s with nextId := s.nextId + 1, seqs := tset s.seqs (sourceKey r) (((tget s.seqs (sourceKey r)).getD 0 + 1) % 2 ^ 32) } r.folio
  rw [e]
  dsimp only
  generalize logRoom s.log r.sev = m
  cases m with
  | none => cases r.ctx <;> exact ⟨_, _, _, _, folios, hubs, fun j => ⟨(s.core j).news, rfl⟩, hf, rfl⟩
  | some l => cases r.ctx <;> exact ⟨_, _, _, _, folios, hubs, fun j => core_news s _ j, hf, rfl⟩

/-- A record in the log, and its news. -/
theorem framed_news (s : State) (cores : List Core) (log : List (Nat × List Byte)) (lost : Nat) (seqs : Table Nat) (id : Nat)
    (folios : List Folio) (hubs : List Nat)
    (hn : ∀ j, ∃ b, cores.getD j {} = { s.core j with news := b })
    (hf : folios.map (fun x => { x with cycles := 0 }) = s.folios.map (fun x => { x with cycles := 0 }))
    (hc : coreIsControl s.me = false → False) :
    framed s { s with
      nextId := id, log := log, logLost := lost, seqs := seqs, cores := cores, folios := folios, hubClocks := hubs } where
  strand d := by
    cases d with
    | strand m u => rfl
    | control j =>
      obtain ⟨b, e⟩ := hn j.val
      change (cores.getD j.val {}).strand.kept = (s.core j.val).strand.kept
      rw [e]
  leaf _ := rfl
  core j := by
    obtain ⟨b, e⟩ := hn j
    change (cores.getD j {}).kept = (s.core j).kept
    rw [e]; rfl
  gath _ := rfl
  rest := by unfold State.kept; dsimp only; rw [hf]
  leafOnly x := (hc x).elim

/-- A control core's block is abandoned at a fault, and its exception is due. -/
theorem framed_abandoned (s : State) (k : Fin 16) (cls d : Nat) (h : (s.core k.val).handler = false)
    (hc : coreIsControl s.me = false → False) :
    framed s (if ((abandon s k).core k.val).handler = true then haltCore (abandon s k) k.val
      else (abandon s k).modCore k.val fun x =>
        { x with
          cause := some (((x.strand.block.map Block.addr).getD x.strand.pc), cls, d)
          strand := { x.strand with block := none, faulted := true } }) := by
  have h2 : ((abandon s k).core k.val).handler = false := h
  rw [h2]
  refine ⟨fun d => ?_, fun _ => rfl, fun j => ?_, fun _ => rfl, rfl, fun x => (hc x).elim⟩
  · cases d with
    | strand m u => rfl
    | control j =>
      simp only [State.strand, Bool.false_eq_true, if_false, State.core_modCore]
      split <;> rfl
  · simp only [Bool.false_eq_true, if_false, State.core_modCore]
    split <;> rfl

/-- A fault of a strand in whose handler mode no core stands. -/
theorem framed_raiseFault (s : State) (c : CoreId) (r : Report) (d : Nat) (hc : c = s.me) (h : calm s) :
    framed s (raiseFault s c r d) := by
  cases c with
  | strand n t =>
    unfold raiseFault; dsimp only
    split
    · exact .refl s
    · have h1 := framed_modStrand s (.strand n t) (fun st => { st with faulted := true }) fun _ => rfl
      split
      · exact h1.trans (framed_modGath _ _ _ fun _ => rfl)
      · exact h1
  | control k =>
    unfold raiseFault; dsimp only
    obtain ⟨log, lost, seqs, cores, folios, hubs, hn, hf, e⟩ :=
      emitRecord_log s { r with sev := sevStalled, tag := none, where_ := 0 } true (Bool.and_false _)
    rw [e]
    refine .trans (framed_news s cores log lost seqs (s.nextId + 1) folios hubs hn hf fun x => ?_)
      (framed_abandoned _ k (r.cls) d ?_ fun x => ?_)
    · rw [← hc] at x; cases x
    · obtain ⟨b, e⟩ := hn k.val
      change (cores.getD k.val {}).handler = false
      rw [e]; exact h k hc.symm
    · change coreIsControl s.me = false at x
      rw [← hc] at x; cases x

theorem framed_blockFault (s : State) (c : CoreId) (i : Option Nat) (cls d : Nat) (hc : c = s.me) (h : calm s) :
    framed s (blockFault s c i cls d) := by
  unfold blockFault; split
  · exact framed_raiseFault s c _ d hc h
  · exact .refl s

theorem framed_produce (s : State) (c : CoreId) : framed s (produce s c) := framed_modBlock s c _

theorem framed_pendWrite (s : State) (c : CoreId) (i g : Nat) (v : Word) (hc : c = s.me) (h : calm s) :
    framed s (pendWrite s c i g v) := by
  unfold pendWrite; split
  · split
    · exact framed_blockFault s c _ _ _ hc h
    · exact framed_modBlock s c _
  · exact .refl s

theorem framed_arrive (s : State) (c : CoreId) (k : OpndKind) (j : Nat) (v : Option Word) (hc : c = s.me) (h : calm s) :
    framed s (arrive s c k j v) := by
  unfold arrive; dsimp only; split
  · exact framed_blockFault s c _ _ _ hc h
  · exact framed_modSlot s c j _
  · exact framed_modSlot s c j _

theorem framed_sendOver (s : State) (x : Claim) (p : Nat) : framed s (sendOver s x p) := by
  unfold sendOver; split
  · exact framed_modSlot s _ _ _
  · exact .refl s

/-- What the block core sends enters its port. -/
theorem framed_enterFrom (s : State) (n p : Nat) (r : SendReq) (t : Token) : framed s (enterFrom s n p r t) := by
  unfold enterFrom; dsimp only
  have h : ∀ x : Token, framed s (enterPort s n p x) := fun x => framed_modLeaf s n _ (fun _ => rfl) fun _ => rfl
  split
  · exact (h _).trans (framed_modLeaf _ n _ (fun _ => rfl) fun _ => rfl)
  · exact h _

theorem framed_pumpPort (n p : Nat) : ∀ (fuel : Nat) (s : State), framed s (pumpPort n p fuel s)
  | 0, s => .refl s
  | fuel + 1, s => by
    unfold pumpPort
    split
    · split
      · split
        · rename_i r _ _ x _ _
          have h0 : framed s (enterFrom s n p r x) := framed_enterFrom s n p r x
          have h1 := h0.trans ((framed_modLeaf _ n (fun l => { l with sendq := l.sendq.erase r }) (fun _ => rfl) fun _ => rfl).trans
            (framed_sendOver _ (sendClaim n r) p))
          dsimp only
          refine .trans ?_ (framed_pumpPort n p fuel _)
          split
          · exact h1.trans (framed_produce _ _)
          · exact h1
        · exact .refl s
      · exact .refl s
    · exact .refl s

theorem framed_foldl {α : Type} (f : State → α → State) (hf : ∀ s x, framed s (f s x)) :
    ∀ (xs : List α) (s : State), framed s (xs.foldl f s)
  | [], s => .refl s
  | x :: xs, s => (hf s x).trans (framed_foldl f hf xs (f s x))

theorem framed_pumpSends (s : State) (n : Nat) : framed s (pumpSends s n) :=
  framed_foldl _ (fun s p => framed_pumpPort n p _ s) _ s

theorem framed_deliver (s : State) (c : CoreId) (i : Nat) (t : Target) (v : Option Word) (hc : c = s.me) (h : calm s) :
    framed s (deliver s c i t v) := by
  unfold deliver
  cases t with
  | none => exact .refl s
  | reg g =>
    cases v with
    | none => exact framed_produce s c
    | some w =>
      have h1 := framed_produce s c
      exact h1.trans (framed_pendWrite _ c i g.val w (hc.trans h1.me.symm) (h1.calm h))
  | port p =>
    cases hl : coreLeaf c with
    | none => cases v <;> exact framed_produce s c
    | some n =>
      cases v with
      | none =>
        have h1 := (framed_sendOver s (claimOf s c i) p.val).trans (framed_produce _ c)
        exact h1.trans (framed_pumpSends _ n)
      | some w =>
        have h1 := framed_modLeaf s n (fun l =>
          { l with sendq := l.sendq ++ [⟨coreIndex c, i, (s.strand c).blkinrnd, p.val, some (valueToken w)⟩] }) (fun _ => rfl) fun _ => rfl
        exact h1.trans (framed_pumpSends _ n)
  | opnd k j => exact framed_arrive s c k j.val v hc h

/-- Deliveries of an instruction leave alone all but the block in flight, its sends and its fault. -/
theorem framed_deliver2 (s : State) (c : CoreId) (i : Nat) (ta tb : Target) (va vb : Option Word) (hc : c = s.me) (h : calm s) :
    framed s (deliver2 s c i ta tb va vb) := by
  have h1 := framed_modSlot s c i fun x => { x with status := .done }
  have c1 : c = (s.modSlot c i fun x => { x with status := .done }).me := hc.trans h1.me.symm
  have h2 := h1.trans (framed_deliver _ c i ta va c1 (h1.calm h))
  exact h2.trans (framed_deliver _ c i tb vb (hc.trans h2.me.symm) (h2.calm h))

theorem framed_raiseFlags (s : State) (c : CoreId) (f : Flags6) : framed s (raiseFlags s c f) := by
  unfold raiseFlags; exact framed_modBlock s c _

theorem framed_stay (s : State) (c : CoreId) (i : Nat) : framed s (stay s c i) := framed_modSlot s c i _

/-- A performing instruction of class V: its frame is that of what it does. -/
theorem framed_perform {f : Form} {s t : State} {act : State → CoreId → Nat → Word → Word → Word → State} (hf : f.cls = .value)
    (h : calm s) (ha : ∀ l r o, framed s (act s s.focus.core s.focus.slot l r o)) (e : perform f s act = .next t) :
    framed s t := by
  unfold perform at e; dsimp only at e
  split at e
  · cases e; exact .refl s
  · split at e
    · cases e; unfold nullify; rw [hf]; exact framed_deliver2 s _ _ _ _ _ _ rfl h
    · cases e; exact ha ..

/-- Deliveries after flags are raised. -/
theorem framed_flagged (s : State) (fl : Flags6) (i : Nat) (ta tb : Target) (va vb : Option Word) (h : calm s) :
    framed s (deliver2 (raiseFlags s s.focus.core fl) s.focus.core i ta tb va vb) := by
  have h1 := framed_raiseFlags s s.focus.core fl
  exact h1.trans (framed_deliver2 _ s.focus.core i ta tb va vb h1.me.symm (h1.calm h))

theorem framed_valueOp {f : Form} {s t : State} {v : Word → Word → Word → Word} (hf : f.cls = .value) (h : calm s)
    (e : valueOp f s v = .next t) : framed s t :=
  framed_perform hf h (fun _ _ _ => framed_deliver2 s _ _ _ _ _ _ rfl h) e

theorem framed_flagOp {f : Form} {s t : State} {v : State → CoreId → Nat → Word → Word → Word → Word × Flags6}
    (hf : f.cls = .value) (h : calm s) (e : flagOp f s v = .next t) : framed s t :=
  framed_perform hf h (fun _ _ _ => framed_flagged s _ _ _ _ _ _ h) e

theorem framed_intRow {f : Form} {op : IOp} {w : IntWidth} {sgn sat : Bool} {s t : State} (hf : f.cls = .value) (h : calm s)
    (e : intRow f op w sgn sat s = .next t) : framed s t :=
  framed_perform hf h (fun _ _ _ => framed_flagged s _ _ _ _ _ _ h) e

/-- An operand limit that does not hold is a fault; one that holds leaves what follows. -/
theorem framed_limit (s : State) (i : Nat) (ok : Bool) (d : Nat) (k : State → State) (h : calm s) (hk : framed s (k s)) :
    framed s (limit s s.focus.core i ok d k) := by
  unfold limit; split
  · exact hk
  · exact framed_blockFault s _ _ _ _ rfl h

theorem framed_quantRow {f : Form} {fn : FEnv → ElemFmt → Nat → Nat → Nat × Flags6} {rm : Rm} {s t : State}
    (hf : f.cls = .value) (h : calm s) (e : quantRow f fn rm s = .next t) : framed s t :=
  framed_perform hf h (fun _ _ _ => framed_limit s _ _ _ _ h (framed_flagged s _ _ _ _ _ _ h)) e


/-! ### What a write of a leaf leaves alone -/

/-- The parts of a range lie within the range, and each within one line. -/
theorem lineParts_mem {p : Nat × Nat} : ∀ {fuel a n : Nat}, p ∈ lineParts fuel a n → a ≤ p.1 ∧ p.1 + p.2 ≤ a + n ∧ p.1 % 64 + p.2 ≤ 64
  | 0, _, _, h => by simp [lineParts] at h
  | fuel + 1, a, n, h => by
    unfold lineParts at h
    split at h
    · cases h
    · dsimp only at h
      rcases List.mem_cons.1 h with rfl | h
      · dsimp only; omega
      · have := lineParts_mem h
        omega

/-- The parts cover the range: its first byte starts a part, unless it is empty. -/
theorem lineParts_starts : ∀ {fuel a n x : Nat}, n ≤ 64 * fuel → (a % 64 + n ≤ 64 * fuel) → a ≤ x → x < a + n →
    ∃ p ∈ lineParts fuel a n, p.1 ≤ x ∧ x < p.1 + p.2
  | 0, a, n, x, h, _, h1, h2 => by omega
  | fuel + 1, a, n, x, h, h', h1, h2 => by
    unfold lineParts
    rw [if_neg (by omega)]
    dsimp only
    by_cases c : x < a + min n (64 - a % 64)
    · exact ⟨_, List.mem_cons_self .., h1, c⟩
    · obtain ⟨p, hp, e⟩ := lineParts_starts (fuel := fuel) (a := a + min n (64 - a % 64)) (n := n - min n (64 - a % 64))
        (x := x) (by omega) (by omega) (by omega) (by omega)
      exact ⟨p, List.mem_cons_of_mem _ hp, e⟩

/-- `l'` reads as `l` at one address, and its memory is as well formed. -/
structure readsAs (l l' : Leaf) (a : Nat) : Prop where
  swap  : l'.swap = l.swap
  partw : l'.partw = l.partw
  base  : l'.base = l.base
  stale : l'.stale = l.stale
  wf    : l'.mem.wf = true
  mem   : l'.mem.get (physOf l a) = l.mem.get (physOf l a)
  here  : (l'.touched.any fun p => decide (p.1 ≤ a) && decide (a < p.1 + p.2)) =
    (l.touched.any fun p => decide (p.1 ≤ a) && decide (a < p.1 + p.2))

theorem readsAs.refl {l : Leaf} (w : l.mem.wf = true) (a : Nat) : readsAs l l a := ⟨rfl, rfl, rfl, rfl, w, rfl, rfl⟩

theorem physOf_swap {l l' : Leaf} (h : l'.swap = l.swap) (a : Nat) : physOf l' a = physOf l a := by
  unfold physOf; rw [h]

theorem readsAs.trans {l l' l'' : Leaf} {a : Nat} (h : readsAs l l' a) (k : readsAs l' l'' a) : readsAs l l'' a where
  swap := k.swap.trans h.swap
  partw := k.partw.trans h.partw
  base := k.base.trans h.base
  stale := k.stale.trans h.stale
  wf := k.wf
  mem := by
    have := k.mem
    rw [physOf_swap h.swap] at this
    exact this.trans h.mem
  here := k.here.trans h.here

theorem readsAs.byte {l l' : Leaf} {a : Nat} (h : readsAs l l' a) (tick : Nat) : leafByte tick l' a = leafByte tick l a := by
  unfold leafByte staleAt
  rw [h.base, h.partw, h.stale, h.here, physOf_swap h.swap, h.mem]

/-- Two addresses of different bytes lie at different bytes, the parts of a range staying within a line. -/
theorem physOf_apart {l : Leaf} {a b n : Nat} (h : b < a ∨ a + n ≤ b) (hl : a % 64 + n ≤ 64) :
    physOf l b < physOf l a ∨ physOf l a + n ≤ physOf l b := by
  unfold physOf
  by_cases hs : l.swap = true <;> simp only [hs, and_true, and_false, Bool.false_eq_true, if_false]
  · by_cases h1 : a < 0x2000 <;> by_cases h2 : b < 0x2000 <;> simp only [h1, h2, if_true, if_false] <;>
      by_cases h3 : a < 0x1000 <;> by_cases h4 : b < 0x1000 <;> (try simp only [h3, h4, if_true, if_false]) <;> omega
  · exact h

theorem readsAs_storeParts {x : Nat} : ∀ (ps : List (Nat × Nat)) (bs : List Byte) (l : Leaf), l.mem.wf = true →
    (∀ p ∈ ps, (x < p.1 ∨ p.1 + p.2 ≤ x) ∧ p.1 % 64 + p.2 ≤ 64) → readsAs l (storeParts l ps bs) x
  | [], _, l, w, _ => .refl w x
  | (a, n) :: ps, bs, l, w, h => by
    obtain ⟨h1, h2⟩ := h (a, n) (List.mem_cons_self ..)
    dsimp only at h1 h2
    unfold storeParts; dsimp only
    have w' := Memory.write_wf (physOf l a) (bs.take n) w
    refine .trans ?_ (readsAs_storeParts ps (bs.drop n) _ w' fun p hp => h p (List.mem_cons_of_mem _ hp))
    refine ⟨rfl, rfl, rfl, rfl, w', ?_, ?_⟩
    · refine Memory.get_write_ne w ?_
      have := List.length_take_le n bs
      have := physOf_apart (l := l) h1 h2
      omega
    · dsimp only
      split
      · have : (decide (a ≤ x) && decide (x < a + n)) = false := by
          rcases h1 with h1 | h1 <;> simp <;> omega
        simp [this]
      · rfl

theorem journal_storeParts : ∀ (ps : List (Nat × Nat)) (bs : List Byte) (l : Leaf),
    (storeParts l ps bs).strands = l.strands ∧ (storeParts l ps bs).gath = l.gath
  | [], _, _ => ⟨rfl, rfl⟩
  | (a, n) :: ps, bs, l => by
    unfold storeParts; exact journal_storeParts ps (bs.drop n) _

/-- All that a wake of watches can change. -/
def StrandWake (f : Strand → Strand) : Prop := ∀ x, ∃ w, f x = { x with watch := w }

theorem strandWake_parts (dev : Bool) (ps : List (Nat × Nat)) :
    StrandWake fun st => ps.foldl (fun st p => wakeStrand dev (p.1 / 64) st) st := by
  induction ps with
  | nil => exact fun x => ⟨x.watch, rfl⟩
  | cons p ps ih =>
    intro x
    have h1 : ∃ w, wakeStrand dev (p.1 / 64) x = { x with watch := w } := by
      unfold wakeStrand; split
      · split <;> exact ⟨_, rfl⟩
      · exact ⟨x.watch, rfl⟩
    obtain ⟨w, e⟩ := h1
    obtain ⟨w', e'⟩ := ih { x with watch := w }
    refine ⟨w', ?_⟩
    show ps.foldl _ (wakeStrand dev (p.1 / 64) x) = _
    rw [e]; exact e'

/-- A write of a leaf: another byte of the leaf reads as before, and of its strands only watches change. -/
theorem leafWrite_spec {s t : State} {n la : Nat} {bs : List Byte} (e : leafWrite s n la bs = some t) (w : (s.leaf n).mem.wf = true) :
    ∃ l, t = s.setLeaf n l ∧
      (∀ x, (x < la ∨ la + bs.length ≤ x) → readsAs (s.leaf n) l x) ∧
      (∃ f, StrandWake f ∧ l.strands = (s.leaf n).strands.map f) ∧ l.gath = (s.leaf n).gath := by
  unfold leafWrite at e; dsimp only at e
  generalize (if leafIrrev s (s.leaf n) then [] else (journalLines (s.leaf n) (linesOf la bs.length)).dedup) = need at e
  split at e
  · cases e
  · injection e with e
    refine ⟨_, e.symm, fun x hx => ?_, ⟨_, strandWake_parts false (linesOf la bs.length), ?_⟩, ?_⟩
    · have h1 : ∀ qs, readsAs (s.leaf n) (logLines (s.leaf n) qs) x := fun qs => ⟨rfl, rfl, rfl, rfl, w, rfl, rfl⟩
      have h2 := (h1 need).trans
        (readsAs_storeParts (linesOf la bs.length) bs _ w fun p hp => by
          have := lineParts_mem hp
          exact ⟨by omega, this.2.2⟩)
      exact ⟨h2.swap, h2.partw, h2.base, h2.stale, h2.wf, h2.mem, h2.here⟩
    · rw [(journal_storeParts _ bs _).1]; rfl
    · exact (journal_storeParts _ bs _).2

/-- A byte of a leaf that a write does not cover reads as before, and so does every byte of another leaf. -/
theorem leafByte_leafWrite {s t : State} {n la : Nat} {bs : List Byte} (e : leafWrite s n la bs = some t) (w : (s.leaf n).mem.wf = true)
    (tick m x : Nat) (h : m = n → x < la ∨ la + bs.length ≤ x) : leafByte tick (t.leaf m) x = leafByte tick (s.leaf m) x := by
  obtain ⟨l, rfl, h1, -⟩ := leafWrite_spec e w
  rw [State.leaf_setLeaf]
  split
  · subst_vars; exact (h1 x (h rfl)).byte tick
  · rfl

@[simp] theorem payload_length (t : Token) : t.payload.length = 64 := rfl
@[simp] theorem mbar_bytes_length (o : Mbar) : o.bytes.length = 16 := by simp [Mbar.bytes]

/-! ### What an instruction with a store leaves alone -/

/-- `t` reads as `s` but for the n bytes at `la` of the scratchpad in focus. -/
structure stored (la n : Nat) (s t : State) : Prop where
  leaf   : ∀ m a, a < Config.leafBytes → (coreLeaf s.me = some m → a < la ∨ la + n ≤ a) →
    leafByte t.tick (t.leaf m) a = leafByte s.tick (s.leaf m) a
  core   : ∀ k a, (s.me = .control k → a < la ∨ la + n ≤ a) → (t.core k.val).mem.get a = (s.core k.val).mem.get a
  reg    : ∀ c g, g < 64 → readReg t c g = readReg s c g
  strand : ∀ c, (t.strand c).pc = (s.strand c).pc ∧ (t.strand c).fpmode = (s.strand c).fpmode ∧
    (t.strand c).fpflags = (s.strand c).fpflags
  hbm    : t.hbm = s.hbm
  host   : t.host = s.host
  ctx    : t.contexts = s.contexts
  focus  : t.focus = s.focus

theorem stored.trans {la n : Nat} {s t u : State} (h : stored la n s t) (k : stored la n t u) : stored la n s u where
  leaf m a b c := (k.leaf m a b (by rw [State.me, h.focus]; exact c)).trans (h.leaf m a b c)
  core i a c := (k.core i a (by rw [State.me, h.focus]; exact c)).trans (h.core i a c)
  reg c g b := (k.reg c g b).trans (h.reg c g b)
  strand c := ⟨(k.strand c).1.trans (h.strand c).1, (k.strand c).2.1.trans (h.strand c).2.1, (k.strand c).2.2.trans (h.strand c).2.2⟩
  hbm := k.hbm.trans h.hbm
  host := k.host.trans h.host
  ctx := k.ctx.trans h.ctx
  focus := k.focus.trans h.focus

/-- Two leaves that keep the same parts read the same. -/
theorem leafByte_kept {l l' : Leaf} (h : l'.kept = l.kept) (tick a : Nat) : leafByte tick l' a = leafByte tick l a := by
  have e : ∀ x : Leaf, leafByte tick x a = leafByte tick x.kept a := fun _ => rfl
  rw [e, h, ← e]

theorem framed.stored {s t : State} (h : framed s t) (la n : Nat) : stored la n s t := by
  have hr : ∀ (f : State → State), f t.kept = f s.kept := fun f => by rw [h.rest]
  have tick : t.tick = s.tick := by have e : t.kept.tick = s.kept.tick := by rw [h.rest]
                                    exact e
  have hbm : t.hbm = s.hbm := by have e : t.kept.hbm = s.kept.hbm := by rw [h.rest]
                                 exact e
  have host : t.host = s.host := by have e : t.kept.host = s.kept.host := by rw [h.rest]
                                    exact e
  have ctx : t.contexts = s.contexts := by have e : t.kept.contexts = s.kept.contexts := by rw [h.rest]
                                           exact e
  refine ⟨fun m a _ _ => ?_, fun k a _ => ?_, fun c g _ => ?_, fun c => ?_, hbm, host, ctx, h.focus⟩
  · rw [tick]; exact leafByte_kept (h.leaf m) _ _
  · have e : (t.core k.val).kept.mem = (s.core k.val).kept.mem := by rw [h.core]
    exact congrArg (fun m => Memory.get m a) e
  · cases c with
    | strand n t' =>
      have e : (t.leaf n).kept.mem = (s.leaf n).kept.mem := by rw [h.leaf]
      exact congrArg (fun m => wordOfNat (natOfBytes (Memory.read m (regAddr t'.val g) 8))) e
    | control k =>
      have e : (t.core k.val).kept.regs = (s.core k.val).kept.regs := by rw [h.core]
      exact congrArg (fun m => m.getD g 0) e
  · have e := h.strand c
    have a : (t.strand c).kept.pc = (s.strand c).kept.pc := by rw [e]
    have b : (t.strand c).kept.fpmode = (s.strand c).kept.fpmode := by rw [e]
    have d : (t.strand c).kept.fpflags = (s.strand c).kept.fpflags := by rw [e]
    exact ⟨a, b, d⟩

/-! ### Every memory that a sound state holds is well formed -/

theorem tget_mem {α : Type} {t : Table α} {k : Nat} {x : α} (h : tget t k = some x) : ∃ j, (j, x) ∈ t := by
  induction t with
  | nil => cases h
  | cons y ys ih =>
    obtain ⟨j, v⟩ := y
    unfold tget at h; split at h
    · cases h; exact ⟨j, List.mem_cons_self ..⟩
    · obtain ⟨i, hi⟩ := ih h
      exact ⟨i, List.mem_cons_of_mem _ hi⟩

theorem State.sound_hbm {s : State} (h : s.sound = true) : s.hbm.wf = true := by
  simp only [State.sound, Bool.and_eq_true] at h; exact h.1.1.1.1.1.1.1.1.1.1.1.1.1

theorem State.sound_leaf {s : State} (h : s.sound = true) (n : Nat) : (s.leaf n).mem.wf = true := by
  simp only [State.sound, Bool.and_eq_true] at h
  have hl : leavesWf s.leaves = true := h.1.1.1.1.1.1.1.1.1.1.1.2
  unfold State.leaf
  cases e : tget s.leaves n with
  | none => rfl
  | some x =>
    obtain ⟨j, hj⟩ := tget_mem e
    exact List.all_eq_true.1 hl _ hj

theorem State.sound_core {s : State} (h : s.sound = true) (k : Nat) : (s.core k).mem.wf = true := by
  simp only [State.sound, Bool.and_eq_true] at h
  have hc := List.all_eq_true.1 h.1.1.1.1.1.1.1.1.1.1.2
  unfold State.core
  rw [List.getD_eq_getElem?_getD]
  cases e : s.cores[k]? with
  | none => rfl
  | some x =>
    have := hc x (List.mem_of_getElem? e)
    rw [Bool.and_eq_true] at this
    exact this.1

theorem Memory.read_congr {m m' : Memory} : ∀ {n a : Nat}, (∀ i, i < n → m.get (a + i) = m'.get (a + i)) → m.read a n = m'.read a n
  | 0, _, _ => rfl
  | n + 1, a, h => by
    unfold Memory.read
    have h0 : m.get a = m'.get a := h 0 (Nat.succ_pos n)
    have h1 : m.read (a + 1) n = m'.read (a + 1) n := Memory.read_congr fun i hi => by
      have e := h (i + 1) (Nat.succ_lt_succ hi)
      rwa [Nat.add_comm i 1, ← Nat.add_assoc] at e
    rw [h0, h1]

/-- A range that a strand may write keeps away from the register region. -/
theorem laRefused_regs {w la n x : Nat} (h : laRefused w la n true = none) (h1 : 0x4000 ≤ x) (h2 : x < 0x4800) : x < la ∨ la + n ≤ x := by
  unfold laRefused at h
  split at h
  · cases h
  · rw [List.findSome?_eq_none_iff] at h
    refine Classical.byContradiction fun c => ?_
    obtain ⟨p, hp, e1, e2⟩ := lineParts_starts (fuel := n / 64 + 2) (a := la) (n := n) (x := x) (by omega) (by omega) (by omega) (by omega)
    have e3 := lineParts_mem hp
    have e4 := h p hp
    have e5 : regionOf w p.1 = .regs := by
      unfold regionOf
      rw [if_neg (by omega), if_neg (by omega), if_neg (by omega), if_pos (by omega)]
    rw [e5] at e4
    cases e4

/-- The store itself: at an address that the strand may write. -/
theorem stored_padWrite {s t : State} {la n : Nat} {bs : List Byte} (hn : bs.length = n) (hs : s.sound = true)
    (hr : coreIsControl s.me = false → laRefused (s.leaf ((coreLeaf s.me).getD 0)).partw la n true = none)
    (e : padWrite s s.me la bs = some t) : stored la n s t := by
  subst hn
  cases hc : s.me with
  | strand lf st =>
    rw [hc] at e hr
    have w := State.sound_leaf hs lf
    obtain ⟨l, rfl, h1, ⟨f, hf, h2⟩, h3⟩ := leafWrite_spec e w
    have hreg := fun x a b => laRefused_regs (x := x) (hr rfl) a b
    refine ⟨fun m a _ ha => ?_, fun _ _ _ => rfl, fun c g hg => ?_, fun c => ?_, rfl, rfl, rfl, rfl⟩
    · exact leafByte_leafWrite e w _ m a fun hm => ha (by rw [hc, hm]; rfl)
    · cases c with
      | control k => rfl
      | strand m u =>
        simp only [readReg, State.leaf_setLeaf]
        split
        · subst_vars
          refine congrArg (fun x => wordOfNat (natOfBytes x)) ?_
          refine Memory.read_congr fun i hi => ?_
          have hu := u.isLt
          have hb : 0x4000 ≤ regAddr u.val g + i ∧ regAddr u.val g + i < 0x4800 := by unfold regAddr; omega
          have := (h1 _ (hreg _ hb.1 hb.2)).mem
          rw [physOf, if_neg (by omega)] at this
          exact this
        · rfl
    · cases c with
      | control k => exact ⟨rfl, rfl, rfl⟩
      | strand m u =>
        simp only [State.strand, State.leaf_setLeaf]
        split
        · subst_vars
          rw [h2, List.getD_eq_getElem?_getD, List.getD_eq_getElem?_getD, List.getElem?_map]
          generalize (s.leaf m).strands[u.val]? = y
          cases y with
          | none => exact ⟨rfl, rfl, rfl⟩
          | some x =>
            obtain ⟨w', e'⟩ := hf x
            simp only [Option.map_some, Option.getD_some, e']
            exact ⟨trivial, trivial, trivial⟩
        · exact ⟨rfl, rfl, rfl⟩
  | control k =>
    rw [hc] at e
    injection e with e
    subst e
    refine ⟨fun _ _ _ _ => rfl, fun j a ha => ?_, fun c g hg => ?_, fun c => ?_, rfl, rfl, rfl, rfl⟩
    · simp only [State.core_modCore]
      split
      · rename_i h
        have hj : j = k := Fin.ext h.1.symm
        subst hj
        exact Memory.get_write_ne (State.sound_core hs _) (ha hc)
      · rfl
    · cases c with
      | strand m u => rfl
      | control j =>
        simp only [readReg, State.core_modCore]
        split <;> rfl
    · cases c with
      | strand m u => exact ⟨rfl, rfl, rfl⟩
      | control j =>
        simp only [State.strand, State.core_modCore]
        split
        · obtain ⟨w', e'⟩ := strandWake_parts false (linesOf la bs.length) (s.core j.val).strand
          dsimp only at e' ⊢
          rw [e']; exact ⟨rfl, rfl, rfl⟩
        · exact ⟨rfl, rfl, rfl⟩

theorem framed_performed (s : State) (c : CoreId) (i : Nat) : framed s (performed s c i) := by
  unfold performed; split
  · exact .refl s
  · have h1 := framed_modSlot s c i fun x => { x with acted := true }
    dsimp only; split
    · exact h1.trans (framed_produce _ c)
    · exact h1

/-- The completion of an instruction of a block: its output, and its deliveries. -/
theorem framed_complete (f : Form) (s : State) (c : CoreId) (i : Nat) (va vb : Option Word) (hc : c = s.me) (h : calm s) :
    framed s (complete f s c i va vb) := by
  have h1 := framed_performed s c i
  exact h1.trans (framed_deliver2 _ c i _ _ va vb (hc.trans h1.me.symm) (h1.calm h))

theorem framed_askGrantOf (s : State) (c : CoreId) : framed s (askGrantOf s c) := by
  unfold askGrantOf; split
  · exact framed_modGath s _ _ fun x => by split <;> rfl
  · exact .refl s

theorem framed_stayGrant (s : State) (c : CoreId) (i : Nat) : framed s (stayGrant s c i) :=
  (framed_stay s c i).trans (framed_askGrantOf _ c)

theorem calm_padWrite {s t : State} {la : Nat} {bs : List Byte} (h : calm s) (e : padWrite s s.me la bs = some t) : calm t ∧ t.focus = s.focus := by
  cases hc : s.me with
  | strand lf st =>
    rw [hc] at e
    have e : leafWrite s lf la bs = some t := e
    unfold leafWrite at e; dsimp only at e
    generalize (if leafIrrev s (s.leaf lf) then [] else (journalLines (s.leaf lf) (linesOf la bs.length)).dedup) = need at e
    split at e
    · cases e
    · injection e with e; subst e
      refine ⟨fun k hk => ?_, rfl⟩
      have hk : s.me = .control k := hk
      rw [hc] at hk; cases hk
  | control k =>
    rw [hc] at e
    injection e with e; subst e
    refine ⟨fun j hj => ?_, rfl⟩
    have := h j hj
    simp only [State.core_modCore]
    split
    · exact this
    · exact this

/-- A store after which the instruction is complete. -/
theorem stored_padStore {s : State} {la n i : Nat} {bs : List Byte} {k : State → State} (hn : bs.length = n) (hs : s.sound = true)
    (h : calm s) (hr : coreIsControl s.me = false → laRefused (s.leaf ((coreLeaf s.me).getD 0)).partw la n true = none)
    (hk : ∀ t, t.focus = s.focus → calm t → stored la n t (k t)) : stored la n s (padStore s s.me i la bs k) := by
  unfold padStore
  cases e : padWrite s s.me la bs with
  | none => exact (framed_stayGrant s s.me i).stored la n
  | some t =>
    have h2 := calm_padWrite h e
    exact (stored_padWrite hn hs hr e).trans (hk t h2.2 h2.1)

/-- An access to the scratchpad in focus that then stores. -/
theorem stored_leafAccess {s : State} {i la n acc : Nat} {rel act : Bool} {k : State → State} (h : calm s) (ha : acc ≠ accLoad)
    (hk : (coreIsControl s.me = false → laRefused (s.leaf ((coreLeaf s.me).getD 0)).partw la n true = none) → stored la n s (k s)) :
    stored la n s (leafAccess s s.me i la n acc rel act k) := by
  unfold leafAccess limitLa padAccess
  generalize (if coreIsControl s.me then Config.localBytes else Config.leafBytes) = top
  have hb : ∀ c d, stored la n s (blockFault s s.me c d 0) := fun c d => (framed_blockFault s s.me c d 0 rfl h).stored la n
  have hf : ∀ r d, stored la n s (raiseFault s s.me r d) := fun r d => (framed_raiseFault s s.me r d rfl h).stored la n
  have e : (acc != accLoad) = true := by simpa using ha
  split
  · exact hb _ _
  · split
    · exact hb _ _
    · dsimp only
      rw [e]
      split
      · exact hf _ _
      · rename_i hz
        split
        · exact hf _ _
        · split
          · exact (framed_stay s s.me i).stored la n
          · split
            · exact (framed_stayGrant s s.me i).stored la n
            · exact hk fun c => by simpa [c] using hz

/-! ### Instructions that store -/

theorem stored_modLeaf (s : State) (n : Nat) (f : Leaf → Leaf) (la k : Nat) (hf : ∀ x, (f x) = { x with inputs := (f x).inputs, outputs := (f x).outputs }) :
    stored la k s (s.modLeaf n f) := by
  refine ⟨fun m a _ _ => ?_, fun _ _ _ => rfl, fun c g hg => ?_, fun c => ?_, rfl, rfl, rfl, rfl⟩
  · rw [State.leaf_modLeaf]; split
    · rw [hf]; rfl
    · rfl
  · cases c with
    | control k => rfl
    | strand m u => simp only [readReg, State.leaf_modLeaf]; split
                    · rw [hf]
                    · rfl
  · cases c with
    | control k => exact ⟨rfl, rfl, rfl⟩
    | strand m u => simp only [State.strand, State.leaf_modLeaf]; split
                    · rw [hf]; exact ⟨rfl, rfl, rfl⟩
                    · exact ⟨rfl, rfl, rfl⟩
theorem hbmWrite_hbm (s : State) (pa : Nat) (bs : List Byte) : (hbmWrite s pa bs).hbm = s.hbm.write pa bs := by
  unfold hbmWrite
  have : ∀ (ps : List (Nat × Nat)) (s : State), (ps.foldl (fun s p => wakeDevice
      { s with hbmBad := if p.2 = 64 then s.hbmBad.filter (· != p.1 / 64) else s.hbmBad } (p.1 / 64)) s).hbm = s.hbm := by
    intro ps; induction ps with
    | nil => intro s; rfl
    | cons p ps ih => intro s; rw [List.foldl_cons, ih]; rfl
  rw [this]
/-- The record of a corrected error changes no register, memory or scratchpad. -/
theorem stored_corrected (s : State) (r : Report) (la k : Nat) (h : r.sev = sevCorrected) :
    stored la k s (writeRecord s r) ∧ (calm s → calm (writeRecord s r)) := by
  unfold writeRecord
  obtain ⟨log, lost, seqs, cores, folios, hubs, hn, -, e⟩ := emitRecord_log s r false (by rw [h]; rfl)
  rw [e]
  refine ⟨⟨fun _ _ _ _ => rfl, fun j _ _ => ?_, fun c g _ => ?_, fun c => ?_, rfl, rfl, rfl, rfl⟩, fun hc j hj => ?_⟩
  · obtain ⟨b, e⟩ := hn j.val
    change (cores.getD j.val {}).mem.get _ = (s.core j.val).mem.get _
    rw [e]
  · cases c with
    | strand m u => rfl
    | control j =>
      obtain ⟨b, e⟩ := hn j.val
      change (cores.getD j.val {}).regs.getD _ _ = (s.core j.val).regs.getD _ _
      rw [e]
  · cases c with
    | strand m u => exact ⟨rfl, rfl, rfl⟩
    | control j =>
      obtain ⟨b, e⟩ := hn j.val
      change (cores.getD j.val {}).strand.pc = _ ∧ (cores.getD j.val {}).strand.fpmode = _ ∧ (cores.getD j.val {}).strand.fpflags = _
      rw [e]; exact ⟨rfl, rfl, rfl⟩
  · obtain ⟨b, e⟩ := hn j.val
    change (cores.getD j.val {}).handler = false
    rw [e]; exact hc j hj

/-- The check of a slot word writes a record of a corrected error, or tells the round controller. -/
theorem stored_checkHead (s : State) (n p la k : Nat) :
    stored la k s (checkHead s n p) ∧ (calm s → calm (checkHead s n p)) := by
  unfold checkHead
  dsimp only
  split
  · rename_i ok _ _ _ _ _ _
    cases ok with
    | true => exact stored_corrected s _ la k rfl
    | false =>
      simp only [Bool.false_eq_true, if_false]
      have h (r : Report) := framed_modGath s ((s.leaf n).gath.getD 0) (fun x => { x with queue := x.queue ++ [.lost r] }) fun _ => rfl
      exact ⟨(h _).stored la k, (h _).calm⟩
  · exact ⟨(framed.refl s).stored la k, id⟩

theorem stored_dropHead (s : State) (n p la k : Nat) : stored la k s (dropHead s n p) ∧ (calm s → calm (dropHead s n p)) := by
  unfold dropHead sendCredit
  dsimp only
  obtain ⟨h0, hc⟩ := stored_checkHead s n p la k
  revert h0 hc
  generalize checkHead s n p = v
  intro h0 hc
  have h1 := h0.trans
    (stored_modLeaf v n (fun l => { l with inputs := lmod l.inputs p (popPort (rtCount ((s.leaf n).routes.getD p 0))) }) la k fun _ => rfl)
  split
  · exact ⟨h1.trans (stored_modLeaf _ _ _ la k fun _ => rfl), fun h => hc h⟩
  · exact ⟨h1, fun h => hc h⟩
/-- The send of an instruction that is nullified goes. -/
theorem framed_skipSend (s : State) (c : CoreId) (i : Nat) : framed s (skipSend s c i) := by
  unfold skipSend
  split
  · exact (framed_sendOver s _ _).trans (framed_pumpSends _ _)
  · exact .refl s

theorem stored_perform {f : Form} {s t : State} {act : State → CoreId → Nat → Word → Word → Word → State} {la n : Nat} (hf : f.cls = .effect)
    (h : calm s) (ha : stored la n s (act s s.focus.core s.focus.slot s.opL s.opR s.opT)) (e : perform f s act = .next t) :
    stored la n s t := by
  unfold perform at e; dsimp only at e
  split at e
  · cases e; exact (framed.refl s).stored la n
  · split at e
    · cases e; unfold nullify; rw [hf]
      have h1 := (framed_skipSend s s.focus.core s.focus.slot).trans (framed_produce _ s.focus.core)
      exact (h1.trans (framed_deliver2 _ _ _ _ _ _ _ h1.me.symm (h1.calm h))).stored la n
    · cases e; exact ha
theorem stored_complete {f : Form} {s u : State} {i la n : Nat} {a b : Option Word} (hu : u.focus = s.focus) (h : calm u) :
   stored la n u (complete f u s.me i a b) := (framed_complete f u s.me i a b (by rw [State.me, State.me, hu]) h).stored la n

theorem stored_mbarAccess {s : State} {i la : Nat} {ok rel : Bool} {k : State → State} (h : calm s)
    (hk : (coreIsControl s.me = false → laRefused (s.leaf ((coreLeaf s.me).getD 0)).partw la 16 true = none) → stored la 16 s (k s)) :
    stored la 16 s (mbarAccess s s.me i la ok rel k) := by
  have hb : ∀ c d, stored la 16 s (blockFault s s.me (some i) c d) := fun c d => (framed_blockFault s s.me _ c d rfl h).stored la 16
  unfold mbarAccess limitLa limit
  generalize (if coreIsControl s.me then Config.localBytes else Config.leafBytes) = top
  dsimp only
  split
  · exact hb _ _
  · split
    · exact hb _ _
    · split
      · cases ok with
        | true => exact stored_leafAccess h (by decide) hk
        | false => exact hb _ _
      · exact hb _ _

end Sys2Proof.Machine
end

