-- ==== Sys2Proof/Laws/Integer.lean ====
section
/-!
SUPPORT. Integer arithmetic of row 0x10 in bit vectors.
-/

set_option Elab.async false

namespace Sys2Proof.Machine

/-- `SignExtend` is the signed value of the low bits. -/
theorem signExtend_eq (v : Word) (n : Nat) : signExtend v.toNat n = (v.setWidth n).toInt := by
  unfold signExtend
  simp only [BitVec.toInt_eq_toNat_cond, BitVec.toNat_setWidth]
  norm_cast

/-- An operand at a width, as the value of a bit vector. -/
theorem intIn_eq (v : Word) (n : Nat)  (sgn : Bool) :
    intIn n sgn v = if sgn then (v.setWidth n).toInt else ((v.setWidth n).toNat : Int) := by
  cases sgn
  · simp [intIn]
  · simp [intIn, signExtend_eq v n]

/-- `SignExtend` of an n-bit number. -/
theorem signExtend_ofNat (n m : Nat) (h : m < 2 ^ n) : signExtend m n = (BitVec.ofNat n m).toInt := by
  unfold signExtend
  simp only [BitVec.toInt_eq_toNat_cond, BitVec.toNat_ofNat, Nat.mod_eq_of_lt h]
  norm_cast

/-- The code of an integer. -/
theorem codeOf_eq (n : Nat) (x : Int) : codeOf n x = (BitVec.ofInt n x).toNat := by
  simp [codeOf, BitVec.toNat_ofInt]

/-- The final extension of R149, in bit vectors. -/
theorem intOut_eq (n : Nat)  (sgn : Bool) (x : Int) :
    intOut n sgn x = extended sgn (BitVec.ofInt n x) := by
  have hlt : (BitVec.ofInt n x).toNat < 2 ^ n := (BitVec.ofInt n x).isLt
  unfold intOut extended
  rw [show (x % (2 ^ n : Nat)).toNat = (BitVec.ofInt n x).toNat by simp [BitVec.toNat_ofInt]]
  cases sgn
  · simp only [wordOfNat]
    apply BitVec.eq_of_toNat_eq
    simp [BitVec.toNat_setWidth]
  · simp only [wordOfInt, if_true]
    rw [signExtend_ofNat _ _ hlt, BitVec.ofNat_toNat, BitVec.setWidth_eq]
    rfl

/-- The widths. -/
theorem widthOf_bounds (w : IntWidth) : 0 < widthOf w ∧ widthOf w ≤ 64 := by cases w <;> decide

/-- Row 0x10 without `SAT`. -/
theorem intOp_unsat (op : IOp) (w : IntWidth) (sgn : Bool) (l r : Word) :
    intOp op w sgn false l r = (extended sgn (BitVec.ofInt (widthOf w) (intX op (widthOf w) (intIn (widthOf w) sgn l) (intIn (widthOf w) sgn r) (r.toNat % 64 % widthOf w))), 0) := by
  simp only [intOp, Bool.false_eq_true, false_and, if_false]
  rw [intOut_eq _ ]

/-- The code of an operand at a width. -/
theorem ofInt_intIn (v : Word) (n : Nat)  (sgn : Bool) : BitVec.ofInt n (intIn n sgn v) = v.setWidth n := by
  rw [intIn_eq v n]; cases sgn <;> simp only [Bool.false_eq_true, if_false, if_true, BitVec.ofInt_natCast, BitVec.ofNat_toNat, BitVec.ofInt_toInt, BitVec.setWidth_eq]

/-- A comparison's result. -/
theorem wordOfNat_natOfBool (b : Bool) : wordOfNat (natOfBool b) = if b then 1 else 0 := by cases b <;> rfl

end Sys2Proof.Machine
end

