-- ==== Sys2Proof/Laws/PerInstr.lean ====
section
/-!
SUPPORT. Statements made of each instruction: encoding and decoding agree.
-/

set_option Elab.async false
set_option linter.unusedSimpArgs false

namespace Sys2Proof.Laws

/-! ### Fields of the shapes of a word -/

theorem shape0 (op K x0 x1 x2 : Nat) (hK : K = 33554432 * op + 0) (h0 : x0 < 64) (h1 : x1 < 512) (h2 : x2 < 512) :
    (K + 524288 * x0 + 512 * x1 + x2) / 33554432 % 16 = op % 16 ∧
    (K + 524288 * x0 + 512 * x1 + x2) / 536870912 = op / 16 ∧
    (K + 524288 * x0 + 512 * x1 + x2) / 262144 % 2 = 0 ∧
    (K + 524288 * x0 + 512 * x1 + x2) / 524288 % 64 = x0 ∧
    (K + 524288 * x0 + 512 * x1 + x2) % 512 = x2 ∧
    (K + 524288 * x0 + 512 * x1 + x2) / 512 % 512 = x1 := by
  refine ⟨?_, ?_, ?_, ?_, ?_, ?_⟩ <;> omega

theorem shape1 (op K x0 x1 : Nat) (hK : K = 33554432 * op + 0) (h0 : x0 < 512) (h1 : x1 < 65536) :
    (K + 65536 * x0 + x1) / 33554432 % 16 = op % 16 ∧
    (K + 65536 * x0 + x1) / 536870912 = op / 16 ∧
    (K + 65536 * x0 + x1) % 65536 = x1 ∧
    (K + 65536 * x0 + x1) / 65536 % 512 = x0 := by
  refine ⟨?_, ?_, ?_, ?_⟩ <;> omega

theorem shape2 (op K x0 x1 : Nat) (hK : K = 33554432 * op + 0) (h0 : x0 < 512) (h1 : x1 < 512) :
    (K + 512 * x0 + x1) / 33554432 % 16 = op % 16 ∧
    (K + 512 * x0 + x1) / 536870912 = op / 16 ∧
    (K + 512 * x0 + x1) / 262144 % 128 = 0 ∧
    (K + 512 * x0 + x1) % 512 = x1 ∧
    (K + 512 * x0 + x1) / 512 % 512 = x0 := by
  refine ⟨?_, ?_, ?_, ?_, ?_⟩ <;> omega

theorem shape3 (op K x0 x1 : Nat) (hK : K = 33554432 * op + 0) (h0 : x0 < 8) (h1 : x1 < 4194304) :
    (K + 4194304 * x0 + x1) / 33554432 % 16 = op % 16 ∧
    (K + 4194304 * x0 + x1) / 536870912 = op / 16 ∧
    (K + 4194304 * x0 + x1) / 4194304 % 8 = x0 ∧
    (K + 4194304 * x0 + x1) % 4194304 = x1 := by
  refine ⟨?_, ?_, ?_, ?_⟩ <;> omega

theorem shape4 (op K  : Nat) (hK : K = 33554432 * op + 65151) :
    (K) / 33554432 % 16 = op % 16 ∧
    (K) / 536870912 = op / 16 ∧
    (K) / 262144 % 128 = 0 ∧
    (K) % 512 = 127 ∧
    (K) / 512 % 512 = 127 := by
  refine ⟨?_, ?_, ?_, ?_, ?_⟩ <;> omega

theorem shape5 (op K x0 : Nat) (hK : K = 33554432 * op + 8323072) (h0 : x0 < 4096) :
    (K + x0) / 33554432 % 16 = op % 16 ∧
    (K + x0) / 536870912 = op / 16 ∧
    (K + x0) / 4096 % 16 = 0 ∧
    (K + x0) % 4096 = x0 ∧
    (K + x0) / 65536 % 512 = 127 := by
  refine ⟨?_, ?_, ?_, ?_, ?_⟩ <;> omega

theorem shape6 (op K  : Nat) (hK : K = 33554432 * op + 327295) :
    (K) / 33554432 % 16 = op % 16 ∧
    (K) / 536870912 = op / 16 ∧
    (K) / 262144 % 128 = 1 ∧
    (K) % 512 = 127 ∧
    (K) / 512 % 512 = 127 := by
  refine ⟨?_, ?_, ?_, ?_, ?_⟩ <;> omega

theorem shape7 (op K x0 : Nat) (hK : K = 33554432 * op + 8323072) (h0 : x0 < 65536) :
    (K + x0) / 33554432 % 16 = op % 16 ∧
    (K + x0) / 536870912 = op / 16 ∧
    (K + x0) % 65536 = x0 ∧
    (K + x0) / 65536 % 512 = 127 := by
  refine ⟨?_, ?_, ?_, ?_⟩ <;> omega

theorem shape8 (op K x0 x1 : Nat) (hK : K = 33554432 * op + 0) (h0 : x0 < 512) (h1 : x1 < 4096) :
    (K + 65536 * x0 + x1) / 33554432 % 16 = op % 16 ∧
    (K + 65536 * x0 + x1) / 536870912 = op / 16 ∧
    (K + 65536 * x0 + x1) / 4096 % 16 = 0 ∧
    (K + 65536 * x0 + x1) % 4096 = x1 ∧
    (K + 65536 * x0 + x1) / 65536 % 512 = x0 := by
  refine ⟨?_, ?_, ?_, ?_, ?_⟩ <;> omega

theorem shape9 (op K x0 x1 x2 x3 x4 : Nat) (hK : K = 33554432 * op + 0) (h0 : x0 < 4) (h1 : x1 < 2) (h2 : x2 < 2) (h3 : x3 < 512) (h4 : x4 < 512) :
    (K + 8388608 * x0 + 4194304 * x1 + 2097152 * x2 + 512 * x3 + x4) / 33554432 % 16 = op % 16 ∧
    (K + 8388608 * x0 + 4194304 * x1 + 2097152 * x2 + 512 * x3 + x4) / 536870912 = op / 16 ∧
    (K + 8388608 * x0 + 4194304 * x1 + 2097152 * x2 + 512 * x3 + x4) / 262144 % 8 = 0 ∧
    (K + 8388608 * x0 + 4194304 * x1 + 2097152 * x2 + 512 * x3 + x4) / 8388608 % 4 = x0 ∧
    (K + 8388608 * x0 + 4194304 * x1 + 2097152 * x2 + 512 * x3 + x4) / 4194304 % 2 = x1 ∧
    (K + 8388608 * x0 + 4194304 * x1 + 2097152 * x2 + 512 * x3 + x4) / 2097152 % 2 = x2 ∧
    (K + 8388608 * x0 + 4194304 * x1 + 2097152 * x2 + 512 * x3 + x4) % 512 = x4 ∧
    (K + 8388608 * x0 + 4194304 * x1 + 2097152 * x2 + 512 * x3 + x4) / 512 % 512 = x3 := by
  refine ⟨?_, ?_, ?_, ?_, ?_, ?_, ?_, ?_⟩ <;> omega

theorem shape10 (op K x0 x1 x2 x3 : Nat) (hK : K = 33554432 * op + 0) (h0 : x0 < 4) (h1 : x1 < 2) (h2 : x2 < 512) (h3 : x3 < 512) :
    (K + 8388608 * x0 + 4194304 * x1 + 512 * x2 + x3) / 33554432 % 16 = op % 16 ∧
    (K + 8388608 * x0 + 4194304 * x1 + 512 * x2 + x3) / 536870912 = op / 16 ∧
    (K + 8388608 * x0 + 4194304 * x1 + 512 * x2 + x3) / 262144 % 16 = 0 ∧
    (K + 8388608 * x0 + 4194304 * x1 + 512 * x2 + x3) / 8388608 % 4 = x0 ∧
    (K + 8388608 * x0 + 4194304 * x1 + 512 * x2 + x3) / 4194304 % 2 = x1 ∧
    (K + 8388608 * x0 + 4194304 * x1 + 512 * x2 + x3) % 512 = x3 ∧
    (K + 8388608 * x0 + 4194304 * x1 + 512 * x2 + x3) / 512 % 512 = x2 := by
  refine ⟨?_, ?_, ?_, ?_, ?_, ?_, ?_⟩ <;> omega

theorem shape11 (op K x0 x1 x2 x3 x4 : Nat) (hK : K = 33554432 * op + 0) (h0 : x0 < 4) (h1 : x1 < 2) (h2 : x2 < 8) (h3 : x3 < 512) (h4 : x4 < 512) :
    (K + 8388608 * x0 + 4194304 * x1 + 524288 * x2 + 512 * x3 + x4) / 33554432 % 16 = op % 16 ∧
    (K + 8388608 * x0 + 4194304 * x1 + 524288 * x2 + 512 * x3 + x4) / 536870912 = op / 16 ∧
    (K + 8388608 * x0 + 4194304 * x1 + 524288 * x2 + 512 * x3 + x4) / 262144 % 2 = 0 ∧
    (K + 8388608 * x0 + 4194304 * x1 + 524288 * x2 + 512 * x3 + x4) / 8388608 % 4 = x0 ∧
    (K + 8388608 * x0 + 4194304 * x1 + 524288 * x2 + 512 * x3 + x4) / 524288 % 8 = x2 ∧
    (K + 8388608 * x0 + 4194304 * x1 + 524288 * x2 + 512 * x3 + x4) / 4194304 % 2 = x1 ∧
    (K + 8388608 * x0 + 4194304 * x1 + 524288 * x2 + 512 * x3 + x4) % 512 = x4 ∧
    (K + 8388608 * x0 + 4194304 * x1 + 524288 * x2 + 512 * x3 + x4) / 512 % 512 = x3 := by
  refine ⟨?_, ?_, ?_, ?_, ?_, ?_, ?_, ?_⟩ <;> omega

theorem shape12 (op K x0 x1 x2 : Nat) (hK : K = 33554432 * op + 0) (h0 : x0 < 4) (h1 : x1 < 512) (h2 : x2 < 512) :
    (K + 8388608 * x0 + 512 * x1 + x2) / 33554432 % 16 = op % 16 ∧
    (K + 8388608 * x0 + 512 * x1 + x2) / 536870912 = op / 16 ∧
    (K + 8388608 * x0 + 512 * x1 + x2) / 262144 % 32 = 0 ∧
    (K + 8388608 * x0 + 512 * x1 + x2) / 8388608 % 4 = x0 ∧
    (K + 8388608 * x0 + 512 * x1 + x2) % 512 = x2 ∧
    (K + 8388608 * x0 + 512 * x1 + x2) / 512 % 512 = x1 := by
  refine ⟨?_, ?_, ?_, ?_, ?_, ?_⟩ <;> omega

theorem shape13 (op K x0 x1 x2 : Nat) (hK : K = 33554432 * op + 262144) (h0 : x0 < 4) (h1 : x1 < 512) (h2 : x2 < 512) :
    (K + 8388608 * x0 + 512 * x1 + x2) / 33554432 % 16 = op % 16 ∧
    (K + 8388608 * x0 + 512 * x1 + x2) / 536870912 = op / 16 ∧
    (K + 8388608 * x0 + 512 * x1 + x2) / 262144 % 32 = 1 ∧
    (K + 8388608 * x0 + 512 * x1 + x2) / 8388608 % 4 = x0 ∧
    (K + 8388608 * x0 + 512 * x1 + x2) % 512 = x2 ∧
    (K + 8388608 * x0 + 512 * x1 + x2) / 512 % 512 = x1 := by
  refine ⟨?_, ?_, ?_, ?_, ?_, ?_⟩ <;> omega

theorem shape14 (op K x0 x1 x2 : Nat) (hK : K = 33554432 * op + 524288) (h0 : x0 < 4) (h1 : x1 < 512) (h2 : x2 < 512) :
    (K + 8388608 * x0 + 512 * x1 + x2) / 33554432 % 16 = op % 16 ∧
    (K + 8388608 * x0 + 512 * x1 + x2) / 536870912 = op / 16 ∧
    (K + 8388608 * x0 + 512 * x1 + x2) / 262144 % 32 = 2 ∧
    (K + 8388608 * x0 + 512 * x1 + x2) / 8388608 % 4 = x0 ∧
    (K + 8388608 * x0 + 512 * x1 + x2) % 512 = x2 ∧
    (K + 8388608 * x0 + 512 * x1 + x2) / 512 % 512 = x1 := by
  refine ⟨?_, ?_, ?_, ?_, ?_, ?_⟩ <;> omega

theorem shape15 (op K x0 x1 x2 : Nat) (hK : K = 33554432 * op + 786432) (h0 : x0 < 4) (h1 : x1 < 512) (h2 : x2 < 512) :
    (K + 8388608 * x0 + 512 * x1 + x2) / 33554432 % 16 = op % 16 ∧
    (K + 8388608 * x0 + 512 * x1 + x2) / 536870912 = op / 16 ∧
    (K + 8388608 * x0 + 512 * x1 + x2) / 262144 % 32 = 3 ∧
    (K + 8388608 * x0 + 512 * x1 + x2) / 8388608 % 4 = x0 ∧
    (K + 8388608 * x0 + 512 * x1 + x2) % 512 = x2 ∧
    (K + 8388608 * x0 + 512 * x1 + x2) / 512 % 512 = x1 := by
  refine ⟨?_, ?_, ?_, ?_, ?_, ?_⟩ <;> omega

theorem shape16 (op K x0 x1 x2 : Nat) (hK : K = 33554432 * op + 1048576) (h0 : x0 < 4) (h1 : x1 < 512) (h2 : x2 < 512) :
    (K + 8388608 * x0 + 512 * x1 + x2) / 33554432 % 16 = op % 16 ∧
    (K + 8388608 * x0 + 512 * x1 + x2) / 536870912 = op / 16 ∧
    (K + 8388608 * x0 + 512 * x1 + x2) / 262144 % 32 = 4 ∧
    (K + 8388608 * x0 + 512 * x1 + x2) / 8388608 % 4 = x0 ∧
    (K + 8388608 * x0 + 512 * x1 + x2) % 512 = x2 ∧
    (K + 8388608 * x0 + 512 * x1 + x2) / 512 % 512 = x1 := by
  refine ⟨?_, ?_, ?_, ?_, ?_, ?_⟩ <;> omega

theorem shape17 (op K x0 x1 x2 x3 : Nat) (hK : K = 33554432 * op + 0) (h0 : x0 < 512) (h1 : x1 < 2) (h2 : x2 < 64) (h3 : x3 < 64) :
    (K + 65536 * x0 + 4096 * x1 + 64 * x2 + x3) / 33554432 % 16 = op % 16 ∧
    (K + 65536 * x0 + 4096 * x1 + 64 * x2 + x3) / 536870912 = op / 16 ∧
    (K + 65536 * x0 + 4096 * x1 + 64 * x2 + x3) / 8192 % 8 = 0 ∧
    (K + 65536 * x0 + 4096 * x1 + 64 * x2 + x3) / 4096 % 2 = x1 ∧
    (K + 65536 * x0 + 4096 * x1 + 64 * x2 + x3) / 64 % 64 = x2 ∧
    (K + 65536 * x0 + 4096 * x1 + 64 * x2 + x3) % 64 = x3 ∧
    (K + 65536 * x0 + 4096 * x1 + 64 * x2 + x3) / 65536 % 512 = x0 := by
  refine ⟨?_, ?_, ?_, ?_, ?_, ?_, ?_⟩ <;> omega

theorem shape18 (op K x0 x1 x2 : Nat) (hK : K = 33554432 * op + 0) (h0 : x0 < 8) (h1 : x1 < 512) (h2 : x2 < 512) :
    (K + 262144 * x0 + 512 * x1 + x2) / 33554432 % 16 = op % 16 ∧
    (K + 262144 * x0 + 512 * x1 + x2) / 536870912 = op / 16 ∧
    (K + 262144 * x0 + 512 * x1 + x2) / 2097152 % 16 = 0 ∧
    (K + 262144 * x0 + 512 * x1 + x2) / 262144 % 8 = x0 ∧
    (K + 262144 * x0 + 512 * x1 + x2) % 512 = x2 ∧
    (K + 262144 * x0 + 512 * x1 + x2) / 512 % 512 = x1 := by
  refine ⟨?_, ?_, ?_, ?_, ?_, ?_⟩ <;> omega

theorem shape19 (op K x0 x1 : Nat) (hK : K = 33554432 * op + 0) (h0 : x0 < 512) (h1 : x1 < 64) :
    (K + 65536 * x0 + x1) / 33554432 % 16 = op % 16 ∧
    (K + 65536 * x0 + x1) / 536870912 = op / 16 ∧
    (K + 65536 * x0 + x1) / 64 % 1024 = 0 ∧
    (K + 65536 * x0 + x1) % 64 = x1 ∧
    (K + 65536 * x0 + x1) / 65536 % 512 = x0 := by
  refine ⟨?_, ?_, ?_, ?_, ?_⟩ <;> omega

theorem shape20 (op K x0 x1 : Nat) (hK : K = 33554432 * op + 64) (h0 : x0 < 512) (h1 : x1 < 64) :
    (K + 65536 * x0 + x1) / 33554432 % 16 = op % 16 ∧
    (K + 65536 * x0 + x1) / 536870912 = op / 16 ∧
    (K + 65536 * x0 + x1) / 64 % 1024 = 1 ∧
    (K + 65536 * x0 + x1) % 64 = x1 ∧
    (K + 65536 * x0 + x1) / 65536 % 512 = x0 := by
  refine ⟨?_, ?_, ?_, ?_, ?_⟩ <;> omega

theorem shape21 (op K x0 x1 : Nat) (hK : K = 33554432 * op + 128) (h0 : x0 < 512) (h1 : x1 < 64) :
    (K + 65536 * x0 + x1) / 33554432 % 16 = op % 16 ∧
    (K + 65536 * x0 + x1) / 536870912 = op / 16 ∧
    (K + 65536 * x0 + x1) / 64 % 1024 = 2 ∧
    (K + 65536 * x0 + x1) % 64 = x1 ∧
    (K + 65536 * x0 + x1) / 65536 % 512 = x0 := by
  refine ⟨?_, ?_, ?_, ?_, ?_⟩ <;> omega

theorem shape22 (op K x0 x1 : Nat) (hK : K = 33554432 * op + 192) (h0 : x0 < 512) (h1 : x1 < 64) :
    (K + 65536 * x0 + x1) / 33554432 % 16 = op % 16 ∧
    (K + 65536 * x0 + x1) / 536870912 = op / 16 ∧
    (K + 65536 * x0 + x1) / 64 % 1024 = 3 ∧
    (K + 65536 * x0 + x1) % 64 = x1 ∧
    (K + 65536 * x0 + x1) / 65536 % 512 = x0 := by
  refine ⟨?_, ?_, ?_, ?_, ?_⟩ <;> omega

theorem shape23 (op K x0 x1 x2 x3 : Nat) (hK : K = 33554432 * op + 0) (h0 : x0 < 512) (h1 : x1 < 2) (h2 : x2 < 8) (h3 : x3 < 4096) :
    (K + 65536 * x0 + 32768 * x1 + 4096 * x2 + x3) / 33554432 % 16 = op % 16 ∧
    (K + 65536 * x0 + 32768 * x1 + 4096 * x2 + x3) / 536870912 = op / 16 ∧
    (K + 65536 * x0 + 32768 * x1 + 4096 * x2 + x3) / 4096 % 8 = x2 ∧
    (K + 65536 * x0 + 32768 * x1 + 4096 * x2 + x3) / 32768 % 2 = x1 ∧
    (K + 65536 * x0 + 32768 * x1 + 4096 * x2 + x3) % 4096 = x3 ∧
    (K + 65536 * x0 + 32768 * x1 + 4096 * x2 + x3) / 65536 % 512 = x0 := by
  refine ⟨?_, ?_, ?_, ?_, ?_, ?_⟩ <;> omega

theorem shape24 (op K x0 x1 x2 x3 x4 x5 : Nat) (hK : K = 33554432 * op + 0) (h0 : x0 < 4) (h1 : x1 < 8) (h2 : x2 < 2) (h3 : x3 < 2) (h4 : x4 < 512) (h5 : x5 < 512) :
    (K + 8388608 * x0 + 1048576 * x1 + 524288 * x2 + 262144 * x3 + 512 * x4 + x5) / 33554432 % 16 = op % 16 ∧
    (K + 8388608 * x0 + 1048576 * x1 + 524288 * x2 + 262144 * x3 + 512 * x4 + x5) / 536870912 = op / 16 ∧
    (K + 8388608 * x0 + 1048576 * x1 + 524288 * x2 + 262144 * x3 + 512 * x4 + x5) / 8388608 % 4 = x0 ∧
    (K + 8388608 * x0 + 1048576 * x1 + 524288 * x2 + 262144 * x3 + 512 * x4 + x5) / 1048576 % 8 = x1 ∧
    (K + 8388608 * x0 + 1048576 * x1 + 524288 * x2 + 262144 * x3 + 512 * x4 + x5) / 524288 % 2 = x2 ∧
    (K + 8388608 * x0 + 1048576 * x1 + 524288 * x2 + 262144 * x3 + 512 * x4 + x5) / 262144 % 2 = x3 ∧
    (K + 8388608 * x0 + 1048576 * x1 + 524288 * x2 + 262144 * x3 + 512 * x4 + x5) % 512 = x5 ∧
    (K + 8388608 * x0 + 1048576 * x1 + 524288 * x2 + 262144 * x3 + 512 * x4 + x5) / 512 % 512 = x4 := by
  refine ⟨?_, ?_, ?_, ?_, ?_, ?_, ?_, ?_⟩ <;> omega

theorem shape25 (op K x0 x1 x2 x3 x4 : Nat) (hK : K = 33554432 * op + 0) (h0 : x0 < 4) (h1 : x1 < 2) (h2 : x2 < 2) (h3 : x3 < 512) (h4 : x4 < 512) :
    (K + 8388608 * x0 + 524288 * x1 + 262144 * x2 + 512 * x3 + x4) / 33554432 % 16 = op % 16 ∧
    (K + 8388608 * x0 + 524288 * x1 + 262144 * x2 + 512 * x3 + x4) / 536870912 = op / 16 ∧
    (K + 8388608 * x0 + 524288 * x1 + 262144 * x2 + 512 * x3 + x4) / 1048576 % 8 = 0 ∧
    (K + 8388608 * x0 + 524288 * x1 + 262144 * x2 + 512 * x3 + x4) / 8388608 % 4 = x0 ∧
    (K + 8388608 * x0 + 524288 * x1 + 262144 * x2 + 512 * x3 + x4) / 524288 % 2 = x1 ∧
    (K + 8388608 * x0 + 524288 * x1 + 262144 * x2 + 512 * x3 + x4) / 262144 % 2 = x2 ∧
    (K + 8388608 * x0 + 524288 * x1 + 262144 * x2 + 512 * x3 + x4) % 512 = x4 ∧
    (K + 8388608 * x0 + 524288 * x1 + 262144 * x2 + 512 * x3 + x4) / 512 % 512 = x3 := by
  refine ⟨?_, ?_, ?_, ?_, ?_, ?_, ?_, ?_⟩ <;> omega

theorem shape26 (op K x0 x1 x2 x3 : Nat) (hK : K = 33554432 * op + 0) (h0 : x0 < 4) (h1 : x1 < 8) (h2 : x2 < 512) (h3 : x3 < 512) :
    (K + 8388608 * x0 + 1048576 * x1 + 512 * x2 + x3) / 33554432 % 16 = op % 16 ∧
    (K + 8388608 * x0 + 1048576 * x1 + 512 * x2 + x3) / 536870912 = op / 16 ∧
    (K + 8388608 * x0 + 1048576 * x1 + 512 * x2 + x3) / 262144 % 4 = 0 ∧
    (K + 8388608 * x0 + 1048576 * x1 + 512 * x2 + x3) / 8388608 % 4 = x0 ∧
    (K + 8388608 * x0 + 1048576 * x1 + 512 * x2 + x3) / 1048576 % 8 = x1 ∧
    (K + 8388608 * x0 + 1048576 * x1 + 512 * x2 + x3) % 512 = x3 ∧
    (K + 8388608 * x0 + 1048576 * x1 + 512 * x2 + x3) / 512 % 512 = x2 := by
  refine ⟨?_, ?_, ?_, ?_, ?_, ?_, ?_⟩ <;> omega

theorem shape27 (op K x0 x1 x2 x3 x4 : Nat) (hK : K = 33554432 * op + 0) (h0 : x0 < 512) (h1 : x1 < 2) (h2 : x2 < 8) (h3 : x3 < 16) (h4 : x4 < 16) :
    (K + 65536 * x0 + 2048 * x1 + 256 * x2 + 16 * x3 + x4) / 33554432 % 16 = op % 16 ∧
    (K + 65536 * x0 + 2048 * x1 + 256 * x2 + 16 * x3 + x4) / 536870912 = op / 16 ∧
    (K + 65536 * x0 + 2048 * x1 + 256 * x2 + 16 * x3 + x4) / 4096 % 16 = 0 ∧
    (K + 65536 * x0 + 2048 * x1 + 256 * x2 + 16 * x3 + x4) / 256 % 8 = x2 ∧
    (K + 65536 * x0 + 2048 * x1 + 256 * x2 + 16 * x3 + x4) / 16 % 16 = x3 ∧
    (K + 65536 * x0 + 2048 * x1 + 256 * x2 + 16 * x3 + x4) % 16 = x4 ∧
    (K + 65536 * x0 + 2048 * x1 + 256 * x2 + 16 * x3 + x4) / 2048 % 2 = x1 ∧
    (K + 65536 * x0 + 2048 * x1 + 256 * x2 + 16 * x3 + x4) / 65536 % 512 = x0 := by
  refine ⟨?_, ?_, ?_, ?_, ?_, ?_, ?_, ?_⟩ <;> omega

theorem shape28 (op K x0 : Nat) (hK : K = 33554432 * op + 0) (h0 : x0 < 512) :
    (K + 65536 * x0) / 33554432 % 16 = op % 16 ∧
    (K + 65536 * x0) / 536870912 = op / 16 ∧
    (K + 65536 * x0) % 65536 = 0 ∧
    (K + 65536 * x0) / 65536 % 512 = x0 := by
  refine ⟨?_, ?_, ?_, ?_⟩ <;> omega

theorem shape29 (op K x0 : Nat) (hK : K = 33554432 * op + 1) (h0 : x0 < 512) :
    (K + 65536 * x0) / 33554432 % 16 = op % 16 ∧
    (K + 65536 * x0) / 536870912 = op / 16 ∧
    (K + 65536 * x0) % 65536 = 1 ∧
    (K + 65536 * x0) / 65536 % 512 = x0 := by
  refine ⟨?_, ?_, ?_, ?_⟩ <;> omega

theorem shape30 (op K x0 : Nat) (hK : K = 33554432 * op + 2) (h0 : x0 < 512) :
    (K + 65536 * x0) / 33554432 % 16 = op % 16 ∧
    (K + 65536 * x0) / 536870912 = op / 16 ∧
    (K + 65536 * x0) % 65536 = 2 ∧
    (K + 65536 * x0) / 65536 % 512 = x0 := by
  refine ⟨?_, ?_, ?_, ?_⟩ <;> omega

theorem shape31 (op K x0 : Nat) (hK : K = 33554432 * op + 3) (h0 : x0 < 512) :
    (K + 65536 * x0) / 33554432 % 16 = op % 16 ∧
    (K + 65536 * x0) / 536870912 = op / 16 ∧
    (K + 65536 * x0) % 65536 = 3 ∧
    (K + 65536 * x0) / 65536 % 512 = x0 := by
  refine ⟨?_, ?_, ?_, ?_⟩ <;> omega

theorem shape32 (op K x0 : Nat) (hK : K = 33554432 * op + 4) (h0 : x0 < 512) :
    (K + 65536 * x0) / 33554432 % 16 = op % 16 ∧
    (K + 65536 * x0) / 536870912 = op / 16 ∧
    (K + 65536 * x0) % 65536 = 4 ∧
    (K + 65536 * x0) / 65536 % 512 = x0 := by
  refine ⟨?_, ?_, ?_, ?_⟩ <;> omega

theorem shape33 (op K x0 : Nat) (hK : K = 33554432 * op + 5) (h0 : x0 < 512) :
    (K + 65536 * x0) / 33554432 % 16 = op % 16 ∧
    (K + 65536 * x0) / 536870912 = op / 16 ∧
    (K + 65536 * x0) % 65536 = 5 ∧
    (K + 65536 * x0) / 65536 % 512 = x0 := by
  refine ⟨?_, ?_, ?_, ?_⟩ <;> omega

theorem shape34 (op K x0 : Nat) (hK : K = 33554432 * op + 6) (h0 : x0 < 512) :
    (K + 65536 * x0) / 33554432 % 16 = op % 16 ∧
    (K + 65536 * x0) / 536870912 = op / 16 ∧
    (K + 65536 * x0) % 65536 = 6 ∧
    (K + 65536 * x0) / 65536 % 512 = x0 := by
  refine ⟨?_, ?_, ?_, ?_⟩ <;> omega

theorem shape35 (op K x0 : Nat) (hK : K = 33554432 * op + 7) (h0 : x0 < 512) :
    (K + 65536 * x0) / 33554432 % 16 = op % 16 ∧
    (K + 65536 * x0) / 536870912 = op / 16 ∧
    (K + 65536 * x0) % 65536 = 7 ∧
    (K + 65536 * x0) / 65536 % 512 = x0 := by
  refine ⟨?_, ?_, ?_, ?_⟩ <;> omega

theorem shape36 (op K x0 : Nat) (hK : K = 33554432 * op + 8) (h0 : x0 < 512) :
    (K + 65536 * x0) / 33554432 % 16 = op % 16 ∧
    (K + 65536 * x0) / 536870912 = op / 16 ∧
    (K + 65536 * x0) % 65536 = 8 ∧
    (K + 65536 * x0) / 65536 % 512 = x0 := by
  refine ⟨?_, ?_, ?_, ?_⟩ <;> omega

theorem shape37 (op K x0 x1 x2 : Nat) (hK : K = 33554432 * op + 0) (h0 : x0 < 512) (h1 : x1 < 2) (h2 : x2 < 8) :
    (K + 65536 * x0 + 8 * x1 + x2) / 33554432 % 16 = op % 16 ∧
    (K + 65536 * x0 + 8 * x1 + x2) / 536870912 = op / 16 ∧
    (K + 65536 * x0 + 8 * x1 + x2) / 16 % 4096 = 0 ∧
    (K + 65536 * x0 + 8 * x1 + x2) / 8 % 2 = x1 ∧
    (K + 65536 * x0 + 8 * x1 + x2) % 8 = x2 ∧
    (K + 65536 * x0 + 8 * x1 + x2) / 65536 % 512 = x0 := by
  refine ⟨?_, ?_, ?_, ?_, ?_, ?_⟩ <;> omega

theorem shape38 (op K x0 x1 x2 x3 x4 : Nat) (hK : K = 33554432 * op + 0) (h0 : x0 < 2) (h1 : x1 < 8) (h2 : x2 < 2) (h3 : x3 < 512) (h4 : x4 < 512) :
    (K + 8388608 * x0 + 1048576 * x1 + 524288 * x2 + 512 * x3 + x4) / 33554432 % 16 = op % 16 ∧
    (K + 8388608 * x0 + 1048576 * x1 + 524288 * x2 + 512 * x3 + x4) / 536870912 = op / 16 ∧
    (K + 8388608 * x0 + 1048576 * x1 + 524288 * x2 + 512 * x3 + x4) / 262144 % 2 = 0 ∧
    (K + 8388608 * x0 + 1048576 * x1 + 524288 * x2 + 512 * x3 + x4) / 8388608 % 4 = x0 ∧
    (K + 8388608 * x0 + 1048576 * x1 + 524288 * x2 + 512 * x3 + x4) / 1048576 % 8 = x1 ∧
    (K + 8388608 * x0 + 1048576 * x1 + 524288 * x2 + 512 * x3 + x4) / 524288 % 2 = x2 ∧
    (K + 8388608 * x0 + 1048576 * x1 + 524288 * x2 + 512 * x3 + x4) % 512 = x4 ∧
    (K + 8388608 * x0 + 1048576 * x1 + 524288 * x2 + 512 * x3 + x4) / 512 % 512 = x3 := by
  refine ⟨?_, ?_, ?_, ?_, ?_, ?_, ?_, ?_⟩ <;> omega

theorem shape39 (op K x0 x1 x2 x3 x4 : Nat) (hK : K = 33554432 * op + 0) (h0 : x0 < 4) (h1 : x1 < 2) (h2 : x2 < 8) (h3 : x3 < 512) (h4 : x4 < 512) :
    (K + 8388608 * x0 + 2097152 * x1 + 262144 * x2 + 512 * x3 + x4) / 33554432 % 16 = op % 16 ∧
    (K + 8388608 * x0 + 2097152 * x1 + 262144 * x2 + 512 * x3 + x4) / 536870912 = op / 16 ∧
    (K + 8388608 * x0 + 2097152 * x1 + 262144 * x2 + 512 * x3 + x4) / 4194304 % 2 = 0 ∧
    (K + 8388608 * x0 + 2097152 * x1 + 262144 * x2 + 512 * x3 + x4) / 8388608 % 4 = x0 ∧
    (K + 8388608 * x0 + 2097152 * x1 + 262144 * x2 + 512 * x3 + x4) / 262144 % 8 = x2 ∧
    (K + 8388608 * x0 + 2097152 * x1 + 262144 * x2 + 512 * x3 + x4) / 2097152 % 2 = x1 ∧
    (K + 8388608 * x0 + 2097152 * x1 + 262144 * x2 + 512 * x3 + x4) % 512 = x4 ∧
    (K + 8388608 * x0 + 2097152 * x1 + 262144 * x2 + 512 * x3 + x4) / 512 % 512 = x3 := by
  refine ⟨?_, ?_, ?_, ?_, ?_, ?_, ?_, ?_⟩ <;> omega

theorem shape40 (op K x0 x1 x2 x3 x4 : Nat) (hK : K = 33554432 * op + 0) (h0 : x0 < 4) (h1 : x1 < 2) (h2 : x2 < 8) (h3 : x3 < 512) (h4 : x4 < 512) :
    (K + 8388608 * x0 + 4194304 * x1 + 262144 * x2 + 512 * x3 + x4) / 33554432 % 16 = op % 16 ∧
    (K + 8388608 * x0 + 4194304 * x1 + 262144 * x2 + 512 * x3 + x4) / 536870912 = op / 16 ∧
    (K + 8388608 * x0 + 4194304 * x1 + 262144 * x2 + 512 * x3 + x4) / 2097152 % 2 = 0 ∧
    (K + 8388608 * x0 + 4194304 * x1 + 262144 * x2 + 512 * x3 + x4) / 8388608 % 4 = x0 ∧
    (K + 8388608 * x0 + 4194304 * x1 + 262144 * x2 + 512 * x3 + x4) / 262144 % 8 = x2 ∧
    (K + 8388608 * x0 + 4194304 * x1 + 262144 * x2 + 512 * x3 + x4) / 4194304 % 2 = x1 ∧
    (K + 8388608 * x0 + 4194304 * x1 + 262144 * x2 + 512 * x3 + x4) % 512 = x4 ∧
    (K + 8388608 * x0 + 4194304 * x1 + 262144 * x2 + 512 * x3 + x4) / 512 % 512 = x3 := by
  refine ⟨?_, ?_, ?_, ?_, ?_, ?_, ?_, ?_⟩ <;> omega

theorem shape41 (op K x0 x1 x2 x3 : Nat) (hK : K = 33554432 * op + 0) (h0 : x0 < 4) (h1 : x1 < 4) (h2 : x2 < 512) (h3 : x3 < 512) :
    (K + 8388608 * x0 + 2097152 * x1 + 512 * x2 + x3) / 33554432 % 16 = op % 16 ∧
    (K + 8388608 * x0 + 2097152 * x1 + 512 * x2 + x3) / 536870912 = op / 16 ∧
    (K + 8388608 * x0 + 2097152 * x1 + 512 * x2 + x3) / 262144 % 8 = 0 ∧
    (K + 8388608 * x0 + 2097152 * x1 + 512 * x2 + x3) / 8388608 % 4 = x0 ∧
    (K + 8388608 * x0 + 2097152 * x1 + 512 * x2 + x3) / 2097152 % 4 = x1 ∧
    (K + 8388608 * x0 + 2097152 * x1 + 512 * x2 + x3) % 512 = x3 ∧
    (K + 8388608 * x0 + 2097152 * x1 + 512 * x2 + x3) / 512 % 512 = x2 := by
  refine ⟨?_, ?_, ?_, ?_, ?_, ?_, ?_⟩ <;> omega

theorem shape42 (op K x0 x1 x2 x3 : Nat) (hK : K = 33554432 * op + 262144) (h0 : x0 < 4) (h1 : x1 < 4) (h2 : x2 < 512) (h3 : x3 < 512) :
    (K + 8388608 * x0 + 2097152 * x1 + 512 * x2 + x3) / 33554432 % 16 = op % 16 ∧
    (K + 8388608 * x0 + 2097152 * x1 + 512 * x2 + x3) / 536870912 = op / 16 ∧
    (K + 8388608 * x0 + 2097152 * x1 + 512 * x2 + x3) / 262144 % 8 = 1 ∧
    (K + 8388608 * x0 + 2097152 * x1 + 512 * x2 + x3) / 8388608 % 4 = x0 ∧
    (K + 8388608 * x0 + 2097152 * x1 + 512 * x2 + x3) / 2097152 % 4 = x1 ∧
    (K + 8388608 * x0 + 2097152 * x1 + 512 * x2 + x3) % 512 = x3 ∧
    (K + 8388608 * x0 + 2097152 * x1 + 512 * x2 + x3) / 512 % 512 = x2 := by
  refine ⟨?_, ?_, ?_, ?_, ?_, ?_, ?_⟩ <;> omega

theorem shape43 (op K x0 x1 x2 x3 : Nat) (hK : K = 33554432 * op + 524288) (h0 : x0 < 4) (h1 : x1 < 4) (h2 : x2 < 512) (h3 : x3 < 512) :
    (K + 8388608 * x0 + 2097152 * x1 + 512 * x2 + x3) / 33554432 % 16 = op % 16 ∧
    (K + 8388608 * x0 + 2097152 * x1 + 512 * x2 + x3) / 536870912 = op / 16 ∧
    (K + 8388608 * x0 + 2097152 * x1 + 512 * x2 + x3) / 262144 % 8 = 2 ∧
    (K + 8388608 * x0 + 2097152 * x1 + 512 * x2 + x3) / 8388608 % 4 = x0 ∧
    (K + 8388608 * x0 + 2097152 * x1 + 512 * x2 + x3) / 2097152 % 4 = x1 ∧
    (K + 8388608 * x0 + 2097152 * x1 + 512 * x2 + x3) % 512 = x3 ∧
    (K + 8388608 * x0 + 2097152 * x1 + 512 * x2 + x3) / 512 % 512 = x2 := by
  refine ⟨?_, ?_, ?_, ?_, ?_, ?_, ?_⟩ <;> omega

theorem shape44 (op K x0 x1 x2 x3 : Nat) (hK : K = 33554432 * op + 786432) (h0 : x0 < 4) (h1 : x1 < 4) (h2 : x2 < 512) (h3 : x3 < 512) :
    (K + 8388608 * x0 + 2097152 * x1 + 512 * x2 + x3) / 33554432 % 16 = op % 16 ∧
    (K + 8388608 * x0 + 2097152 * x1 + 512 * x2 + x3) / 536870912 = op / 16 ∧
    (K + 8388608 * x0 + 2097152 * x1 + 512 * x2 + x3) / 262144 % 8 = 3 ∧
    (K + 8388608 * x0 + 2097152 * x1 + 512 * x2 + x3) / 8388608 % 4 = x0 ∧
    (K + 8388608 * x0 + 2097152 * x1 + 512 * x2 + x3) / 2097152 % 4 = x1 ∧
    (K + 8388608 * x0 + 2097152 * x1 + 512 * x2 + x3) % 512 = x3 ∧
    (K + 8388608 * x0 + 2097152 * x1 + 512 * x2 + x3) / 512 % 512 = x2 := by
  refine ⟨?_, ?_, ?_, ?_, ?_, ?_, ?_⟩ <;> omega

theorem shape45 (op K x0 x1 x2 x3 : Nat) (hK : K = 33554432 * op + 1048576) (h0 : x0 < 4) (h1 : x1 < 4) (h2 : x2 < 512) (h3 : x3 < 512) :
    (K + 8388608 * x0 + 2097152 * x1 + 512 * x2 + x3) / 33554432 % 16 = op % 16 ∧
    (K + 8388608 * x0 + 2097152 * x1 + 512 * x2 + x3) / 536870912 = op / 16 ∧
    (K + 8388608 * x0 + 2097152 * x1 + 512 * x2 + x3) / 262144 % 8 = 4 ∧
    (K + 8388608 * x0 + 2097152 * x1 + 512 * x2 + x3) / 8388608 % 4 = x0 ∧
    (K + 8388608 * x0 + 2097152 * x1 + 512 * x2 + x3) / 2097152 % 4 = x1 ∧
    (K + 8388608 * x0 + 2097152 * x1 + 512 * x2 + x3) % 512 = x3 ∧
    (K + 8388608 * x0 + 2097152 * x1 + 512 * x2 + x3) / 512 % 512 = x2 := by
  refine ⟨?_, ?_, ?_, ?_, ?_, ?_, ?_⟩ <;> omega

theorem shape46 (op K x0 x1 x2 x3 : Nat) (hK : K = 33554432 * op + 1310720) (h0 : x0 < 4) (h1 : x1 < 4) (h2 : x2 < 512) (h3 : x3 < 512) :
    (K + 8388608 * x0 + 2097152 * x1 + 512 * x2 + x3) / 33554432 % 16 = op % 16 ∧
    (K + 8388608 * x0 + 2097152 * x1 + 512 * x2 + x3) / 536870912 = op / 16 ∧
    (K + 8388608 * x0 + 2097152 * x1 + 512 * x2 + x3) / 262144 % 8 = 5 ∧
    (K + 8388608 * x0 + 2097152 * x1 + 512 * x2 + x3) / 8388608 % 4 = x0 ∧
    (K + 8388608 * x0 + 2097152 * x1 + 512 * x2 + x3) / 2097152 % 4 = x1 ∧
    (K + 8388608 * x0 + 2097152 * x1 + 512 * x2 + x3) % 512 = x3 ∧
    (K + 8388608 * x0 + 2097152 * x1 + 512 * x2 + x3) / 512 % 512 = x2 := by
  refine ⟨?_, ?_, ?_, ?_, ?_, ?_, ?_⟩ <;> omega

theorem shape47 (op K x0 x1 x2 x3 : Nat) (hK : K = 33554432 * op + 1572864) (h0 : x0 < 4) (h1 : x1 < 4) (h2 : x2 < 512) (h3 : x3 < 512) :
    (K + 8388608 * x0 + 2097152 * x1 + 512 * x2 + x3) / 33554432 % 16 = op % 16 ∧
    (K + 8388608 * x0 + 2097152 * x1 + 512 * x2 + x3) / 536870912 = op / 16 ∧
    (K + 8388608 * x0 + 2097152 * x1 + 512 * x2 + x3) / 262144 % 8 = 6 ∧
    (K + 8388608 * x0 + 2097152 * x1 + 512 * x2 + x3) / 8388608 % 4 = x0 ∧
    (K + 8388608 * x0 + 2097152 * x1 + 512 * x2 + x3) / 2097152 % 4 = x1 ∧
    (K + 8388608 * x0 + 2097152 * x1 + 512 * x2 + x3) % 512 = x3 ∧
    (K + 8388608 * x0 + 2097152 * x1 + 512 * x2 + x3) / 512 % 512 = x2 := by
  refine ⟨?_, ?_, ?_, ?_, ?_, ?_, ?_⟩ <;> omega

theorem shape48 (op K x0 x1 x2 x3 : Nat) (hK : K = 33554432 * op + 1835008) (h0 : x0 < 4) (h1 : x1 < 4) (h2 : x2 < 512) (h3 : x3 < 512) :
    (K + 8388608 * x0 + 2097152 * x1 + 512 * x2 + x3) / 33554432 % 16 = op % 16 ∧
    (K + 8388608 * x0 + 2097152 * x1 + 512 * x2 + x3) / 536870912 = op / 16 ∧
    (K + 8388608 * x0 + 2097152 * x1 + 512 * x2 + x3) / 262144 % 8 = 7 ∧
    (K + 8388608 * x0 + 2097152 * x1 + 512 * x2 + x3) / 8388608 % 4 = x0 ∧
    (K + 8388608 * x0 + 2097152 * x1 + 512 * x2 + x3) / 2097152 % 4 = x1 ∧
    (K + 8388608 * x0 + 2097152 * x1 + 512 * x2 + x3) % 512 = x3 ∧
    (K + 8388608 * x0 + 2097152 * x1 + 512 * x2 + x3) / 512 % 512 = x2 := by
  refine ⟨?_, ?_, ?_, ?_, ?_, ?_, ?_⟩ <;> omega

theorem shape49 (op K x0 x1 x2 x3 x4 : Nat) (hK : K = 33554432 * op + 1048576) (h0 : x0 < 4) (h1 : x1 < 4) (h2 : x2 < 4) (h3 : x3 < 512) (h4 : x4 < 512) :
    (K + 8388608 * x0 + 2097152 * x1 + 262144 * x2 + 512 * x3 + x4) / 33554432 % 16 = op % 16 ∧
    (K + 8388608 * x0 + 2097152 * x1 + 262144 * x2 + 512 * x3 + x4) / 536870912 = op / 16 ∧
    (K + 8388608 * x0 + 2097152 * x1 + 262144 * x2 + 512 * x3 + x4) / 1048576 % 2 = 1 ∧
    (K + 8388608 * x0 + 2097152 * x1 + 262144 * x2 + 512 * x3 + x4) / 8388608 % 4 = x0 ∧
    (K + 8388608 * x0 + 2097152 * x1 + 262144 * x2 + 512 * x3 + x4) / 2097152 % 4 = x1 ∧
    (K + 8388608 * x0 + 2097152 * x1 + 262144 * x2 + 512 * x3 + x4) / 262144 % 4 = x2 ∧
    (K + 8388608 * x0 + 2097152 * x1 + 262144 * x2 + 512 * x3 + x4) % 512 = x4 ∧
    (K + 8388608 * x0 + 2097152 * x1 + 262144 * x2 + 512 * x3 + x4) / 512 % 512 = x3 := by
  refine ⟨?_, ?_, ?_, ?_, ?_, ?_, ?_, ?_⟩ <;> omega

theorem shape50 (op K x0 x1 x2 : Nat) (hK : K = 33554432 * op + 0) (h0 : x0 < 512) (h1 : x1 < 2) (h2 : x2 < 4) :
    (K + 65536 * x0 + 16 * x1 + x2) / 33554432 % 16 = op % 16 ∧
    (K + 65536 * x0 + 16 * x1 + x2) / 536870912 = op / 16 ∧
    (K + 65536 * x0 + 16 * x1 + x2) / 4 % 4 = 0 ∧
    (K + 65536 * x0 + 16 * x1 + x2) / 32 % 2048 = 0 ∧
    (K + 65536 * x0 + 16 * x1 + x2) % 4 = x2 ∧
    (K + 65536 * x0 + 16 * x1 + x2) / 16 % 2 = x1 ∧
    (K + 65536 * x0 + 16 * x1 + x2) / 4 % 16384 = 4 * x1 ∧
    (K + 65536 * x0 + 16 * x1 + x2) / 65536 % 512 = x0 := by
  refine ⟨?_, ?_, ?_, ?_, ?_, ?_, ?_, ?_⟩ <;> omega

theorem shape51 (op K x0 x1 x2 : Nat) (hK : K = 33554432 * op + 4) (h0 : x0 < 512) (h1 : x1 < 2) (h2 : x2 < 4) :
    (K + 65536 * x0 + 16 * x1 + x2) / 33554432 % 16 = op % 16 ∧
    (K + 65536 * x0 + 16 * x1 + x2) / 536870912 = op / 16 ∧
    (K + 65536 * x0 + 16 * x1 + x2) / 4 % 4 = 1 ∧
    (K + 65536 * x0 + 16 * x1 + x2) / 32 % 2048 = 0 ∧
    (K + 65536 * x0 + 16 * x1 + x2) % 4 = x2 ∧
    (K + 65536 * x0 + 16 * x1 + x2) / 16 % 2 = x1 ∧
    (K + 65536 * x0 + 16 * x1 + x2) / 4 % 16384 = 1 + 4 * x1 ∧
    (K + 65536 * x0 + 16 * x1 + x2) / 65536 % 512 = x0 := by
  refine ⟨?_, ?_, ?_, ?_, ?_, ?_, ?_, ?_⟩ <;> omega

theorem shape52 (op K x0 x1 x2 : Nat) (hK : K = 33554432 * op + 8) (h0 : x0 < 512) (h1 : x1 < 2) (h2 : x2 < 4) :
    (K + 65536 * x0 + 16 * x1 + x2) / 33554432 % 16 = op % 16 ∧
    (K + 65536 * x0 + 16 * x1 + x2) / 536870912 = op / 16 ∧
    (K + 65536 * x0 + 16 * x1 + x2) / 4 % 4 = 2 ∧
    (K + 65536 * x0 + 16 * x1 + x2) / 32 % 2048 = 0 ∧
    (K + 65536 * x0 + 16 * x1 + x2) % 4 = x2 ∧
    (K + 65536 * x0 + 16 * x1 + x2) / 16 % 2 = x1 ∧
    (K + 65536 * x0 + 16 * x1 + x2) / 4 % 16384 = 2 + 4 * x1 ∧
    (K + 65536 * x0 + 16 * x1 + x2) / 65536 % 512 = x0 := by
  refine ⟨?_, ?_, ?_, ?_, ?_, ?_, ?_, ?_⟩ <;> omega

theorem shape53 (op K x0 x1 : Nat) (hK : K = 33554432 * op + 28) (h0 : x0 < 512) (h1 : x1 < 4) :
    (K + 65536 * x0 + x1) / 33554432 % 16 = op % 16 ∧
    (K + 65536 * x0 + x1) / 536870912 = op / 16 ∧
    (K + 65536 * x0 + x1) / 4 % 4 = 3 ∧
    (K + 65536 * x0 + x1) / 32 % 2048 = 0 ∧
    (K + 65536 * x0 + x1) % 4 = x1 ∧
    (K + 65536 * x0 + x1) / 16 % 2 = 1 ∧
    (K + 65536 * x0 + x1) / 4 % 16384 = 7 ∧
    (K + 65536 * x0 + x1) / 65536 % 512 = x0 := by
  refine ⟨?_, ?_, ?_, ?_, ?_, ?_, ?_, ?_⟩ <;> omega

theorem shape54 (op K x0 x1 x2 x3 : Nat) (hK : K = 33554432 * op + 0) (h0 : x0 < 4) (h1 : x1 < 8) (h2 : x2 < 512) (h3 : x3 < 512) :
    (K + 2097152 * x0 + 262144 * x1 + 512 * x2 + x3) / 33554432 % 16 = op % 16 ∧
    (K + 2097152 * x0 + 262144 * x1 + 512 * x2 + x3) / 536870912 = op / 16 ∧
    (K + 2097152 * x0 + 262144 * x1 + 512 * x2 + x3) / 8388608 % 4 = 0 ∧
    (K + 2097152 * x0 + 262144 * x1 + 512 * x2 + x3) / 2097152 % 4 = x0 ∧
    (K + 2097152 * x0 + 262144 * x1 + 512 * x2 + x3) / 262144 % 8 = x1 ∧
    (K + 2097152 * x0 + 262144 * x1 + 512 * x2 + x3) % 512 = x3 ∧
    (K + 2097152 * x0 + 262144 * x1 + 512 * x2 + x3) / 512 % 512 = x2 := by
  refine ⟨?_, ?_, ?_, ?_, ?_, ?_, ?_⟩ <;> omega

theorem shape55 (op K x0 x1 x2 x3 : Nat) (hK : K = 33554432 * op + 8388608) (h0 : x0 < 4) (h1 : x1 < 8) (h2 : x2 < 512) (h3 : x3 < 512) :
    (K + 2097152 * x0 + 262144 * x1 + 512 * x2 + x3) / 33554432 % 16 = op % 16 ∧
    (K + 2097152 * x0 + 262144 * x1 + 512 * x2 + x3) / 536870912 = op / 16 ∧
    (K + 2097152 * x0 + 262144 * x1 + 512 * x2 + x3) / 8388608 % 4 = 1 ∧
    (K + 2097152 * x0 + 262144 * x1 + 512 * x2 + x3) / 2097152 % 4 = x0 ∧
    (K + 2097152 * x0 + 262144 * x1 + 512 * x2 + x3) / 262144 % 8 = x1 ∧
    (K + 2097152 * x0 + 262144 * x1 + 512 * x2 + x3) % 512 = x3 ∧
    (K + 2097152 * x0 + 262144 * x1 + 512 * x2 + x3) / 512 % 512 = x2 := by
  refine ⟨?_, ?_, ?_, ?_, ?_, ?_, ?_⟩ <;> omega

theorem shape56 (op K x0 x1 x2 x3 : Nat) (hK : K = 33554432 * op + 16777216) (h0 : x0 < 4) (h1 : x1 < 8) (h2 : x2 < 512) (h3 : x3 < 512) :
    (K + 2097152 * x0 + 262144 * x1 + 512 * x2 + x3) / 33554432 % 16 = op % 16 ∧
    (K + 2097152 * x0 + 262144 * x1 + 512 * x2 + x3) / 536870912 = op / 16 ∧
    (K + 2097152 * x0 + 262144 * x1 + 512 * x2 + x3) / 8388608 % 4 = 2 ∧
    (K + 2097152 * x0 + 262144 * x1 + 512 * x2 + x3) / 2097152 % 4 = x0 ∧
    (K + 2097152 * x0 + 262144 * x1 + 512 * x2 + x3) / 262144 % 8 = x1 ∧
    (K + 2097152 * x0 + 262144 * x1 + 512 * x2 + x3) % 512 = x3 ∧
    (K + 2097152 * x0 + 262144 * x1 + 512 * x2 + x3) / 512 % 512 = x2 := by
  refine ⟨?_, ?_, ?_, ?_, ?_, ?_, ?_⟩ <;> omega

theorem shape57 (op K x0 x1 x2 x3 : Nat) (hK : K = 33554432 * op + 25165824) (h0 : x0 < 4) (h1 : x1 < 8) (h2 : x2 < 512) (h3 : x3 < 512) :
    (K + 2097152 * x0 + 262144 * x1 + 512 * x2 + x3) / 33554432 % 16 = op % 16 ∧
    (K + 2097152 * x0 + 262144 * x1 + 512 * x2 + x3) / 536870912 = op / 16 ∧
    (K + 2097152 * x0 + 262144 * x1 + 512 * x2 + x3) / 8388608 % 4 = 3 ∧
    (K + 2097152 * x0 + 262144 * x1 + 512 * x2 + x3) / 2097152 % 4 = x0 ∧
    (K + 2097152 * x0 + 262144 * x1 + 512 * x2 + x3) / 262144 % 8 = x1 ∧
    (K + 2097152 * x0 + 262144 * x1 + 512 * x2 + x3) % 512 = x3 ∧
    (K + 2097152 * x0 + 262144 * x1 + 512 * x2 + x3) / 512 % 512 = x2 := by
  refine ⟨?_, ?_, ?_, ?_, ?_, ?_, ?_⟩ <;> omega

theorem shape58 (op K x0 x1 : Nat) (hK : K = 33554432 * op + 262144) (h0 : x0 < 512) (h1 : x1 < 512) :
    (K + 512 * x0 + x1) / 33554432 % 16 = op % 16 ∧
    (K + 512 * x0 + x1) / 536870912 = op / 16 ∧
    (K + 512 * x0 + x1) / 262144 % 128 = 1 ∧
    (K + 512 * x0 + x1) % 512 = x1 ∧
    (K + 512 * x0 + x1) / 512 % 512 = x0 := by
  refine ⟨?_, ?_, ?_, ?_, ?_⟩ <;> omega

theorem shape59 (op K x0 x1 : Nat) (hK : K = 33554432 * op + 524288) (h0 : x0 < 512) (h1 : x1 < 512) :
    (K + 512 * x0 + x1) / 33554432 % 16 = op % 16 ∧
    (K + 512 * x0 + x1) / 536870912 = op / 16 ∧
    (K + 512 * x0 + x1) / 262144 % 128 = 2 ∧
    (K + 512 * x0 + x1) % 512 = x1 ∧
    (K + 512 * x0 + x1) / 512 % 512 = x0 := by
  refine ⟨?_, ?_, ?_, ?_, ?_⟩ <;> omega

theorem shape60 (op K x0 x1 : Nat) (hK : K = 33554432 * op + 786432) (h0 : x0 < 512) (h1 : x1 < 512) :
    (K + 512 * x0 + x1) / 33554432 % 16 = op % 16 ∧
    (K + 512 * x0 + x1) / 536870912 = op / 16 ∧
    (K + 512 * x0 + x1) / 262144 % 128 = 3 ∧
    (K + 512 * x0 + x1) % 512 = x1 ∧
    (K + 512 * x0 + x1) / 512 % 512 = x0 := by
  refine ⟨?_, ?_, ?_, ?_, ?_⟩ <;> omega

theorem shape61 (op K x0 x1 : Nat) (hK : K = 33554432 * op + 1048576) (h0 : x0 < 512) (h1 : x1 < 512) :
    (K + 512 * x0 + x1) / 33554432 % 16 = op % 16 ∧
    (K + 512 * x0 + x1) / 536870912 = op / 16 ∧
    (K + 512 * x0 + x1) / 262144 % 128 = 4 ∧
    (K + 512 * x0 + x1) % 512 = x1 ∧
    (K + 512 * x0 + x1) / 512 % 512 = x0 := by
  refine ⟨?_, ?_, ?_, ?_, ?_⟩ <;> omega

theorem shape62 (op K x0 x1 x2 : Nat) (hK : K = 33554432 * op + 0) (h0 : x0 < 2) (h1 : x1 < 512) (h2 : x2 < 512) :
    (K + 262144 * x0 + 512 * x1 + x2) / 33554432 % 16 = op % 16 ∧
    (K + 262144 * x0 + 512 * x1 + x2) / 536870912 = op / 16 ∧
    (K + 262144 * x0 + 512 * x1 + x2) / 524288 % 64 = 0 ∧
    (K + 262144 * x0 + 512 * x1 + x2) / 262144 % 2 = x0 ∧
    (K + 262144 * x0 + 512 * x1 + x2) % 512 = x2 ∧
    (K + 262144 * x0 + 512 * x1 + x2) / 512 % 512 = x1 := by
  refine ⟨?_, ?_, ?_, ?_, ?_, ?_⟩ <;> omega

theorem shape63 (op K x0 x1 x2 x3 : Nat) (hK : K = 33554432 * op + 0) (h0 : x0 < 8) (h1 : x1 < 8) (h2 : x2 < 512) (h3 : x3 < 512) :
    (K + 2097152 * x0 + 262144 * x1 + 512 * x2 + x3) / 33554432 % 16 = op % 16 ∧
    (K + 2097152 * x0 + 262144 * x1 + 512 * x2 + x3) / 536870912 = op / 16 ∧
    (K + 2097152 * x0 + 262144 * x1 + 512 * x2 + x3) / 2097152 % 16 = x0 ∧
    (K + 2097152 * x0 + 262144 * x1 + 512 * x2 + x3) / 262144 % 8 = x1 ∧
    (K + 2097152 * x0 + 262144 * x1 + 512 * x2 + x3) % 512 = x3 ∧
    (K + 2097152 * x0 + 262144 * x1 + 512 * x2 + x3) / 512 % 512 = x2 := by
  refine ⟨?_, ?_, ?_, ?_, ?_, ?_⟩ <;> omega

theorem shape64 (op K x0 x1 x2 x3 : Nat) (hK : K = 33554432 * op + 0) (h0 : x0 < 2) (h1 : x1 < 8) (h2 : x2 < 512) (h3 : x3 < 512) :
    (K + 2097152 * x0 + 262144 * x1 + 512 * x2 + x3) / 33554432 % 16 = op % 16 ∧
    (K + 2097152 * x0 + 262144 * x1 + 512 * x2 + x3) / 536870912 = op / 16 ∧
    (K + 2097152 * x0 + 262144 * x1 + 512 * x2 + x3) / 4194304 % 8 = 0 ∧
    (K + 2097152 * x0 + 262144 * x1 + 512 * x2 + x3) / 2097152 % 2 = x0 ∧
    (K + 2097152 * x0 + 262144 * x1 + 512 * x2 + x3) / 262144 % 8 = x1 ∧
    (K + 2097152 * x0 + 262144 * x1 + 512 * x2 + x3) % 512 = x3 ∧
    (K + 2097152 * x0 + 262144 * x1 + 512 * x2 + x3) / 512 % 512 = x2 := by
  refine ⟨?_, ?_, ?_, ?_, ?_, ?_, ?_⟩ <;> omega

theorem shape65 (op K x0 x1 x2 : Nat) (hK : K = 33554432 * op + 0) (h0 : x0 < 16) (h1 : x1 < 512) (h2 : x2 < 512) :
    (K + 262144 * x0 + 512 * x1 + x2) / 33554432 % 16 = op % 16 ∧
    (K + 262144 * x0 + 512 * x1 + x2) / 536870912 = op / 16 ∧
    (K + 262144 * x0 + 512 * x1 + x2) / 4194304 % 8 = 0 ∧
    (K + 262144 * x0 + 512 * x1 + x2) / 262144 % 16 = x0 ∧
    (K + 262144 * x0 + 512 * x1 + x2) % 512 = x2 ∧
    (K + 262144 * x0 + 512 * x1 + x2) / 512 % 512 = x1 := by
  refine ⟨?_, ?_, ?_, ?_, ?_, ?_⟩ <;> omega

theorem shape66 (op K x0 x1 x2 : Nat) (hK : K = 33554432 * op + 4194304) (h0 : x0 < 16) (h1 : x1 < 512) (h2 : x2 < 512) :
    (K + 262144 * x0 + 512 * x1 + x2) / 33554432 % 16 = op % 16 ∧
    (K + 262144 * x0 + 512 * x1 + x2) / 536870912 = op / 16 ∧
    (K + 262144 * x0 + 512 * x1 + x2) / 4194304 % 8 = 1 ∧
    (K + 262144 * x0 + 512 * x1 + x2) / 262144 % 16 = x0 ∧
    (K + 262144 * x0 + 512 * x1 + x2) % 512 = x2 ∧
    (K + 262144 * x0 + 512 * x1 + x2) / 512 % 512 = x1 := by
  refine ⟨?_, ?_, ?_, ?_, ?_, ?_⟩ <;> omega

theorem shape67 (op K x0 x1 x2 : Nat) (hK : K = 33554432 * op + 8388608) (h0 : x0 < 16) (h1 : x1 < 512) (h2 : x2 < 512) :
    (K + 262144 * x0 + 512 * x1 + x2) / 33554432 % 16 = op % 16 ∧
    (K + 262144 * x0 + 512 * x1 + x2) / 536870912 = op / 16 ∧
    (K + 262144 * x0 + 512 * x1 + x2) / 4194304 % 8 = 2 ∧
    (K + 262144 * x0 + 512 * x1 + x2) / 262144 % 16 = x0 ∧
    (K + 262144 * x0 + 512 * x1 + x2) % 512 = x2 ∧
    (K + 262144 * x0 + 512 * x1 + x2) / 512 % 512 = x1 := by
  refine ⟨?_, ?_, ?_, ?_, ?_, ?_⟩ <;> omega

theorem shape68 (op K x0 x1 x2 : Nat) (hK : K = 33554432 * op + 0) (h0 : x0 < 6) (h1 : x1 < 512) (h2 : x2 < 512) :
    (K + 262144 * x0 + 512 * x1 + x2) / 33554432 % 16 = op % 16 ∧
    (K + 262144 * x0 + 512 * x1 + x2) / 536870912 = op / 16 ∧
    (K + 262144 * x0 + 512 * x1 + x2) / 2097152 % 16 = 0 ∧
    (K + 262144 * x0 + 512 * x1 + x2) / 262144 % 8 = x0 ∧
    (K + 262144 * x0 + 512 * x1 + x2) % 512 = x2 ∧
    (K + 262144 * x0 + 512 * x1 + x2) / 512 % 512 = x1 := by
  refine ⟨?_, ?_, ?_, ?_, ?_, ?_⟩ <;> omega

theorem shape69 (op K x0 x1 : Nat) (hK : K = 33554432 * op + 0) (h0 : x0 < 512) (h1 : x1 < 512) :
    (K + 512 * x0 + x1) / 33554432 % 16 = op % 16 ∧
    (K + 512 * x0 + x1) / 536870912 = op / 16 ∧
    (K + 512 * x0 + x1) / 262144 % 128 = 0 ∧
    (K + 512 * x0 + x1) / 2097152 % 16 = 0 ∧
    (K + 512 * x0 + x1) / 262144 % 8 = 0 ∧
    (K + 512 * x0 + x1) % 512 = x1 ∧
    (K + 512 * x0 + x1) / 512 % 512 = x0 := by
  refine ⟨?_, ?_, ?_, ?_, ?_, ?_, ?_⟩ <;> omega

theorem shape70 (op K x0 x1 x2 : Nat) (hK : K = 33554432 * op + 2097152) (h0 : x0 < 8) (h1 : x1 < 512) (h2 : x2 < 512) :
    (K + 262144 * x0 + 512 * x1 + x2) / 33554432 % 16 = op % 16 ∧
    (K + 262144 * x0 + 512 * x1 + x2) / 536870912 = op / 16 ∧
    (K + 262144 * x0 + 512 * x1 + x2) / 262144 % 128 = 8 + x0 ∧
    (K + 262144 * x0 + 512 * x1 + x2) / 2097152 % 16 = 1 ∧
    (K + 262144 * x0 + 512 * x1 + x2) / 262144 % 8 = x0 ∧
    (K + 262144 * x0 + 512 * x1 + x2) % 512 = x2 ∧
    (K + 262144 * x0 + 512 * x1 + x2) / 512 % 512 = x1 := by
  refine ⟨?_, ?_, ?_, ?_, ?_, ?_, ?_⟩ <;> omega

/-- Decoding the word of a well-formed instruction gives the instruction back; an event has no word. -/
def RoundTrip.Statement (i : Instr) : Prop := ∀ w, encode i = some w → i.wf = true → decode w = .ok i

theorem RoundTrip.rd (g : Fin 64) (tb : Target) (ta : Target) : RoundTrip.Statement (.rd g tb ta) := by
  intro w h _
  obtain rfl := Option.some.inj (show some (BitVec.ofNat 32 (0x02000000 + 524288 * g.val + 512 * tb.code + ta.code)) = some w from h)
  obtain ⟨e0, e1, e2, e3, e4, e5⟩ := shape0 1 0x02000000 _ _ _ (by decide) (g.isLt) (Target.code_lt tb) (Target.code_lt ta)
  rw [decode_row0 _ e1, e0]
  simp [decodeRow0, decodeOp01, withT2, e2, e3, e4, e5]

theorem RoundTrip.movi (ta : Target) (imm : BitVec 16) : RoundTrip.Statement (.movi ta imm) := by
  intro w h _
  obtain rfl := Option.some.inj (show some (BitVec.ofNat 32 (0x04000000 + 65536 * ta.code + imm.toNat)) = some w from h)
  obtain ⟨e0, e1, e2, e3⟩ := shape1 2 0x04000000 _ _ (by decide) (Target.code_lt ta) (imm.isLt)
  rw [decode_row0 _ e1, e0]
  simp [decodeRow0, decodeOp02, withT1, e2, e3]

theorem RoundTrip.movhi (ta : Target) (imm : BitVec 16) : RoundTrip.Statement (.movhi ta imm) := by
  intro w h _
  obtain rfl := Option.some.inj (show some (BitVec.ofNat 32 (0x06000000 + 65536 * ta.code + imm.toNat)) = some w from h)
  obtain ⟨e0, e1, e2, e3⟩ := shape1 3 0x06000000 _ _ (by decide) (Target.code_lt ta) (imm.isLt)
  rw [decode_row0 _ e1, e0]
  simp [decodeRow0, decodeOp03, withT1, e2, e3]

theorem RoundTrip.mov (tb : Target) (ta : Target) : RoundTrip.Statement (.mov tb ta) := by
  intro w h _
  obtain rfl := Option.some.inj (show some (BitVec.ofNat 32 (0x08000000 + 512 * tb.code + ta.code)) = some w from h)
  obtain ⟨e0, e1, e2, e3, e4⟩ := shape2 4 0x08000000 _ _ (by decide) (Target.code_lt tb) (Target.code_lt ta)
  rw [decode_row0 _ e1, e0]
  simp [decodeRow0, decodeOp04, withT2, e2, e3, e4]

theorem RoundTrip.br (cond : Cond) (off : BitVec 22) : RoundTrip.Statement (.br cond off) := by
  intro w h _
  obtain rfl := Option.some.inj (show some (BitVec.ofNat 32 (0x0A000000 + 4194304 * cond.code + off.toNat)) = some w from h)
  obtain ⟨e0, e1, e2, e3⟩ := shape3 5 0x0A000000 _ _ (by decide) (Cond.code_lt cond) (off.isLt)
  rw [decode_row0 _ e1, e0]
  simp [decodeRow0, decodeOp05, e2, e3]

theorem RoundTrip.call (cond : Cond) (off : BitVec 22) : RoundTrip.Statement (.call cond off) := by
  intro w h _
  obtain rfl := Option.some.inj (show some (BitVec.ofNat 32 (0x0C000000 + 4194304 * cond.code + off.toNat)) = some w from h)
  obtain ⟨e0, e1, e2, e3⟩ := shape3 6 0x0C000000 _ _ (by decide) (Cond.code_lt cond) (off.isLt)
  rw [decode_row0 _ e1, e0]
  simp [decodeRow0, decodeOp06, e2, e3]

theorem RoundTrip.brr : RoundTrip.Statement (.brr) := by
  intro w h _
  obtain rfl := Option.some.inj (show some (BitVec.ofNat 32 (0x0E00FE7F)) = some w from h)
  obtain ⟨e0, e1, e2, e3, e4⟩ := shape4 7 0x0E00FE7F  (by decide) 
  rw [decode_row0 _ e1, e0]
  simp [decodeRow0, decodeOp07, noT2, e2, e3, e4]

theorem RoundTrip.rnd (deadline : BitVec 12) : RoundTrip.Statement (.rnd deadline) := by
  intro w h hw
  obtain rfl := Option.some.inj (show some (BitVec.ofNat 32 (0x107F0000 + deadline.toNat)) = some w from h)
  have hd : deadline.toNat ≠ 0 := by
    intro h0; have : deadline = 0 := by apply BitVec.eq_of_toNat_eq; simpa using h0
    simp [Instr.wf, this] at hw
  obtain ⟨e0, e1, e2, e3, e4⟩ := shape5 8 0x107F0000 _ (by decide) (deadline.isLt)
  rw [decode_row0 _ e1, e0]
  simp [decodeRow0, decodeOp08, noT1, e2, e3, e4, hd]

theorem RoundTrip.exit : RoundTrip.Statement (.exit) := by
  intro w h _
  obtain rfl := Option.some.inj (show some (BitVec.ofNat 32 (0x1200FE7F)) = some w from h)
  obtain ⟨e0, e1, e2, e3, e4⟩ := shape4 9 0x1200FE7F  (by decide) 
  rw [decode_row0 _ e1, e0]
  simp [decodeRow0, decodeOp09, noT2, e2, e3, e4]

theorem RoundTrip.tdone : RoundTrip.Statement (.tdone) := by
  intro w h _
  obtain rfl := Option.some.inj (show some (BitVec.ofNat 32 (0x1204FE7F)) = some w from h)
  obtain ⟨e0, e1, e2, e3, e4⟩ := shape6 9 0x1204FE7F  (by decide) 
  rw [decode_row0 _ e1, e0]
  simp [decodeRow0, decodeOp09, noT2, e2, e3, e4]

theorem RoundTrip.trap (imm : BitVec 16) : RoundTrip.Statement (.trap imm) := by
  intro w h _
  obtain rfl := Option.some.inj (show some (BitVec.ofNat 32 (0x147F0000 + imm.toNat)) = some w from h)
  obtain ⟨e0, e1, e2, e3⟩ := shape7 10 0x147F0000 _ (by decide) (imm.isLt)
  rw [decode_row0 _ e1, e0]
  simp [decodeRow0, decodeOp0A, noT1, e2, e3]

theorem RoundTrip.bkpt (imm : BitVec 16) : RoundTrip.Statement (.bkpt imm) := by
  intro w h _
  obtain rfl := Option.some.inj (show some (BitVec.ofNat 32 (0x167F0000 + imm.toNat)) = some w from h)
  obtain ⟨e0, e1, e2, e3⟩ := shape7 11 0x167F0000 _ (by decide) (imm.isLt)
  rw [decode_row0 _ e1, e0]
  simp [decodeRow0, decodeOp0B, noT1, e2, e3]

theorem RoundTrip.sysrd (ta : Target) (idx : BitVec 12) : RoundTrip.Statement (.sysrd ta idx) := by
  intro w h _
  obtain rfl := Option.some.inj (show some (BitVec.ofNat 32 (0x18000000 + 65536 * ta.code + idx.toNat)) = some w from h)
  obtain ⟨e0, e1, e2, e3, e4⟩ := shape8 12 0x18000000 _ _ (by decide) (Target.code_lt ta) (idx.isLt)
  rw [decode_row0 _ e1, e0]
  simp [decodeRow0, decodeOp0C, withT1, e2, e3, e4]

theorem RoundTrip.syswr (idx : BitVec 12) : RoundTrip.Statement (.syswr idx) := by
  intro w h _
  obtain rfl := Option.some.inj (show some (BitVec.ofNat 32 (0x1A7F0000 + idx.toNat)) = some w from h)
  obtain ⟨e0, e1, e2, e3, e4⟩ := shape5 13 0x1A7F0000 _ (by decide) (idx.isLt)
  rw [decode_row0 _ e1, e0]
  simp [decodeRow0, decodeOp0D, noT1, e2, e3, e4]

theorem RoundTrip.spawn (tb : Target) (ta : Target) : RoundTrip.Statement (.spawn tb ta) := by
  intro w h _
  obtain rfl := Option.some.inj (show some (BitVec.ofNat 32 (0x1C000000 + 512 * tb.code + ta.code)) = some w from h)
  obtain ⟨e0, e1, e2, e3, e4⟩ := shape2 14 0x1C000000 _ _ (by decide) (Target.code_lt tb) (Target.code_lt ta)
  rw [decode_row0 _ e1, e0]
  simp [decodeRow0, decodeOp0E, withT2, e2, e3, e4]

theorem RoundTrip.null (tb : Target) (ta : Target) : RoundTrip.Statement (.null tb ta) := by
  intro w h _
  obtain rfl := Option.some.inj (show some (BitVec.ofNat 32 (0x1E000000 + 512 * tb.code + ta.code)) = some w from h)
  obtain ⟨e0, e1, e2, e3, e4⟩ := shape2 15 0x1E000000 _ _ (by decide) (Target.code_lt tb) (Target.code_lt ta)
  rw [decode_row0 _ e1, e0]
  simp [decodeRow0, decodeOp0F, withT2, e2, e3, e4]

theorem RoundTrip.add (width : IntWidth) (sgn : Bool) (sat : Bool) (tb : Target) (ta : Target) : RoundTrip.Statement (.add width sgn sat tb ta) := by
  intro w h _
  obtain rfl := Option.some.inj (show some (BitVec.ofNat 32 (0x20000000 + 8388608 * width.code + 4194304 * (bitCode sgn) + 2097152 * (bitCode sat) + 512 * tb.code + ta.code)) = some w from h)
  obtain ⟨e0, e1, e2, e3, e4, e5, e6, e7⟩ := shape9 16 0x20000000 _ _ _ _ _ (by decide) (IntWidth.code_lt width) (bitCode_lt sgn) (bitCode_lt sat) (Target.code_lt tb) (Target.code_lt ta)
  rw [decode_row1 _ e1, e0]
  simp [decodeRow1, decodeOp10, withT2, e2, e3, e4, e5, e6, e7]

theorem RoundTrip.sub (width : IntWidth) (sgn : Bool) (sat : Bool) (tb : Target) (ta : Target) : RoundTrip.Statement (.sub width sgn sat tb ta) := by
  intro w h _
  obtain rfl := Option.some.inj (show some (BitVec.ofNat 32 (0x22000000 + 8388608 * width.code + 4194304 * (bitCode sgn) + 2097152 * (bitCode sat) + 512 * tb.code + ta.code)) = some w from h)
  obtain ⟨e0, e1, e2, e3, e4, e5, e6, e7⟩ := shape9 17 0x22000000 _ _ _ _ _ (by decide) (IntWidth.code_lt width) (bitCode_lt sgn) (bitCode_lt sat) (Target.code_lt tb) (Target.code_lt ta)
  rw [decode_row1 _ e1, e0]
  simp [decodeRow1, decodeOp11, withT2, e2, e3, e4, e5, e6, e7]

theorem RoundTrip.mul (width : IntWidth) (sgn : Bool) (sat : Bool) (tb : Target) (ta : Target) : RoundTrip.Statement (.mul width sgn sat tb ta) := by
  intro w h _
  obtain rfl := Option.some.inj (show some (BitVec.ofNat 32 (0x24000000 + 8388608 * width.code + 4194304 * (bitCode sgn) + 2097152 * (bitCode sat) + 512 * tb.code + ta.code)) = some w from h)
  obtain ⟨e0, e1, e2, e3, e4, e5, e6, e7⟩ := shape9 18 0x24000000 _ _ _ _ _ (by decide) (IntWidth.code_lt width) (bitCode_lt sgn) (bitCode_lt sat) (Target.code_lt tb) (Target.code_lt ta)
  rw [decode_row1 _ e1, e0]
  simp [decodeRow1, decodeOp12, withT2, e2, e3, e4, e5, e6, e7]

theorem RoundTrip.mulh (width : IntWidth) (sgn : Bool) (tb : Target) (ta : Target) : RoundTrip.Statement (.mulh width sgn tb ta) := by
  intro w h _
  obtain rfl := Option.some.inj (show some (BitVec.ofNat 32 (0x26000000 + 8388608 * width.code + 4194304 * (bitCode sgn) + 512 * tb.code + ta.code)) = some w from h)
  obtain ⟨e0, e1, e2, e3, e4, e5, e6⟩ := shape10 19 0x26000000 _ _ _ _ (by decide) (IntWidth.code_lt width) (bitCode_lt sgn) (Target.code_lt tb) (Target.code_lt ta)
  rw [decode_row1 _ e1, e0]
  simp [decodeRow1, decodeOp13, withT2, e2, e3, e4, e5, e6]

theorem RoundTrip.div (width : IntWidth) (sgn : Bool) (tb : Target) (ta : Target) : RoundTrip.Statement (.div width sgn tb ta) := by
  intro w h _
  obtain rfl := Option.some.inj (show some (BitVec.ofNat 32 (0x28000000 + 8388608 * width.code + 4194304 * (bitCode sgn) + 512 * tb.code + ta.code)) = some w from h)
  obtain ⟨e0, e1, e2, e3, e4, e5, e6⟩ := shape10 20 0x28000000 _ _ _ _ (by decide) (IntWidth.code_lt width) (bitCode_lt sgn) (Target.code_lt tb) (Target.code_lt ta)
  rw [decode_row1 _ e1, e0]
  simp [decodeRow1, decodeOp14, withT2, e2, e3, e4, e5, e6]

theorem RoundTrip.rem (width : IntWidth) (sgn : Bool) (tb : Target) (ta : Target) : RoundTrip.Statement (.rem width sgn tb ta) := by
  intro w h _
  obtain rfl := Option.some.inj (show some (BitVec.ofNat 32 (0x2A000000 + 8388608 * width.code + 4194304 * (bitCode sgn) + 512 * tb.code + ta.code)) = some w from h)
  obtain ⟨e0, e1, e2, e3, e4, e5, e6⟩ := shape10 21 0x2A000000 _ _ _ _ (by decide) (IntWidth.code_lt width) (bitCode_lt sgn) (Target.code_lt tb) (Target.code_lt ta)
  rw [decode_row1 _ e1, e0]
  simp [decodeRow1, decodeOp15, withT2, e2, e3, e4, e5, e6]

theorem RoundTrip.and (width : IntWidth) (sgn : Bool) (tb : Target) (ta : Target) : RoundTrip.Statement (.and width sgn tb ta) := by
  intro w h _
  obtain rfl := Option.some.inj (show some (BitVec.ofNat 32 (0x2C000000 + 8388608 * width.code + 4194304 * (bitCode sgn) + 512 * tb.code + ta.code)) = some w from h)
  obtain ⟨e0, e1, e2, e3, e4, e5, e6⟩ := shape10 22 0x2C000000 _ _ _ _ (by decide) (IntWidth.code_lt width) (bitCode_lt sgn) (Target.code_lt tb) (Target.code_lt ta)
  rw [decode_row1 _ e1, e0]
  simp [decodeRow1, decodeOp16, withT2, e2, e3, e4, e5, e6]

theorem RoundTrip.or (width : IntWidth) (sgn : Bool) (tb : Target) (ta : Target) : RoundTrip.Statement (.or width sgn tb ta) := by
  intro w h _
  obtain rfl := Option.some.inj (show some (BitVec.ofNat 32 (0x2E000000 + 8388608 * width.code + 4194304 * (bitCode sgn) + 512 * tb.code + ta.code)) = some w from h)
  obtain ⟨e0, e1, e2, e3, e4, e5, e6⟩ := shape10 23 0x2E000000 _ _ _ _ (by decide) (IntWidth.code_lt width) (bitCode_lt sgn) (Target.code_lt tb) (Target.code_lt ta)
  rw [decode_row1 _ e1, e0]
  simp [decodeRow1, decodeOp17, withT2, e2, e3, e4, e5, e6]

theorem RoundTrip.xor (width : IntWidth) (sgn : Bool) (tb : Target) (ta : Target) : RoundTrip.Statement (.xor width sgn tb ta) := by
  intro w h _
  obtain rfl := Option.some.inj (show some (BitVec.ofNat 32 (0x30000000 + 8388608 * width.code + 4194304 * (bitCode sgn) + 512 * tb.code + ta.code)) = some w from h)
  obtain ⟨e0, e1, e2, e3, e4, e5, e6⟩ := shape10 24 0x30000000 _ _ _ _ (by decide) (IntWidth.code_lt width) (bitCode_lt sgn) (Target.code_lt tb) (Target.code_lt ta)
  rw [decode_row1 _ e1, e0]
  simp [decodeRow1, decodeOp18, withT2, e2, e3, e4, e5, e6]

theorem RoundTrip.andn (width : IntWidth) (sgn : Bool) (tb : Target) (ta : Target) : RoundTrip.Statement (.andn width sgn tb ta) := by
  intro w h _
  obtain rfl := Option.some.inj (show some (BitVec.ofNat 32 (0x32000000 + 8388608 * width.code + 4194304 * (bitCode sgn) + 512 * tb.code + ta.code)) = some w from h)
  obtain ⟨e0, e1, e2, e3, e4, e5, e6⟩ := shape10 25 0x32000000 _ _ _ _ (by decide) (IntWidth.code_lt width) (bitCode_lt sgn) (Target.code_lt tb) (Target.code_lt ta)
  rw [decode_row1 _ e1, e0]
  simp [decodeRow1, decodeOp19, withT2, e2, e3, e4, e5, e6]

theorem RoundTrip.shl (width : IntWidth) (sgn : Bool) (tb : Target) (ta : Target) : RoundTrip.Statement (.shl width sgn tb ta) := by
  intro w h _
  obtain rfl := Option.some.inj (show some (BitVec.ofNat 32 (0x34000000 + 8388608 * width.code + 4194304 * (bitCode sgn) + 512 * tb.code + ta.code)) = some w from h)
  obtain ⟨e0, e1, e2, e3, e4, e5, e6⟩ := shape10 26 0x34000000 _ _ _ _ (by decide) (IntWidth.code_lt width) (bitCode_lt sgn) (Target.code_lt tb) (Target.code_lt ta)
  rw [decode_row1 _ e1, e0]
  simp [decodeRow1, decodeOp1A, withT2, e2, e3, e4, e5, e6]

theorem RoundTrip.shr (width : IntWidth) (sgn : Bool) (tb : Target) (ta : Target) : RoundTrip.Statement (.shr width sgn tb ta) := by
  intro w h _
  obtain rfl := Option.some.inj (show some (BitVec.ofNat 32 (0x36000000 + 8388608 * width.code + 4194304 * (bitCode sgn) + 512 * tb.code + ta.code)) = some w from h)
  obtain ⟨e0, e1, e2, e3, e4, e5, e6⟩ := shape10 27 0x36000000 _ _ _ _ (by decide) (IntWidth.code_lt width) (bitCode_lt sgn) (Target.code_lt tb) (Target.code_lt ta)
  rw [decode_row1 _ e1, e0]
  simp [decodeRow1, decodeOp1B, withT2, e2, e3, e4, e5, e6]

theorem RoundTrip.sar (width : IntWidth) (sgn : Bool) (tb : Target) (ta : Target) : RoundTrip.Statement (.sar width sgn tb ta) := by
  intro w h _
  obtain rfl := Option.some.inj (show some (BitVec.ofNat 32 (0x38000000 + 8388608 * width.code + 4194304 * (bitCode sgn) + 512 * tb.code + ta.code)) = some w from h)
  obtain ⟨e0, e1, e2, e3, e4, e5, e6⟩ := shape10 28 0x38000000 _ _ _ _ (by decide) (IntWidth.code_lt width) (bitCode_lt sgn) (Target.code_lt tb) (Target.code_lt ta)
  rw [decode_row1 _ e1, e0]
  simp [decodeRow1, decodeOp1C, withT2, e2, e3, e4, e5, e6]

theorem RoundTrip.rot (width : IntWidth) (sgn : Bool) (tb : Target) (ta : Target) : RoundTrip.Statement (.rot width sgn tb ta) := by
  intro w h _
  obtain rfl := Option.some.inj (show some (BitVec.ofNat 32 (0x3A000000 + 8388608 * width.code + 4194304 * (bitCode sgn) + 512 * tb.code + ta.code)) = some w from h)
  obtain ⟨e0, e1, e2, e3, e4, e5, e6⟩ := shape10 29 0x3A000000 _ _ _ _ (by decide) (IntWidth.code_lt width) (bitCode_lt sgn) (Target.code_lt tb) (Target.code_lt ta)
  rw [decode_row1 _ e1, e0]
  simp [decodeRow1, decodeOp1D, withT2, e2, e3, e4, e5, e6]

theorem RoundTrip.min (width : IntWidth) (sgn : Bool) (tb : Target) (ta : Target) : RoundTrip.Statement (.min width sgn tb ta) := by
  intro w h _
  obtain rfl := Option.some.inj (show some (BitVec.ofNat 32 (0x3C000000 + 8388608 * width.code + 4194304 * (bitCode sgn) + 512 * tb.code + ta.code)) = some w from h)
  obtain ⟨e0, e1, e2, e3, e4, e5, e6⟩ := shape10 30 0x3C000000 _ _ _ _ (by decide) (IntWidth.code_lt width) (bitCode_lt sgn) (Target.code_lt tb) (Target.code_lt ta)
  rw [decode_row1 _ e1, e0]
  simp [decodeRow1, decodeOp1E, withT2, e2, e3, e4, e5, e6]

theorem RoundTrip.max (width : IntWidth) (sgn : Bool) (tb : Target) (ta : Target) : RoundTrip.Statement (.max width sgn tb ta) := by
  intro w h _
  obtain rfl := Option.some.inj (show some (BitVec.ofNat 32 (0x3E000000 + 8388608 * width.code + 4194304 * (bitCode sgn) + 512 * tb.code + ta.code)) = some w from h)
  obtain ⟨e0, e1, e2, e3, e4, e5, e6⟩ := shape10 31 0x3E000000 _ _ _ _ (by decide) (IntWidth.code_lt width) (bitCode_lt sgn) (Target.code_lt tb) (Target.code_lt ta)
  rw [decode_row1 _ e1, e0]
  simp [decodeRow1, decodeOp1F, withT2, e2, e3, e4, e5, e6]

theorem RoundTrip.cmp (width : IntWidth) (sgn : Bool) (cmp : ICmp) (tb : Target) (ta : Target) : RoundTrip.Statement (.cmp width sgn cmp tb ta) := by
  intro w h _
  obtain rfl := Option.some.inj (show some (BitVec.ofNat 32 (0x40000000 + 8388608 * width.code + 4194304 * (bitCode sgn) + 524288 * cmp.code + 512 * tb.code + ta.code)) = some w from h)
  obtain ⟨e0, e1, e2, e3, e4, e5, e6, e7⟩ := shape11 32 0x40000000 _ _ _ _ _ (by decide) (IntWidth.code_lt width) (bitCode_lt sgn) (ICmp.code_lt cmp) (Target.code_lt tb) (Target.code_lt ta)
  rw [decode_row2 _ e1, e0]
  simp [decodeRow2, decodeOp20, withT2, e2, e3, e4, e5, e6, e7]

theorem RoundTrip.sel (tb : Target) (ta : Target) : RoundTrip.Statement (.sel tb ta) := by
  intro w h _
  obtain rfl := Option.some.inj (show some (BitVec.ofNat 32 (0x42000000 + 512 * tb.code + ta.code)) = some w from h)
  obtain ⟨e0, e1, e2, e3, e4⟩ := shape2 33 0x42000000 _ _ (by decide) (Target.code_lt tb) (Target.code_lt ta)
  rw [decode_row2 _ e1, e0]
  simp [decodeRow2, decodeOp21, withT2, e2, e3, e4]

theorem RoundTrip.bitcPopc (width : IntWidth) (tb : Target) (ta : Target) : RoundTrip.Statement (.bitcPopc width tb ta) := by
  intro w h _
  obtain rfl := Option.some.inj (show some (BitVec.ofNat 32 (0x44000000 + 8388608 * width.code + 512 * tb.code + ta.code)) = some w from h)
  obtain ⟨e0, e1, e2, e3, e4, e5⟩ := shape12 34 0x44000000 _ _ _ (by decide) (IntWidth.code_lt width) (Target.code_lt tb) (Target.code_lt ta)
  rw [decode_row2 _ e1, e0]
  simp [decodeRow2, decodeOp22, withT2, e2, e3, e4, e5]

theorem RoundTrip.bitcClz (width : IntWidth) (tb : Target) (ta : Target) : RoundTrip.Statement (.bitcClz width tb ta) := by
  intro w h _
  obtain rfl := Option.some.inj (show some (BitVec.ofNat 32 (0x44040000 + 8388608 * width.code + 512 * tb.code + ta.code)) = some w from h)
  obtain ⟨e0, e1, e2, e3, e4, e5⟩ := shape13 34 0x44040000 _ _ _ (by decide) (IntWidth.code_lt width) (Target.code_lt tb) (Target.code_lt ta)
  rw [decode_row2 _ e1, e0]
  simp [decodeRow2, decodeOp22, withT2, e2, e3, e4, e5]

theorem RoundTrip.bitcCtz (width : IntWidth) (tb : Target) (ta : Target) : RoundTrip.Statement (.bitcCtz width tb ta) := by
  intro w h _
  obtain rfl := Option.some.inj (show some (BitVec.ofNat 32 (0x44080000 + 8388608 * width.code + 512 * tb.code + ta.code)) = some w from h)
  obtain ⟨e0, e1, e2, e3, e4, e5⟩ := shape14 34 0x44080000 _ _ _ (by decide) (IntWidth.code_lt width) (Target.code_lt tb) (Target.code_lt ta)
  rw [decode_row2 _ e1, e0]
  simp [decodeRow2, decodeOp22, withT2, e2, e3, e4, e5]

theorem RoundTrip.bitcBrev (width : IntWidth) (tb : Target) (ta : Target) : RoundTrip.Statement (.bitcBrev width tb ta) := by
  intro w h _
  obtain rfl := Option.some.inj (show some (BitVec.ofNat 32 (0x440C0000 + 8388608 * width.code + 512 * tb.code + ta.code)) = some w from h)
  obtain ⟨e0, e1, e2, e3, e4, e5⟩ := shape15 34 0x440C0000 _ _ _ (by decide) (IntWidth.code_lt width) (Target.code_lt tb) (Target.code_lt ta)
  rw [decode_row2 _ e1, e0]
  simp [decodeRow2, decodeOp22, withT2, e2, e3, e4, e5]

theorem RoundTrip.bitcBswap (width : IntWidth) (tb : Target) (ta : Target) : RoundTrip.Statement (.bitcBswap width tb ta) := by
  intro w h _
  obtain rfl := Option.some.inj (show some (BitVec.ofNat 32 (0x44100000 + 8388608 * width.code + 512 * tb.code + ta.code)) = some w from h)
  obtain ⟨e0, e1, e2, e3, e4, e5⟩ := shape16 34 0x44100000 _ _ _ (by decide) (IntWidth.code_lt width) (Target.code_lt tb) (Target.code_lt ta)
  rw [decode_row2 _ e1, e0]
  simp [decodeRow2, decodeOp22, withT2, e2, e3, e4, e5]

theorem RoundTrip.bfx (ta : Target) (sgn : Bool) (lenM1 : BitVec 6) (lo : BitVec 6) : RoundTrip.Statement (.bfx ta sgn lenM1 lo) := by
  intro w h _
  obtain rfl := Option.some.inj (show some (BitVec.ofNat 32 (0x46000000 + 65536 * ta.code + 4096 * (bitCode sgn) + 64 * lenM1.toNat + lo.toNat)) = some w from h)
  obtain ⟨e0, e1, e2, e3, e4, e5, e6⟩ := shape17 35 0x46000000 _ _ _ _ (by decide) (Target.code_lt ta) (bitCode_lt sgn) (lenM1.isLt) (lo.isLt)
  rw [decode_row2 _ e1, e0]
  simp [decodeRow2, decodeOp23, withT1, e2, e3, e4, e5, e6]

theorem RoundTrip.bfi (tb : Target) (ta : Target) : RoundTrip.Statement (.bfi tb ta) := by
  intro w h _
  obtain rfl := Option.some.inj (show some (BitVec.ofNat 32 (0x48000000 + 512 * tb.code + ta.code)) = some w from h)
  obtain ⟨e0, e1, e2, e3, e4⟩ := shape2 36 0x48000000 _ _ (by decide) (Target.code_lt tb) (Target.code_lt ta)
  rw [decode_row2 _ e1, e0]
  simp [decodeRow2, decodeOp24, withT2, e2, e3, e4]

theorem RoundTrip.lea (sh : BitVec 3) (tb : Target) (ta : Target) : RoundTrip.Statement (.lea sh tb ta) := by
  intro w h _
  obtain rfl := Option.some.inj (show some (BitVec.ofNat 32 (0x4A000000 + 262144 * sh.toNat + 512 * tb.code + ta.code)) = some w from h)
  obtain ⟨e0, e1, e2, e3, e4, e5⟩ := shape18 37 0x4A000000 _ _ _ (by decide) (sh.isLt) (Target.code_lt tb) (Target.code_lt ta)
  rw [decode_row2 _ e1, e0]
  simp [decodeRow2, decodeOp25, withT2, e2, e3, e4, e5]

theorem RoundTrip.addi (ta : Target) (imm : BitVec 16) : RoundTrip.Statement (.addi ta imm) := by
  intro w h _
  obtain rfl := Option.some.inj (show some (BitVec.ofNat 32 (0x4C000000 + 65536 * ta.code + imm.toNat)) = some w from h)
  obtain ⟨e0, e1, e2, e3⟩ := shape1 38 0x4C000000 _ _ (by decide) (Target.code_lt ta) (imm.isLt)
  rw [decode_row2 _ e1, e0]
  simp [decodeRow2, decodeOp26, withT1, e2, e3]

theorem RoundTrip.andi (ta : Target) (imm : BitVec 16) : RoundTrip.Statement (.andi ta imm) := by
  intro w h _
  obtain rfl := Option.some.inj (show some (BitVec.ofNat 32 (0x4E000000 + 65536 * ta.code + imm.toNat)) = some w from h)
  obtain ⟨e0, e1, e2, e3⟩ := shape1 39 0x4E000000 _ _ (by decide) (Target.code_lt ta) (imm.isLt)
  rw [decode_row2 _ e1, e0]
  simp [decodeRow2, decodeOp27, withT1, e2, e3]

theorem RoundTrip.ori (ta : Target) (imm : BitVec 16) : RoundTrip.Statement (.ori ta imm) := by
  intro w h _
  obtain rfl := Option.some.inj (show some (BitVec.ofNat 32 (0x50000000 + 65536 * ta.code + imm.toNat)) = some w from h)
  obtain ⟨e0, e1, e2, e3⟩ := shape1 40 0x50000000 _ _ (by decide) (Target.code_lt ta) (imm.isLt)
  rw [decode_row2 _ e1, e0]
  simp [decodeRow2, decodeOp28, withT1, e2, e3]

theorem RoundTrip.xori (ta : Target) (imm : BitVec 16) : RoundTrip.Statement (.xori ta imm) := by
  intro w h _
  obtain rfl := Option.some.inj (show some (BitVec.ofNat 32 (0x52000000 + 65536 * ta.code + imm.toNat)) = some w from h)
  obtain ⟨e0, e1, e2, e3⟩ := shape1 41 0x52000000 _ _ (by decide) (Target.code_lt ta) (imm.isLt)
  rw [decode_row2 _ e1, e0]
  simp [decodeRow2, decodeOp29, withT1, e2, e3]

theorem RoundTrip.shfiShl (ta : Target) (cnt : BitVec 6) : RoundTrip.Statement (.shfiShl ta cnt) := by
  intro w h _
  obtain rfl := Option.some.inj (show some (BitVec.ofNat 32 (0x54000000 + 65536 * ta.code + cnt.toNat)) = some w from h)
  obtain ⟨e0, e1, e2, e3, e4⟩ := shape19 42 0x54000000 _ _ (by decide) (Target.code_lt ta) (cnt.isLt)
  rw [decode_row2 _ e1, e0]
  simp [decodeRow2, decodeOp2A, withT1, e2, e3, e4]

theorem RoundTrip.shfiShr (ta : Target) (cnt : BitVec 6) : RoundTrip.Statement (.shfiShr ta cnt) := by
  intro w h _
  obtain rfl := Option.some.inj (show some (BitVec.ofNat 32 (0x54000040 + 65536 * ta.code + cnt.toNat)) = some w from h)
  obtain ⟨e0, e1, e2, e3, e4⟩ := shape20 42 0x54000040 _ _ (by decide) (Target.code_lt ta) (cnt.isLt)
  rw [decode_row2 _ e1, e0]
  simp [decodeRow2, decodeOp2A, withT1, e2, e3, e4]

theorem RoundTrip.shfiSar (ta : Target) (cnt : BitVec 6) : RoundTrip.Statement (.shfiSar ta cnt) := by
  intro w h _
  obtain rfl := Option.some.inj (show some (BitVec.ofNat 32 (0x54000080 + 65536 * ta.code + cnt.toNat)) = some w from h)
  obtain ⟨e0, e1, e2, e3, e4⟩ := shape21 42 0x54000080 _ _ (by decide) (Target.code_lt ta) (cnt.isLt)
  rw [decode_row2 _ e1, e0]
  simp [decodeRow2, decodeOp2A, withT1, e2, e3, e4]

theorem RoundTrip.shfiRot (ta : Target) (cnt : BitVec 6) : RoundTrip.Statement (.shfiRot ta cnt) := by
  intro w h _
  obtain rfl := Option.some.inj (show some (BitVec.ofNat 32 (0x540000C0 + 65536 * ta.code + cnt.toNat)) = some w from h)
  obtain ⟨e0, e1, e2, e3, e4⟩ := shape22 42 0x540000C0 _ _ (by decide) (Target.code_lt ta) (cnt.isLt)
  rw [decode_row2 _ e1, e0]
  simp [decodeRow2, decodeOp2A, withT1, e2, e3, e4]

theorem RoundTrip.cmpi (ta : Target) (sgn : Bool) (cmp : ICmp) (imm : BitVec 12) : RoundTrip.Statement (.cmpi ta sgn cmp imm) := by
  intro w h _
  obtain rfl := Option.some.inj (show some (BitVec.ofNat 32 (0x56000000 + 65536 * ta.code + 32768 * (bitCode sgn) + 4096 * cmp.code + imm.toNat)) = some w from h)
  obtain ⟨e0, e1, e2, e3, e4, e5⟩ := shape23 43 0x56000000 _ _ _ _ (by decide) (Target.code_lt ta) (bitCode_lt sgn) (ICmp.code_lt cmp) (imm.isLt)
  rw [decode_row2 _ e1, e0]
  simp [decodeRow2, decodeOp2B, withT1, e2, e3, e4, e5]

theorem RoundTrip.muli (ta : Target) (imm : BitVec 16) : RoundTrip.Statement (.muli ta imm) := by
  intro w h _
  obtain rfl := Option.some.inj (show some (BitVec.ofNat 32 (0x58000000 + 65536 * ta.code + imm.toNat)) = some w from h)
  obtain ⟨e0, e1, e2, e3⟩ := shape1 44 0x58000000 _ _ (by decide) (Target.code_lt ta) (imm.isLt)
  rw [decode_row2 _ e1, e0]
  simp [decodeRow2, decodeOp2C, withT1, e2, e3]

theorem RoundTrip.adc (width : IntWidth) (tb : Target) (ta : Target) : RoundTrip.Statement (.adc width tb ta) := by
  intro w h _
  obtain rfl := Option.some.inj (show some (BitVec.ofNat 32 (0x5A000000 + 8388608 * width.code + 512 * tb.code + ta.code)) = some w from h)
  obtain ⟨e0, e1, e2, e3, e4, e5⟩ := shape12 45 0x5A000000 _ _ _ (by decide) (IntWidth.code_lt width) (Target.code_lt tb) (Target.code_lt ta)
  rw [decode_row2 _ e1, e0]
  simp [decodeRow2, decodeOp2D, withT2, e2, e3, e4, e5]

theorem RoundTrip.fadd (fmt : FloatFmt) (rm : Rm) (pk : Bool) (sat : Bool) (tb : Target) (ta : Target) : RoundTrip.Statement (.fadd fmt rm pk sat tb ta) := by
  intro w h _
  obtain rfl := Option.some.inj (show some (BitVec.ofNat 32 (0x60000000 + 8388608 * fmt.code + 1048576 * rm.code + 524288 * (bitCode pk) + 262144 * (bitCode sat) + 512 * tb.code + ta.code)) = some w from h)
  obtain ⟨e0, e1, e2, e3, e4, e5, e6, e7⟩ := shape24 48 0x60000000 _ _ _ _ _ _ (by decide) (FloatFmt.code_lt fmt) (Rm.code_lt rm) (bitCode_lt pk) (bitCode_lt sat) (Target.code_lt tb) (Target.code_lt ta)
  rw [decode_row3 _ e1, e0]
  simp [decodeRow3, decodeOp30, withT2, e2, e3, e4, e5, e6, e7]

theorem RoundTrip.fsub (fmt : FloatFmt) (rm : Rm) (pk : Bool) (sat : Bool) (tb : Target) (ta : Target) : RoundTrip.Statement (.fsub fmt rm pk sat tb ta) := by
  intro w h _
  obtain rfl := Option.some.inj (show some (BitVec.ofNat 32 (0x62000000 + 8388608 * fmt.code + 1048576 * rm.code + 524288 * (bitCode pk) + 262144 * (bitCode sat) + 512 * tb.code + ta.code)) = some w from h)
  obtain ⟨e0, e1, e2, e3, e4, e5, e6, e7⟩ := shape24 49 0x62000000 _ _ _ _ _ _ (by decide) (FloatFmt.code_lt fmt) (Rm.code_lt rm) (bitCode_lt pk) (bitCode_lt sat) (Target.code_lt tb) (Target.code_lt ta)
  rw [decode_row3 _ e1, e0]
  simp [decodeRow3, decodeOp31, withT2, e2, e3, e4, e5, e6, e7]

theorem RoundTrip.fmul (fmt : FloatFmt) (rm : Rm) (pk : Bool) (sat : Bool) (tb : Target) (ta : Target) : RoundTrip.Statement (.fmul fmt rm pk sat tb ta) := by
  intro w h _
  obtain rfl := Option.some.inj (show some (BitVec.ofNat 32 (0x64000000 + 8388608 * fmt.code + 1048576 * rm.code + 524288 * (bitCode pk) + 262144 * (bitCode sat) + 512 * tb.code + ta.code)) = some w from h)
  obtain ⟨e0, e1, e2, e3, e4, e5, e6, e7⟩ := shape24 50 0x64000000 _ _ _ _ _ _ (by decide) (FloatFmt.code_lt fmt) (Rm.code_lt rm) (bitCode_lt pk) (bitCode_lt sat) (Target.code_lt tb) (Target.code_lt ta)
  rw [decode_row3 _ e1, e0]
  simp [decodeRow3, decodeOp32, withT2, e2, e3, e4, e5, e6, e7]

theorem RoundTrip.fma (fmt : FloatFmt) (rm : Rm) (pk : Bool) (sat : Bool) (tb : Target) (ta : Target) : RoundTrip.Statement (.fma fmt rm pk sat tb ta) := by
  intro w h _
  obtain rfl := Option.some.inj (show some (BitVec.ofNat 32 (0x66000000 + 8388608 * fmt.code + 1048576 * rm.code + 524288 * (bitCode pk) + 262144 * (bitCode sat) + 512 * tb.code + ta.code)) = some w from h)
  obtain ⟨e0, e1, e2, e3, e4, e5, e6, e7⟩ := shape24 51 0x66000000 _ _ _ _ _ _ (by decide) (FloatFmt.code_lt fmt) (Rm.code_lt rm) (bitCode_lt pk) (bitCode_lt sat) (Target.code_lt tb) (Target.code_lt ta)
  rw [decode_row3 _ e1, e0]
  simp [decodeRow3, decodeOp33, withT2, e2, e3, e4, e5, e6, e7]

theorem RoundTrip.fmin (fmt : FloatFmt) (pk : Bool) (prop : Bool) (tb : Target) (ta : Target) : RoundTrip.Statement (.fmin fmt pk prop tb ta) := by
  intro w h _
  obtain rfl := Option.some.inj (show some (BitVec.ofNat 32 (0x68000000 + 8388608 * fmt.code + 524288 * (bitCode pk) + 262144 * (bitCode prop) + 512 * tb.code + ta.code)) = some w from h)
  obtain ⟨e0, e1, e2, e3, e4, e5, e6, e7⟩ := shape25 52 0x68000000 _ _ _ _ _ (by decide) (FloatFmt.code_lt fmt) (bitCode_lt pk) (bitCode_lt prop) (Target.code_lt tb) (Target.code_lt ta)
  rw [decode_row3 _ e1, e0]
  simp [decodeRow3, decodeOp34, withT2, e2, e3, e4, e5, e6, e7]

theorem RoundTrip.fmax (fmt : FloatFmt) (pk : Bool) (prop : Bool) (tb : Target) (ta : Target) : RoundTrip.Statement (.fmax fmt pk prop tb ta) := by
  intro w h _
  obtain rfl := Option.some.inj (show some (BitVec.ofNat 32 (0x6A000000 + 8388608 * fmt.code + 524288 * (bitCode pk) + 262144 * (bitCode prop) + 512 * tb.code + ta.code)) = some w from h)
  obtain ⟨e0, e1, e2, e3, e4, e5, e6, e7⟩ := shape25 53 0x6A000000 _ _ _ _ _ (by decide) (FloatFmt.code_lt fmt) (bitCode_lt pk) (bitCode_lt prop) (Target.code_lt tb) (Target.code_lt ta)
  rw [decode_row3 _ e1, e0]
  simp [decodeRow3, decodeOp35, withT2, e2, e3, e4, e5, e6, e7]

theorem RoundTrip.fcmp (fmt : FloatFmt) (cmp : FCmp) (tb : Target) (ta : Target) : RoundTrip.Statement (.fcmp fmt cmp tb ta) := by
  intro w h _
  obtain rfl := Option.some.inj (show some (BitVec.ofNat 32 (0x6C000000 + 8388608 * fmt.code + 1048576 * cmp.code + 512 * tb.code + ta.code)) = some w from h)
  obtain ⟨e0, e1, e2, e3, e4, e5, e6⟩ := shape26 54 0x6C000000 _ _ _ _ (by decide) (FloatFmt.code_lt fmt) (FCmp.code_lt cmp) (Target.code_lt tb) (Target.code_lt ta)
  rw [decode_row3 _ e1, e0]
  simp [decodeRow3, decodeOp36, withT2, e2, e3, e4, e5, e6]

theorem RoundTrip.fcvt (ta : Target) (sat : Bool) (rm : Rm) (dst : DataFmt) (src : DataFmt) : RoundTrip.Statement (.fcvt ta sat rm dst src) := by
  intro w h _
  obtain rfl := Option.some.inj (show some (BitVec.ofNat 32 (0x6E000000 + 65536 * ta.code + 2048 * (bitCode sat) + 256 * rm.code + 16 * dst.code + src.code)) = some w from h)
  obtain ⟨e0, e1, e2, e3, e4, e5, e6, e7⟩ := shape27 55 0x6E000000 _ _ _ _ _ (by decide) (Target.code_lt ta) (bitCode_lt sat) (Rm.code_lt rm) (DataFmt.code_lt dst) (DataFmt.code_lt src)
  rw [decode_row3 _ e1, e0]
  simp [decodeRow3, decodeOp37, withT1, e2, e3, e4, e5, e6, e7]

theorem RoundTrip.fsfuRcp (ta : Target) : RoundTrip.Statement (.fsfuRcp ta) := by
  intro w h _
  obtain rfl := Option.some.inj (show some (BitVec.ofNat 32 (0x70000000 + 65536 * ta.code)) = some w from h)
  obtain ⟨e0, e1, e2, e3⟩ := shape28 56 0x70000000 _ (by decide) (Target.code_lt ta)
  rw [decode_row3 _ e1, e0]
  simp [decodeRow3, decodeOp38, withT1, e2, e3]

theorem RoundTrip.fsfuRsq (ta : Target) : RoundTrip.Statement (.fsfuRsq ta) := by
  intro w h _
  obtain rfl := Option.some.inj (show some (BitVec.ofNat 32 (0x70000001 + 65536 * ta.code)) = some w from h)
  obtain ⟨e0, e1, e2, e3⟩ := shape29 56 0x70000001 _ (by decide) (Target.code_lt ta)
  rw [decode_row3 _ e1, e0]
  simp [decodeRow3, decodeOp38, withT1, e2, e3]

theorem RoundTrip.fsfuSqrt (ta : Target) : RoundTrip.Statement (.fsfuSqrt ta) := by
  intro w h _
  obtain rfl := Option.some.inj (show some (BitVec.ofNat 32 (0x70000002 + 65536 * ta.code)) = some w from h)
  obtain ⟨e0, e1, e2, e3⟩ := shape30 56 0x70000002 _ (by decide) (Target.code_lt ta)
  rw [decode_row3 _ e1, e0]
  simp [decodeRow3, decodeOp38, withT1, e2, e3]

theorem RoundTrip.fsfuExp2 (ta : Target) : RoundTrip.Statement (.fsfuExp2 ta) := by
  intro w h _
  obtain rfl := Option.some.inj (show some (BitVec.ofNat 32 (0x70000003 + 65536 * ta.code)) = some w from h)
  obtain ⟨e0, e1, e2, e3⟩ := shape31 56 0x70000003 _ (by decide) (Target.code_lt ta)
  rw [decode_row3 _ e1, e0]
  simp [decodeRow3, decodeOp38, withT1, e2, e3]

theorem RoundTrip.fsfuLog2 (ta : Target) : RoundTrip.Statement (.fsfuLog2 ta) := by
  intro w h _
  obtain rfl := Option.some.inj (show some (BitVec.ofNat 32 (0x70000004 + 65536 * ta.code)) = some w from h)
  obtain ⟨e0, e1, e2, e3⟩ := shape32 56 0x70000004 _ (by decide) (Target.code_lt ta)
  rw [decode_row3 _ e1, e0]
  simp [decodeRow3, decodeOp38, withT1, e2, e3]

theorem RoundTrip.fsfuTanh (ta : Target) : RoundTrip.Statement (.fsfuTanh ta) := by
  intro w h _
  obtain rfl := Option.some.inj (show some (BitVec.ofNat 32 (0x70000005 + 65536 * ta.code)) = some w from h)
  obtain ⟨e0, e1, e2, e3⟩ := shape33 56 0x70000005 _ (by decide) (Target.code_lt ta)
  rw [decode_row3 _ e1, e0]
  simp [decodeRow3, decodeOp38, withT1, e2, e3]

theorem RoundTrip.fsfuSigm (ta : Target) : RoundTrip.Statement (.fsfuSigm ta) := by
  intro w h _
  obtain rfl := Option.some.inj (show some (BitVec.ofNat 32 (0x70000006 + 65536 * ta.code)) = some w from h)
  obtain ⟨e0, e1, e2, e3⟩ := shape34 56 0x70000006 _ (by decide) (Target.code_lt ta)
  rw [decode_row3 _ e1, e0]
  simp [decodeRow3, decodeOp38, withT1, e2, e3]

theorem RoundTrip.fsfuSinp (ta : Target) : RoundTrip.Statement (.fsfuSinp ta) := by
  intro w h _
  obtain rfl := Option.some.inj (show some (BitVec.ofNat 32 (0x70000007 + 65536 * ta.code)) = some w from h)
  obtain ⟨e0, e1, e2, e3⟩ := shape35 56 0x70000007 _ (by decide) (Target.code_lt ta)
  rw [decode_row3 _ e1, e0]
  simp [decodeRow3, decodeOp38, withT1, e2, e3]

theorem RoundTrip.fsfuCosp (ta : Target) : RoundTrip.Statement (.fsfuCosp ta) := by
  intro w h _
  obtain rfl := Option.some.inj (show some (BitVec.ofNat 32 (0x70000008 + 65536 * ta.code)) = some w from h)
  obtain ⟨e0, e1, e2, e3⟩ := shape36 56 0x70000008 _ (by decide) (Target.code_lt ta)
  rw [decode_row3 _ e1, e0]
  simp [decodeRow3, decodeOp38, withT1, e2, e3]

theorem RoundTrip.fclass (fmt : FloatFmt) (tb : Target) (ta : Target) : RoundTrip.Statement (.fclass fmt tb ta) := by
  intro w h _
  obtain rfl := Option.some.inj (show some (BitVec.ofNat 32 (0x72000000 + 8388608 * fmt.code + 512 * tb.code + ta.code)) = some w from h)
  obtain ⟨e0, e1, e2, e3, e4, e5⟩ := shape12 57 0x72000000 _ _ _ (by decide) (FloatFmt.code_lt fmt) (Target.code_lt tb) (Target.code_lt ta)
  rw [decode_row3 _ e1, e0]
  simp [decodeRow3, decodeOp39, withT2, e2, e3, e4, e5]

theorem RoundTrip.qscale (ta : Target) (amax : QFmt) (elem : ElemFmt) : RoundTrip.Statement (.qscale ta amax elem) := by
  intro w h _
  obtain rfl := Option.some.inj (show some (BitVec.ofNat 32 (0x74000000 + 65536 * ta.code + 8 * amax.code + elem.code)) = some w from h)
  obtain ⟨e0, e1, e2, e3, e4, e5⟩ := shape37 58 0x74000000 _ _ _ (by decide) (Target.code_lt ta) (QFmt.code_lt amax) (ElemFmt.code_lt elem)
  rw [decode_row3 _ e1, e0]
  simp [decodeRow3, decodeOp3A, withT1, e2, e3, e4, e5]

theorem RoundTrip.qcvt (fmt : QFmt) (rm : Rm) (sat : Bool) (tb : Target) (ta : Target) : RoundTrip.Statement (.qcvt fmt rm sat tb ta) := by
  intro w h _
  obtain rfl := Option.some.inj (show some (BitVec.ofNat 32 (0x76000000 + 8388608 * fmt.code + 1048576 * rm.code + 524288 * (bitCode sat) + 512 * tb.code + ta.code)) = some w from h)
  obtain ⟨e0, e1, e2, e3, e4, e5, e6, e7⟩ := shape38 59 0x76000000 _ _ _ _ _ (by decide) (QFmt.code_lt fmt) (Rm.code_lt rm) (bitCode_lt sat) (Target.code_lt tb) (Target.code_lt ta)
  rw [decode_row3 _ e1, e0]
  simp [decodeRow3, decodeOp3B, withT2, e2, e3, e4, e5, e6, e7]

theorem RoundTrip.qdeq (fmt : QFmt) (rm : Rm) (sat : Bool) (tb : Target) (ta : Target) : RoundTrip.Statement (.qdeq fmt rm sat tb ta) := by
  intro w h _
  obtain rfl := Option.some.inj (show some (BitVec.ofNat 32 (0x78000000 + 8388608 * fmt.code + 1048576 * rm.code + 524288 * (bitCode sat) + 512 * tb.code + ta.code)) = some w from h)
  obtain ⟨e0, e1, e2, e3, e4, e5, e6, e7⟩ := shape38 60 0x78000000 _ _ _ _ _ (by decide) (QFmt.code_lt fmt) (Rm.code_lt rm) (bitCode_lt sat) (Target.code_lt tb) (Target.code_lt ta)
  rw [decode_row3 _ e1, e0]
  simp [decodeRow3, decodeOp3C, withT2, e2, e3, e4, e5, e6, e7]

theorem RoundTrip.fsgnAbs (fmt : FloatFmt) (tb : Target) (ta : Target) : RoundTrip.Statement (.fsgnAbs fmt tb ta) := by
  intro w h _
  obtain rfl := Option.some.inj (show some (BitVec.ofNat 32 (0x7A000000 + 8388608 * fmt.code + 512 * tb.code + ta.code)) = some w from h)
  obtain ⟨e0, e1, e2, e3, e4, e5⟩ := shape12 61 0x7A000000 _ _ _ (by decide) (FloatFmt.code_lt fmt) (Target.code_lt tb) (Target.code_lt ta)
  rw [decode_row3 _ e1, e0]
  simp [decodeRow3, decodeOp3D, withT2, e2, e3, e4, e5]

theorem RoundTrip.fsgnNeg (fmt : FloatFmt) (tb : Target) (ta : Target) : RoundTrip.Statement (.fsgnNeg fmt tb ta) := by
  intro w h _
  obtain rfl := Option.some.inj (show some (BitVec.ofNat 32 (0x7A040000 + 8388608 * fmt.code + 512 * tb.code + ta.code)) = some w from h)
  obtain ⟨e0, e1, e2, e3, e4, e5⟩ := shape13 61 0x7A040000 _ _ _ (by decide) (FloatFmt.code_lt fmt) (Target.code_lt tb) (Target.code_lt ta)
  rw [decode_row3 _ e1, e0]
  simp [decodeRow3, decodeOp3D, withT2, e2, e3, e4, e5]

theorem RoundTrip.fsgnCopysign (fmt : FloatFmt) (tb : Target) (ta : Target) : RoundTrip.Statement (.fsgnCopysign fmt tb ta) := by
  intro w h _
  obtain rfl := Option.some.inj (show some (BitVec.ofNat 32 (0x7A080000 + 8388608 * fmt.code + 512 * tb.code + ta.code)) = some w from h)
  obtain ⟨e0, e1, e2, e3, e4, e5⟩ := shape14 61 0x7A080000 _ _ _ (by decide) (FloatFmt.code_lt fmt) (Target.code_lt tb) (Target.code_lt ta)
  rw [decode_row3 _ e1, e0]
  simp [decodeRow3, decodeOp3D, withT2, e2, e3, e4, e5]

theorem RoundTrip.ldl (scope : Scope) (acq : Bool) (width : AccWidth) (tb : Target) (ta : Target) : RoundTrip.Statement (.ldl scope acq width tb ta) := by
  intro w h _
  obtain rfl := Option.some.inj (show some (BitVec.ofNat 32 (0x80000000 + 8388608 * scope.code + 2097152 * (bitCode acq) + 262144 * width.code + 512 * tb.code + ta.code)) = some w from h)
  obtain ⟨e0, e1, e2, e3, e4, e5, e6, e7⟩ := shape39 64 0x80000000 _ _ _ _ _ (by decide) (Scope.code_lt scope) (bitCode_lt acq) (AccWidth.code_lt width) (Target.code_lt tb) (Target.code_lt ta)
  rw [decode_row4 _ e1, e0]
  simp [decodeRow4, decodeOp40, withT2, e2, e3, e4, e5, e6, e7]

theorem RoundTrip.stl (scope : Scope) (rel : Bool) (width : AccWidth) (tb : Target) (ta : Target) : RoundTrip.Statement (.stl scope rel width tb ta) := by
  intro w h _
  obtain rfl := Option.some.inj (show some (BitVec.ofNat 32 (0x82000000 + 8388608 * scope.code + 4194304 * (bitCode rel) + 262144 * width.code + 512 * tb.code + ta.code)) = some w from h)
  obtain ⟨e0, e1, e2, e3, e4, e5, e6, e7⟩ := shape40 65 0x82000000 _ _ _ _ _ (by decide) (Scope.code_lt scope) (bitCode_lt rel) (AccWidth.code_lt width) (Target.code_lt tb) (Target.code_lt ta)
  rw [decode_row4 _ e1, e0]
  simp [decodeRow4, decodeOp41, withT2, e2, e3, e4, e5, e6, e7]

theorem RoundTrip.ldg (scope : Scope) (acq : Bool) (width : AccWidth) (tb : Target) (ta : Target) : RoundTrip.Statement (.ldg scope acq width tb ta) := by
  intro w h _
  obtain rfl := Option.some.inj (show some (BitVec.ofNat 32 (0x84000000 + 8388608 * scope.code + 2097152 * (bitCode acq) + 262144 * width.code + 512 * tb.code + ta.code)) = some w from h)
  obtain ⟨e0, e1, e2, e3, e4, e5, e6, e7⟩ := shape39 66 0x84000000 _ _ _ _ _ (by decide) (Scope.code_lt scope) (bitCode_lt acq) (AccWidth.code_lt width) (Target.code_lt tb) (Target.code_lt ta)
  rw [decode_row4 _ e1, e0]
  simp [decodeRow4, decodeOp42, withT2, e2, e3, e4, e5, e6, e7]

theorem RoundTrip.stg (scope : Scope) (rel : Bool) (width : AccWidth) (tb : Target) (ta : Target) : RoundTrip.Statement (.stg scope rel width tb ta) := by
  intro w h _
  obtain rfl := Option.some.inj (show some (BitVec.ofNat 32 (0x86000000 + 8388608 * scope.code + 4194304 * (bitCode rel) + 262144 * width.code + 512 * tb.code + ta.code)) = some w from h)
  obtain ⟨e0, e1, e2, e3, e4, e5, e6, e7⟩ := shape40 67 0x86000000 _ _ _ _ _ (by decide) (Scope.code_lt scope) (bitCode_lt rel) (AccWidth.code_lt width) (Target.code_lt tb) (Target.code_lt ta)
  rw [decode_row4 _ e1, e0]
  simp [decodeRow4, decodeOp43, withT2, e2, e3, e4, e5, e6, e7]

theorem RoundTrip.atomlAdd (scope : Scope) (ord : Order) (tb : Target) (ta : Target) : RoundTrip.Statement (.atomlAdd scope ord tb ta) := by
  intro w h _
  obtain rfl := Option.some.inj (show some (BitVec.ofNat 32 (0x88000000 + 8388608 * scope.code + 2097152 * ord.code + 512 * tb.code + ta.code)) = some w from h)
  obtain ⟨e0, e1, e2, e3, e4, e5, e6⟩ := shape41 68 0x88000000 _ _ _ _ (by decide) (Scope.code_lt scope) (Order.code_lt ord) (Target.code_lt tb) (Target.code_lt ta)
  rw [decode_row4 _ e1, e0]
  simp [decodeRow4, decodeOp44, withT2, e2, e3, e4, e5, e6]

theorem RoundTrip.atomlAnd (scope : Scope) (ord : Order) (tb : Target) (ta : Target) : RoundTrip.Statement (.atomlAnd scope ord tb ta) := by
  intro w h _
  obtain rfl := Option.some.inj (show some (BitVec.ofNat 32 (0x88040000 + 8388608 * scope.code + 2097152 * ord.code + 512 * tb.code + ta.code)) = some w from h)
  obtain ⟨e0, e1, e2, e3, e4, e5, e6⟩ := shape42 68 0x88040000 _ _ _ _ (by decide) (Scope.code_lt scope) (Order.code_lt ord) (Target.code_lt tb) (Target.code_lt ta)
  rw [decode_row4 _ e1, e0]
  simp [decodeRow4, decodeOp44, withT2, e2, e3, e4, e5, e6]

theorem RoundTrip.atomlOr (scope : Scope) (ord : Order) (tb : Target) (ta : Target) : RoundTrip.Statement (.atomlOr scope ord tb ta) := by
  intro w h _
  obtain rfl := Option.some.inj (show some (BitVec.ofNat 32 (0x88080000 + 8388608 * scope.code + 2097152 * ord.code + 512 * tb.code + ta.code)) = some w from h)
  obtain ⟨e0, e1, e2, e3, e4, e5, e6⟩ := shape43 68 0x88080000 _ _ _ _ (by decide) (Scope.code_lt scope) (Order.code_lt ord) (Target.code_lt tb) (Target.code_lt ta)
  rw [decode_row4 _ e1, e0]
  simp [decodeRow4, decodeOp44, withT2, e2, e3, e4, e5, e6]

theorem RoundTrip.atomlXor (scope : Scope) (ord : Order) (tb : Target) (ta : Target) : RoundTrip.Statement (.atomlXor scope ord tb ta) := by
  intro w h _
  obtain rfl := Option.some.inj (show some (BitVec.ofNat 32 (0x880C0000 + 8388608 * scope.code + 2097152 * ord.code + 512 * tb.code + ta.code)) = some w from h)
  obtain ⟨e0, e1, e2, e3, e4, e5, e6⟩ := shape44 68 0x880C0000 _ _ _ _ (by decide) (Scope.code_lt scope) (Order.code_lt ord) (Target.code_lt tb) (Target.code_lt ta)
  rw [decode_row4 _ e1, e0]
  simp [decodeRow4, decodeOp44, withT2, e2, e3, e4, e5, e6]

theorem RoundTrip.atomlXchg (scope : Scope) (ord : Order) (tb : Target) (ta : Target) : RoundTrip.Statement (.atomlXchg scope ord tb ta) := by
  intro w h _
  obtain rfl := Option.some.inj (show some (BitVec.ofNat 32 (0x88100000 + 8388608 * scope.code + 2097152 * ord.code + 512 * tb.code + ta.code)) = some w from h)
  obtain ⟨e0, e1, e2, e3, e4, e5, e6⟩ := shape45 68 0x88100000 _ _ _ _ (by decide) (Scope.code_lt scope) (Order.code_lt ord) (Target.code_lt tb) (Target.code_lt ta)
  rw [decode_row4 _ e1, e0]
  simp [decodeRow4, decodeOp44, withT2, e2, e3, e4, e5, e6]

theorem RoundTrip.atomlSmin (scope : Scope) (ord : Order) (tb : Target) (ta : Target) : RoundTrip.Statement (.atomlSmin scope ord tb ta) := by
  intro w h _
  obtain rfl := Option.some.inj (show some (BitVec.ofNat 32 (0x88140000 + 8388608 * scope.code + 2097152 * ord.code + 512 * tb.code + ta.code)) = some w from h)
  obtain ⟨e0, e1, e2, e3, e4, e5, e6⟩ := shape46 68 0x88140000 _ _ _ _ (by decide) (Scope.code_lt scope) (Order.code_lt ord) (Target.code_lt tb) (Target.code_lt ta)
  rw [decode_row4 _ e1, e0]
  simp [decodeRow4, decodeOp44, withT2, e2, e3, e4, e5, e6]

theorem RoundTrip.atomlSmax (scope : Scope) (ord : Order) (tb : Target) (ta : Target) : RoundTrip.Statement (.atomlSmax scope ord tb ta) := by
  intro w h _
  obtain rfl := Option.some.inj (show some (BitVec.ofNat 32 (0x88180000 + 8388608 * scope.code + 2097152 * ord.code + 512 * tb.code + ta.code)) = some w from h)
  obtain ⟨e0, e1, e2, e3, e4, e5, e6⟩ := shape47 68 0x88180000 _ _ _ _ (by decide) (Scope.code_lt scope) (Order.code_lt ord) (Target.code_lt tb) (Target.code_lt ta)
  rw [decode_row4 _ e1, e0]
  simp [decodeRow4, decodeOp44, withT2, e2, e3, e4, e5, e6]

theorem RoundTrip.atomlFadd (scope : Scope) (ord : Order) (tb : Target) (ta : Target) : RoundTrip.Statement (.atomlFadd scope ord tb ta) := by
  intro w h _
  obtain rfl := Option.some.inj (show some (BitVec.ofNat 32 (0x881C0000 + 8388608 * scope.code + 2097152 * ord.code + 512 * tb.code + ta.code)) = some w from h)
  obtain ⟨e0, e1, e2, e3, e4, e5, e6⟩ := shape48 68 0x881C0000 _ _ _ _ (by decide) (Scope.code_lt scope) (Order.code_lt ord) (Target.code_lt tb) (Target.code_lt ta)
  rw [decode_row4 _ e1, e0]
  simp [decodeRow4, decodeOp44, withT2, e2, e3, e4, e5, e6]

theorem RoundTrip.atomgAdd (scope : Scope) (ord : Order) (tb : Target) (ta : Target) : RoundTrip.Statement (.atomgAdd scope ord tb ta) := by
  intro w h _
  obtain rfl := Option.some.inj (show some (BitVec.ofNat 32 (0x8A000000 + 8388608 * scope.code + 2097152 * ord.code + 512 * tb.code + ta.code)) = some w from h)
  obtain ⟨e0, e1, e2, e3, e4, e5, e6⟩ := shape41 69 0x8A000000 _ _ _ _ (by decide) (Scope.code_lt scope) (Order.code_lt ord) (Target.code_lt tb) (Target.code_lt ta)
  rw [decode_row4 _ e1, e0]
  simp [decodeRow4, decodeOp45, withT2, e2, e3, e4, e5, e6]

theorem RoundTrip.atomgAnd (scope : Scope) (ord : Order) (tb : Target) (ta : Target) : RoundTrip.Statement (.atomgAnd scope ord tb ta) := by
  intro w h _
  obtain rfl := Option.some.inj (show some (BitVec.ofNat 32 (0x8A040000 + 8388608 * scope.code + 2097152 * ord.code + 512 * tb.code + ta.code)) = some w from h)
  obtain ⟨e0, e1, e2, e3, e4, e5, e6⟩ := shape42 69 0x8A040000 _ _ _ _ (by decide) (Scope.code_lt scope) (Order.code_lt ord) (Target.code_lt tb) (Target.code_lt ta)
  rw [decode_row4 _ e1, e0]
  simp [decodeRow4, decodeOp45, withT2, e2, e3, e4, e5, e6]

theorem RoundTrip.atomgOr (scope : Scope) (ord : Order) (tb : Target) (ta : Target) : RoundTrip.Statement (.atomgOr scope ord tb ta) := by
  intro w h _
  obtain rfl := Option.some.inj (show some (BitVec.ofNat 32 (0x8A080000 + 8388608 * scope.code + 2097152 * ord.code + 512 * tb.code + ta.code)) = some w from h)
  obtain ⟨e0, e1, e2, e3, e4, e5, e6⟩ := shape43 69 0x8A080000 _ _ _ _ (by decide) (Scope.code_lt scope) (Order.code_lt ord) (Target.code_lt tb) (Target.code_lt ta)
  rw [decode_row4 _ e1, e0]
  simp [decodeRow4, decodeOp45, withT2, e2, e3, e4, e5, e6]

theorem RoundTrip.atomgXor (scope : Scope) (ord : Order) (tb : Target) (ta : Target) : RoundTrip.Statement (.atomgXor scope ord tb ta) := by
  intro w h _
  obtain rfl := Option.some.inj (show some (BitVec.ofNat 32 (0x8A0C0000 + 8388608 * scope.code + 2097152 * ord.code + 512 * tb.code + ta.code)) = some w from h)
  obtain ⟨e0, e1, e2, e3, e4, e5, e6⟩ := shape44 69 0x8A0C0000 _ _ _ _ (by decide) (Scope.code_lt scope) (Order.code_lt ord) (Target.code_lt tb) (Target.code_lt ta)
  rw [decode_row4 _ e1, e0]
  simp [decodeRow4, decodeOp45, withT2, e2, e3, e4, e5, e6]

theorem RoundTrip.atomgXchg (scope : Scope) (ord : Order) (tb : Target) (ta : Target) : RoundTrip.Statement (.atomgXchg scope ord tb ta) := by
  intro w h _
  obtain rfl := Option.some.inj (show some (BitVec.ofNat 32 (0x8A100000 + 8388608 * scope.code + 2097152 * ord.code + 512 * tb.code + ta.code)) = some w from h)
  obtain ⟨e0, e1, e2, e3, e4, e5, e6⟩ := shape45 69 0x8A100000 _ _ _ _ (by decide) (Scope.code_lt scope) (Order.code_lt ord) (Target.code_lt tb) (Target.code_lt ta)
  rw [decode_row4 _ e1, e0]
  simp [decodeRow4, decodeOp45, withT2, e2, e3, e4, e5, e6]

theorem RoundTrip.atomgSmin (scope : Scope) (ord : Order) (tb : Target) (ta : Target) : RoundTrip.Statement (.atomgSmin scope ord tb ta) := by
  intro w h _
  obtain rfl := Option.some.inj (show some (BitVec.ofNat 32 (0x8A140000 + 8388608 * scope.code + 2097152 * ord.code + 512 * tb.code + ta.code)) = some w from h)
  obtain ⟨e0, e1, e2, e3, e4, e5, e6⟩ := shape46 69 0x8A140000 _ _ _ _ (by decide) (Scope.code_lt scope) (Order.code_lt ord) (Target.code_lt tb) (Target.code_lt ta)
  rw [decode_row4 _ e1, e0]
  simp [decodeRow4, decodeOp45, withT2, e2, e3, e4, e5, e6]

theorem RoundTrip.atomgSmax (scope : Scope) (ord : Order) (tb : Target) (ta : Target) : RoundTrip.Statement (.atomgSmax scope ord tb ta) := by
  intro w h _
  obtain rfl := Option.some.inj (show some (BitVec.ofNat 32 (0x8A180000 + 8388608 * scope.code + 2097152 * ord.code + 512 * tb.code + ta.code)) = some w from h)
  obtain ⟨e0, e1, e2, e3, e4, e5, e6⟩ := shape47 69 0x8A180000 _ _ _ _ (by decide) (Scope.code_lt scope) (Order.code_lt ord) (Target.code_lt tb) (Target.code_lt ta)
  rw [decode_row4 _ e1, e0]
  simp [decodeRow4, decodeOp45, withT2, e2, e3, e4, e5, e6]

theorem RoundTrip.atomgFadd (scope : Scope) (ord : Order) (tb : Target) (ta : Target) : RoundTrip.Statement (.atomgFadd scope ord tb ta) := by
  intro w h _
  obtain rfl := Option.some.inj (show some (BitVec.ofNat 32 (0x8A1C0000 + 8388608 * scope.code + 2097152 * ord.code + 512 * tb.code + ta.code)) = some w from h)
  obtain ⟨e0, e1, e2, e3, e4, e5, e6⟩ := shape48 69 0x8A1C0000 _ _ _ _ (by decide) (Scope.code_lt scope) (Order.code_lt ord) (Target.code_lt tb) (Target.code_lt ta)
  rw [decode_row4 _ e1, e0]
  simp [decodeRow4, decodeOp45, withT2, e2, e3, e4, e5, e6]

theorem RoundTrip.casl (scope : Scope) (ord : Order) (width : CasWidth) (tb : Target) (ta : Target) : RoundTrip.Statement (.casl scope ord width tb ta) := by
  intro w h _
  obtain rfl := Option.some.inj (show some (BitVec.ofNat 32 (0x8C100000 + 8388608 * scope.code + 2097152 * ord.code + 262144 * width.code + 512 * tb.code + ta.code)) = some w from h)
  obtain ⟨e0, e1, e2, e3, e4, e5, e6, e7⟩ := shape49 70 0x8C100000 _ _ _ _ _ (by decide) (Scope.code_lt scope) (Order.code_lt ord) (CasWidth.code_lt width) (Target.code_lt tb) (Target.code_lt ta)
  rw [decode_row4 _ e1, e0]
  simp [decodeRow4, decodeOp46, withT2, e2, e3, e4, e5, e6, e7]

theorem RoundTrip.casg (scope : Scope) (ord : Order) (width : CasWidth) (tb : Target) (ta : Target) : RoundTrip.Statement (.casg scope ord width tb ta) := by
  intro w h _
  obtain rfl := Option.some.inj (show some (BitVec.ofNat 32 (0x8E100000 + 8388608 * scope.code + 2097152 * ord.code + 262144 * width.code + 512 * tb.code + ta.code)) = some w from h)
  obtain ⟨e0, e1, e2, e3, e4, e5, e6, e7⟩ := shape49 71 0x8E100000 _ _ _ _ _ (by decide) (Scope.code_lt scope) (Order.code_lt ord) (CasWidth.code_lt width) (Target.code_lt tb) (Target.code_lt ta)
  rw [decode_row4 _ e1, e0]
  simp [decodeRow4, decodeOp47, withT2, e2, e3, e4, e5, e6, e7]

theorem RoundTrip.fenceAcq (ta : Target) (xp : Bool) (scope : Scope) : RoundTrip.Statement (.fenceAcq ta xp scope) := by
  intro w h _
  obtain rfl := Option.some.inj (show some (BitVec.ofNat 32 (0x90000000 + 65536 * ta.code + 16 * (bitCode xp) + scope.code)) = some w from h)
  obtain ⟨e0, e1, e2, e3, e4, e5, e6, e7⟩ := shape50 72 0x90000000 _ _ _ (by decide) (Target.code_lt ta) (bitCode_lt xp) (Scope.code_lt scope)
  rw [decode_row4 _ e1, e0]
  simp [decodeRow4, decodeOp48, withT1, e2, e3, e4, e5, e6, e7]

theorem RoundTrip.fenceRel (ta : Target) (xp : Bool) (scope : Scope) : RoundTrip.Statement (.fenceRel ta xp scope) := by
  intro w h _
  obtain rfl := Option.some.inj (show some (BitVec.ofNat 32 (0x90000004 + 65536 * ta.code + 16 * (bitCode xp) + scope.code)) = some w from h)
  obtain ⟨e0, e1, e2, e3, e4, e5, e6, e7⟩ := shape51 72 0x90000004 _ _ _ (by decide) (Target.code_lt ta) (bitCode_lt xp) (Scope.code_lt scope)
  rw [decode_row4 _ e1, e0]
  simp [decodeRow4, decodeOp48, withT1, e2, e3, e4, e5, e6, e7]

theorem RoundTrip.fenceAr (ta : Target) (xp : Bool) (scope : Scope) : RoundTrip.Statement (.fenceAr ta xp scope) := by
  intro w h _
  obtain rfl := Option.some.inj (show some (BitVec.ofNat 32 (0x90000008 + 65536 * ta.code + 16 * (bitCode xp) + scope.code)) = some w from h)
  obtain ⟨e0, e1, e2, e3, e4, e5, e6, e7⟩ := shape52 72 0x90000008 _ _ _ (by decide) (Target.code_lt ta) (bitCode_lt xp) (Scope.code_lt scope)
  rw [decode_row4 _ e1, e0]
  simp [decodeRow4, decodeOp48, withT1, e2, e3, e4, e5, e6, e7]

theorem RoundTrip.fenceXp (ta : Target) (scope : Scope) : RoundTrip.Statement (.fenceXp ta scope) := by
  intro w h _
  obtain rfl := Option.some.inj (show some (BitVec.ofNat 32 (0x9000001C + 65536 * ta.code + scope.code)) = some w from h)
  obtain ⟨e0, e1, e2, e3, e4, e5, e6, e7⟩ := shape53 72 0x9000001C _ _ (by decide) (Target.code_lt ta) (Scope.code_lt scope)
  rw [decode_row4 _ e1, e0]
  simp [decodeRow4, decodeOp48, withT1, e2, e3, e4, e5, e6, e7]

theorem RoundTrip.waitaLeaf (cond : WaitCond) (width : AccWidth) (tb : Target) (ta : Target) : RoundTrip.Statement (.waitaLeaf cond width tb ta) := by
  intro w h _
  obtain rfl := Option.some.inj (show some (BitVec.ofNat 32 (0x92000000 + 2097152 * cond.code + 262144 * width.code + 512 * tb.code + ta.code)) = some w from h)
  obtain ⟨e0, e1, e2, e3, e4, e5, e6⟩ := shape54 73 0x92000000 _ _ _ _ (by decide) (WaitCond.code_lt cond) (AccWidth.code_lt width) (Target.code_lt tb) (Target.code_lt ta)
  rw [decode_row4 _ e1, e0]
  simp [decodeRow4, decodeOp49, withT2, e2, e3, e4, e5, e6]

theorem RoundTrip.waitaRound (cond : WaitCond) (width : AccWidth) (tb : Target) (ta : Target) : RoundTrip.Statement (.waitaRound cond width tb ta) := by
  intro w h _
  obtain rfl := Option.some.inj (show some (BitVec.ofNat 32 (0x92800000 + 2097152 * cond.code + 262144 * width.code + 512 * tb.code + ta.code)) = some w from h)
  obtain ⟨e0, e1, e2, e3, e4, e5, e6⟩ := shape55 73 0x92800000 _ _ _ _ (by decide) (WaitCond.code_lt cond) (AccWidth.code_lt width) (Target.code_lt tb) (Target.code_lt ta)
  rw [decode_row4 _ e1, e0]
  simp [decodeRow4, decodeOp49, withT2, e2, e3, e4, e5, e6]

theorem RoundTrip.waitaDev (cond : WaitCond) (width : AccWidth) (tb : Target) (ta : Target) : RoundTrip.Statement (.waitaDev cond width tb ta) := by
  intro w h _
  obtain rfl := Option.some.inj (show some (BitVec.ofNat 32 (0x93000000 + 2097152 * cond.code + 262144 * width.code + 512 * tb.code + ta.code)) = some w from h)
  obtain ⟨e0, e1, e2, e3, e4, e5, e6⟩ := shape56 73 0x93000000 _ _ _ _ (by decide) (WaitCond.code_lt cond) (AccWidth.code_lt width) (Target.code_lt tb) (Target.code_lt ta)
  rw [decode_row4 _ e1, e0]
  simp [decodeRow4, decodeOp49, withT2, e2, e3, e4, e5, e6]

theorem RoundTrip.waitaSys (cond : WaitCond) (width : AccWidth) (tb : Target) (ta : Target) : RoundTrip.Statement (.waitaSys cond width tb ta) := by
  intro w h _
  obtain rfl := Option.some.inj (show some (BitVec.ofNat 32 (0x93800000 + 2097152 * cond.code + 262144 * width.code + 512 * tb.code + ta.code)) = some w from h)
  obtain ⟨e0, e1, e2, e3, e4, e5, e6⟩ := shape57 73 0x93800000 _ _ _ _ (by decide) (WaitCond.code_lt cond) (AccWidth.code_lt width) (Target.code_lt tb) (Target.code_lt ta)
  rw [decode_row4 _ e1, e0]
  simp [decodeRow4, decodeOp49, withT2, e2, e3, e4, e5, e6]

theorem RoundTrip.mbarInit (tb : Target) (ta : Target) : RoundTrip.Statement (.mbarInit tb ta) := by
  intro w h _
  obtain rfl := Option.some.inj (show some (BitVec.ofNat 32 (0x94000000 + 512 * tb.code + ta.code)) = some w from h)
  obtain ⟨e0, e1, e2, e3, e4⟩ := shape2 74 0x94000000 _ _ (by decide) (Target.code_lt tb) (Target.code_lt ta)
  rw [decode_row4 _ e1, e0]
  simp [decodeRow4, decodeOp4A, withT2, e2, e3, e4]

theorem RoundTrip.mbarArrive (tb : Target) (ta : Target) : RoundTrip.Statement (.mbarArrive tb ta) := by
  intro w h _
  obtain rfl := Option.some.inj (show some (BitVec.ofNat 32 (0x94040000 + 512 * tb.code + ta.code)) = some w from h)
  obtain ⟨e0, e1, e2, e3, e4⟩ := shape58 74 0x94040000 _ _ (by decide) (Target.code_lt tb) (Target.code_lt ta)
  rw [decode_row4 _ e1, e0]
  simp [decodeRow4, decodeOp4A, withT2, e2, e3, e4]

theorem RoundTrip.mbarExpect (tb : Target) (ta : Target) : RoundTrip.Statement (.mbarExpect tb ta) := by
  intro w h _
  obtain rfl := Option.some.inj (show some (BitVec.ofNat 32 (0x94080000 + 512 * tb.code + ta.code)) = some w from h)
  obtain ⟨e0, e1, e2, e3, e4⟩ := shape59 74 0x94080000 _ _ (by decide) (Target.code_lt tb) (Target.code_lt ta)
  rw [decode_row4 _ e1, e0]
  simp [decodeRow4, decodeOp4A, withT2, e2, e3, e4]

theorem RoundTrip.mbarTest (tb : Target) (ta : Target) : RoundTrip.Statement (.mbarTest tb ta) := by
  intro w h _
  obtain rfl := Option.some.inj (show some (BitVec.ofNat 32 (0x940C0000 + 512 * tb.code + ta.code)) = some w from h)
  obtain ⟨e0, e1, e2, e3, e4⟩ := shape60 74 0x940C0000 _ _ (by decide) (Target.code_lt tb) (Target.code_lt ta)
  rw [decode_row4 _ e1, e0]
  simp [decodeRow4, decodeOp4A, withT2, e2, e3, e4]

theorem RoundTrip.mbarWait (tb : Target) (ta : Target) : RoundTrip.Statement (.mbarWait tb ta) := by
  intro w h _
  obtain rfl := Option.some.inj (show some (BitVec.ofNat 32 (0x94100000 + 512 * tb.code + ta.code)) = some w from h)
  obtain ⟨e0, e1, e2, e3, e4⟩ := shape61 74 0x94100000 _ _ (by decide) (Target.code_lt tb) (Target.code_lt ta)
  rw [decode_row4 _ e1, e0]
  simp [decodeRow4, decodeOp4A, withT2, e2, e3, e4]

theorem RoundTrip.cpLd (tb : Target) (ta : Target) : RoundTrip.Statement (.cpLd tb ta) := by
  intro w h _
  obtain rfl := Option.some.inj (show some (BitVec.ofNat 32 (0x96000000 + 512 * tb.code + ta.code)) = some w from h)
  obtain ⟨e0, e1, e2, e3, e4⟩ := shape2 75 0x96000000 _ _ (by decide) (Target.code_lt tb) (Target.code_lt ta)
  rw [decode_row4 _ e1, e0]
  simp [decodeRow4, decodeOp4B, withT2, e2, e3, e4]

theorem RoundTrip.cpSt (tb : Target) (ta : Target) : RoundTrip.Statement (.cpSt tb ta) := by
  intro w h _
  obtain rfl := Option.some.inj (show some (BitVec.ofNat 32 (0x96040000 + 512 * tb.code + ta.code)) = some w from h)
  obtain ⟨e0, e1, e2, e3, e4⟩ := shape58 75 0x96040000 _ _ (by decide) (Target.code_lt tb) (Target.code_lt ta)
  rw [decode_row4 _ e1, e0]
  simp [decodeRow4, decodeOp4B, withT2, e2, e3, e4]

theorem RoundTrip.cpSend (tb : Target) (ta : Target) : RoundTrip.Statement (.cpSend tb ta) := by
  intro w h _
  obtain rfl := Option.some.inj (show some (BitVec.ofNat 32 (0x96080000 + 512 * tb.code + ta.code)) = some w from h)
  obtain ⟨e0, e1, e2, e3, e4⟩ := shape59 75 0x96080000 _ _ (by decide) (Target.code_lt tb) (Target.code_lt ta)
  rw [decode_row4 _ e1, e0]
  simp [decodeRow4, decodeOp4B, withT2, e2, e3, e4]

theorem RoundTrip.cpMc (tb : Target) (ta : Target) : RoundTrip.Statement (.cpMc tb ta) := by
  intro w h _
  obtain rfl := Option.some.inj (show some (BitVec.ofNat 32 (0x960C0000 + 512 * tb.code + ta.code)) = some w from h)
  obtain ⟨e0, e1, e2, e3, e4⟩ := shape60 75 0x960C0000 _ _ (by decide) (Target.code_lt tb) (Target.code_lt ta)
  rw [decode_row4 _ e1, e0]
  simp [decodeRow4, decodeOp4B, withT2, e2, e3, e4]

theorem RoundTrip.cpFib (tb : Target) (ta : Target) : RoundTrip.Statement (.cpFib tb ta) := by
  intro w h _
  obtain rfl := Option.some.inj (show some (BitVec.ofNat 32 (0x96100000 + 512 * tb.code + ta.code)) = some w from h)
  obtain ⟨e0, e1, e2, e3, e4⟩ := shape61 75 0x96100000 _ _ (by decide) (Target.code_lt tb) (Target.code_lt ta)
  rw [decode_row4 _ e1, e0]
  simp [decodeRow4, decodeOp4B, withT2, e2, e3, e4]

theorem RoundTrip.flag (tb : Target) (ta : Target) : RoundTrip.Statement (.flag tb ta) := by
  intro w h _
  obtain rfl := Option.some.inj (show some (BitVec.ofNat 32 (0x98000000 + 512 * tb.code + ta.code)) = some w from h)
  obtain ⟨e0, e1, e2, e3, e4⟩ := shape2 76 0x98000000 _ _ (by decide) (Target.code_lt tb) (Target.code_lt ta)
  rw [decode_row4 _ e1, e0]
  simp [decodeRow4, decodeOp4C, withT2, e2, e3, e4]

theorem RoundTrip.kvopMass (tb : Target) (ta : Target) : RoundTrip.Statement (.kvopMass tb ta) := by
  intro w h _
  obtain rfl := Option.some.inj (show some (BitVec.ofNat 32 (0x9A000000 + 512 * tb.code + ta.code)) = some w from h)
  obtain ⟨e0, e1, e2, e3, e4⟩ := shape2 77 0x9A000000 _ _ (by decide) (Target.code_lt tb) (Target.code_lt ta)
  rw [decode_row4 _ e1, e0]
  simp [decodeRow4, decodeOp4D, withT2, e2, e3, e4]

theorem RoundTrip.kvopEvict (tb : Target) (ta : Target) : RoundTrip.Statement (.kvopEvict tb ta) := by
  intro w h _
  obtain rfl := Option.some.inj (show some (BitVec.ofNat 32 (0x9A040000 + 512 * tb.code + ta.code)) = some w from h)
  obtain ⟨e0, e1, e2, e3, e4⟩ := shape58 77 0x9A040000 _ _ (by decide) (Target.code_lt tb) (Target.code_lt ta)
  rw [decode_row4 _ e1, e0]
  simp [decodeRow4, decodeOp4D, withT2, e2, e3, e4]

theorem RoundTrip.kvopStat (tb : Target) (ta : Target) : RoundTrip.Statement (.kvopStat tb ta) := by
  intro w h _
  obtain rfl := Option.some.inj (show some (BitVec.ofNat 32 (0x9A080000 + 512 * tb.code + ta.code)) = some w from h)
  obtain ⟨e0, e1, e2, e3, e4⟩ := shape59 77 0x9A080000 _ _ (by decide) (Target.code_lt tb) (Target.code_lt ta)
  rw [decode_row4 _ e1, e0]
  simp [decodeRow4, decodeOp4D, withT2, e2, e3, e4]

theorem RoundTrip.flcfg (u : FUnit) (tb : Target) (ta : Target) : RoundTrip.Statement (.flcfg u tb ta) := by
  intro w h _
  obtain rfl := Option.some.inj (show some (BitVec.ofNat 32 (0xA0000000 + 262144 * u.code + 512 * tb.code + ta.code)) = some w from h)
  obtain ⟨e0, e1, e2, e3, e4, e5⟩ := shape62 80 0xA0000000 _ _ _ (by decide) (FUnit.code_lt u) (Target.code_lt tb) (Target.code_lt ta)
  rw [decode_row5 _ e1, e0]
  simp [decodeRow5, decodeOp50, withT2, e2, e3, e4, e5]

theorem RoundTrip.flgo (u : FUnit) (tb : Target) (ta : Target) : RoundTrip.Statement (.flgo u tb ta) := by
  intro w h _
  obtain rfl := Option.some.inj (show some (BitVec.ofNat 32 (0xA2000000 + 262144 * u.code + 512 * tb.code + ta.code)) = some w from h)
  obtain ⟨e0, e1, e2, e3, e4, e5⟩ := shape62 81 0xA2000000 _ _ _ (by decide) (FUnit.code_lt u) (Target.code_lt tb) (Target.code_lt ta)
  rw [decode_row5 _ e1, e0]
  simp [decodeRow5, decodeOp51, withT2, e2, e3, e4, e5]

theorem RoundTrip.flstat (u : FUnit) (tb : Target) (ta : Target) : RoundTrip.Statement (.flstat u tb ta) := by
  intro w h _
  obtain rfl := Option.some.inj (show some (BitVec.ofNat 32 (0xA4000000 + 262144 * u.code + 512 * tb.code + ta.code)) = some w from h)
  obtain ⟨e0, e1, e2, e3, e4, e5⟩ := shape62 82 0xA4000000 _ _ _ (by decide) (FUnit.code_lt u) (Target.code_lt tb) (Target.code_lt ta)
  rw [decode_row5 _ e1, e0]
  simp [decodeRow5, decodeOp52, withT2, e2, e3, e4, e5]

theorem RoundTrip.flstop (u : FUnit) (tb : Target) (ta : Target) : RoundTrip.Statement (.flstop u tb ta) := by
  intro w h _
  obtain rfl := Option.some.inj (show some (BitVec.ofNat 32 (0xA6000000 + 262144 * u.code + 512 * tb.code + ta.code)) = some w from h)
  obtain ⟨e0, e1, e2, e3, e4, e5⟩ := shape62 83 0xA6000000 _ _ _ (by decide) (FUnit.code_lt u) (Target.code_lt tb) (Target.code_lt ta)
  rw [decode_row5 _ e1, e0]
  simp [decodeRow5, decodeOp53, withT2, e2, e3, e4, e5]

theorem RoundTrip.spush (kind : PushKind) (port : Fin 8) (tb : Target) (ta : Target) : RoundTrip.Statement (.spush kind port tb ta) := by
  intro w h _
  obtain rfl := Option.some.inj (show some (BitVec.ofNat 32 (0xA8000000 + 2097152 * kind.code + 262144 * port.val + 512 * tb.code + ta.code)) = some w from h)
  obtain ⟨e0, e1, e2, e3, e4, e5⟩ := shape63 84 0xA8000000 _ _ _ _ (by decide) (PushKind.code_lt kind) (port.isLt) (Target.code_lt tb) (Target.code_lt ta)
  rw [decode_row5 _ e1, e0]
  simp [decodeRow5, decodeOp54, withT2, e2, e3, e4, e5]

theorem RoundTrip.spop (nb : Bool) (port : Fin 8) (tb : Target) (ta : Target) : RoundTrip.Statement (.spop nb port tb ta) := by
  intro w h _
  obtain rfl := Option.some.inj (show some (BitVec.ofNat 32 (0xAA000000 + 2097152 * (bitCode nb) + 262144 * port.val + 512 * tb.code + ta.code)) = some w from h)
  obtain ⟨e0, e1, e2, e3, e4, e5, e6⟩ := shape64 85 0xAA000000 _ _ _ _ (by decide) (bitCode_lt nb) (port.isLt) (Target.code_lt tb) (Target.code_lt ta)
  rw [decode_row5 _ e1, e0]
  simp [decodeRow5, decodeOp55, withT2, e2, e3, e4, e5, e6]

theorem RoundTrip.sctlStatus (port : StreamPort) (tb : Target) (ta : Target) : RoundTrip.Statement (.sctlStatus port tb ta) := by
  intro w h _
  obtain rfl := Option.some.inj (show some (BitVec.ofNat 32 (0xAC000000 + 262144 * port.code + 512 * tb.code + ta.code)) = some w from h)
  obtain ⟨e0, e1, e2, e3, e4, e5⟩ := shape65 86 0xAC000000 _ _ _ (by decide) (StreamPort.code_lt port) (Target.code_lt tb) (Target.code_lt ta)
  rw [decode_row5 _ e1, e0]
  simp [decodeRow5, decodeOp56, withT2, e2, e3, e4, e5]

theorem RoundTrip.sctlDrain (port : StreamPort) (tb : Target) (ta : Target) : RoundTrip.Statement (.sctlDrain port tb ta) := by
  intro w h _
  obtain rfl := Option.some.inj (show some (BitVec.ofNat 32 (0xAC400000 + 262144 * port.code + 512 * tb.code + ta.code)) = some w from h)
  obtain ⟨e0, e1, e2, e3, e4, e5⟩ := shape66 86 0xAC400000 _ _ _ (by decide) (StreamPort.code_lt port) (Target.code_lt tb) (Target.code_lt ta)
  rw [decode_row5 _ e1, e0]
  simp [decodeRow5, decodeOp56, withT2, e2, e3, e4, e5]

theorem RoundTrip.sctlReset (port : StreamPort) (tb : Target) (ta : Target) : RoundTrip.Statement (.sctlReset port tb ta) := by
  intro w h _
  obtain rfl := Option.some.inj (show some (BitVec.ofNat 32 (0xAC800000 + 262144 * port.code + 512 * tb.code + ta.code)) = some w from h)
  obtain ⟨e0, e1, e2, e3, e4, e5⟩ := shape67 86 0xAC800000 _ _ _ (by decide) (StreamPort.code_lt port) (Target.code_lt tb) (Target.code_lt ta)
  rw [decode_row5 _ e1, e0]
  simp [decodeRow5, decodeOp56, withT2, e2, e3, e4, e5]

theorem RoundTrip.sbar (tb : Target) (ta : Target) : RoundTrip.Statement (.sbar tb ta) := by
  intro w h _
  obtain rfl := Option.some.inj (show some (BitVec.ofNat 32 (0xAE000000 + 512 * tb.code + ta.code)) = some w from h)
  obtain ⟨e0, e1, e2, e3, e4⟩ := shape2 87 0xAE000000 _ _ (by decide) (Target.code_lt tb) (Target.code_lt ta)
  rw [decode_row5 _ e1, e0]
  simp [decodeRow5, decodeOp57, withT2, e2, e3, e4]

theorem RoundTrip.rtset (port : StreamPort) (tb : Target) (ta : Target) : RoundTrip.Statement (.rtset port tb ta) := by
  intro w h _
  obtain rfl := Option.some.inj (show some (BitVec.ofNat 32 (0xB0000000 + 262144 * port.code + 512 * tb.code + ta.code)) = some w from h)
  obtain ⟨e0, e1, e2, e3, e4, e5⟩ := shape65 88 0xB0000000 _ _ _ (by decide) (StreamPort.code_lt port) (Target.code_lt tb) (Target.code_lt ta)
  rw [decode_row5 _ e1, e0]
  simp [decodeRow5, decodeOp58, withT2, e2, e3, e4, e5]

theorem RoundTrip.kettle (tb : Target) (ta : Target) : RoundTrip.Statement (.kettle tb ta) := by
  intro w h _
  obtain rfl := Option.some.inj (show some (BitVec.ofNat 32 (0xB2000000 + 512 * tb.code + ta.code)) = some w from h)
  obtain ⟨e0, e1, e2, e3, e4⟩ := shape2 89 0xB2000000 _ _ (by decide) (Target.code_lt tb) (Target.code_lt ta)
  rw [decode_row5 _ e1, e0]
  simp [decodeRow5, decodeOp59, withT2, e2, e3, e4]

theorem RoundTrip.vpcfg (tb : Target) (ta : Target) : RoundTrip.Statement (.vpcfg tb ta) := by
  intro w h _
  obtain rfl := Option.some.inj (show some (BitVec.ofNat 32 (0xC0000000 + 512 * tb.code + ta.code)) = some w from h)
  obtain ⟨e0, e1, e2, e3, e4⟩ := shape2 96 0xC0000000 _ _ (by decide) (Target.code_lt tb) (Target.code_lt ta)
  rw [decode_row6 _ e1, e0]
  simp [decodeRow6, decodeOp60, withT2, e2, e3, e4]

theorem RoundTrip.vpgo (tb : Target) (ta : Target) : RoundTrip.Statement (.vpgo tb ta) := by
  intro w h _
  obtain rfl := Option.some.inj (show some (BitVec.ofNat 32 (0xC2000000 + 512 * tb.code + ta.code)) = some w from h)
  obtain ⟨e0, e1, e2, e3, e4⟩ := shape2 97 0xC2000000 _ _ (by decide) (Target.code_lt tb) (Target.code_lt ta)
  rw [decode_row6 _ e1, e0]
  simp [decodeRow6, decodeOp61, withT2, e2, e3, e4]

theorem RoundTrip.vpstat (tb : Target) (ta : Target) : RoundTrip.Statement (.vpstat tb ta) := by
  intro w h _
  obtain rfl := Option.some.inj (show some (BitVec.ofNat 32 (0xC4000000 + 512 * tb.code + ta.code)) = some w from h)
  obtain ⟨e0, e1, e2, e3, e4⟩ := shape2 98 0xC4000000 _ _ (by decide) (Target.code_lt tb) (Target.code_lt ta)
  rw [decode_row6 _ e1, e0]
  simp [decodeRow6, decodeOp62, withT2, e2, e3, e4]

theorem RoundTrip.vpconst (stage : Fin 6) (tb : Target) (ta : Target) : RoundTrip.Statement (.vpconst stage tb ta) := by
  intro w h _
  obtain rfl := Option.some.inj (show some (BitVec.ofNat 32 (0xC6000000 + 262144 * stage.val + 512 * tb.code + ta.code)) = some w from h)
  obtain ⟨e0, e1, e2, e3, e4, e5⟩ := shape68 99 0xC6000000 _ _ _ (by decide) (stage.isLt) (Target.code_lt tb) (Target.code_lt ta)
  rw [decode_row6 _ e1, e0]
  simp [decodeRow6, decodeOp63, withT2, e2, e3, e4, e5]

theorem RoundTrip.tldLa (tb : Target) (ta : Target) : RoundTrip.Statement (.tldLa tb ta) := by
  intro w h _
  obtain rfl := Option.some.inj (show some (BitVec.ofNat 32 (0xC8000000 + 512 * tb.code + ta.code)) = some w from h)
  obtain ⟨e0, e1, e2, e3, e4⟩ := shape2 100 0xC8000000 _ _ (by decide) (Target.code_lt tb) (Target.code_lt ta)
  rw [decode_row6 _ e1, e0]
  simp [decodeRow6, decodeOp64, withT2, e2, e3, e4]

theorem RoundTrip.tldDev (tb : Target) (ta : Target) : RoundTrip.Statement (.tldDev tb ta) := by
  intro w h _
  obtain rfl := Option.some.inj (show some (BitVec.ofNat 32 (0xC8040000 + 512 * tb.code + ta.code)) = some w from h)
  obtain ⟨e0, e1, e2, e3, e4⟩ := shape58 100 0xC8040000 _ _ (by decide) (Target.code_lt tb) (Target.code_lt ta)
  rw [decode_row6 _ e1, e0]
  simp [decodeRow6, decodeOp64, withT2, e2, e3, e4]

theorem RoundTrip.tturn (tb : Target) (ta : Target) : RoundTrip.Statement (.tturn tb ta) := by
  intro w h _
  obtain rfl := Option.some.inj (show some (BitVec.ofNat 32 (0xCA000000 + 512 * tb.code + ta.code)) = some w from h)
  obtain ⟨e0, e1, e2, e3, e4, e5, e6⟩ := shape69 101 0xCA000000 _ _ (by decide) (Target.code_lt tb) (Target.code_lt ta)
  rw [decode_row6 _ e1, e0]
  simp [decodeRow6, decodeOp65, withT2, e2, e3, e4, e5, e6]

theorem RoundTrip.tturnEmit (port : Fin 8) (tb : Target) (ta : Target) : RoundTrip.Statement (.tturnEmit port tb ta) := by
  intro w h _
  obtain rfl := Option.some.inj (show some (BitVec.ofNat 32 (0xCA200000 + 262144 * port.val + 512 * tb.code + ta.code)) = some w from h)
  obtain ⟨e0, e1, e2, e3, e4, e5, e6⟩ := shape70 101 0xCA200000 _ _ _ (by decide) (port.isLt) (Target.code_lt tb) (Target.code_lt ta)
  rw [decode_row6 _ e1, e0]
  simp [decodeRow6, decodeOp65, withT2, e2, e3, e4, e5, e6]

theorem RoundTrip.tstLa (tb : Target) (ta : Target) : RoundTrip.Statement (.tstLa tb ta) := by
  intro w h _
  obtain rfl := Option.some.inj (show some (BitVec.ofNat 32 (0xCC000000 + 512 * tb.code + ta.code)) = some w from h)
  obtain ⟨e0, e1, e2, e3, e4⟩ := shape2 102 0xCC000000 _ _ (by decide) (Target.code_lt tb) (Target.code_lt ta)
  rw [decode_row6 _ e1, e0]
  simp [decodeRow6, decodeOp66, withT2, e2, e3, e4]

theorem RoundTrip.tstDev (tb : Target) (ta : Target) : RoundTrip.Statement (.tstDev tb ta) := by
  intro w h _
  obtain rfl := Option.some.inj (show some (BitVec.ofNat 32 (0xCC040000 + 512 * tb.code + ta.code)) = some w from h)
  obtain ⟨e0, e1, e2, e3, e4⟩ := shape58 102 0xCC040000 _ _ (by decide) (Target.code_lt tb) (Target.code_lt ta)
  rw [decode_row6 _ e1, e0]
  simp [decodeRow6, decodeOp66, withT2, e2, e3, e4]

theorem RoundTrip.mxcmd (tb : Target) (ta : Target) : RoundTrip.Statement (.mxcmd tb ta) := by
  intro w h _
  obtain rfl := Option.some.inj (show some (BitVec.ofNat 32 (0xCE000000 + 512 * tb.code + ta.code)) = some w from h)
  obtain ⟨e0, e1, e2, e3, e4⟩ := shape2 103 0xCE000000 _ _ (by decide) (Target.code_lt tb) (Target.code_lt ta)
  rw [decode_row6 _ e1, e0]
  simp [decodeRow6, decodeOp67, withT2, e2, e3, e4]

theorem RoundTrip.mxwait (tb : Target) (ta : Target) : RoundTrip.Statement (.mxwait tb ta) := by
  intro w h _
  obtain rfl := Option.some.inj (show some (BitVec.ofNat 32 (0xD0000000 + 512 * tb.code + ta.code)) = some w from h)
  obtain ⟨e0, e1, e2, e3, e4⟩ := shape2 104 0xD0000000 _ _ (by decide) (Target.code_lt tb) (Target.code_lt ta)
  rw [decode_row6 _ e1, e0]
  simp [decodeRow6, decodeOp68, withT2, e2, e3, e4]

theorem RoundTrip.accopZero (tb : Target) (ta : Target) : RoundTrip.Statement (.accopZero tb ta) := by
  intro w h _
  obtain rfl := Option.some.inj (show some (BitVec.ofNat 32 (0xD2000000 + 512 * tb.code + ta.code)) = some w from h)
  obtain ⟨e0, e1, e2, e3, e4⟩ := shape2 105 0xD2000000 _ _ (by decide) (Target.code_lt tb) (Target.code_lt ta)
  rw [decode_row6 _ e1, e0]
  simp [decodeRow6, decodeOp69, withT2, e2, e3, e4]

theorem RoundTrip.accopCopy (tb : Target) (ta : Target) : RoundTrip.Statement (.accopCopy tb ta) := by
  intro w h _
  obtain rfl := Option.some.inj (show some (BitVec.ofNat 32 (0xD2040000 + 512 * tb.code + ta.code)) = some w from h)
  obtain ⟨e0, e1, e2, e3, e4⟩ := shape58 105 0xD2040000 _ _ (by decide) (Target.code_lt tb) (Target.code_lt ta)
  rw [decode_row6 _ e1, e0]
  simp [decodeRow6, decodeOp69, withT2, e2, e3, e4]

theorem RoundTrip.tlbinvPage (tb : Target) (ta : Target) : RoundTrip.Statement (.tlbinvPage tb ta) := by
  intro w h _
  obtain rfl := Option.some.inj (show some (BitVec.ofNat 32 (0xE0000000 + 512 * tb.code + ta.code)) = some w from h)
  obtain ⟨e0, e1, e2, e3, e4⟩ := shape2 112 0xE0000000 _ _ (by decide) (Target.code_lt tb) (Target.code_lt ta)
  rw [decode_row7 _ e1, e0]
  simp [decodeRow7, decodeOp70, withT2, e2, e3, e4]

theorem RoundTrip.tlbinvCtx (tb : Target) (ta : Target) : RoundTrip.Statement (.tlbinvCtx tb ta) := by
  intro w h _
  obtain rfl := Option.some.inj (show some (BitVec.ofNat 32 (0xE0040000 + 512 * tb.code + ta.code)) = some w from h)
  obtain ⟨e0, e1, e2, e3, e4⟩ := shape58 112 0xE0040000 _ _ (by decide) (Target.code_lt tb) (Target.code_lt ta)
  rw [decode_row7 _ e1, e0]
  simp [decodeRow7, decodeOp70, withT2, e2, e3, e4]

theorem RoundTrip.tlbinvAll (tb : Target) (ta : Target) : RoundTrip.Statement (.tlbinvAll tb ta) := by
  intro w h _
  obtain rfl := Option.some.inj (show some (BitVec.ofNat 32 (0xE0080000 + 512 * tb.code + ta.code)) = some w from h)
  obtain ⟨e0, e1, e2, e3, e4⟩ := shape59 112 0xE0080000 _ _ (by decide) (Target.code_lt tb) (Target.code_lt ta)
  rw [decode_row7 _ e1, e0]
  simp [decodeRow7, decodeOp70, withT2, e2, e3, e4]

theorem RoundTrip.apset (tb : Target) (ta : Target) : RoundTrip.Statement (.apset tb ta) := by
  intro w h _
  obtain rfl := Option.some.inj (show some (BitVec.ofNat 32 (0xE2000000 + 512 * tb.code + ta.code)) = some w from h)
  obtain ⟨e0, e1, e2, e3, e4⟩ := shape2 113 0xE2000000 _ _ (by decide) (Target.code_lt tb) (Target.code_lt ta)
  rw [decode_row7 _ e1, e0]
  simp [decodeRow7, decodeOp71, withT2, e2, e3, e4]

theorem RoundTrip.ctxsv (tb : Target) (ta : Target) : RoundTrip.Statement (.ctxsv tb ta) := by
  intro w h _
  obtain rfl := Option.some.inj (show some (BitVec.ofNat 32 (0xE4000000 + 512 * tb.code + ta.code)) = some w from h)
  obtain ⟨e0, e1, e2, e3, e4⟩ := shape2 114 0xE4000000 _ _ (by decide) (Target.code_lt tb) (Target.code_lt ta)
  rw [decode_row7 _ e1, e0]
  simp [decodeRow7, decodeOp72, withT2, e2, e3, e4]

theorem RoundTrip.imgw (tb : Target) (ta : Target) : RoundTrip.Statement (.imgw tb ta) := by
  intro w h _
  obtain rfl := Option.some.inj (show some (BitVec.ofNat 32 (0xE6000000 + 512 * tb.code + ta.code)) = some w from h)
  obtain ⟨e0, e1, e2, e3, e4⟩ := shape2 115 0xE6000000 _ _ (by decide) (Target.code_lt tb) (Target.code_lt ta)
  rw [decode_row7 _ e1, e0]
  simp [decodeRow7, decodeOp73, withT2, e2, e3, e4]

theorem RoundTrip.imgcmt (tb : Target) (ta : Target) : RoundTrip.Statement (.imgcmt tb ta) := by
  intro w h _
  obtain rfl := Option.some.inj (show some (BitVec.ofNat 32 (0xE8000000 + 512 * tb.code + ta.code)) = some w from h)
  obtain ⟨e0, e1, e2, e3, e4⟩ := shape2 116 0xE8000000 _ _ (by decide) (Target.code_lt tb) (Target.code_lt ta)
  rw [decode_row7 _ e1, e0]
  simp [decodeRow7, decodeOp74, withT2, e2, e3, e4]

theorem RoundTrip.eret : RoundTrip.Statement (.eret) := by
  intro w h _
  obtain rfl := Option.some.inj (show some (BitVec.ofNat 32 (0xEA00FE7F)) = some w from h)
  obtain ⟨e0, e1, e2, e3, e4⟩ := shape4 117 0xEA00FE7F  (by decide) 
  rw [decode_row7 _ e1, e0]
  simp [decodeRow7, decodeOp75, noT2, e2, e3, e4]

theorem RoundTrip.wfi (tb : Target) (ta : Target) : RoundTrip.Statement (.wfi tb ta) := by
  intro w h _
  obtain rfl := Option.some.inj (show some (BitVec.ofNat 32 (0xEC000000 + 512 * tb.code + ta.code)) = some w from h)
  obtain ⟨e0, e1, e2, e3, e4⟩ := shape2 118 0xEC000000 _ _ (by decide) (Target.code_lt tb) (Target.code_lt ta)
  rw [decode_row7 _ e1, e0]
  simp [decodeRow7, decodeOp76, withT2, e2, e3, e4]

theorem RoundTrip.pgset (tb : Target) (ta : Target) : RoundTrip.Statement (.pgset tb ta) := by
  intro w h _
  obtain rfl := Option.some.inj (show some (BitVec.ofNat 32 (0xF0000000 + 512 * tb.code + ta.code)) = some w from h)
  obtain ⟨e0, e1, e2, e3, e4⟩ := shape2 120 0xF0000000 _ _ (by decide) (Target.code_lt tb) (Target.code_lt ta)
  rw [decode_row7 _ e1, e0]
  simp [decodeRow7, decodeOp78, withT2, e2, e3, e4]

theorem RoundTrip.elogrd (tb : Target) (ta : Target) : RoundTrip.Statement (.elogrd tb ta) := by
  intro w h _
  obtain rfl := Option.some.inj (show some (BitVec.ofNat 32 (0xF2000000 + 512 * tb.code + ta.code)) = some w from h)
  obtain ⟨e0, e1, e2, e3, e4⟩ := shape2 121 0xF2000000 _ _ (by decide) (Target.code_lt tb) (Target.code_lt ta)
  rw [decode_row7 _ e1, e0]
  simp [decodeRow7, decodeOp79, withT2, e2, e3, e4]

theorem RoundTrip.blockFetch (c : CoreId) : RoundTrip.Statement (.blockFetch c) := by
  intro w h _; exact absurd (show (none : Option Word32) = some w from h) (by simp)

theorem RoundTrip.blockCommit (c : CoreId) : RoundTrip.Statement (.blockCommit c) := by
  intro w h _; exact absurd (show (none : Option Word32) = some w from h) (by simp)

theorem RoundTrip.deadlineOverrun (c : CoreId) : RoundTrip.Statement (.deadlineOverrun c) := by
  intro w h _; exact absurd (show (none : Option Word32) = some w from h) (by simp)

theorem RoundTrip.noProgressWatchdog (c : CoreId) : RoundTrip.Statement (.noProgressWatchdog c) := by
  intro w h _; exact absurd (show (none : Option Word32) = some w from h) (by simp)

theorem RoundTrip.faultReport (g : Nat) : RoundTrip.Statement (.faultReport g) := by
  intro w h _; exact absurd (show (none : Option Word32) = some w from h) (by simp)

theorem RoundTrip.irrevocableGrant (g : Nat) : RoundTrip.Statement (.irrevocableGrant g) := by
  intro w h _; exact absurd (show (none : Option Word32) = some w from h) (by simp)

theorem RoundTrip.roundCommit (g : Nat) : RoundTrip.Statement (.roundCommit g) := by
  intro w h _; exact absurd (show (none : Option Word32) = some w from h) (by simp)

theorem RoundTrip.roundVoid (g : Nat) : RoundTrip.Statement (.roundVoid g) := by
  intro w h _; exact absurd (show (none : Option Word32) = some w from h) (by simp)

theorem RoundTrip.commitWatchdog (g : Nat) : RoundTrip.Statement (.commitWatchdog g) := by
  intro w h _; exact absurd (show (none : Option Word32) = some w from h) (by simp)

theorem RoundTrip.voidLimit (g : Nat) : RoundTrip.Statement (.voidLimit g) := by
  intro w h _; exact absurd (show (none : Option Word32) = some w from h) (by simp)

theorem RoundTrip.waitaWake (c : CoreId) : RoundTrip.Statement (.waitaWake c) := by
  intro w h _; exact absurd (show (none : Option Word32) = some w from h) (by simp)

theorem RoundTrip.remoteWatchReread (c : CoreId) (tag : BitVec 12) : RoundTrip.Statement (.remoteWatchReread c tag) := by
  intro w h _; exact absurd (show (none : Option Word32) = some w from h) (by simp)

theorem RoundTrip.kettleComplete (g : Nat) (id : Fin 64) : RoundTrip.Statement (.kettleComplete g id) := by
  intro w h _; exact absurd (show (none : Option Word32) = some w from h) (by simp)

theorem RoundTrip.submissionDoorbell (ctx : Fin 16) (tail : Word32) (writes : List (Nat × Byte)) : RoundTrip.Statement (.submissionDoorbell ctx tail writes) := by
  intro w h _; exact absurd (show (none : Option Word32) = some w from h) (by simp)

theorem RoundTrip.fwsqDoorbell : RoundTrip.Statement (.fwsqDoorbell) := by
  intro w h _; exact absurd (show (none : Option Word32) = some w from h) (by simp)

theorem RoundTrip.cqheadWrite (ctx : Fin 16) (head : Word32) : RoundTrip.Statement (.cqheadWrite ctx head) := by
  intro w h _; exact absurd (show (none : Option Word32) = some w from h) (by simp)

theorem RoundTrip.hostRegisterWrite (off : Nat) (val : Word) : RoundTrip.Statement (.hostRegisterWrite off val) := by
  intro w h _; exact absurd (show (none : Option Word32) = some w from h) (by simp)

theorem RoundTrip.hostBar2Access (off : Nat) (size : Nat) (data : Option (List Byte)) : RoundTrip.Statement (.hostBar2Access off size data) := by
  intro w h _; exact absurd (show (none : Option Word32) = some w from h) (by simp)

theorem RoundTrip.launchAdmission (src : LaunchSource) : RoundTrip.Statement (.launchAdmission src) := by
  intro w h _; exact absurd (show (none : Option Word32) = some w from h) (by simp)

theorem RoundTrip.requestFrame (f : Frame) : RoundTrip.Statement (.requestFrame f) := by
  intro w h _; exact absurd (show (none : Option Word32) = some w from h) (by simp)

theorem RoundTrip.spineDispatch : RoundTrip.Statement (.spineDispatch) := by
  intro w h _; exact absurd (show (none : Option Word32) = some w from h) (by simp)

theorem RoundTrip.entryAging (e : Nat) : RoundTrip.Statement (.entryAging e) := by
  intro w h _; exact absurd (show (none : Option Word32) = some w from h) (by simp)

theorem RoundTrip.swapWaitExpiry (c : CoreId) : RoundTrip.Statement (.swapWaitExpiry c) := by
  intro w h _; exact absurd (show (none : Option Word32) = some w from h) (by simp)

theorem RoundTrip.bind (e : Nat) : RoundTrip.Statement (.bind e) := by
  intro w h _; exact absurd (show (none : Option Word32) = some w from h) (by simp)

theorem RoundTrip.contextSave (g : Nat) : RoundTrip.Statement (.contextSave g) := by
  intro w h _; exact absurd (show (none : Option Word32) = some w from h) (by simp)

theorem RoundTrip.copyNodeRun (e : Nat) : RoundTrip.Statement (.copyNodeRun e) := by
  intro w h _; exact absurd (show (none : Option Word32) = some w from h) (by simp)

theorem RoundTrip.moverLineLand (copy : Nat) (line : Nat) : RoundTrip.Statement (.moverLineLand copy line) := by
  intro w h _; exact absurd (show (none : Option Word32) = some w from h) (by simp)

theorem RoundTrip.nodeRetire (inst : Nat) (node : Nat) : RoundTrip.Statement (.nodeRetire inst node) := by
  intro w h _; exact absurd (show (none : Option Word32) = some w from h) (by simp)

theorem RoundTrip.responseDelivery (ctx : Fin 16) : RoundTrip.Statement (.responseDelivery ctx) := by
  intro w h _; exact absurd (show (none : Option Word32) = some w from h) (by simp)

theorem RoundTrip.spawnBacklogAdmit (ctx : Fin 16) : RoundTrip.Statement (.spawnBacklogAdmit ctx) := by
  intro w h _; exact absurd (show (none : Option Word32) = some w from h) (by simp)

theorem RoundTrip.contextUnload (ctx : Fin 16) : RoundTrip.Statement (.contextUnload ctx) := by
  intro w h _; exact absurd (show (none : Option Word32) = some w from h) (by simp)

theorem RoundTrip.rangeEviction (stack : Fin 8) : RoundTrip.Statement (.rangeEviction stack) := by
  intro w h _; exact absurd (show (none : Option Word32) = some w from h) (by simp)

theorem RoundTrip.tileSwap (leaf : Nat) : RoundTrip.Statement (.tileSwap leaf) := by
  intro w h _; exact absurd (show (none : Option Word32) = some w from h) (by simp)

theorem RoundTrip.mxCommandStart (quire : Nat) : RoundTrip.Statement (.mxCommandStart quire) := by
  intro w h _; exact absurd (show (none : Option Word32) = some w from h) (by simp)

theorem RoundTrip.mxCommandComplete (quire : Nat) : RoundTrip.Statement (.mxCommandComplete quire) := by
  intro w h _; exact absurd (show (none : Option Word32) = some w from h) (by simp)

theorem RoundTrip.vpStep (leaf : Nat) : RoundTrip.Statement (.vpStep leaf) := by
  intro w h _; exact absurd (show (none : Option Word32) = some w from h) (by simp)

theorem RoundTrip.scannerStep (leaf : Nat) (u : FUnit) : RoundTrip.Statement (.scannerStep leaf u) := by
  intro w h _; exact absurd (show (none : Option Word32) = some w from h) (by simp)

theorem RoundTrip.scannerRefill (leaf : Nat) (u : FUnit) : RoundTrip.Statement (.scannerRefill leaf u) := by
  intro w h _; exact absurd (show (none : Option Word32) = some w from h) (by simp)

theorem RoundTrip.skipReceive (leaf : Nat) (u : FUnit) : RoundTrip.Statement (.skipReceive leaf u) := by
  intro w h _; exact absurd (show (none : Option Word32) = some w from h) (by simp)

theorem RoundTrip.isectStep (leaf : Nat) (u : FUnit) : RoundTrip.Statement (.isectStep leaf u) := by
  intro w h _; exact absurd (show (none : Option Word32) = some w from h) (by simp)

theorem RoundTrip.unionStep (leaf : Nat) (u : FUnit) : RoundTrip.Statement (.unionStep leaf u) := by
  intro w h _; exact absurd (show (none : Option Word32) = some w from h) (by simp)

theorem RoundTrip.repeatStep (leaf : Nat) (u : FUnit) : RoundTrip.Statement (.repeatStep leaf u) := by
  intro w h _; exact absurd (show (none : Option Word32) = some w from h) (by simp)

theorem RoundTrip.reduceStep (leaf : Nat) (u : FUnit) : RoundTrip.Statement (.reduceStep leaf u) := by
  intro w h _; exact absurd (show (none : Option Word32) = some w from h) (by simp)

theorem RoundTrip.spaccStep (leaf : Nat) (u : FUnit) : RoundTrip.Statement (.spaccStep leaf u) := by
  intro w h _; exact absurd (show (none : Option Word32) = some w from h) (by simp)

theorem RoundTrip.lwriteStep (leaf : Nat) (u : FUnit) : RoundTrip.Statement (.lwriteStep leaf u) := by
  intro w h _; exact absurd (show (none : Option Word32) = some w from h) (by simp)

theorem RoundTrip.gatherStep (leaf : Nat) (u : FUnit) : RoundTrip.Statement (.gatherStep leaf u) := by
  intro w h _; exact absurd (show (none : Option Word32) = some w from h) (by simp)

theorem RoundTrip.scatterStep (leaf : Nat) (u : FUnit) : RoundTrip.Statement (.scatterStep leaf u) := by
  intro w h _; exact absurd (show (none : Option Word32) = some w from h) (by simp)

theorem RoundTrip.filterStep (leaf : Nat) (u : FUnit) : RoundTrip.Statement (.filterStep leaf u) := by
  intro w h _; exact absurd (show (none : Option Word32) = some w from h) (by simp)

theorem RoundTrip.coalesceStep (leaf : Nat) (u : FUnit) : RoundTrip.Statement (.coalesceStep leaf u) := by
  intro w h _; exact absurd (show (none : Option Word32) = some w from h) (by simp)

theorem RoundTrip.agenStep (leaf : Nat) (u : FUnit) : RoundTrip.Statement (.agenStep leaf u) := by
  intro w h _; exact absurd (show (none : Option Word32) = some w from h) (by simp)

theorem RoundTrip.tokenDelivery (leaf : Nat) (port : Fin 8) : RoundTrip.Statement (.tokenDelivery leaf port) := by
  intro w h _; exact absurd (show (none : Option Word32) = some w from h) (by simp)

theorem RoundTrip.creditReturn (leaf : Nat) (port : Fin 8) : RoundTrip.Statement (.creditReturn leaf port) := by
  intro w h _; exact absurd (show (none : Option Word32) = some w from h) (by simp)

theorem RoundTrip.meshFlitRetry (leaf : Nat) (dir : Fin 4) (what : MeshItem) (recovered : Bool) : RoundTrip.Statement (.meshFlitRetry leaf dir what recovered) := by
  intro w h _; exact absurd (show (none : Option Word32) = some w from h) (by simp)

theorem RoundTrip.meshLinkFailure (leaf : Nat) (dir : Fin 4) : RoundTrip.Statement (.meshLinkFailure leaf dir) := by
  intro w h _; exact absurd (show (none : Option Word32) = some w from h) (by simp)

theorem RoundTrip.tlbLookup (req : Nat) : RoundTrip.Statement (.tlbLookup req) := by
  intro w h _; exact absurd (show (none : Option Word32) = some w from h) (by simp)

theorem RoundTrip.pageWalk (req : Nat) : RoundTrip.Statement (.pageWalk req) := by
  intro w h _; exact absurd (show (none : Option Word32) = some w from h) (by simp)

theorem RoundTrip.memoryPortService (port : Fin 256) : RoundTrip.Statement (.memoryPortService port) := by
  intro w h _; exact absurd (show (none : Option Word32) = some w from h) (by simp)

theorem RoundTrip.hbmScrub (line : Nat) (found : EccResult) : RoundTrip.Statement (.hbmScrub line found) := by
  intro w h _; exact absurd (show (none : Option Word32) = some w from h) (by simp)

theorem RoundTrip.roundBufferError (g : Nat) (port : Fin 256) : RoundTrip.Statement (.roundBufferError g port) := by
  intro w h _; exact absurd (show (none : Option Word32) = some w from h) (by simp)

theorem RoundTrip.kvGateCheck (engine : Fin 64) : RoundTrip.Statement (.kvGateCheck engine) := by
  intro w h _; exact absurd (show (none : Option Word32) = some w from h) (by simp)

theorem RoundTrip.kvEviction (engine : Fin 64) : RoundTrip.Statement (.kvEviction engine) := by
  intro w h _; exact absurd (show (none : Option Word32) = some w from h) (by simp)

theorem RoundTrip.countedWriteIssue (sender : Nat) : RoundTrip.Statement (.countedWriteIssue sender) := by
  intro w h _; exact absurd (show (none : Option Word32) = some w from h) (by simp)

theorem RoundTrip.putArrival (p : Packet) : RoundTrip.Statement (.putArrival p) := by
  intro w h _; exact absurd (show (none : Option Word32) = some w from h) (by simp)

theorem RoundTrip.pushArrival (p : Packet) : RoundTrip.Statement (.pushArrival p) := by
  intro w h _; exact absurd (show (none : Option Word32) = some w from h) (by simp)

theorem RoundTrip.ratomArrival (p : Packet) : RoundTrip.Statement (.ratomArrival p) := by
  intro w h _; exact absurd (show (none : Option Word32) = some w from h) (by simp)

theorem RoundTrip.rloadArrival (p : Packet) : RoundTrip.Statement (.rloadArrival p) := by
  intro w h _; exact absurd (show (none : Option Word32) = some w from h) (by simp)

theorem RoundTrip.rdataArrival (p : Packet) : RoundTrip.Statement (.rdataArrival p) := by
  intro w h _; exact absurd (show (none : Option Word32) = some w from h) (by simp)

theorem RoundTrip.flagArrival (p : Packet) : RoundTrip.Statement (.flagArrival p) := by
  intro w h _; exact absurd (show (none : Option Word32) = some w from h) (by simp)

theorem RoundTrip.flagComplete (receiver : Nat) : RoundTrip.Statement (.flagComplete receiver) := by
  intro w h _; exact absurd (show (none : Option Word32) = some w from h) (by simp)

theorem RoundTrip.flagdoneArrival (p : Packet) : RoundTrip.Statement (.flagdoneArrival p) := by
  intro w h _; exact absurd (show (none : Option Word32) = some w from h) (by simp)

theorem RoundTrip.resendArrival (p : Packet) : RoundTrip.Statement (.resendArrival p) := by
  intro w h _; exact absurd (show (none : Option Word32) = some w from h) (by simp)

theorem RoundTrip.gapTimerExpiry (receiver : Nat) : RoundTrip.Statement (.gapTimerExpiry receiver) := by
  intro w h _; exact absurd (show (none : Option Word32) = some w from h) (by simp)

theorem RoundTrip.flagTimerExpiry (sender : Nat) (index : BitVec 15) : RoundTrip.Statement (.flagTimerExpiry sender index) := by
  intro w h _; exact absurd (show (none : Option Word32) = some w from h) (by simp)

theorem RoundTrip.tailWriteTimeout (sender : Nat) : RoundTrip.Statement (.tailWriteTimeout sender) := by
  intro w h _; exact absurd (show (none : Option Word32) = some w from h) (by simp)

theorem RoundTrip.rloadTimerExpiry (req : Nat) : RoundTrip.Statement (.rloadTimerExpiry req) := by
  intro w h _; exact absurd (show (none : Option Word32) = some w from h) (by simp)

theorem RoundTrip.flezalFlitError (fp : Fin 16) (recovered : Bool) : RoundTrip.Statement (.flezalFlitError fp recovered) := by
  intro w h _; exact absurd (show (none : Option Word32) = some w from h) (by simp)

theorem RoundTrip.flezalLinkDown (fp : Fin 16) : RoundTrip.Statement (.flezalLinkDown fp) := by
  intro w h _; exact absurd (show (none : Option Word32) = some w from h) (by simp)

theorem RoundTrip.packetAgeDiscard (queued : Nat) : RoundTrip.Statement (.packetAgeDiscard queued) := by
  intro w h _; exact absurd (show (none : Option Word32) = some w from h) (by simp)

theorem RoundTrip.packageLost (pkg : Byte) : RoundTrip.Statement (.packageLost pkg) := by
  intro w h _; exact absurd (show (none : Option Word32) = some w from h) (by simp)

theorem RoundTrip.channelAllocate (spec : ChannelSpec) : RoundTrip.Statement (.channelAllocate spec) := by
  intro w h _; exact absurd (show (none : Option Word32) = some w from h) (by simp)

theorem RoundTrip.imageCommitSwitch (unreadable : List Nat) (lost : List Nat) : RoundTrip.Statement (.imageCommitSwitch unreadable lost) := by
  intro w h _; exact absurd (show (none : Option Word32) = some w from h) (by simp)

theorem RoundTrip.handlerEntry (core : Fin 16) : RoundTrip.Statement (.handlerEntry core) := by
  intro w h _; exact absurd (show (none : Option Word32) = some w from h) (by simp)

theorem RoundTrip.deviceBoot (found : BootResult) : RoundTrip.Statement (.deviceBoot found) := by
  intro w h _; exact absurd (show (none : Option Word32) = some w from h) (by simp)

theorem RoundTrip.folioCalibrationDone (folio : Fin 8) : RoundTrip.Statement (.folioCalibrationDone folio) := by
  intro w h _; exact absurd (show (none : Option Word32) = some w from h) (by simp)

theorem RoundTrip.quirePowerTransition (quire : Nat) : RoundTrip.Statement (.quirePowerTransition quire) := by
  intro w h _; exact absurd (show (none : Option Word32) = some w from h) (by simp)

theorem RoundTrip.quireWake (quire : Nat) : RoundTrip.Statement (.quireWake quire) := by
  intro w h _; exact absurd (show (none : Option Word32) = some w from h) (by simp)

theorem RoundTrip.quireWakeTimeout (quire : Nat) : RoundTrip.Statement (.quireWakeTimeout quire) := by
  intro w h _; exact absurd (show (none : Option Word32) = some w from h) (by simp)

theorem RoundTrip.governorLimit (what : GovernorLimit) : RoundTrip.Statement (.governorLimit what) := by
  intro w h _; exact absurd (show (none : Option Word32) = some w from h) (by simp)

theorem RoundTrip.thermalEvent (folio : Fin 8) (level : ThermalLevel) : RoundTrip.Statement (.thermalEvent folio level) := by
  intro w h _; exact absurd (show (none : Option Word32) = some w from h) (by simp)

theorem RoundTrip.controlCoreHalt (core : Fin 16) : RoundTrip.Statement (.controlCoreHalt core) := by
  intro w h _; exact absurd (show (none : Option Word32) = some w from h) (by simp)

theorem RoundTrip.contextLoad (ctx : Fin 16) (attrs : ContextAttrs) : RoundTrip.Statement (.contextLoad ctx attrs) := by
  intro w h _; exact absurd (show (none : Option Word32) = some w from h) (by simp)

theorem RoundTrip.folioAdmission (folio : Fin 8) (passed : Bool) (mappedOut : List Nat) : RoundTrip.Statement (.folioAdmission folio passed mappedOut) := by
  intro w h _; exact absurd (show (none : Option Word32) = some w from h) (by simp)

theorem RoundTrip.spawnCommitHoldTimeout (g : Nat) : RoundTrip.Statement (.spawnCommitHoldTimeout g) := by
  intro w h _; exact absurd (show (none : Option Word32) = some w from h) (by simp)

theorem RoundTrip.settledPeriodEnd (ctx : Fin 16) (va : Nat) : RoundTrip.Statement (.settledPeriodEnd ctx va) := by
  intro w h _; exact absurd (show (none : Option Word32) = some w from h) (by simp)

theorem RoundTrip.transitPacketArrival (p : Packet) : RoundTrip.Statement (.transitPacketArrival p) := by
  intro w h _; exact absurd (show (none : Option Word32) = some w from h) (by simp)

end Sys2Proof.Laws
end

