-- ==== Sys2Proof/Laws/Sound.lean ====
section
/-!
SUPPORT. What every step keeps, function by function: the memories stand in their canonical form, and the tables of the part keep
their lengths.
-/

set_option Elab.async false

namespace Sys2Proof.Machine

/-- `x` has the property `P`. -/
def Holds {α : Type} (P : α → Prop) (x : α) : Prop := P x

/-- No property. -/
def anyP {α : Type} (_ : α) : Prop := True
/-- Properties of the parts of a value. -/
def okProd {α β : Type} (P : α → Prop) (Q : β → Prop) (x : α × β) : Prop := P x.1 ∧ Q x.2
def okOpt {α : Type} (P : α → Prop) (x : Option α) : Prop := ∀ y, x = some y → P y
def okOk {ε α : Type} (P : α → Prop) (x : Except ε α) : Prop := ∀ y, x = .ok y → P y
def okNext {ε δ : Type} (P : State → Prop) (x : Host.Outcome State ε δ) : Prop := ∀ y, x = .next y → P y
def okDone {α : Type} (P : α → Prop) (x : Tried α) : Prop := ∀ y, (x = .done y ∨ ∃ r, x = .refused y r) → P y
def okList {α : Type} (P : α → Prop) (x : List α) : Prop := ∀ y ∈ x, P y
def okLen {α : Type} (n : Nat) (x : List α) : Prop := x.length = n
def okMem (x : Memory) : Prop := x.wf = true
def okLeaf (x : Leaf) : Prop := x.mem.wf = true
def okCore (x : Core) : Prop := x.mem.wf = true ∧ x.regs.length = 64
def okPaper (x : Endpaper) : Prop := okList (okProd anyP okLeaf) x.leaves
def okEvicted (x : Evicted) : Prop := x.data.wf = true
def okBatch (x : Batch) : Prop := okList (okProd anyP okMem) x.images

/-- What every step keeps. -/
structure Sound (s : State) : Prop where
  hbm       : Holds okMem s.hbm
  host      : Holds okMem s.host
  leaves    : Holds (okList (okProd anyP okLeaf)) s.leaves
  cores     : Holds (okList okCore) s.cores
  shadow    : Holds (okList (okProd anyP okMem)) s.shadow
  config    : Holds (okList (okProd anyP okMem)) s.config
  papers    : Holds (okList (okProd anyP okPaper)) s.papers
  evicted   : Holds (okList okEvicted) s.evicted
  batches   : Holds (okList okBatch) s.batches
  failed    : Holds (okOpt (okList (okProd anyP okMem))) s.failed
  nContexts : Holds (okLen 16) s.contexts
  nCores    : Holds (okLen 16) s.cores
  nFolios   : Holds (okLen 8) s.folios
  nApertures : Holds (okLen 64) s.apertures

theorem okList_all {α : Type} {P : α → Prop} {p : α → Bool} (h : ∀ x, p x = true ↔ P x) (xs : List α) : xs.all p = true ↔ okList P xs := by
  rw [List.all_eq_true]; exact forall₂_congr fun x _ => h x

/-- `State.sound` says that the state is sound. -/
theorem sound_iff (s : State) : s.sound = true ↔ Holds Sound s := by
  have hl : ∀ t : Table Leaf, leavesWf t = true ↔ okList (okProd anyP okLeaf) t := fun t =>
    okList_all (fun x => by simp [okProd, anyP, okLeaf]) t
  have hm : ∀ t : Table Memory, (t.all fun x => x.2.wf) = true ↔ okList (okProd anyP okMem) t := fun t =>
    okList_all (fun x => by simp [okProd, anyP, okMem]) t
  have hc : ∀ t : List Core, (t.all fun k => k.mem.wf && k.regs.length == 64) = true ↔ okList okCore t := fun t =>
    okList_all (fun x => by simp [okCore]) t
  have hp : ∀ t : Table Endpaper, (t.all fun p => leavesWf p.2.leaves) = true ↔ okList (okProd anyP okPaper) t := fun t =>
    okList_all (fun x => by simp [okProd, anyP, okPaper, hl]) t
  have he : ∀ t : List Evicted, (t.all fun v => v.data.wf) = true ↔ okList okEvicted t := fun t =>
    okList_all (fun x => by simp [okEvicted]) t
  have hb : ∀ t : List Batch, (t.all fun b => b.images.all fun x => x.2.wf) = true ↔ okList okBatch t := fun t =>
    okList_all (fun x => by simp only [okBatch, hm]) t
  have hf : ∀ t : Option (Table Memory), (t.all fun t => t.all fun x => x.2.wf) = true ↔ okOpt (okList (okProd anyP okMem)) t := fun t => by
    cases t <;> simp [okOpt, hm]
  unfold State.sound
  simp only [Bool.and_eq_true, beq_iff_eq, hl, hm, hc, hp, he, hb, hf]
  constructor
  · rintro ⟨⟨⟨⟨⟨⟨⟨⟨⟨⟨⟨⟨⟨a, b⟩, c⟩, d⟩, e⟩, f⟩, g⟩, i⟩, n⟩, o⟩, j⟩, k⟩, l⟩, m⟩
    exact ⟨a, b, c, d, e, f, g, i, n, o, j, k, l, m⟩
  · rintro ⟨a, b, c, d, e, f, g, i, n, o, j, k, l, m⟩
    exact ⟨⟨⟨⟨⟨⟨⟨⟨⟨⟨⟨⟨⟨a, b⟩, c⟩, d⟩, e⟩, f⟩, g⟩, i⟩, n⟩, o⟩, j⟩, k⟩, l⟩, m⟩

/-! ### Shapes of a definition -/

theorem Holds.any {α : Type} {x : α} : Holds anyP x := trivial
theorem Holds.of_eq {α : Type} {P : α → Prop} {a b : α} (e : a = b) (h : Holds P a) : Holds P b := e ▸ h
theorem Holds.ite {α : Type} {P : α → Prop} {c : Prop} [Decidable c] {a b : α} (ha : Holds P a) (hb : Holds P b) :
    Holds P (if c then a else b) := by split <;> assumption
theorem Holds.none {α : Type} {P : α → Prop} : Holds (okOpt P) (.none : Option α) := fun _ e => by cases e
theorem Holds.some {α : Type} {P : α → Prop} {x : α} (h : Holds P x) : Holds (okOpt P) (.some x) := fun _ e => by cases e; exact h
theorem Holds.un_some {α : Type} {P : α → Prop} {x : α} (h : Holds (okOpt P) (.some x)) : Holds P x := h x rfl
theorem Holds.error {ε α : Type} {P : α → Prop} {x : ε} : Holds (okOk P) (.error x) := fun _ e => by cases e
theorem Holds.ok {ε α : Type} {P : α → Prop} {x : α} (h : Holds P x) : Holds (okOk P) (.ok x : Except ε α) := fun _ e => by cases e; exact h
theorem Holds.un_ok {ε α : Type} {P : α → Prop} {x : α} (h : Holds (okOk P) (.ok x : Except ε α)) : Holds P x := h x rfl
theorem Holds.next {ε δ : Type} {P : State → Prop} {x : State} (h : Holds P x) : Holds (okNext P) (.next x : Host.Outcome State ε δ) :=
  fun _ e => by cases e; exact h
theorem Holds.un_next {ε δ : Type} {P : State → Prop} {x : State} (h : Holds (okNext P) (.next x : Host.Outcome State ε δ)) : Holds P x :=
  h x rfl
theorem Holds.fault {ε δ : Type} {P : State → Prop} {x : ε} : Holds (okNext P) (.fault x : Host.Outcome State ε δ) := fun _ e => by cases e
theorem Holds.done {α : Type} {P : α → Prop} {x : α} (h : Holds P x) : Holds (okDone P) (.done x) := fun _ e => by
  rcases e with e | ⟨_, e⟩ <;> cases e; exact h
theorem Holds.un_done {α : Type} {P : α → Prop} {x : α} (h : Holds (okDone P) (.done x)) : Holds P x := h x (.inl rfl)
theorem Holds.needsGrant {α : Type} {P : α → Prop} : Holds (okDone P) (.needsGrant : Tried α) := fun _ e => by
  rcases e with e | ⟨_, e⟩ <;> cases e
theorem Holds.turned {α : Type} {P : α → Prop} {x : α} {r : Report} (h : Holds P x) : Holds (okDone P) (.refused x r) := fun _ e => by
  rcases e with e | ⟨_, e⟩ <;> cases e; exact h
theorem Holds.un_turned {α : Type} {P : α → Prop} {x : α} {r : Report} (h : Holds (okDone P) (.refused x r)) : Holds P x :=
  h x (.inr ⟨r, rfl⟩)
theorem Holds.pair {α β : Type} {P : α → Prop} {Q : β → Prop} {a : α} {b : β} (h : Holds P a) (k : Holds Q b) : Holds (okProd P Q) (a, b) :=
  ⟨h, k⟩
theorem Holds.fst {α β : Type} {P : α → Prop} {x : α × β} (h : Holds (okProd P anyP) x) : Holds P x.1 := h.1
theorem Holds.snd {α β : Type} {Q : β → Prop} {x : α × β} (h : Holds (okProd anyP Q) x) : Holds Q x.2 := h.2
theorem Holds.left {α β : Type} {P : α → Prop} {Q : β → Prop} {x : α × β} (h : Holds (okProd P Q) x) : Holds P x.1 := h.1
theorem Holds.right {α β : Type} {P : α → Prop} {Q : β → Prop} {x : α × β} (h : Holds (okProd P Q) x) : Holds Q x.2 := h.2
theorem Holds.foldl {α β : Type} {P : β → Prop} {f : β → α → β} : ∀ {xs : List α} {b : β}, Holds P b →
    (∀ b x, Holds P b → Holds P (f b x)) → Holds P (xs.foldl f b)
  | [], _, h, _ => h
  | x :: xs, b, h, k => by rw [List.foldl_cons]; exact Holds.foldl (k b x h) k
theorem Holds.foldlList {α β : Type} {P : β → Prop} {Q : α → Prop} {f : β → α → β} : ∀ {xs : List α} {b : β}, Holds (okList Q) xs →
    Holds P b → (∀ b x, Holds P b → Holds Q x → Holds P (f b x)) → Holds P (xs.foldl f b)
  | [], _, _, h, _ => h
  | x :: xs, b, l, h, k => by
    rw [List.foldl_cons]
    exact Holds.foldlList (fun y m => l y (List.mem_cons_of_mem _ m)) (k b x h (l x (List.mem_cons_self ..))) k
theorem Holds.bindOpt {α β : Type} {P : α → Prop} {Q : β → Prop} {x : Option α} {f : α → Option β} (h : Holds (okOpt P) x)
    (k : ∀ a, Holds P a → Holds (okOpt Q) (f a)) : Holds (okOpt Q) (x.bind f) := by
  cases x with
  | none => exact Holds.none
  | some a => exact k a (Holds.un_some h)
theorem Holds.mapOpt {α β : Type} {P : α → Prop} {Q : β → Prop} {x : Option α} {f : α → β} (h : Holds (okOpt P) x)
    (k : ∀ a, Holds P a → Holds Q (f a)) : Holds (okOpt Q) (x.map f) := by
  cases x with
  | none => exact Holds.none
  | some a => exact Holds.some (k a (Holds.un_some h))
theorem Holds.getD {α : Type} {P : α → Prop} {x : Option α} {d : α} (h : Holds (okOpt P) x) (k : Holds P d) : Holds P (x.getD d) := by
  cases x with
  | none => exact k
  | some a => exact Holds.un_some h

def okAdm (x : Admission) : Prop := ∀ y, x = .settled y ∨ x = .held y → Sound y
def okLand (x : Landed) : Prop :=
  ∀ y, (x = .ok y ∨ x = .wait y ∨ (∃ e, x = .sent y e) ∨ (∃ ks, x = .part y ks) ∨ ∃ e ks, x = .sentPart y e ks) → Sound y
theorem Holds.settled {s : State} (h : Holds Sound s) : Holds okAdm (.settled s) := fun _ e => by
  rcases e with e | e <;> cases e; exact h
theorem Holds.held {s : State} (h : Holds Sound s) : Holds okAdm (.held s) := fun _ e => by
  rcases e with e | e <;> cases e; exact h
theorem Holds.un_settled {s : State} (h : Holds okAdm (.settled s)) : Holds Sound s := h s (.inl rfl)
theorem Holds.un_held {s : State} (h : Holds okAdm (.held s)) : Holds Sound s := h s (.inr rfl)
theorem Holds.landed {s : State} (h : Holds Sound s) : Holds okLand (.ok s) := fun _ e => by
  rcases e with e | e | ⟨_, e⟩ | ⟨_, e⟩ | ⟨_, _, e⟩ <;> cases e; exact h
theorem Holds.waits {s : State} (h : Holds Sound s) : Holds okLand (.wait s) := fun _ e => by
  rcases e with e | e | ⟨_, e⟩ | ⟨_, e⟩ | ⟨_, _, e⟩ <;> cases e; exact h
theorem Holds.landSent {s : State} {e : Nat} (h : Holds Sound s) : Holds okLand (.sent s e) := fun _ e => by
  rcases e with e | e | ⟨_, e⟩ | ⟨_, e⟩ | ⟨_, _, e⟩ <;> cases e; exact h
theorem Holds.landPart {s : State} {ks : List Nat} (h : Holds Sound s) : Holds okLand (.part s ks) := fun _ e => by
  rcases e with e | e | ⟨_, e⟩ | ⟨_, e⟩ | ⟨_, _, e⟩ <;> cases e; exact h
theorem Holds.landSentPart {s : State} {e : Nat} {ks : List Nat} (h : Holds Sound s) : Holds okLand (.sentPart s e ks) := fun _ e => by
  rcases e with e | e | ⟨_, e⟩ | ⟨_, e⟩ | ⟨_, _, e⟩ <;> cases e; exact h
theorem Holds.un_landed {s : State} (h : Holds okLand (.ok s)) : Holds Sound s := h s (.inl rfl)
theorem Holds.un_waits {s : State} (h : Holds okLand (.wait s)) : Holds Sound s := h s (.inr (.inl rfl))
theorem Holds.un_sent {s : State} {e : Nat} (h : Holds okLand (.sent s e)) : Holds Sound s := h s (.inr (.inr (.inl ⟨e, rfl⟩)))
theorem Holds.un_part {s : State} {ks : List Nat} (h : Holds okLand (.part s ks)) : Holds Sound s :=
  h s (.inr (.inr (.inr (.inl ⟨ks, rfl⟩))))
theorem Holds.un_sentPart {s : State} {e : Nat} {ks : List Nat} (h : Holds okLand (.sentPart s e ks)) : Holds Sound s :=
  h s (.inr (.inr (.inr (.inr ⟨e, ks, rfl⟩))))
theorem Holds.landGrant : Holds okLand .grant := fun _ e => by
  rcases e with e | e | ⟨_, e⟩ | ⟨_, e⟩ | ⟨_, _, e⟩ <;> cases e
theorem Holds.landFault {f : AccessFault} : Holds okLand (.fault f) := fun _ e => by
  rcases e with e | e | ⟨_, e⟩ | ⟨_, e⟩ | ⟨_, _, e⟩ <;> cases e
theorem Holds.landRefuse {r : Report} : Holds okLand (.refuse r) := fun _ e => by
  rcases e with e | e | ⟨_, e⟩ | ⟨_, e⟩ | ⟨_, _, e⟩ <;> cases e
theorem Holds.mapOk {ε α β : Type} {P : α → Prop} {Q : β → Prop} {x : Except ε α} {f : α → β} (h : Holds (okOk P) x)
    (k : ∀ a, Holds P a → Holds Q (f a)) : Holds (okOk Q) (x.map f) := by
  cases x with
  | error e => exact Holds.error
  | ok a => exact Holds.ok (k a (Holds.un_ok h))
theorem Holds.bindOk {ε α β : Type} {P : α → Prop} {Q : β → Prop} {x : Except ε α} {f : α → Except ε β} (h : Holds (okOk P) x)
    (k : ∀ a, Holds P a → Holds (okOk Q) (f a)) : Holds (okOk Q) (x.bind f) := by
  cases x with
  | error e => exact Holds.error
  | ok a => exact k a (Holds.un_ok h)
theorem Holds.foldlOk {ε α β : Type} {P : β → Prop} {f : β → α → Except ε β} : ∀ {xs : List α} {b : β}, Holds P b →
    (∀ b x, Holds P b → Holds (okOk P) (f b x)) → Holds (okOk P) (xs.foldlM f b)
  | [], _, h, _ => Holds.ok h
  | x :: xs, b, h, k => by
    rw [List.foldlM_cons]
    exact Holds.bindOk (k b x h) fun a ha => Holds.foldlOk ha k
theorem Holds.orElse {α : Type} {P : α → Prop} {x : Option α} {f : Unit → Option α} (h : Holds (okOpt P) x)
    (k : ∀ u, Holds (okOpt P) (f u)) : Holds (okOpt P) (x.orElse f) := by
  cases x with
  | none => exact k ()
  | some a => exact h

/-! ### Lists and tables -/


theorem Holds.nil {α : Type} {P : α → Prop} : Holds (okList P) [] := fun _ h => by cases h
theorem Holds.cons {α : Type} {P : α → Prop} {x : α} {xs : List α} (h : Holds P x) (k : Holds (okList P) xs) : Holds (okList P) (x :: xs) :=
  fun y m => by
    rcases List.mem_cons.1 m with rfl | m
    · exact h
    · exact k y m
theorem Holds.head {α : Type} {P : α → Prop} {x : α} {xs : List α} (h : Holds (okList P) (x :: xs)) : Holds P x :=
  h x (List.mem_cons_self ..)
theorem Holds.tail {α : Type} {P : α → Prop} {x : α} {xs : List α} (h : Holds (okList P) (x :: xs)) : Holds (okList P) xs :=
  fun y m => h y (List.mem_cons_of_mem _ m)
theorem Holds.append {α : Type} {P : α → Prop} {xs ys : List α} (h : Holds (okList P) xs) (k : Holds (okList P) ys) :
    Holds (okList P) (xs ++ ys) := fun y m => (List.mem_append.1 m).elim (h y) (k y)
theorem Holds.filter {α : Type} {P : α → Prop} {p : α → Bool} {xs : List α} (h : Holds (okList P) xs) : Holds (okList P) (xs.filter p) :=
  fun y m => h y (List.mem_of_mem_filter m)
theorem Holds.map {α β : Type} {P : α → Prop} {Q : β → Prop} {f : α → β} {xs : List α} (h : Holds (okList P) xs)
    (k : ∀ a, Holds P a → Holds Q (f a)) : Holds (okList Q) (xs.map f) := fun y m => by
  obtain ⟨a, ha, rfl⟩ := List.mem_map.1 m
  exact k a (h a ha)
theorem Holds.lmod {α : Type} {P : α → Prop} {f : α → α} (k : ∀ a, Holds P a → Holds P (f a)) : ∀ {xs : List α} {i : Nat},
    Holds (okList P) xs → Holds (okList P) (lmod xs i f)
  | [], _, h => h
  | x :: _, 0, h => Holds.cons (k x (h x (List.mem_cons_self ..))) fun y m => h y (List.mem_cons_of_mem _ m)
  | x :: _, i + 1, h => Holds.cons (h x (List.mem_cons_self ..)) (Holds.lmod k (i := i) fun y m => h y (List.mem_cons_of_mem _ m))
theorem Holds.lenLmod {α : Type} {n i : Nat} {xs : List α} {f : α → α} (h : Holds (okLen n) xs) : Holds (okLen n) (Machine.lmod xs i f) :=
  (lmod_length xs i f).trans h
theorem Holds.lenLset {α : Type} {n i : Nat} {xs : List α} {y : α} (h : Holds (okLen n) xs) : Holds (okLen n) (Machine.lset xs i y) :=
  (lset_length xs i y).trans h
theorem Holds.lenMap {α : Type} {n : Nat} {xs : List α} {f : α → α} (h : Holds (okLen n) xs) : Holds (okLen n) (xs.map f) :=
  (List.length_map f).trans h
theorem Holds.getDList {α : Type} {P : α → Prop} {xs : List α} {i : Nat} {d : α} (h : Holds (okList P) xs) (k : Holds P d) :
    Holds P (xs.getD i d) := by
  rw [List.getD_eq_getElem?_getD]
  cases e : xs[i]? with
  | none => exact k
  | some a => exact h a (List.mem_of_getElem? e)
theorem Holds.findList {α : Type} {P : α → Prop} {xs : List α} {p : α → Bool} (h : Holds (okList P) xs) : Holds (okOpt P) (xs.find? p) :=
  fun y e => h y (List.mem_of_find?_eq_some e)
theorem Holds.getList {α : Type} {P : α → Prop} {xs : List α} {i : Nat} (h : Holds (okList P) xs) : Holds (okOpt P) xs[i]? :=
  fun y e => h y (List.mem_of_getElem? e)
theorem Holds.filterOpt {α : Type} {P : α → Prop} {x : Option α} {p : α → Bool} (h : Holds (okOpt P) x) : Holds (okOpt P) (x.filter p) :=
  fun y e => h y (by rw [Option.filter_eq_some_iff] at e; exact e.1)
theorem Holds.anyOpt {α : Type} {x : Option α} : Holds (okOpt anyP) x := fun _ _ => trivial
theorem Holds.findSome {α β : Type} {P : α → Prop} {Q : β → Prop} {xs : List α} {f : α → Option β} (h : Holds (okList P) xs)
    (k : ∀ a, Holds P a → Holds (okOpt Q) (f a)) : Holds (okOpt Q) (xs.findSome? f) := fun y e => by
  obtain ⟨a, ha, e'⟩ := List.exists_of_findSome?_eq_some e
  exact k a (h a ha) y e'
theorem Holds.lenReplicate {α : Type} {n : Nat} {x : α} : Holds (okLen n) (List.replicate n x) := List.length_replicate
theorem Holds.replicate {α : Type} {P : α → Prop} {n : Nat} {x : α} (h : Holds P x) : Holds (okList P) (List.replicate n x) := fun y m => by
  rw [List.eq_of_mem_replicate m]; exact h
theorem Holds.tget {α : Type} {P : α → Prop} : ∀ {t : Table α} {k : Nat}, Holds (okList (okProd anyP P)) t → Holds (okOpt P) (tget t k)
  | [], _, _ => Holds.none
  | (j, v) :: t, k, h => by
    unfold Machine.tget; split
    · exact Holds.some (h _ (List.mem_cons_self ..)).2
    · exact Holds.tget fun y m => h y (List.mem_cons_of_mem _ m)
theorem Holds.tset {α : Type} {P : α → Prop} {x : α} (hx : Holds P x) : ∀ {t : Table α} {k : Nat},
    Holds (okList (okProd anyP P)) t → Holds (okList (okProd anyP P)) (tset t k x)
  | [], _, _ => Holds.cons ⟨trivial, hx⟩ Holds.nil
  | (j, v) :: t, k, h => by
    have h1 : Holds (okProd anyP P) (j, v) := h _ (List.mem_cons_self ..)
    have h2 : Holds (okList (okProd anyP P)) t := fun y m => h y (List.mem_cons_of_mem _ m)
    unfold Machine.tset; split
    · exact Holds.cons ⟨trivial, hx⟩ h
    · split
      · exact Holds.cons ⟨trivial, hx⟩ h2
      · exact Holds.cons h1 (Holds.tset hx h2)
theorem Holds.tdel {α : Type} {P : α → Prop} : ∀ {t : Table α} {k : Nat},
    Holds (okList (okProd anyP P)) t → Holds (okList (okProd anyP P)) (tdel t k)
  | [], _, h => h
  | (j, v) :: t, k, h => by
    have h1 : Holds (okProd anyP P) (j, v) := h _ (List.mem_cons_self ..)
    have h2 : Holds (okList (okProd anyP P)) t := fun y m => h y (List.mem_cons_of_mem _ m)
    unfold Machine.tdel; split
    · exact h2
    · exact Holds.cons h1 (Holds.tdel h2)
theorem Holds.tmod {α : Type} {P : α → Prop} {f : α → α} (k : ∀ a, Holds P a → Holds P (f a)) {t : Table α} {j : Nat}
    (h : Holds (okList (okProd anyP P)) t) : Holds (okList (okProd anyP P)) (tmod t j f) := by
  unfold Machine.tmod
  cases e : Machine.tget t j with
  | none => exact h
  | some a => exact Holds.tset (k a ((Holds.tget h) a e)) h

/-! ### Memories, leaves, cores -/

theorem Holds.nilMem : Holds okMem [] := rfl
theorem Holds.put {m : Memory} {a : Nat} {b : Byte} (h : Holds okMem m) : Holds okMem (m.put a b) := Memory.put_wf a b h
theorem Holds.write {m : Memory} {a : Nat} {bs : List Byte} (h : Holds okMem m) : Holds okMem (m.write a bs) := Memory.write_wf a bs h
theorem Holds.clear {m : Memory} {a b : Nat} (h : Holds okMem m) : Holds okMem (m.clear a b) := Memory.clear_wf a b h
theorem Holds.cells {m : Memory} {p : Host.Cell → Bool} (h : Holds okMem m) : Holds okMem (m.filter p) := Memory.filter_wf p h
theorem Holds.leafMem {l : Leaf} (h : Holds okLeaf l) : Holds okMem l.mem := h
theorem Holds.coreMem {x : Core} (h : Holds okCore x) : Holds okMem x.mem := h.1
theorem Holds.coreRegs {x : Core} (h : Holds okCore x) : Holds (okLen 64) x.regs := h.2
theorem Holds.paperLeaves {x : Endpaper} (h : Holds okPaper x) : Holds (okList (okProd anyP okLeaf)) x.leaves := h
theorem Holds.batchImages {x : Batch} (h : Holds okBatch x) : Holds (okList (okProd anyP okMem)) x.images := h
theorem Holds.evictedData {x : Evicted} (h : Holds okEvicted x) : Holds okMem x.data := h
theorem Holds.regSet {xs : List Word} {n i : Nat} {v : Word} (h : Holds (okLen n) xs) : Holds (okLen n) (xs.set i v) :=
  (List.length_set ..).trans h

/-! ### Records -/

theorem Holds.pair1 {α β : Type} {P : α → Prop} {Q : β → Prop} {a : α} {b : β} (h : Holds (okProd P Q) (a, b)) : Holds P a := h.1
theorem Holds.pair2 {α β : Type} {P : α → Prop} {Q : β → Prop} {a : α} {b : β} (h : Holds (okProd P Q) (a, b)) : Holds Q b := h.2
theorem Holds.cut {α : Type} {P : α → Prop} {x : α} {q : Prop} (h : Holds P x) (k : Holds P x → q) : q := k h
theorem Holds.refused {ε δ : Type} {P : State → Prop} {x : δ} : Holds (okNext P) (.refused x : Host.Outcome State ε δ) := fun _ e => by cases e
theorem Holds.paper {g : Gathering} {t : Table Leaf} (h : Holds (okList (okProd anyP okLeaf)) t) : Holds okPaper ⟨g, t⟩ := h
theorem Holds.evictedOf {ctx} {base} {len} {pages} {data} (h : Holds okMem data) : Holds okEvicted ⟨ctx, base, len, pages,
    data⟩ := h
theorem Holds.batchOf {claim} {slots} {images} {bad} {upto} (h : Holds (okList (okProd anyP okMem)) images) : Holds
    okBatch ⟨claim, slots, images, bad, upto⟩ := h
theorem Holds.leafOf {gath} {partw} {mem} {journal} {poison} {stale} {touched} {base} {strands} {last} {cycle} {routes}
    {inputs} {outputs} {sendq} {f0} {f1} {vp} {swap} {rfull} {vfull} {turn} {accFlags} {blocks}
    (h : Holds okMem mem) :
    Holds okLeaf ⟨gath, partw, mem, journal, poison, stale, touched, base, strands, last, cycle, routes, inputs, outputs,
    sendq, f0, f1, vp, swap, rfull, vfull, turn, accFlags, blocks⟩ := h
theorem Holds.coreOf {started} {halted} {strand} {regs} {mem} {handler} {resume} {irq} {serving} {news} {cause}
    (h : Holds okMem mem) (k : Holds (okLen 64) regs) :
    Holds okCore ⟨started, halted, strand, regs, mem, handler, resume, irq, serving, news, cause⟩ := ⟨h, k⟩

/-- A state that differs in what soundness does not speak of. -/
theorem Holds.keep {s : State} {tick} {agenda} {focus} {pkg} {nextId} {quires} {hubClocks} {gaths} {hbmBad} {tlb} {walks}
    {reqs} {misses} {rereads} {copies} {ports} {granted} {evicts} {savers} {massHeld} {stray} {insts} {pool} {reserve}
    {lastCtx} {parkedQ} {drops} {fwBase} {fwSize} {fwTail} {fwHead} {fwSeen} {pending} {badBatch} {senders} {receivers}
    {outbox} {linkDrops} {linkDown} {flitFix} {log} {logLost} {seqs} {opens} {irqs} {replies} {reads} {bar2} {bootSt}
    {booted} {measured} {attested} {mapped} {meshFix} {meshBad}
    (h : Holds Sound s) :
    Holds Sound ⟨tick, agenda, focus, pkg, nextId, s.leaves, quires, s.folios, hubClocks, gaths, s.papers, s.hbm, hbmBad,
    s.apertures, tlb, walks, reqs, misses, rereads, copies, ports, granted, evicts, savers, s.evicted, massHeld, stray,
    s.contexts, insts, pool, reserve, lastCtx, parkedQ, drops, fwBase, fwSize, fwTail, fwHead, fwSeen, s.shadow, s.config,
    pending, badBatch, s.failed, s.batches, senders, receivers, outbox, linkDrops, linkDown, flitFix, s.cores, log,
    logLost, seqs, opens, s.host, irqs, replies, reads, bar2, bootSt, booted, measured, attested, mapped, meshFix,
    meshBad⟩ :=
  ⟨h.hbm, h.host, h.leaves, h.cores, h.shadow, h.config, h.papers, h.evicted, h.batches, h.failed, h.nContexts, h.nCores,
    h.nFolios, h.nApertures⟩

/-- A state, from what soundness speaks of. -/
theorem Holds.stateOf {tick} {agenda} {focus} {pkg} {nextId} {leaves} {quires} {folios} {hubClocks} {gaths} {papers} {hbm}
    {hbmBad} {apertures} {tlb} {walks} {reqs} {misses} {rereads} {copies} {ports} {granted} {evicts} {savers} {evicted}
    {massHeld} {stray} {contexts} {insts} {pool} {reserve} {lastCtx} {parkedQ} {drops} {fwBase} {fwSize} {fwTail} {fwHead}
    {fwSeen} {shadow} {config} {pending} {badBatch} {failed} {batches} {senders} {receivers} {outbox} {linkDrops}
    {linkDown} {flitFix} {cores} {log} {logLost} {seqs} {opens} {host} {irqs} {replies} {reads} {bar2} {bootSt} {booted}
    {measured} {attested} {mapped} {meshFix} {meshBad}
    (h1 : Holds okMem hbm) (h2 : Holds okMem host) (h3 : Holds (okList (okProd anyP okLeaf)) leaves) (h4 : Holds (okList
    okCore) cores) (h5 : Holds (okList (okProd anyP okMem)) shadow) (h6 : Holds (okList (okProd anyP okMem)) config) (h7 :
    Holds (okList (okProd anyP okPaper)) papers) (h8 : Holds (okList okEvicted) evicted) (h9 : Holds (okList okBatch)
    batches) (h10 : Holds (okOpt (okList (okProd anyP okMem))) failed) (h11 : Holds (okLen 16) contexts) (h12 : Holds
    (okLen 16) cores) (h13 : Holds (okLen 8) folios) (h14 : Holds (okLen 64) apertures) :
    Holds Sound ⟨tick, agenda, focus, pkg, nextId, leaves, quires, folios, hubClocks, gaths, papers, hbm, hbmBad, apertures,
    tlb, walks, reqs, misses, rereads, copies, ports, granted, evicts, savers, evicted, massHeld, stray, contexts, insts,
    pool, reserve, lastCtx, parkedQ, drops, fwBase, fwSize, fwTail, fwHead, fwSeen, shadow, config, pending, badBatch,
    failed, batches, senders, receivers, outbox, linkDrops, linkDown, flitFix, cores, log, logLost, seqs, opens, host,
    irqs, replies, reads, bar2, bootSt, booted, measured, attested, mapped, meshFix, meshBad⟩ :=
  ⟨h1, h2, h3, h4, h5, h6, h7, h8, h9, h10, h11, h12, h13, h14⟩


/-! Updates of one part. -/

theorem Holds.setHbm {s : State} {tick} {agenda} {focus} {pkg} {nextId} {quires} {hubClocks} {gaths} {hbm} {hbmBad} {tlb}
    {walks} {reqs} {misses} {rereads} {copies} {ports} {granted} {evicts} {savers} {massHeld} {stray} {insts} {pool}
    {reserve} {lastCtx} {parkedQ} {drops} {fwBase} {fwSize} {fwTail} {fwHead} {fwSeen} {pending} {badBatch} {senders}
    {receivers} {outbox} {linkDrops} {linkDown} {flitFix} {log} {logLost} {seqs} {opens} {irqs} {replies} {reads} {bar2}
    {bootSt} {booted} {measured} {attested} {mapped} {meshFix} {meshBad}
    (h : Holds Sound s) (k : Holds okMem hbm) :
    Holds Sound ⟨tick, agenda, focus, pkg, nextId, s.leaves, quires, s.folios, hubClocks, gaths, s.papers, hbm, hbmBad,
    s.apertures, tlb, walks, reqs, misses, rereads, copies, ports, granted, evicts, savers, s.evicted, massHeld, stray,
    s.contexts, insts, pool, reserve, lastCtx, parkedQ, drops, fwBase, fwSize, fwTail, fwHead, fwSeen, s.shadow, s.config,
    pending, badBatch, s.failed, s.batches, senders, receivers, outbox, linkDrops, linkDown, flitFix, s.cores, log,
    logLost, seqs, opens, s.host, irqs, replies, reads, bar2, bootSt, booted, measured, attested, mapped, meshFix,
    meshBad⟩ :=
  ⟨k, h.host, h.leaves, h.cores, h.shadow, h.config, h.papers, h.evicted, h.batches, h.failed, h.nContexts, h.nCores,
    h.nFolios, h.nApertures⟩
theorem Holds.setHost {s : State} {tick} {agenda} {focus} {pkg} {nextId} {quires} {hubClocks} {gaths} {hbmBad} {tlb}
    {walks} {reqs} {misses} {rereads} {copies} {ports} {granted} {evicts} {savers} {massHeld} {stray} {insts} {pool}
    {reserve} {lastCtx} {parkedQ} {drops} {fwBase} {fwSize} {fwTail} {fwHead} {fwSeen} {pending} {badBatch} {senders}
    {receivers} {outbox} {linkDrops} {linkDown} {flitFix} {log} {logLost} {seqs} {opens} {host} {irqs} {replies} {reads}
    {bar2} {bootSt} {booted} {measured} {attested} {mapped} {meshFix} {meshBad}
    (h : Holds Sound s) (k : Holds okMem host) :
    Holds Sound ⟨tick, agenda, focus, pkg, nextId, s.leaves, quires, s.folios, hubClocks, gaths, s.papers, s.hbm, hbmBad,
    s.apertures, tlb, walks, reqs, misses, rereads, copies, ports, granted, evicts, savers, s.evicted, massHeld, stray,
    s.contexts, insts, pool, reserve, lastCtx, parkedQ, drops, fwBase, fwSize, fwTail, fwHead, fwSeen, s.shadow, s.config,
    pending, badBatch, s.failed, s.batches, senders, receivers, outbox, linkDrops, linkDown, flitFix, s.cores, log,
    logLost, seqs, opens, host, irqs, replies, reads, bar2, bootSt, booted, measured, attested, mapped, meshFix, meshBad⟩
    :=
  ⟨h.hbm, k, h.leaves, h.cores, h.shadow, h.config, h.papers, h.evicted, h.batches, h.failed, h.nContexts, h.nCores,
    h.nFolios, h.nApertures⟩
theorem Holds.setLeaves {s : State} {tick} {agenda} {focus} {pkg} {nextId} {leaves} {quires} {hubClocks} {gaths} {hbmBad}
    {tlb} {walks} {reqs} {misses} {rereads} {copies} {ports} {granted} {evicts} {savers} {massHeld} {stray} {insts} {pool}
    {reserve} {lastCtx} {parkedQ} {drops} {fwBase} {fwSize} {fwTail} {fwHead} {fwSeen} {pending} {badBatch} {senders}
    {receivers} {outbox} {linkDrops} {linkDown} {flitFix} {log} {logLost} {seqs} {opens} {irqs} {replies} {reads} {bar2}
    {bootSt} {booted} {measured} {attested} {mapped} {meshFix} {meshBad}
    (h : Holds Sound s) (k : Holds (okList (okProd anyP okLeaf)) leaves) :
    Holds Sound ⟨tick, agenda, focus, pkg, nextId, leaves, quires, s.folios, hubClocks, gaths, s.papers, s.hbm, hbmBad,
    s.apertures, tlb, walks, reqs, misses, rereads, copies, ports, granted, evicts, savers, s.evicted, massHeld, stray,
    s.contexts, insts, pool, reserve, lastCtx, parkedQ, drops, fwBase, fwSize, fwTail, fwHead, fwSeen, s.shadow, s.config,
    pending, badBatch, s.failed, s.batches, senders, receivers, outbox, linkDrops, linkDown, flitFix, s.cores, log,
    logLost, seqs, opens, s.host, irqs, replies, reads, bar2, bootSt, booted, measured, attested, mapped, meshFix,
    meshBad⟩ :=
  ⟨h.hbm, h.host, k, h.cores, h.shadow, h.config, h.papers, h.evicted, h.batches, h.failed, h.nContexts, h.nCores,
    h.nFolios, h.nApertures⟩
theorem Holds.setCores {s : State} {tick} {agenda} {focus} {pkg} {nextId} {quires} {hubClocks} {gaths} {hbmBad} {tlb}
    {walks} {reqs} {misses} {rereads} {copies} {ports} {granted} {evicts} {savers} {massHeld} {stray} {insts} {pool}
    {reserve} {lastCtx} {parkedQ} {drops} {fwBase} {fwSize} {fwTail} {fwHead} {fwSeen} {pending} {badBatch} {senders}
    {receivers} {outbox} {linkDrops} {linkDown} {flitFix} {cores} {log} {logLost} {seqs} {opens} {irqs} {replies} {reads}
    {bar2} {bootSt} {booted} {measured} {attested} {mapped} {meshFix} {meshBad}
    (h : Holds Sound s) (k : Holds (okList okCore) cores) (l : Holds (okLen 16) cores) :
    Holds Sound ⟨tick, agenda, focus, pkg, nextId, s.leaves, quires, s.folios, hubClocks, gaths, s.papers, s.hbm, hbmBad,
    s.apertures, tlb, walks, reqs, misses, rereads, copies, ports, granted, evicts, savers, s.evicted, massHeld, stray,
    s.contexts, insts, pool, reserve, lastCtx, parkedQ, drops, fwBase, fwSize, fwTail, fwHead, fwSeen, s.shadow, s.config,
    pending, badBatch, s.failed, s.batches, senders, receivers, outbox, linkDrops, linkDown, flitFix, cores, log, logLost,
    seqs, opens, s.host, irqs, replies, reads, bar2, bootSt, booted, measured, attested, mapped, meshFix, meshBad⟩ :=
  ⟨h.hbm, h.host, h.leaves, k, h.shadow, h.config, h.papers, h.evicted, h.batches, h.failed, h.nContexts, l, h.nFolios,
    h.nApertures⟩
theorem Holds.setShadow {s : State} {tick} {agenda} {focus} {pkg} {nextId} {quires} {hubClocks} {gaths} {hbmBad} {tlb}
    {walks} {reqs} {misses} {rereads} {copies} {ports} {granted} {evicts} {savers} {massHeld} {stray} {insts} {pool}
    {reserve} {lastCtx} {parkedQ} {drops} {fwBase} {fwSize} {fwTail} {fwHead} {fwSeen} {shadow} {pending} {badBatch}
    {senders} {receivers} {outbox} {linkDrops} {linkDown} {flitFix} {log} {logLost} {seqs} {opens} {irqs} {replies}
    {reads} {bar2} {bootSt} {booted} {measured} {attested} {mapped} {meshFix} {meshBad}
    (h : Holds Sound s) (k : Holds (okList (okProd anyP okMem)) shadow) :
    Holds Sound ⟨tick, agenda, focus, pkg, nextId, s.leaves, quires, s.folios, hubClocks, gaths, s.papers, s.hbm, hbmBad,
    s.apertures, tlb, walks, reqs, misses, rereads, copies, ports, granted, evicts, savers, s.evicted, massHeld, stray,
    s.contexts, insts, pool, reserve, lastCtx, parkedQ, drops, fwBase, fwSize, fwTail, fwHead, fwSeen, shadow, s.config,
    pending, badBatch, s.failed, s.batches, senders, receivers, outbox, linkDrops, linkDown, flitFix, s.cores, log,
    logLost, seqs, opens, s.host, irqs, replies, reads, bar2, bootSt, booted, measured, attested, mapped, meshFix,
    meshBad⟩ :=
  ⟨h.hbm, h.host, h.leaves, h.cores, k, h.config, h.papers, h.evicted, h.batches, h.failed, h.nContexts, h.nCores,
    h.nFolios, h.nApertures⟩
theorem Holds.setConfig {s : State} {tick} {agenda} {focus} {pkg} {nextId} {quires} {hubClocks} {gaths} {hbmBad} {tlb}
    {walks} {reqs} {misses} {rereads} {copies} {ports} {granted} {evicts} {savers} {massHeld} {stray} {insts} {pool}
    {reserve} {lastCtx} {parkedQ} {drops} {fwBase} {fwSize} {fwTail} {fwHead} {fwSeen} {config} {pending} {badBatch}
    {senders} {receivers} {outbox} {linkDrops} {linkDown} {flitFix} {log} {logLost} {seqs} {opens} {irqs} {replies}
    {reads} {bar2} {bootSt} {booted} {measured} {attested} {mapped} {meshFix} {meshBad}
    (h : Holds Sound s) (k : Holds (okList (okProd anyP okMem)) config) :
    Holds Sound ⟨tick, agenda, focus, pkg, nextId, s.leaves, quires, s.folios, hubClocks, gaths, s.papers, s.hbm, hbmBad,
    s.apertures, tlb, walks, reqs, misses, rereads, copies, ports, granted, evicts, savers, s.evicted, massHeld, stray,
    s.contexts, insts, pool, reserve, lastCtx, parkedQ, drops, fwBase, fwSize, fwTail, fwHead, fwSeen, s.shadow, config,
    pending, badBatch, s.failed, s.batches, senders, receivers, outbox, linkDrops, linkDown, flitFix, s.cores, log,
    logLost, seqs, opens, s.host, irqs, replies, reads, bar2, bootSt, booted, measured, attested, mapped, meshFix,
    meshBad⟩ :=
  ⟨h.hbm, h.host, h.leaves, h.cores, h.shadow, k, h.papers, h.evicted, h.batches, h.failed, h.nContexts, h.nCores,
    h.nFolios, h.nApertures⟩
theorem Holds.setPapers {s : State} {tick} {agenda} {focus} {pkg} {nextId} {quires} {hubClocks} {gaths} {papers} {hbmBad}
    {tlb} {walks} {reqs} {misses} {rereads} {copies} {ports} {granted} {evicts} {savers} {massHeld} {stray} {insts} {pool}
    {reserve} {lastCtx} {parkedQ} {drops} {fwBase} {fwSize} {fwTail} {fwHead} {fwSeen} {pending} {badBatch} {senders}
    {receivers} {outbox} {linkDrops} {linkDown} {flitFix} {log} {logLost} {seqs} {opens} {irqs} {replies} {reads} {bar2}
    {bootSt} {booted} {measured} {attested} {mapped} {meshFix} {meshBad}
    (h : Holds Sound s) (k : Holds (okList (okProd anyP okPaper)) papers) :
    Holds Sound ⟨tick, agenda, focus, pkg, nextId, s.leaves, quires, s.folios, hubClocks, gaths, papers, s.hbm, hbmBad,
    s.apertures, tlb, walks, reqs, misses, rereads, copies, ports, granted, evicts, savers, s.evicted, massHeld, stray,
    s.contexts, insts, pool, reserve, lastCtx, parkedQ, drops, fwBase, fwSize, fwTail, fwHead, fwSeen, s.shadow, s.config,
    pending, badBatch, s.failed, s.batches, senders, receivers, outbox, linkDrops, linkDown, flitFix, s.cores, log,
    logLost, seqs, opens, s.host, irqs, replies, reads, bar2, bootSt, booted, measured, attested, mapped, meshFix,
    meshBad⟩ :=
  ⟨h.hbm, h.host, h.leaves, h.cores, h.shadow, h.config, k, h.evicted, h.batches, h.failed, h.nContexts, h.nCores,
    h.nFolios, h.nApertures⟩
theorem Holds.setEvicted {s : State} {tick} {agenda} {focus} {pkg} {nextId} {quires} {hubClocks} {gaths} {hbmBad} {tlb}
    {walks} {reqs} {misses} {rereads} {copies} {ports} {granted} {evicts} {savers} {evicted} {massHeld} {stray} {insts}
    {pool} {reserve} {lastCtx} {parkedQ} {drops} {fwBase} {fwSize} {fwTail} {fwHead} {fwSeen} {pending} {badBatch}
    {senders} {receivers} {outbox} {linkDrops} {linkDown} {flitFix} {log} {logLost} {seqs} {opens} {irqs} {replies}
    {reads} {bar2} {bootSt} {booted} {measured} {attested} {mapped} {meshFix} {meshBad}
    (h : Holds Sound s) (k : Holds (okList okEvicted) evicted) :
    Holds Sound ⟨tick, agenda, focus, pkg, nextId, s.leaves, quires, s.folios, hubClocks, gaths, s.papers, s.hbm, hbmBad,
    s.apertures, tlb, walks, reqs, misses, rereads, copies, ports, granted, evicts, savers, evicted, massHeld, stray,
    s.contexts, insts, pool, reserve, lastCtx, parkedQ, drops, fwBase, fwSize, fwTail, fwHead, fwSeen, s.shadow, s.config,
    pending, badBatch, s.failed, s.batches, senders, receivers, outbox, linkDrops, linkDown, flitFix, s.cores, log,
    logLost, seqs, opens, s.host, irqs, replies, reads, bar2, bootSt, booted, measured, attested, mapped, meshFix,
    meshBad⟩ :=
  ⟨h.hbm, h.host, h.leaves, h.cores, h.shadow, h.config, h.papers, k, h.batches, h.failed, h.nContexts, h.nCores, h.nFolios,
    h.nApertures⟩
theorem Holds.setBatches {s : State} {tick} {agenda} {focus} {pkg} {nextId} {quires} {hubClocks} {gaths} {hbmBad} {tlb}
    {walks} {reqs} {misses} {rereads} {copies} {ports} {granted} {evicts} {savers} {massHeld} {stray} {insts} {pool}
    {reserve} {lastCtx} {parkedQ} {drops} {fwBase} {fwSize} {fwTail} {fwHead} {fwSeen} {pending} {badBatch} {batches}
    {senders} {receivers} {outbox} {linkDrops} {linkDown} {flitFix} {log} {logLost} {seqs} {opens} {irqs} {replies}
    {reads} {bar2} {bootSt} {booted} {measured} {attested} {mapped} {meshFix} {meshBad}
    (h : Holds Sound s) (k : Holds (okList okBatch) batches) :
    Holds Sound ⟨tick, agenda, focus, pkg, nextId, s.leaves, quires, s.folios, hubClocks, gaths, s.papers, s.hbm, hbmBad,
    s.apertures, tlb, walks, reqs, misses, rereads, copies, ports, granted, evicts, savers, s.evicted, massHeld, stray,
    s.contexts, insts, pool, reserve, lastCtx, parkedQ, drops, fwBase, fwSize, fwTail, fwHead, fwSeen, s.shadow, s.config,
    pending, badBatch, s.failed, batches, senders, receivers, outbox, linkDrops, linkDown, flitFix, s.cores, log, logLost,
    seqs, opens, s.host, irqs, replies, reads, bar2, bootSt, booted, measured, attested, mapped, meshFix, meshBad⟩ :=
  ⟨h.hbm, h.host, h.leaves, h.cores, h.shadow, h.config, h.papers, h.evicted, k, h.failed, h.nContexts, h.nCores, h.nFolios,
    h.nApertures⟩
theorem Holds.setFailed {s : State} {tick} {agenda} {focus} {pkg} {nextId} {quires} {hubClocks} {gaths} {hbmBad} {tlb}
    {walks} {reqs} {misses} {rereads} {copies} {ports} {granted} {evicts} {savers} {massHeld} {stray} {insts} {pool}
    {reserve} {lastCtx} {parkedQ} {drops} {fwBase} {fwSize} {fwTail} {fwHead} {fwSeen} {pending} {badBatch} {failed}
    {senders} {receivers} {outbox} {linkDrops} {linkDown} {flitFix} {log} {logLost} {seqs} {opens} {irqs} {replies}
    {reads} {bar2} {bootSt} {booted} {measured} {attested} {mapped} {meshFix} {meshBad}
    (h : Holds Sound s) (k : Holds (okOpt (okList (okProd anyP okMem))) failed) :
    Holds Sound ⟨tick, agenda, focus, pkg, nextId, s.leaves, quires, s.folios, hubClocks, gaths, s.papers, s.hbm, hbmBad,
    s.apertures, tlb, walks, reqs, misses, rereads, copies, ports, granted, evicts, savers, s.evicted, massHeld, stray,
    s.contexts, insts, pool, reserve, lastCtx, parkedQ, drops, fwBase, fwSize, fwTail, fwHead, fwSeen, s.shadow, s.config,
    pending, badBatch, failed, s.batches, senders, receivers, outbox, linkDrops, linkDown, flitFix, s.cores, log, logLost,
    seqs, opens, s.host, irqs, replies, reads, bar2, bootSt, booted, measured, attested, mapped, meshFix, meshBad⟩ :=
  ⟨h.hbm, h.host, h.leaves, h.cores, h.shadow, h.config, h.papers, h.evicted, h.batches, k, h.nContexts, h.nCores,
    h.nFolios, h.nApertures⟩
theorem Holds.setContexts {s : State} {tick} {agenda} {focus} {pkg} {nextId} {quires} {hubClocks} {gaths} {hbmBad} {tlb}
    {walks} {reqs} {misses} {rereads} {copies} {ports} {granted} {evicts} {savers} {massHeld} {stray} {contexts} {insts}
    {pool} {reserve} {lastCtx} {parkedQ} {drops} {fwBase} {fwSize} {fwTail} {fwHead} {fwSeen} {pending} {badBatch}
    {senders} {receivers} {outbox} {linkDrops} {linkDown} {flitFix} {log} {logLost} {seqs} {opens} {irqs} {replies}
    {reads} {bar2} {bootSt} {booted} {measured} {attested} {mapped} {meshFix} {meshBad}
    (h : Holds Sound s) (k : Holds (okLen 16) contexts) :
    Holds Sound ⟨tick, agenda, focus, pkg, nextId, s.leaves, quires, s.folios, hubClocks, gaths, s.papers, s.hbm, hbmBad,
    s.apertures, tlb, walks, reqs, misses, rereads, copies, ports, granted, evicts, savers, s.evicted, massHeld, stray,
    contexts, insts, pool, reserve, lastCtx, parkedQ, drops, fwBase, fwSize, fwTail, fwHead, fwSeen, s.shadow, s.config,
    pending, badBatch, s.failed, s.batches, senders, receivers, outbox, linkDrops, linkDown, flitFix, s.cores, log,
    logLost, seqs, opens, s.host, irqs, replies, reads, bar2, bootSt, booted, measured, attested, mapped, meshFix,
    meshBad⟩ :=
  ⟨h.hbm, h.host, h.leaves, h.cores, h.shadow, h.config, h.papers, h.evicted, h.batches, h.failed, k, h.nCores, h.nFolios,
    h.nApertures⟩
theorem Holds.setFolios {s : State} {tick} {agenda} {focus} {pkg} {nextId} {quires} {folios} {hubClocks} {gaths} {hbmBad}
    {tlb} {walks} {reqs} {misses} {rereads} {copies} {ports} {granted} {evicts} {savers} {massHeld} {stray} {insts} {pool}
    {reserve} {lastCtx} {parkedQ} {drops} {fwBase} {fwSize} {fwTail} {fwHead} {fwSeen} {pending} {badBatch} {senders}
    {receivers} {outbox} {linkDrops} {linkDown} {flitFix} {log} {logLost} {seqs} {opens} {irqs} {replies} {reads} {bar2}
    {bootSt} {booted} {measured} {attested} {mapped} {meshFix} {meshBad}
    (h : Holds Sound s) (k : Holds (okLen 8) folios) :
    Holds Sound ⟨tick, agenda, focus, pkg, nextId, s.leaves, quires, folios, hubClocks, gaths, s.papers, s.hbm, hbmBad,
    s.apertures, tlb, walks, reqs, misses, rereads, copies, ports, granted, evicts, savers, s.evicted, massHeld, stray,
    s.contexts, insts, pool, reserve, lastCtx, parkedQ, drops, fwBase, fwSize, fwTail, fwHead, fwSeen, s.shadow, s.config,
    pending, badBatch, s.failed, s.batches, senders, receivers, outbox, linkDrops, linkDown, flitFix, s.cores, log,
    logLost, seqs, opens, s.host, irqs, replies, reads, bar2, bootSt, booted, measured, attested, mapped, meshFix,
    meshBad⟩ :=
  ⟨h.hbm, h.host, h.leaves, h.cores, h.shadow, h.config, h.papers, h.evicted, h.batches, h.failed, h.nContexts, h.nCores, k,
    h.nApertures⟩
theorem Holds.setApertures {s : State} {tick} {agenda} {focus} {pkg} {nextId} {quires} {hubClocks} {gaths} {hbmBad}
    {apertures} {tlb} {walks} {reqs} {misses} {rereads} {copies} {ports} {granted} {evicts} {savers} {massHeld} {stray}
    {insts} {pool} {reserve} {lastCtx} {parkedQ} {drops} {fwBase} {fwSize} {fwTail} {fwHead} {fwSeen} {pending} {badBatch}
    {senders} {receivers} {outbox} {linkDrops} {linkDown} {flitFix} {log} {logLost} {seqs} {opens} {irqs} {replies}
    {reads} {bar2} {bootSt} {booted} {measured} {attested} {mapped} {meshFix} {meshBad}
    (h : Holds Sound s) (k : Holds (okLen 64) apertures) :
    Holds Sound ⟨tick, agenda, focus, pkg, nextId, s.leaves, quires, s.folios, hubClocks, gaths, s.papers, s.hbm, hbmBad,
    apertures, tlb, walks, reqs, misses, rereads, copies, ports, granted, evicts, savers, s.evicted, massHeld, stray,
    s.contexts, insts, pool, reserve, lastCtx, parkedQ, drops, fwBase, fwSize, fwTail, fwHead, fwSeen, s.shadow, s.config,
    pending, badBatch, s.failed, s.batches, senders, receivers, outbox, linkDrops, linkDown, flitFix, s.cores, log,
    logLost, seqs, opens, s.host, irqs, replies, reads, bar2, bootSt, booted, measured, attested, mapped, meshFix,
    meshBad⟩ :=
  ⟨h.hbm, h.host, h.leaves, h.cores, h.shadow, h.config, h.papers, h.evicted, h.batches, h.failed, h.nContexts, h.nCores,
    h.nFolios, k⟩

/-! Parts of a sound state. -/

theorem Holds.hbm {s : State} (h : Holds Sound s) : Holds okMem s.hbm := Sound.hbm h
theorem Holds.host {s : State} (h : Holds Sound s) : Holds okMem s.host := Sound.host h
theorem Holds.leaves {s : State} (h : Holds Sound s) : Holds (okList (okProd anyP okLeaf)) s.leaves := Sound.leaves h
theorem Holds.cores {s : State} (h : Holds Sound s) : Holds (okList okCore) s.cores := Sound.cores h
theorem Holds.shadow {s : State} (h : Holds Sound s) : Holds (okList (okProd anyP okMem)) s.shadow := Sound.shadow h
theorem Holds.config {s : State} (h : Holds Sound s) : Holds (okList (okProd anyP okMem)) s.config := Sound.config h
theorem Holds.papers {s : State} (h : Holds Sound s) : Holds (okList (okProd anyP okPaper)) s.papers := Sound.papers h
theorem Holds.evicted {s : State} (h : Holds Sound s) : Holds (okList okEvicted) s.evicted := Sound.evicted h
theorem Holds.batches {s : State} (h : Holds Sound s) : Holds (okList okBatch) s.batches := Sound.batches h
theorem Holds.failed {s : State} (h : Holds Sound s) : Holds (okOpt (okList (okProd anyP okMem))) s.failed := Sound.failed h
theorem Holds.nContexts {s : State} (h : Holds Sound s) : Holds (okLen 16) s.contexts := Sound.nContexts h
theorem Holds.nCores {s : State} (h : Holds Sound s) : Holds (okLen 16) s.cores := Sound.nCores h
theorem Holds.nFolios {s : State} (h : Holds Sound s) : Holds (okLen 8) s.folios := Sound.nFolios h
theorem Holds.nApertures {s : State} (h : Holds Sound s) : Holds (okLen 64) s.apertures := Sound.nApertures h

/-- The machine right after reset is sound. -/
theorem sound_State_reset : Holds Sound State.reset := (sound_iff _).1 (by decide)

end Sys2Proof.Machine
end

