-- ==== Sys2Proof/Laws/SoundOps.lean ====
section
/-!
SUPPORT. The functions of Layout, Ops, Translate, Operands, Flags, SysRegs, Access, Ports, Blocks, Mbar, Channels, Control, Images keep what `State.sound` says, one lemma per function.
-/

set_option Elab.async false

namespace Sys2Proof.Machine

/-! ### Layout -/

theorem sound_State_leaf {s : State} {n : ℕ} (hs : Holds Sound s) : Holds okLeaf (State.leaf s n) := by
  unfold State.leaf
  exact Holds.getD (Holds.tget (Holds.leaves hs)) (Holds.leafOf Holds.nilMem)
theorem sound_State_setLeaf {s : State} {n : ℕ} {l : Leaf} (hs : Holds Sound s) (hl : Holds okLeaf l) : Holds Sound
    (State.setLeaf s n l) := by
  unfold State.setLeaf
  exact Holds.setLeaves hs (Holds.tset hl (Holds.leaves hs))
theorem sound_State_modLeaf {s : State} {n : ℕ} {f : Leaf → Leaf} (hs : Holds Sound s) (hf : ∀ y0, Holds okLeaf y0 → Holds
    okLeaf (f y0)) : Holds Sound (State.modLeaf s n f) := by
  unfold State.modLeaf
  refine sound_State_setLeaf ?_ ?_
  · exact hs
  · apply hf
    exact sound_State_leaf hs
theorem sound_State_modContext {s : State} {k : ℕ} {f : Context → Context} (hs : Holds Sound s) : Holds Sound
    (State.modContext s k f) := by
  unfold State.modContext
  exact Holds.setContexts hs (Holds.lenLmod (Holds.nContexts hs))
theorem sound_State_modCore {s : State} {c : ℕ} {f : Core → Core} (hs : Holds Sound s) (hf : ∀ y0, Holds okCore y0 → Holds
    okCore (f y0)) : Holds Sound (State.modCore s c f) := by
  unfold State.modCore
  with_reducible refine Holds.setCores ?_ ?_ ?_
  · exact hs
  · refine Holds.lmod ?_ ?_
    · intro x1 h2
      apply hf
      exact h2
    · exact Holds.cores hs
  · exact Holds.lenLmod (Holds.nCores hs)
theorem sound_State_modStrand {s : State} {c : CoreId} {f : Strand → Strand} (hs : Holds Sound s) : Holds Sound
    (State.modStrand s c f) := by
  unfold State.modStrand
  split
  · exact sound_State_modLeaf hs (fun x4 h5 => Holds.leafOf (Holds.leafMem h5))
  · exact sound_State_modCore hs (fun x8 h9 => Holds.coreOf (Holds.coreMem h9) (Holds.coreRegs h9))
theorem sound_State_modBlock {s : State} {c : CoreId} {f : Block → Block} (hs : Holds Sound s) : Holds Sound (State.modBlock s
    c f) := by
  unfold State.modBlock
  exact sound_State_modStrand hs
theorem sound_State_modSlot {s : State} {c : CoreId} {i : ℕ} {f : Slot → Slot} (hs : Holds Sound s) : Holds Sound
    (State.modSlot s c i f) := by
  unfold State.modSlot
  exact sound_State_modBlock hs
theorem sound_State_core {s : State} {c : ℕ} (hs : Holds Sound s) : Holds okCore (State.core s c) := by
  unfold State.core
  exact Holds.getDList (Holds.cores hs) (Holds.coreOf Holds.nilMem Holds.lenReplicate)
theorem sound_State_fresh {s : State} (hs : Holds Sound s) : Holds (okProd anyP Sound) (State.fresh s) := by
  unfold State.fresh
  exact Holds.pair Holds.any (Holds.keep hs)
theorem sound_State_modGath {s : State} {g : ℕ} {f : Gathering → Gathering} (hs : Holds Sound s) : Holds Sound (State.modGath
    s g f) := by
  unfold State.modGath
  split
  · exact Holds.keep hs
  · exact hs
theorem sound_State_modQuire {s : State} {q : ℕ} {f : Quire → Quire} (hs : Holds Sound s) : Holds Sound (State.modQuire s q f)
    := by
  unfold State.modQuire
  exact Holds.keep hs

/-! ### Ops -/

theorem sound_raiseVector {s : State} {reg : ℕ} (hs : Holds Sound s) : Holds Sound (raiseVector s reg) := by
  unfold raiseVector
  exact Holds.ite (Holds.keep hs) hs
theorem sound_hostWrite {s : State} {a : ℕ} {bs : List Byte} (hs : Holds Sound s) : Holds Sound (hostWrite s a bs) := by
  unfold hostWrite
  exact Holds.setHost hs (Holds.write (Holds.host hs))
theorem sound_enterQueue {s : State} {k : ℕ} {r : Report} {seq : ℕ} {cycles : ℕ} (hs : Holds Sound s) : Holds Sound
    (enterQueue s k r seq cycles) := by
  unfold enterQueue
  extract_lets +onlyGivenNames v1 v2
  refine Holds.ite ?_ ?_
  · exact sound_State_modContext hs
  · refine Holds.ite ?_ ?_
    · exact sound_State_modContext hs
    · extract_lets +onlyGivenNames v3
      have h4 : Holds Sound v3 := sound_hostWrite hs
      clear_value v3
      extract_lets +onlyGivenNames v5
      have h6 : Holds Sound v5 := sound_State_modContext h4
      clear_value v5
      exact sound_raiseVector h6
theorem sound_tickClock {s : State} {f : ℕ} (hs : Holds Sound s) : Holds Sound (tickClock s f) := by
  unfold tickClock
  exact Holds.ite (Holds.setFolios hs (Holds.lenLmod (Holds.nFolios hs))) (Holds.keep hs)
theorem sound_enterLog {s : State} {num : ℕ} {r : Report} {seq : ℕ} {cycles : ℕ} (hs : Holds Sound s) : Holds Sound (enterLog
    s num r seq cycles) := by
  unfold enterLog
  split
  · exact sound_State_modCore (Holds.keep hs) (fun x4 h5 => Holds.coreOf (Holds.coreMem h5) (Holds.coreRegs h5))
  · exact Holds.keep hs
theorem sound_emitRecord {s : State} {r : Report} {logOnly : optParam Bool false} (hs : Holds Sound s) : Holds (okProd anyP
    Sound) (emitRecord s r logOnly) := by
  unfold emitRecord
  split
  rename_i x2 _ e4
  have h5 := Holds.of_eq (P := (okProd anyP Sound)) e4 (sound_State_fresh hs)
  have h6 := Holds.pair2 h5
  extract_lets +onlyGivenNames v7 v8 v9
  have h10 : Holds Sound v9 := sound_tickClock (Holds.keep h6)
  clear_value v9
  extract_lets +onlyGivenNames v11 v12 v13
  have h14 : Holds Sound v13 := sound_enterLog h10
  clear_value v13
  extract_lets +onlyGivenNames v15 v16
  have h17 : Holds Sound v16 := by
    subst v16
    split
    · exact Holds.ite (sound_enterQueue h14) h14
    · exact h14
  clear_value v16
  extract_lets +onlyGivenNames v23
  have h24 : Holds Sound v23 := Holds.ite (sound_State_modCore h17 (fun x25 h26 => Holds.coreOf (Holds.coreMem h26) (Holds.coreRegs h26))) h17
  clear_value v23
  exact Holds.pair Holds.any (Holds.ite (Holds.keep h24) h24)
theorem sound_abandon {s : State} {k : Fin 16} (hs : Holds Sound s) : Holds Sound (abandon s k) := by
  unfold abandon
  extract_lets +onlyGivenNames v1 v2
  exact Holds.setBatches hs (Holds.map (P := okBatch) (Holds.batches hs) (fun x3 h4 => Holds.batchOf (Holds.batchImages h4)))
theorem sound_takeOver {s : State} {c : ℕ} (hs : Holds Sound s) : Holds Sound (takeOver s c) := by
  unfold takeOver
  extract_lets +onlyGivenNames v1
  have h2 : Holds okCore v1 := sound_State_core hs
  clear_value v1
  split
  · extract_lets +onlyGivenNames v6
    have h7 : Holds Sound v6 := sound_State_modCore hs (fun x8 h9 => Holds.coreOf (Holds.coreMem h9) (Holds.coreRegs h9))
    clear_value v6
    extract_lets +onlyGivenNames v10
    have h11 : Holds Sound v10 := sound_State_modCore h7 (fun x12 h13 => Holds.coreOf (Holds.coreMem h13) (Holds.coreRegs h13))
    clear_value v10
    exact Holds.keep h11
  · exact hs
theorem sound_withoutLoader {c : ℕ} {slots : List (ℕ × ℕ)} {images : Table Memory} (himages : Holds (okList (okProd anyP
    okMem)) images) : Holds (okProd anyP (okList (okProd anyP okMem))) (withoutLoader c slots images) := by
  unfold withoutLoader
  extract_lets +onlyGivenNames v1
  exact Holds.pair Holds.any (Holds.filter himages)
theorem sound_dropLoader {s : State} {c : ℕ} (hs : Holds Sound s) : Holds Sound (dropLoader s c) := by
  unfold dropLoader
  extract_lets +onlyGivenNames v1
  have h2 : Holds (okProd anyP (okList (okProd anyP okMem))) v1 := sound_withoutLoader (Holds.shadow hs)
  clear_value v1
  refine Holds.stateOf ?_ ?_ ?_ ?_ ?_ ?_ ?_ ?_ ?_ ?_ ?_ ?_ ?_ ?_
  · exact Holds.hbm hs
  · exact Holds.host hs
  · exact Holds.leaves hs
  · exact Holds.cores hs
  · exact Holds.right (P := anyP) (Q := (okList (okProd anyP okMem))) h2
  · exact Holds.config hs
  · exact Holds.papers hs
  · exact Holds.evicted hs
  · refine Holds.map (P := okBatch) ?_ ?_
    · exact Holds.batches hs
    · intro x3 h4
      extract_lets +onlyGivenNames v5
      have h6 : Holds (okProd anyP (okList (okProd anyP okMem))) v5 := sound_withoutLoader (Holds.batchImages h4)
      clear_value v5
      exact Holds.batchOf (Holds.right (P := anyP) (Q := (okList (okProd anyP okMem))) h6)
  · exact Holds.failed hs
  · exact Holds.nContexts hs
  · exact Holds.nCores hs
  · exact Holds.nFolios hs
  · exact Holds.nApertures hs
theorem sound_writeRecord {s : State} {r : Report} (hs : Holds Sound s) : Holds Sound (writeRecord s r) := by
  unfold writeRecord
  exact Holds.right (P := anyP) (Q := Sound) (sound_emitRecord hs)
theorem sound_deviceReset {s : State} (hs : Holds Sound s) : Holds Sound (deviceReset s) := by
  unfold deviceReset
  extract_lets +onlyGivenNames v1
  have h2 : Holds Sound v1 := sound_State_reset
  clear_value v1
  refine Holds.stateOf ?_ ?_ ?_ ?_ ?_ ?_ ?_ ?_ ?_ ?_ ?_ ?_ ?_ ?_
  · exact Holds.hbm hs
  · exact Holds.host hs
  · exact Holds.leaves h2
  · exact Holds.cores h2
  · exact Holds.shadow h2
  · exact Holds.config h2
  · exact Holds.papers h2
  · exact Holds.evicted h2
  · exact Holds.batches h2
  · exact Holds.failed h2
  · exact Holds.lenMap (Holds.nContexts hs)
  · exact Holds.nCores h2
  · exact Holds.lenMap (Holds.nFolios hs)
  · exact Holds.nApertures h2
theorem sound_haltCore {s : State} {c : ℕ} (hs : Holds Sound s) : Holds Sound (haltCore s c) := by
  unfold haltCore
  extract_lets +onlyGivenNames v1
  have h2 : Holds Sound v1 := sound_takeOver (sound_State_modCore hs (fun x3 h4 => Holds.coreOf (Holds.coreMem h4) (Holds.coreRegs h4)))
  clear_value v1
  extract_lets +onlyGivenNames v5
  have h6 : Holds Sound v5 := sound_dropLoader h2
  clear_value v5
  extract_lets +onlyGivenNames v7
  have h8 : Holds Sound v7 := sound_writeRecord h6
  clear_value v7
  extract_lets +onlyGivenNames v9
  exact Holds.ite (sound_deviceReset h8) h8
theorem sound_raiseFault {s : State} {c : CoreId} {r : Report} {detail : ℕ} (hs : Holds Sound s) : Holds Sound (raiseFault s c
    r detail) := by
  unfold raiseFault
  split
  · refine Holds.ite ?_ ?_
    · exact hs
    · extract_lets +onlyGivenNames v4
      have h5 : Holds Sound v4 := sound_State_modStrand hs
      clear_value v4
      split
      · exact sound_State_modGath h5
      · exact h5
  · split
    rename_i e16
    have h17 := Holds.of_eq (P := (okProd anyP Sound)) e16 (sound_emitRecord hs)
    have h18 := Holds.pair2 h17
    extract_lets +onlyGivenNames v19
    have h20 : Holds Sound v19 := sound_abandon h18
    clear_value v19
    refine Holds.ite ?_ ?_
    · exact sound_haltCore h20
    · exact sound_State_modCore h20 (fun x21 h22 => Holds.coreOf (Holds.coreMem h22) (Holds.coreRegs h22))
theorem sound_blockFault {s : State} {c : CoreId} {slot : Option ℕ} {cls : ℕ} {detail : ℕ} (hs : Holds Sound s) : Holds Sound
    (blockFault s c slot cls detail) := by
  unfold blockFault
  split
  · exact sound_raiseFault hs
  · exact hs
theorem sound_arrive {s : State} {c : CoreId} {k : OpndKind} {j : ℕ} {v : Option Word} (hs : Holds Sound s) : Holds Sound
    (arrive s c k j v) := by
  unfold arrive
  extract_lets +onlyGivenNames v1
  split
  · exact sound_blockFault hs
  · exact sound_State_modSlot hs
  · exact sound_State_modSlot hs
theorem sound_produce {s : State} {c : CoreId} (hs : Holds Sound s) : Holds Sound (produce s c) := by
  unfold produce
  exact sound_State_modBlock hs
theorem sound_sendOver {s : State} {x : Claim} {p : ℕ} (hs : Holds Sound s) : Holds Sound (sendOver s x p) := by
  unfold sendOver
  exact Holds.ite (sound_State_modSlot hs) hs
theorem sound_enterPort {s : State} {n : ℕ} {p : ℕ} {t : Token} (hs : Holds Sound s) : Holds Sound (enterPort s n p t) := by
  unfold enterPort
  exact sound_State_modLeaf hs (fun x1 h2 => Holds.leafOf (Holds.leafMem h2))
theorem sound_enterFrom {s : State} {n : ℕ} {p : ℕ} {r : SendReq} {t : Token} (hs : Holds Sound s) : Holds Sound (enterFrom s
    n p r t) := by
  unfold enterFrom
  extract_lets +onlyGivenNames v1 v2 v3
  have h4 : Holds Sound v3 := sound_enterPort hs
  clear_value v3
  exact Holds.ite (sound_State_modLeaf h4 (fun x5 h6 => Holds.leafOf (Holds.leafMem h6))) h4
theorem sound_pumpPort {n : ℕ} {p : ℕ} {a2 : ℕ} {a3 : State} (ha3 : Holds Sound a3) : Holds Sound (pumpPort n p a2 a3) := by
  induction a2 generalizing n p a3 with
  | zero =>
    unfold pumpPort
    exact ha3
  | succ k ih =>
    unfold pumpPort
    split
    · rename_i x1 _ _
      split
      · refine Holds.ite ?_ ?_
        · extract_lets +onlyGivenNames v7
          have h8 : Holds Sound v7 := sound_enterFrom ha3
          clear_value v7
          extract_lets +onlyGivenNames v9
          have h10 : Holds Sound v9 := sound_State_modLeaf h8 (fun x11 h12 => Holds.leafOf (Holds.leafMem h12))
          clear_value v9
          extract_lets +onlyGivenNames v13
          have h14 : Holds Sound v13 := sound_sendOver h10
          clear_value v13
          apply ih
          exact Holds.ite (sound_produce h14) h14
        · exact ha3
      · exact ha3
    · exact ha3
theorem sound_pumpSends {s : State} {n : ℕ} (hs : Holds Sound s) : Holds Sound (pumpSends s n) := by
  unfold pumpSends
  exact Holds.foldl hs (fun s1 x2 h3 => sound_pumpPort h3)
theorem sound_pendWrite {s : State} {c : CoreId} {slot : ℕ} {g : ℕ} {v : Word} (hs : Holds Sound s) : Holds Sound (pendWrite s
    c slot g v) := by
  unfold pendWrite
  split
  · exact Holds.ite (sound_blockFault hs) (sound_State_modBlock hs)
  · exact hs
theorem sound_deliver {s : State} {c : CoreId} {slot : ℕ} {t : Target} {v : Option Word} (hs : Holds Sound s) : Holds Sound
    (deliver s c slot t v) := by
  unfold deliver
  split
  · exact hs
  · split
    · exact sound_pendWrite (sound_produce hs)
    · exact sound_produce hs
  · split
    · exact sound_pumpSends (sound_State_modLeaf hs (fun x14 h15 => Holds.leafOf (Holds.leafMem h15)))
    · exact sound_pumpSends (sound_produce (sound_sendOver hs))
    · exact sound_produce hs
  · exact sound_arrive hs
theorem sound_deliver2 {s : State} {c : CoreId} {slot : ℕ} {ta : Target} {tb : Target} {va : Option Word} {vb : Option Word}
    (hs : Holds Sound s) : Holds Sound (deliver2 s c slot ta tb va vb) := by
  unfold deliver2
  extract_lets +onlyGivenNames v1
  have h2 : Holds Sound v1 := sound_State_modSlot hs
  clear_value v1
  exact sound_deliver (sound_deliver h2)
theorem sound_leavePorts {s : State} {gone : PortUser → Bool} (hs : Holds Sound s) : Holds Sound (leavePorts s gone) := by
  unfold leavePorts
  exact Holds.keep hs
theorem sound_idleLeaf {l : Leaf} (hl : Holds okLeaf l) : Holds okLeaf (idleLeaf l) := by
  unfold idleLeaf
  exact Holds.leafOf (Holds.leafMem hl)
theorem sound_dropGath {s : State} {g : ℕ} (hs : Holds Sound s) : Holds Sound (dropGath s g) := by
  unfold dropGath
  split
  · exact hs
  · extract_lets +onlyGivenNames v6
    have h7 : Holds Sound v6 := Holds.foldl hs (fun s8 x9 h10 => sound_State_modLeaf h10 (fun x11 h12 => sound_idleLeaf h12))
    clear_value v6
    extract_lets +onlyGivenNames v13
    have h14 : Holds Sound v13 := Holds.foldl h7 (fun s15 x16 h17 => sound_State_modQuire h17)
    clear_value v13
    extract_lets +onlyGivenNames v18
    have h19 : Holds Sound v18 := Holds.keep h14
    clear_value v18
    exact sound_leavePorts h19
theorem sound_retireCore {s : State} {i : ℕ} {status : ℕ} (hs : Holds Sound s) : Holds Sound (retireCore s i status) := by
  unfold retireCore
  split
  · refine Holds.ite ?_ ?_
    · exact hs
    · extract_lets +onlyGivenNames v4 v5
      have h6 : Holds Sound v5 := Holds.keep hs
      clear_value v5
      exact Holds.ite (sound_State_modContext h6) h6
  · exact hs
theorem sound_endCore {s : State} {i : ℕ} {status : ℕ} (hs : Holds Sound s) : Holds Sound (endCore s i status) := by
  unfold endCore
  split
  · exact hs
  · refine Holds.ite ?_ ?_
    · exact hs
    · extract_lets +onlyGivenNames v6 v7 v8 v9
      have h10 : Holds Sound v9 := Holds.foldl hs (fun s11 x12 h13 => sound_dropGath h13)
      clear_value v9
      extract_lets +onlyGivenNames v14
      have h15 : Holds Sound v14 := Holds.setPapers h10 (Holds.filter (Holds.papers h10))
      clear_value v14
      extract_lets +onlyGivenNames v16
      have h17 : Holds Sound v16 := sound_State_modContext h15
      clear_value v16
      extract_lets +onlyGivenNames v18
      have h19 : Holds Sound v18 := sound_leavePorts h17
      clear_value v18
      exact Holds.ite h19 (sound_retireCore h19)
theorem sound_freeTagsFrom {s : State} {k : ℕ} {a2 : List ℕ} (hs : Holds Sound s) : Holds Sound (freeTagsFrom s k a2) := by
  induction a2 generalizing s k with
  | nil =>
    unfold freeTagsFrom
    exact sound_State_modContext hs
  | cons z zs ih =>
    unfold freeTagsFrom
    split
    · refine Holds.ite ?_ ?_
      · apply ih
        exact sound_leavePorts (Holds.keep hs)
      · exact sound_State_modContext hs
    · apply ih
      exact hs
theorem sound_freeTags {s : State} {k : ℕ} (hs : Holds Sound s) : Holds Sound (freeTags s k) := by
  unfold freeTags
  exact sound_freeTagsFrom hs
theorem sound_queueWrite {s : State} {e : ℕ} {w : SendWrite} (hs : Holds Sound s) : Holds Sound (queueWrite s e w) := by
  unfold queueWrite
  exact Holds.keep hs
theorem sound_sendAtom {s : State} {k : ℕ} {home : ℕ} {pa : ℕ} {op : ℕ} {arg : Word} {g : Option ℕ} {inst : ℕ} {req : optParam
    ℕ 0} (hs : Holds Sound s) : Holds (okOk Sound) (sendAtom s k home pa op arg g inst req) := by
  unfold sendAtom
  extract_lets +onlyGivenNames v1
  split
  · exact Holds.error
  · exact Holds.ite Holds.error (Holds.ok (sound_queueWrite hs))
theorem sound_wakeLeaf {line : ℕ} {l : Leaf} (hl : Holds okLeaf l) : Holds okLeaf (wakeLeaf line l) := by
  unfold wakeLeaf
  exact Holds.leafOf (Holds.leafMem hl)
theorem sound_wakeDevice {s : State} {line : ℕ} (hs : Holds Sound s) : Holds Sound (wakeDevice s line) := by
  unfold wakeDevice
  refine Holds.stateOf ?_ ?_ ?_ ?_ ?_ ?_ ?_ ?_ ?_ ?_ ?_ ?_ ?_ ?_
  · exact Holds.hbm hs
  · exact Holds.host hs
  · refine Holds.map (P := (okProd anyP okLeaf)) ?_ ?_
    · exact Holds.leaves hs
    · intro x1 h2
      exact Holds.pair Holds.any (sound_wakeLeaf (Holds.right (P := anyP) (Q := okLeaf) h2))
  · exact Holds.map (P := okCore) (Holds.cores hs) (fun x3 h4 => Holds.coreOf (Holds.coreMem h4) (Holds.coreRegs h4))
  · exact Holds.shadow hs
  · exact Holds.config hs
  · refine Holds.map (P := (okProd anyP okPaper)) ?_ ?_
    · exact Holds.papers hs
    · intro x5 h6
      refine Holds.pair ?_ ?_
      · exact Holds.any
      · extract_lets +onlyGivenNames v7
        have h8 : Holds okPaper v7 := Holds.right (P := anyP) (Q := okPaper) h6
        clear_value v7
        refine Holds.paper ?_
        refine Holds.map (P := (okProd anyP okLeaf)) ?_ ?_
        · exact Holds.paperLeaves (Holds.right (P := anyP) (Q := okPaper) h6)
        · intro x9 h10
          exact Holds.pair Holds.any (sound_wakeLeaf (Holds.right (P := anyP) (Q := okLeaf) h10))
  · exact Holds.evicted hs
  · exact Holds.batches hs
  · exact Holds.failed hs
  · exact Holds.nContexts hs
  · exact Holds.lenMap (Holds.nCores hs)
  · exact Holds.nFolios hs
  · exact Holds.nApertures hs
theorem sound_hbmWrite {s : State} {pa : ℕ} {bs : List Byte} (hs : Holds Sound s) : Holds Sound (hbmWrite s pa bs) := by
  unfold hbmWrite
  exact Holds.foldl (Holds.setHbm hs (Holds.write (Holds.hbm hs))) (fun s1 x2 h3 => sound_wakeDevice (Holds.keep h3))
theorem sound_noteStray {s : State} {pa : ℕ} (hs : Holds Sound s) : Holds Sound (noteStray s pa) := by
  unfold noteStray
  exact Holds.ite (Holds.keep hs) hs
theorem sound_hbmAtomic {s : State} {pa : ℕ} {op : ℕ} {arg : Word} (hs : Holds Sound s) : Holds (okProd anyP Sound) (hbmAtomic
    s pa op arg) := by
  unfold hbmAtomic
  extract_lets +onlyGivenNames v1
  have h2 : Holds Sound v1 := Holds.ite (sound_noteStray hs) hs
  clear_value v1
  extract_lets +onlyGivenNames v3 v4
  exact Holds.pair Holds.any (sound_hbmWrite h2)
theorem sound_sendMass {s : State} {k : ℕ} {g : Option ℕ} {inst : ℕ} {x : Staged} {v : Word32} (hs : Holds Sound s) : Holds
    (okOk Sound) (sendMass s k g inst x v) := by
  unfold sendMass
  exact Holds.ite (Holds.ok (Holds.right (P := anyP) (Q := Sound) (sound_hbmAtomic hs))) (sound_sendAtom hs)
theorem sound_endRecords {s : State} {i : ℕ} {r : Report} (hs : Holds Sound s) : Holds Sound (endRecords s i r) := by
  unfold endRecords
  extract_lets +onlyGivenNames v1
  have h2 : Holds Sound v1 := sound_writeRecord hs
  clear_value v1
  split
  · exact Holds.ite h2 (sound_writeRecord h2)
  · exact h2
theorem sound_settleMass {a0 : ℕ} {a1 : State} {a2 : ℕ} (ha1 : Holds Sound a1) : Holds Sound (settleMass a0 a1 a2) := by
  induction a0 generalizing a1 a2 with
  | zero =>
    unfold settleMass
    exact ha1
  | succ k ih =>
    unfold settleMass
    split
    · exact ha1
    · extract_lets +onlyGivenNames v6
      have h7 : Holds Sound v6 := Holds.keep ha1
      clear_value v6
      split
      · split
        · rename_i e13
          have h14 := Holds.of_eq (P := (okOk Sound)) e13 (sound_sendMass h7)
          have h15 := Holds.un_ok h14
          apply ih
          exact h15
        · rename_i e18
          have h19 := Holds.of_eq (P := (okOk Sound)) e18 (sound_sendMass h7)
          apply ih
          exact sound_endCore (sound_endRecords h7)
      · apply ih
        exact h7
theorem sound_afterRetire {s : State} {k : ℕ} (hs : Holds Sound s) : Holds Sound (afterRetire s k) := by
  unfold afterRetire
  exact sound_freeTags (sound_settleMass hs)
theorem sound_endInst {s : State} {i : ℕ} {status : ℕ} (hs : Holds Sound s) : Holds Sound (endInst s i status) := by
  unfold endInst
  split
  · exact sound_afterRetire (sound_endCore hs)
  · exact hs
theorem sound_endWith {s : State} {i : ℕ} {r : Report} (hs : Holds Sound s) : Holds Sound (endWith s i r) := by
  unfold endWith
  exact sound_endInst (sound_endRecords hs)
theorem sound_askGrant {s : State} {g : ℕ} (hs : Holds Sound s) : Holds Sound (askGrant s g) := by
  unfold askGrant
  exact sound_State_modGath hs
theorem sound_keepCode {s : State} {ap : Aperture} {i : ℕ} (hs : Holds Sound s) : Holds Sound (keepCode s ap i) := by
  unfold keepCode
  extract_lets +onlyGivenNames v1 v2 v3
  refine Holds.ite ?_ ?_
  · exact hs
  · extract_lets +onlyGivenNames v4
    exact Holds.keep hs
theorem sound_putCode {s : State} {ap : Aperture} {i : ℕ} {code : ℕ} (hs : Holds Sound s) : Holds Sound (putCode s ap i code)
    := by
  unfold putCode
  extract_lets +onlyGivenNames v1 v2
  exact sound_keepCode (Holds.setHbm hs (Holds.put (Holds.hbm hs)))
theorem sound_writeBlock {s : State} {ap : Aperture} {i : ℕ} {bs : List Byte} {bad : Bool} (hs : Holds Sound s) : Holds (okOk
    Sound) (writeBlock s ap i bs bad) := by
  unfold writeBlock
  extract_lets +onlyGivenNames v1
  split
  refine Holds.ite ?_ ?_
  · exact Holds.error
  · refine Holds.ite ?_ ?_
    · exact Holds.ok (sound_putCode hs)
    · refine Holds.ite ?_ ?_
      · exact Holds.error
      · extract_lets +onlyGivenNames v6
        have h7 : Holds Sound v6 := sound_putCode (sound_hbmWrite hs)
        clear_value v6
        exact Holds.ok (Holds.keep h7)
theorem sound_compressWrite {s : State} {ap : Aperture} {bad : Bool} {a3 : List (ℕ × ℕ × ℕ)} {a4 : List Byte} (hs : Holds
    Sound s) : Holds (okOk Sound) (compressWrite s ap bad a3 a4) := by
  induction a3 generalizing s ap bad a4 with
  | nil =>
    unfold compressWrite
    exact Holds.ok hs
  | cons z zs ih =>
    unfold compressWrite
    split
    · exact Holds.error
    · split
      · rename_i e9
        have h10 := Holds.of_eq (P := (okOk Sound)) e9 (sound_writeBlock hs)
        exact h10
      · rename_i e13
        have h14 := Holds.of_eq (P := (okOk Sound)) e13 (sound_writeBlock hs)
        have h15 := Holds.un_ok h14
        apply ih
        exact h15
theorem sound_spoil {s : State} {pa : ℕ} {n : ℕ} (hs : Holds Sound s) : Holds Sound (spoil s pa n) := by
  unfold spoil
  exact Holds.keep hs
theorem sound_hbmPut {s : State} {pa : ℕ} {bs : List Byte} {bad : Bool} (hs : Holds Sound s) : Holds Sound (hbmPut s pa bs
    bad) := by
  unfold hbmPut
  exact Holds.ite (sound_spoil (sound_hbmWrite hs)) (sound_hbmWrite hs)
theorem sound_apertureWrite {s : State} {ap : Aperture} {o : ℕ} {bs : List Byte} {bad : Bool} (hs : Holds Sound s) : Holds
    (okOk Sound) (apertureWrite s ap o bs bad) := by
  unfold apertureWrite
  refine Holds.ite ?_ ?_
  · exact sound_compressWrite hs
  · extract_lets +onlyGivenNames v1
    split
    · exact Holds.error
    · exact Holds.ok (Holds.foldl hs (fun s7 x8 h9 => sound_hbmPut h9))
theorem sound_sendPuts {s : State} {k : ℕ} {home : ℕ} {pa : ℕ} {bs : List Byte} {g : Option ℕ} {inst : ℕ} {req : optParam ℕ 0}
    (hs : Holds Sound s) : Holds (okOk Sound) (sendPuts s k home pa bs g inst req) := by
  unfold sendPuts
  extract_lets +onlyGivenNames v1
  split
  · exact Holds.error
  · exact Holds.ite Holds.error (Holds.ok (Holds.foldl hs (fun s7 x8 h9 => sound_queueWrite h9)))
theorem sound_applyMass {s : State} {k : ℕ} {g : Option ℕ} {inst : ℕ} {x : Staged} {v : Word32} (hs : Holds Sound s) : Holds
    (okOk Sound) (applyMass s k g inst x v) := by
  unfold applyMass
  exact Holds.ite (Holds.ok (Holds.keep hs)) (sound_sendMass hs)
theorem sound_publishItem {s : State} {k : ℕ} {g : Option ℕ} {inst : ℕ} {x : Staged} (hs : Holds Sound s) : Holds (okOk Sound)
    (publishItem s k g inst x) := by
  unfold publishItem
  split
  · exact Holds.ite (Holds.ok (sound_hbmPut hs)) (Holds.ite Holds.error (sound_sendPuts hs))
  · exact Holds.ite Holds.error (sound_applyMass hs)
  · split
    · rename_i e13
      have h14 := Holds.of_eq (P := (okOk Sound)) e13 (sound_apertureWrite hs)
      have h15 := Holds.un_ok h14
      exact Holds.ok h15
    · rename_i e18
      have h19 := Holds.of_eq (P := (okOk Sound)) e18 (sound_apertureWrite hs)
      exact Holds.error
    · rename_i e23
      have h24 := Holds.of_eq (P := (okOk Sound)) e23 (sound_apertureWrite hs)
      exact Holds.error
theorem sound_stageItem {s : State} {k : ℕ} {g : Option ℕ} {inst : ℕ} {x : Staged} (hs : Holds Sound s) : Holds (okDone Sound)
    (stageItem s k g inst x) := by
  unfold stageItem
  extract_lets +onlyGivenNames v1
  have h2 : Holds (okDone Sound) v1 := by
    subst v1
    split
    · rename_i e5
      have h6 := Holds.of_eq (P := (okOk Sound)) e5 (sound_publishItem hs)
      have h7 := Holds.un_ok h6
      exact Holds.done h7
    · rename_i e10
      have h11 := Holds.of_eq (P := (okOk Sound)) e10 (sound_publishItem hs)
      exact Holds.turned hs
  clear_value v1
  split
  · exact h2
  · exact Holds.ite h2 (Holds.ite Holds.needsGrant (Holds.done (sound_State_modGath hs)))
theorem sound_askGrantOf {s : State} {c : CoreId} (hs : Holds Sound s) : Holds Sound (askGrantOf s c) := by
  unfold askGrantOf
  split
  · exact sound_askGrant hs
  · exact hs
theorem sound_returnFrom {s : State} {c : ℕ} (hs : Holds Sound s) : Holds Sound (returnFrom s c) := by
  unfold returnFrom
  extract_lets +onlyGivenNames v1
  have h2 : Holds Sound v1 := sound_State_modCore hs (fun x3 h4 => Holds.coreOf (Holds.coreMem h4) (Holds.coreRegs h4))
  clear_value v1
  exact Holds.keep h2
theorem sound_storeParts {l : Leaf} {a1 : List (ℕ × ℕ)} {a2 : List Byte} (hl : Holds okLeaf l) : Holds okLeaf (storeParts l a1
    a2) := by
  induction a1 generalizing l a2 with
  | nil =>
    unfold storeParts
    exact hl
  | cons z zs ih =>
    unfold storeParts
    extract_lets +onlyGivenNames v1
    apply ih
    exact Holds.leafOf (Holds.write (Holds.leafMem hl))
theorem sound_logLines {l : Leaf} {qs : List ℕ} (hl : Holds okLeaf l) : Holds okLeaf (logLines l qs) := by
  unfold logLines
  exact Holds.leafOf (Holds.leafMem hl)
theorem sound_leafWrite {s : State} {n : ℕ} {la : ℕ} {bs : List Byte} (hs : Holds Sound s) : Holds (okOpt Sound) (leafWrite s
    n la bs) := by
  unfold leafWrite
  extract_lets +onlyGivenNames v1
  have h2 : Holds okLeaf v1 := sound_State_leaf hs
  clear_value v1
  extract_lets +onlyGivenNames v3 v4
  refine Holds.ite ?_ ?_
  · exact Holds.none
  · extract_lets +onlyGivenNames v5
    have h6 : Holds okLeaf v5 := sound_storeParts (sound_logLines h2)
    clear_value v5
    extract_lets +onlyGivenNames v7
    subst v7
    exact Holds.some (sound_State_setLeaf hs (Holds.leafOf (Holds.leafMem h6)))
theorem sound_padWrite {s : State} {c : CoreId} {a : ℕ} {bs : List Byte} (hs : Holds Sound s) : Holds (okOpt Sound) (padWrite
    s c a bs) := by
  unfold padWrite
  split
  · exact sound_leafWrite hs
  · exact Holds.some (sound_State_modCore hs (fun x6 h7 => Holds.coreOf (Holds.write (Holds.coreMem h7)) (Holds.coreRegs h7)))
theorem sound_spoilLines {l : Leaf} {la : ℕ} {len : ℕ} (hl : Holds okLeaf l) : Holds okLeaf (spoilLines l la len) := by
  unfold spoilLines
  exact Holds.leafOf (Holds.leafMem hl)
theorem sound_pushLeaf {la : ℕ} {bs : List Byte} {bad : Bool} {l : Leaf} (hl : Holds okLeaf l) : Holds okLeaf (pushLeaf la bs
    bad l) := by
  unfold pushLeaf
  extract_lets +onlyGivenNames v1 v2
  subst v2
  extract_lets +onlyGivenNames v3
  have h4 : Holds okLeaf v3 := sound_storeParts (Holds.leafOf (Holds.leafMem hl))
  clear_value v3
  extract_lets +onlyGivenNames v5
  have h6 : Holds okLeaf v5 := Holds.ite (sound_spoilLines h4) h4
  clear_value v5
  exact Holds.leafOf (Holds.leafMem h6)
theorem sound_openRecord {s : State} {r : Report} {h : ℕ → Holder} {g : Option ℕ} {rc : Option Recur} (hs : Holds Sound s) :
    Holds (okProd anyP Sound) (openRecord s r h g rc) := by
  unfold openRecord
  extract_lets +onlyGivenNames v1 v2
  split
  rename_i e6
  have h7 := Holds.of_eq (P := (okProd anyP Sound)) e6 (sound_emitRecord hs)
  have h8 := Holds.pair2 h7
  exact Holds.ite (Holds.pair Holds.any (Holds.keep h8)) h7
theorem sound_retireInst {s : State} {i : ℕ} {status : ℕ} (hs : Holds Sound s) : Holds Sound (retireInst s i status) := by
  unfold retireInst
  split
  · exact Holds.ite hs (sound_afterRetire (sound_retireCore hs))
  · exact hs
theorem sound_queuePacket {s : State} {p : Packet} (hs : Holds Sound s) : Holds Sound (queuePacket s p) := by
  unfold queuePacket
  exact Holds.ite hs (Holds.keep hs)
theorem sound_takeException {s : State} {c : ℕ} {resume : ℕ} {cls : ℕ} {detail : ℕ} (hs : Holds Sound s) : Holds Sound
    (takeException s c resume cls detail) := by
  unfold takeException
  refine sound_State_modCore ?_ ?_
  · exact hs
  · intro x1 h2
    exact Holds.coreOf (Holds.coreMem h2) (Holds.regSet (Holds.regSet (Holds.coreRegs h2)))
theorem sound_stageAll {s : State} {k : ℕ} {g : Option ℕ} {inst : ℕ} {a4 : List Staged} (hs : Holds Sound s) : Holds (okDone
    Sound) (stageAll s k g inst a4) := by
  induction a4 generalizing s k g inst with
  | nil =>
    unfold stageAll
    exact Holds.done hs
  | cons z zs ih =>
    unfold stageAll
    split
    · rename_i e3
      have h4 := Holds.of_eq (P := (okDone Sound)) e3 (sound_stageItem hs)
      have h5 := Holds.un_done h4
      apply ih
      exact h5
    · rename_i e7
      have h8 := Holds.of_eq (P := (okDone Sound)) e7 (sound_stageItem hs)
      exact h8
    · rename_i e12
      have h13 := Holds.of_eq (P := (okDone Sound)) e12 (sound_stageItem hs)
      have h14 := Holds.un_turned h13
      exact h13
theorem sound_askVoid {s : State} {g : ℕ} {save : Bool} (hs : Holds Sound s) : Holds Sound (askVoid s g save) := by
  unfold askVoid
  exact sound_State_modGath hs
theorem sound_publishList {s : State} {k : ℕ} {g : Option ℕ} {inst : ℕ} {a4 : List Staged} (hs : Holds Sound s) : Holds
    (okProd Sound anyP) (publishList s k g inst a4) := by
  induction a4 generalizing s k g inst with
  | nil =>
    unfold publishList
    exact Holds.pair hs Holds.any
  | cons z zs ih =>
    unfold publishList
    split
    · rename_i e3
      have h4 := Holds.of_eq (P := (okOk Sound)) e3 (sound_publishItem hs)
      have h5 := Holds.un_ok h4
      apply ih
      exact h5
    · rename_i e8
      have h9 := Holds.of_eq (P := (okOk Sound)) e8 (sound_publishItem hs)
      exact Holds.pair hs Holds.any
theorem sound_publishAll {s : State} {g : ℕ} (hs : Holds Sound s) : Holds (okProd Sound anyP) (publishAll s g) := by
  unfold publishAll
  split
  · exact sound_publishList (sound_State_modGath hs)
  · exact Holds.pair hs Holds.any
theorem sound_writeRegs {s : State} {c : CoreId} {a2 : List (ℕ × Word)} (hs : Holds Sound s) : Holds (okOpt Sound) (writeRegs
    s c a2) := by
  induction a2 generalizing s c with
  | nil =>
    unfold writeRegs
    exact Holds.some hs
  | cons z zs ih =>
    unfold writeRegs
    split
    · refine Holds.bindOpt (P := Sound) ?_ ?_
      · exact sound_leafWrite hs
      · intro s4 h5
        apply ih
        exact h5
    · apply ih
      exact sound_State_modCore hs (fun x8 h9 => Holds.coreOf (Holds.coreMem h9) (Holds.regSet (Holds.coreRegs h9)))
theorem sound_leafWriteBoth {s : State} {n : ℕ} {la : ℕ} {bs : List Byte} (hs : Holds Sound s) : Holds Sound (leafWriteBoth s
    n la bs) := by
  unfold leafWriteBoth
  exact sound_State_modLeaf hs (fun x1 h2 => sound_pushLeaf h2)

/-! ### Translate -/

theorem sound_dropMisses {s : State} {u : PortUser} (hs : Holds Sound s) : Holds Sound (dropMisses s u) := by
  unfold dropMisses
  exact Holds.keep hs
theorem sound_reportAccess {s : State} {c : CoreId} {slot : Option ℕ} {unit : ℕ} {acc : ℕ} {va : ℕ} {f : TFault} {again :
    optParam (Option ℕ) none} (hs : Holds Sound s) : Holds Sound (reportAccess s c slot unit acc va f again) := by
  unfold reportAccess
  extract_lets +onlyGivenNames v1
  split
  · exact sound_raiseFault hs
  · refine Holds.ite ?_ ?_
    · exact sound_raiseFault hs
    · split
      · extract_lets +onlyGivenNames v10
        exact sound_State_modGath hs
      · exact hs
theorem sound_queueMiss {s : State} {u : PortUser} {place : ℕ} {k : ℕ} {va : ℕ} (hs : Holds Sound s) : Holds Sound (queueMiss
    s u place k va) := by
  unfold queueMiss
  split
  · exact hs
  · split
    rename_i e9
    have h10 := Holds.of_eq (P := (okProd anyP Sound)) e9 (sound_State_fresh hs)
    have h11 := Holds.pair2 h10
    exact Holds.keep h11
theorem sound_setPteBit {s : State} {src : ℕ} {bit : ℕ} (hs : Holds Sound s) : Holds Sound (setPteBit s src bit) := by
  unfold setPteBit
  extract_lets +onlyGivenNames v1
  exact Holds.ite hs (Holds.setHbm hs (Holds.write (Holds.hbm hs)))
theorem sound_markDirty {s : State} {t : TlbEntry} (hs : Holds Sound s) : Holds Sound (markDirty s t) := by
  unfold markDirty
  refine Holds.ite ?_ ?_
  · exact hs
  · extract_lets +onlyGivenNames v1
    have h2 : Holds Sound v1 := sound_setPteBit hs
    clear_value v1
    exact Holds.keep h2
theorem sound_applyEntry {s : State} {t : TlbEntry} {va : ℕ} {acc : ℕ} {ap : Bool} (hs : Holds Sound s) : Holds (okOk (okProd
    anyP Sound)) (applyEntry s t va acc ap) := by
  unfold applyEntry
  split
  · exact Holds.error
  · extract_lets +onlyGivenNames v6 v7
    refine Holds.ite ?_ ?_
    · exact Holds.error
    · exact Holds.ite Holds.error (Holds.ite Holds.error (Holds.ok (Holds.pair Holds.any (Holds.ite (sound_markDirty hs) hs))))
theorem sound_engineTrans {s : State} {u : PortUser} {place : ℕ} {k : ℕ} {va : ℕ} {acc : ℕ} {ap : Bool} (hs : Holds Sound s) :
    Holds (okOk (okProd anyP Sound)) (engineTrans s u place k va acc ap) := by
  unfold engineTrans
  extract_lets +onlyGivenNames v1
  subst v1
  refine Holds.ite ?_ ?_
  · exact Holds.error
  · split
    · beta_reduce
      split
      · rename_i e11
        have h12 := Holds.of_eq (P := (okOk (okProd anyP Sound))) e11 (sound_applyEntry (Holds.keep hs))
        exact Holds.error
      · rename_i e15
        have h16 := Holds.of_eq (P := (okOk (okProd anyP Sound))) e15 (sound_applyEntry (Holds.keep hs))
        have h17 := Holds.un_ok h16
        exact Holds.ok h17
    · beta_reduce
      split
      · rename_i e25
        have h26 := Holds.of_eq (P := (okOk (okProd anyP Sound))) e25 (sound_applyEntry hs)
        exact Holds.error
      · rename_i e29
        have h30 := Holds.of_eq (P := (okOk (okProd anyP Sound))) e29 (sound_applyEntry hs)
        have h31 := Holds.un_ok h30
        exact Holds.ok h31
    · split
      · exact Holds.error
      · beta_reduce
        split
        · rename_i e49
          have h50 := Holds.of_eq (P := (okOk (okProd anyP Sound))) e49 (sound_applyEntry (Holds.keep hs))
          exact Holds.error
        · rename_i e53
          have h54 := Holds.of_eq (P := (okOk (okProd anyP Sound))) e53 (sound_applyEntry (Holds.keep hs))
          have h55 := Holds.un_ok h54
          exact Holds.ok h55
      · exact Holds.error
    · exact Holds.error
theorem sound_keepTlb {s : State} {t : TlbEntry} (hs : Holds Sound s) : Holds Sound (keepTlb s t) := by
  unfold keepTlb
  exact Holds.keep hs
theorem sound_enterLeaf {s : State} {place : ℕ} {k : ℕ} {va : ℕ} {pte : ℕ} {level : ℕ} {src : ℕ} (hs : Holds Sound s) : Holds
    (okProd anyP Sound) (enterLeaf s place k va pte level src) := by
  unfold enterLeaf
  extract_lets +onlyGivenNames v1 v2
  have h3 : Holds Sound v2 := sound_setPteBit hs
  clear_value v2
  exact Holds.pair Holds.any (Holds.ite h3 (sound_keepTlb h3))
theorem sound_keepWalk {s : State} {w : WalkEntry} (hs : Holds Sound s) : Holds Sound (keepWalk s w) := by
  unfold keepWalk
  exact Holds.ite hs (Holds.keep hs)

/-! ### Operands -/

theorem sound_payOwed {s : State} {x : Claim} {va : Option Word} {vb : Option Word} (hs : Holds Sound s) : Holds Sound
    (payOwed s x va vb) := by
  unfold payOwed
  extract_lets +onlyGivenNames v1
  exact Holds.ite (sound_deliver2 hs) hs
theorem sound_performed {s : State} {c : CoreId} {i : ℕ} (hs : Holds Sound s) : Holds Sound (performed s c i) := by
  unfold performed
  refine Holds.ite ?_ ?_
  · exact hs
  · extract_lets +onlyGivenNames v1
    have h2 : Holds Sound v1 := sound_State_modSlot hs
    clear_value v1
    exact Holds.ite (sound_produce h2) h2
theorem sound_skipSend {s : State} {c : CoreId} {i : ℕ} (hs : Holds Sound s) : Holds Sound (skipSend s c i) := by
  unfold skipSend
  split
  · exact sound_pumpSends (sound_sendOver hs)
  · exact hs
theorem sound_settleControl {s : State} {c : CoreId} {i : ℕ} {mv : Option Transfer} (hs : Holds Sound s) : Holds Sound
    (settleControl s c i mv) := by
  unfold settleControl
  extract_lets +onlyGivenNames v1
  have h2 : Holds Sound v1 := sound_State_modBlock (sound_produce hs)
  clear_value v1
  split
  · exact Holds.ite (sound_blockFault h2) (Holds.ite (sound_blockFault h2) h2)
  · exact h2
theorem sound_nullify {f : Form} {s : State} {c : CoreId} {i : ℕ} (hs : Holds Sound s) : Holds Sound (nullify f s c i) := by
  unfold nullify
  extract_lets +onlyGivenNames v1
  have h2 : Holds Sound v1 := by
    subst v1
    split
    · exact hs
    · exact sound_produce (sound_skipSend hs)
    · exact sound_settleControl hs
  clear_value v1
  exact sound_deliver2 h2
theorem sound_perform {f : Form} {s : State} {act : State → CoreId → ℕ → Word → Word → Word → State} (hs : Holds Sound s)
    (hact : ∀ y0, Holds Sound y0 → ∀ y1, ∀ y2, ∀ y3, ∀ y4, ∀ y5, Holds Sound (act y0 y1 y2 y3 y4 y5)) : Holds (okNext Sound)
    (perform f s act) := by
  unfold perform
  extract_lets +onlyGivenNames v1 v2 v3
  refine Holds.ite ?_ ?_
  · exact Holds.next hs
  · refine Holds.ite ?_ ?_
    · exact Holds.next (sound_nullify hs)
    · refine Holds.next ?_
      apply hact
      exact hs
theorem sound_limitVa {s : State} {c : CoreId} {i : ℕ} {va : ℕ} {align : ℕ} {detail : ℕ} {k : State → State} (hs : Holds Sound
    s) (hk : ∀ y0, Holds Sound y0 → Holds Sound (k y0)) : Holds Sound (limitVa s c i va align detail k) := by
  unfold limitVa
  refine Holds.ite ?_ ?_
  · exact sound_blockFault hs
  · refine Holds.ite ?_ ?_
    · exact sound_blockFault hs
    · apply hk
      exact hs
theorem sound_stay {s : State} {c : CoreId} {i : ℕ} (hs : Holds Sound s) : Holds Sound (stay s c i) := by
  unfold stay
  exact sound_State_modSlot hs
theorem sound_limit {s : State} {c : CoreId} {i : ℕ} {ok : Bool} {detail : ℕ} {k : State → State} (hs : Holds Sound s) (hk : ∀
    y0, Holds Sound y0 → Holds Sound (k y0)) : Holds Sound (limit s c i ok detail k) := by
  unfold limit
  refine Holds.ite ?_ ?_
  · apply hk
    exact hs
  · exact sound_blockFault hs
theorem sound_limitLa {s : State} {c : CoreId} {i : ℕ} {la : ℕ} {align : ℕ} {detail : ℕ} {k : State → State} (hs : Holds Sound
    s) (hk : ∀ y0, Holds Sound y0 → Holds Sound (k y0)) : Holds Sound (limitLa s c i la align detail k) := by
  unfold limitLa
  refine Holds.ite ?_ ?_
  · exact sound_blockFault hs
  · refine Holds.ite ?_ ?_
    · exact sound_blockFault hs
    · apply hk
      exact hs
theorem sound_stayGrant {s : State} {c : CoreId} {i : ℕ} (hs : Holds Sound s) : Holds Sound (stayGrant s c i) := by
  unfold stayGrant
  exact sound_askGrantOf (sound_stay hs)
theorem sound_complete {f : Form} {s : State} {c : CoreId} {i : ℕ} {va : Option Word} {vb : Option Word} (hs : Holds Sound s)
    : Holds Sound (complete f s c i va vb) := by
  unfold complete
  exact sound_deliver2 (sound_performed hs)
theorem sound_valueOp {f : Form} {s : State} {v : Word → Word → Word → Word} (hs : Holds Sound s) : Holds (okNext Sound)
    (valueOp f s v) := by
  unfold valueOp
  exact sound_perform hs (fun s1 h2 x3 x4 x5 x6 x7 => sound_deliver2 h2)
theorem sound_owe {s : State} {c : CoreId} {i : ℕ} (hs : Holds Sound s) : Holds Sound (owe s c i) := by
  unfold owe
  exact sound_State_modSlot (sound_performed hs)

/-! ### Flags -/

theorem sound_raiseFlags {s : State} {c : CoreId} {f : Flags6} (hs : Holds Sound s) : Holds Sound (raiseFlags s c f) := by
  unfold raiseFlags
  exact sound_State_modBlock hs

/-! ### SysRegs -/

theorem sound_sysWrite {s : State} {c : CoreId} {x : ℕ} {v : Word} (hs : Holds Sound s) : Holds Sound (sysWrite s c x v) := by
  unfold sysWrite
  split
  · exact sound_State_modStrand hs
  · exact sound_State_modStrand hs
  · exact Holds.keep hs
  · exact Holds.keep hs
  · exact Holds.keep hs
  · exact hs

/-! ### Access -/

theorem sound_drainReqs {c : CoreId} {a1 : ℕ} {a2 : State} (ha2 : Holds Sound a2) : Holds Sound (drainReqs c a1 a2) := by
  induction a1 generalizing c a2 with
  | zero =>
    unfold drainReqs
    exact ha2
  | succ k ih =>
    unfold drainReqs
    split
    · split
      · apply ih
        exact sound_payOwed (Holds.keep ha2)
      · exact ha2
    · exact ha2
theorem sound_performedBy {s : State} {x : Claim} (hs : Holds Sound s) : Holds Sound (performedBy s x) := by
  unfold performedBy
  exact Holds.ite (sound_performed hs) hs
theorem sound_answer {s : State} {id : ℕ} {v : Option Word} (hs : Holds Sound s) : Holds Sound (answer s id v) := by
  unfold answer
  split
  · extract_lets +onlyGivenNames v4
    have h5 : Holds Sound v4 := sound_performedBy (Holds.keep hs)
    clear_value v4
    exact sound_drainReqs h5
  · exact hs
theorem sound_setReq {s : State} {id : ℕ} {r : Request} (hs : Holds Sound s) : Holds Sound (setReq s id r) := by
  unfold setReq
  exact Holds.keep hs
theorem sound_dropReq {s : State} {id : ℕ} (hs : Holds Sound s) : Holds Sound (dropReq s id) := by
  unfold dropReq
  exact Holds.keep hs
theorem sound_request {s : State} {c : CoreId} {i : ℕ} {va : ℕ} {n : ℕ} {write : Bool} {act : Bool} {acq : Bool} {rel : Bool}
    {scope : Scope} {op : ReqOp} (hs : Holds Sound s) : Holds Sound (request s c i va n write act acq rel scope op) := by
  unfold request
  refine sound_limitVa ?_ ?_
  · exact hs
  · intro s1 h2
    refine Holds.ite ?_ ?_
    · exact sound_stay h2
    · split
      rename_i e6
      have h7 := Holds.of_eq (P := (okProd anyP Sound)) e6 (sound_State_fresh h2)
      have h8 := Holds.pair2 h7
      extract_lets +onlyGivenNames v9
      exact sound_State_modSlot (Holds.keep h8)
theorem sound_padAccess {s : State} {c : CoreId} {i : ℕ} {la : ℕ} {n : ℕ} {acc : ℕ} {rel : Bool} {act : Bool} {k : State →
    State} (hs : Holds Sound s) (hk : ∀ y0, Holds Sound y0 → Holds Sound (k y0)) : Holds Sound (padAccess s c i la n acc rel
    act k) := by
  unfold padAccess
  extract_lets +onlyGivenNames v1
  have h2 : Holds okLeaf v1 := sound_State_leaf hs
  clear_value v1
  split
  · exact sound_raiseFault hs
  · refine Holds.ite ?_ ?_
    · exact sound_raiseFault hs
    · refine Holds.ite ?_ ?_
      · exact sound_stay hs
      · refine Holds.ite ?_ ?_
        · exact sound_stayGrant hs
        · apply hk
          exact hs
theorem sound_leafAccess {s : State} {c : CoreId} {i : ℕ} {la : ℕ} {n : ℕ} {acc : ℕ} {rel : Bool} {act : Bool} {k : State →
    State} (hs : Holds Sound s) (hk : ∀ y0, Holds Sound y0 → Holds Sound (k y0)) : Holds Sound (leafAccess s c i la n acc rel
    act k) := by
  unfold leafAccess
  refine sound_limitLa ?_ ?_
  · exact hs
  · intro s1 h2
    refine sound_padAccess ?_ ?_
    · exact h2
    · intro s3 h4
      apply hk
      exact h4
theorem sound_padStore {s : State} {c : CoreId} {i : ℕ} {a : ℕ} {bs : List Byte} {k : State → State} (hs : Holds Sound s) (hk
    : ∀ y0, Holds Sound y0 → Holds Sound (k y0)) : Holds Sound (padStore s c i a bs k) := by
  unfold padStore
  split
  · rename_i e3
    have h4 := Holds.of_eq (P := (okOpt Sound)) e3 (sound_padWrite hs)
    have h5 := Holds.un_some h4
    apply hk
    exact h5
  · rename_i e7
    have h8 := Holds.of_eq (P := (okOpt Sound)) e7 (sound_padWrite hs)
    exact sound_stayGrant hs

/-! ### Ports -/

theorem sound_idle {s : State} (hs : Holds Sound s) : Holds (okNext Sound) (idle s) := by
  unfold idle
  exact Holds.next hs
theorem sound_setTurns {s : State} {u : PortUser} {n : ℕ} (hs : Holds Sound s) : Holds Sound (setTurns s u n) := by
  unfold setTurns
  extract_lets +onlyGivenNames v1
  exact Holds.keep hs
theorem sound_endAccess {s : State} {u : PortUser} (hs : Holds Sound s) : Holds Sound (endAccess s u) := by
  unfold endAccess
  exact sound_setTurns (sound_dropMisses hs)
theorem sound_portCharge {s : State} {p : ℕ} {k : ℕ} {grown : ℕ} {n : ℕ} {contended : Bool} {left : List ℕ} (hs : Holds Sound
    s) : Holds Sound (portCharge s p k grown n contended left) := by
  unfold portCharge
  extract_lets +onlyGivenNames v1
  exact Holds.keep hs
theorem sound_turnAt {s : State} {u : PortUser} {k : ℕ} {p : ℕ} {n : ℕ} {more : Bool} (hs : Holds Sound s) : Holds (okOpt
    Sound) (turnAt s u k p n more) := by
  unfold turnAt
  extract_lets +onlyGivenNames v1
  have h2 : Holds Sound v1 := Holds.keep hs
  clear_value v1
  extract_lets +onlyGivenNames v3
  split
  extract_lets +onlyGivenNames v8
  exact Holds.ite (Holds.some (sound_portCharge h2)) Holds.none
theorem sound_portWait {s : State} {u : PortUser} {k : ℕ} {pa : ℕ} (hs : Holds Sound s) : Holds Sound (portWait s u k pa) := by
  unfold portWait
  extract_lets +onlyGivenNames v1 v2
  exact Holds.keep hs
theorem sound_await {s : State} {u : PortUser} {place : ℕ} {k : ℕ} {va : ℕ} {a5 : Await} (hs : Holds Sound s) : Holds Sound
    (await s u place k va a5) := by
  unfold await
  split
  · exact sound_queueMiss hs
  · split
    · rename_i e8
      have h9 := Holds.of_eq (P := (okOpt Sound)) e8 (sound_turnAt hs)
      have h10 := Holds.un_some h9
      exact sound_setTurns h10
    · rename_i e12
      have h13 := Holds.of_eq (P := (okOpt Sound)) e12 (sound_turnAt hs)
      exact sound_portWait hs
theorem sound_allTurns {s : State} {u : PortUser} {acc : ℕ} {va : ℕ} {parts : List (ℕ × ℕ)} (hs : Holds Sound s) : Holds (okOk
    Sound) (allTurns s u acc va parts) := by
  unfold allTurns
  extract_lets +onlyGivenNames v1
  split
  · exact Holds.ok (sound_setTurns hs)
  · exact Holds.error
theorem sound_portTurn {s : State} {u : PortUser} {k : ℕ} {pa : ℕ} {n : ℕ} (hs : Holds Sound s) : Holds (okOpt Sound)
    (portTurn s u k pa n) := by
  unfold portTurn
  exact sound_turnAt hs
theorem sound_acceptReq {s : State} {id : ℕ} {r : Request} (hs : Holds Sound s) : Holds Sound (acceptReq s id r) := by
  unfold acceptReq
  exact sound_performedBy (sound_setReq hs)
theorem sound_portFault {s : State} {id : ℕ} {r : Request} {p : Report} (hs : Holds Sound s) : Holds Sound (portFault s id r
    p) := by
  unfold portFault
  exact sound_raiseFault (sound_dropReq hs)
theorem sound_serveStore {s : State} {id : ℕ} {r : Request} {data : List Byte} (hs : Holds Sound s) : Holds Sound (serveStore
    s id r data) := by
  unfold serveStore
  extract_lets +onlyGivenNames v1
  refine Holds.ite ?_ ?_
  · split
    · rename_i e4
      have h5 := Holds.of_eq (P := (okOk Sound)) e4 (sound_sendPuts hs)
      have h6 := Holds.un_ok h5
      exact sound_acceptReq h6
    · rename_i e9
      have h10 := Holds.of_eq (P := (okOk Sound)) e9 (sound_sendPuts hs)
      exact sound_portFault hs
  · split
    · rename_i e13
      have h14 := Holds.of_eq (P := (okDone Sound)) e13 (sound_stageItem hs)
      have h15 := Holds.un_done h14
      exact sound_answer h15
    · rename_i e17
      have h18 := Holds.of_eq (P := (okDone Sound)) e17 (sound_stageItem hs)
      exact sound_askGrantOf (sound_setReq hs)
    · rename_i e22
      have h23 := Holds.of_eq (P := (okDone Sound)) e22 (sound_stageItem hs)
      have h24 := Holds.un_turned h23
      exact sound_portFault h24
theorem sound_portGate {s : State} {u : PortUser} {k : ℕ} {pa : ℕ} {n : ℕ} (hs : Holds Sound s) : Holds (okProd Sound anyP)
    (portGate s u k pa n) := by
  unfold portGate
  split
  · rename_i e3
    have h4 := Holds.of_eq (P := (okOpt Sound)) e3 (sound_portTurn hs)
    have h5 := Holds.un_some h4
    exact Holds.pair h5 Holds.any
  · rename_i e7
    have h8 := Holds.of_eq (P := (okOpt Sound)) e7 (sound_portTurn hs)
    exact Holds.pair (sound_portWait hs) Holds.any
theorem sound_failReq {s : State} {id : ℕ} {r : Request} {f : TFault} (hs : Holds Sound s) : Holds Sound (failReq s id r f) :=
    by
  unfold failReq
  extract_lets +onlyGivenNames v1 v2
  have h3 : Holds Sound v2 := Holds.ite (sound_setReq hs) (sound_dropReq hs)
  clear_value v2
  exact sound_reportAccess h3
theorem sound_routeReq {s : State} {id : ℕ} {r : Request} {t : Trans} (hs : Holds Sound s) : Holds Sound (routeReq s id r t)
    := by
  unfold routeReq
  refine Holds.ite ?_ ?_
  · exact sound_failReq hs
  · extract_lets +onlyGivenNames v1 v2
    have h3 : Holds Sound v2 := sound_setReq hs
    clear_value v2
    exact Holds.ite (sound_askGrantOf h3) h3
theorem sound_walkReq {s : State} {id : ℕ} {r : Request} (hs : Holds Sound s) : Holds Sound (walkReq s id r) := by
  unfold walkReq
  extract_lets +onlyGivenNames v1
  split
  · exact sound_failReq hs
  · exact sound_setReq (sound_keepWalk hs)
  · split
    rename_i e16
    have h17 := Holds.of_eq (P := (okProd anyP Sound)) e16 (sound_enterLeaf hs)
    have h18 := Holds.pair2 h17
    split
    · rename_i e22
      have h23 := Holds.of_eq (P := (okOk (okProd anyP Sound))) e22 (sound_applyEntry h18)
      have h24 := Holds.un_ok h23
      have h25 := Holds.pair2 h24
      exact sound_routeReq h25
    · rename_i e28
      have h29 := Holds.of_eq (P := (okOk (okProd anyP Sound))) e28 (sound_applyEntry h18)
      exact sound_failReq h18
theorem sound_queueWalk {s : State} {id : ℕ} {r : Request} (hs : Holds Sound s) : Holds Sound (queueWalk s id r) := by
  unfold queueWalk
  split
  rename_i e4
  have h5 := Holds.of_eq (P := (okProd anyP Sound)) e4 (sound_State_fresh hs)
  have h6 := Holds.pair2 h5
  exact sound_setReq h6
theorem sound_execTlbLookup {req : ℕ} {s : State} (hs : Holds Sound s) : Holds (okNext Sound) (execTlbLookup req s) := by
  unfold execTlbLookup
  split
  · refine Holds.ite ?_ ?_
    · exact sound_idle hs
    · extract_lets +onlyGivenNames v4
      split
      · split
        · rename_i e11
          have h12 := Holds.of_eq (P := (okOk (okProd anyP Sound))) e11 (sound_applyEntry hs)
          have h13 := Holds.un_ok h12
          have h14 := Holds.pair2 h13
          exact Holds.next (sound_routeReq h14)
        · rename_i e17
          have h18 := Holds.of_eq (P := (okOk (okProd anyP Sound))) e17 (sound_applyEntry hs)
          exact Holds.next (sound_failReq hs)
      · exact Holds.next (sound_queueWalk hs)
  · exact Holds.fault
theorem sound_sleepOn {s : State} {c : CoreId} {w : Watch} (hs : Holds Sound s) : Holds Sound (sleepOn s c w) := by
  unfold sleepOn
  split
  · exact sound_State_modStrand hs
  · exact sound_State_modStrand (sound_abandon hs)
theorem sound_readBack {s : State} {id : ℕ} {r : Request} {bs : List Byte} (hs : Holds Sound s) : Holds Sound (readBack s id r
    bs) := by
  unfold readBack
  extract_lets +onlyGivenNames v1
  split
  · refine Holds.ite ?_ ?_
    · exact sound_answer hs
    · extract_lets +onlyGivenNames v8 v9
      have h10 : Holds Sound v9 := sound_dropReq hs
      clear_value v9
      exact sound_sleepOn (sound_drainReqs h10)
  · exact sound_answer hs
theorem sound_remoteRead {s : State} {id : ℕ} {r : Request} (hs : Holds Sound s) : Holds Sound (remoteRead s id r) := by
  unfold remoteRead
  split
  · exact sound_portFault hs
  · extract_lets +onlyGivenNames v6
    refine Holds.ite ?_ ?_
    · exact hs
    · split
      · exact hs
      · extract_lets +onlyGivenNames v12 v13
        exact sound_queuePacket (sound_setReq hs)
theorem sound_serveRead {s : State} {id : ℕ} {r : Request} (hs : Holds Sound s) : Holds Sound (serveRead s id r) := by
  unfold serveRead
  refine Holds.ite ?_ ?_
  · exact Holds.ite (sound_portFault hs) (sound_readBack hs)
  · exact Holds.ite (sound_portFault hs) (Holds.ite (sound_readBack hs) (sound_remoteRead hs))
theorem sound_serveCas {s : State} {id : ℕ} {r : Request} {expect : Word} {new : Word} (hs : Holds Sound s) : Holds Sound
    (serveCas s id r expect new) := by
  unfold serveCas
  refine Holds.ite ?_ ?_
  · exact sound_portFault hs
  · extract_lets +onlyGivenNames v1 v2
    have h3 : Holds Sound v2 := Holds.ite (sound_hbmWrite hs) hs
    clear_value v2
    exact sound_answer h3
theorem sound_serveAtomic {s : State} {id : ℕ} {r : Request} {op : ℕ} {arg : Word} (hs : Holds Sound s) : Holds Sound
    (serveAtomic s id r op arg) := by
  unfold serveAtomic
  refine Holds.ite ?_ ?_
  · split
    · rename_i e3
      have h4 := Holds.of_eq (P := (okOk Sound)) e3 (sound_sendAtom hs)
      have h5 := Holds.un_ok h4
      exact sound_acceptReq h5
    · rename_i e8
      have h9 := Holds.of_eq (P := (okOk Sound)) e8 (sound_sendAtom hs)
      exact sound_portFault hs
  · refine Holds.ite ?_ ?_
    · exact sound_portFault hs
    · split
      rename_i e13
      have h14 := Holds.of_eq (P := (okProd anyP Sound)) e13 (sound_hbmAtomic hs)
      have h15 := Holds.pair2 h14
      exact sound_answer h15
theorem sound_serveReq {s : State} {id : ℕ} {r : Request} (hs : Holds Sound s) : Holds Sound (serveReq s id r) := by
  unfold serveReq
  split
  · exact sound_serveRead hs
  · exact sound_serveRead hs
  · exact sound_serveStore hs
  · exact sound_serveAtomic hs
  · exact sound_serveCas hs
theorem sound_execMemoryPortService {port : Fin 256} {s : State} (hs : Holds Sound s) : Holds (okNext Sound)
    (execMemoryPortService port s) := by
  unfold execMemoryPortService
  extract_lets +onlyGivenNames v1 v2 v3 v4
  subst v4
  split
  extract_lets +onlyGivenNames v9
  split
  · extract_lets +onlyGivenNames v14
    exact Holds.next (sound_serveReq (sound_portCharge hs))
  · exact sound_idle hs
theorem sound_walkMiss {s : State} {id : ℕ} {m : Miss} (hs : Holds Sound s) : Holds Sound (walkMiss s id m) := by
  unfold walkMiss
  extract_lets +onlyGivenNames v1
  subst v1
  split
  · beta_reduce
    exact Holds.keep hs
  · beta_reduce
    exact Holds.keep (Holds.ite hs (sound_keepWalk hs))
  · split
    rename_i e16
    have h17 := Holds.of_eq (P := (okProd anyP Sound)) e16 (sound_enterLeaf hs)
    have h18 := Holds.pair2 h17
    beta_reduce
    exact Holds.keep h18
theorem sound_walkTurn {s : State} {id : ℕ} {place : ℕ} {k : ℕ} {va : ℕ} {lvl : ℕ} {a : ℕ} (hs : Holds Sound s) : Holds
    (okProd Sound anyP) (walkTurn s id place k va lvl a) := by
  unfold walkTurn
  split
  · exact Holds.pair hs Holds.any
  · exact sound_portGate hs
theorem sound_execPageWalk {req : ℕ} {s : State} (hs : Holds Sound s) : Holds (okNext Sound) (execPageWalk req s) := by
  unfold execPageWalk
  split
  · extract_lets +onlyGivenNames v5
    refine Holds.ite ?_ ?_
    · exact sound_idle hs
    · split
      rename_i e9
      have h10 := Holds.of_eq (P := (okProd Sound anyP)) e9 (sound_walkTurn hs)
      have h11 := Holds.pair1 h10
      exact Holds.next (Holds.ite (sound_walkReq h11) h11)
  · refine Holds.ite ?_ ?_
    · exact sound_idle hs
    · split
      rename_i e20
      have h21 := Holds.of_eq (P := (okProd Sound anyP)) e20 (sound_walkTurn hs)
      have h22 := Holds.pair1 h21
      exact Holds.next (Holds.ite (sound_walkMiss h22) h22)
  · exact Holds.fault

/-! ### Blocks -/

theorem sound_deliverTrap {c : CoreId} {b : Block} {s : State} {t : ℕ × Bool × ℕ} (hs : Holds Sound s) : Holds Sound
    (deliverTrap c b s t) := by
  unfold deliverTrap
  split
  · exact hs
  · extract_lets +onlyGivenNames v6 v7
    split
    rename_i e11
    have h12 := Holds.of_eq (P := (okProd anyP Sound)) e11 (sound_openRecord hs)
    have h13 := Holds.pair2 h12
    extract_lets +onlyGivenNames v14
    have h15 : Holds Sound v14 := sound_State_modStrand h13
    clear_value v14
    split
    · exact Holds.ite (sound_State_modGath h15) h15
    · exact h15
theorem sound_commitTail {s : State} {c : CoreId} {b : Block} (hs : Holds Sound s) : Holds Sound (commitTail s c b) := by
  unfold commitTail
  extract_lets +onlyGivenNames v1
  have h2 : Holds Sound v1 := Holds.foldl hs (fun s3 x4 h5 => sound_sysWrite h5)
  clear_value v1
  extract_lets +onlyGivenNames v6
  have h7 : Holds Sound v6 := sound_State_modStrand h2
  clear_value v6
  extract_lets +onlyGivenNames v8
  have h9 : Holds Sound v8 := by
    subst v8
    split
    · exact Holds.ite (sound_State_modGath h7) h7
    · exact h7
  clear_value v8
  split
  · exact Holds.foldl h9 (fun s18 x19 h20 => sound_deliverTrap h20)
  · refine Holds.ite ?_ ?_
    · exact sound_returnFrom h9
    · split
      · exact Holds.ite h9 (sound_State_modCore h9 (fun x29 h30 => Holds.coreOf (Holds.coreMem h30) (Holds.coreRegs h30)))
      · exact h9
theorem sound_fetchFault {s : State} {c : CoreId} {a : ℕ} (hs : Holds Sound s) : Holds Sound (fetchFault s c a) := by
  unfold fetchFault
  extract_lets +onlyGivenNames v1
  split
  extract_lets +onlyGivenNames v7
  exact sound_raiseFault hs
theorem sound_keepBlock {s : State} {c : CoreId} {a : ℕ} {ws : List Word32} (hs : Holds Sound s) : Holds Sound (keepBlock s c
    a ws) := by
  unfold keepBlock
  split
  · exact sound_State_modLeaf hs (fun x4 h5 => Holds.leafOf (Holds.leafMem h5))
  · exact hs
theorem sound_fetchDevice {s : State} {c : CoreId} {a : ℕ} (hs : Holds Sound s) : Holds (okOk (okProd anyP Sound))
    (fetchDevice s c a) := by
  unfold fetchDevice
  split
  · rename_i e3
    have h4 := Holds.of_eq (P := (okOk (okProd anyP Sound))) e3 (sound_engineTrans hs)
    exact Holds.error
  · rename_i e8
    have h9 := Holds.of_eq (P := (okOk (okProd anyP Sound))) e8 (sound_engineTrans hs)
    have h10 := Holds.un_ok h9
    have h11 := Holds.pair2 h10
    extract_lets +onlyGivenNames v12 v13
    split
    · rename_i e16
      have h17 := Holds.of_eq (P := (okOk Sound)) e16 (sound_allTurns h11)
      exact Holds.error
    · rename_i e20
      have h21 := Holds.of_eq (P := (okOk Sound)) e20 (sound_allTurns h11)
      have h22 := Holds.un_ok h21
      refine Holds.ite ?_ ?_
      · exact Holds.error
      · clear_value v12
        clear_value v13
        split
        · exact Holds.ok (Holds.pair Holds.any h22)
        · extract_lets +onlyGivenNames v26
          exact Holds.ok (Holds.pair Holds.any (sound_keepBlock h22))
theorem sound_fetchWords {s : State} {c : CoreId} {a : ℕ} (hs : Holds Sound s) : Holds (okOk (okProd anyP Sound)) (fetchWords
    s c a) := by
  unfold fetchWords
  split
  · exact Holds.ok (Holds.pair Holds.any hs)
  · exact Holds.ite (Holds.ok (Holds.pair Holds.any hs)) (sound_fetchDevice hs)
theorem sound_execDeadlineOverrun {c : CoreId} {s : State} (hs : Holds Sound s) : Holds (okNext Sound) (execDeadlineOverrun c
    s) := by
  unfold execDeadlineOverrun
  split
  · exact Holds.ite (Holds.next (sound_blockFault hs)) (sound_idle hs)
  · exact sound_idle hs
theorem sound_fetchFails {s : State} {c : CoreId} {a : ℕ} {f : AccessFault} (hs : Holds Sound s) : Holds Sound (fetchFails s c
    a f) := by
  unfold fetchFails
  extract_lets +onlyGivenNames v1
  split
  · exact sound_await hs
  · exact sound_reportAccess (sound_endAccess hs)
theorem sound_unstall {s : State} {c : CoreId} (hs : Holds Sound s) : Holds Sound (unstall s c) := by
  unfold unstall
  extract_lets +onlyGivenNames v1
  exact Holds.ite (sound_State_modStrand hs) hs
theorem sound_startBlock {s : State} {c : CoreId} {a : ℕ} {h : Word32} {ws : List Word32} (hs : Holds Sound s) : Holds Sound
    (startBlock s c a h ws) := by
  unfold startBlock
  extract_lets +onlyGivenNames v1
  have h2 : Holds Sound v1 := sound_tickClock hs
  clear_value v1
  exact sound_State_modStrand h2
theorem sound_execBlockFetch {c : CoreId} {s0 : State} (hs0 : Holds Sound s0) : Holds (okNext Sound) (execBlockFetch c s0) := by
  unfold execBlockFetch
  extract_lets +onlyGivenNames v1
  have h2 : Holds Sound v1 := sound_unstall hs0
  clear_value v1
  refine Holds.ite ?_ ?_
  · exact sound_idle hs0
  · extract_lets +onlyGivenNames v3
    refine Holds.ite ?_ ?_
    · exact Holds.next (sound_fetchFault h2)
    · split
      · rename_i e6
        have h7 := Holds.of_eq (P := (okOk (okProd anyP Sound))) e6 (sound_fetchWords h2)
        exact Holds.next (sound_fetchFails h2)
      · rename_i e10
        have h11 := Holds.of_eq (P := (okOk (okProd anyP Sound))) e10 (sound_fetchWords h2)
        have h12 := Holds.un_ok h11
        have h13 := Holds.pair2 h12
        exact Holds.next (sound_fetchFault h13)
      · rename_i e17
        have h18 := Holds.of_eq (P := (okOk (okProd anyP Sound))) e17 (sound_fetchWords h2)
        have h19 := Holds.un_ok h18
        have h20 := Holds.pair2 h19
        extract_lets +onlyGivenNames v21 v22
        have h23 : Holds Sound v22 := sound_startBlock h20
        clear_value v22
        extract_lets +onlyGivenNames v24
        split
        · exact Holds.next (sound_blockFault h23)
        · exact Holds.next h23
theorem sound_execNoProgressWatchdog {c : CoreId} {s : State} (hs : Holds Sound s) : Holds (okNext Sound)
    (execNoProgressWatchdog c s) := by
  unfold execNoProgressWatchdog
  split
  · exact Holds.ite (Holds.next (sound_blockFault hs)) (sound_idle hs)
  · exact sound_idle hs
theorem sound_execBlockCommit {c : CoreId} {s : State} (hs : Holds Sound s) : Holds (okNext Sound) (execBlockCommit c s) := by
  unfold execBlockCommit
  split
  · refine Holds.ite ?_ ?_
    · exact sound_idle hs
    · split
      · rename_i e6
        have h7 := Holds.of_eq (P := (okOpt Sound)) e6 (sound_writeRegs hs)
        have h8 := Holds.un_some h7
        exact Holds.next (sound_commitTail h8)
      · rename_i e10
        have h11 := Holds.of_eq (P := (okOpt Sound)) e10 (sound_writeRegs hs)
        exact Holds.next (sound_askGrantOf hs)
  · exact sound_idle hs

/-! ### Mbar -/

theorem sound_mbarUpdate {s : State} {c : CoreId} {la : ℕ} {f : Mbar → Mbar} (hs : Holds Sound s) : Holds (okOpt Sound)
    (mbarUpdate s c la f) := by
  unfold mbarUpdate
  exact sound_padWrite hs
theorem sound_paperArrive {s : State} {g : ℕ} {n : ℕ} {la : ℕ} (hs : Holds Sound s) : Holds Sound (paperArrive s g n la) := by
  unfold paperArrive
  with_reducible refine Holds.setPapers ?_ ?_
  · exact hs
  · refine Holds.tmod ?_ ?_
    · intro x1 h2
      exact Holds.paper (Holds.tmod (fun x3 h4 => Holds.leafOf (Holds.write (Holds.leafMem h4))) (Holds.paperLeaves h2))
    · exact Holds.papers hs

/-! ### Channels -/

theorem sound_State_modSender {s : State} {e : ℕ} {f : Sender → Sender} (hs : Holds Sound s) : Holds Sound (State.modSender s
    e f) := by
  unfold State.modSender
  exact Holds.keep hs
theorem sound_refuseWrite {id : ℕ} {s : State} {w : SendWrite} (hs : Holds Sound s) : Holds Sound (refuseWrite id s w) := by
  unfold refuseWrite
  split
  · exact sound_portFault hs
  · exact Holds.ite (sound_endWith hs) hs
theorem sound_refuseWrites {s : State} {id : ℕ} (hs : Holds Sound s) : Holds Sound (refuseWrites s id) := by
  unfold refuseWrites
  extract_lets +onlyGivenNames v1
  exact Holds.foldl (sound_State_modSender hs) (fun s2 x3 h4 => sound_refuseWrite h4)
theorem sound_issueFlag {s : State} {id : ℕ} {f : OutFlag} (hs : Holds Sound s) : Holds Sound (issueFlag s id f) := by
  unfold issueFlag
  extract_lets +onlyGivenNames v1 v2 v3
  have h4 : Holds Sound v3 := sound_State_modSender hs
  clear_value v3
  exact sound_queuePacket h4
theorem sound_windowFlag {s : State} {id : ℕ} (hs : Holds Sound s) : Holds Sound (windowFlag s id) := by
  unfold windowFlag
  exact sound_issueFlag hs
theorem sound_stallFlag {s : State} {id : ℕ} (hs : Holds Sound s) : Holds Sound (stallFlag s id) := by
  unfold stallFlag
  extract_lets +onlyGivenNames v1
  exact Holds.ite (sound_windowFlag hs) hs
theorem sound_numberWrite {s : State} {id : ℕ} {w : SendWrite} (hs : Holds Sound s) : Holds Sound (numberWrite s id w) := by
  unfold numberWrite
  extract_lets +onlyGivenNames v1 v2 v3 v4 v5
  have h6 : Holds Sound v5 := sound_State_modSender hs
  clear_value v5
  extract_lets +onlyGivenNames v7
  have h8 : Holds Sound v7 := sound_queuePacket h6
  clear_value v7
  split
  · exact sound_State_modGath h8
  · exact h8
theorem sound_issueNow {s : State} {id : ℕ} {a2 : List SendWrite} (hs : Holds Sound s) : Holds (okProd Sound anyP) (issueNow s
    id a2) := by
  induction a2 generalizing s id with
  | nil =>
    unfold issueNow
    exact Holds.pair hs Holds.any
  | cons z zs ih =>
    unfold issueNow
    extract_lets +onlyGivenNames v1
    refine Holds.ite ?_ ?_
    · apply ih
      exact sound_numberWrite hs
    · exact Holds.pair hs Holds.any
theorem sound_coverFlags {s : State} {a1 : List ℕ} (hs : Holds Sound s) : Holds (okProd Sound anyP) (coverFlags s a1) := by
  induction a1 generalizing s with
  | nil =>
    unfold coverFlags
    exact Holds.pair hs Holds.any
  | cons z zs ih =>
    unfold coverFlags
    extract_lets +onlyGivenNames v1
    refine Holds.ite ?_ ?_
    · apply ih
      exact hs
    · refine Holds.ite ?_ ?_
      · apply ih
        exact sound_windowFlag hs
      · split
        rename_i e5
        refine Holds.cut (P := (okProd Sound anyP)) (Holds.of_eq e5 ?_) fun h6 => ?_
        · apply ih
          exact hs
        have h7 := Holds.pair1 h6
        exact Holds.pair h7 Holds.any
theorem sound_breakSender {s : State} {id : ℕ} {detail : ℕ} (hs : Holds Sound s) : Holds Sound (breakSender s id detail) := by
  unfold breakSender
  extract_lets +onlyGivenNames v1
  refine Holds.ite ?_ ?_
  · exact hs
  · extract_lets +onlyGivenNames v2 v3
    subst v3
    extract_lets +onlyGivenNames v4
    have h5 : Holds Sound v4 := sound_State_modSender hs
    clear_value v4
    exact sound_refuseWrites (Holds.foldl h5 (fun s6 x7 h8 => sound_endWith h8))
theorem sound_breakReceiver {s : State} {id : ℕ} {detail : ℕ} (hs : Holds Sound s) : Holds Sound (breakReceiver s id detail)
    := by
  unfold breakReceiver
  split
  · exact Holds.ite hs (sound_writeRecord (Holds.keep hs))
  · exact hs

/-! ### Control -/

theorem sound_transfer {s : State} {c : CoreId} {i : ℕ} {mv : Option Transfer} (hs : Holds Sound s) : Holds Sound (transfer s
    c i mv) := by
  unfold transfer
  exact sound_settleControl (sound_deliver2 hs)
theorem sound_execCall {cond : Cond} {off : BitVec 22} {s : State} (hs : Holds Sound s) : Holds (okNext Sound) (execCall cond
    off s) := by
  unfold execCall
  exact sound_perform hs (fun s1 h2 x3 x4 x5 x6 x7 => Holds.ite (sound_transfer (sound_pendWrite h2)) (sound_transfer h2))
theorem sound_execTdone {s : State} (hs : Holds Sound s) : Holds (okNext Sound) (execTdone s) := by
  unfold execTdone
  exact sound_perform hs (fun s1 h2 x3 x4 x5 x6 x7 => sound_transfer h2)
theorem sound_execRd {g : Fin 64} {tb : Target} {ta : Target} {s : State} (hs : Holds Sound s) : Holds (okNext Sound) (execRd
    g tb ta s) := by
  unfold execRd
  refine sound_perform ?_ ?_
  · exact hs
  · intro s1 h2 x3 x4 x5 x6 x7
    split
    · exact sound_raiseFault h2
    · exact sound_deliver2 h2
theorem sound_execMov {tb : Target} {ta : Target} {s : State} (hs : Holds Sound s) : Holds (okNext Sound) (execMov tb ta s) :=
    by
  unfold execMov
  exact sound_valueOp hs
theorem sound_setTrap {s : State} {c : CoreId} {i : ℕ} {brk : Bool} {code : ℕ} (hs : Holds Sound s) : Holds Sound (setTrap s c
    i brk code) := by
  unfold setTrap
  exact sound_complete (sound_State_modBlock hs)
theorem sound_execBkpt {imm : BitVec 16} {s : State} (hs : Holds Sound s) : Holds (okNext Sound) (execBkpt imm s) := by
  unfold execBkpt
  exact sound_perform hs (fun s1 h2 x3 x4 x5 x6 x7 => sound_setTrap h2)
theorem sound_execMovhi {ta : Target} {imm : BitVec 16} {s : State} (hs : Holds Sound s) : Holds (okNext Sound) (execMovhi ta
    imm s) := by
  unfold execMovhi
  exact sound_valueOp hs
theorem sound_execRnd {deadline : BitVec 12} {s : State} (hs : Holds Sound s) : Holds (okNext Sound) (execRnd deadline s) := by
  unfold execRnd
  refine sound_perform ?_ ?_
  · exact hs
  · intro s1 h2 x3 x4 x5 x6 x7
    exact Holds.ite (sound_blockFault h2) (sound_complete (sound_State_modBlock h2))
theorem sound_execExit {s : State} (hs : Holds Sound s) : Holds (okNext Sound) (execExit s) := by
  unfold execExit
  exact sound_perform hs (fun s1 h2 x3 x4 x5 x6 x7 => sound_transfer h2)
theorem sound_execSysrd {ta : Target} {idx : BitVec 12} {s : State} (hs : Holds Sound s) : Holds (okNext Sound) (execSysrd ta
    idx s) := by
  unfold execSysrd
  exact sound_valueOp hs
theorem sound_execNull {tb : Target} {ta : Target} {s : State} (hs : Holds Sound s) : Holds (okNext Sound) (execNull tb ta s)
    := by
  unfold execNull
  exact sound_perform hs (fun s1 h2 x3 x4 x5 x6 x7 => sound_deliver2 h2)
theorem sound_execBr {cond : Cond} {off : BitVec 22} {s : State} (hs : Holds Sound s) : Holds (okNext Sound) (execBr cond off
    s) := by
  unfold execBr
  exact sound_perform hs (fun s1 h2 x3 x4 x5 x6 x7 => sound_transfer h2)
theorem sound_execMovi {ta : Target} {imm : BitVec 16} {s : State} (hs : Holds Sound s) : Holds (okNext Sound) (execMovi ta
    imm s) := by
  unfold execMovi
  exact sound_valueOp hs
theorem sound_execBrr {s : State} (hs : Holds Sound s) : Holds (okNext Sound) (execBrr s) := by
  unfold execBrr
  exact sound_perform hs (fun s1 h2 x3 x4 x5 x6 x7 => sound_transfer h2)
theorem sound_execTrap {imm : BitVec 16} {s : State} (hs : Holds Sound s) : Holds (okNext Sound) (execTrap imm s) := by
  unfold execTrap
  exact sound_perform hs (fun s1 h2 x3 x4 x5 x6 x7 => sound_setTrap h2)
theorem sound_execSyswr {idx : BitVec 12} {s : State} (hs : Holds Sound s) : Holds (okNext Sound) (execSyswr idx s) := by
  unfold execSyswr
  refine sound_perform ?_ ?_
  · exact hs
  · intro s1 h2 x3 x4 x5 x6 x7
    exact Holds.ite (sound_blockFault h2) (sound_complete (sound_State_modBlock h2))

/-! ### Images -/

theorem sound_shadowIn {s : State} {b : Batch} {key : ℕ} (hs : Holds Sound s) (hb : Holds okBatch b) : Holds okMem (shadowIn s
    b key) := by
  unfold shadowIn
  exact Holds.getD (Holds.orElse (Holds.tget (Holds.batchImages hb)) (fun x1 => Holds.tget (Holds.config hs))) Holds.nilMem
theorem sound_openBatch {s : State} (hs : Holds Sound s) : Holds okBatch (openBatch s) := by
  unfold openBatch
  exact Holds.batchOf (Holds.shadow hs)
theorem sound_modBatch {s : State} {id : ℕ} {f : Batch → Batch} (hs : Holds Sound s) (hf : ∀ y0, Holds okBatch y0 → Holds
    okBatch (f y0)) : Holds Sound (modBatch s id f) := by
  unfold modBatch
  split
  · with_reducible refine Holds.setBatches ?_ ?_
    · exact hs
    · refine Holds.lmod ?_ ?_
      · intro x4 h5
        apply hf
        exact h5
      · exact Holds.batches hs
  · extract_lets +onlyGivenNames v8
    have h9 : Holds okBatch v8 := by
      subst v8
      apply hf
      exact sound_openBatch hs
    clear_value v8
    exact Holds.setShadow hs (Holds.batchImages h9)
theorem sound_imageWrite {s : State} {id : ℕ} {c : CoreId} {k : ℕ} {bs : List Byte} {data : List Byte} (hs : Holds Sound s) :
    Holds (okProd Sound anyP) (imageWrite s id c k bs data) := by
  unfold imageWrite
  extract_lets +onlyGivenNames v1 v2 v3
  refine Holds.ite ?_ ?_
  · exact Holds.pair (sound_writeRecord (sound_modBatch hs (fun x4 h5 => Holds.batchOf (Holds.batchImages h5)))) Holds.any
  · extract_lets +onlyGivenNames v6 v7
    refine Holds.pair ?_ ?_
    · refine sound_modBatch ?_ ?_
      · exact hs
      · intro x8 h9
        exact Holds.batchOf (Holds.tset (Holds.write (sound_shadowIn hs h9)) (Holds.batchImages h9))
    · exact Holds.any

end Sys2Proof.Machine
end

