-- ==== Sys2Proof/Laws/SoundRounds.lean ====
section
/-!
SUPPORT. The functions of SpineAccess, Rounds, Sync, Moves, Copies keep what `State.sound` says, one lemma per function.
-/

set_option Elab.async false

namespace Sys2Proof.Machine

/-! ### SpineAccess -/

theorem sound_spineTrans {s : State} {u : PortUser} {k : ℕ} {va : ℕ} {acc : ℕ} (hs : Holds Sound s) : Holds (okOk (okProd anyP
    Sound)) (spineTrans s u k va acc) := by
  unfold spineTrans
  split
  · rename_i e3
    have h4 := Holds.of_eq (P := (okOk (okProd anyP Sound))) e3 (sound_engineTrans hs)
    exact h4
  · rename_i e8
    have h9 := Holds.of_eq (P := (okOk (okProd anyP Sound))) e8 (sound_engineTrans hs)
    have h10 := Holds.un_ok h9
    have h11 := Holds.pair2 h10
    exact Holds.ite Holds.error h9
theorem sound_spineReads {s : State} {u : PortUser} {k : ℕ} {a3 : List (ℕ × ℕ)} {a4 : List Byte} (hs : Holds Sound s) : Holds
    (okOk (okProd anyP Sound)) (spineReads s u k a3 a4) := by
  induction a3 generalizing s u k a4 with
  | nil =>
    unfold spineReads
    exact Holds.ok (Holds.pair Holds.any hs)
  | cons z zs ih =>
    unfold spineReads
    split
    · rename_i e3
      have h4 := Holds.of_eq (P := (okOk (okProd anyP Sound))) e3 (sound_spineTrans hs)
      exact Holds.error
    · rename_i e8
      have h9 := Holds.of_eq (P := (okOk (okProd anyP Sound))) e8 (sound_spineTrans hs)
      have h10 := Holds.un_ok h9
      have h11 := Holds.pair2 h10
      split
      · rename_i e14
        have h15 := Holds.of_eq (P := (okOk Sound)) e14 (sound_allTurns h11)
        exact Holds.error
      · rename_i e18
        have h19 := Holds.of_eq (P := (okOk Sound)) e18 (sound_allTurns h11)
        have h20 := Holds.un_ok h19
        refine Holds.ite ?_ ?_
        · exact Holds.error
        · apply ih
          exact h20
theorem sound_spineRead {s : State} {u : PortUser} {k : ℕ} {va : ℕ} {n : ℕ} (hs : Holds Sound s) : Holds (okOk (okProd anyP
    Sound)) (spineRead s u k va n) := by
  unfold spineRead
  exact sound_spineReads hs
theorem sound_freeInst {s : State} {i : ℕ} {u : PortUser} (hs : Holds Sound s) : Holds Sound (freeInst s i u) := by
  unfold freeInst
  exact sound_endAccess (Holds.keep hs)
theorem sound_holdInst {s : State} {i : ℕ} {u : PortUser} {x : AccessFault} (hs : Holds Sound s) : Holds Sound (holdInst s i u
    x) := by
  unfold holdInst
  split
  · exact hs
  · extract_lets +onlyGivenNames v6
    split
    · exact sound_await hs
    · extract_lets +onlyGivenNames v12
      have h13 : Holds Sound v12 := sound_endAccess hs
      clear_value v12
      refine Holds.ite ?_ ?_
      · split
        rename_i e17
        have h18 := Holds.of_eq (P := (okProd anyP Sound)) e17 (sound_openRecord h13)
        have h19 := Holds.pair2 h18
        exact Holds.keep h19
      · exact sound_endWith h13
theorem sound_raiseVt {s : State} {k : ℕ} {c : ℕ} (hs : Holds Sound s) : Holds Sound (raiseVt s k c) := by
  unfold raiseVt
  split
  · exact sound_State_modContext hs
  · exact hs
theorem sound_addEntry {s : State} {e : PoolEntry} (hs : Holds Sound s) : Holds (okOpt Sound) (addEntry s e) := by
  unfold addEntry
  refine Holds.ite ?_ ?_
  · exact Holds.none
  · extract_lets +onlyGivenNames v1 v2
    have h3 : Holds Sound v2 := Holds.ite hs (sound_raiseVt hs)
    clear_value v2
    split
    rename_i e7
    have h8 := Holds.of_eq (P := (okProd anyP Sound)) e7 (sound_State_fresh h3)
    have h9 := Holds.pair2 h8
    exact Holds.some (Holds.keep h9)
theorem sound_spinePuts {a0 : List (ℕ × ℕ)} {a1 : List ℕ} {a2 : List Byte} {a3 : State} (ha3 : Holds Sound a3) : Holds Sound
    (spinePuts a0 a1 a2 a3) := by
  induction a0 generalizing a1 a2 a3 with
  | nil =>
    unfold spinePuts
    exact ha3
  | cons z zs ih =>
    unfold spinePuts
    split
    · rename_i e12
      cases e12
      apply ih
      exact sound_hbmWrite ha3
    · exact ha3
theorem sound_spineTargets {s : State} {u : PortUser} {k : ℕ} {a3 : List (ℕ × ℕ)} {a4 : List ℕ} (hs : Holds Sound s) : Holds
    (okOk (okProd anyP Sound)) (spineTargets s u k a3 a4) := by
  induction a3 generalizing s u k a4 with
  | nil =>
    unfold spineTargets
    exact Holds.ok (Holds.pair Holds.any hs)
  | cons z zs ih =>
    unfold spineTargets
    split
    · rename_i e3
      have h4 := Holds.of_eq (P := (okOk (okProd anyP Sound))) e3 (sound_spineTrans hs)
      exact Holds.error
    · rename_i e8
      have h9 := Holds.of_eq (P := (okOk (okProd anyP Sound))) e8 (sound_spineTrans hs)
      have h10 := Holds.un_ok h9
      have h11 := Holds.pair2 h10
      split
      · rename_i e14
        have h15 := Holds.of_eq (P := (okOk Sound)) e14 (sound_allTurns h11)
        exact Holds.error
      · rename_i e18
        have h19 := Holds.of_eq (P := (okOk Sound)) e18 (sound_allTurns h11)
        have h20 := Holds.un_ok h19
        apply ih
        exact h20
theorem sound_spineWrite {s : State} {u : PortUser} {k : ℕ} {va : ℕ} {bs : List Byte} (hs : Holds Sound s) : Holds (okOk
    Sound) (spineWrite s u k va bs) := by
  unfold spineWrite
  split
  · rename_i e3
    have h4 := Holds.of_eq (P := (okOk (okProd anyP Sound))) e3 (sound_spineTargets hs)
    exact Holds.error
  · rename_i e8
    have h9 := Holds.of_eq (P := (okOk (okProd anyP Sound))) e8 (sound_spineTargets hs)
    have h10 := Holds.un_ok h9
    have h11 := Holds.pair2 h10
    exact Holds.ok (sound_spinePuts h11)
theorem sound_spineWrites {s : State} {u : PortUser} {k : ℕ} {a3 : List (ℕ × List Byte)} (hs : Holds Sound s) : Holds (okProd
    Sound anyP) (spineWrites s u k a3) := by
  induction a3 generalizing s u k with
  | nil =>
    unfold spineWrites
    exact Holds.pair hs Holds.any
  | cons z zs ih =>
    unfold spineWrites
    split
    · rename_i e3
      have h4 := Holds.of_eq (P := (okOk Sound)) e3 (sound_spineWrite hs)
      have h5 := Holds.un_ok h4
      apply ih
      exact h5
    · rename_i e8
      have h9 := Holds.of_eq (P := (okOk Sound)) e8 (sound_spineWrite hs)
      exact Holds.pair hs Holds.any

/-! ### Rounds -/

theorem sound_reloadFree {s : State} {n : ℕ} (hs : Holds Sound s) : Holds Sound (reloadFree s n) := by
  unfold reloadFree
  exact sound_State_modLeaf hs (fun x1 h2 => Holds.leafOf (Holds.leafMem h2))
theorem sound_execCommitWatchdog {g : ℕ} {s : State} (hs : Holds Sound s) : Holds (okNext Sound) (execCommitWatchdog g s) := by
  unfold execCommitWatchdog
  split
  · extract_lets +onlyGivenNames v4
    exact Holds.ite (sound_idle hs) (Holds.next (sound_endWith hs))
  · exact Holds.fault
theorem sound_popQueue {s : State} {g : ℕ} (hs : Holds Sound s) : Holds Sound (popQueue s g) := by
  unfold popQueue
  exact sound_State_modGath hs
theorem sound_execWaitaWake {c : CoreId} {s : State} (hs : Holds Sound s) : Holds (okNext Sound) (execWaitaWake c s) := by
  unfold execWaitaWake
  extract_lets +onlyGivenNames v1
  split
  · exact Holds.ite (Holds.next (sound_State_modStrand (Holds.keep hs))) (sound_idle hs)
  · exact sound_idle hs
theorem sound_rereadLeaf {t : ℕ} {v : ℕ} {l : Leaf} (hl : Holds okLeaf l) : Holds okLeaf (rereadLeaf t v l) := by
  unfold rereadLeaf
  exact Holds.leafOf (Holds.leafMem hl)
theorem sound_failReread {s : State} {c : CoreId} {g : Option ℕ} {p : Report} (hs : Holds Sound s) : Holds Sound (failReread s
    c g p) := by
  unfold failReread
  split
  · rename_i e3
    have h4 := Holds.of_eq (P := (okOpt okPaper)) e3 (Holds.bindOpt (P := anyP) Holds.anyOpt (fun x5 h6 => Holds.tget (Holds.papers hs)))
    have h7 := Holds.un_some h4
    exact sound_endWith hs
  · rename_i e9
    have h10 := Holds.of_eq (P := (okOpt okPaper)) e9 (Holds.bindOpt (P := anyP) Holds.anyOpt (fun x11 h12 => Holds.tget (Holds.papers hs)))
    exact sound_raiseFault hs
theorem sound_putReread {s : State} {c : CoreId} {g : Option ℕ} {k : ℕ} {e : ℕ} {tag : ℕ} {w : Watch} (hs : Holds Sound s) :
    Holds Sound (putReread s c g k e tag w) := by
  unfold putReread
  extract_lets +onlyGivenNames v1 v2
  exact sound_queuePacket (Holds.keep hs)
theorem sound_sendReread {s : State} {c : CoreId} {g : Option ℕ} {k : ℕ} {tag : ℕ} {w : Watch} (hs : Holds Sound s) : Holds
    Sound (sendReread s c g k tag w) := by
  unfold sendReread
  split
  · exact Holds.ite hs (sound_putReread hs)
  · exact sound_failReread hs
theorem sound_execRemoteWatchReread {c : CoreId} {tag : BitVec 12} {s : State} (hs : Holds Sound s) : Holds (okNext Sound)
    (execRemoteWatchReread c tag s) := by
  unfold execRemoteWatchReread
  extract_lets +onlyGivenNames v1
  split
  · exact Holds.next (sound_sendReread hs)
  · exact sound_idle hs
theorem sound_holdAccess {s : State} {core : CoreId} {slot : Option ℕ} {unit : ℕ} {num : ℕ} (hs : Holds Sound s) : Holds Sound
    (holdAccess s core slot unit num) := by
  unfold holdAccess
  refine Holds.ite ?_ ?_
  · exact sound_State_modLeaf hs (fun x1 h2 => Holds.ite (Holds.leafOf (Holds.leafMem h2)) (Holds.leafOf (Holds.leafMem h2)))
  · refine Holds.ite ?_ ?_
    · exact Holds.keep hs
    · split
      · exact sound_State_modStrand hs
      · extract_lets +onlyGivenNames v6
        have h7 : Holds Sound v6 := Holds.keep hs
        clear_value v6
        exact sound_State_modSlot h7
theorem sound_reloadLeaf {l : Leaf} (hl : Holds okLeaf l) : Holds okLeaf (reloadLeaf l) := by
  unfold reloadLeaf
  extract_lets +onlyGivenNames v1 v2
  exact Holds.leafOf (Holds.foldl (Holds.leafMem hl) (fun x3 x4 h5 => Holds.write h5))
theorem sound_voidRound {s : State} {g : ℕ} {x : Gathering} (hs : Holds Sound s) : Holds Sound (voidRound s g x) := by
  unfold voidRound
  extract_lets +onlyGivenNames v1
  have h2 : Holds Sound v1 := Holds.foldl hs (fun s3 x4 h5 => sound_State_modLeaf h5 (fun x6 h7 => sound_reloadLeaf h7))
  clear_value v1
  extract_lets +onlyGivenNames v8
  have h9 : Holds Sound v8 := Holds.foldl h2 (fun s10 x11 h12 => sound_reloadFree h12)
  clear_value v8
  extract_lets +onlyGivenNames v13
  have h14 : Holds Sound v13 := Holds.foldl h9 (fun s15 x16 h17 => sound_State_modQuire h17)
  clear_value v13
  extract_lets +onlyGivenNames v18
  have h19 : Holds Sound v18 := Holds.keep h14
  clear_value v18
  exact sound_State_modGath (sound_leavePorts h19)
theorem sound_execSpawnCommitHoldTimeout {g : ℕ} {s : State} (hs : Holds Sound s) : Holds (okNext Sound)
    (execSpawnCommitHoldTimeout g s) := by
  unfold execSpawnCommitHoldTimeout
  split
  · refine Holds.ite ?_ ?_
    · extract_lets +onlyGivenNames v4
      exact Holds.next (sound_endWith hs)
    · exact sound_idle hs
  · exact Holds.fault
theorem sound_nextStrands {l : Leaf} (hl : Holds okLeaf l) : Holds okLeaf (nextStrands l) := by
  unfold nextStrands
  exact Holds.leafOf (Holds.leafMem hl)
theorem sound_freeGath {s : State} {g : ℕ} {x : Gathering} (hs : Holds Sound s) : Holds Sound (freeGath s g x) := by
  unfold freeGath
  extract_lets +onlyGivenNames v1
  have h2 : Holds Sound v1 := Holds.foldl hs (fun s3 x4 h5 => sound_State_modLeaf h5 (fun x6 h7 => sound_idleLeaf h7))
  clear_value v1
  exact Holds.keep h2
theorem sound_doVoid {s : State} {g : ℕ} (hs : Holds Sound s) : Holds Sound (doVoid s g) := by
  unfold doVoid
  split
  · exact hs
  · split
    · exact sound_endWith hs
    · exact sound_voidRound hs
theorem sound_lostInRound {s : State} {g : ℕ} {x : Gathering} {r : Report} (hs : Holds Sound s) : Holds Sound (lostInRound s g
    x r) := by
  unfold lostInRound
  exact Holds.ite (sound_endWith hs) (sound_doVoid (sound_writeRecord hs))
theorem sound_landPort {n : ℕ} {s : State} {p : ℕ} (hs : Holds Sound s) : Holds Sound (landPort n s p) := by
  unfold landPort
  split
  · rename_i x1 _ _ _
    extract_lets +onlyGivenNames v5 v6
    have h7 : Holds Sound v6 := sound_State_modLeaf hs (fun x8 h9 => Holds.leafOf (Holds.leafMem h9))
    clear_value v6
    exact sound_State_modLeaf h7 (fun x10 h11 => Holds.leafOf (Holds.leafMem h11))
  · exact hs
theorem sound_execRoundVoid {g : ℕ} {s : State} (hs : Holds Sound s) : Holds (okNext Sound) (execRoundVoid g s) := by
  unfold execRoundVoid
  split
  · split
    · extract_lets +onlyGivenNames v8
      have h9 : Holds Sound v8 := sound_popQueue hs
      clear_value v8
      exact Holds.ite (Holds.next (sound_State_modGath h9)) (Holds.next (sound_State_modGath (sound_doVoid h9)))
    · exact sound_idle hs
  · exact Holds.fault
theorem sound_cutLeaf {tick : ℕ} {final : Bool} {l : Leaf} (hl : Holds okLeaf l) : Holds okLeaf (cutLeaf tick final l) := by
  unfold cutLeaf
  extract_lets +onlyGivenNames v1 v2 v3 v4
  have h5 : Holds okLeaf v4 := Holds.leafOf (Holds.leafMem hl)
  clear_value v4
  extract_lets +onlyGivenNames v6 v7 v8 v9
  have h10 : Holds okLeaf v9 := Holds.ite (Holds.leafOf (Holds.leafMem h5)) h5
  clear_value v9
  extract_lets +onlyGivenNames v11
  exact Holds.leafOf (Holds.clear (Holds.leafMem h10))
theorem sound_cutRound {s : State} {g : ℕ} {x : Gathering} (hs : Holds Sound s) : Holds (okProd Sound anyP) (cutRound s g x)
    := by
  unfold cutRound
  extract_lets +onlyGivenNames v1 v2
  have h3 : Holds Sound v2 := Holds.foldl hs (fun s4 x5 h6 => Holds.foldl h6 (fun s7 x8 h9 => sound_landPort h9))
  clear_value v2
  extract_lets +onlyGivenNames v10
  have h11 : Holds Sound v10 := Holds.foldl h3 (fun s12 x13 h14 => sound_State_modLeaf h14 (fun x15 h16 => sound_cutLeaf h16))
  clear_value v10
  split
  rename_i e20
  have h21 := Holds.of_eq (P := (okProd Sound anyP)) e20 (sound_publishAll h11)
  have h22 := Holds.pair1 h21
  exact Holds.pair (sound_State_modGath h22) Holds.any
theorem sound_coverGath {s : State} {g : ℕ} (hs : Holds Sound s) : Holds Sound (coverGath s g) := by
  unfold coverGath
  split
  · refine Holds.ite ?_ ?_
    · split
      rename_i e7
      have h8 := Holds.of_eq (P := (okProd Sound anyP)) e7 (sound_coverFlags hs)
      have h9 := Holds.pair1 h8
      exact sound_State_modGath h9
    · exact hs
  · exact hs
theorem sound_endFaulted {s : State} {g : ℕ} {inst : ℕ} {r : Report} (hs : Holds Sound s) : Holds Sound (endFaulted s g inst
    r) := by
  unfold endFaulted
  exact Holds.foldl (sound_endWith hs) (fun s1 x2 h3 => sound_writeRecord h3)
theorem sound_serveService {s : State} {g : ℕ} {x : Gathering} {r : Report} {who : Recur} {core : CoreId} {slot : Option ℕ}
    {unit : ℕ} {again : Option ℕ} (hs : Holds Sound s) : Holds Sound (serveService s g x r who core slot unit again) := by
  unfold serveService
  refine Holds.ite ?_ ?_
  · exact sound_endFaulted hs
  · refine Holds.ite ?_ ?_
    · extract_lets +onlyGivenNames v1
      have h2 : Holds Sound v1 := sound_doVoid hs
      clear_value v1
      refine Holds.ite ?_ ?_
      · exact sound_writeRecord h2
      · split
        rename_i e6
        have h7 := Holds.of_eq (P := (okProd anyP Sound)) e6 (sound_openRecord h2)
        have h8 := Holds.pair2 h7
        exact sound_State_modGath h8
    · split
      rename_i e12
      have h13 := Holds.of_eq (P := (okProd anyP Sound)) e12 (sound_openRecord (sound_popQueue hs))
      have h14 := Holds.pair2 h13
      exact sound_holdAccess (sound_State_modGath h14)
theorem sound_execFaultReport {g : ℕ} {s : State} (hs : Holds Sound s) : Holds (okNext Sound) (execFaultReport g s) := by
  unfold execFaultReport
  split
  · split
    · exact Holds.next (sound_endFaulted hs)
    · exact Holds.next (sound_lostInRound (sound_popQueue hs))
    · exact Holds.next (sound_serveService hs)
    · exact sound_idle hs
  · exact Holds.fault
theorem sound_paperLeaf {l : Leaf} (hl : Holds okLeaf l) : Holds okLeaf (paperLeaf l) := by
  unfold paperLeaf
  exact Holds.leafOf (Holds.clear (Holds.leafMem hl))
theorem sound_paySavers {s : State} {g : ℕ} (hs : Holds Sound s) : Holds Sound (paySavers s g) := by
  unfold paySavers
  exact Holds.foldl (Holds.keep hs) (fun s1 x2 h3 => sound_payOwed h3)
theorem sound_enterSaved {s : State} {g : ℕ} (hs : Holds Sound s) : Holds Sound (enterSaved s g) := by
  unfold enterSaved
  split
  · rename_i e3
    have h4 := Holds.of_eq (P := (okOpt okPaper)) e3 (Holds.tget (Holds.papers hs))
    have h5 := Holds.un_some h4
    exact Holds.ite hs (Holds.getD (sound_addEntry hs) hs)
  · rename_i e7
    have h8 := Holds.of_eq (P := (okOpt okPaper)) e7 (Holds.tget (Holds.papers hs))
    exact hs
theorem sound_execContextSave {g : ℕ} {s : State} (hs : Holds Sound s) : Holds (okNext Sound) (execContextSave g s) := by
  unfold execContextSave
  split
  · rename_i x1 _ _
    refine Holds.ite ?_ ?_
    · exact Holds.next (sound_askVoid hs)
    · refine Holds.ite ?_ ?_
      · exact sound_idle hs
      · split
        · extract_lets +onlyGivenNames v6
          have h7 : Holds Sound v6 := Holds.ite hs (sound_writeRecord hs)
          clear_value v6
          exact Holds.next (sound_State_modGath h7)
        · extract_lets +onlyGivenNames v11
          have h12 : Holds (okList (okProd anyP okLeaf)) v11 := Holds.foldl Holds.nil (fun x13 x14 h15 => Holds.tset (sound_paperLeaf (sound_State_leaf hs)) h15)
          clear_value v11
          extract_lets +onlyGivenNames v16 v17
          have h18 : Holds Sound v17 := sound_freeGath hs
          clear_value v17
          extract_lets +onlyGivenNames v19
          have h20 : Holds Sound v19 := Holds.setPapers h18 (Holds.tset (Holds.paper h12) (Holds.papers h18))
          clear_value v19
          extract_lets +onlyGivenNames v21
          have h22 : Holds Sound v21 := sound_State_modContext h20
          clear_value v21
          split
          extract_lets +onlyGivenNames v27
          have h28 : Holds Sound v27 := Holds.keep h22
          clear_value v27
          exact Holds.next (sound_paySavers (sound_enterSaved h28))
  · exact Holds.next (sound_paySavers hs)
theorem sound_execKettleComplete {g : ℕ} {id : Fin 64} {s : State} (hs : Holds Sound s) : Holds (okNext Sound)
    (execKettleComplete g id s) := by
  unfold execKettleComplete
  split
  · split
    · exact Holds.ite (sound_idle hs) (Holds.next (Holds.foldl (sound_State_modGath hs) (fun s7 x8 h9 => sound_payOwed h9)))
    · exact sound_idle hs
  · exact Holds.fault
theorem sound_execSwapWaitExpiry {c : CoreId} {s : State} (hs : Holds Sound s) : Holds (okNext Sound) (execSwapWaitExpiry c s)
    := by
  unfold execSwapWaitExpiry
  refine Holds.ite ?_ ?_
  · exact sound_idle hs
  · extract_lets +onlyGivenNames v1
    exact Holds.ite (sound_idle hs) (Holds.next (sound_State_modStrand hs))
theorem sound_occEntry {s : State} {g : ℕ} {x : Gathering} {p : NodePlace} {i : ℕ} (hs : Holds Sound s) : Holds (okOk Sound)
    (occEntry s g x p i) := by
  unfold occEntry
  extract_lets +onlyGivenNames v1
  split
  · rename_i e4
    have h5 := Holds.of_eq (P := (okOk (okProd anyP Sound))) e4 (sound_spineRead hs)
    exact Holds.error
  · rename_i e9
    have h10 := Holds.of_eq (P := (okOk (okProd anyP Sound))) e9 (sound_spineRead hs)
    have h11 := Holds.un_ok h10
    have h12 := Holds.pair2 h11
    exact sound_spineWrite h12
theorem sound_occAll {s : State} {g : ℕ} {x : Gathering} (hs : Holds Sound s) : Holds (okOk Sound) (occAll s g x) := by
  unfold occAll
  exact Holds.foldlOk hs (fun s1 x2 h3 => Holds.foldlOk h3 (fun s4 x5 h6 => sound_occEntry h6))
theorem sound_execIrrevocableGrant {g : ℕ} {s : State} (hs : Holds Sound s) : Holds (okNext Sound) (execIrrevocableGrant g s)
    := by
  unfold execIrrevocableGrant
  split
  · split
    · split
      rename_i e10
      have h11 := Holds.of_eq (P := (okProd Sound anyP)) e10 (sound_publishAll (sound_State_modGath (sound_popQueue hs)))
      have h12 := Holds.pair1 h11
      split
      · exact Holds.next (sound_endWith h12)
      · exact Holds.next (Holds.keep h12)
    · exact sound_idle hs
  · exact Holds.fault
theorem sound_releaseSpawns {s : State} {g : ℕ} {x : Gathering} (hs : Holds Sound s) : Holds (okOpt Sound) (releaseSpawns s g
    x) := by
  unfold releaseSpawns
  extract_lets +onlyGivenNames v1
  exact Holds.ite Holds.none (Holds.some (sound_State_modContext hs))
theorem sound_nextRound {s : State} {g : ℕ} {x : Gathering} (hs : Holds Sound s) : Holds Sound (nextRound s g x) := by
  unfold nextRound
  extract_lets +onlyGivenNames v1
  have h2 : Holds Sound v1 := Holds.foldl hs (fun s3 x4 h5 => sound_State_modLeaf h5 (fun x6 h7 => sound_nextStrands h7))
  clear_value v1
  extract_lets +onlyGivenNames v8
  exact sound_State_modGath h2
theorem sound_finishRound {s : State} {g : ℕ} (hs : Holds Sound s) : Holds Sound (finishRound s g) := by
  unfold finishRound
  split
  · exact hs
  · refine Holds.ite ?_ ?_
    · refine Holds.ite ?_ ?_
      · exact hs
      · split
        · rename_i e8
          have h9 := Holds.of_eq (P := (okOk Sound)) e8 (sound_occAll hs)
          exact sound_holdInst hs
        · rename_i e12
          have h13 := Holds.of_eq (P := (okOk Sound)) e12 (sound_occAll hs)
          have h14 := Holds.un_ok h13
          extract_lets +onlyGivenNames v15
          have h16 : Holds Sound v15 := sound_freeInst h14
          clear_value v15
          extract_lets +onlyGivenNames v17
          have h18 : Holds Sound v17 := sound_State_modGath h16
          clear_value v17
          split
          · rename_i e21
            have h22 := Holds.of_eq (P := (okOpt Sound)) e21 (sound_releaseSpawns h18)
            have h23 := Holds.un_some h22
            exact sound_nextRound h23
          · rename_i e25
            have h26 := Holds.of_eq (P := (okOpt Sound)) e25 (sound_releaseSpawns h18)
            exact h18
    · refine Holds.ite ?_ ?_
      · split
        · rename_i e29
          have h30 := Holds.of_eq (P := (okOpt Sound)) e29 (sound_releaseSpawns hs)
          have h31 := Holds.un_some h30
          exact sound_nextRound h31
        · rename_i e33
          have h34 := Holds.of_eq (P := (okOpt Sound)) e33 (sound_releaseSpawns hs)
          exact hs
      · exact hs
theorem sound_execRoundCommit {g : ℕ} {s : State} (hs : Holds Sound s) : Holds (okNext Sound) (execRoundCommit g s) := by
  unfold execRoundCommit
  split
  · refine Holds.ite ?_ ?_
    · exact Holds.next (sound_coverGath (sound_finishRound hs))
    · refine Holds.ite ?_ ?_
      · exact sound_idle hs
      · split
        rename_i e7
        have h8 := Holds.of_eq (P := (okProd Sound anyP)) e7 (sound_cutRound hs)
        have h9 := Holds.pair1 h8
        split
        · exact Holds.next (sound_endWith h9)
        · exact Holds.next (sound_coverGath (sound_finishRound h9))
  · exact Holds.fault
theorem sound_execVoidLimit {g : ℕ} {s : State} (hs : Holds Sound s) : Holds (okNext Sound) (execVoidLimit g s) := by
  unfold execVoidLimit
  split
  · exact Holds.ite (sound_idle hs) (Holds.next (sound_endWith hs))
  · exact Holds.fault

/-! ### Sync -/

theorem sound_mbarAccess {s : State} {c : CoreId} {i : ℕ} {la : ℕ} {ok : Bool} {rel : Bool} {k : State → State} (hs : Holds
    Sound s) (hk : ∀ y0, Holds Sound y0 → Holds Sound (k y0)) : Holds Sound (mbarAccess s c i la ok rel k) := by
  unfold mbarAccess
  refine sound_limitLa ?_ ?_
  · exact hs
  · intro s1 h2
    refine sound_limit ?_ ?_
    · exact h2
    · intro s3 h4
      refine sound_limit ?_ ?_
      · exact h4
      · intro s5 h6
        refine sound_leafAccess ?_ ?_
        · exact h6
        · intro s7 h8
          apply hk
          exact h8
theorem sound_mbarSet {f : Form} {s : State} {c : CoreId} {i : ℕ} {la : ℕ} {g : Mbar → Mbar} (hs : Holds Sound s) : Holds
    Sound (mbarSet f s c i la g) := by
  unfold mbarSet
  split
  · rename_i e3
    have h4 := Holds.of_eq (P := (okOpt Sound)) e3 (sound_mbarUpdate hs)
    have h5 := Holds.un_some h4
    exact sound_complete h5
  · rename_i e7
    have h8 := Holds.of_eq (P := (okOpt Sound)) e7 (sound_mbarUpdate hs)
    exact sound_stayGrant hs
theorem sound_execMbarArrive {tb : Target} {ta : Target} {s : State} (hs : Holds Sound s) : Holds (okNext Sound)
    (execMbarArrive tb ta s) := by
  unfold execMbarArrive
  exact sound_perform hs (fun s1 h2 x3 x4 x5 x6 x7 => sound_mbarAccess h2 (fun s8 h9 => sound_mbarSet h9))
theorem sound_spawnFault {s : State} {c : CoreId} {l : Word} (hs : Holds Sound s) : Holds Sound (spawnFault s c l) := by
  unfold spawnFault
  extract_lets +onlyGivenNames v1 v2 v3
  exact sound_raiseFault hs
theorem sound_execSpawn {tb : Target} {ta : Target} {s : State} (hs : Holds Sound s) : Holds (okNext Sound) (execSpawn tb ta
    s) := by
  unfold execSpawn
  refine sound_perform ?_ ?_
  · exact hs
  · intro s1 h2 x3 x4 x5 x6 x7
    refine sound_limit ?_ ?_
    · exact h2
    · intro s8 h9
      split
      · exact sound_complete h9
      · exact Holds.ite (sound_spawnFault h9) (sound_complete (sound_State_modGath h9))
theorem sound_execMbarTest {tb : Target} {ta : Target} {s : State} (hs : Holds Sound s) : Holds (okNext Sound) (execMbarTest
    tb ta s) := by
  unfold execMbarTest
  exact sound_perform hs (fun s1 h2 x3 x4 x5 x6 x7 => sound_mbarAccess h2 (fun s8 h9 => sound_complete h9))
theorem sound_execWaitaSys {cond : WaitCond} {width : AccWidth} {tb : Target} {ta : Target} {s : State} (hs : Holds Sound s) :
    Holds (okNext Sound) (execWaitaSys cond width tb ta s) := by
  unfold execWaitaSys
  exact sound_perform hs (fun s1 h2 x3 x4 x5 x6 x7 => sound_request h2)
theorem sound_fence {f : Form} {acq : Bool} {rel : Bool} {xp : Bool} {scope : Scope} {s : State} (hs : Holds Sound s) : Holds
    (okNext Sound) (fence f acq rel xp scope s) := by
  unfold fence
  refine sound_perform ?_ ?_
  · exact hs
  · intro s1 h2 x3 x4 x5 x6 x7
    extract_lets +onlyGivenNames v8
    exact Holds.ite (sound_stayGrant h2) (Holds.ite (sound_stay h2) (sound_complete (Holds.ite (sound_State_modStrand h2) h2)))
theorem sound_execFenceAcq {ta : Target} {xp : Bool} {scope : Scope} {s : State} (hs : Holds Sound s) : Holds (okNext Sound)
    (execFenceAcq ta xp scope s) := by
  unfold execFenceAcq
  exact sound_fence hs
theorem sound_execMbarInit {tb : Target} {ta : Target} {s : State} (hs : Holds Sound s) : Holds (okNext Sound) (execMbarInit
    tb ta s) := by
  unfold execMbarInit
  exact sound_perform hs (fun s1 h2 x3 x4 x5 x6 x7 => sound_mbarAccess h2 (fun s8 h9 => sound_mbarSet h9))
theorem sound_execMbarExpect {tb : Target} {ta : Target} {s : State} (hs : Holds Sound s) : Holds (okNext Sound)
    (execMbarExpect tb ta s) := by
  unfold execMbarExpect
  exact sound_perform hs (fun s1 h2 x3 x4 x5 x6 x7 => sound_mbarAccess h2 (fun s8 h9 => sound_mbarSet h9))
theorem sound_execFenceAr {ta : Target} {xp : Bool} {scope : Scope} {s : State} (hs : Holds Sound s) : Holds (okNext Sound)
    (execFenceAr ta xp scope s) := by
  unfold execFenceAr
  exact sound_fence hs
theorem sound_execFenceRel {ta : Target} {xp : Bool} {scope : Scope} {s : State} (hs : Holds Sound s) : Holds (okNext Sound)
    (execFenceRel ta xp scope s) := by
  unfold execFenceRel
  exact sound_fence hs
theorem sound_execFenceXp {ta : Target} {scope : Scope} {s : State} (hs : Holds Sound s) : Holds (okNext Sound) (execFenceXp
    ta scope s) := by
  unfold execFenceXp
  exact sound_fence hs
theorem sound_execWaitaLeaf {cond : WaitCond} {width : AccWidth} {tb : Target} {ta : Target} {s : State} (hs : Holds Sound s)
    : Holds (okNext Sound) (execWaitaLeaf cond width tb ta s) := by
  unfold execWaitaLeaf
  refine sound_perform ?_ ?_
  · exact hs
  · intro s1 h2 x3 x4 x5 x6 x7
    refine sound_leafAccess ?_ ?_
    · exact h2
    · intro s8 h9
      extract_lets +onlyGivenNames v10
      exact Holds.ite (sound_complete h9) (sound_stay h9)
theorem sound_execMbarWait {tb : Target} {ta : Target} {s : State} (hs : Holds Sound s) : Holds (okNext Sound) (execMbarWait
    tb ta s) := by
  unfold execMbarWait
  refine sound_perform ?_ ?_
  · exact hs
  · intro s1 h2 x3 x4 x5 x6 x7
    exact sound_mbarAccess h2 (fun s8 h9 => Holds.ite (sound_complete h9) (sound_stay h9))
theorem sound_execWaitaRound {cond : WaitCond} {width : AccWidth} {tb : Target} {ta : Target} {s : State} (hs : Holds Sound s)
    : Holds (okNext Sound) (execWaitaRound cond width tb ta s) := by
  unfold execWaitaRound
  refine sound_perform ?_ ?_
  · exact hs
  · intro s1 h2 x3 x4 x5 x6 x7
    refine sound_leafAccess ?_ ?_
    · exact h2
    · intro s8 h9
      extract_lets +onlyGivenNames v10
      exact Holds.ite (sound_complete h9) (sound_sleepOn h9)
theorem sound_execWaitaDev {cond : WaitCond} {width : AccWidth} {tb : Target} {ta : Target} {s : State} (hs : Holds Sound s) :
    Holds (okNext Sound) (execWaitaDev cond width tb ta s) := by
  unfold execWaitaDev
  exact sound_perform hs (fun s1 h2 x3 x4 x5 x6 x7 => sound_request h2)
theorem sound_execKettle {tb : Target} {ta : Target} {s : State} (hs : Holds Sound s) : Holds (okNext Sound) (execKettle tb ta
    s) := by
  unfold execKettle
  refine sound_perform ?_ ?_
  · exact hs
  · intro s1 h2 x3 x4 x5 x6 x7
    refine sound_limit ?_ ?_
    · exact h2
    · intro s8 h9
      refine Holds.ite ?_ ?_
      · exact sound_stay h9
      · split
        · exact sound_complete h9
        · extract_lets +onlyGivenNames v15
          have h16 : Holds Sound v15 := sound_State_modGath h9
          clear_value v15
          exact sound_owe h16

/-! ### Moves -/

theorem sound_sendNow {s : State} {e : ℕ} {done : ℕ} {ws : List SendWrite} (hs : Holds Sound s) : Holds okLand (sendNow s e
    done ws) := by
  unfold sendNow
  split
  rename_i e4
  have h5 := Holds.of_eq (P := (okProd Sound anyP)) e4 (sound_issueNow hs)
  have h6 := Holds.pair1 h5
  refine Holds.ite ?_ ?_
  · exact Holds.landSent h6
  · extract_lets +onlyGivenNames v7
    have h8 : Holds Sound v7 := Holds.ite (sound_stallFlag h6) h6
    clear_value v7
    extract_lets +onlyGivenNames v9
    exact Holds.ite (Holds.waits h8) (Holds.landSentPart h8)
theorem sound_coverCopy {s : State} {id : ℕ} {x : Copy} (hs : Holds Sound s) : Holds (okOpt Sound) (coverCopy s id x) := by
  unfold coverCopy
  refine Holds.ite ?_ ?_
  · exact Holds.none
  · split
    rename_i e4
    have h5 := Holds.of_eq (P := (okProd Sound anyP)) e4 (sound_coverFlags hs)
    have h6 := Holds.pair1 h5
    extract_lets +onlyGivenNames v7
    exact Holds.some (Holds.keep h6)
theorem sound_Copy_close {s : State} {id : ℕ} {x : Copy} {cl : Claim} (hs : Holds Sound s) : Holds Sound (Copy.close s id x
    cl) := by
  unfold Copy.close
  refine Holds.ite ?_ ?_
  · split
    rename_i e4
    have h5 := Holds.of_eq (P := (okProd Sound anyP)) e4 (sound_imageWrite hs)
    have h6 := Holds.pair1 h5
    exact sound_payOwed h6
  · extract_lets +onlyGivenNames v7
    have h8 : Holds Sound v7 := by
      subst v7
      split
      · exact sound_State_modLeaf hs (fun x14 h15 => Holds.leafOf (Holds.leafMem h15))
      · exact sound_State_modLeaf hs (fun x21 h22 => Holds.leafOf (Holds.leafMem h22))
      · exact hs
    clear_value v7
    exact sound_payOwed h8
theorem sound_closeCopy {s : State} {id : ℕ} {x : Copy} (hs : Holds Sound s) : Holds Sound (closeCopy s id x) := by
  unfold closeCopy
  split
  · exact Holds.ite (sound_Copy_close (Holds.keep hs)) (Holds.ite hs (sound_payOwed (Holds.keep hs)))
  · exact Holds.keep hs
theorem sound_noteChan {s : State} {id : ℕ} {e : ℕ} (hs : Holds Sound s) : Holds Sound (noteChan s id e) := by
  unfold noteChan
  exact Holds.keep hs
theorem sound_notePart {s : State} {id : ℕ} {at_ : Option (Bool × ℕ)} {now : List ℕ} (hs : Holds Sound s) : Holds Sound
    (notePart s id at_ now) := by
  unfold notePart
  extract_lets +onlyGivenNames v1
  exact Holds.keep hs
theorem sound_dropCopy {s : State} {id : ℕ} (hs : Holds Sound s) : Holds Sound (dropCopy s id) := by
  unfold dropCopy
  exact sound_endAccess (Holds.keep hs)
theorem sound_copyFault {s : State} {id : ℕ} {x : Copy} {f : AccessFault} (hs : Holds Sound s) : Holds Sound (copyFault s id x
    f) := by
  unfold copyFault
  split
  · extract_lets +onlyGivenNames v4
    have h5 : Holds Sound v4 := Holds.ite (sound_dropCopy hs) (sound_endAccess hs)
    clear_value v4
    exact sound_reportAccess h5
  · extract_lets +onlyGivenNames v8
    have h9 : Holds Sound v8 := sound_endAccess hs
    clear_value v8
    extract_lets +onlyGivenNames v10 v11 v12 v13 v14 v15
    subst v15
    refine Holds.ite ?_ ?_
    · split
      rename_i e19
      have h20 := Holds.of_eq (P := (okProd anyP Sound)) e19 (sound_openRecord h9)
      have h21 := Holds.pair2 h20
      exact Holds.keep h21
    · exact sound_endWith h9
theorem sound_copyFreed {s : State} {id : ℕ} (hs : Holds Sound s) : Holds Sound (copyFreed s id) := by
  unfold copyFreed
  exact Holds.keep hs
theorem sound_copyRefuse {s : State} {id : ℕ} {x : Copy} {r : Report} (hs : Holds Sound s) : Holds Sound (copyRefuse s id x r)
    := by
  unfold copyRefuse
  extract_lets +onlyGivenNames v1
  have h2 : Holds Sound v1 := sound_dropCopy hs
  clear_value v1
  split
  · exact sound_raiseFault h2
  · exact sound_endWith h2
theorem sound_settleLanded {s : State} {id : ℕ} {x : Copy} {at_ : Option (Bool × ℕ)} {y : Landed} {k : State → State} (hs :
    Holds Sound s) (hy : Holds okLand y) (hk : ∀ y0, Holds Sound y0 → Holds Sound (k y0)) : Holds Sound (settleLanded s id x
    at_ y k) := by
  unfold settleLanded
  split
  · have h3 := Holds.un_landed hy
    refine sound_copyFreed ?_
    apply hk
    exact h3
  · have h7 := Holds.un_sent hy
    refine sound_copyFreed ?_
    apply hk
    exact sound_noteChan h7
  · have h11 := Holds.un_part hy
    exact sound_copyFreed (sound_notePart h11)
  · have h16 := Holds.un_sentPart hy
    exact sound_copyFreed (sound_notePart (sound_noteChan h16))
  · have h19 := Holds.un_waits hy
    exact h19
  · split
    · exact sound_askGrant hs
    · exact hs
  · split
    · exact sound_await hs
    · extract_lets +onlyGivenNames v33
      have h34 : Holds Sound v33 := sound_copyFault hs
      clear_value v33
      exact Holds.keep h34
  · exact sound_copyRefuse hs
theorem sound_landItem {s : State} {k : ℕ} {g : Option ℕ} {inst : ℕ} {y : Staged} (hs : Holds Sound s) : Holds okLand
    (landItem s k g inst y) := by
  unfold landItem
  split
  · rename_i e3
    have h4 := Holds.of_eq (P := (okDone Sound)) e3 (sound_stageItem hs)
    have h5 := Holds.un_done h4
    exact Holds.landed h5
  · rename_i e7
    have h8 := Holds.of_eq (P := (okDone Sound)) e7 (sound_stageItem hs)
    exact Holds.landGrant
  · rename_i e12
    have h13 := Holds.of_eq (P := (okDone Sound)) e12 (sound_stageItem hs)
    have h14 := Holds.un_turned h13
    exact Holds.landRefuse
theorem sound_writeWindow {s : State} {w : Writer} {t : Trans} {va : ℕ} {bs : List Byte} {bad : Bool} (hs : Holds Sound s) :
    Holds okLand (writeWindow s w t va bs bad) := by
  unfold writeWindow
  split
  · exact Holds.landFault
  · extract_lets +onlyGivenNames v7
    subst v7
    extract_lets +onlyGivenNames v8 v9
    refine Holds.ite ?_ ?_
    · split
      · rename_i e12
        have h13 := Holds.of_eq (P := okLand) e12 (sound_landItem hs)
        have h14 := Holds.un_landed h13
        exact Holds.landPart h14
      · exact sound_landItem hs
    · exact Holds.ite (sound_landItem hs) (sound_landItem hs)
theorem sound_Writer_refusal {w : Writer} : Holds okLand (Writer.refusal w) := by
  unfold Writer.refusal
  split
  · exact Holds.landFault
  · exact Holds.landRefuse
  · exact Holds.landGrant
theorem sound_putNow {s : State} {k : ℕ} {home : ℕ} {pa : ℕ} {bs : List Byte} {done : ℕ} {g : Option ℕ} {inst : ℕ} (hs : Holds
    Sound s) : Holds okLand (putNow s k home pa bs done g inst) := by
  unfold putNow
  extract_lets +onlyGivenNames v1
  split
  · exact Holds.landRefuse
  · exact Holds.ite Holds.landRefuse (sound_sendNow hs)
theorem sound_writeLine {s : State} {w : Writer} {va : ℕ} {bs : List Byte} {bad : Bool} (hs : Holds Sound s) : Holds okLand
    (writeLine s w va bs bad) := by
  unfold writeLine
  split
  · rename_i e3
    have h4 := Holds.of_eq (P := (okOk (okProd anyP Sound))) e3 (sound_engineTrans hs)
    exact Holds.landFault
  · rename_i e8
    have h9 := Holds.of_eq (P := (okOk (okProd anyP Sound))) e8 (sound_engineTrans hs)
    have h10 := Holds.un_ok h9
    have h11 := Holds.pair2 h10
    refine Holds.ite ?_ ?_
    · exact Holds.ite sound_Writer_refusal (sound_putNow h11)
    · split
      rename_i e15
      have h16 := Holds.of_eq (P := (okProd Sound anyP)) e15 (sound_portGate h11)
      have h17 := Holds.pair1 h16
      exact Holds.ite (Holds.waits h17) (Holds.ite (sound_writeWindow h17) (sound_landItem h17))
theorem sound_endCopy {s : State} {id : ℕ} {x : Copy} (hs : Holds Sound s) : Holds Sound (endCopy s id x) := by
  unfold endCopy
  extract_lets +onlyGivenNames v1
  refine Holds.ite ?_ ?_
  · exact sound_closeCopy hs
  · refine Holds.ite ?_ ?_
    · exact hs
    · extract_lets +onlyGivenNames v2
      exact sound_settleLanded hs (sound_writeLine hs) (fun s3 h4 => sound_closeCopy (Holds.keep h4))
theorem sound_finishCopy {s : State} {id : ℕ} {x : Copy} (hs : Holds Sound s) : Holds Sound (finishCopy s id x) := by
  unfold finishCopy
  refine Holds.ite ?_ ?_
  · exact hs
  · refine Holds.ite ?_ ?_
    · split
      · rename_i e3
        have h4 := Holds.of_eq (P := (okOpt Sound)) e3 (sound_coverCopy hs)
        have h5 := Holds.un_some h4
        exact h5
      · rename_i e7
        have h8 := Holds.of_eq (P := (okOpt Sound)) e7 (sound_coverCopy hs)
        exact Holds.ite (sound_endCopy hs) hs
    · exact sound_endCopy hs
theorem sound_foreignWrite {s : State} {g : ℕ} {n : ℕ} {la : ℕ} {bs : List Byte} {bad : Bool} (hs : Holds Sound s) : Holds
    Sound (foreignWrite s g n la bs bad) := by
  unfold foreignWrite
  refine Holds.ite ?_ ?_
  · exact sound_State_modLeaf hs (fun x1 h2 => sound_pushLeaf h2)
  · with_reducible refine Holds.setPapers ?_ ?_
    · exact hs
    · refine Holds.tmod ?_ ?_
      · intro x3 h4
        exact Holds.paper (Holds.tmod (fun x5 h6 => sound_pushLeaf h6) (Holds.paperLeaves h4))
      · exact Holds.papers hs
theorem sound_seenWindow {s : State} {g : Option ℕ} {a : Aperture} (hs : Holds Sound s) : Holds Sound (seenWindow s g a) := by
  unfold seenWindow
  split
  · refine Holds.foldl ?_ ?_
    · exact hs
    · intro s4 x5 h6
      split
      · refine Holds.ite ?_ ?_
        · split
          · rename_i e13
            have h14 := Holds.of_eq (P := (okOk Sound)) e13 (sound_apertureWrite h6)
            have h15 := Holds.un_ok h14
            exact h15
          · rename_i e18
            have h19 := Holds.of_eq (P := (okOk Sound)) e18 (sound_apertureWrite h6)
            exact h6
        · exact h6
      · exact h6
  · exact hs
theorem sound_readLine {s : State} {u : PortUser} {place : ℕ} {k : ℕ} {g : Option ℕ} {va : ℕ} {n : ℕ} {acc : ℕ} {ap : Bool}
    {aps : List Aperture} {old : LineRead} (hs : Holds Sound s) : Holds (okOk (okProd anyP Sound)) (readLine s u place k g va
    n acc ap aps old) := by
  unfold readLine
  split
  · rename_i e3
    have h4 := Holds.of_eq (P := (okOk (okProd anyP Sound))) e3 (sound_engineTrans hs)
    exact Holds.error
  · rename_i e8
    have h9 := Holds.of_eq (P := (okOk (okProd anyP Sound))) e8 (sound_engineTrans hs)
    have h10 := Holds.un_ok h9
    have h11 := Holds.pair2 h10
    split
    rename_i e15
    have h16 := Holds.of_eq (P := (okProd Sound anyP)) e15 (sound_portGate h11)
    have h17 := Holds.pair1 h16
    refine Holds.ite ?_ ?_
    · exact Holds.ok (Holds.pair Holds.any h17)
    · refine Holds.ite ?_ ?_
      · split
        · exact Holds.error
        · extract_lets +onlyGivenNames v24 v25
          have h26 : Holds Sound v25 := sound_seenWindow h17
          clear_value v25
          split
          · exact Holds.error
          · extract_lets +onlyGivenNames v33
            have h34 : Holds Sound v33 := Holds.ite (Holds.foldl h17 (fun s35 x36 h37 => sound_keepCode h37)) h17
            clear_value v33
            extract_lets +onlyGivenNames v38
            exact Holds.ok (Holds.pair Holds.any h34)
      · exact Holds.ok (Holds.pair Holds.any h17)
theorem sound_keepLine {s : State} {id : ℕ} {off : ℕ} {l : LineRead} (hs : Holds Sound s) : Holds Sound (keepLine s id off l)
    := by
  unfold keepLine
  exact Holds.keep hs
theorem sound_readSource {s : State} {id : ℕ} {x : Copy} {off : ℕ} {len : ℕ} (hs : Holds Sound s) : Holds okLand (readSource s
    id x off len) := by
  unfold readSource
  refine Holds.ite ?_ ?_
  · extract_lets +onlyGivenNames v1 v2
    exact Holds.ite Holds.landRefuse (Holds.landed (sound_keepLine hs))
  · extract_lets +onlyGivenNames v3
    split
    · rename_i e6
      have h7 := Holds.of_eq (P := (okOk (okProd anyP Sound))) e6 (sound_readLine hs)
      exact Holds.landFault
    · rename_i e10
      have h11 := Holds.of_eq (P := (okOk (okProd anyP Sound))) e10 (sound_readLine hs)
      have h12 := Holds.un_ok h11
      have h13 := Holds.pair2 h12
      exact Holds.waits h13
    · rename_i e17
      have h18 := Holds.of_eq (P := (okOk (okProd anyP Sound))) e17 (sound_readLine hs)
      have h19 := Holds.un_ok h18
      have h20 := Holds.pair2 h19
      exact Holds.ite Holds.landFault (Holds.landed (sound_keepLine h20))
theorem sound_landMbar {s : State} {c : CoreId} {mbar : ℕ} {k : ℕ} (hs : Holds Sound s) : Holds (okOpt Sound) (landMbar s c
    mbar k) := by
  unfold landMbar
  exact Holds.ite (Holds.some hs) (sound_mbarUpdate hs)
theorem sound_landMbars {s : State} {x : Copy} {a2 : List (ℕ × ℕ)} (hs : Holds Sound s) : Holds (okOpt Sound) (landMbars s x
    a2) := by
  induction a2 generalizing s x with
  | nil =>
    unfold landMbars
    exact Holds.some hs
  | cons z zs ih =>
    unfold landMbars
    refine Holds.bindOpt (P := Sound) ?_ ?_
    · exact sound_landMbar hs
    · intro s1 h2
      apply ih
      exact h2
theorem sound_withMbar {x : Copy} {ps : List (ℕ × ℕ)} {a2 : Landed} (ha2 : Holds okLand a2) : Holds okLand (withMbar x ps a2)
    := by
  unfold withMbar
  split
  · have h3 := Holds.un_landed ha2
    split
    · exact Holds.landRefuse
    · rename_i e12
      have h13 := Holds.of_eq (P := (okOpt Sound)) e12 (sound_landMbars h3)
      have h14 := Holds.un_some h13
      exact Holds.landed h14
    · rename_i e18
      have h19 := Holds.of_eq (P := (okOpt Sound)) e18 (sound_landMbars h3)
      exact Holds.landGrant
  · have h23 := Holds.un_sent ha2
    split
    · exact Holds.landRefuse
    · rename_i e32
      have h33 := Holds.of_eq (P := (okOpt Sound)) e32 (sound_landMbars h23)
      have h34 := Holds.un_some h33
      exact Holds.landSent h34
    · rename_i e38
      have h39 := Holds.of_eq (P := (okOpt Sound)) e38 (sound_landMbars h23)
      exact Holds.landGrant
  · exact ha2
theorem sound_landDevice {s : State} {id : ℕ} {x : Copy} {ps : List (ℕ × ℕ)} {bs : List Byte} (hs : Holds Sound s) : Holds
    okLand (landDevice s id x ps bs) := by
  unfold landDevice
  extract_lets +onlyGivenNames v1 v2 v3
  exact sound_withMbar (sound_writeLine hs)
theorem sound_startRefill {s : State} {id : ℕ} {x : Copy} (hs : Holds Sound s) : Holds okLand (startRefill s id x) := by
  unfold startRefill
  split
  · exact Holds.landed hs
  · split
    · exact Holds.landFault
    · extract_lets +onlyGivenNames v11 v12
      exact Holds.ite Holds.landRefuse (Holds.landed (Holds.keep hs))
theorem sound_stepRead {s : State} {id : ℕ} {x : Copy} {p : ℕ × ℕ} (hs : Holds Sound s) : Holds Sound (stepRead s id x p) := by
  unfold stepRead
  refine sound_settleLanded ?_ ?_ ?_
  · exact hs
  · exact sound_readSource hs
  · intro s1 h2
    split
    · exact Holds.ite (sound_settleLanded h2 (sound_startRefill h2) (fun s6 h7 => h7)) h2
    · exact h2
theorem sound_landLeaf {s : State} {c : CoreId} {la : ℕ} {bs : List Byte} {bad : Bool} (hs : Holds Sound s) : Holds (okOpt
    Sound) (landLeaf s c la bs bad) := by
  unfold landLeaf
  split
  · rename_i x1 _ e3
    have h4 := Holds.of_eq (P := (okOpt Sound)) e3 (sound_padWrite hs)
    have h5 := Holds.un_some h4
    refine Holds.some ?_
    split
    · exact sound_State_modLeaf h5 (fun x10 h11 => sound_spoilLines h11)
    · exact h5
  · rename_i e17
    have h18 := Holds.of_eq (P := (okOpt Sound)) e17 (sound_padWrite hs)
    exact h18
theorem sound_landBoth {s : State} {c : CoreId} {la : ℕ} {bs : List Byte} {bad : Bool} {owner : CoreId} {mbar : ℕ} {k : ℕ} (hs
    : Holds Sound s) : Holds okLand (landBoth s c la bs bad owner mbar k) := by
  unfold landBoth
  split
  · rename_i e2
    have h3 := Holds.of_eq (P := (okOpt Sound)) e2 (sound_landLeaf hs)
    exact Holds.landGrant
  · rename_i e6
    have h7 := Holds.of_eq (P := (okOpt Sound)) e6 (sound_landLeaf hs)
    have h8 := Holds.un_some h7
    split
    · exact Holds.landRefuse
    · rename_i e17
      have h18 := Holds.of_eq (P := (okOpt Sound)) e17 (sound_landMbar h8)
      have h19 := Holds.un_some h18
      exact Holds.landed h19
    · rename_i e23
      have h24 := Holds.of_eq (P := (okOpt Sound)) e23 (sound_landMbar h8)
      exact Holds.landGrant
theorem sound_landSend {s : State} {x : Copy} {off : ℕ} {bs : List Byte} {bad : Bool} (hs : Holds Sound s) : Holds okLand
    (landSend s x off bs bad) := by
  unfold landSend
  extract_lets +onlyGivenNames v1 v2
  split
  · refine Holds.ite ?_ ?_
    · exact Holds.landRefuse
    · extract_lets +onlyGivenNames v7
      exact sound_withMbar (sound_sendNow hs)
  · extract_lets +onlyGivenNames v10
    split
    · exact sound_landBoth hs
    · exact sound_withMbar (Holds.landed (sound_foreignWrite hs))
theorem sound_landWith {s : State} {id : ℕ} {x : Copy} {ps : List (ℕ × ℕ)} {bs : List Byte} (hs : Holds Sound s) : Holds
    okLand (landWith s id x ps bs) := by
  unfold landWith
  extract_lets +onlyGivenNames v1 v2
  split
  · exact sound_landDevice hs
  · exact sound_landDevice hs
  · exact sound_landDevice hs
  · exact sound_landSend hs
  · split
    · exact sound_landBoth hs
    · exact Holds.landed hs
theorem sound_stepLand {s : State} {id : ℕ} {x : Copy} {p : ℕ × ℕ} (hs : Holds Sound s) : Holds Sound (stepLand s id x p) := by
  unfold stepLand
  extract_lets +onlyGivenNames v1
  split
  · exact hs
  · exact sound_settleLanded hs (sound_landWith hs) (fun s7 h8 => Holds.keep h8)
theorem sound_execMoverLineLand {copy : ℕ} {line : ℕ} {s : State} (hs : Holds Sound s) : Holds (okNext Sound)
    (execMoverLineLand copy line s) := by
  unfold execMoverLineLand
  split
  · exact Holds.fault
  · refine Holds.ite ?_ ?_
    · exact sound_idle hs
    · split
      · exact Holds.next (sound_finishCopy hs)
      · split
        · exact sound_idle hs
        · refine Holds.ite ?_ ?_
          · exact sound_idle hs
          · refine Holds.ite ?_ ?_
            · exact Holds.ite (Holds.next (sound_stepRead hs)) (sound_idle hs)
            · exact Holds.ite (Holds.next (sound_stepLand hs)) (sound_idle hs)

/-! ### Copies -/

theorem sound_otherLeaf {s : State} {k : ℕ} {n : ℕ} (hs : Holds Sound s) : Holds (okOpt (okProd anyP okLeaf)) (otherLeaf s k
    n) := by
  unfold otherLeaf
  split
  · exact Holds.some (Holds.pair Holds.any (sound_State_leaf hs))
  · refine Holds.findSome (P := (okProd anyP okPaper)) ?_ ?_
    · exact Holds.papers hs
    · intro x6 h7
      refine Holds.ite ?_ ?_
      · refine Holds.mapOpt (P := okLeaf) ?_ ?_
        · exact Holds.tget (Holds.paperLeaves (Holds.right (P := anyP) (Q := okPaper) h7))
        · intro x8 h9
          exact Holds.pair Holds.any h9
      · exact Holds.none
theorem sound_translateFor {s : State} {c : CoreId} {i : ℕ} {va : ℕ} {acc : ℕ} {k : State → Trans → State} (hs : Holds Sound
    s) (hk : ∀ y0, Holds Sound y0 → ∀ y1, Holds Sound (k y0 y1)) : Holds Sound (translateFor s c i va acc k) := by
  unfold translateFor
  extract_lets +onlyGivenNames v1 v2
  split
  · rename_i e6
    have h7 := Holds.of_eq (P := (okOk (okProd anyP Sound))) e6 (sound_engineTrans hs)
    have h8 := Holds.un_ok h7
    have h9 := Holds.pair2 h8
    apply hk
    exact sound_State_modSlot h9
  · rename_i e12
    have h13 := Holds.of_eq (P := (okOk (okProd anyP Sound))) e12 (sound_engineTrans hs)
    split
    · exact sound_await (sound_stay hs)
    · exact sound_reportAccess (sound_endAccess (sound_stay hs))
theorem sound_translateDone {s : State} {c : CoreId} {i : ℕ} {va : ℕ} {k : State → State} (hs : Holds Sound s) (hk : ∀ y0,
    Holds Sound y0 → Holds Sound (k y0)) : Holds Sound (translateDone s c i va k) := by
  unfold translateDone
  refine Holds.ite ?_ ?_
  · apply hk
    exact hs
  · refine sound_translateFor ?_ ?_
    · exact hs
    · intro s1 h2 x3
      refine Holds.ite ?_ ?_
      · exact sound_reportAccess h2
      · apply hk
        exact h2
theorem sound_evictStart {s : State} {c : CoreId} {i : ℕ} (hs : Holds Sound s) : Holds Sound (evictStart s c i) := by
  unfold evictStart
  extract_lets +onlyGivenNames v1 v2
  refine sound_translateFor ?_ ?_
  · exact hs
  · intro s3 h4 x5
    exact Holds.ite (sound_reportAccess h4) (sound_translateDone h4 (fun s6 h7 => sound_State_modSlot (sound_stay h7)))
theorem sound_acceptCopy {s : State} {c : CoreId} {i : ℕ} {x : Copy} (hs : Holds Sound s) : Holds Sound (acceptCopy s c i x)
    := by
  unfold acceptCopy
  split
  rename_i e4
  have h5 := Holds.of_eq (P := (okProd anyP Sound)) e4 (sound_State_fresh hs)
  have h6 := Holds.pair2 h5
  extract_lets +onlyGivenNames v7
  exact sound_owe (Holds.keep h6)
theorem sound_readRecord {s : State} {c : CoreId} {i : ℕ} {la : ℕ} {n : ℕ} {k : State → List Byte → State} (hs : Holds Sound
    s) (hk : ∀ y0, Holds Sound y0 → ∀ y1, Holds Sound (k y0 y1)) : Holds Sound (readRecord s c i la n k) := by
  unfold readRecord
  refine sound_leafAccess ?_ ?_
  · exact hs
  · intro s1 h2
    apply hk
    exact h2
theorem sound_kvopFault {s : State} {c : CoreId} {la : ℕ} {off : ℕ} (hs : Holds Sound s) : Holds Sound (kvopFault s c la off)
    := by
  unfold kvopFault
  exact sound_raiseFault hs
theorem sound_execKvopStat {tb : Target} {ta : Target} {s : State} (hs : Holds Sound s) : Holds (okNext Sound) (execKvopStat
    tb ta s) := by
  unfold execKvopStat
  refine sound_perform ?_ ?_
  · exact hs
  · intro s1 h2 x3 x4 x5 x6 x7
    refine sound_readRecord ?_ ?_
    · exact h2
    · intro s8 h9 x10
      extract_lets +onlyGivenNames v11
      exact Holds.ite (sound_kvopFault h9) (sound_request h9)
theorem sound_refuse {s : State} {c : CoreId} {r : Report} (hs : Holds Sound s) : Holds Sound (refuse s c r) := by
  unfold refuse
  exact sound_raiseFault hs
theorem sound_flagSend {s : State} {c : CoreId} {i : ℕ} {f : Form} (hs : Holds Sound s) : Holds Sound (flagSend s c i f) := by
  unfold flagSend
  extract_lets +onlyGivenNames v1 v2 v3
  refine Holds.ite ?_ ?_
  · exact sound_stayGrant hs
  · refine Holds.ite ?_ ?_
    · exact sound_refuse hs
    · refine Holds.ite ?_ ?_
      · exact sound_stay hs
      · extract_lets +onlyGivenNames v4
        have h5 : Holds Sound v4 := sound_issueFlag hs
        clear_value v4
        exact sound_complete h5
theorem sound_refuseLa {s : State} {c : CoreId} {acc : ℕ} {la : ℕ} {d : ℕ} (hs : Holds Sound s) : Holds Sound (refuseLa s c
    acc la d) := by
  unfold refuseLa
  exact sound_raiseFault hs
theorem sound_flagStart {s : State} {c : CoreId} {i : ℕ} (hs : Holds Sound s) : Holds Sound (flagStart s c i) := by
  unfold flagStart
  extract_lets +onlyGivenNames v1 v2 v3 v4 v5
  refine sound_limit ?_ ?_
  · exact hs
  · intro s6 h7
    refine Holds.ite ?_ ?_
    · exact sound_refuseLa h7
    · refine Holds.ite ?_ ?_
      · exact sound_refuse h7
      · refine Holds.ite ?_ ?_
        · exact sound_refuse h7
        · extract_lets +onlyGivenNames v8
          subst v8
          refine Holds.ite ?_ ?_
          · beta_reduce
            exact sound_translateDone h7 (fun s9 h10 => sound_State_modSlot (sound_stay h10))
          · refine sound_translateFor ?_ ?_
            · exact h7
            · intro s11 h12 x13
              refine Holds.ite ?_ ?_
              · exact sound_refuse h12
              · beta_reduce
                exact sound_translateDone h12 (fun s14 h15 => sound_State_modSlot (sound_stay h15))
theorem sound_flagGo {s : State} {c : CoreId} {i : ℕ} {f : Form} (hs : Holds Sound s) : Holds Sound (flagGo s c i f) := by
  unfold flagGo
  extract_lets +onlyGivenNames v1
  have h2 : Holds Sound v1 := Holds.ite (sound_flagStart hs) hs
  clear_value v1
  exact Holds.ite (sound_flagSend h2) h2
theorem sound_massSend {s : State} {c : CoreId} {i : ℕ} {f : Form} (hs : Holds Sound s) : Holds Sound (massSend s c i f) := by
  unfold massSend
  extract_lets +onlyGivenNames v1 v2
  refine Holds.ite ?_ ?_
  · exact sound_stay hs
  · refine sound_translateFor ?_ ?_
    · exact hs
    · intro s3 h4 x5
      split
      · rename_i e8
        have h9 := Holds.of_eq (P := (okDone Sound)) e8 (sound_stageAll h4)
        have h10 := Holds.un_done h9
        exact sound_complete h10
      · rename_i e12
        have h13 := Holds.of_eq (P := (okDone Sound)) e12 (sound_stageAll h4)
        exact sound_stayGrant h4
      · rename_i e17
        have h18 := Holds.of_eq (P := (okDone Sound)) e17 (sound_stageAll h4)
        have h19 := Holds.un_turned h18
        exact sound_refuse h19
theorem sound_massRead {s : State} {c : CoreId} {i : ℕ} {f : Form} (hs : Holds Sound s) : Holds Sound (massRead s c i f) := by
  unfold massRead
  extract_lets +onlyGivenNames v1
  refine Holds.ite ?_ ?_
  · exact sound_massSend hs
  · extract_lets +onlyGivenNames v2
    refine sound_leafAccess ?_ ?_
    · exact hs
    · intro s3 h4
      extract_lets +onlyGivenNames v5
      have h6 : Holds Sound v5 := sound_State_modSlot (sound_stay h4)
      clear_value v5
      exact Holds.ite (sound_massSend h6) h6
theorem sound_evictSend {s : State} {c : CoreId} {i : ℕ} (hs : Holds Sound s) : Holds Sound (evictSend s c i) := by
  unfold evictSend
  extract_lets +onlyGivenNames v1
  refine Holds.ite ?_ ?_
  · exact sound_stayGrant hs
  · extract_lets +onlyGivenNames v2 v3 v4
    exact sound_owe (Holds.keep hs)
theorem sound_deviceCopy {s : State} {c : CoreId} {i : ℕ} {kind : ℕ} {dev : ℕ} {la : ℕ} {len : ℕ} {sel : ℕ} {dval : ℕ} {done :
    ℕ} {acc : ℕ} {ok : Bool} {x : Copy} (hs : Holds Sound s) : Holds Sound (deviceCopy s c i kind dev la len sel dval done acc
    ok x) := by
  unfold deviceCopy
  refine sound_limit ?_ ?_
  · exact hs
  · intro s1 h2
    split
    · exact sound_refuseLa h2
    · exact Holds.ite (sound_refuseLa h2) (sound_acceptCopy h2)
theorem sound_execCpLd {tb : Target} {ta : Target} {s : State} (hs : Holds Sound s) : Holds (okNext Sound) (execCpLd tb ta s)
    := by
  unfold execCpLd
  refine sound_perform ?_ ?_
  · exact hs
  · intro s1 h2 x3 x4 x5 x6 x7
    refine sound_readRecord ?_ ?_
    · exact h2
    · intro s8 h9 x10
      split
      exact sound_deviceCopy h9
theorem sound_latchRecord {s : State} {c : CoreId} {i : ℕ} {bs : List Byte} (hs : Holds Sound s) : Holds Sound (latchRecord s
    c i bs) := by
  unfold latchRecord
  exact sound_State_modSlot (sound_stay hs)
theorem sound_execKvopMass {tb : Target} {ta : Target} {s : State} (hs : Holds Sound s) : Holds (okNext Sound) (execKvopMass
    tb ta s) := by
  unfold execKvopMass
  refine sound_perform ?_ ?_
  · exact hs
  · intro s1 h2 x3 x4 x5 x6 x7
    refine Holds.ite ?_ ?_
    · exact sound_massRead h2
    · refine sound_readRecord ?_ ?_
      · exact h2
      · intro s8 h9 x10
        extract_lets +onlyGivenNames v11
        split
        · exact sound_kvopFault h9
        · exact sound_massRead (sound_latchRecord h9)
theorem sound_refuseAt {s : State} {c : CoreId} {n : ℕ} {la : ℕ} {d : ℕ} (hs : Holds Sound s) : Holds Sound (refuseAt s c n la
    d) := by
  unfold refuseAt
  extract_lets +onlyGivenNames v1 v2
  exact sound_raiseFault hs
theorem sound_sendChecked {s : State} {c : CoreId} {i : ℕ} {src : ℕ} {dst : ℕ} {len : ℕ} {sel : ℕ} {dval : ℕ} {done : ℕ} (hs :
    Holds Sound s) : Holds Sound (sendChecked s c i src dst len sel dval done) := by
  unfold sendChecked
  extract_lets +onlyGivenNames v1
  refine Holds.ite ?_ ?_
  · exact sound_refuse hs
  · refine Holds.ite ?_ ?_
    · exact sound_refuse hs
    · refine Holds.ite ?_ ?_
      · exact sound_refuseLa hs
      · split
        · exact Holds.ite (sound_refuseAt hs) (sound_refuseLa hs)
        · refine Holds.ite ?_ ?_
          · exact sound_stayGrant hs
          · refine Holds.ite ?_ ?_
            · exact sound_refuse hs
            · extract_lets +onlyGivenNames v7
              exact sound_acceptCopy hs
theorem sound_execCpFib {tb : Target} {ta : Target} {s : State} (hs : Holds Sound s) : Holds (okNext Sound) (execCpFib tb ta
    s) := by
  unfold execCpFib
  refine sound_perform ?_ ?_
  · exact hs
  · intro s1 h2 x3 x4 x5 x6 x7
    refine sound_readRecord ?_ ?_
    · exact h2
    · intro s8 h9 x10
      extract_lets +onlyGivenNames v11 v12 v13 v14 v15 v16 v17 v18
      refine sound_limit ?_ ?_
      · exact h9
      · intro s19 h20
        split
        · exact sound_refuseLa h20
        · exact sound_refuseLa h20
        · refine Holds.ite ?_ ?_
          · exact sound_refuseLa h20
          · extract_lets +onlyGivenNames v34
            exact sound_acceptCopy h20
theorem sound_execCpMc {tb : Target} {ta : Target} {s : State} (hs : Holds Sound s) : Holds (okNext Sound) (execCpMc tb ta s)
    := by
  unfold execCpMc
  refine sound_perform ?_ ?_
  · exact hs
  · intro s1 h2 x3 x4 x5 x6 x7
    refine sound_readRecord ?_ ?_
    · exact h2
    · intro s8 h9 x10
      split
      refine sound_limit ?_ ?_
      · exact h9
      · intro s19 h20
        split
        · exact sound_refuseLa h20
        · split
          · exact sound_refuseAt h20
          · refine Holds.ite ?_ ?_
            · exact sound_refuseLa h20
            · extract_lets +onlyGivenNames v32
              exact sound_acceptCopy h20
theorem sound_execFlag {tb : Target} {ta : Target} {s : State} (hs : Holds Sound s) : Holds (okNext Sound) (execFlag tb ta s)
    := by
  unfold execFlag
  refine sound_perform ?_ ?_
  · exact hs
  · intro s1 h2 x3 x4 x5 x6 x7
    exact Holds.ite (sound_readRecord h2 (fun s8 h9 x10 => sound_flagGo (sound_latchRecord h9))) (sound_flagGo h2)
theorem sound_evictGo {s : State} {c : CoreId} {i : ℕ} (hs : Holds Sound s) : Holds Sound (evictGo s c i) := by
  unfold evictGo
  extract_lets +onlyGivenNames v1
  have h2 : Holds Sound v1 := Holds.ite (sound_evictStart hs) hs
  clear_value v1
  exact Holds.ite (sound_evictSend h2) h2
theorem sound_execCpSend {tb : Target} {ta : Target} {s : State} (hs : Holds Sound s) : Holds (okNext Sound) (execCpSend tb ta
    s) := by
  unfold execCpSend
  refine sound_perform ?_ ?_
  · exact hs
  · intro s1 h2 x3 x4 x5 x6 x7
    refine sound_readRecord ?_ ?_
    · exact h2
    · intro s8 h9 x10
      split
      refine sound_limit ?_ ?_
      · exact h9
      · intro s19 h20
        split
        · exact sound_refuseLa h20
        · exact Holds.ite (sound_refuseLa h20) (sound_sendChecked h20)
theorem sound_execKvopEvict {tb : Target} {ta : Target} {s : State} (hs : Holds Sound s) : Holds (okNext Sound) (execKvopEvict
    tb ta s) := by
  unfold execKvopEvict
  refine sound_perform ?_ ?_
  · exact hs
  · intro s1 h2 x3 x4 x5 x6 x7
    refine Holds.ite ?_ ?_
    · exact sound_evictGo h2
    · refine sound_readRecord ?_ ?_
      · exact h2
      · intro s8 h9 x10
        extract_lets +onlyGivenNames v11 v12
        split
        · exact sound_kvopFault h9
        · exact sound_evictGo (sound_latchRecord h9)
theorem sound_execCpSt {tb : Target} {ta : Target} {s : State} (hs : Holds Sound s) : Holds (okNext Sound) (execCpSt tb ta s)
    := by
  unfold execCpSt
  refine sound_perform ?_ ?_
  · exact hs
  · intro s1 h2 x3 x4 x5 x6 x7
    refine sound_readRecord ?_ ?_
    · exact h2
    · intro s8 h9 x10
      split
      exact sound_deviceCopy h9

end Sys2Proof.Machine
end

