-- ==== Sys2Proof/Laws/SoundUnits.lean ====
section
/-!
SUPPORT. The functions of Flezal, Floating, Integer, Streams, FlowUnits, Scanners keep what `State.sound` says, one lemma per function.
-/

set_option Elab.async false

namespace Sys2Proof.Machine

/-! ### Flezal -/

theorem sound_arriveAt {s : State} {k : ℕ} {pa : ℕ} {n : ℕ} (hs : Holds Sound s) : Holds Sound (arriveAt s k pa n) := by
  unfold arriveAt
  extract_lets +onlyGivenNames v1 v2
  split
  exact sound_portCharge hs
theorem sound_performLoad {s : State} {k : ℕ} {p : Packet} (hs : Holds Sound s) : Holds Sound (performLoad s k p) := by
  unfold performLoad
  extract_lets +onlyGivenNames v1 v2
  split
  · exact sound_writeRecord hs
  · exact Holds.ite (sound_writeRecord hs) (sound_queuePacket (sound_arriveAt hs))
theorem sound_runLoads {s : State} {id : ℕ} (hs : Holds Sound s) : Holds Sound (runLoads s id) := by
  unfold runLoads
  split
  · exact hs
  · split
    exact Holds.foldl (Holds.keep hs) (fun s10 x11 h12 => sound_performLoad h12)
theorem sound_performPush {s : State} {k : ℕ} {p : Packet} (hs : Holds Sound s) : Holds Sound (performPush s k p) := by
  unfold performPush
  extract_lets +onlyGivenNames v1 v2 v3 v4
  have h5 : Holds (okOpt (okProd anyP okLeaf)) v4 := Holds.filterOpt (sound_otherLeaf hs)
  clear_value v4
  split
  · have h9 := Holds.un_some h5
    have h10 := Holds.pair2 h9
    exact sound_foreignWrite hs
  · exact sound_writeRecord hs
theorem sound_performWrite {s : State} {k : ℕ} {p : Packet} (hs : Holds Sound s) : Holds Sound (performWrite s k p) := by
  unfold performWrite
  extract_lets +onlyGivenNames v1
  split
  · split
    · exact sound_writeRecord hs
    · exact sound_hbmWrite (sound_arriveAt hs)
  · extract_lets +onlyGivenNames v11
    split
    · exact sound_writeRecord hs
    · exact Holds.ite (sound_writeRecord hs) (Holds.right (P := anyP) (Q := Sound) (sound_hbmAtomic (sound_arriveAt hs)))
  · exact sound_performPush hs
theorem sound_runHeld {id : ℕ} {a1 : ℕ} {a2 : State} (ha2 : Holds Sound a2) : Holds Sound (runHeld id a1 a2) := by
  induction a1 generalizing id a2 with
  | zero =>
    unfold runHeld
    exact ha2
  | succ k ih =>
    unfold runHeld
    split
    · exact ha2
    · split
      · exact ha2
      · extract_lets +onlyGivenNames v11
        have h12 : Holds Sound v11 := sound_performWrite ha2
        clear_value v11
        extract_lets +onlyGivenNames v13
        apply ih
        exact Holds.keep h12
theorem sound_countedArrival {s : State} {id : ℕ} {r : Receiver} {p : Packet} (hs : Holds Sound s) : Holds Sound
    (countedArrival s id r p) := by
  unfold countedArrival
  extract_lets +onlyGivenNames v1 v2
  refine Holds.ite ?_ ?_
  · refine Holds.ite ?_ ?_
    · exact hs
    · extract_lets +onlyGivenNames v3 v4
      exact sound_runLoads (sound_runHeld (Holds.keep hs))
  · exact Holds.ite hs (sound_writeRecord hs)
theorem sound_execArrival {s : State} {p : Packet} {kind : PacketKind} (hs : Holds Sound s) : Holds (okNext Sound)
    (execArrival s p kind) := by
  unfold execArrival
  split
  · exact Holds.ite (sound_idle hs) (Holds.next (sound_countedArrival hs))
  · exact sound_idle hs
theorem sound_rereadBack {s : State} {r : Reread} {v : ℕ} (hs : Holds Sound s) : Holds Sound (rereadBack s r v) := by
  unfold rereadBack
  split
  · rename_i x1 _ _ _
    split
    · with_reducible refine Holds.setPapers ?_ ?_
      · exact hs
      · refine Holds.tmod ?_ ?_
        · intro x8 h9
          exact Holds.paper (Holds.tmod (fun x10 h11 => sound_rereadLeaf h11) (Holds.paperLeaves h9))
        · exact Holds.papers hs
    · exact Holds.ite (sound_State_modLeaf hs (fun x14 h15 => sound_rereadLeaf h15)) hs
  · exact sound_State_modStrand hs
theorem sound_replayOne {s : State} {e : Sender} {r : Replay} (hs : Holds Sound s) : Holds (okOpt Sound) (replayOne s e r) := by
  unfold replayOne
  refine Holds.ite ?_ ?_
  · exact Holds.none
  · extract_lets +onlyGivenNames v1
    exact Holds.some (sound_queuePacket hs)
theorem sound_replayRun {id : ℕ} {e : Sender} {a2 : List Replay} {a3 : State} (ha3 : Holds Sound a3) : Holds Sound (replayRun
    id e a2 a3) := by
  induction a2 generalizing id e a3 with
  | nil =>
    unfold replayRun
    exact ha3
  | cons z zs ih =>
    unfold replayRun
    refine Holds.ite ?_ ?_
    · exact sound_breakSender (sound_endWith ha3)
    · split
      · rename_i e3
        have h4 := Holds.of_eq (P := (okOpt Sound)) e3 (sound_replayOne ha3)
        have h5 := Holds.un_some h4
        apply ih
        exact h5
      · rename_i e7
        have h8 := Holds.of_eq (P := (okOpt Sound)) e7 (sound_replayOne ha3)
        exact sound_breakSender ha3
theorem sound_execResendArrival {p : Packet} {s : State} (hs : Holds Sound s) : Holds (okNext Sound) (execResendArrival p s)
    := by
  unfold execResendArrival
  split
  · exact sound_idle hs
  · refine Holds.ite ?_ ?_
    · exact sound_idle hs
    · extract_lets +onlyGivenNames v7
      exact Holds.next (sound_replayRun hs)
theorem sound_execFlagComplete {receiver : ℕ} {s : State} (hs : Holds Sound s) : Holds (okNext Sound) (execFlagComplete
    receiver s) := by
  unfold execFlagComplete
  split
  · exact Holds.fault
  · split
    · exact sound_idle hs
    · refine Holds.ite ?_ ?_
      · exact sound_idle hs
      · extract_lets +onlyGivenNames v11 v12
        have h13 : Holds Sound v12 := by
          subst v12
          refine Holds.ite ?_ ?_
          · exact hs
          · split
            · exact sound_writeRecord hs
            · exact sound_hbmWrite (sound_arriveAt hs)
        clear_value v12
        extract_lets +onlyGivenNames v19
        exact Holds.next (sound_queuePacket (Holds.keep h13))
theorem sound_execRatomArrival {p : Packet} {s : State} (hs : Holds Sound s) : Holds (okNext Sound) (execRatomArrival p s) := by
  unfold execRatomArrival
  exact sound_execArrival hs
theorem sound_execTailWriteTimeout {sender : ℕ} {s : State} (hs : Holds Sound s) : Holds (okNext Sound) (execTailWriteTimeout
    sender s) := by
  unfold execTailWriteTimeout
  split
  · exact Holds.fault
  · exact Holds.ite (sound_idle hs) (Holds.next (sound_windowFlag hs))
theorem sound_rereadTimer {s : State} {id : ℕ} {r : Reread} (hs : Holds Sound s) : Holds Sound (rereadTimer s id r) := by
  unfold rereadTimer
  split
  · exact sound_failReread (Holds.keep hs)
  · extract_lets +onlyGivenNames v6
    refine Holds.ite ?_ ?_
    · exact sound_failReread (Holds.keep hs)
    · extract_lets +onlyGivenNames v7
      have h8 : Holds Sound v7 := sound_writeRecord (Holds.keep hs)
      clear_value v7
      exact sound_queuePacket h8
theorem sound_execRloadTimerExpiry {req : ℕ} {s : State} (hs : Holds Sound s) : Holds (okNext Sound) (execRloadTimerExpiry req
    s) := by
  unfold execRloadTimerExpiry
  split
  · split
    · exact Holds.next (sound_rereadTimer hs)
    · exact Holds.fault
  · split
    · refine Holds.ite ?_ ?_
      · exact sound_idle hs
      · extract_lets +onlyGivenNames v17 v18
        refine Holds.ite ?_ ?_
        · exact Holds.next (sound_portFault hs)
        · extract_lets +onlyGivenNames v19
          have h20 : Holds Sound v19 := sound_writeRecord (sound_setReq hs)
          clear_value v19
          exact Holds.next (sound_queuePacket h20)
    · exact Holds.ite (sound_idle hs) (Holds.next (sound_portFault hs))
    · exact sound_idle hs
theorem sound_execChannelAllocate {spec : ChannelSpec} {s : State} (hs : Holds Sound s) : Holds (okNext Sound)
    (execChannelAllocate spec s) := by
  unfold execChannelAllocate
  split
  · extract_lets +onlyGivenNames v7 v8
    have h9 : Holds Sound v8 := Holds.keep hs
    clear_value v8
    exact Holds.next (sound_State_modContext h9)
  · exact Holds.next (Holds.keep hs)
theorem sound_execPutArrival {p : Packet} {s : State} (hs : Holds Sound s) : Holds (okNext Sound) (execPutArrival p s) := by
  unfold execPutArrival
  exact sound_execArrival hs
theorem sound_execGapTimerExpiry {receiver : ℕ} {s : State} (hs : Holds Sound s) : Holds (okNext Sound) (execGapTimerExpiry
    receiver s) := by
  unfold execGapTimerExpiry
  split
  · exact Holds.fault
  · refine Holds.ite ?_ ?_
    · exact sound_idle hs
    · extract_lets +onlyGivenNames v6 v7
      have h8 : Holds Sound v7 := sound_writeRecord (Holds.keep hs)
      clear_value v7
      extract_lets +onlyGivenNames v9
      have h10 : Holds Sound v9 := Holds.foldl h8 (fun s11 x12 h13 => sound_queuePacket h13)
      clear_value v9
      exact Holds.next (Holds.ite (sound_breakReceiver h10) h10)
theorem sound_execRdataArrival {p : Packet} {s : State} (hs : Holds Sound s) : Holds (okNext Sound) (execRdataArrival p s) := by
  unfold execRdataArrival
  split
  · exact Holds.ite (sound_idle hs) (Holds.next (sound_readBack hs))
  · split
    · exact Holds.ite (sound_idle hs) (Holds.next (sound_rereadBack (Holds.keep hs)))
    · exact sound_idle hs
theorem sound_doneWrite {s : State} {id : ℕ} {f : OutFlag} (hs : Holds Sound s) : Holds (okOk Sound) (doneWrite s id f) := by
  unfold doneWrite
  extract_lets +onlyGivenNames v1
  refine Holds.ite ?_ ?_
  · exact Holds.ok hs
  · split
    · rename_i e4
      have h5 := Holds.of_eq (P := (okOk (okProd anyP Sound))) e4 (sound_engineTrans hs)
      exact Holds.error
    · rename_i e9
      have h10 := Holds.of_eq (P := (okOk (okProd anyP Sound))) e9 (sound_engineTrans hs)
      have h11 := Holds.un_ok h10
      have h12 := Holds.pair2 h11
      refine Holds.ite ?_ ?_
      · exact Holds.error
      · split
        · rename_i e15
          have h16 := Holds.of_eq (P := (okOk Sound)) e15 (sound_allTurns h12)
          exact h16
        · rename_i e19
          have h20 := Holds.of_eq (P := (okOk Sound)) e19 (sound_allTurns h12)
          have h21 := Holds.un_ok h20
          exact Holds.ok (sound_hbmWrite h21)
theorem sound_doneFails {s : State} {id : ℕ} {f : OutFlag} {r : Report} (hs : Holds Sound s) : Holds Sound (doneFails s id f
    r) := by
  unfold doneFails
  extract_lets +onlyGivenNames v1
  have h2 : Holds Sound v1 := sound_endAccess hs
  clear_value v1
  exact Holds.ite (sound_endWith h2) (sound_writeRecord h2)
theorem sound_execPackageLost {pkg : Byte} {s : State} (hs : Holds Sound s) : Holds (okNext Sound) (execPackageLost pkg s) := by
  unfold execPackageLost
  extract_lets +onlyGivenNames v1 v2
  have h3 : Holds Sound v2 := Holds.foldl hs (fun s4 x5 h6 => Holds.ite (sound_breakSender h6) h6)
  clear_value v2
  extract_lets +onlyGivenNames v7
  have h8 : Holds Sound v7 := Holds.foldl h3 (fun s9 x10 h11 => Holds.ite (sound_breakReceiver h11) h11)
  clear_value v7
  exact Holds.next (sound_writeRecord h8)
theorem sound_execFlezalLinkDown {fp : Fin 16} {s : State} (hs : Holds Sound s) : Holds (okNext Sound) (execFlezalLinkDown fp
    s) := by
  unfold execFlezalLinkDown
  extract_lets +onlyGivenNames v1 v2
  exact Holds.ite (sound_idle hs) (Holds.next (sound_writeRecord (Holds.keep hs)))
theorem sound_doneArrive {s : State} {f : OutFlag} (hs : Holds Sound s) : Holds (okOpt Sound) (doneArrive s f) := by
  unfold doneArrive
  extract_lets +onlyGivenNames v1
  refine Holds.ite ?_ ?_
  · exact Holds.some hs
  · split
    · exact Holds.ite (sound_mbarUpdate hs) (Holds.some (sound_paperArrive hs))
    · exact sound_mbarUpdate hs
    · exact Holds.some hs
theorem sound_performDone {s : State} {id : ℕ} {f : OutFlag} (hs : Holds Sound s) : Holds (okProd Sound anyP) (performDone s
    id f) := by
  unfold performDone
  extract_lets +onlyGivenNames v1
  refine Holds.ite ?_ ?_
  · exact Holds.pair hs Holds.any
  · split
    · rename_i e4
      have h5 := Holds.of_eq (P := (okOk Sound)) e4 (sound_doneWrite hs)
      split
      · exact Holds.pair (sound_await hs) Holds.any
      · exact Holds.pair (sound_doneFails hs) Holds.any
    · rename_i e13
      have h14 := Holds.of_eq (P := (okOk Sound)) e13 (sound_doneWrite hs)
      have h15 := Holds.un_ok h14
      split
      · exact Holds.pair (sound_doneFails h15) Holds.any
      · rename_i e26
        have h27 := Holds.of_eq (P := (okOpt Sound)) e26 (sound_doneArrive h15)
        have h28 := Holds.un_some h27
        exact Holds.pair (sound_endAccess h28) Holds.any
      · rename_i e34 _
        have h36 := Holds.of_eq (P := (okOpt Sound)) e34 (sound_doneArrive h15)
        exact Holds.pair (sound_askGrant hs) Holds.any
      · rename_i e41 _
        have h43 := Holds.of_eq (P := (okOpt Sound)) e41 (sound_doneArrive h15)
        exact Holds.pair hs Holds.any
theorem sound_runDones {s : State} {id : ℕ} {a2 : List OutFlag} (hs : Holds Sound s) : Holds Sound (runDones s id a2) := by
  induction a2 generalizing s id with
  | nil =>
    unfold runDones
    exact sound_State_modSender hs
  | cons z zs ih =>
    unfold runDones
    split
    · rename_i e3
      have h4 := Holds.of_eq (P := (okProd Sound anyP)) e3 (sound_performDone hs)
      have h5 := Holds.pair1 h4
      apply ih
      exact h5
    · rename_i e8
      have h9 := Holds.of_eq (P := (okProd Sound anyP)) e8 (sound_performDone hs)
      have h10 := Holds.pair1 h9
      exact sound_State_modSender h10
theorem sound_execFlagdoneArrival {p : Packet} {s : State} (hs : Holds Sound s) : Holds (okNext Sound) (execFlagdoneArrival p
    s) := by
  unfold execFlagdoneArrival
  split
  · exact sound_idle hs
  · refine Holds.ite ?_ ?_
    · exact sound_idle hs
    · extract_lets +onlyGivenNames v7
      split
      · exact Holds.next (Holds.keep hs)
      · extract_lets +onlyGivenNames v13 v14
        exact Holds.next (sound_runDones (Holds.keep hs))
theorem sound_execRloadArrival {p : Packet} {s : State} (hs : Holds Sound s) : Holds (okNext Sound) (execRloadArrival p s) := by
  unfold execRloadArrival
  split
  · exact Holds.ite (sound_idle hs) (Holds.next (sound_runLoads (Holds.keep hs)))
  · exact sound_idle hs
theorem sound_execPushArrival {p : Packet} {s : State} (hs : Holds Sound s) : Holds (okNext Sound) (execPushArrival p s) := by
  unfold execPushArrival
  exact sound_execArrival hs
theorem sound_execFlezalFlitError {fp : Fin 16} {recovered : Bool} {s : State} (hs : Holds Sound s) : Holds (okNext Sound)
    (execFlezalFlitError fp recovered s) := by
  unfold execFlezalFlitError
  extract_lets +onlyGivenNames v1
  refine Holds.ite ?_ ?_
  · extract_lets +onlyGivenNames v2
    exact Holds.ite (Holds.next (sound_writeRecord (Holds.keep hs))) (Holds.next (Holds.keep hs))
  · extract_lets +onlyGivenNames v3
    exact Holds.next (Holds.keep hs)
theorem sound_answerIssued {s : State} {id : ℕ} {req : ℕ} (hs : Holds Sound s) : Holds Sound (answerIssued s id req) := by
  unfold answerIssued
  split
  · refine Holds.ite ?_ ?_
    · exact hs
    · split
      · exact sound_answer hs
      · exact sound_answer hs
  · exact hs
theorem sound_execCountedWriteIssue {sender : ℕ} {s : State} (hs : Holds Sound s) : Holds (okNext Sound)
    (execCountedWriteIssue sender s) := by
  unfold execCountedWriteIssue
  split
  · exact Holds.fault
  · extract_lets +onlyGivenNames v6
    have h7 : Holds Sound v6 := sound_runDones hs
    clear_value v6
    extract_lets +onlyGivenNames v8
    split
    · exact sound_idle h7
    · refine Holds.ite ?_ ?_
      · exact Holds.next (sound_refuseWrites h7)
      · refine Holds.ite ?_ ?_
        · extract_lets +onlyGivenNames v15
          have h16 : Holds Sound v15 := sound_State_modSender h7
          clear_value v15
          exact Holds.next (sound_answerIssued (sound_numberWrite h16))
        · exact Holds.next (sound_stallFlag h7)
theorem sound_execPacketAgeDiscard {queued : ℕ} {s : State} (hs : Holds Sound s) : Holds (okNext Sound) (execPacketAgeDiscard
    queued s) := by
  unfold execPacketAgeDiscard
  exact Holds.next (Holds.keep hs)
theorem sound_execFlagTimerExpiry {sender : ℕ} {index : BitVec 15} {s : State} (hs : Holds Sound s) : Holds (okNext Sound)
    (execFlagTimerExpiry sender index s) := by
  unfold execFlagTimerExpiry
  split
  · exact Holds.fault
  · split
    · exact sound_idle hs
    · refine Holds.ite ?_ ?_
      · exact Holds.next (sound_breakSender hs)
      · extract_lets +onlyGivenNames v11
        have h12 : Holds Sound v11 := sound_writeRecord hs
        clear_value v11
        extract_lets +onlyGivenNames v13
        have h14 : Holds Sound v13 := sound_State_modSender h12
        clear_value v13
        exact Holds.next (sound_queuePacket h14)
theorem sound_execFlagArrival {p : Packet} {s : State} (hs : Holds Sound s) : Holds (okNext Sound) (execFlagArrival p s) := by
  unfold execFlagArrival
  split
  · exact sound_idle hs
  · extract_lets +onlyGivenNames v7
    refine Holds.ite ?_ ?_
    · exact sound_idle hs
    · refine Holds.ite ?_ ?_
      · exact Holds.ite (sound_idle hs) (Holds.next (Holds.keep hs))
      · exact Holds.ite (Holds.next (sound_queuePacket hs)) (Holds.next (sound_writeRecord hs))
theorem sound_execTransitPacketArrival {p : Packet} {s : State} (hs : Holds Sound s) : Holds (okNext Sound)
    (execTransitPacketArrival p s) := by
  unfold execTransitPacketArrival
  exact Holds.ite (sound_idle hs) (Holds.next (sound_queuePacket hs))

/-! ### Floating -/

theorem sound_flagOp {f : Form} {s : State} {v : State → CoreId → ℕ → Word → Word → Word → Word × Flags6} (hs : Holds Sound s)
    : Holds (okNext Sound) (flagOp f s v) := by
  unfold flagOp
  refine sound_perform ?_ ?_
  · exact hs
  · intro s1 h2 x3 x4 x5 x6 x7
    extract_lets +onlyGivenNames v8
    exact sound_deliver2 (sound_raiseFlags h2)
theorem sound_sfuRow {f : Form} {fn : Sfu} {s : State} (hs : Holds Sound s) : Holds (okNext Sound) (sfuRow f fn s) := by
  unfold sfuRow
  exact sound_flagOp hs
theorem sound_execFsfuTanh {ta : Target} {s : State} (hs : Holds Sound s) : Holds (okNext Sound) (execFsfuTanh ta s) := by
  unfold execFsfuTanh
  exact sound_sfuRow hs
theorem sound_fopRow {f : Form} {op : FOp} {fmt : FloatFmt} {rm : Rm} {pk : Bool} {sat : Bool} {s : State} (hs : Holds Sound
    s) : Holds (okNext Sound) (fopRow f op fmt rm pk sat s) := by
  unfold fopRow
  exact sound_flagOp hs
theorem sound_execFsub {fmt : FloatFmt} {rm : Rm} {pk : Bool} {sat : Bool} {tb : Target} {ta : Target} {s : State} (hs : Holds
    Sound s) : Holds (okNext Sound) (execFsub fmt rm pk sat tb ta s) := by
  unfold execFsub
  exact sound_fopRow hs
theorem sound_execFmul {fmt : FloatFmt} {rm : Rm} {pk : Bool} {sat : Bool} {tb : Target} {ta : Target} {s : State} (hs : Holds
    Sound s) : Holds (okNext Sound) (execFmul fmt rm pk sat tb ta s) := by
  unfold execFmul
  exact sound_fopRow hs
theorem sound_quantRow {f : Form} {fn : FEnv → ElemFmt → ℕ → ℕ → ℕ × Flags6} {rm : Rm} {s : State} (hs : Holds Sound s) :
    Holds (okNext Sound) (quantRow f fn rm s) := by
  unfold quantRow
  refine sound_perform ?_ ?_
  · exact hs
  · intro s1 h2 x3 x4 x5 x6 x7
    refine sound_limit ?_ ?_
    · exact h2
    · intro s8 h9
      extract_lets +onlyGivenNames v10
      exact sound_deliver2 (sound_raiseFlags h9)
theorem sound_execFclass {fmt : FloatFmt} {tb : Target} {ta : Target} {s : State} (hs : Holds Sound s) : Holds (okNext Sound)
    (execFclass fmt tb ta s) := by
  unfold execFclass
  exact sound_valueOp hs
theorem sound_fminRow {f : Form} {isMax : Bool} {fmt : FloatFmt} {pk : Bool} {prop : Bool} {s : State} (hs : Holds Sound s) :
    Holds (okNext Sound) (fminRow f isMax fmt pk prop s) := by
  unfold fminRow
  exact sound_flagOp hs
theorem sound_execFmin {fmt : FloatFmt} {pk : Bool} {prop : Bool} {tb : Target} {ta : Target} {s : State} (hs : Holds Sound s)
    : Holds (okNext Sound) (execFmin fmt pk prop tb ta s) := by
  unfold execFmin
  exact sound_fminRow hs
theorem sound_execFsgnAbs {fmt : FloatFmt} {tb : Target} {ta : Target} {s : State} (hs : Holds Sound s) : Holds (okNext Sound)
    (execFsgnAbs fmt tb ta s) := by
  unfold execFsgnAbs
  exact sound_valueOp hs
theorem sound_execFsfuRcp {ta : Target} {s : State} (hs : Holds Sound s) : Holds (okNext Sound) (execFsfuRcp ta s) := by
  unfold execFsfuRcp
  exact sound_sfuRow hs
theorem sound_execQdeq {fmt : QFmt} {rm : Rm} {sat : Bool} {tb : Target} {ta : Target} {s : State} (hs : Holds Sound s) :
    Holds (okNext Sound) (execQdeq fmt rm sat tb ta s) := by
  unfold execQdeq
  exact sound_quantRow hs
theorem sound_execFsfuLog2 {ta : Target} {s : State} (hs : Holds Sound s) : Holds (okNext Sound) (execFsfuLog2 ta s) := by
  unfold execFsfuLog2
  exact sound_sfuRow hs
theorem sound_execFadd {fmt : FloatFmt} {rm : Rm} {pk : Bool} {sat : Bool} {tb : Target} {ta : Target} {s : State} (hs : Holds
    Sound s) : Holds (okNext Sound) (execFadd fmt rm pk sat tb ta s) := by
  unfold execFadd
  exact sound_fopRow hs
theorem sound_execQscale {ta : Target} {amax : QFmt} {elem : ElemFmt} {s : State} (hs : Holds Sound s) : Holds (okNext Sound)
    (execQscale ta amax elem s) := by
  unfold execQscale
  exact sound_flagOp hs
theorem sound_execFsfuSinp {ta : Target} {s : State} (hs : Holds Sound s) : Holds (okNext Sound) (execFsfuSinp ta s) := by
  unfold execFsfuSinp
  exact sound_sfuRow hs
theorem sound_execFsgnCopysign {fmt : FloatFmt} {tb : Target} {ta : Target} {s : State} (hs : Holds Sound s) : Holds (okNext
    Sound) (execFsgnCopysign fmt tb ta s) := by
  unfold execFsgnCopysign
  exact sound_valueOp hs
theorem sound_execFcvt {ta : Target} {sat : Bool} {rm : Rm} {dst : DataFmt} {src : DataFmt} {s : State} (hs : Holds Sound s) :
    Holds (okNext Sound) (execFcvt ta sat rm dst src s) := by
  unfold execFcvt
  exact sound_flagOp hs
theorem sound_execFmax {fmt : FloatFmt} {pk : Bool} {prop : Bool} {tb : Target} {ta : Target} {s : State} (hs : Holds Sound s)
    : Holds (okNext Sound) (execFmax fmt pk prop tb ta s) := by
  unfold execFmax
  exact sound_fminRow hs
theorem sound_execFsgnNeg {fmt : FloatFmt} {tb : Target} {ta : Target} {s : State} (hs : Holds Sound s) : Holds (okNext Sound)
    (execFsgnNeg fmt tb ta s) := by
  unfold execFsgnNeg
  exact sound_valueOp hs
theorem sound_execFsfuCosp {ta : Target} {s : State} (hs : Holds Sound s) : Holds (okNext Sound) (execFsfuCosp ta s) := by
  unfold execFsfuCosp
  exact sound_sfuRow hs
theorem sound_execFma {fmt : FloatFmt} {rm : Rm} {pk : Bool} {sat : Bool} {tb : Target} {ta : Target} {s : State} (hs : Holds
    Sound s) : Holds (okNext Sound) (execFma fmt rm pk sat tb ta s) := by
  unfold execFma
  exact sound_fopRow hs
theorem sound_execFsfuRsq {ta : Target} {s : State} (hs : Holds Sound s) : Holds (okNext Sound) (execFsfuRsq ta s) := by
  unfold execFsfuRsq
  exact sound_sfuRow hs
theorem sound_execFsfuSigm {ta : Target} {s : State} (hs : Holds Sound s) : Holds (okNext Sound) (execFsfuSigm ta s) := by
  unfold execFsfuSigm
  exact sound_sfuRow hs
theorem sound_execQcvt {fmt : QFmt} {rm : Rm} {sat : Bool} {tb : Target} {ta : Target} {s : State} (hs : Holds Sound s) :
    Holds (okNext Sound) (execQcvt fmt rm sat tb ta s) := by
  unfold execQcvt
  exact sound_quantRow hs
theorem sound_execFcmp {fmt : FloatFmt} {cmp : FCmp} {tb : Target} {ta : Target} {s : State} (hs : Holds Sound s) : Holds
    (okNext Sound) (execFcmp fmt cmp tb ta s) := by
  unfold execFcmp
  exact sound_flagOp hs
theorem sound_execFsfuSqrt {ta : Target} {s : State} (hs : Holds Sound s) : Holds (okNext Sound) (execFsfuSqrt ta s) := by
  unfold execFsfuSqrt
  exact sound_sfuRow hs
theorem sound_execFsfuExp2 {ta : Target} {s : State} (hs : Holds Sound s) : Holds (okNext Sound) (execFsfuExp2 ta s) := by
  unfold execFsfuExp2
  exact sound_sfuRow hs

/-! ### Integer -/

theorem sound_intRow {f : Form} {op : IOp} {width : IntWidth} {sgn : Bool} {sat : Bool} {s : State} (hs : Holds Sound s) :
    Holds (okNext Sound) (intRow f op width sgn sat s) := by
  unfold intRow
  refine sound_perform ?_ ?_
  · exact hs
  · intro s1 h2 x3 x4 x5 x6 x7
    extract_lets +onlyGivenNames v8
    exact sound_deliver2 (sound_raiseFlags h2)
theorem sound_execDiv {width : IntWidth} {sgn : Bool} {tb : Target} {ta : Target} {s : State} (hs : Holds Sound s) : Holds
    (okNext Sound) (execDiv width sgn tb ta s) := by
  unfold execDiv
  exact sound_intRow hs
theorem sound_execBfi {tb : Target} {ta : Target} {s : State} (hs : Holds Sound s) : Holds (okNext Sound) (execBfi tb ta s) :=
    by
  unfold execBfi
  exact sound_valueOp hs
theorem sound_execShr {width : IntWidth} {sgn : Bool} {tb : Target} {ta : Target} {s : State} (hs : Holds Sound s) : Holds
    (okNext Sound) (execShr width sgn tb ta s) := by
  unfold execShr
  exact sound_intRow hs
theorem sound_execSar {width : IntWidth} {sgn : Bool} {tb : Target} {ta : Target} {s : State} (hs : Holds Sound s) : Holds
    (okNext Sound) (execSar width sgn tb ta s) := by
  unfold execSar
  exact sound_intRow hs
theorem sound_execAnd {width : IntWidth} {sgn : Bool} {tb : Target} {ta : Target} {s : State} (hs : Holds Sound s) : Holds
    (okNext Sound) (execAnd width sgn tb ta s) := by
  unfold execAnd
  exact sound_intRow hs
theorem sound_execLea {sh : BitVec 3} {tb : Target} {ta : Target} {s : State} (hs : Holds Sound s) : Holds (okNext Sound)
    (execLea sh tb ta s) := by
  unfold execLea
  exact sound_valueOp hs
theorem sound_execAndn {width : IntWidth} {sgn : Bool} {tb : Target} {ta : Target} {s : State} (hs : Holds Sound s) : Holds
    (okNext Sound) (execAndn width sgn tb ta s) := by
  unfold execAndn
  exact sound_intRow hs
theorem sound_execXori {ta : Target} {imm : BitVec 16} {s : State} (hs : Holds Sound s) : Holds (okNext Sound) (execXori ta
    imm s) := by
  unfold execXori
  exact sound_valueOp hs
theorem sound_execAdd {width : IntWidth} {sgn : Bool} {sat : Bool} {tb : Target} {ta : Target} {s : State} (hs : Holds Sound
    s) : Holds (okNext Sound) (execAdd width sgn sat tb ta s) := by
  unfold execAdd
  exact sound_intRow hs
theorem sound_execOr {width : IntWidth} {sgn : Bool} {tb : Target} {ta : Target} {s : State} (hs : Holds Sound s) : Holds
    (okNext Sound) (execOr width sgn tb ta s) := by
  unfold execOr
  exact sound_intRow hs
theorem sound_execSel {tb : Target} {ta : Target} {s : State} (hs : Holds Sound s) : Holds (okNext Sound) (execSel tb ta s) :=
    by
  unfold execSel
  exact sound_valueOp hs
theorem sound_execBfx {ta : Target} {sgn : Bool} {lenM1 : BitVec 6} {lo : BitVec 6} {s : State} (hs : Holds Sound s) : Holds
    (okNext Sound) (execBfx ta sgn lenM1 lo s) := by
  unfold execBfx
  exact sound_valueOp hs
theorem sound_execRem {width : IntWidth} {sgn : Bool} {tb : Target} {ta : Target} {s : State} (hs : Holds Sound s) : Holds
    (okNext Sound) (execRem width sgn tb ta s) := by
  unfold execRem
  exact sound_intRow hs
theorem sound_execXor {width : IntWidth} {sgn : Bool} {tb : Target} {ta : Target} {s : State} (hs : Holds Sound s) : Holds
    (okNext Sound) (execXor width sgn tb ta s) := by
  unfold execXor
  exact sound_intRow hs
theorem sound_execMin {width : IntWidth} {sgn : Bool} {tb : Target} {ta : Target} {s : State} (hs : Holds Sound s) : Holds
    (okNext Sound) (execMin width sgn tb ta s) := by
  unfold execMin
  exact sound_intRow hs
theorem sound_execShfiShr {ta : Target} {cnt : BitVec 6} {s : State} (hs : Holds Sound s) : Holds (okNext Sound) (execShfiShr
    ta cnt s) := by
  unfold execShfiShr
  exact sound_valueOp hs
theorem sound_bitcRow {f : Form} {width : IntWidth} {fn : ℕ → ℕ → ℕ} {s : State} (hs : Holds Sound s) : Holds (okNext Sound)
    (bitcRow f width fn s) := by
  unfold bitcRow
  exact sound_valueOp hs
theorem sound_execBitcBrev {width : IntWidth} {tb : Target} {ta : Target} {s : State} (hs : Holds Sound s) : Holds (okNext
    Sound) (execBitcBrev width tb ta s) := by
  unfold execBitcBrev
  exact sound_bitcRow hs
theorem sound_execShfiShl {ta : Target} {cnt : BitVec 6} {s : State} (hs : Holds Sound s) : Holds (okNext Sound) (execShfiShl
    ta cnt s) := by
  unfold execShfiShl
  exact sound_valueOp hs
theorem sound_execShfiSar {ta : Target} {cnt : BitVec 6} {s : State} (hs : Holds Sound s) : Holds (okNext Sound) (execShfiSar
    ta cnt s) := by
  unfold execShfiSar
  exact sound_valueOp hs
theorem sound_execMax {width : IntWidth} {sgn : Bool} {tb : Target} {ta : Target} {s : State} (hs : Holds Sound s) : Holds
    (okNext Sound) (execMax width sgn tb ta s) := by
  unfold execMax
  exact sound_intRow hs
theorem sound_execShfiRot {ta : Target} {cnt : BitVec 6} {s : State} (hs : Holds Sound s) : Holds (okNext Sound) (execShfiRot
    ta cnt s) := by
  unfold execShfiRot
  exact sound_valueOp hs
theorem sound_execCmpi {ta : Target} {sgn : Bool} {cmp : ICmp} {imm : BitVec 12} {s : State} (hs : Holds Sound s) : Holds
    (okNext Sound) (execCmpi ta sgn cmp imm s) := by
  unfold execCmpi
  exact sound_valueOp hs
theorem sound_execMul {width : IntWidth} {sgn : Bool} {sat : Bool} {tb : Target} {ta : Target} {s : State} (hs : Holds Sound
    s) : Holds (okNext Sound) (execMul width sgn sat tb ta s) := by
  unfold execMul
  exact sound_intRow hs
theorem sound_execMulh {width : IntWidth} {sgn : Bool} {tb : Target} {ta : Target} {s : State} (hs : Holds Sound s) : Holds
    (okNext Sound) (execMulh width sgn tb ta s) := by
  unfold execMulh
  exact sound_intRow hs
theorem sound_execCmp {width : IntWidth} {sgn : Bool} {cmp : ICmp} {tb : Target} {ta : Target} {s : State} (hs : Holds Sound
    s) : Holds (okNext Sound) (execCmp width sgn cmp tb ta s) := by
  unfold execCmp
  exact sound_valueOp hs
theorem sound_execShl {width : IntWidth} {sgn : Bool} {tb : Target} {ta : Target} {s : State} (hs : Holds Sound s) : Holds
    (okNext Sound) (execShl width sgn tb ta s) := by
  unfold execShl
  exact sound_intRow hs
theorem sound_execAndi {ta : Target} {imm : BitVec 16} {s : State} (hs : Holds Sound s) : Holds (okNext Sound) (execAndi ta
    imm s) := by
  unfold execAndi
  exact sound_valueOp hs
theorem sound_execBitcClz {width : IntWidth} {tb : Target} {ta : Target} {s : State} (hs : Holds Sound s) : Holds (okNext
    Sound) (execBitcClz width tb ta s) := by
  unfold execBitcClz
  exact sound_bitcRow hs
theorem sound_execMuli {ta : Target} {imm : BitVec 16} {s : State} (hs : Holds Sound s) : Holds (okNext Sound) (execMuli ta
    imm s) := by
  unfold execMuli
  exact sound_valueOp hs
theorem sound_execBitcBswap {width : IntWidth} {tb : Target} {ta : Target} {s : State} (hs : Holds Sound s) : Holds (okNext
    Sound) (execBitcBswap width tb ta s) := by
  unfold execBitcBswap
  exact sound_bitcRow hs
theorem sound_execBitcCtz {width : IntWidth} {tb : Target} {ta : Target} {s : State} (hs : Holds Sound s) : Holds (okNext
    Sound) (execBitcCtz width tb ta s) := by
  unfold execBitcCtz
  exact sound_bitcRow hs
theorem sound_execAddi {ta : Target} {imm : BitVec 16} {s : State} (hs : Holds Sound s) : Holds (okNext Sound) (execAddi ta
    imm s) := by
  unfold execAddi
  exact sound_valueOp hs
theorem sound_execBitcPopc {width : IntWidth} {tb : Target} {ta : Target} {s : State} (hs : Holds Sound s) : Holds (okNext
    Sound) (execBitcPopc width tb ta s) := by
  unfold execBitcPopc
  exact sound_bitcRow hs
theorem sound_execSub {width : IntWidth} {sgn : Bool} {sat : Bool} {tb : Target} {ta : Target} {s : State} (hs : Holds Sound
    s) : Holds (okNext Sound) (execSub width sgn sat tb ta s) := by
  unfold execSub
  exact sound_intRow hs
theorem sound_execOri {ta : Target} {imm : BitVec 16} {s : State} (hs : Holds Sound s) : Holds (okNext Sound) (execOri ta imm
    s) := by
  unfold execOri
  exact sound_valueOp hs
theorem sound_execRot {width : IntWidth} {sgn : Bool} {tb : Target} {ta : Target} {s : State} (hs : Holds Sound s) : Holds
    (okNext Sound) (execRot width sgn tb ta s) := by
  unfold execRot
  exact sound_intRow hs
theorem sound_execAdc {width : IntWidth} {tb : Target} {ta : Target} {s : State} (hs : Holds Sound s) : Holds (okNext Sound)
    (execAdc width tb ta s) := by
  unfold execAdc
  refine sound_perform ?_ ?_
  · exact hs
  · intro s1 h2 x3 x4 x5 x6 x7
    extract_lets +onlyGivenNames v8 v9
    exact sound_deliver2 h2

/-! ### Streams -/

theorem sound_checkHead {s : State} {n : ℕ} {p : ℕ} (hs : Holds Sound s) : Holds Sound (checkHead s n p) := by
  unfold checkHead
  extract_lets +onlyGivenNames v1
  have h2 : Holds okLeaf v1 := sound_State_leaf hs
  clear_value v1
  extract_lets +onlyGivenNames v3
  split
  · extract_lets +onlyGivenNames v14 v15 v16
    exact Holds.ite (sound_writeRecord hs) (sound_State_modGath hs)
  · exact hs
theorem sound_sendCredit {s : State} {n : ℕ} {p : ℕ} (hs : Holds Sound s) : Holds Sound (sendCredit s n p) := by
  unfold sendCredit
  split
  · exact sound_State_modLeaf hs (fun x5 h6 => Holds.leafOf (Holds.leafMem h6))
  · exact hs
theorem sound_dropHead {s : State} {n : ℕ} {p : ℕ} (hs : Holds Sound s) : Holds Sound (dropHead s n p) := by
  unfold dropHead
  extract_lets +onlyGivenNames v1
  exact sound_sendCredit (sound_State_modLeaf (sound_checkHead hs) (fun x2 h3 => Holds.leafOf (Holds.leafMem h3)))
theorem sound_queueSend {s : State} {c : CoreId} {i : ℕ} {p : ℕ} (hs : Holds Sound s) : Holds Sound (queueSend s c i p) := by
  unfold queueSend
  exact Holds.ite (sound_State_modSlot (sound_State_modLeaf hs (fun x1 h2 => Holds.leafOf (Holds.leafMem h2)))) hs
theorem sound_sendOwn {s : State} {c : CoreId} {i : ℕ} {p : ℕ} {t : Token} {k : State → State} (hs : Holds Sound s) (hk : ∀
    y0, Holds Sound y0 → Holds Sound (k y0)) : Holds Sound (sendOwn s c i p t k) := by
  unfold sendOwn
  extract_lets +onlyGivenNames v1
  refine Holds.ite ?_ ?_
  · extract_lets +onlyGivenNames v2
    have h3 : Holds Sound v2 := sound_State_modLeaf (sound_enterFrom hs) (fun x4 h5 => Holds.leafOf (Holds.leafMem h5))
    clear_value v2
    refine sound_pumpSends ?_
    apply hk
    exact sound_sendOver h3
  · exact sound_stay hs
theorem sound_execSpush {kind : PushKind} {port : Fin 8} {tb : Target} {ta : Target} {s : State} (hs : Holds Sound s) : Holds
    (okNext Sound) (execSpush kind port tb ta s) := by
  unfold execSpush
  refine sound_perform ?_ ?_
  · exact hs
  · intro s1 h2 x3 x4 x5 x6 x7
    extract_lets +onlyGivenNames v8 v9
    subst v9
    refine Holds.ite ?_ ?_
    · exact sound_blockFault h2
    · refine sound_limit ?_ ?_
      · exact h2
      · intro s10 h11
        split
        · refine sound_limitLa ?_ ?_
          · exact h11
          · intro s13 h14
            exact sound_leafAccess (sound_queueSend h14) (fun s15 h16 => sound_sendOwn h16 (fun s17 h18 => sound_complete h18))
        · exact sound_sendOwn (sound_queueSend h11) (fun s21 h22 => sound_complete h22)
theorem sound_setRoute {s : State} {n : ℕ} {port : StreamPort} {w : Word} (hs : Holds Sound s) : Holds Sound (setRoute s n
    port w) := by
  unfold setRoute
  extract_lets +onlyGivenNames v1
  have h2 : Holds Sound v1 := sound_State_modLeaf hs (fun x3 h4 => Holds.leafOf (Holds.leafMem h4))
  clear_value v1
  split
  · exact sound_pumpSends (sound_State_modLeaf h2 (fun x7 h8 => Holds.leafOf (Holds.leafMem h8)))
  · extract_lets +onlyGivenNames v11
    have h12 : Holds Sound v11 := sound_State_modLeaf h2 (fun x13 h14 => Holds.leafOf (Holds.leafMem h14))
    clear_value v11
    split
    · exact sound_pumpSends h12
    · exact h12
theorem sound_execRtset {port : StreamPort} {tb : Target} {ta : Target} {s : State} (hs : Holds Sound s) : Holds (okNext
    Sound) (execRtset port tb ta s) := by
  unfold execRtset
  refine sound_perform ?_ ?_
  · exact hs
  · intro s1 h2 x3 x4 x5 x6 x7
    split
    · split
      · exact sound_raiseFault h2
      · exact Holds.ite (sound_complete (sound_setRoute h2)) (sound_stay h2)
    · exact h2
theorem sound_dropAll {n : ℕ} {p : ℕ} {a2 : ℕ} {a3 : State} (ha3 : Holds Sound a3) : Holds Sound (dropAll n p a2 a3) := by
  induction a2 generalizing n p a3 with
  | zero =>
    unfold dropAll
    exact ha3
  | succ k ih =>
    unfold dropAll
    apply ih
    exact sound_dropHead ha3
theorem sound_execSctlReset {port : StreamPort} {tb : Target} {ta : Target} {s : State} (hs : Holds Sound s) : Holds (okNext
    Sound) (execSctlReset port tb ta s) := by
  unfold execSctlReset
  refine sound_perform ?_ ?_
  · exact hs
  · intro s1 h2 x3 x4 x5 x6 x7
    refine sound_limit ?_ ?_
    · exact h2
    · intro s8 h9
      extract_lets +onlyGivenNames v10
      split
      · extract_lets +onlyGivenNames v13
        have h14 : Holds Sound v13 := sound_dropAll h9
        clear_value v13
        extract_lets +onlyGivenNames v15
        have h16 : Holds Sound v15 := sound_State_modLeaf h14 (fun x17 h18 => Holds.leafOf (Holds.leafMem h18))
        clear_value v15
        exact sound_complete h16
      · exact Holds.ite (sound_complete h9) (sound_stay h9)
theorem sound_execTokenDelivery {leaf : ℕ} {port : Fin 8} {s : State} (hs : Holds Sound s) : Holds (okNext Sound)
    (execTokenDelivery leaf port s) := by
  unfold execTokenDelivery
  refine Holds.ite ?_ ?_
  · exact Holds.fault
  · split
    · rename_i x1 _ _ _ _ _ _ _
      refine Holds.ite ?_ ?_
      · exact Holds.next (sound_State_modQuire hs)
      · extract_lets +onlyGivenNames v9
        have h10 : Holds Sound v9 := sound_State_modLeaf hs (fun x11 h12 => Holds.leafOf (Holds.leafMem h12))
        clear_value v9
        exact Holds.next (sound_State_modLeaf h10 (fun x13 h14 => Holds.leafOf (Holds.leafMem h14)))
    · exact sound_idle hs
theorem sound_execSpop {nb : Bool} {port : Fin 8} {tb : Target} {ta : Target} {s : State} (hs : Holds Sound s) : Holds (okNext
    Sound) (execSpop nb port tb ta s) := by
  unfold execSpop
  refine sound_perform ?_ ?_
  · exact hs
  · intro s1 h2 x3 x4 x5 x6 x7
    extract_lets +onlyGivenNames v8
    refine Holds.ite ?_ ?_
    · exact sound_blockFault h2
    · refine sound_limitLa ?_ ?_
      · exact h2
      · intro s9 h10
        split
        · exact Holds.ite (sound_complete h10) (sound_stay h10)
        · exact sound_leafAccess h10 (fun s16 h17 => sound_padStore h17 (fun s18 h19 => sound_complete (sound_dropHead h19)))
theorem sound_execCreditReturn {leaf : ℕ} {port : Fin 8} {s : State} (hs : Holds Sound s) : Holds (okNext Sound)
    (execCreditReturn leaf port s) := by
  unfold execCreditReturn
  refine Holds.ite ?_ ?_
  · exact Holds.fault
  · refine Holds.ite ?_ ?_
    · exact sound_idle hs
    · exact Holds.next (sound_pumpSends (sound_State_modLeaf hs (fun x1 h2 => Holds.leafOf (Holds.leafMem h2))))
theorem sound_execSbar {tb : Target} {ta : Target} {s : State} (hs : Holds Sound s) : Holds (okNext Sound) (execSbar tb ta s)
    := by
  unfold execSbar
  refine sound_perform ?_ ?_
  · exact hs
  · intro s1 h2 x3 x4 x5 x6 x7
    refine sound_limit ?_ ?_
    · exact h2
    · intro s8 h9
      extract_lets +onlyGivenNames v10 v11
      have h12 : Holds Sound v11 := Holds.ite (sound_State_modSlot h9) h9
      clear_value v11
      extract_lets +onlyGivenNames v13
      exact Holds.ite (sound_complete h12) (sound_stay h12)
theorem sound_execSctlDrain {port : StreamPort} {tb : Target} {ta : Target} {s : State} (hs : Holds Sound s) : Holds (okNext
    Sound) (execSctlDrain port tb ta s) := by
  unfold execSctlDrain
  refine sound_perform ?_ ?_
  · exact hs
  · intro s1 h2 x3 x4 x5 x6 x7
    split
    · exact sound_blockFault h2
    · refine sound_limit ?_ ?_
      · exact h2
      · intro s12 h13
        extract_lets +onlyGivenNames v14 v15
        split
        extract_lets +onlyGivenNames v20
        have h21 : Holds Sound v20 := sound_dropAll h13
        clear_value v20
        exact Holds.ite (sound_complete h21) (sound_State_modSlot (sound_stay h21))
theorem sound_execSctlStatus {port : StreamPort} {tb : Target} {ta : Target} {s : State} (hs : Holds Sound s) : Holds (okNext
    Sound) (execSctlStatus port tb ta s) := by
  unfold execSctlStatus
  exact sound_perform hs (fun s1 h2 x3 x4 x5 x6 x7 => sound_limit h2 (fun s8 h9 => sound_complete h9))

/-! ### FlowUnits -/

theorem sound_State_modUnit {s : State} {n : ℕ} {u : FUnit} {f : FlowUnit → FlowUnit} (hs : Holds Sound s) : Holds Sound
    (State.modUnit s n u f) := by
  unfold State.modUnit
  refine sound_State_modLeaf ?_ ?_
  · exact hs
  · intro x1 h2
    split
    · exact Holds.leafOf (Holds.leafMem h2)
    · exact Holds.leafOf (Holds.leafMem h2)
theorem sound_drainUnit {n : ℕ} {u : FUnit} {a2 : ℕ} {a3 : State} (ha3 : Holds Sound a3) : Holds Sound (drainUnit n u a2 a3)
    := by
  induction a2 generalizing n u a3 with
  | zero =>
    unfold drainUnit
    exact ha3
  | succ k ih =>
    unfold drainUnit
    split
    · extract_lets +onlyGivenNames v6
      have h7 : Holds Sound v6 := sound_enterPort ha3
      clear_value v6
      apply ih
      exact sound_State_modUnit h7
    · exact ha3
theorem sound_flushUnit {s : State} {n : ℕ} {u : FUnit} (hs : Holds Sound s) : Holds Sound (flushUnit s n u) := by
  unfold flushUnit
  extract_lets +onlyGivenNames v1
  have h2 : Holds Sound v1 := sound_drainUnit hs
  clear_value v1
  exact sound_State_modUnit h2
theorem sound_failUnit {s : State} {n : ℕ} {u : FUnit} (hs : Holds Sound s) : Holds Sound (failUnit s n u) := by
  unfold failUnit
  exact sound_State_modUnit hs
theorem sound_reportUnit {s : State} {n : ℕ} {r : Report} (hs : Holds Sound s) : Holds Sound (reportUnit s n r) := by
  unfold reportUnit
  split
  · exact sound_State_modGath hs
  · exact hs
theorem sound_settleUnit {n : ℕ} {u : FUnit} {r : Ran} (hr : Holds (okProd Sound anyP) r) : Holds Sound (settleUnit n u r) := by
  unfold settleUnit
  split
  have h4 := Holds.pair1 hr
  split
  · exact sound_flushUnit h4
  · exact h4
  · split
    · exact sound_askGrant h4
    · exact h4
  · exact sound_reportUnit (sound_failUnit h4)
  · extract_lets +onlyGivenNames v22
    split
    · exact sound_await h4
    · extract_lets +onlyGivenNames v28 v29
      have h30 : Holds Sound v29 := sound_endAccess (Holds.ite h4 (sound_failUnit h4))
      clear_value v29
      exact sound_reportAccess h30
  · exact sound_reportUnit (sound_failUnit h4)
theorem sound_unitStep {modes : List ℕ} {n : ℕ} {u : FUnit} {s : State} {act : State → Ran} (hs : Holds Sound s) (hact : ∀ y0,
    Holds Sound y0 → Holds (okProd Sound anyP) (act y0)) : Holds (okNext Sound) (unitStep modes n u s act) := by
  unfold unitStep
  refine Holds.ite ?_ ?_
  · exact Holds.fault
  · refine Holds.ite ?_ ?_
    · exact sound_idle hs
    · refine Holds.ite ?_ ?_
      · exact Holds.next (sound_State_modUnit hs)
      · extract_lets +onlyGivenNames v1
        have h2 : Holds Sound v1 := sound_flushUnit hs
        clear_value v1
        extract_lets +onlyGivenNames v3
        have h4 : Holds Sound v3 := by
          subst v3
          refine Holds.ite ?_ ?_
          · refine sound_settleUnit ?_
            apply hact
            exact h2
          · exact h2
        clear_value v3
        exact Holds.next (sound_State_modUnit h4)
theorem sound_Ran_next {r : Ran} {k : State → Ran} (hr : Holds (okProd Sound anyP) r) (hk : ∀ y0, Holds Sound y0 → Holds
    (okProd Sound anyP) (k y0)) : Holds (okProd Sound anyP) (Ran.next r k) := by
  unfold Ran.next
  split
  · apply hk
    exact Holds.left (P := Sound) (Q := anyP) hr
  · exact hr
theorem sound_State_modFlow {s : State} {n : ℕ} {u : FUnit} {f : FlowState → FlowState} (hs : Holds Sound s) : Holds Sound
    (State.modFlow s n u f) := by
  unfold State.modFlow
  exact sound_State_modUnit hs
theorem sound_unitFreed {s : State} {n : ℕ} {u : FUnit} (hs : Holds Sound s) : Holds Sound (unitFreed s n u) := by
  unfold unitFreed
  exact Holds.ite (sound_State_modUnit hs) hs
theorem sound_unitTurn {s : State} {n : ℕ} {u : FUnit} {acc : ℕ} {va : ℕ} {pa : ℕ} {len : ℕ} (hs : Holds Sound s) : Holds
    (okOk Sound) (unitTurn s n u acc va pa len) := by
  unfold unitTurn
  split
  · rename_i e3
    have h4 := Holds.of_eq (P := (okOk Sound)) e3 (sound_allTurns hs)
    have h5 := Holds.un_ok h4
    exact Holds.ok (sound_unitFreed h5)
  · rename_i e8
    have h9 := Holds.of_eq (P := (okOk Sound)) e8 (sound_allTurns hs)
    exact Holds.error
theorem sound_unitTrans {s : State} {n : ℕ} {u : FUnit} {va : ℕ} {acc : ℕ} (hs : Holds Sound s) : Holds (okOk (okProd anyP
    Sound)) (unitTrans s n u va acc) := by
  unfold unitTrans
  extract_lets +onlyGivenNames v1
  split
  · rename_i e4
    have h5 := Holds.of_eq (P := (okOk (okProd anyP Sound))) e4 (sound_engineTrans hs)
    have h6 := Holds.un_ok h5
    exact Holds.ok h6
  · rename_i e9
    have h10 := Holds.of_eq (P := (okOk (okProd anyP Sound))) e9 (sound_engineTrans hs)
    exact Holds.error
theorem sound_unitStores {n : ℕ} {u : FUnit} {a2 : List (ℕ × ℕ)} {a3 : List Byte} {a4 : State} (ha4 : Holds Sound a4) : Holds
    (okOk (okProd anyP Sound)) (unitStores n u a2 a3 a4) := by
  induction a2 generalizing n u a3 a4 with
  | nil =>
    unfold unitStores
    exact Holds.ok (Holds.pair Holds.any ha4)
  | cons z zs ih =>
    unfold unitStores
    extract_lets +onlyGivenNames v1
    split
    · rename_i e4
      have h5 := Holds.of_eq (P := (okOk (okProd anyP Sound))) e4 (sound_unitTrans ha4)
      exact Holds.error
    · rename_i e9
      have h10 := Holds.of_eq (P := (okOk (okProd anyP Sound))) e9 (sound_unitTrans ha4)
      have h11 := Holds.un_ok h10
      have h12 := Holds.pair2 h11
      split
      · rename_i e15
        have h16 := Holds.of_eq (P := (okOk Sound)) e15 (sound_unitTurn h12)
        exact Holds.error
      · rename_i e19
        have h20 := Holds.of_eq (P := (okOk Sound)) e19 (sound_unitTurn h12)
        have h21 := Holds.un_ok h20
        extract_lets +onlyGivenNames v22
        split
        · rename_i e25
          have h26 := Holds.of_eq (P := (okDone Sound)) e25 (sound_stageItem h21)
          have h27 := Holds.un_done h26
          apply ih
          exact h27
        · rename_i e29
          have h30 := Holds.of_eq (P := (okDone Sound)) e29 (sound_stageItem h21)
          exact Holds.error
        · rename_i e34
          have h35 := Holds.of_eq (P := (okDone Sound)) e34 (sound_stageItem h21)
          have h36 := Holds.un_turned h35
          exact Holds.error
theorem sound_unitWrite {s : State} {n : ℕ} {u : FUnit} {va : ℕ} {bs : List Byte} (hs : Holds Sound s) : Holds (okOk (okProd
    anyP Sound)) (unitWrite s n u va bs) := by
  unfold unitWrite
  exact sound_unitStores hs
theorem sound_Got_andThen {α : Type} {g : Got α} {s0 : State} {k : α → State → Ran} (hg : Holds (okOk (okProd anyP Sound)) g)
    (hs0 : Holds Sound s0) (hk : ∀ y0, ∀ y1, Holds Sound y1 → Holds (okProd Sound anyP) (k y0 y1)) : Holds (okProd Sound anyP)
    (Got.andThen g s0 k) := by
  unfold Got.andThen
  split
  · have h4 := Holds.un_ok hg
    have h5 := Holds.pair2 h4
    apply hk
    exact h5
  · exact Holds.pair hs0 Holds.any
theorem sound_endUnit {s : State} {n : ℕ} {u : FUnit} (hs : Holds Sound s) : Holds Sound (endUnit s n u) := by
  unfold endUnit
  exact sound_State_modUnit hs
theorem sound_takeTok {s : State} {n : ℕ} {u : FUnit} {i : ℕ} {ended : Bool} (hs : Holds Sound s) : Holds (okProd (okProd
    Sound anyP) anyP) (takeTok s n u i ended) := by
  unfold takeTok
  extract_lets +onlyGivenNames v1
  split
  · split
    · exact Holds.pair (Holds.pair hs Holds.any) Holds.any
    · refine Holds.ite ?_ ?_
      · exact Holds.pair (Holds.pair hs Holds.any) Holds.any
      · exact Holds.pair (Holds.pair (sound_State_modUnit (sound_dropHead hs)) Holds.any) Holds.any
  · exact Holds.pair (Holds.pair hs Holds.any) Holds.any
theorem sound_takeAll {n : ℕ} {u : FUnit} {ended : Bool} {a3 : List ℕ} {a4 : State} {a5 : List Token} (ha4 : Holds Sound a4) :
    Holds (okProd (okProd Sound anyP) anyP) (takeAll n u ended a3 a4 a5) := by
  induction a3 generalizing n u ended a4 a5 with
  | nil =>
    unfold takeAll
    exact Holds.pair (Holds.pair ha4 Holds.any) Holds.any
  | cons z zs ih =>
    unfold takeAll
    split
    · rename_i e4
      have h5 := Holds.of_eq (P := (okProd (okProd Sound anyP) anyP)) e4 (sound_takeTok ha4)
      have h6 := Holds.pair1 h5
      have h7 := Holds.pair1 h6
      apply ih
      exact h7
    · rename_i e12
      have h13 := Holds.of_eq (P := (okProd (okProd Sound anyP) anyP)) e12 (sound_takeTok ha4)
      have h14 := Holds.pair1 h13
      exact Holds.pair h14 Holds.any
theorem sound_takeStep {s : State} {n : ℕ} {u : FUnit} {is : List ℕ} {k : State → List Token → Ran} (hs : Holds Sound s) (hk :
    ∀ y0, Holds Sound y0 → ∀ y1, Holds (okProd Sound anyP) (k y0 y1)) : Holds (okProd Sound anyP) (takeStep s n u is k) := by
  unfold takeStep
  refine Holds.ite ?_ ?_
  · exact Holds.pair hs Holds.any
  · split
    rename_i e4
    have h5 := Holds.of_eq (P := (okProd (okProd Sound anyP) anyP)) e4 (sound_takeAll hs)
    have h6 := Holds.pair1 h5
    refine sound_Ran_next ?_ ?_
    · exact h6
    · intro s7 h8
      extract_lets +onlyGivenNames v9 v10
      refine Holds.ite ?_ ?_
      · refine Holds.ite ?_ ?_
        · exact Holds.pair h8 Holds.any
        · apply hk
          exact h8
      · extract_lets +onlyGivenNames v11
        split
        · exact Holds.pair h8 Holds.any
        · apply hk
          exact h8
theorem sound_emitTok {s : State} {n : ℕ} {u : FUnit} {o : ℕ} {t : Token} (hs : Holds Sound s) : Holds Sound (emitTok s n u o
    t) := by
  unfold emitTok
  exact sound_State_modUnit hs
theorem sound_unitLeafRead {s : State} {n : ℕ} {u : FUnit} {la : ℕ} {len : ℕ} (hs : Holds Sound s) : Holds (okOk (okProd anyP
    Sound)) (unitLeafRead s n u la len) := by
  unfold unitLeafRead
  split
  · exact Holds.error
  · exact Holds.ite Holds.error (Holds.ok (Holds.pair Holds.any hs))
theorem sound_readParts {n : ℕ} {u : FUnit} {a2 : List (ℕ × ℕ)} {a3 : List Byte} {a4 : State} (ha4 : Holds Sound a4) : Holds
    (okOk (okProd anyP Sound)) (readParts n u a2 a3 a4) := by
  induction a2 generalizing n u a3 a4 with
  | nil =>
    unfold readParts
    exact Holds.ok (Holds.pair Holds.any ha4)
  | cons z zs ih =>
    unfold readParts
    split
    · rename_i e3
      have h4 := Holds.of_eq (P := (okOk (okProd anyP Sound))) e3 (sound_unitTrans ha4)
      exact Holds.error
    · rename_i e8
      have h9 := Holds.of_eq (P := (okOk (okProd anyP Sound))) e8 (sound_unitTrans ha4)
      have h10 := Holds.un_ok h9
      have h11 := Holds.pair2 h10
      split
      · rename_i e14
        have h15 := Holds.of_eq (P := (okOk Sound)) e14 (sound_unitTurn h11)
        exact Holds.error
      · rename_i e18
        have h19 := Holds.of_eq (P := (okOk Sound)) e18 (sound_unitTurn h11)
        have h20 := Holds.un_ok h19
        extract_lets +onlyGivenNames v21
        refine Holds.ite ?_ ?_
        · exact Holds.error
        · apply ih
          exact h20
theorem sound_unitRead {s : State} {n : ℕ} {u : FUnit} {va : ℕ} {len : ℕ} (hs : Holds Sound s) : Holds (okOk (okProd anyP
    Sound)) (unitRead s n u va len) := by
  unfold unitRead
  exact sound_readParts hs
theorem sound_takeOne {s : State} {n : ℕ} {u : FUnit} {i : ℕ} {ended : Bool} {k : State → Token → Ran} (hs : Holds Sound s)
    (hk : ∀ y0, Holds Sound y0 → ∀ y1, Holds (okProd Sound anyP) (k y0 y1)) : Holds (okProd Sound anyP) (takeOne s n u i ended
    k) := by
  unfold takeOne
  split
  rename_i e4
  have h5 := Holds.of_eq (P := (okProd (okProd Sound anyP) anyP)) e4 (sound_takeTok hs)
  have h6 := Holds.pair1 h5
  refine sound_Ran_next ?_ ?_
  · exact h6
  · intro s7 h8
    refine Holds.ite ?_ ?_
    · exact Holds.pair h8 Holds.any
    · apply hk
      exact h8
theorem sound_execFlgo {u : FUnit} {tb : Target} {ta : Target} {s : State} (hs : Holds Sound s) : Holds (okNext Sound)
    (execFlgo u tb ta s) := by
  unfold execFlgo
  refine sound_perform ?_ ?_
  · exact hs
  · intro s1 h2 x3 x4 x5 x6 x7
    extract_lets +onlyGivenNames v8 v9
    refine Holds.ite ?_ ?_
    · exact sound_raiseFault h2
    · extract_lets +onlyGivenNames v10
      have h11 : Holds Sound v10 := Holds.ite h2 (sound_State_modUnit h2)
      clear_value v10
      exact sound_complete h11
theorem sound_unitLeafWrite {s : State} {n : ℕ} {u : FUnit} {la : ℕ} {bs : List Byte} (hs : Holds Sound s) : Holds (okOk
    (okProd anyP Sound)) (unitLeafWrite s n u la bs) := by
  unfold unitLeafWrite
  split
  · exact Holds.error
  · split
    · rename_i e8
      have h9 := Holds.of_eq (P := (okOpt Sound)) e8 (sound_leafWrite hs)
      have h10 := Holds.un_some h9
      exact Holds.ok (Holds.pair Holds.any h10)
    · rename_i e12
      have h13 := Holds.of_eq (P := (okOpt Sound)) e12 (sound_leafWrite hs)
      exact Holds.error
theorem sound_execFlstop {u : FUnit} {tb : Target} {ta : Target} {s : State} (hs : Holds Sound s) : Holds (okNext Sound)
    (execFlstop u tb ta s) := by
  unfold execFlstop
  refine sound_perform ?_ ?_
  · exact hs
  · intro s1 h2 x3 x4 x5 x6 x7
    extract_lets +onlyGivenNames v8
    refine Holds.ite ?_ ?_
    · exact sound_complete h2
    · exact Holds.ite (sound_stay (sound_State_modUnit h2)) (sound_complete (sound_State_modUnit h2))
theorem sound_execFlcfg {u : FUnit} {tb : Target} {ta : Target} {s : State} (hs : Holds Sound s) : Holds (okNext Sound)
    (execFlcfg u tb ta s) := by
  unfold execFlcfg
  refine sound_perform ?_ ?_
  · exact hs
  · intro s1 h2 x3 x4 x5 x6 x7
    refine sound_limitLa ?_ ?_
    · exact h2
    · intro s8 h9
      extract_lets +onlyGivenNames v10
      refine Holds.ite ?_ ?_
      · exact sound_stay h9
      · refine sound_leafAccess ?_ ?_
        · exact h9
        · intro s11 h12
          extract_lets +onlyGivenNames v13
          split
          · exact sound_raiseFault (sound_State_modUnit h12)
          · exact sound_complete (sound_State_modUnit h12)
theorem sound_execFlstat {u : FUnit} {tb : Target} {ta : Target} {s : State} (hs : Holds Sound s) : Holds (okNext Sound)
    (execFlstat u tb ta s) := by
  unfold execFlstat
  exact sound_valueOp hs

/-! ### Scanners -/

theorem sound_flushPair {s : State} {n : ℕ} {u : FUnit} (hs : Holds Sound s) : Holds Sound (flushPair s n u) := by
  unfold flushPair
  extract_lets +onlyGivenNames v1
  refine Holds.ite ?_ ?_
  · exact hs
  · extract_lets +onlyGivenNames v2 v3
    have h4 : Holds Sound v3 := sound_emitTok hs
    clear_value v3
    extract_lets +onlyGivenNames v5
    have h6 : Holds Sound v5 := Holds.ite (sound_emitTok h4) h4
    clear_value v5
    extract_lets +onlyGivenNames v7
    have h8 : Holds Sound v7 := Holds.ite (sound_emitTok h6) h6
    clear_value v7
    exact sound_State_modFlow h8
theorem sound_emitMark {s : State} {n : ℕ} {u : FUnit} {t : Token} (hs : Holds Sound s) : Holds Sound (emitMark s n u t) := by
  unfold emitMark
  extract_lets +onlyGivenNames v1 v2
  have h3 : Holds Sound v2 := sound_emitTok hs
  clear_value v2
  extract_lets +onlyGivenNames v4
  have h5 : Holds Sound v4 := Holds.ite (sound_emitTok h3) h3
  clear_value v4
  exact Holds.ite (sound_emitTok h5) h5
theorem sound_markStep {s : State} {n : ℕ} {u : FUnit} {a : Token} {b : Token} (hs : Holds Sound s) : Holds (okProd Sound
    anyP) (markStep s n u a b) := by
  unfold markStep
  refine Holds.ite ?_ ?_
  · exact Holds.pair hs Holds.any
  · refine Holds.ite ?_ ?_
    · extract_lets +onlyGivenNames v1
      have h2 : Holds Sound v1 := sound_emitMark (sound_flushPair hs)
      clear_value v1
      exact Holds.pair (sound_State_modFlow h2) Holds.any
    · exact Holds.pair (sound_endUnit (sound_emitMark (sound_flushPair hs))) Holds.any
theorem sound_fillSide {s : State} {n : ℕ} {u : FUnit} {k : ℕ} (hs : Holds Sound s) : Holds (okProd Sound anyP) (fillSide s n
    u k) := by
  unfold fillSide
  refine sound_takeStep ?_ ?_
  · exact hs
  · intro s1 h2 x3
    extract_lets +onlyGivenNames v4 v5 v6
    split
    · extract_lets +onlyGivenNames v9
      split
      · exact Holds.pair h2 Holds.any
      · exact Holds.pair (sound_State_modFlow h2) Holds.any
    · exact Holds.pair (sound_State_modFlow h2) Holds.any
theorem sound_emitPair {s : State} {n : ℕ} {u : FUnit} {c : ℕ} {ra : ℕ} {rb : ℕ} (hs : Holds Sound s) : Holds Sound (emitPair
    s n u c ra rb) := by
  unfold emitPair
  extract_lets +onlyGivenNames v1
  have h2 : Holds Sound v1 := sound_State_modFlow hs
  clear_value v1
  exact Holds.ite (sound_flushPair h2) h2
theorem sound_dropSide {s : State} {n : ℕ} {u : FUnit} {k : ℕ} (hs : Holds Sound s) : Holds Sound (dropSide s n u k) := by
  unfold dropSide
  exact sound_State_modFlow hs
theorem sound_loneStep {s : State} {n : ℕ} {u : FUnit} {isUnion : Bool} {k : ℕ} {e : ℕ × ℕ} {m : Token} (hs : Holds Sound s) :
    Holds (okProd Sound anyP) (loneStep s n u isUnion k e m) := by
  unfold loneStep
  refine Holds.ite ?_ ?_
  · exact Holds.pair hs Holds.any
  · extract_lets +onlyGivenNames v1 v2
    have h3 : Holds Sound v2 := sound_dropSide hs
    clear_value v2
    refine Holds.ite ?_ ?_
    · exact Holds.pair h3 Holds.any
    · exact Holds.ite (Holds.pair (sound_emitPair h3) Holds.any) (Holds.pair (sound_emitPair h3) Holds.any)
theorem sound_sendSkip {s : State} {n : ℕ} {u : FUnit} {k : ℕ} {t : ℕ} {lag : ℕ} (hs : Holds Sound s) : Holds Sound (sendSkip
    s n u k t lag) := by
  unfold sendSkip
  extract_lets +onlyGivenNames v1
  split
  · exact Holds.ite (sound_State_modFlow (sound_enterPort hs)) hs
  · exact hs
theorem sound_elemStep {s : State} {n : ℕ} {u : FUnit} {isUnion : Bool} {a : ℕ × ℕ} {b : ℕ × ℕ} (hs : Holds Sound s) : Holds
    (okProd Sound anyP) (elemStep s n u isUnion a b) := by
  unfold elemStep
  extract_lets +onlyGivenNames v1
  refine Holds.ite ?_ ?_
  · exact Holds.pair (sound_emitPair (sound_dropSide (sound_dropSide hs))) Holds.any
  · refine Holds.ite ?_ ?_
    · extract_lets +onlyGivenNames v2
      have h3 : Holds Sound v2 := sound_dropSide hs
      clear_value v2
      exact Holds.pair (Holds.ite (sound_emitPair h3) (sound_sendSkip h3)) Holds.any
    · extract_lets +onlyGivenNames v4
      have h5 : Holds Sound v4 := sound_dropSide hs
      clear_value v4
      exact Holds.pair (Holds.ite (sound_emitPair h5) (sound_sendSkip h5)) Holds.any
theorem sound_pairStep {isUnion : Bool} {s : State} {n : ℕ} {u : FUnit} (hs : Holds Sound s) : Holds (okProd Sound anyP)
    (pairStep isUnion s n u) := by
  unfold pairStep
  extract_lets +onlyGivenNames v1
  refine Holds.ite ?_ ?_
  · exact sound_fillSide hs
  · refine Holds.ite ?_ ?_
    · exact sound_fillSide hs
    · split
      · exact sound_elemStep hs
      · exact sound_loneStep hs
      · exact sound_loneStep hs
      · exact sound_markStep hs
      · exact Holds.pair hs Holds.any
theorem sound_emitBoth {s : State} {n : ℕ} {u : FUnit} {t : Token} (hs : Holds Sound s) : Holds Sound (emitBoth s n u t) := by
  unfold emitBoth
  exact sound_emitTok (sound_emitTok hs)
theorem sound_emitStop {s : State} {n : ℕ} {u : FUnit} {k : ℕ} (hs : Holds Sound s) : Holds Sound (emitStop s n u k) := by
  unfold emitStop
  exact sound_State_modFlow (sound_emitBoth hs)
theorem sound_rootStep {s : State} {n : ℕ} {u : FUnit} (hs : Holds Sound s) : Holds (okProd Sound anyP) (rootStep s n u) := by
  unfold rootStep
  extract_lets +onlyGivenNames v1 v2
  have h3 : Holds Sound v2 := sound_State_modFlow hs
  clear_value v2
  refine Holds.ite ?_ ?_
  · exact Holds.pair (sound_State_modFlow h3) Holds.any
  · refine Holds.ite ?_ ?_
    · exact Holds.pair (sound_emitStop (sound_State_modFlow h3)) Holds.any
    · exact Holds.pair (sound_endUnit (sound_emitBoth h3)) Holds.any
theorem sound_turnPending {s : State} {n : ℕ} {u : FUnit} (hs : Holds Sound s) : Holds Sound (turnPending s n u) := by
  unfold turnPending
  exact sound_State_modFlow (Holds.ite (sound_emitStop hs) hs)
theorem sound_emitElems {s : State} {n : ℕ} {u : FUnit} {es : List (ℕ × ℕ)} (hs : Holds Sound s) : Holds Sound (emitElems s n
    u es) := by
  unfold emitElems
  exact Holds.ite hs (sound_emitTok (sound_emitTok hs))
theorem sound_setElems {s : State} {n : ℕ} {u : FUnit} {f : Fibre} {es : List (ℕ × ℕ)} (hs : Holds Sound s) : Holds (okProd
    Sound anyP) (setElems s n u f es) := by
  unfold setElems
  split
  · exact Holds.pair hs Holds.any
  · exact Holds.pair (sound_State_modFlow hs) Holds.any
theorem sound_pullFibre {s : State} {n : ℕ} {u : FUnit} {f : Fibre} (hs : Holds Sound s) : Holds (okProd Sound anyP)
    (pullFibre s n u f) := by
  unfold pullFibre
  extract_lets +onlyGivenNames v1
  split
  · extract_lets +onlyGivenNames v4 v5
    exact sound_setElems hs
  · extract_lets +onlyGivenNames v8
    refine sound_Got_andThen ?_ ?_ ?_
    · exact sound_unitRead hs
    · exact hs
    · intro x9 s10 h11
      extract_lets +onlyGivenNames v12
      exact Holds.ite (sound_setElems h11) (sound_Got_andThen (sound_unitRead h11) h11 (fun x13 s14 h15 => sound_setElems h15))
  · exact sound_Got_andThen (sound_unitRead hs) hs (fun x18 s19 h20 => sound_setElems h20)
  · extract_lets +onlyGivenNames v25 v26 v27
    subst v27
    split
    · exact Holds.pair hs Holds.any
    · refine Holds.ite ?_ ?_
      · exact Holds.pair hs Holds.any
      · extract_lets +onlyGivenNames v33
        exact sound_setElems (sound_State_modUnit hs)
theorem sound_fibreStep {s : State} {n : ℕ} {u : FUnit} {f : Fibre} (hs : Holds Sound s) : Holds (okProd Sound anyP)
    (fibreStep s n u f) := by
  unfold fibreStep
  refine Holds.ite ?_ ?_
  · exact Holds.pair (sound_emitElems (sound_State_modFlow hs)) Holds.any
  · refine Holds.ite ?_ ?_
    · exact Holds.ite (sound_pullFibre hs) (Holds.pair hs Holds.any)
    · exact Holds.pair (sound_emitElems (sound_State_modFlow hs)) Holds.any
theorem sound_parentStep {s : State} {n : ℕ} {u : FUnit} (hs : Holds Sound s) : Holds (okProd Sound anyP) (parentStep s n u)
    := by
  unfold parentStep
  refine sound_takeOne ?_ ?_
  · exact hs
  · intro s1 h2 x3
    split
    · exact Holds.pair (sound_State_modFlow h2) Holds.any
    · exact Holds.pair (sound_emitBoth (sound_turnPending h2)) Holds.any
    · exact Holds.ite (Holds.pair h2 Holds.any) (Holds.pair (sound_emitStop (sound_State_modFlow h2)) Holds.any)
    · exact Holds.pair (sound_endUnit (sound_emitBoth h2)) Holds.any
theorem sound_scanStep {s : State} {n : ℕ} {u : FUnit} (hs : Holds Sound s) : Holds (okProd Sound anyP) (scanStep s n u) := by
  unfold scanStep
  extract_lets +onlyGivenNames v1
  split
  · exact sound_fibreStep hs
  · exact Holds.pair (sound_State_modFlow (sound_turnPending hs)) Holds.any
  · exact Holds.ite (sound_parentStep hs) (sound_rootStep hs)
theorem sound_passShape {s : State} {n : ℕ} {u : FUnit} {last : Bool} (hs : Holds Sound s) : Holds (okProd Sound anyP)
    (passShape s n u last) := by
  unfold passShape
  split
  rename_i e4
  have h5 := Holds.of_eq (P := (okProd (okProd Sound anyP) anyP)) e4 (sound_takeTok hs)
  have h6 := Holds.pair1 h5
  refine sound_Ran_next ?_ ?_
  · exact h6
  · intro s7 h8
    extract_lets +onlyGivenNames v9
    have h10 : Holds Sound v9 := sound_emitTok h8
    clear_value v9
    extract_lets +onlyGivenNames v11
    have h12 : Holds Sound v11 := sound_State_modFlow h10
    clear_value v11
    exact Holds.pair (Holds.ite (sound_endUnit h12) h12) Holds.any
theorem sound_refillRing {s : State} {n : ℕ} {u : FUnit} {j : ℕ} {m : ℕ} {k : ℕ → State → Ran} (hs : Holds Sound s) (hk : ∀
    y0, ∀ y1, Holds Sound y1 → Holds (okProd Sound anyP) (k y0 y1)) : Holds (okProd Sound anyP) (refillRing s n u j m k) := by
  unfold refillRing
  extract_lets +onlyGivenNames v1 v2 v3 v4
  refine sound_Got_andThen ?_ ?_ ?_
  · exact sound_unitRead hs
  · exact hs
  · intro x5 s6 h7
    refine sound_Got_andThen ?_ ?_ ?_
    · exact sound_unitLeafWrite h7
    · exact hs
    · intro x8 s9 h10
      apply hk
      exact sound_State_modFlow h10
theorem sound_moreRefill {s : State} {n : ℕ} {u : FUnit} {f : Fibre} (hs : Holds Sound s) : Holds (okProd Sound anyP)
    (moreRefill s n u f) := by
  unfold moreRefill
  extract_lets +onlyGivenNames v1
  refine Holds.ite ?_ ?_
  · exact Holds.pair hs Holds.any
  · exact sound_refillRing hs (fun x2 s3 h4 => Holds.pair (sound_State_modFlow h4) Holds.any)
theorem sound_readPos {s : State} {n : ℕ} {u : FUnit} {f : Fibre} (hs : Holds Sound s) : Holds (okProd Sound anyP) (readPos s
    n u f) := by
  unfold readPos
  extract_lets +onlyGivenNames v1 v2
  refine sound_Got_andThen ?_ ?_ ?_
  · exact sound_unitRead hs
  · exact hs
  · intro x3 s4 h5
    extract_lets +onlyGivenNames v6 v7
    refine Holds.ite ?_ ?_
    · exact Holds.ite (Holds.pair (sound_State_modFlow (sound_State_modUnit h5)) Holds.any) (Holds.pair h5 Holds.any)
    · exact Holds.pair (sound_State_modFlow h5) Holds.any
theorem sound_firstRefill {s : State} {n : ℕ} {u : FUnit} {f : Fibre} (hs : Holds Sound s) : Holds (okProd Sound anyP)
    (firstRefill s n u f) := by
  unfold firstRefill
  split
  · exact sound_readPos hs
  · extract_lets +onlyGivenNames v7 v8
    refine Holds.ite ?_ ?_
    · exact sound_refillRing hs (fun x9 s10 h11 => Holds.pair (sound_State_modFlow h11) Holds.any)
    · exact sound_Got_andThen (sound_unitLeafWrite hs) hs (fun x12 s13 h14 => Holds.pair (sound_State_modFlow h14) Holds.any)
theorem sound_fetchElement {s : State} {n : ℕ} {u : FUnit} (hs : Holds Sound s) : Holds (okProd Sound anyP) (fetchElement s n
    u) := by
  unfold fetchElement
  split
  · exact Holds.pair hs Holds.any
  · refine Holds.ite ?_ ?_
    · exact Holds.pair hs Holds.any
    · split
      rename_i e9
      have h10 := Holds.of_eq (P := (okProd (okProd Sound anyP) anyP)) e9 (sound_takeTok hs)
      have h11 := Holds.pair1 h10
      refine sound_Ran_next ?_ ?_
      · exact h11
      · intro s12 h13
        extract_lets +onlyGivenNames v14
        refine Holds.ite ?_ ?_
        · exact Holds.pair h13 Holds.any
        · extract_lets +onlyGivenNames v15
          exact Holds.pair (sound_State_modFlow h13) Holds.any
theorem sound_repeatData {s : State} {n : ℕ} {u : FUnit} (hs : Holds Sound s) : Holds (okProd Sound anyP) (repeatData s n u)
    := by
  unfold repeatData
  split
  rename_i e4
  have h5 := Holds.of_eq (P := (okProd (okProd Sound anyP) anyP)) e4 (sound_takeTok hs)
  have h6 := Holds.pair1 h5
  refine sound_Ran_next ?_ ?_
  · exact h6
  · intro s7 h8
    extract_lets +onlyGivenNames v9 v10
    exact Holds.pair (sound_emitTok h8) Holds.any
theorem sound_matchMark {s : State} {n : ℕ} {u : FUnit} {want : Token} {k : State → Ran} (hs : Holds Sound s) (hk : ∀ y0,
    Holds Sound y0 → Holds (okProd Sound anyP) (k y0)) : Holds (okProd Sound anyP) (matchMark s n u want k) := by
  unfold matchMark
  extract_lets +onlyGivenNames v1
  refine Holds.ite ?_ ?_
  · exact Holds.pair hs Holds.any
  · split
    · exact Holds.pair hs Holds.any
    · refine Holds.ite ?_ ?_
      · exact Holds.left (P := (okProd Sound anyP)) (Q := anyP) (sound_takeTok hs)
      · refine Holds.ite ?_ ?_
        · exact Holds.pair hs Holds.any
        · refine sound_Ran_next ?_ ?_
          · exact Holds.left (P := (okProd Sound anyP)) (Q := anyP) (sound_takeTok hs)
          · intro s7 h8
            apply hk
            exact h8
theorem sound_holdElement {s : State} {n : ℕ} {u : FUnit} (hs : Holds Sound s) : Holds Sound (holdElement s n u) := by
  unfold holdElement
  exact sound_State_modFlow hs
theorem sound_repeatStep {s : State} {n : ℕ} {u : FUnit} (hs : Holds Sound s) : Holds (okProd Sound anyP) (repeatStep s n u)
    := by
  unfold repeatStep
  split
  · exact Holds.pair hs Holds.any
  · extract_lets +onlyGivenNames v6
    refine Holds.ite ?_ ?_
    · exact Holds.left (P := (okProd Sound anyP)) (Q := anyP) (sound_takeTok hs)
    · refine Holds.ite ?_ ?_
      · exact Holds.ite (sound_fetchElement hs) (Holds.pair (sound_holdElement hs) Holds.any)
      · split
        · exact sound_repeatData hs
        · exact sound_repeatData hs
        · exact Holds.ite (sound_passShape hs) (sound_matchMark hs (fun s13 h14 => sound_passShape h14))
        · exact sound_matchMark hs (fun s17 h18 => sound_passShape h18)
        · exact Holds.left (P := (okProd Sound anyP)) (Q := anyP) (sound_takeTok hs)
theorem sound_execIsectStep {leaf : ℕ} {u : FUnit} {s : State} (hs : Holds Sound s) : Holds (okNext Sound) (execIsectStep leaf
    u s) := by
  unfold execIsectStep
  exact sound_unitStep hs (fun s1 h2 => sound_pairStep h2)
theorem sound_execRepeatStep {leaf : ℕ} {u : FUnit} {s : State} (hs : Holds Sound s) : Holds (okNext Sound) (execRepeatStep
    leaf u s) := by
  unfold execRepeatStep
  exact sound_unitStep hs (fun s1 h2 => sound_repeatStep h2)
theorem sound_execUnionStep {leaf : ℕ} {u : FUnit} {s : State} (hs : Holds Sound s) : Holds (okNext Sound) (execUnionStep leaf
    u s) := by
  unfold execUnionStep
  exact sound_unitStep hs (fun s1 h2 => sound_pairStep h2)
theorem sound_execSkipReceive {leaf : ℕ} {u : FUnit} {s : State} (hs : Holds Sound s) : Holds (okNext Sound) (execSkipReceive
    leaf u s) := by
  unfold execSkipReceive
  refine Holds.ite ?_ ?_
  · exact Holds.fault
  · refine Holds.ite ?_ ?_
    · exact sound_idle hs
    · extract_lets +onlyGivenNames v1
      split
      · refine Holds.ite ?_ ?_
        · exact Holds.next (sound_settleUnit (Holds.pair hs Holds.any))
        · extract_lets +onlyGivenNames v8
          have h9 : Holds Sound v8 := sound_dropHead hs
          clear_value v8
          exact Holds.next (sound_State_modFlow h9)
      · exact sound_idle hs
theorem sound_execScannerRefill {leaf : ℕ} {u : FUnit} {s : State} (hs : Holds Sound s) : Holds (okNext Sound)
    (execScannerRefill leaf u s) := by
  unfold execScannerRefill
  refine sound_unitStep ?_ ?_
  · exact hs
  · intro s1 h2
    split
    · exact Holds.ite (sound_moreRefill h2) (sound_firstRefill h2)
    · exact Holds.pair h2 Holds.any
theorem sound_execScannerStep {leaf : ℕ} {u : FUnit} {s : State} (hs : Holds Sound s) : Holds (okNext Sound) (execScannerStep
    leaf u s) := by
  unfold execScannerStep
  exact sound_unitStep hs (fun s1 h2 => sound_scanStep h2)

end Sys2Proof.Machine
end

