-- ==== Sys2Proof/Laws/SoundSpine.lean ====
section
/-!
SUPPORT. The functions of FlowOps, Kv, Nodes, Launch, Vector keep what `State.sound` says, one lemma per function.
-/

set_option Elab.async false

namespace Sys2Proof.Machine

/-! ### FlowOps -/

theorem sound_lwriteAccess {n : ℕ} {u : FUnit} {ts : List Token} {s : State} {k : ℕ} (hs : Holds Sound s) : Holds (okOk
    (okProd anyP Sound)) (lwriteAccess n u ts s k) := by
  unfold lwriteAccess
  extract_lets +onlyGivenNames v1 v2 v3 v4
  refine Holds.ite ?_ ?_
  · exact Holds.ok (Holds.pair Holds.any hs)
  · refine Holds.ite ?_ ?_
    · exact Holds.ite (sound_unitWrite hs) (Holds.ok (Holds.pair Holds.any hs))
    · extract_lets +onlyGivenNames v5
      subst v5
      refine Holds.ite ?_ ?_
      · refine Holds.mapOk (P := (okProd anyP Sound)) ?_ ?_
        · exact sound_unitWrite hs
        · intro x6 h7
          refine Holds.pair ?_ ?_
          · exact Holds.any
          · beta_reduce
            exact sound_State_modFlow (Holds.right (P := anyP) (Q := Sound) h7)
      · refine Holds.ok ?_
        refine Holds.pair ?_ ?_
        · exact Holds.any
        · beta_reduce
          exact sound_State_modFlow hs
theorem sound_keepToks {s : State} {n : ℕ} {u : FUnit} {ts : List Token} (hs : Holds Sound s) : Holds Sound (keepToks s n u
    ts) := by
  unfold keepToks
  exact sound_State_modFlow hs
theorem sound_lanesLoop {n : ℕ} {u : FUnit} {total : ℕ} {act : State → ℕ → Got Unit} {a4 : ℕ} {a5 : State} (hact : ∀ y0, Holds
    Sound y0 → ∀ y1, Holds (okOk (okProd anyP Sound)) (act y0 y1)) (ha5 : Holds Sound a5) : Holds (okProd Sound anyP)
    (lanesLoop n u total act a4 a5) := by
  induction a4 generalizing n u total a5 with
  | zero =>
    unfold lanesLoop
    exact Holds.pair ha5 Holds.any
  | succ k ih =>
    unfold lanesLoop
    extract_lets +onlyGivenNames v1
    refine Holds.ite ?_ ?_
    · exact Holds.pair ha5 Holds.any
    · split
      · rename_i e5
        refine Holds.cut (P := (okOk (okProd anyP Sound))) (Holds.of_eq e5 ?_) fun h6 => ?_
        · apply hact
          exact ha5
        have h7 := Holds.un_ok h6
        have h8 := Holds.pair2 h7
        apply ih
        exact sound_State_modFlow h8
      · rename_i e11
        refine Holds.cut (P := (okOk (okProd anyP Sound))) (Holds.of_eq e11 ?_) fun h12 => ?_
        · apply hact
          exact ha5
        exact Holds.pair ha5 Holds.any
theorem sound_dropToks {s : State} {n : ℕ} {u : FUnit} (hs : Holds Sound s) : Holds Sound (dropToks s n u) := by
  unfold dropToks
  exact sound_State_modFlow hs
theorem sound_lwriteMark {s : State} {n : ℕ} {u : FUnit} {t : Token} (hs : Holds Sound s) : Holds (okProd Sound anyP)
    (lwriteMark s n u t) := by
  unfold lwriteMark
  extract_lets +onlyGivenNames v1 v2
  refine Holds.ite ?_ ?_
  · refine sound_Got_andThen ?_ ?_ ?_
    · exact Holds.ite (sound_unitWrite hs) (Holds.ok (Holds.pair Holds.any hs))
    · exact hs
    · intro x3 s4 h5
      exact Holds.pair (sound_State_modFlow (sound_dropToks h5)) Holds.any
  · refine sound_Got_andThen ?_ ?_ ?_
    · exact Holds.ite (sound_unitWrite hs) (Holds.ok (Holds.pair Holds.any hs))
    · exact hs
    · intro x6 s7 h8
      exact Holds.pair (sound_endUnit (sound_dropToks h8)) Holds.any
theorem sound_lwriteStep {s : State} {n : ℕ} {u : FUnit} (hs : Holds Sound s) : Holds (okProd Sound anyP) (lwriteStep s n u)
    := by
  unfold lwriteStep
  extract_lets +onlyGivenNames v1 v2
  refine Holds.ite ?_ ?_
  · refine sound_Got_andThen ?_ ?_ ?_
    · exact Holds.ite (sound_unitWrite hs) (Holds.ok (Holds.pair Holds.any hs))
    · exact hs
    · intro x3 s4 h5
      exact Holds.pair (sound_State_modFlow h5) Holds.any
  · split
    · refine Holds.ite ?_ ?_
      · refine sound_Ran_next ?_ ?_
        · exact sound_lanesLoop (fun s10 h11 x12 => sound_lwriteAccess h11) hs
        · intro s13 h14
          exact Holds.pair (sound_dropToks h14) Holds.any
      · exact sound_lwriteMark hs
    · exact sound_takeStep hs (fun s17 h18 x19 => Holds.pair (sound_keepToks h18) Holds.any)
theorem sound_execLwriteStep {leaf : ℕ} {u : FUnit} {s : State} (hs : Holds Sound s) : Holds (okNext Sound) (execLwriteStep
    leaf u s) := by
  unfold execLwriteStep
  exact sound_unitStep hs (fun s1 h2 => sound_lwriteStep h2)
theorem sound_emitOuts {n : ℕ} {u : FUnit} {a2 : List ((ℕ × Option ℕ) × Token)} {a3 : State} (ha3 : Holds Sound a3) : Holds
    Sound (emitOuts n u a2 a3) := by
  induction a2 generalizing n u a3 with
  | nil =>
    unfold emitOuts
    exact ha3
  | cons z zs ih =>
    unfold emitOuts
    split
    · exact ha3
    · rename_i e12
      cases e12
      apply ih
      exact sound_emitTok ha3
    · rename_i e19
      cases e19
      apply ih
      exact ha3
theorem sound_filterStep {s : State} {n : ℕ} {u : FUnit} (hs : Holds Sound s) : Holds (okProd Sound anyP) (filterStep s n u)
    := by
  unfold filterStep
  extract_lets +onlyGivenNames v1
  refine sound_takeStep ?_ ?_
  · exact hs
  · intro s2 h3 x4
    extract_lets +onlyGivenNames v5 v6 v7
    split
    · extract_lets +onlyGivenNames v10
      exact Holds.ite (Holds.pair h3 Holds.any) (Holds.pair (sound_emitOuts h3) Holds.any)
    · exact Holds.pair (sound_endUnit (sound_emitOuts h3)) Holds.any
    · exact Holds.pair (sound_emitOuts h3) Holds.any
theorem sound_readWord {s : State} {n : ℕ} {u : FUnit} {device : Bool} {detail : ℕ} {a : ℤ} (hs : Holds Sound s) : Holds (okOk
    (okProd anyP Sound)) (readWord s n u device detail a) := by
  unfold readWord
  exact Holds.ite (Holds.ite Holds.error (sound_unitRead hs)) (Holds.ite Holds.error (sound_unitLeafRead hs))
theorem sound_agenAdvance {s : State} {n : ℕ} {u : FUnit} (hs : Holds Sound s) : Holds Sound (agenAdvance s n u) := by
  unfold agenAdvance
  extract_lets +onlyGivenNames v1 v2 v3
  exact sound_State_modFlow hs
theorem sound_agenStore {n : ℕ} {u : FUnit} {t : Token} {s : State} {j : ℕ} (hs : Holds Sound s) : Holds (okOk (okProd anyP
    Sound)) (agenStore n u t s j) := by
  unfold agenStore
  extract_lets +onlyGivenNames v1
  exact Holds.ite (Holds.ok (Holds.pair Holds.any hs)) (Holds.ite Holds.error (sound_unitWrite hs))
theorem sound_agenTake {s : State} {n : ℕ} {u : FUnit} (hs : Holds Sound s) : Holds (okProd Sound anyP) (agenTake s n u) := by
  unfold agenTake
  extract_lets +onlyGivenNames v1
  split
  · refine sound_Ran_next ?_ ?_
    · exact sound_lanesLoop (fun s6 h7 x8 => sound_agenStore h7) hs
    · intro s9 h10
      exact Holds.pair (sound_dropToks (sound_agenAdvance h10)) Holds.any
  · refine sound_takeOne ?_ ?_
    · exact hs
    · intro s13 h14 x15
      extract_lets +onlyGivenNames v16
      refine Holds.ite ?_ ?_
      · exact Holds.pair h14 Holds.any
      · split
        · exact Holds.pair (sound_keepToks h14) Holds.any
        · exact Holds.pair (sound_State_modFlow h14) Holds.any
        · exact Holds.pair (sound_endUnit h14) Holds.any
theorem sound_unitFlags {s : State} {n : ℕ} {u : FUnit} {f : Flags6} (hs : Holds Sound s) : Holds Sound (unitFlags s n u f) :=
    by
  unfold unitFlags
  exact sound_State_modUnit hs
theorem sound_reduceLanes {n : ℕ} {u : FUnit} {t : Token} {s : State} (hs : Holds Sound s) : Holds Sound (reduceLanes n u t s)
    := by
  unfold reduceLanes
  refine Holds.foldl ?_ ?_
  · exact hs
  · intro s1 x2 h3
    extract_lets +onlyGivenNames v4
    split
    exact sound_unitFlags (sound_State_modFlow h3)
theorem sound_countDraw {s : State} {n : ℕ} {u : FUnit} (hs : Holds Sound s) : Holds Sound (countDraw s n u) := by
  unfold countDraw
  exact sound_State_modUnit hs
theorem sound_flushPacked {s : State} {n : ℕ} {u : FUnit} {outs : ℕ} (hs : Holds Sound s) : Holds Sound (flushPacked s n u
    outs) := by
  unfold flushPacked
  extract_lets +onlyGivenNames v1
  exact Holds.ite hs (sound_State_modFlow (Holds.foldl hs (fun s2 x3 h4 => sound_emitTok h4)))
theorem sound_pushPacked {s : State} {n : ℕ} {u : FUnit} {outs : ℕ} {e : List Word32} (hs : Holds Sound s) : Holds Sound
    (pushPacked s n u outs e) := by
  unfold pushPacked
  extract_lets +onlyGivenNames v1
  have h2 : Holds Sound v1 := sound_State_modFlow hs
  clear_value v1
  exact Holds.ite (sound_flushPacked h2) h2
theorem sound_reduceStep {s : State} {n : ℕ} {u : FUnit} (hs : Holds Sound s) : Holds (okProd Sound anyP) (reduceStep s n u)
    := by
  unfold reduceStep
  extract_lets +onlyGivenNames v1 v2
  refine sound_takeOne ?_ ?_
  · exact hs
  · intro s3 h4 x5
    split
    · exact Holds.pair (sound_reduceLanes (sound_countDraw h4)) Holds.any
    · refine Holds.ite ?_ ?_
      · exact Holds.pair h4 Holds.any
      · extract_lets +onlyGivenNames v10
        have h11 : Holds Sound v10 := sound_State_modFlow (sound_pushPacked h4)
        clear_value v10
        exact Holds.ite (Holds.pair h11 Holds.any) (Holds.pair (sound_emitTok (sound_flushPacked h11)) Holds.any)
    · exact Holds.ite (Holds.pair h4 Holds.any) (Holds.pair (sound_endUnit (sound_emitTok h4)) Holds.any)
    · exact Holds.pair h4 Holds.any
theorem sound_execReduceStep {leaf : ℕ} {u : FUnit} {s : State} (hs : Holds Sound s) : Holds (okNext Sound) (execReduceStep
    leaf u s) := by
  unfold execReduceStep
  exact sound_unitStep hs (fun s1 h2 => sound_reduceStep h2)
theorem sound_emitOrder {s : State} {n : ℕ} {u : FUnit} {last : Bool} (hs : Holds Sound s) : Holds Sound (emitOrder s n u
    last) := by
  unfold emitOrder
  exact Holds.ite (sound_emitTok hs) hs
theorem sound_scatterLeaf {s : State} {n : ℕ} {u : FUnit} {la : ℕ} {v : Word32} (hs : Holds Sound s) : Holds (okOk (okProd
    anyP Sound)) (scatterLeaf s n u la v) := by
  unfold scatterLeaf
  extract_lets +onlyGivenNames v1
  refine Holds.ite ?_ ?_
  · refine Holds.bindOk (P := (okProd anyP Sound)) ?_ ?_
    · exact sound_unitLeafRead hs
    · intro x2 h3
      split
      refine Holds.mapOk (P := (okProd anyP Sound)) ?_ ?_
      · exact sound_unitLeafWrite (Holds.right (P := anyP) (Q := Sound) h3)
      · intro x8 h9
        exact Holds.pair Holds.any (sound_unitFlags (Holds.right (P := anyP) (Q := Sound) h9))
  · exact sound_unitLeafWrite hs
theorem sound_scatterAtomic {s : State} {n : ℕ} {u : FUnit} {va : ℕ} {v : Word32} (hs : Holds Sound s) : Holds (okOk (okProd
    anyP Sound)) (scatterAtomic s n u va v) := by
  unfold scatterAtomic
  extract_lets +onlyGivenNames v1 v2 v3 v4
  split
  · rename_i e7
    have h8 := Holds.of_eq (P := (okOk (okProd anyP Sound))) e7 (sound_unitTrans hs)
    exact Holds.error
  · rename_i e12
    have h13 := Holds.of_eq (P := (okOk (okProd anyP Sound))) e12 (sound_unitTrans hs)
    have h14 := Holds.un_ok h13
    have h15 := Holds.pair2 h14
    refine Holds.ite ?_ ?_
    · exact Holds.error
    · refine Holds.ite ?_ ?_
      · exact Holds.error
      · refine Holds.ite ?_ ?_
        · split
          · rename_i e18
            have h19 := Holds.of_eq (P := (okOk Sound)) e18 (sound_sendAtom h15)
            have h20 := Holds.un_ok h19
            exact Holds.ok (Holds.pair Holds.any (sound_unitFreed h20))
          · rename_i e23
            have h24 := Holds.of_eq (P := (okOk Sound)) e23 (sound_sendAtom h15)
            exact Holds.error
        · split
          · rename_i e27
            have h28 := Holds.of_eq (P := (okOk Sound)) e27 (sound_unitTurn h15)
            exact Holds.error
          · rename_i e31
            have h32 := Holds.of_eq (P := (okOk Sound)) e31 (sound_unitTurn h15)
            have h33 := Holds.un_ok h32
            exact Holds.ite Holds.error (Holds.ok (Holds.pair Holds.any (Holds.right (P := anyP) (Q := Sound) (sound_hbmAtomic h33))))
theorem sound_scatterLane {n : ℕ} {u : FUnit} {ts : List Token} {s : State} {i : ℕ} (hs : Holds Sound s) : Holds (okOk (okProd
    anyP Sound)) (scatterLane n u ts s i) := by
  unfold scatterLane
  extract_lets +onlyGivenNames v1 v2 v3 v4
  refine Holds.ite ?_ ?_
  · exact Holds.ok (Holds.pair Holds.any hs)
  · refine Holds.ite ?_ ?_
    · exact Holds.ite Holds.error (Holds.ite (sound_scatterAtomic hs) (sound_unitWrite hs))
    · exact Holds.ite Holds.error (sound_scatterLeaf hs)
theorem sound_scatterStep {s : State} {n : ℕ} {u : FUnit} (hs : Holds Sound s) : Holds (okProd Sound anyP) (scatterStep s n u)
    := by
  unfold scatterStep
  split
  · refine sound_Ran_next ?_ ?_
    · exact sound_lanesLoop (fun s5 h6 x7 => sound_scatterLane h6) hs
    · intro s8 h9
      exact Holds.pair (sound_emitOrder (sound_dropToks h9)) Holds.any
  · refine sound_takeStep ?_ ?_
    · exact hs
    · intro s12 h13 x14
      split
      · exact Holds.pair (sound_keepToks h13) Holds.any
      · exact Holds.pair (sound_endUnit (sound_emitOrder h13)) Holds.any
      · exact Holds.pair (sound_emitOrder h13) Holds.any
theorem sound_execScatterStep {leaf : ℕ} {u : FUnit} {s : State} (hs : Holds Sound s) : Holds (okNext Sound) (execScatterStep
    leaf u s) := by
  unfold execScatterStep
  exact sound_unitStep hs (fun s1 h2 => sound_scatterStep h2)
theorem sound_spaccLane {n : ℕ} {u : FUnit} {ts : List Token} {s : State} {i : ℕ} (hs : Holds Sound s) : Holds (okOk (okProd
    anyP Sound)) (spaccLane n u ts s i) := by
  unfold spaccLane
  extract_lets +onlyGivenNames v1
  refine Holds.ite ?_ ?_
  · exact Holds.ok (Holds.pair Holds.any hs)
  · extract_lets +onlyGivenNames v2 v3 v4
    refine Holds.ite ?_ ?_
    · exact Holds.error
    · extract_lets +onlyGivenNames v5 v6
      split
      · rename_i e10
        have h11 := Holds.of_eq (P := (okOk (okProd anyP Sound))) e10 (sound_unitLeafRead hs)
        exact Holds.error
      · rename_i e15 _
        have h17 := Holds.of_eq (P := (okOk (okProd anyP Sound))) e15 (sound_unitLeafRead hs)
        exact Holds.error
      · rename_i e24 e25
        have h26 := Holds.of_eq (P := (okOk (okProd anyP Sound))) e24 (sound_unitLeafRead hs)
        have h27 := Holds.of_eq (P := (okOk (okProd anyP Sound))) e25 (sound_unitLeafRead hs)
        have h28 := Holds.un_ok h26
        have h29 := Holds.un_ok h27
        have h30 := Holds.pair2 h28
        have h31 := Holds.pair2 h29
        extract_lets +onlyGivenNames v32
        refine Holds.ite ?_ ?_
        · split
          refine Holds.mapOk (P := (okProd anyP Sound)) ?_ ?_
          · exact sound_unitLeafWrite hs
          · intro x37 h38
            exact Holds.pair Holds.any (sound_unitFlags (Holds.right (P := anyP) (Q := Sound) h38))
        · refine Holds.bindOk (P := (okProd anyP Sound)) ?_ ?_
          · exact sound_unitLeafWrite hs
          · intro x39 h40
            exact sound_unitLeafWrite (Holds.right (P := anyP) (Q := Sound) h40)
theorem sound_gatherLane {n : ℕ} {u : FUnit} {t : Token} {s : State} {i : ℕ} (hs : Holds Sound s) : Holds (okOk (okProd anyP
    Sound)) (gatherLane n u t s i) := by
  unfold gatherLane
  extract_lets +onlyGivenNames v1 v2
  subst v2
  refine Holds.ite ?_ ?_
  · refine Holds.ok ?_
    refine Holds.pair ?_ ?_
    · exact Holds.any
    · beta_reduce
      exact sound_State_modFlow hs
  · refine Holds.ite ?_ ?_
    · refine Holds.ok ?_
      refine Holds.pair ?_ ?_
      · exact Holds.any
      · beta_reduce
        exact sound_State_modFlow hs
    · refine Holds.mapOk (P := (okProd anyP Sound)) ?_ ?_
      · exact sound_readWord hs
      · intro x3 h4
        refine Holds.pair ?_ ?_
        · exact Holds.any
        · beta_reduce
          exact sound_State_modFlow (Holds.right (P := anyP) (Q := Sound) h4)
theorem sound_takeOrder {s : State} {n : ℕ} {u : FUnit} (hs : Holds Sound s) : Holds (okProd Sound anyP) (takeOrder s n u) := by
  unfold takeOrder
  exact sound_takeOne hs (fun s1 h2 x3 => Holds.pair (sound_State_modFlow h2) Holds.any)
theorem sound_gatherStep {s : State} {n : ℕ} {u : FUnit} (hs : Holds Sound s) : Holds (okProd Sound anyP) (gatherStep s n u)
    := by
  unfold gatherStep
  extract_lets +onlyGivenNames v1 v2
  split
  · refine sound_Ran_next ?_ ?_
    · exact sound_lanesLoop (fun s7 h8 x9 => sound_gatherLane h8) hs
    · intro s10 h11
      extract_lets +onlyGivenNames v12
      exact Holds.pair (sound_dropToks (sound_emitTok h11)) Holds.any
  · refine Holds.ite ?_ ?_
    · exact sound_takeOrder hs
    · refine sound_takeOne ?_ ?_
      · exact hs
      · intro s15 h16 x17
        extract_lets +onlyGivenNames v18
        have h19 : Holds Sound v18 := sound_State_modFlow h16
        clear_value v18
        split
        · exact Holds.pair (sound_keepToks h19) Holds.any
        · exact Holds.pair (sound_endUnit (sound_emitTok h19)) Holds.any
        · exact Holds.pair (sound_emitTok h19) Holds.any
theorem sound_drainOne {s : State} {n : ℕ} {u : FUnit} {c : ℕ} (hs : Holds Sound s) : Holds (okProd Sound anyP) (drainOne s n
    u c) := by
  unfold drainOne
  extract_lets +onlyGivenNames v1 v2 v3
  refine sound_Got_andThen ?_ ?_ ?_
  · exact sound_unitLeafRead hs
  · exact hs
  · intro x4 s5 h6
    refine sound_Got_andThen ?_ ?_ ?_
    · exact sound_unitLeafRead hs
    · exact hs
    · intro x7 s8 h9
      refine sound_Got_andThen ?_ ?_ ?_
      · exact sound_unitLeafWrite hs
      · exact hs
      · intro x10 s11 h12
        refine sound_Got_andThen ?_ ?_ ?_
        · exact sound_unitLeafWrite h12
        · exact hs
        · intro x13 s14 h15
          exact Holds.pair (sound_pushPacked (sound_State_modFlow h15)) Holds.any
theorem sound_drainStep {s : State} {n : ℕ} {u : FUnit} {c : ℕ} (hs : Holds Sound s) : Holds (okProd Sound anyP) (drainStep s
    n u c) := by
  unfold drainStep
  extract_lets +onlyGivenNames v1
  refine Holds.ite ?_ ?_
  · extract_lets +onlyGivenNames v2
    have h3 : Holds Sound v2 := sound_flushPacked hs
    clear_value v2
    extract_lets +onlyGivenNames v4
    exact Holds.pair (sound_State_modFlow (sound_emitTok (sound_emitTok h3))) Holds.any
  · refine sound_Got_andThen ?_ ?_ ?_
    · exact sound_unitLeafRead hs
    · exact hs
    · intro x5 s6 h7
      split
      · exact Holds.ite (Holds.pair (sound_State_modFlow h7) Holds.any) (sound_drainOne h7)
      · exact Holds.pair (sound_State_modFlow h7) Holds.any
theorem sound_spaccStep {s : State} {n : ℕ} {u : FUnit} (hs : Holds Sound s) : Holds (okProd Sound anyP) (spaccStep s n u) := by
  unfold spaccStep
  extract_lets +onlyGivenNames v1
  split
  · exact sound_drainStep hs
  · refine sound_Ran_next ?_ ?_
    · exact sound_lanesLoop (fun s12 h13 x14 => sound_spaccLane h13) hs
    · intro s15 h16
      exact Holds.pair (sound_dropToks h16) Holds.any
  · extract_lets +onlyGivenNames v21
    refine sound_takeStep ?_ ?_
    · exact hs
    · intro s22 h23 x24
      extract_lets +onlyGivenNames v25
      split
      · exact Holds.pair (sound_keepToks (sound_countDraw h23)) Holds.any
      · exact Holds.ite (Holds.pair h23 Holds.any) (Holds.pair (sound_State_modFlow h23) Holds.any)
      · exact Holds.ite (Holds.pair h23 Holds.any) (Holds.pair (sound_endUnit (sound_emitTok (sound_emitTok h23))) Holds.any)
      · exact Holds.pair h23 Holds.any
theorem sound_execSpaccStep {leaf : ℕ} {u : FUnit} {s : State} (hs : Holds Sound s) : Holds (okNext Sound) (execSpaccStep leaf
    u s) := by
  unfold execSpaccStep
  exact sound_unitStep hs (fun s1 h2 => sound_spaccStep h2)
theorem sound_agenLoad {n : ℕ} {u : FUnit} {s : State} {j : ℕ} (hs : Holds Sound s) : Holds (okOk (okProd anyP Sound))
    (agenLoad n u s j) := by
  unfold agenLoad
  refine Holds.mapOk (P := (okProd anyP Sound)) ?_ ?_
  · exact sound_readWord hs
  · intro x1 h2
    exact Holds.pair Holds.any (sound_State_modFlow (Holds.right (P := anyP) (Q := Sound) h2))
theorem sound_agenEmit {s : State} {n : ℕ} {u : FUnit} (hs : Holds Sound s) : Holds (okProd Sound anyP) (agenEmit s n u) := by
  unfold agenEmit
  extract_lets +onlyGivenNames v1
  split
  · exact Holds.pair (sound_State_modFlow (sound_emitTok hs)) Holds.any
  · refine Holds.ite ?_ ?_
    · exact Holds.pair (sound_endUnit (sound_emitTok hs)) Holds.any
    · refine Holds.ite ?_ ?_
      · extract_lets +onlyGivenNames v7
        exact Holds.pair (sound_agenAdvance (sound_emitTok hs)) Holds.any
      · refine Holds.ite ?_ ?_
        · exact Holds.pair hs Holds.any
        · refine sound_Ran_next ?_ ?_
          · exact sound_lanesLoop (fun s8 h9 x10 => sound_agenLoad h9) hs
          · intro s11 h12
            exact Holds.pair (sound_dropToks (sound_agenAdvance (sound_emitTok h12))) Holds.any
theorem sound_execAgenStep {leaf : ℕ} {u : FUnit} {s : State} (hs : Holds Sound s) : Holds (okNext Sound) (execAgenStep leaf u
    s) := by
  unfold execAgenStep
  exact sound_unitStep hs (fun s1 h2 => Holds.ite (sound_agenTake h2) (sound_agenEmit h2))
theorem sound_coalesceStep {s : State} {n : ℕ} {u : FUnit} (hs : Holds Sound s) : Holds (okProd Sound anyP) (coalesceStep s n
    u) := by
  unfold coalesceStep
  extract_lets +onlyGivenNames v1 v2
  subst v2
  refine sound_takeStep ?_ ?_
  · exact hs
  · intro s3 h4 x5
    extract_lets +onlyGivenNames v6
    split
    · extract_lets +onlyGivenNames v9 v10 v11
      have h12 : Holds Sound v11 := Holds.foldl h4 (fun s13 x14 h15 => sound_pushPacked h15)
      clear_value v11
      extract_lets +onlyGivenNames v16
      exact Holds.pair (sound_State_modFlow h12) Holds.any
    · refine Holds.pair ?_ ?_
      · refine sound_endUnit ?_
        beta_reduce
        exact Holds.foldl (sound_flushPacked h4) (fun s19 x20 h21 => sound_emitTok h21)
      · exact Holds.any
    · refine Holds.pair ?_ ?_
      · beta_reduce
        exact Holds.foldl (sound_flushPacked h4) (fun s25 x26 h27 => sound_emitTok h27)
      · exact Holds.any
theorem sound_execGatherStep {leaf : ℕ} {u : FUnit} {s : State} (hs : Holds Sound s) : Holds (okNext Sound) (execGatherStep
    leaf u s) := by
  unfold execGatherStep
  exact sound_unitStep hs (fun s1 h2 => sound_gatherStep h2)
theorem sound_execCoalesceStep {leaf : ℕ} {u : FUnit} {s : State} (hs : Holds Sound s) : Holds (okNext Sound)
    (execCoalesceStep leaf u s) := by
  unfold execCoalesceStep
  exact sound_unitStep hs (fun s1 h2 => sound_coalesceStep h2)
theorem sound_execFilterStep {leaf : ℕ} {u : FUnit} {s : State} (hs : Holds Sound s) : Holds (okNext Sound) (execFilterStep
    leaf u s) := by
  unfold execFilterStep
  exact sound_unitStep hs (fun s1 h2 => sound_filterStep h2)

/-! ### Kv -/

theorem sound_kvTrans {s : State} {e : Option ℕ} {k : ℕ} {va : ℕ} {acc : ℕ} (hs : Holds Sound s) : Holds (okOk (okProd anyP
    Sound)) (kvTrans s e k va acc) := by
  unfold kvTrans
  split
  · split
    · exact Holds.ok (Holds.pair Holds.any hs)
    · exact Holds.error
  · split
    · rename_i e11
      have h12 := Holds.of_eq (P := (okOk (okProd anyP Sound))) e11 (sound_engineTrans hs)
      exact Holds.error
    · rename_i e16
      have h17 := Holds.of_eq (P := (okOk (okProd anyP Sound))) e16 (sound_engineTrans hs)
      have h18 := Holds.un_ok h17
      have h19 := Holds.pair2 h18
      exact Holds.ite Holds.error (Holds.ok (Holds.pair Holds.any h19))
theorem sound_kvTurns {s : State} {e : Option ℕ} {acc : ℕ} {va : ℕ} {pa : ℕ} {n : ℕ} (hs : Holds Sound s) : Holds (okOk Sound)
    (kvTurns s e acc va pa n) := by
  unfold kvTurns
  split
  · exact Holds.ok hs
  · split
    · rename_i e6
      have h7 := Holds.of_eq (P := (okOk Sound)) e6 (sound_allTurns hs)
      exact Holds.error
    · rename_i e10
      have h11 := Holds.of_eq (P := (okOk Sound)) e10 (sound_allTurns hs)
      have h12 := Holds.un_ok h11
      exact Holds.ok h12
theorem sound_kvParts {e : Option ℕ} {k : ℕ} {acc : ℕ} {a3 : List (ℕ × ℕ)} {a4 : List (ℕ × ℕ)} {a5 : State} (ha5 : Holds Sound
    a5) : Holds (okOk (okProd anyP Sound)) (kvParts e k acc a3 a4 a5) := by
  induction a3 generalizing e k acc a4 a5 with
  | nil =>
    unfold kvParts
    exact Holds.ok (Holds.pair Holds.any ha5)
  | cons z zs ih =>
    unfold kvParts
    split
    · rename_i e3
      have h4 := Holds.of_eq (P := (okOk (okProd anyP Sound))) e3 (sound_kvTrans ha5)
      exact Holds.error
    · rename_i e8
      have h9 := Holds.of_eq (P := (okOk (okProd anyP Sound))) e8 (sound_kvTrans ha5)
      have h10 := Holds.un_ok h9
      have h11 := Holds.pair2 h10
      split
      · rename_i e14
        have h15 := Holds.of_eq (P := (okOk Sound)) e14 (sound_kvTurns h11)
        exact Holds.error
      · rename_i e18
        have h19 := Holds.of_eq (P := (okOk Sound)) e18 (sound_kvTurns h11)
        have h20 := Holds.un_ok h19
        apply ih
        exact h20
theorem sound_kvRead {s : State} {e : Option ℕ} {k : ℕ} {va : ℕ} {n : ℕ} (hs : Holds Sound s) : Holds (okOk (okProd anyP
    (okProd anyP Sound))) (kvRead s e k va n) := by
  unfold kvRead
  split
  · rename_i e3
    have h4 := Holds.of_eq (P := (okOk (okProd anyP Sound))) e3 (sound_kvParts hs)
    exact Holds.error
  · rename_i e8
    have h9 := Holds.of_eq (P := (okOk (okProd anyP Sound))) e8 (sound_kvParts hs)
    have h10 := Holds.un_ok h9
    have h11 := Holds.pair2 h10
    exact Holds.ok (Holds.pair Holds.any h10)
theorem sound_kvAwait {s : State} {e : ℕ} {r : EvictReq} {f : KvFail} {fail : State} (hs : Holds Sound s) (hfail : Holds Sound
    fail) : Holds Sound (kvAwait s e r f fail) := by
  unfold kvAwait
  split
  · split
    · exact sound_await hs
    · exact hfail
  · exact hfail
theorem sound_kvSet {s : State} {e : ℕ} {r : EvictReq} {r' : EvictReq} (hs : Holds Sound s) : Holds Sound (kvSet s e r r') := by
  unfold kvSet
  exact Holds.keep hs
theorem sound_kvStatus {s : State} {e : ℕ} {r : EvictReq} {x : KvEnd} (hs : Holds Sound s) : Holds Sound (kvStatus s e r x) :=
    by
  unfold kvStatus
  split
  · rename_i e3
    have h4 := Holds.of_eq (P := (okOk Sound)) e3 (sound_kvTurns hs)
    exact sound_kvAwait hs hs
  · rename_i e7
    have h8 := Holds.of_eq (P := (okOk Sound)) e7 (sound_kvTurns hs)
    have h9 := Holds.un_ok h8
    extract_lets +onlyGivenNames v10 v11
    exact sound_kvSet (sound_hbmWrite (sound_endAccess h9))
theorem sound_kvReadClean {s : State} {e : Option ℕ} {k : ℕ} {va : ℕ} {n : ℕ} (hs : Holds Sound s) : Holds (okOk (okProd anyP
    (okProd anyP Sound))) (kvReadClean s e k va n) := by
  unfold kvReadClean
  split
  · rename_i e3
    have h4 := Holds.of_eq (P := (okOk (okProd anyP (okProd anyP Sound)))) e3 (sound_kvRead hs)
    exact h4
  · rename_i e9
    have h10 := Holds.of_eq (P := (okOk (okProd anyP (okProd anyP Sound)))) e9 (sound_kvRead hs)
    have h11 := Holds.un_ok h10
    have h12 := Holds.pair2 h11
    have h13 := Holds.pair2 h12
    exact Holds.ite Holds.error h10
theorem sound_readPages {u : Option ℕ} {k : ℕ} {plist : ℕ} {seqid : ℕ} {size : ℕ} {a5 : ℕ} {a6 : ℕ} {a7 : Option ℕ} {a8 :
    State} (ha8 : Holds Sound a8) : Holds (okOk (okProd anyP (okProd anyP Sound))) (readPages u k plist seqid size a5 a6 a7
    a8) := by
  induction a5 generalizing u k plist seqid size a6 a7 a8 with
  | zero =>
    unfold readPages
    exact Holds.ok (Holds.pair Holds.any (Holds.pair Holds.any ha8))
  | succ k ih =>
    unfold readPages
    extract_lets +onlyGivenNames v1
    split
    · rename_i e4
      have h5 := Holds.of_eq (P := (okOk (okProd anyP (okProd anyP Sound)))) e4 (sound_kvReadClean ha8)
      exact Holds.error
    · rename_i e10
      have h11 := Holds.of_eq (P := (okOk (okProd anyP (okProd anyP Sound)))) e10 (sound_kvReadClean ha8)
      have h12 := Holds.un_ok h11
      have h13 := Holds.pair2 h12
      have h14 := Holds.pair2 h13
      extract_lets +onlyGivenNames v15 v16
      split
      · exact Holds.error
      · split
        · rename_i e24
          have h25 := Holds.of_eq (P := (okOk (okProd anyP (okProd anyP Sound)))) e24 (sound_kvReadClean h14)
          exact Holds.error
        · rename_i e30
          have h31 := Holds.of_eq (P := (okOk (okProd anyP (okProd anyP Sound)))) e30 (sound_kvReadClean h14)
          have h32 := Holds.un_ok h31
          have h33 := Holds.pair2 h32
          have h34 := Holds.pair2 h33
          split
          · exact Holds.error
          · rename_i e43
            have h44 := Holds.of_eq (P := (okOk (okProd anyP (okProd anyP Sound)))) e43 (sound_kvRead h34)
            exact Holds.error
          · rename_i e51
            have h52 := Holds.of_eq (P := (okOk (okProd anyP (okProd anyP Sound)))) e51 (sound_kvRead h34)
            have h53 := Holds.un_ok h52
            have h54 := Holds.pair2 h53
            have h55 := Holds.pair2 h54
            extract_lets +onlyGivenNames v56
            split
            · rename_i e59
              refine Holds.cut (P := (okOk (okProd anyP (okProd anyP Sound)))) (Holds.of_eq e59 ?_) fun h60 => ?_
              · apply ih
                exact h55
              exact h60
            · rename_i e65
              refine Holds.cut (P := (okOk (okProd anyP (okProd anyP Sound)))) (Holds.of_eq e65 ?_) fun h66 => ?_
              · apply ih
                exact h55
              have h67 := Holds.un_ok h66
              have h68 := Holds.pair2 h67
              have h69 := Holds.pair2 h68
              exact Holds.ok (Holds.pair Holds.any (Holds.pair Holds.any h69))
theorem sound_planWrites {e : Option ℕ} {k : ℕ} {a2 : List (ℕ × List Byte × List Bool)} {a3 : State} (ha3 : Holds Sound a3) :
    Holds (okOk (okProd anyP Sound)) (planWrites e k a2 a3) := by
  induction a2 generalizing e k a3 with
  | nil =>
    unfold planWrites
    exact Holds.ok (Holds.pair Holds.any ha3)
  | cons z zs ih =>
    unfold planWrites
    split
    · rename_i e3
      have h4 := Holds.of_eq (P := (okOk (okProd anyP Sound))) e3 (sound_kvParts ha3)
      exact Holds.error
    · rename_i e8
      have h9 := Holds.of_eq (P := (okOk (okProd anyP Sound))) e8 (sound_kvParts ha3)
      have h10 := Holds.un_ok h9
      have h11 := Holds.pair2 h10
      split
      · rename_i e14
        refine Holds.cut (P := (okOk (okProd anyP Sound))) (Holds.of_eq e14 ?_) fun h15 => ?_
        · apply ih
          exact h11
        exact h15
      · rename_i e19
        refine Holds.cut (P := (okOk (okProd anyP Sound))) (Holds.of_eq e19 ?_) fun h20 => ?_
        · apply ih
          exact h11
        have h21 := Holds.un_ok h20
        have h22 := Holds.pair2 h21
        exact Holds.ok (Holds.pair Holds.any h22)
theorem sound_kvPlan {s : State} {e : Option ℕ} {r : EvictReq} (hs : Holds Sound s) : Holds (okOk (okProd anyP Sound)) (kvPlan
    s e r) := by
  unfold kvPlan
  extract_lets +onlyGivenNames v1
  split
  · rename_i e4
    have h5 := Holds.of_eq (P := (okOk Sound)) e4 (sound_kvTurns hs)
    exact Holds.error
  · rename_i e8
    have h9 := Holds.of_eq (P := (okOk Sound)) e8 (sound_kvTurns hs)
    have h10 := Holds.un_ok h9
    extract_lets +onlyGivenNames v11
    refine Holds.ite ?_ ?_
    · exact Holds.error
    · split
      · exact Holds.error
      · extract_lets +onlyGivenNames v17 v18 v19 v20
        split
        · rename_i e23
          have h24 := Holds.of_eq (P := (okOk (okProd anyP (okProd anyP Sound)))) e23 (sound_kvReadClean h10)
          exact Holds.error
        · rename_i e29
          have h30 := Holds.of_eq (P := (okOk (okProd anyP (okProd anyP Sound)))) e29 (sound_kvReadClean h10)
          have h31 := Holds.un_ok h30
          have h32 := Holds.pair2 h31
          have h33 := Holds.pair2 h32
          extract_lets +onlyGivenNames v34 v35
          split
          · exact Holds.error
          · split
            · rename_i e43
              have h44 := Holds.of_eq (P := (okOk (okProd anyP (okProd anyP Sound)))) e43 (sound_readPages h33)
              exact Holds.error
            · rename_i e49
              have h50 := Holds.of_eq (P := (okOk (okProd anyP (okProd anyP Sound)))) e49 (sound_readPages h33)
              have h51 := Holds.un_ok h50
              have h52 := Holds.pair2 h51
              have h53 := Holds.pair2 h52
              refine Holds.ite ?_ ?_
              · exact Holds.error
              · extract_lets +onlyGivenNames v54 v55
                refine Holds.ite ?_ ?_
                · exact Holds.error
                · extract_lets +onlyGivenNames v56 v57 v58 v59 v60
                  split
                  · rename_i e63
                    have h64 := Holds.of_eq (P := (okOk (okProd anyP Sound))) e63 (sound_planWrites h53)
                    exact Holds.error
                  · rename_i e68
                    have h69 := Holds.of_eq (P := (okOk (okProd anyP Sound))) e68 (sound_planWrites h53)
                    have h70 := Holds.un_ok h69
                    have h71 := Holds.pair2 h70
                    split
                    · rename_i e74
                      have h75 := Holds.of_eq (P := (okOk Sound)) e74 (sound_kvTurns h71)
                      exact Holds.error
                    · rename_i e78
                      have h79 := Holds.of_eq (P := (okOk Sound)) e78 (sound_kvTurns h71)
                      have h80 := Holds.un_ok h79
                      extract_lets +onlyGivenNames v81
                      exact Holds.ok (Holds.pair Holds.any h80)
theorem sound_tearParts {ps : List (ℕ × ℕ)} {s : State} (hs : Holds Sound s) : Holds Sound (tearParts ps s) := by
  unfold tearParts
  exact Holds.foldl hs (fun s1 x2 h3 => sound_hbmWrite h3)
theorem sound_tearEvictions {s : State} {folio : ℕ} (hs : Holds Sound s) : Holds Sound (tearEvictions s folio) := by
  unfold tearEvictions
  refine Holds.foldl ?_ ?_
  · exact hs
  · intro s1 x2 h3
    refine Holds.ite ?_ ?_
    · exact h3
    · extract_lets +onlyGivenNames v4
      have h5 : Holds Sound v4 := by
        subst v4
        refine Holds.foldl ?_ ?_
        · exact h3
        · intro s6 x7 h8
          split
          · rename_i e11
            have h12 := Holds.of_eq (P := (okOk (okProd anyP Sound))) e11 (sound_kvPlan h8)
            exact h8
          · rename_i e16
            have h17 := Holds.of_eq (P := (okOk (okProd anyP Sound))) e16 (sound_kvPlan h8)
            have h18 := Holds.un_ok h17
            have h19 := Holds.pair2 h18
            exact sound_tearParts h19
      clear_value v4
      exact Holds.keep h5
theorem sound_kvEnd {s : State} {r : EvictReq} {x : Report} (hs : Holds Sound s) : Holds Sound (kvEnd s r x) := by
  unfold kvEnd
  exact Holds.ite (sound_endWith hs) (sound_writeRecord hs)
theorem sound_kvPop {s : State} {e : ℕ} {r : EvictReq} {xs : List Report} (hs : Holds Sound s) : Holds Sound (kvPop s e r xs)
    := by
  unfold kvPop
  extract_lets +onlyGivenNames v1
  have h2 : Holds Sound v1 := sound_endAccess (Holds.keep hs)
  clear_value v1
  extract_lets +onlyGivenNames v3
  have h4 : Holds Sound v3 := Holds.ite h2 (Holds.keep h2)
  clear_value v3
  exact Holds.foldl h4 (fun s5 x6 h7 => sound_kvEnd h7)
theorem sound_kvDone {s : State} {e : ℕ} {r : EvictReq} {x : KvEnd} (hs : Holds Sound s) : Holds Sound (kvDone s e r x) := by
  unfold kvDone
  refine Holds.ite ?_ ?_
  · exact sound_kvPop hs
  · split
    · rename_i x1 _ _ e4
      have h5 := Holds.of_eq (P := (okOk (okProd anyP Sound))) e4 (sound_kvParts hs)
      have h6 := Holds.un_ok h5
      have h7 := Holds.pair2 h6
      extract_lets +onlyGivenNames v8
      exact sound_kvPop (Holds.foldl h7 (fun s9 x10 h11 => sound_hbmWrite h11))
    · rename_i e14
      have h15 := Holds.of_eq (P := (okOk (okProd anyP Sound))) e14 (sound_kvParts hs)
      exact sound_kvAwait hs (sound_kvPop hs)
theorem sound_writeOver {a0 : List (ℕ × ℕ)} {a1 : List Byte} {a2 : State} (ha2 : Holds Sound a2) : Holds Sound (writeOver a0
    a1 a2) := by
  induction a0 generalizing a1 a2 with
  | nil =>
    unfold writeOver
    exact ha2
  | cons z zs ih =>
    unfold writeOver
    apply ih
    exact sound_hbmWrite ha2
theorem sound_spoilOver {ps : List (ℕ × ℕ)} {bad : List Bool} {s : State} (hs : Holds Sound s) : Holds Sound (spoilOver ps bad
    s) := by
  unfold spoilOver
  extract_lets +onlyGivenNames v1
  exact Holds.foldl hs (fun s2 x3 h4 => Holds.ite (sound_spoil h4) h4)
theorem sound_runPlan {s : State} {p : KvPlan} (hs : Holds Sound s) : Holds Sound (runPlan s p) := by
  unfold runPlan
  exact Holds.foldl hs (fun s1 x2 h3 => sound_spoilOver (sound_writeOver h3))
theorem sound_runEviction {s : State} {e : ℕ} {r : EvictReq} (hs : Holds Sound s) : Holds Sound (runEviction s e r) := by
  unfold runEviction
  split
  · split
    · rename_i e5
      have h6 := Holds.of_eq (P := (okOk (okProd anyP Sound))) e5 (sound_kvPlan hs)
      exact sound_kvAwait hs (sound_kvSet (sound_endAccess hs))
    · rename_i e10
      have h11 := Holds.of_eq (P := (okOk (okProd anyP Sound))) e10 (sound_kvPlan hs)
      have h12 := Holds.un_ok h11
      have h13 := Holds.pair2 h12
      exact sound_kvSet (sound_endAccess (sound_runPlan h13))
  · exact Holds.ite (sound_kvDone hs) (sound_kvStatus hs)
theorem sound_gateCheck {s : State} {e : ℕ} {r : EvictReq} (hs : Holds Sound s) : Holds Sound (gateCheck s e r) := by
  unfold gateCheck
  extract_lets +onlyGivenNames v1 v2 v3
  exact Holds.ite (sound_payOwed (sound_kvSet (sound_hbmWrite hs))) (sound_payOwed (sound_kvSet hs))
theorem sound_execKvGateCheck {engine : Fin 64} {s : State} (hs : Holds Sound s) : Holds (okNext Sound) (execKvGateCheck
    engine s) := by
  unfold execKvGateCheck
  extract_lets +onlyGivenNames v1 v2
  split
  · exact sound_idle hs
  · split
    · rename_i e10
      have h11 := Holds.of_eq (P := (okProd Sound anyP)) e10 (sound_portGate hs)
      have h12 := Holds.pair1 h11
      exact Holds.next (sound_gateCheck h12)
    · rename_i e15
      have h16 := Holds.of_eq (P := (okProd Sound anyP)) e15 (sound_portGate hs)
      have h17 := Holds.pair1 h16
      exact Holds.next h17
theorem sound_execKvEviction {engine : Fin 64} {s : State} (hs : Holds Sound s) : Holds (okNext Sound) (execKvEviction engine
    s) := by
  unfold execKvEviction
  split
  · exact sound_idle hs
  · exact Holds.next (sound_runEviction hs)

/-! ### Nodes -/

theorem sound_isKid {x : Instance} {n : ℕ} {a2 : List ℕ} {a3 : State} (ha3 : Holds Sound a3) : Holds (okOk (okProd anyP
    Sound)) (isKid x n a2 a3) := by
  induction a2 generalizing x n a3 with
  | nil =>
    unfold isKid
    exact Holds.ok (Holds.pair Holds.any ha3)
  | cons z zs ih =>
    unfold isKid
    split
    · rename_i e3
      have h4 := Holds.of_eq (P := (okOk (okProd anyP Sound))) e3 (sound_spineRead ha3)
      exact Holds.error
    · rename_i e8
      have h9 := Holds.of_eq (P := (okOk (okProd anyP Sound))) e8 (sound_spineRead ha3)
      have h10 := Holds.un_ok h9
      have h11 := Holds.pair2 h10
      refine Holds.ite ?_ ?_
      · exact Holds.ok (Holds.pair Holds.any h11)
      · apply ih
        exact h11
theorem sound_becomesReady {s : State} {x : Instance} {n : ℕ} {left : ℕ} (hs : Holds Sound s) : Holds (okOk (okProd anyP
    Sound)) (becomesReady s x n left) := by
  unfold becomesReady
  refine Holds.ite ?_ ?_
  · split
    · rename_i e3
      have h4 := Holds.of_eq (P := (okOk (okProd anyP Sound))) e3 (sound_isKid hs)
      exact h4
    · rename_i e8
      have h9 := Holds.of_eq (P := (okOk (okProd anyP Sound))) e8 (sound_isKid hs)
      have h10 := Holds.un_ok h9
      have h11 := Holds.pair2 h10
      exact Holds.ok (Holds.pair Holds.any h11)
  · exact Holds.ok (Holds.pair Holds.any hs)
theorem sound_checkedNode {s : State} {x : Instance} {child : Bool} {n : ℕ} (hs : Holds Sound s) : Holds (okOk (okProd anyP
    Sound)) (checkedNode s x child n) := by
  unfold checkedNode
  split
  · rename_i e3
    have h4 := Holds.of_eq (P := (okOk (okProd anyP Sound))) e3 (sound_spineRead hs)
    exact Holds.error
  · rename_i e8
    have h9 := Holds.of_eq (P := (okOk (okProd anyP Sound))) e8 (sound_spineRead hs)
    have h10 := Holds.un_ok h9
    have h11 := Holds.pair2 h10
    split
    · exact Holds.error
    · exact Holds.ok h10
theorem sound_troubled {s : State} {i : ℕ} {x : Instance} {a3 : NodeTrouble} (hs : Holds Sound s) : Holds Sound (troubled s i
    x a3) := by
  unfold troubled
  split
  · exact sound_holdInst hs
  · exact sound_endWith hs
theorem sound_dropPred {s : State} {i : ℕ} {x : Instance} {n : ℕ} (hs : Holds Sound s) : Holds (okProd Sound anyP) (dropPred s
    i x n) := by
  unfold dropPred
  extract_lets +onlyGivenNames v1
  subst v1
  split
  · beta_reduce
    refine Holds.ite ?_ ?_
    · exact Holds.pair (sound_troubled hs) Holds.any
    · split
      · rename_i e7
        have h8 := Holds.of_eq (P := (okOk (okProd anyP Sound))) e7 (sound_becomesReady hs)
        exact Holds.pair (sound_troubled hs) Holds.any
      · rename_i e12
        have h13 := Holds.of_eq (P := (okOk (okProd anyP Sound))) e12 (sound_becomesReady hs)
        have h14 := Holds.un_ok h13
        have h15 := Holds.pair2 h14
        extract_lets +onlyGivenNames v16
        exact Holds.pair (Holds.keep h15) Holds.any
  · split
    · rename_i e21
      have h22 := Holds.of_eq (P := (okOk (okProd anyP Sound))) e21 (sound_spineRead hs)
      exact Holds.pair (sound_troubled hs) Holds.any
    · rename_i e26
      have h27 := Holds.of_eq (P := (okOk (okProd anyP Sound))) e26 (sound_spineRead hs)
      have h28 := Holds.un_ok h27
      have h29 := Holds.pair2 h28
      beta_reduce
      refine Holds.ite ?_ ?_
      · exact Holds.pair (sound_troubled h29) Holds.any
      · split
        · rename_i e32
          have h33 := Holds.of_eq (P := (okOk (okProd anyP Sound))) e32 (sound_becomesReady h29)
          exact Holds.pair (sound_troubled h29) Holds.any
        · rename_i e37
          have h38 := Holds.of_eq (P := (okOk (okProd anyP Sound))) e37 (sound_becomesReady h29)
          have h39 := Holds.un_ok h38
          have h40 := Holds.pair2 h39
          extract_lets +onlyGivenNames v41
          exact Holds.pair (Holds.keep h40) Holds.any
theorem sound_checkedKids {s : State} {x : Instance} {a2 : List ℕ} (hs : Holds Sound s) : Holds (okOk (okProd anyP Sound))
    (checkedKids s x a2) := by
  induction a2 generalizing s x with
  | nil =>
    unfold checkedKids
    exact Holds.ok (Holds.pair Holds.any hs)
  | cons z zs ih =>
    unfold checkedKids
    split
    · rename_i e3
      have h4 := Holds.of_eq (P := (okOk (okProd anyP Sound))) e3 (sound_checkedNode hs)
      exact Holds.error
    · rename_i e8
      have h9 := Holds.of_eq (P := (okOk (okProd anyP Sound))) e8 (sound_checkedNode hs)
      have h10 := Holds.un_ok h9
      have h11 := Holds.pair2 h10
      split
      · rename_i e14
        refine Holds.cut (P := (okOk (okProd anyP Sound))) (Holds.of_eq e14 ?_) fun h15 => ?_
        · apply ih
          exact h11
        exact h15
      · rename_i e19
        refine Holds.cut (P := (okOk (okProd anyP Sound))) (Holds.of_eq e19 ?_) fun h20 => ?_
        · apply ih
          exact h11
        have h21 := Holds.un_ok h20
        have h22 := Holds.pair2 h21
        exact Holds.ok (Holds.pair Holds.any h22)
theorem sound_enterNode {s : State} {i : ℕ} {x : Instance} {n : ℕ} {r : List Byte} {e : PoolEntry} (hs : Holds Sound s) :
    Holds (okOpt Sound) (enterNode s i x n r e) := by
  unfold enterNode
  exact Holds.mapOpt (P := Sound) (sound_addEntry hs) (fun s1 h2 => Holds.keep h2)
theorem sound_startSubNode {s : State} {i : ℕ} {x : Instance} {n : ℕ} {r : List Byte} (hs : Holds Sound s) : Holds (okProd
    Sound anyP) (startSubNode s i x n r) := by
  unfold startSubNode
  extract_lets +onlyGivenNames v1
  refine Holds.ite ?_ ?_
  · split
    · rename_i e4
      have h5 := Holds.of_eq (P := (okOk (okProd anyP Sound))) e4 (sound_checkedKids hs)
      exact Holds.pair (sound_troubled hs) Holds.any
    · rename_i e9
      have h10 := Holds.of_eq (P := (okOk (okProd anyP Sound))) e9 (sound_checkedKids hs)
      have h11 := Holds.un_ok h10
      have h12 := Holds.pair2 h11
      split
      · exact Holds.pair (sound_troubled h12) Holds.any
      · extract_lets +onlyGivenNames v18
        split
        · rename_i e21
          have h22 := Holds.of_eq (P := (okOpt Sound)) e21 (sound_enterNode h12)
          have h23 := Holds.un_some h22
          exact Holds.pair h23 Holds.any
        · rename_i e25
          have h26 := Holds.of_eq (P := (okOpt Sound)) e25 (sound_enterNode h12)
          exact Holds.pair h12 Holds.any
  · exact Holds.pair (Holds.keep hs) Holds.any
theorem sound_startNode {s : State} {i : ℕ} {x : Instance} {n : ℕ} (hs : Holds Sound s) : Holds (okProd Sound anyP) (startNode
    s i x n) := by
  unfold startNode
  split
  · rename_i e3
    have h4 := Holds.of_eq (P := (okOk (okProd anyP Sound))) e3 (sound_checkedNode hs)
    exact Holds.pair (sound_troubled hs) Holds.any
  · rename_i e8
    have h9 := Holds.of_eq (P := (okOk (okProd anyP Sound))) e8 (sound_checkedNode hs)
    have h10 := Holds.un_ok h9
    have h11 := Holds.pair2 h10
    refine Holds.ite ?_ ?_
    · exact sound_startSubNode h11
    · extract_lets +onlyGivenNames v12
      split
      · rename_i e15
        have h16 := Holds.of_eq (P := (okOpt Sound)) e15 (sound_enterNode h11)
        have h17 := Holds.un_some h16
        exact Holds.pair h17 Holds.any
      · rename_i e19
        have h20 := Holds.of_eq (P := (okOpt Sound)) e19 (sound_enterNode h11)
        exact Holds.pair h11 Holds.any
theorem sound_readResponse {s : State} {x : Instance} (hs : Holds Sound s) : Holds (okOk (okProd anyP (okProd anyP (okProd
    anyP Sound)))) (readResponse s x) := by
  unfold readResponse
  refine Holds.ite ?_ ?_
  · exact Holds.ok (Holds.pair Holds.any (Holds.pair Holds.any (Holds.pair Holds.any hs)))
  · split
    · rename_i e3
      have h4 := Holds.of_eq (P := (okOk (okProd anyP Sound))) e3 (sound_spineRead hs)
      exact Holds.error
    · rename_i e8
      have h9 := Holds.of_eq (P := (okOk (okProd anyP Sound))) e8 (sound_spineRead hs)
      have h10 := Holds.un_ok h9
      have h11 := Holds.pair2 h10
      refine Holds.ite ?_ ?_
      · exact Holds.ok (Holds.pair Holds.any (Holds.pair Holds.any (Holds.pair Holds.any h11)))
      · refine Holds.ite ?_ ?_
        · exact Holds.ok (Holds.pair Holds.any (Holds.pair Holds.any (Holds.pair Holds.any h11)))
        · split
          · rename_i e14
            have h15 := Holds.of_eq (P := (okOk (okProd anyP Sound))) e14 (sound_spineRead h11)
            exact Holds.error
          · rename_i e19
            have h20 := Holds.of_eq (P := (okOk (okProd anyP Sound))) e19 (sound_spineRead h11)
            have h21 := Holds.un_ok h20
            have h22 := Holds.pair2 h21
            exact Holds.ok (Holds.pair Holds.any (Holds.pair Holds.any h21))
theorem sound_readRanges {s : State} {u : PortUser} {k : ℕ} {a3 : List (ℕ × ℕ)} {a4 : List Byte} (hs : Holds Sound s) : Holds
    (okOk (okProd anyP Sound)) (readRanges s u k a3 a4) := by
  induction a3 generalizing s u k a4 with
  | nil =>
    unfold readRanges
    exact Holds.ok (Holds.pair Holds.any hs)
  | cons z zs ih =>
    unfold readRanges
    split
    · rename_i e3
      have h4 := Holds.of_eq (P := (okOk (okProd anyP Sound))) e3 (sound_spineRead hs)
      exact h4
    · rename_i e8
      have h9 := Holds.of_eq (P := (okOk (okProd anyP Sound))) e8 (sound_spineRead hs)
      have h10 := Holds.un_ok h9
      have h11 := Holds.pair2 h10
      apply ih
      exact h11
theorem sound_closeCapture {s : State} {x : Instance} {status : ℕ} (hs : Holds Sound s) : Holds (okOk Sound) (closeCapture s x
    status) := by
  unfold closeCapture
  split
  · exact Holds.ok hs
  · extract_lets +onlyGivenNames v6
    split
    · rename_i e9
      have h10 := Holds.of_eq (P := (okOk (okProd anyP Sound))) e9 (sound_readRanges hs)
      exact Holds.error
    · rename_i e14
      have h15 := Holds.of_eq (P := (okOk (okProd anyP Sound))) e14 (sound_readRanges hs)
      have h16 := Holds.un_ok h15
      have h17 := Holds.pair2 h16
      split
      · rename_i e21
        have h22 := Holds.of_eq (P := (okProd Sound anyP)) e21 (sound_spineWrites h17)
        have h23 := Holds.pair1 h22
        exact Holds.ok h23
      · rename_i e28
        have h29 := Holds.of_eq (P := (okProd Sound anyP)) e28 (sound_spineWrites h17)
        have h30 := Holds.pair1 h29
        exact Holds.error
theorem sound_closeInst {s : State} {i : ℕ} {x : Instance} (hs : Holds Sound s) : Holds Sound (closeInst s i x) := by
  unfold closeInst
  split
  · rename_i e3
    have h4 := Holds.of_eq (P := (okOk (okProd anyP (okProd anyP (okProd anyP Sound))))) e3 (sound_readResponse hs)
    exact sound_holdInst hs
  · rename_i e10
    have h11 := Holds.of_eq (P := (okOk (okProd anyP (okProd anyP (okProd anyP Sound))))) e10 (sound_readResponse hs)
    have h12 := Holds.un_ok h11
    have h13 := Holds.pair2 h12
    have h14 := Holds.pair2 h13
    have h15 := Holds.pair2 h14
    split
    · rename_i e18
      have h19 := Holds.of_eq (P := (okOk Sound)) e18 (sound_closeCapture h15)
      exact sound_holdInst h15
    · rename_i e22
      have h23 := Holds.of_eq (P := (okOk Sound)) e22 (sound_closeCapture h15)
      have h24 := Holds.un_ok h23
      extract_lets +onlyGivenNames v25
      have h26 : Holds Sound v25 := sound_endAccess h24
      clear_value v25
      extract_lets +onlyGivenNames v27
      have h28 : Holds Sound v27 := by
        subst v27
        split
        · exact sound_writeRecord h26
        · exact h26
      clear_value v27
      exact sound_retireInst (Holds.keep h28)
theorem sound_readCapture {s : State} {i : ℕ} {x : Instance} (hs : Holds Sound s) : Holds (okProd Sound anyP) (readCapture s i
    x) := by
  unfold readCapture
  split
  · rename_i e3
    have h4 := Holds.of_eq (P := (okOk (okProd anyP Sound))) e3 (sound_spineRead hs)
    exact Holds.pair hs Holds.any
  · rename_i e8
    have h9 := Holds.of_eq (P := (okOk (okProd anyP Sound))) e8 (sound_spineRead hs)
    have h10 := Holds.un_ok h9
    have h11 := Holds.pair2 h10
    extract_lets +onlyGivenNames v12 v13
    exact Holds.pair (Holds.keep h11) Holds.any
theorem sound_flushWrites {s : State} {i : ℕ} {x : Instance} (hs : Holds Sound s) : Holds (okProd Sound anyP) (flushWrites s i
    x) := by
  unfold flushWrites
  split
  rename_i e5
  have h6 := Holds.of_eq (P := (okProd Sound anyP)) e5 (sound_spineWrites hs)
  have h7 := Holds.pair1 h6
  exact Holds.pair (Holds.keep h7) Holds.any
theorem sound_prepare {s : State} {i : ℕ} {x : Instance} (hs : Holds Sound s) : Holds (okOpt (okProd Sound anyP)) (prepare s i
    x) := by
  unfold prepare
  exact Holds.ite (Holds.some (sound_readCapture hs)) (Holds.ite (Holds.some (sound_flushWrites hs)) Holds.none)
theorem sound_workInst {a0 : ℕ} {a1 : State} {a2 : ℕ} (ha1 : Holds Sound a1) : Holds Sound (workInst a0 a1 a2) := by
  induction a0 generalizing a1 a2 with
  | zero =>
    unfold workInst
    exact ha1
  | succ k ih =>
    unfold workInst
    refine Holds.ite ?_ ?_
    · exact ha1
    · split
      · exact ha1
      · split
        rename_i e9
        refine Holds.cut (P := (okProd Sound anyP)) (Holds.of_eq e9 ?_) fun h10 => ?_
        · split
          · rename_i e16
            have h17 := Holds.of_eq (P := (okOpt (okProd Sound anyP))) e16 (sound_prepare ha1)
            have h18 := Holds.un_some h17
            have h19 := Holds.pair1 h18
            exact Holds.pair (sound_holdInst h19) Holds.any
          · rename_i e24
            have h25 := Holds.of_eq (P := (okOpt (okProd Sound anyP))) e24 (sound_prepare ha1)
            have h26 := Holds.un_some h25
            have h27 := Holds.pair1 h26
            exact Holds.pair h27 Holds.any
          · rename_i e33 _
            have h35 := Holds.of_eq (P := (okOpt (okProd Sound anyP))) e33 (sound_prepare ha1)
            exact sound_dropPred ha1
          · rename_i e41 _ _
            have h44 := Holds.of_eq (P := (okOpt (okProd Sound anyP))) e41 (sound_prepare ha1)
            exact sound_startNode ha1
          · rename_i e48 _ _
            have h51 := Holds.of_eq (P := (okOpt (okProd Sound anyP))) e48 (sound_prepare ha1)
            exact Holds.pair (Holds.ite (sound_closeInst ha1) ha1) Holds.any
        have h52 := Holds.pair1 h10
        refine Holds.ite ?_ ?_
        · apply ih
          exact sound_freeInst h52
        · exact h52
theorem sound_work {s : State} {i : ℕ} (hs : Holds Sound s) : Holds Sound (work s i) := by
  unfold work
  exact sound_workInst hs
theorem sound_clearTags {s : State} {k : ℕ} (hs : Holds Sound s) : Holds Sound (clearTags s k) := by
  unfold clearTags
  extract_lets +onlyGivenNames v1 v2
  have h3 : Holds Sound v2 := sound_State_modContext hs
  clear_value v2
  exact Holds.keep h3
theorem sound_finishUnload {s : State} {k : ℕ} (hs : Holds Sound s) : Holds Sound (finishUnload s k) := by
  unfold finishUnload
  exact Holds.ite (sound_clearTags hs) hs
theorem sound_retireEnded {s : State} {i : ℕ} {x : Instance} (hs : Holds Sound s) : Holds Sound (retireEnded s i x) := by
  unfold retireEnded
  exact sound_retireInst (sound_endAccess (Holds.keep hs))
theorem sound_endedFails {s : State} {i : ℕ} {x : Instance} {f : AccessFault} (hs : Holds Sound s) : Holds Sound (endedFails s
    i x f) := by
  unfold endedFails
  extract_lets +onlyGivenNames v1
  split
  · exact sound_await hs
  · refine Holds.ite ?_ ?_
    · split
      rename_i e10
      have h11 := Holds.of_eq (P := (okProd anyP Sound)) e10 (sound_openRecord (sound_endAccess hs))
      have h12 := Holds.pair2 h11
      exact Holds.keep h12
    · exact sound_retireEnded (sound_writeRecord hs)
theorem sound_closeEnded {s : State} {i : ℕ} {x : Instance} (hs : Holds Sound s) : Holds Sound (closeEnded s i x) := by
  unfold closeEnded
  split
  · rename_i e4
    have h5 := Holds.of_eq (P := (okOpt (okProd Sound anyP))) e4 (sound_prepare hs)
    have h6 := Holds.un_some h5
    have h7 := Holds.pair1 h6
    exact sound_endedFails h7
  · rename_i e10
    have h11 := Holds.of_eq (P := (okOpt (okProd Sound anyP))) e10 (sound_prepare hs)
    have h12 := Holds.un_some h11
    have h13 := Holds.pair1 h12
    exact sound_freeInst h13
  · rename_i e15
    have h16 := Holds.of_eq (P := (okOpt (okProd Sound anyP))) e15 (sound_prepare hs)
    split
    · rename_i e19
      have h20 := Holds.of_eq (P := (okOk Sound)) e19 (sound_closeCapture hs)
      have h21 := Holds.un_ok h20
      exact sound_retireEnded h21
    · rename_i e24
      have h25 := Holds.of_eq (P := (okOk Sound)) e24 (sound_closeCapture hs)
      exact sound_endedFails hs
theorem sound_execNodeRetire {inst : ℕ} {node : ℕ} {s : State} (hs : Holds Sound s) : Holds (okNext Sound) (execNodeRetire
    inst node s) := by
  unfold execNodeRetire
  split
  · exact Holds.fault
  · extract_lets +onlyGivenNames v6
    subst v6
    split
    · refine Holds.ite ?_ ?_
      · exact sound_idle hs
      · refine Holds.ite ?_ ?_
        · refine Holds.next ?_
          beta_reduce
          exact sound_work (Holds.keep (sound_paySavers (sound_freeGath hs)))
        · exact Holds.next (sound_coverGath hs)
    · split
      · refine Holds.ite ?_ ?_
        · exact sound_idle hs
        · refine Holds.next ?_
          beta_reduce
          exact sound_work (Holds.keep (Holds.keep hs))
      · exact sound_idle hs
theorem sound_workOne {s : State} {i : ℕ} (hs : Holds Sound s) : Holds Sound (workOne s i) := by
  unfold workOne
  split
  · exact Holds.ite hs (Holds.ite (sound_closeEnded hs) (sound_work hs))
  · exact hs
theorem sound_workAll {s : State} (hs : Holds Sound s) : Holds Sound (workAll s) := by
  unfold workAll
  extract_lets +onlyGivenNames v1
  have h2 : Holds Sound v1 := Holds.foldl hs (fun s3 x4 h5 => sound_workOne h5)
  clear_value v1
  extract_lets +onlyGivenNames v6
  have h7 : Holds Sound v6 := Holds.foldlList (Q := (okProd anyP okPaper)) (Holds.papers h2) h2 (fun s8 x9 h10 h11 => sound_enterSaved h10)
  clear_value v6
  exact Holds.foldl h7 (fun s12 x13 h14 => sound_finishUnload h14)

/-! ### Launch -/

theorem sound_modPage {s : State} {k : ℕ} {f : QueuePage → QueuePage} (hs : Holds Sound s) : Holds Sound (modPage s k f) := by
  unfold modPage
  exact sound_State_modContext hs
theorem sound_sendReply {s : State} {peer : ℕ} {port : ℕ} {cookie : ℕ} {status : ℕ} {data : List Byte} (hs : Holds Sound s) :
    Holds Sound (sendReply s peer port cookie status data) := by
  unfold sendReply
  exact Holds.keep hs
theorem sound_answerReject {s : State} {l : Launch} {cls : ℕ} (hs : Holds Sound s) : Holds Sound (answerReject s l cls) := by
  unfold answerReject
  extract_lets +onlyGivenNames v1
  have h2 : Holds Sound v1 := Holds.ite (sound_State_modContext hs) hs
  clear_value v1
  split
  · exact sound_sendReply h2
  · exact h2
theorem sound_admitFault {s : State} {l : Launch} {f : AccessFault} (hs : Holds Sound s) : Holds okAdm (admitFault s l f) := by
  unfold admitFault
  extract_lets +onlyGivenNames v1
  split
  · exact Holds.held (sound_await hs)
  · refine Holds.ite ?_ ?_
    · split
      rename_i e10
      have h11 := Holds.of_eq (P := (okProd anyP Sound)) e10 (sound_openRecord (sound_endAccess hs))
      have h12 := Holds.pair2 h11
      exact Holds.held (sound_State_modContext h12)
    · extract_lets +onlyGivenNames v13
      have h14 : Holds Sound v13 := sound_writeRecord hs
      clear_value v13
      exact Holds.settled (sound_answerReject h14)
theorem sound_rejectLaunch {s : State} {l : Launch} {cls : ℕ} {detail : ℕ} (hs : Holds Sound s) : Holds Sound (rejectLaunch s
    l cls detail) := by
  unfold rejectLaunch
  exact sound_answerReject (sound_writeRecord hs)
theorem sound_capture {s : State} {i : ℕ} {l : Launch} {x : Instance} (hs : Holds Sound s) : Holds (okProd Sound anyP)
    (capture s i l x) := by
  unfold capture
  extract_lets +onlyGivenNames v1
  split
  extract_lets +onlyGivenNames v8
  refine Holds.ite ?_ ?_
  · exact Holds.pair hs Holds.any
  · split
    · exact Holds.pair hs Holds.any
    · exact Holds.pair (sound_State_modContext hs) Holds.any
theorem sound_takeTag {s : State} {l : Launch} {g : List Byte} (hs : Holds Sound s) : Holds Sound (takeTag s l g) := by
  unfold takeTag
  extract_lets +onlyGivenNames v1 v2
  split
  rename_i e6
  have h7 := Holds.of_eq (P := (okProd anyP Sound)) e6 (sound_State_fresh hs)
  have h8 := Holds.pair2 h7
  split
  extract_lets +onlyGivenNames v13
  split
  rename_i e17
  have h18 := Holds.of_eq (P := (okProd Sound anyP)) e17 (sound_capture h8)
  have h19 := Holds.pair1 h18
  extract_lets +onlyGivenNames v20
  have h21 : Holds Sound v20 := sound_State_modContext h19
  clear_value v20
  exact sound_work (Holds.keep h21)
theorem sound_enterLaunch {s : State} {l : Launch} (hs : Holds Sound s) : Holds okAdm (enterLaunch s l) := by
  unfold enterLaunch
  split
  · exact Holds.settled (sound_rejectLaunch hs)
  · split
    · rename_i e9
      have h10 := Holds.of_eq (P := (okOk (okProd anyP Sound))) e9 (sound_spineRead hs)
      exact sound_admitFault hs
    · rename_i e14
      have h15 := Holds.of_eq (P := (okOk (okProd anyP Sound))) e14 (sound_spineRead hs)
      have h16 := Holds.un_ok h15
      have h17 := Holds.pair2 h16
      split
      · exact Holds.settled (sound_rejectLaunch h17)
      · exact Holds.settled (sound_takeTag h17)
theorem sound_admitted {s : State} {k : ℕ} (hs : Holds Sound s) : Holds Sound (admitted s k) := by
  unfold admitted
  exact sound_endAccess (sound_State_modContext hs)
theorem sound_settleAdmit {k : ℕ} {pop : State → State} {a2 : Admission} (hpop : ∀ y0, Holds Sound y0 → Holds Sound (pop y0))
    (ha2 : Holds okAdm a2) : Holds Sound (settleAdmit k pop a2) := by
  unfold settleAdmit
  split
  · have h3 := Holds.un_held ha2
    exact Holds.keep h3
  · have h6 := Holds.un_settled ha2
    extract_lets +onlyGivenNames v7
    have h8 : Holds Sound v7 := by
      subst v7
      apply hpop
      exact sound_admitted h6
    clear_value v7
    exact Holds.keep h8
theorem sound_admitFw {s : State} (hs : Holds Sound s) : Holds Sound (admitFw s) := by
  unfold admitFw
  extract_lets +onlyGivenNames v1
  subst v1
  split
  · rename_i e4
    have h5 := Holds.of_eq (P := (okOk (okProd anyP Sound))) e4 (sound_spineRead hs)
    exact sound_settleAdmit (fun s6 h7 => Holds.keep h7) (sound_admitFault hs)
  · rename_i e11
    have h12 := Holds.of_eq (P := (okOk (okProd anyP Sound))) e11 (sound_spineRead hs)
    have h13 := Holds.un_ok h12
    have h14 := Holds.pair2 h13
    exact sound_settleAdmit (fun s15 h16 => Holds.keep h16) (sound_enterLaunch h14)
theorem sound_refuseFrame {s : State} {k : ℕ} {f : Frame} {d : ℕ} (hs : Holds Sound s) : Holds Sound (refuseFrame s k f d) := by
  unfold refuseFrame
  extract_lets +onlyGivenNames v1 v2 v3 v4
  exact Holds.ite (sound_sendReply (sound_writeRecord hs)) (sound_answerReject (sound_writeRecord hs))
theorem sound_hostStores {s : State} {ws : List (ℕ × Byte)} (hs : Holds Sound s) : Holds Sound (hostStores s ws) := by
  unfold hostStores
  exact Holds.foldl hs (fun s1 x2 h3 => sound_hostWrite h3)
theorem sound_execHostRegisterWrite {off : ℕ} {val : Word} {s : State} (hs : Holds Sound s) : Holds (okNext Sound)
    (execHostRegisterWrite off val s) := by
  unfold execHostRegisterWrite
  exact Holds.ite (Holds.next (Holds.keep hs)) (Holds.ite (Holds.next (sound_modPage hs)) (sound_idle hs))
theorem sound_putCompletion {s : State} {k : ℕ} {bs : List Byte} (hs : Holds Sound s) : Holds Sound (putCompletion s k bs) := by
  unfold putCompletion
  extract_lets +onlyGivenNames v1 v2
  have h3 : Holds Sound v2 := sound_hostWrite hs
  clear_value v2
  exact sound_raiseVector (sound_modPage h3)
theorem sound_execCqheadWrite {ctx : Fin 16} {head : Word32} {s : State} (hs : Holds Sound s) : Holds (okNext Sound)
    (execCqheadWrite ctx head s) := by
  unfold execCqheadWrite
  exact Holds.next (sound_modPage hs)
theorem sound_popDue {s : State} {k : ℕ} (hs : Holds Sound s) : Holds Sound (popDue s k) := by
  unfold popDue
  exact sound_State_modContext hs
theorem sound_respond {s : State} {i : ℕ} {x : Instance} (hs : Holds Sound s) : Holds Sound (respond s i x) := by
  unfold respond
  extract_lets +onlyGivenNames v1
  have h2 : Holds Sound v1 := by
    subst v1
    split
    · exact sound_putCompletion hs
    · exact sound_sendReply hs
    · exact hs
  clear_value v1
  extract_lets +onlyGivenNames v12 v13
  have h14 : Holds Sound v13 := Holds.keep h2
  clear_value v13
  exact sound_freeTags (sound_popDue h14)
theorem sound_execLaunchAdmission {src : LaunchSource} {s : State} (hs : Holds Sound s) : Holds (okNext Sound)
    (execLaunchAdmission src s) := by
  unfold execLaunchAdmission
  split
  · extract_lets +onlyGivenNames v3 v4
    exact Holds.ite (sound_idle hs) (Holds.next (sound_settleAdmit (fun s5 h6 => sound_modPage h6) (sound_enterLaunch hs)))
  · exact Holds.ite (sound_idle hs) (Holds.next (sound_admitFw hs))
  · extract_lets +onlyGivenNames v10
    split
    · exact sound_idle hs
    · refine Holds.ite ?_ ?_
      · exact sound_idle hs
      · exact Holds.next (sound_settleAdmit (fun s17 h18 => sound_State_modContext h18) (sound_enterLaunch hs))
theorem sound_dropFrame {s : State} (hs : Holds Sound s) : Holds Sound (dropFrame s) := by
  unfold dropFrame
  exact Holds.keep hs
theorem sound_execSpawnBacklogAdmit {ctx : Fin 16} {s : State} (hs : Holds Sound s) : Holds (okNext Sound)
    (execSpawnBacklogAdmit ctx s) := by
  unfold execSpawnBacklogAdmit
  extract_lets +onlyGivenNames v1
  split
  · exact sound_idle hs
  · refine Holds.ite ?_ ?_
    · exact sound_idle hs
    · exact Holds.next (sound_settleAdmit (fun s8 h9 => sound_State_modContext h9) (sound_enterLaunch hs))
theorem sound_execSubmissionDoorbell {ctx : Fin 16} {tail : Word32} {writes : List (ℕ × Byte)} {s : State} (hs : Holds Sound
    s) : Holds (okNext Sound) (execSubmissionDoorbell ctx tail writes s) := by
  unfold execSubmissionDoorbell
  exact Holds.next (sound_modPage (sound_hostStores hs))
theorem sound_execRequestFrame {f : Frame} {s : State} (hs : Holds Sound s) : Holds (okNext Sound) (execRequestFrame f s) := by
  unfold execRequestFrame
  refine Holds.ite ?_ ?_
  · exact Holds.next (sound_dropFrame hs)
  · split
    · exact Holds.next (sound_dropFrame hs)
    · split
      · exact Holds.next (sound_refuseFrame hs)
      · extract_lets +onlyGivenNames v11
        have h12 : Holds Sound v11 := sound_sendReply hs
        clear_value v11
        refine Holds.ite ?_ ?_
        · exact Holds.ite (Holds.next (Holds.keep hs)) (Holds.next h12)
        · exact Holds.ite (Holds.next (sound_State_modContext hs)) (Holds.next h12)
theorem sound_execHostBar2Access {off : ℕ} {size : ℕ} {data : Option (List Byte)} {s : State} (hs : Holds Sound s) : Holds
    (okNext Sound) (execHostBar2Access off size data s) := by
  unfold execHostBar2Access
  extract_lets +onlyGivenNames v1 v2
  refine Holds.ite ?_ ?_
  · exact Holds.next (Holds.keep hs)
  · split
    · exact Holds.next (sound_hbmWrite hs)
    · exact Holds.next (Holds.keep hs)
theorem sound_execFwsqDoorbell {s : State} (hs : Holds Sound s) : Holds (okNext Sound) (execFwsqDoorbell s) := by
  unfold execFwsqDoorbell
  exact Holds.next (Holds.keep hs)
theorem sound_execResponseDelivery {ctx : Fin 16} {s : State} (hs : Holds Sound s) : Holds (okNext Sound)
    (execResponseDelivery ctx s) := by
  unfold execResponseDelivery
  extract_lets +onlyGivenNames v1 v2
  split
  · exact sound_idle hs
  · exact Holds.ite (Holds.next (sound_popDue (sound_putCompletion hs))) (sound_idle hs)
  · split
    · exact Holds.next (sound_popDue hs)
    · exact Holds.ite (sound_idle hs) (Holds.next (sound_respond hs))

/-! ### Vector -/

theorem sound_State_modVp {s : State} {n : ℕ} {f : VPipe → VPipe} (hs : Holds Sound s) : Holds Sound (State.modVp s n f) := by
  unfold State.modVp
  exact sound_State_modLeaf hs (fun x1 h2 => Holds.leafOf (Holds.leafMem h2))
theorem sound_drainVp {n : ℕ} {a1 : ℕ} {a2 : State} (ha2 : Holds Sound a2) : Holds Sound (drainVp n a1 a2) := by
  induction a1 generalizing n a2 with
  | zero =>
    unfold drainVp
    exact ha2
  | succ k ih =>
    unfold drainVp
    extract_lets +onlyGivenNames v1
    split
    · refine Holds.ite ?_ ?_
      · apply ih
        exact sound_State_modVp (sound_enterPort ha2)
      · exact ha2
    · exact ha2
theorem sound_flushVp {s : State} {n : ℕ} (hs : Holds Sound s) : Holds Sound (flushVp s n) := by
  unfold flushVp
  extract_lets +onlyGivenNames v1
  have h2 : Holds Sound v1 := sound_drainVp hs
  clear_value v1
  exact sound_State_modVp h2
theorem sound_execVpconst {stage : Fin 6} {tb : Target} {ta : Target} {s : State} (hs : Holds Sound s) : Holds (okNext Sound)
    (execVpconst stage tb ta s) := by
  unfold execVpconst
  refine sound_perform ?_ ?_
  · exact hs
  · intro s1 h2 x3 x4 x5 x6 x7
    refine sound_limit ?_ ?_
    · exact h2
    · intro s8 h9
      extract_lets +onlyGivenNames v10 v11
      have h12 : Holds Sound v11 := sound_State_modVp h9
      clear_value v11
      exact sound_complete h12
theorem sound_failVp {s : State} {n : ℕ} (hs : Holds Sound s) : Holds Sound (failVp s n) := by
  unfold failVp
  exact sound_State_modVp hs
theorem sound_execVpstat {tb : Target} {ta : Target} {s : State} (hs : Holds Sound s) : Holds (okNext Sound) (execVpstat tb ta
    s) := by
  unfold execVpstat
  exact sound_valueOp hs
theorem sound_execVpgo {tb : Target} {ta : Target} {s : State} (hs : Holds Sound s) : Holds (okNext Sound) (execVpgo tb ta s)
    := by
  unfold execVpgo
  refine sound_perform ?_ ?_
  · exact hs
  · intro s1 h2 x3 x4 x5 x6 x7
    extract_lets +onlyGivenNames v8 v9
    refine Holds.ite ?_ ?_
    · exact sound_raiseFault h2
    · extract_lets +onlyGivenNames v10
      have h11 : Holds Sound v10 := Holds.ite h2 (sound_State_modVp h2)
      clear_value v10
      exact sound_complete h11
theorem sound_execVpcfg {tb : Target} {ta : Target} {s : State} (hs : Holds Sound s) : Holds (okNext Sound) (execVpcfg tb ta
    s) := by
  unfold execVpcfg
  refine sound_perform ?_ ?_
  · exact hs
  · intro s1 h2 x3 x4 x5 x6 x7
    refine sound_limitLa ?_ ?_
    · exact h2
    · intro s8 h9
      extract_lets +onlyGivenNames v10
      refine Holds.ite ?_ ?_
      · exact sound_stay h9
      · refine sound_leafAccess ?_ ?_
        · exact h9
        · intro s11 h12
          extract_lets +onlyGivenNames v13
          split
          · exact sound_raiseFault (sound_State_modVp h12)
          · exact sound_complete (sound_State_modVp h12)
theorem sound_takeFeed {n : ℕ} {s : State} {f : ℕ × VpFeed} (hs : Holds Sound s) : Holds Sound (takeFeed n s f) := by
  unfold takeFeed
  split
  · exact sound_dropHead hs
  · exact sound_State_modVp hs
theorem sound_vpAct {s : State} {n : ℕ} (hs : Holds Sound s) : Holds (okProd Sound anyP) (vpAct s n) := by
  unfold vpAct
  extract_lets +onlyGivenNames v1 v2
  refine Holds.ite ?_ ?_
  · exact Holds.pair hs Holds.any
  · split
    · exact Holds.pair hs Holds.any
    · split
      · exact Holds.pair hs Holds.any
      · extract_lets +onlyGivenNames v17
        have h18 : Holds Sound v17 := sound_State_modVp (Holds.foldl hs (fun s19 x20 h21 => sound_takeFeed h21))
        clear_value v17
        extract_lets +onlyGivenNames v22
        refine Holds.ite ?_ ?_
        · exact Holds.pair h18 Holds.any
        · refine Holds.ite ?_ ?_
          · exact Holds.pair (sound_State_modVp h18) Holds.any
          · extract_lets +onlyGivenNames v23 v24
            split
            exact Holds.pair (sound_State_modVp h18) Holds.any
theorem sound_settleVp {n : ℕ} {r : Ran} (hr : Holds (okProd Sound anyP) r) : Holds Sound (settleVp n r) := by
  unfold settleVp
  split
  have h4 := Holds.pair1 hr
  split
  · exact sound_flushVp h4
  · exact sound_reportUnit (sound_failVp h4)
  · exact sound_reportUnit (sound_failVp h4)
  · exact h4
theorem sound_execVpStep {leaf : ℕ} {s : State} (hs : Holds Sound s) : Holds (okNext Sound) (execVpStep leaf s) := by
  unfold execVpStep
  refine Holds.ite ?_ ?_
  · exact Holds.fault
  · refine Holds.ite ?_ ?_
    · exact sound_idle hs
    · extract_lets +onlyGivenNames v1
      have h2 : Holds Sound v1 := sound_flushVp hs
      clear_value v1
      exact Holds.ite (Holds.next (sound_settleVp (sound_vpAct h2))) (Holds.next h2)

end Sys2Proof.Machine
end

