-- ==== Sys2Proof/Laws/SoundPlatform.lean ====
section
/-!
SUPPORT. The functions of Matrix, Memory, Privileged, Spine, Platform, Outside, Turns, Step, Safety keep what `State.sound` says, one lemma per function.
-/

set_option Elab.async false

namespace Sys2Proof.Machine

/-! ### Matrix -/

theorem sound_startTile {s : State} {c : CoreId} {i : ℕ} {kind : ℕ} {src : ℕ} {dst : ℕ} {n : ℕ} (hs : Holds Sound s) : Holds
    Sound (startTile s c i kind src dst n) := by
  unfold startTile
  extract_lets +onlyGivenNames v1
  exact sound_acceptCopy hs
theorem sound_noteWriters {s : State} {c : CoreId} {i : ℕ} {leaf : ℕ} {tile : ℕ} (hs : Holds Sound s) : Holds Sound
    (noteWriters s c i leaf tile) := by
  unfold noteWriters
  exact Holds.ite (sound_State_modSlot hs) hs
theorem sound_limitTile {s : State} {c : CoreId} {i : ℕ} {l : Word} {k : State → State} (hs : Holds Sound s) (hk : ∀ y0, Holds
    Sound y0 → Holds Sound (k y0)) : Holds Sound (limitTile s c i l k) := by
  unfold limitTile
  refine sound_limit ?_ ?_
  · exact hs
  · intro s1 h2
    apply hk
    exact h2
theorem sound_execAccopZero {tb : Target} {ta : Target} {s : State} (hs : Holds Sound s) : Holds (okNext Sound) (execAccopZero
    tb ta s) := by
  unfold execAccopZero
  refine sound_perform ?_ ?_
  · exact hs
  · intro s1 h2 x3 x4 x5 x6 x7
    refine sound_limitTile ?_ ?_
    · exact h2
    · intro s8 h9
      extract_lets +onlyGivenNames v10 v11
      have h12 : Holds Sound v11 := sound_noteWriters h9
      clear_value v11
      exact Holds.ite (sound_stay h12) (sound_startTile h12)
theorem sound_startTurn {s : State} {c : CoreId} {i : ℕ} {emit : Option ℕ} (hs : Holds Sound s) : Holds Sound (startTurn s c i
    emit) := by
  unfold startTurn
  extract_lets +onlyGivenNames v1
  refine Holds.ite ?_ ?_
  · exact sound_blockFault hs
  · extract_lets +onlyGivenNames v2
    exact sound_owe (sound_State_modLeaf hs (fun x3 h4 => Holds.leafOf (Holds.leafMem h4)))
theorem sound_execTturn {tb : Target} {ta : Target} {s : State} (hs : Holds Sound s) : Holds (okNext Sound) (execTturn tb ta
    s) := by
  unfold execTturn
  exact sound_perform hs (fun s1 h2 x3 x4 x5 x6 x7 => sound_startTurn h2)
theorem sound_sendTurn {s : State} {n : ℕ} {t : Turn} (hs : Holds Sound s) : Holds Sound (sendTurn s n t) := by
  unfold sendTurn
  split
  · extract_lets +onlyGivenNames v4
    exact sound_pumpSends (sound_State_modLeaf hs (fun x5 h6 => Holds.leafOf (Holds.leafMem h6)))
  · exact hs
theorem sound_execMxcmd {tb : Target} {ta : Target} {s : State} (hs : Holds Sound s) : Holds (okNext Sound) (execMxcmd tb ta
    s) := by
  unfold execMxcmd
  refine sound_perform ?_ ?_
  · exact hs
  · intro s1 h2 x3 x4 x5 x6 x7
    extract_lets +onlyGivenNames v8 v9 v10
    refine Holds.ite ?_ ?_
    · exact sound_stay h2
    · split
      · exact sound_raiseFault h2
      · split
        rename_i e19
        have h20 := Holds.of_eq (P := (okProd anyP Sound)) e19 (sound_State_fresh h2)
        have h21 := Holds.pair2 h20
        extract_lets +onlyGivenNames v22 v23
        have h24 : Holds Sound v23 := sound_State_modQuire h21
        clear_value v23
        exact sound_complete h24
theorem sound_mxRead {s : State} {q : ℕ} {x : MxCmd} {xs : List MxCmd} (hs : Holds Sound s) : Holds Sound (mxRead s q x xs) :=
    by
  unfold mxRead
  extract_lets +onlyGivenNames v1 v2
  have h3 : Holds Sound v2 := sound_State_modQuire hs
  clear_value v2
  split
  · exact sound_reportUnit h3
  · split
    · exact hs
    · extract_lets +onlyGivenNames v16
      refine Holds.ite ?_ ?_
      · exact sound_reportUnit h3
      · extract_lets +onlyGivenNames v17
        exact Holds.ite (sound_State_modQuire hs) (sound_State_modQuire hs)
theorem sound_execMxCommandStart {quire : ℕ} {s : State} (hs : Holds Sound s) : Holds (okNext Sound) (execMxCommandStart quire
    s) := by
  unfold execMxCommandStart
  refine Holds.ite ?_ ?_
  · exact Holds.fault
  · extract_lets +onlyGivenNames v1
    split
    · exact sound_idle hs
    · exact Holds.ite (sound_idle hs) (Holds.ite (sound_idle hs) (Holds.next (sound_mxRead hs)))
theorem sound_execTstDev {tb : Target} {ta : Target} {s : State} (hs : Holds Sound s) : Holds (okNext Sound) (execTstDev tb ta
    s) := by
  unfold execTstDev
  refine sound_perform ?_ ?_
  · exact hs
  · intro s1 h2 x3 x4 x5 x6 x7
    exact sound_limitVa h2 (fun s8 h9 => Holds.ite (sound_stay h9) (sound_startTile h9))
theorem sound_mxWrite {s : State} {q : ℕ} {x : MxCmd} {xs : List MxCmd} (hs : Holds Sound s) : Holds Sound (mxWrite s q x xs)
    := by
  unfold mxWrite
  extract_lets +onlyGivenNames v1 v2 v3
  subst v3
  refine Holds.ite ?_ ?_
  · refine sound_reportUnit ?_
    beta_reduce
    exact sound_State_modQuire hs
  · split
    extract_lets +onlyGivenNames v8
    split
    · rename_i e10
      have h11 := Holds.of_eq (P := (okOpt Sound)) e10 (sound_leafWrite hs)
      exact sound_askGrant hs
    · rename_i e14
      have h15 := Holds.of_eq (P := (okOpt Sound)) e14 (sound_leafWrite hs)
      have h16 := Holds.un_some h15
      refine Holds.ite ?_ ?_
      · beta_reduce
        exact sound_State_modQuire h16
      · refine sound_State_modLeaf ?_ ?_
        · beta_reduce
          exact sound_State_modQuire h16
        · intro x17 h18
          exact Holds.leafOf (Holds.leafMem h18)
theorem sound_execTileSwap {leaf : ℕ} {s : State} (hs : Holds Sound s) : Holds (okNext Sound) (execTileSwap leaf s) := by
  unfold execTileSwap
  refine Holds.ite ?_ ?_
  · exact Holds.fault
  · extract_lets +onlyGivenNames v1
    have h2 : Holds okLeaf v1 := sound_State_leaf hs
    clear_value v1
    split
    · exact sound_idle hs
    · refine Holds.ite ?_ ?_
      · exact sound_idle hs
      · extract_lets +onlyGivenNames v8
        have h9 : Holds Sound v8 := sound_State_modLeaf hs (fun x10 h11 => Holds.leafOf (Holds.leafMem h11))
        clear_value v8
        exact Holds.next (sound_payOwed (sound_sendTurn h9))
theorem sound_execAccopCopy {tb : Target} {ta : Target} {s : State} (hs : Holds Sound s) : Holds (okNext Sound) (execAccopCopy
    tb ta s) := by
  unfold execAccopCopy
  refine sound_perform ?_ ?_
  · exact hs
  · intro s1 h2 x3 x4 x5 x6 x7
    refine sound_limitTile ?_ ?_
    · exact h2
    · intro s8 h9
      refine sound_limitLa ?_ ?_
      · exact h9
      · intro s10 h11
        extract_lets +onlyGivenNames v12 v13
        refine sound_limit ?_ ?_
        · exact h11
        · intro s14 h15
          extract_lets +onlyGivenNames v16
          have h17 : Holds Sound v16 := sound_noteWriters h15
          clear_value v16
          exact Holds.ite (sound_stay h17) (sound_startTile h17)
theorem sound_execMxCommandComplete {quire : ℕ} {s : State} (hs : Holds Sound s) : Holds (okNext Sound) (execMxCommandComplete
    quire s) := by
  unfold execMxCommandComplete
  refine Holds.ite ?_ ?_
  · exact Holds.fault
  · split
    · exact sound_idle hs
    · exact Holds.ite (sound_idle hs) (Holds.next (sound_mxWrite hs))
theorem sound_execMxwait {tb : Target} {ta : Target} {s : State} (hs : Holds Sound s) : Holds (okNext Sound) (execMxwait tb ta
    s) := by
  unfold execMxwait
  refine sound_perform ?_ ?_
  · exact hs
  · intro s1 h2 x3 x4 x5 x6 x7
    extract_lets +onlyGivenNames v8 v9
    refine sound_limit ?_ ?_
    · exact h2
    · intro s10 h11
      extract_lets +onlyGivenNames v12
      have h13 : Holds Sound v12 := sound_noteWriters h11
      clear_value v12
      refine Holds.ite ?_ ?_
      · exact sound_stay h13
      · extract_lets +onlyGivenNames v14 v15
        have h16 : Holds Sound v15 := sound_State_modLeaf h13 (fun x17 h18 => Holds.leafOf (Holds.leafMem h18))
        clear_value v15
        exact sound_complete h16
theorem sound_execTldLa {tb : Target} {ta : Target} {s : State} (hs : Holds Sound s) : Holds (okNext Sound) (execTldLa tb ta
    s) := by
  unfold execTldLa
  refine sound_perform ?_ ?_
  · exact hs
  · intro s1 h2 x3 x4 x5 x6 x7
    refine sound_limitLa ?_ ?_
    · exact h2
    · intro s8 h9
      extract_lets +onlyGivenNames v10
      have h11 : Holds okLeaf v10 := sound_State_leaf h9
      clear_value v10
      exact sound_limit h9 (fun s12 h13 => Holds.ite (sound_stay h13) (sound_startTile h13))
theorem sound_execTldDev {tb : Target} {ta : Target} {s : State} (hs : Holds Sound s) : Holds (okNext Sound) (execTldDev tb ta
    s) := by
  unfold execTldDev
  refine sound_perform ?_ ?_
  · exact hs
  · intro s1 h2 x3 x4 x5 x6 x7
    exact sound_limitVa h2 (fun s8 h9 => Holds.ite (sound_stay h9) (sound_startTile h9))
theorem sound_execTstLa {tb : Target} {ta : Target} {s : State} (hs : Holds Sound s) : Holds (okNext Sound) (execTstLa tb ta
    s) := by
  unfold execTstLa
  refine sound_perform ?_ ?_
  · exact hs
  · intro s1 h2 x3 x4 x5 x6 x7
    exact sound_limitLa h2 (fun s8 h9 => sound_limit h9 (fun s10 h11 => Holds.ite (sound_stay h11) (sound_startTile h11)))
theorem sound_execTturnEmit {port : Fin 8} {tb : Target} {ta : Target} {s : State} (hs : Holds Sound s) : Holds (okNext Sound)
    (execTturnEmit port tb ta s) := by
  unfold execTturnEmit
  exact sound_perform hs (fun s1 h2 x3 x4 x5 x6 x7 => Holds.ite (sound_blockFault h2) (sound_startTurn (sound_queueSend h2)))

/-! ### Memory -/

theorem sound_atomgRow {f : Form} {op : ℕ} {scope : Scope} {ord : Order} {s : State} (hs : Holds Sound s) : Holds (okNext
    Sound) (atomgRow f op scope ord s) := by
  unfold atomgRow
  exact sound_perform hs (fun s1 h2 x3 x4 x5 x6 x7 => sound_request h2)
theorem sound_execAtomgFadd {scope : Scope} {ord : Order} {tb : Target} {ta : Target} {s : State} (hs : Holds Sound s) : Holds
    (okNext Sound) (execAtomgFadd scope ord tb ta s) := by
  unfold execAtomgFadd
  exact sound_atomgRow hs
theorem sound_execAtomgSmax {scope : Scope} {ord : Order} {tb : Target} {ta : Target} {s : State} (hs : Holds Sound s) : Holds
    (okNext Sound) (execAtomgSmax scope ord tb ta s) := by
  unfold execAtomgSmax
  exact sound_atomgRow hs
theorem sound_atomlRow {f : Form} {op : ℕ} {scope : Scope} {ord : Order} {s : State} (hs : Holds Sound s) : Holds (okNext
    Sound) (atomlRow f op scope ord s) := by
  unfold atomlRow
  refine sound_perform ?_ ?_
  · exact hs
  · intro s1 h2 x3 x4 x5 x6 x7
    extract_lets +onlyGivenNames v8
    refine sound_leafAccess ?_ ?_
    · exact h2
    · intro s9 h10
      extract_lets +onlyGivenNames v11
      exact sound_padStore h10 (fun s12 h13 => sound_complete h13)
theorem sound_execAtomlSmax {scope : Scope} {ord : Order} {tb : Target} {ta : Target} {s : State} (hs : Holds Sound s) : Holds
    (okNext Sound) (execAtomlSmax scope ord tb ta s) := by
  unfold execAtomlSmax
  exact sound_atomlRow hs
theorem sound_execAtomlAdd {scope : Scope} {ord : Order} {tb : Target} {ta : Target} {s : State} (hs : Holds Sound s) : Holds
    (okNext Sound) (execAtomlAdd scope ord tb ta s) := by
  unfold execAtomlAdd
  exact sound_atomlRow hs
theorem sound_execCasg {scope : Scope} {ord : Order} {width : CasWidth} {tb : Target} {ta : Target} {s : State} (hs : Holds
    Sound s) : Holds (okNext Sound) (execCasg scope ord width tb ta s) := by
  unfold execCasg
  exact sound_perform hs (fun s1 h2 x3 x4 x5 x6 x7 => sound_request h2)
theorem sound_execAtomlAnd {scope : Scope} {ord : Order} {tb : Target} {ta : Target} {s : State} (hs : Holds Sound s) : Holds
    (okNext Sound) (execAtomlAnd scope ord tb ta s) := by
  unfold execAtomlAnd
  exact sound_atomlRow hs
theorem sound_execAtomlXchg {scope : Scope} {ord : Order} {tb : Target} {ta : Target} {s : State} (hs : Holds Sound s) : Holds
    (okNext Sound) (execAtomlXchg scope ord tb ta s) := by
  unfold execAtomlXchg
  exact sound_atomlRow hs
theorem sound_execAtomgAnd {scope : Scope} {ord : Order} {tb : Target} {ta : Target} {s : State} (hs : Holds Sound s) : Holds
    (okNext Sound) (execAtomgAnd scope ord tb ta s) := by
  unfold execAtomgAnd
  exact sound_atomgRow hs
theorem sound_execAtomlSmin {scope : Scope} {ord : Order} {tb : Target} {ta : Target} {s : State} (hs : Holds Sound s) : Holds
    (okNext Sound) (execAtomlSmin scope ord tb ta s) := by
  unfold execAtomlSmin
  exact sound_atomlRow hs
theorem sound_execLdl {scope : Scope} {acq : Bool} {width : AccWidth} {tb : Target} {ta : Target} {s : State} (hs : Holds
    Sound s) : Holds (okNext Sound) (execLdl scope acq width tb ta s) := by
  unfold execLdl
  refine sound_perform ?_ ?_
  · exact hs
  · intro s1 h2 x3 x4 x5 x6 x7
    refine sound_leafAccess ?_ ?_
    · exact h2
    · intro s8 h9
      extract_lets +onlyGivenNames v10
      exact sound_deliver2 h9
theorem sound_execCasl {scope : Scope} {ord : Order} {width : CasWidth} {tb : Target} {ta : Target} {s : State} (hs : Holds
    Sound s) : Holds (okNext Sound) (execCasl scope ord width tb ta s) := by
  unfold execCasl
  refine sound_perform ?_ ?_
  · exact hs
  · intro s1 h2 x3 x4 x5 x6 x7
    extract_lets +onlyGivenNames v8
    refine sound_leafAccess ?_ ?_
    · exact h2
    · intro s9 h10
      extract_lets +onlyGivenNames v11 v12
      exact Holds.ite (sound_padStore h10 (fun s13 h14 => sound_complete h14)) (sound_complete h10)
theorem sound_execLdg {scope : Scope} {acq : Bool} {width : AccWidth} {tb : Target} {ta : Target} {s : State} (hs : Holds
    Sound s) : Holds (okNext Sound) (execLdg scope acq width tb ta s) := by
  unfold execLdg
  exact sound_perform hs (fun s1 h2 x3 x4 x5 x6 x7 => sound_request h2)
theorem sound_execAtomlOr {scope : Scope} {ord : Order} {tb : Target} {ta : Target} {s : State} (hs : Holds Sound s) : Holds
    (okNext Sound) (execAtomlOr scope ord tb ta s) := by
  unfold execAtomlOr
  exact sound_atomlRow hs
theorem sound_execAtomgSmin {scope : Scope} {ord : Order} {tb : Target} {ta : Target} {s : State} (hs : Holds Sound s) : Holds
    (okNext Sound) (execAtomgSmin scope ord tb ta s) := by
  unfold execAtomgSmin
  exact sound_atomgRow hs
theorem sound_execStg {scope : Scope} {rel : Bool} {width : AccWidth} {tb : Target} {ta : Target} {s : State} (hs : Holds
    Sound s) : Holds (okNext Sound) (execStg scope rel width tb ta s) := by
  unfold execStg
  exact sound_perform hs (fun s1 h2 x3 x4 x5 x6 x7 => sound_request h2)
theorem sound_execAtomlXor {scope : Scope} {ord : Order} {tb : Target} {ta : Target} {s : State} (hs : Holds Sound s) : Holds
    (okNext Sound) (execAtomlXor scope ord tb ta s) := by
  unfold execAtomlXor
  exact sound_atomlRow hs
theorem sound_execAtomgXor {scope : Scope} {ord : Order} {tb : Target} {ta : Target} {s : State} (hs : Holds Sound s) : Holds
    (okNext Sound) (execAtomgXor scope ord tb ta s) := by
  unfold execAtomgXor
  exact sound_atomgRow hs
theorem sound_execAtomgOr {scope : Scope} {ord : Order} {tb : Target} {ta : Target} {s : State} (hs : Holds Sound s) : Holds
    (okNext Sound) (execAtomgOr scope ord tb ta s) := by
  unfold execAtomgOr
  exact sound_atomgRow hs
theorem sound_execStl {scope : Scope} {rel : Bool} {width : AccWidth} {tb : Target} {ta : Target} {s : State} (hs : Holds
    Sound s) : Holds (okNext Sound) (execStl scope rel width tb ta s) := by
  unfold execStl
  refine sound_perform ?_ ?_
  · exact hs
  · intro s1 h2 x3 x4 x5 x6 x7
    exact sound_leafAccess h2 (fun s8 h9 => sound_padStore h9 (fun s10 h11 => sound_complete h11))
theorem sound_execAtomgXchg {scope : Scope} {ord : Order} {tb : Target} {ta : Target} {s : State} (hs : Holds Sound s) : Holds
    (okNext Sound) (execAtomgXchg scope ord tb ta s) := by
  unfold execAtomgXchg
  exact sound_atomgRow hs
theorem sound_execAtomlFadd {scope : Scope} {ord : Order} {tb : Target} {ta : Target} {s : State} (hs : Holds Sound s) : Holds
    (okNext Sound) (execAtomlFadd scope ord tb ta s) := by
  unfold execAtomlFadd
  exact sound_atomlRow hs
theorem sound_execAtomgAdd {scope : Scope} {ord : Order} {tb : Target} {ta : Target} {s : State} (hs : Holds Sound s) : Holds
    (okNext Sound) (execAtomgAdd scope ord tb ta s) := by
  unfold execAtomgAdd
  exact sound_atomgRow hs

/-! ### Privileged -/

theorem sound_takeLog {s : State} {out : List (ℕ × List Byte)} (hs : Holds Sound s) : Holds Sound (takeLog s out) := by
  unfold takeLog
  exact Holds.keep hs
theorem sound_execControlCoreHalt {core : Fin 16} {s : State} (hs : Holds Sound s) : Holds (okNext Sound) (execControlCoreHalt
    core s) := by
  unfold execControlCoreHalt
  exact Holds.ite (sound_idle hs) (Holds.next (sound_haltCore (sound_abandon hs)))
theorem sound_failPrepare {s : State} {b : Batch} {q : ℕ} {ctx : ℕ} (hs : Holds Sound s) (hb : Holds okBatch b) : Holds Sound
    (failPrepare s b q ctx) := by
  unfold failPrepare
  extract_lets +onlyGivenNames v1
  have h2 : Holds Sound v1 := sound_writeRecord hs
  clear_value v1
  refine Holds.ite ?_ ?_
  · extract_lets +onlyGivenNames v3
    have h4 : Holds Sound v3 := sound_writeRecord h2
    clear_value v3
    exact Holds.setFailed h4 Holds.none
  · exact Holds.setFailed h2 (Holds.some (Holds.batchImages hb))
theorem sound_putLog {f : Form} {s : State} {c : CoreId} {i : ℕ} {la : ℕ} (hs : Holds Sound s) : Holds Sound (putLog f s c i
    la) := by
  unfold putLog
  extract_lets +onlyGivenNames v1
  exact Holds.ite (sound_complete hs) (sound_padStore hs (fun s2 h3 => sound_State_modSlot (sound_stay h3)))
theorem sound_switchSlots {s : State} {b : Batch} (hs : Holds Sound s) (hb : Holds okBatch b) : Holds Sound (switchSlots s b)
    := by
  unfold switchSlots
  exact Holds.foldl hs (fun s1 x2 h3 => Holds.setConfig h3 (Holds.tset (sound_shadowIn hs hb) (Holds.config h3)))
theorem sound_granted {s : State} {c : CoreId} {i : ℕ} {k : State → State} (hs : Holds Sound s) (hk : ∀ y0, Holds Sound y0 →
    Holds Sound (k y0)) : Holds Sound (granted s c i k) := by
  unfold granted
  refine Holds.ite ?_ ?_
  · apply hk
    exact hs
  · exact sound_stayGrant hs
theorem sound_execCtxsv {tb : Target} {ta : Target} {s : State} (hs : Holds Sound s) : Holds (okNext Sound) (execCtxsv tb ta
    s) := by
  unfold execCtxsv
  refine sound_perform ?_ ?_
  · exact hs
  · intro s1 h2 x3 x4 x5 x6 x7
    refine sound_limit ?_ ?_
    · exact h2
    · intro s8 h9
      refine sound_granted ?_ ?_
      · exact h9
      · intro s10 h11
        split
        · exact sound_complete h11
        · exact sound_owe (sound_askVoid (Holds.keep h11))
theorem sound_uncache {s : State} {x : Inval} (hs : Holds Sound s) : Holds Sound (uncache s x) := by
  unfold uncache
  exact Holds.keep hs
theorem sound_invalidate {s : State} {c : CoreId} {i : ℕ} {x : Inval} (hs : Holds Sound s) : Holds Sound (invalidate s c i x)
    := by
  unfold invalidate
  extract_lets +onlyGivenNames v1
  exact sound_State_modSlot (sound_uncache hs)
theorem sound_tlbinv {f : Form} {s : State} {c : CoreId} {i : ℕ} {x : Inval} (hs : Holds Sound s) : Holds Sound (tlbinv f s c
    i x) := by
  unfold tlbinv
  refine sound_granted ?_ ?_
  · exact hs
  · intro s1 h2
    extract_lets +onlyGivenNames v3
    have h4 : Holds Sound v3 := Holds.ite (sound_invalidate h2) h2
    clear_value v3
    exact Holds.ite (sound_stay h4) (sound_complete h4)
theorem sound_readAnywhere {s : State} {c : CoreId} {i : ℕ} {la : ℕ} {n : ℕ} {k : State → List Byte → State} (hs : Holds Sound
    s) (hk : ∀ y0, Holds Sound y0 → ∀ y1, Holds Sound (k y0 y1)) : Holds Sound (readAnywhere s c i la n k) := by
  unfold readAnywhere
  extract_lets +onlyGivenNames v1
  refine Holds.ite ?_ ?_
  · apply hk
    exact hs
  · refine sound_padAccess ?_ ?_
    · exact hs
    · intro s2 h3
      extract_lets +onlyGivenNames v4 v5 v6
      have h7 : Holds Sound v6 := sound_State_modSlot h3
      clear_value v6
      refine Holds.ite ?_ ?_
      · apply hk
        exact h7
      · exact sound_stay h7
theorem sound_execImgw {tb : Target} {ta : Target} {s : State} (hs : Holds Sound s) : Holds (okNext Sound) (execImgw tb ta s)
    := by
  unfold execImgw
  refine sound_perform ?_ ?_
  · exact hs
  · intro s1 h2 x3 x4 x5 x6 x7
    refine sound_readAnywhere ?_ ?_
    · exact h2
    · intro s8 h9 x10
      refine sound_limit ?_ ?_
      · exact h9
      · intro s11 h12
        refine sound_granted ?_ ?_
        · exact h12
        · intro s13 h14
          extract_lets +onlyGivenNames v15
          exact sound_acceptCopy h14
theorem sound_execTlbinvCtx {tb : Target} {ta : Target} {s : State} (hs : Holds Sound s) : Holds (okNext Sound) (execTlbinvCtx
    tb ta s) := by
  unfold execTlbinvCtx
  exact sound_perform hs (fun s1 h2 x3 x4 x5 x6 x7 => sound_limit h2 (fun s8 h9 => sound_tlbinv h9))
theorem sound_execImgcmt {tb : Target} {ta : Target} {s : State} (hs : Holds Sound s) : Holds (okNext Sound) (execImgcmt tb ta
    s) := by
  unfold execImgcmt
  refine sound_perform ?_ ?_
  · exact hs
  · intro s1 h2 x3 x4 x5 x6 x7
    refine sound_granted ?_ ?_
    · exact h2
    · intro s8 h9
      split
      rename_i e13
      have h14 := Holds.of_eq (P := (okProd anyP Sound)) e13 (sound_State_fresh h9)
      have h15 := Holds.pair2 h14
      extract_lets +onlyGivenNames v16
      have h17 : Holds okBatch v16 := sound_openBatch h15
      clear_value v16
      extract_lets +onlyGivenNames v18
      have h19 : Holds okBatch v18 := Holds.batchOf (Holds.batchImages h17)
      clear_value v18
      refine sound_owe ?_
      refine Holds.stateOf ?_ ?_ ?_ ?_ ?_ ?_ ?_ ?_ ?_ ?_ ?_ ?_ ?_ ?_
      · exact Holds.hbm h15
      · exact Holds.host h15
      · exact Holds.leaves h15
      · exact Holds.cores h15
      · exact Holds.nil
      · exact Holds.config h15
      · exact Holds.papers h15
      · exact Holds.evicted h15
      · exact Holds.append (Holds.batches h15) (Holds.cons h19 Holds.nil)
      · exact Holds.failed h15
      · exact Holds.nContexts h15
      · exact Holds.nCores h15
      · exact Holds.nFolios h15
      · exact Holds.nApertures h15
theorem sound_execApset {tb : Target} {ta : Target} {s : State} (hs : Holds Sound s) : Holds (okNext Sound) (execApset tb ta
    s) := by
  unfold execApset
  refine sound_perform ?_ ?_
  · exact hs
  · intro s1 h2 x3 x4 x5 x6 x7
    refine sound_limit ?_ ?_
    · exact h2
    · intro s8 h9
      refine sound_readAnywhere ?_ ?_
      · exact h9
      · intro s10 h11 x12
        refine sound_limit ?_ ?_
        · exact h11
        · intro s13 h14
          refine sound_granted ?_ ?_
          · exact h14
          · intro s15 h16
            extract_lets +onlyGivenNames v17
            exact sound_complete (Holds.setApertures h16 (Holds.lenLset (Holds.nApertures h16)))
theorem sound_execHandlerEntry {core : Fin 16} {s : State} (hs : Holds Sound s) : Holds (okNext Sound) (execHandlerEntry core
    s) := by
  unfold execHandlerEntry
  extract_lets +onlyGivenNames v1
  have h2 : Holds okCore v1 := sound_State_core hs
  clear_value v1
  refine Holds.ite ?_ ?_
  · exact sound_idle hs
  · split
    · exact Holds.next (sound_takeException hs)
    · exact Holds.ite (Holds.next (sound_takeException hs)) (sound_idle hs)
theorem sound_execEret {s : State} (hs : Holds Sound s) : Holds (okNext Sound) (execEret s) := by
  unfold execEret
  exact sound_perform hs (fun s1 h2 x3 x4 x5 x6 x7 => Holds.ite (sound_transfer h2) (sound_blockFault h2))
theorem sound_execWfi {tb : Target} {ta : Target} {s : State} (hs : Holds Sound s) : Holds (okNext Sound) (execWfi tb ta s) :=
    by
  unfold execWfi
  refine sound_perform ?_ ?_
  · exact hs
  · intro s1 h2 x3 x4 x5 x6 x7
    split
    · refine Holds.ite ?_ ?_
      · exact sound_complete (sound_State_modCore h2 (fun x10 h11 => Holds.coreOf (Holds.coreMem h11) (Holds.coreRegs h11)))
      · exact sound_stay h2
    · exact Holds.ite (sound_complete h2) (sound_stay h2)
theorem sound_paRefused {s : State} {c : CoreId} {pa : ℕ} {cls : ℕ} {detail : ℕ} (hs : Holds Sound s) : Holds Sound (paRefused
    s c pa cls detail) := by
  unfold paRefused
  extract_lets +onlyGivenNames v1 v2
  exact sound_raiseFault hs
theorem sound_execPgset {tb : Target} {ta : Target} {s : State} (hs : Holds Sound s) : Holds (okNext Sound) (execPgset tb ta
    s) := by
  unfold execPgset
  refine sound_perform ?_ ?_
  · exact hs
  · intro s1 h2 x3 x4 x5 x6 x7
    extract_lets +onlyGivenNames v8
    refine Holds.ite ?_ ?_
    · exact sound_blockFault h2
    · refine Holds.ite ?_ ?_
      · exact sound_paRefused h2
      · refine Holds.ite ?_ ?_
        · exact sound_paRefused h2
        · exact Holds.ite (sound_stay h2) (sound_granted h2 (fun s9 h10 => sound_complete (sound_hbmWrite h10)))
theorem sound_execElogrd {tb : Target} {ta : Target} {s : State} (hs : Holds Sound s) : Holds (okNext Sound) (execElogrd tb ta
    s) := by
  unfold execElogrd
  refine sound_perform ?_ ?_
  · exact hs
  · intro s1 h2 x3 x4 x5 x6 x7
    refine sound_limitLa ?_ ?_
    · exact h2
    · intro s8 h9
      split
      · exact sound_raiseFault h9
      · refine Holds.ite ?_ ?_
        · exact sound_putLog h9
        · refine Holds.ite ?_ ?_
          · exact sound_stay h9
          · refine sound_granted ?_ ?_
            · exact h9
            · intro s15 h16
              extract_lets +onlyGivenNames v17 v18
              have h19 : Holds Sound v18 := sound_State_modSlot (sound_takeLog h16)
              clear_value v18
              exact sound_putLog h19
theorem sound_execTlbinvAll {tb : Target} {ta : Target} {s : State} (hs : Holds Sound s) : Holds (okNext Sound) (execTlbinvAll
    tb ta s) := by
  unfold execTlbinvAll
  exact sound_perform hs (fun s1 h2 x3 x4 x5 x6 x7 => sound_tlbinv h2)
theorem sound_execTlbinvPage {tb : Target} {ta : Target} {s : State} (hs : Holds Sound s) : Holds (okNext Sound)
    (execTlbinvPage tb ta s) := by
  unfold execTlbinvPage
  exact sound_perform hs (fun s1 h2 x3 x4 x5 x6 x7 => sound_limit h2 (fun s8 h9 => sound_tlbinv h9))

/-! ### Spine -/

theorem sound_takeEntry {s : State} {id : ℕ} {e : PoolEntry} (hs : Holds Sound s) : Holds Sound (takeEntry s id e) := by
  unfold takeEntry
  exact Holds.keep hs
theorem sound_execCopyNodeRun {e : ℕ} {s : State} (hs : Holds Sound s) : Holds (okNext Sound) (execCopyNodeRun e s) := by
  unfold execCopyNodeRun
  split
  · exact Holds.fault
  · refine Holds.ite ?_ ?_
    · exact sound_idle hs
    · split
      · rename_i e8
        have h9 := Holds.of_eq (P := (okOk (okProd anyP Sound))) e8 (sound_spineRead hs)
        exact Holds.next (sound_holdInst hs)
      · rename_i e13
        have h14 := Holds.of_eq (P := (okOk (okProd anyP Sound))) e13 (sound_spineRead hs)
        have h15 := Holds.un_ok h14
        have h16 := Holds.pair2 h15
        extract_lets +onlyGivenNames v17
        have h18 : Holds Sound v17 := sound_freeInst h16
        clear_value v17
        split
        · exact Holds.next (sound_endWith h18)
        · extract_lets +onlyGivenNames v28 v29 v30
          split
          rename_i e34
          have h35 := Holds.of_eq (P := (okProd anyP Sound)) e34 (sound_State_fresh h18)
          have h36 := Holds.pair2 h35
          extract_lets +onlyGivenNames v37 v38 v39 v40
          have h41 : Holds Sound v40 := sound_takeEntry h36
          clear_value v40
          exact Holds.next (Holds.keep h41)
theorem sound_loadData {img : Memory} {ent : List Byte} {l : Leaf} (himg : Holds okMem img) (hl : Holds okLeaf l) : Holds
    okLeaf (loadData img ent l) := by
  unfold loadData
  exact Holds.ite (sound_storeParts hl) hl
theorem sound_bindLeaf {s : State} {g : ℕ} {x : Gathering} {p : NodePlace} {n : ℕ} (hs : Holds Sound s) : Holds (okOk Sound)
    (bindLeaf s g x p n) := by
  unfold bindLeaf
  extract_lets +onlyGivenNames v1
  have h2 : Holds okMem v1 := Holds.getD (Holds.tget (Holds.config hs)) Holds.nilMem
  clear_value v1
  extract_lets +onlyGivenNames v3 v4
  have h5 : Holds Sound v4 := sound_State_setLeaf hs (Holds.leafOf Holds.nilMem)
  clear_value v4
  extract_lets +onlyGivenNames v6
  split
  · extract_lets +onlyGivenNames v12
    have h13 : Holds okLeaf v12 := Holds.leafOf Holds.nilMem
    clear_value v12
    exact Holds.error
  · extract_lets +onlyGivenNames v17
    subst v17
    split
    · exact Holds.error
    · exact Holds.error
    · exact Holds.error
    · split
      · exact Holds.error
      · extract_lets +onlyGivenNames v53
        have h54 : Holds okLeaf v53 := sound_State_leaf h5
        clear_value v53
        extract_lets +onlyGivenNames v55
        have h56 : Holds okLeaf v55 := sound_loadData h2 (Holds.leafOf (Holds.leafMem h54))
        clear_value v55
        extract_lets +onlyGivenNames v57
        exact Holds.ok (sound_State_setLeaf h5 (Holds.leafOf (Holds.leafMem h56)))
theorem sound_bindPlace {g : ℕ} {x : Gathering} {p : NodePlace} {s : State} (hs : Holds Sound s) : Holds (okOk Sound)
    (bindPlace g x p s) := by
  unfold bindPlace
  exact Holds.foldlOk hs (fun s1 x2 h3 => sound_bindLeaf h3)
theorem sound_bindNew {s : State} {id : ℕ} {e : PoolEntry} (hs : Holds Sound s) : Holds Sound (bindNew s id e) := by
  unfold bindNew
  split
  · rename_i e3
    have h4 := Holds.of_eq (P := (okOk (okProd anyP Sound))) e3 (sound_spineRead hs)
    exact sound_holdInst hs
  · rename_i e8
    have h9 := Holds.of_eq (P := (okOk (okProd anyP Sound))) e8 (sound_spineRead hs)
    have h10 := Holds.un_ok h9
    have h11 := Holds.pair2 h10
    extract_lets +onlyGivenNames v12
    have h13 : Holds Sound v12 := sound_freeInst h11
    clear_value v12
    split
    · exact sound_endWith h13
    · extract_lets +onlyGivenNames v19
      split
      rename_i e23
      have h24 := Holds.of_eq (P := (okProd anyP Sound)) e23 (sound_State_fresh h13)
      have h25 := Holds.pair2 h24
      extract_lets +onlyGivenNames v26
      have h27 : Holds Sound v26 := sound_takeEntry h25
      clear_value v26
      extract_lets +onlyGivenNames v28
      have h29 : Holds Sound v28 := Holds.keep h27
      clear_value v28
      split
      · rename_i e32
        have h33 := Holds.of_eq (P := (okOk Sound)) e32 (Holds.foldlOk h29 (fun s34 x35 h36 => sound_bindPlace h36))
        exact sound_endWith h29
      · rename_i e39
        have h40 := Holds.of_eq (P := (okOk Sound)) e39 (Holds.foldlOk h29 (fun s41 x42 h43 => sound_bindPlace h43))
        have h44 := Holds.un_ok h40
        extract_lets +onlyGivenNames v45
        have h46 : Holds Sound v45 := Holds.foldl h44 (fun s47 x48 h49 => sound_reloadFree h49)
        clear_value v45
        exact sound_State_modGath h46
theorem sound_preemptReserve {s : State} {id : ℕ} {qs : List ℕ} {c : ℕ} (hs : Holds Sound s) : Holds Sound (preemptReserve s
    id qs c) := by
  unfold preemptReserve
  exact Holds.keep hs
theorem sound_askSaves {s : State} {gs : List (ℕ × Gathering)} (hs : Holds Sound s) : Holds Sound (askSaves s gs) := by
  unfold askSaves
  exact Holds.foldl hs (fun s1 x2 h3 => sound_askVoid h3)
theorem sound_dispatch {s : State} {id : ℕ} {e : PoolEntry} {n : ℕ} (hs : Holds Sound s) : Holds Sound (dispatch s id e n) := by
  unfold dispatch
  extract_lets +onlyGivenNames v1
  have h2 : Holds Sound v1 := sound_State_modContext hs
  clear_value v1
  exact Holds.keep h2
theorem sound_tryEntry {s : State} {c : ℕ} {id : ℕ} {e : PoolEntry} (hs : Holds Sound s) : Holds (okProd Sound anyP) (tryEntry
    s c id e) := by
  unfold tryEntry
  refine Holds.ite ?_ ?_
  · exact Holds.pair (sound_dispatch hs) Holds.any
  · extract_lets +onlyGivenNames v1 v2 v3
    refine Holds.ite ?_ ?_
    · exact Holds.pair (sound_dispatch hs) Holds.any
    · extract_lets +onlyGivenNames v4
      refine Holds.ite ?_ ?_
      · exact Holds.pair (sound_preemptReserve (sound_askSaves hs)) Holds.any
      · extract_lets +onlyGivenNames v5
        have h6 : Holds Sound v5 := sound_askSaves hs
        clear_value v5
        exact Holds.pair (Holds.ite h6 (Holds.keep h6)) Holds.any
theorem sound_scan {s : State} {a1 : List (ℕ × ℕ × PoolEntry)} (hs : Holds Sound s) : Holds Sound (scan s a1) := by
  induction a1 generalizing s with
  | nil =>
    unfold scan
    exact hs
  | cons z zs ih =>
    unfold scan
    split
    rename_i e4
    have h5 := Holds.of_eq (P := (okProd Sound anyP)) e4 (sound_tryEntry hs)
    have h6 := Holds.pair1 h5
    refine Holds.ite ?_ ?_
    · exact h6
    · apply ih
      exact h6
theorem sound_wakeQuires {s : State} {qs : List ℕ} (hs : Holds Sound s) : Holds Sound (wakeQuires s qs) := by
  unfold wakeQuires
  exact Holds.foldl hs (fun s1 x2 h3 => Holds.ite h3 (sound_State_modQuire h3))
theorem sound_restoreLeaf {g : ℕ} {bad : List ℕ} {l : Leaf} (hl : Holds okLeaf l) : Holds okLeaf (restoreLeaf g bad l) := by
  unfold restoreLeaf
  extract_lets +onlyGivenNames v1
  have h2 : Holds okLeaf v1 := sound_reloadLeaf (Holds.leafOf (Holds.leafMem hl))
  clear_value v1
  exact Holds.leafOf (Holds.leafMem h2)
theorem sound_restore {s : State} {id : ℕ} {e : PoolEntry} {g : ℕ} (hs : Holds Sound s) : Holds Sound (restore s id e g) := by
  unfold restore
  split
  · rename_i e2
    have h3 := Holds.of_eq (P := (okOpt okPaper)) e2 (Holds.tget (Holds.papers hs))
    exact Holds.keep hs
  · rename_i e6
    have h7 := Holds.of_eq (P := (okOpt okPaper)) e6 (Holds.tget (Holds.papers hs))
    have h8 := Holds.un_some h7
    refine Holds.ite ?_ ?_
    · exact sound_endWith hs
    · extract_lets +onlyGivenNames v9
      have h10 : Holds Sound v9 := sound_takeEntry hs
      clear_value v9
      extract_lets +onlyGivenNames v11 v12
      have h13 : Holds Sound v12 := Holds.setPapers h10 (Holds.tdel (Holds.papers h10))
      clear_value v12
      extract_lets +onlyGivenNames v14
      have h15 : Holds Sound v14 := sound_State_modContext h13
      clear_value v14
      extract_lets +onlyGivenNames v16
      subst v16
      extract_lets +onlyGivenNames v17
      have h18 : Holds Sound v17 := by
        subst v17
        refine Holds.foldl ?_ ?_
        · exact h15
        · intro s19 x20 h21
          split
          · rename_i e24
            have h25 := Holds.of_eq (P := (okOpt (okProd anyP okLeaf))) e24 (Holds.getList (Holds.paperLeaves h8))
            have h26 := Holds.un_some h25
            exact sound_State_setLeaf h21 (sound_restoreLeaf (Holds.right (P := anyP) (Q := okLeaf) h26))
          · rename_i e28
            have h29 := Holds.of_eq (P := (okOpt (okProd anyP okLeaf))) e28 (Holds.getList (Holds.paperLeaves h8))
            exact h21
      clear_value v17
      extract_lets +onlyGivenNames v30
      have h31 : Holds Sound v30 := Holds.foldl h18 (fun s32 x33 h34 => sound_reloadFree h34)
      clear_value v30
      exact sound_State_modGath h31
theorem sound_execBind {e : ℕ} {s : State} (hs : Holds Sound s) : Holds (okNext Sound) (execBind e s) := by
  unfold execBind
  split
  · exact Holds.fault
  · refine Holds.ite ?_ ?_
    · exact sound_idle hs
    · refine Holds.ite ?_ ?_
      · exact sound_idle hs
      · refine Holds.ite ?_ ?_
        · exact Holds.next (sound_wakeQuires hs)
        · split
          · exact Holds.next (sound_restore hs)
          · exact Holds.next (sound_bindNew hs)
theorem sound_execEntryAging {e : ℕ} {s : State} (hs : Holds Sound s) : Holds (okNext Sound) (execEntryAging e s) := by
  unfold execEntryAging
  split
  · exact Holds.fault
  · extract_lets +onlyGivenNames v6
    refine Holds.ite ?_ ?_
    · exact sound_idle hs
    · extract_lets +onlyGivenNames v7
      have h8 : Holds Sound v7 := Holds.ite hs (sound_raiseVt hs)
      clear_value v7
      exact Holds.next (Holds.keep h8)
theorem sound_execSpineDispatch {s : State} (hs : Holds Sound s) : Holds (okNext Sound) (execSpineDispatch s) := by
  unfold execSpineDispatch
  extract_lets +onlyGivenNames v1
  have h2 : Holds Sound v1 := sound_workAll hs
  clear_value v1
  exact Holds.next (sound_scan h2)

/-! ### Platform -/

theorem sound_zeroQuire {s : State} {q : ℕ} (hs : Holds Sound s) : Holds Sound (zeroQuire s q) := by
  unfold zeroQuire
  exact Holds.foldl hs (fun s1 x2 h3 => Holds.setLeaves h3 (Holds.tdel (Holds.leaves h3)))
theorem sound_execQuirePowerTransition {quire : ℕ} {s : State} (hs : Holds Sound s) : Holds (okNext Sound)
    (execQuirePowerTransition quire s) := by
  unfold execQuirePowerTransition
  refine Holds.ite ?_ ?_
  · exact Holds.fault
  · extract_lets +onlyGivenNames v1
    refine Holds.ite ?_ ?_
    · exact sound_idle hs
    · extract_lets +onlyGivenNames v2 v3
      have h4 : Holds Sound v3 := Holds.ite (sound_zeroQuire hs) hs
      clear_value v3
      exact Holds.next (sound_State_modQuire h4)
theorem sound_execHbmScrub {line : ℕ} {found : EccResult} {s : State} (hs : Holds Sound s) : Holds (okNext Sound)
    (execHbmScrub line found s) := by
  unfold execHbmScrub
  extract_lets +onlyGivenNames v1
  refine Holds.ite ?_ ?_
  · exact Holds.fault
  · split
    · exact sound_idle hs
    · exact Holds.next (sound_writeRecord hs)
    · exact Holds.next (sound_writeRecord (sound_spoil hs))
theorem sound_attest {s : State} (hs : Holds Sound s) : Holds Sound (attest s) := by
  unfold attest
  exact Holds.ite (Holds.keep hs) hs
theorem sound_mapOut {s : State} {q : ℕ} (hs : Holds Sound s) : Holds Sound (mapOut s q) := by
  unfold mapOut
  extract_lets +onlyGivenNames v1
  have h2 : Holds Sound v1 := sound_State_modQuire hs
  clear_value v1
  exact Holds.keep h2
theorem sound_execFolioAdmission {folio : Fin 8} {passed : Bool} {mappedOut : List ℕ} {s : State} (hs : Holds Sound s) : Holds
    (okNext Sound) (execFolioAdmission folio passed mappedOut s) := by
  unfold execFolioAdmission
  extract_lets +onlyGivenNames v1
  refine Holds.ite ?_ ?_
  · exact sound_idle hs
  · extract_lets +onlyGivenNames v2 v3
    have h4 : Holds Sound v3 := Holds.foldl hs (fun s5 x6 h7 => sound_writeRecord (sound_mapOut h7))
    clear_value v3
    extract_lets +onlyGivenNames v8
    have h9 : Holds Sound v8 := Holds.ite h4 (sound_writeRecord h4)
    clear_value v8
    exact Holds.next (sound_attest (Holds.setFolios h9 (Holds.lenLmod (Holds.nFolios h9))))
theorem sound_bootFailed {s : State} {cls : ℕ} (hs : Holds Sound s) : Holds Sound (bootFailed s cls) := by
  unfold bootFailed
  extract_lets +onlyGivenNames v1
  have h2 : Holds Sound v1 := sound_State_modCore hs (fun x3 h4 => Holds.coreOf (Holds.coreMem h4) (Holds.coreRegs h4))
  clear_value v1
  exact Holds.keep h2
theorem sound_endNamed {r : Report} {s : State} {i : ℕ} (hs : Holds Sound s) : Holds Sound (endNamed r s i) := by
  unfold endNamed
  split
  · exact Holds.ite hs (sound_endWith hs)
  · exact hs
theorem sound_folioReset {s : State} {r : Report} {f : ℕ} (hs : Holds Sound s) : Holds Sound (folioReset s r f) := by
  unfold folioReset
  extract_lets +onlyGivenNames v1
  have h2 : Holds Sound v1 := Holds.foldl hs (fun s3 x4 h5 => sound_endNamed h5)
  clear_value v1
  extract_lets +onlyGivenNames v6
  have h7 : Holds Sound v6 := sound_tearEvictions h2
  clear_value v6
  refine Holds.stateOf ?_ ?_ ?_ ?_ ?_ ?_ ?_ ?_ ?_ ?_ ?_ ?_ ?_ ?_
  · exact Holds.hbm h7
  · exact Holds.host h7
  · exact Holds.filter (Holds.leaves h7)
  · exact Holds.cores h7
  · exact Holds.shadow h7
  · exact Holds.config h7
  · exact Holds.papers h7
  · exact Holds.evicted h7
  · exact Holds.batches h7
  · exact Holds.failed h7
  · exact Holds.nContexts h7
  · exact Holds.nCores h7
  · exact Holds.lenLmod (Holds.nFolios h7)
  · exact Holds.nApertures h7
theorem sound_execMeshLinkFailure {leaf : ℕ} {dir : Fin 4} {s : State} (hs : Holds Sound s) : Holds (okNext Sound)
    (execMeshLinkFailure leaf dir s) := by
  unfold execMeshLinkFailure
  refine Holds.ite ?_ ?_
  · exact Holds.fault
  · split
    · exact Holds.fault
    · extract_lets +onlyGivenNames v6 v7
      refine Holds.ite ?_ ?_
      · exact sound_idle hs
      · extract_lets +onlyGivenNames v8 v9
        have h10 : Holds Sound v9 := sound_folioReset (sound_writeRecord (Holds.keep hs))
        clear_value v9
        refine Holds.next ?_
        split
        · exact Holds.ite (sound_folioReset h10) h10
        · exact h10
theorem sound_startCore {firmware : List (ℕ × Byte)} {k : Core} (hk : Holds okCore k) : Holds okCore (startCore firmware k) :=
    by
  unfold startCore
  exact Holds.coreOf (Holds.foldl (Holds.coreMem hk) (fun x1 x2 h3 => Holds.ite (Holds.put h3) h3)) (Holds.coreRegs hk)
theorem sound_execDeviceBoot {found : BootResult} {s : State} (hs : Holds Sound s) : Holds (okNext Sound) (execDeviceBoot
    found s) := by
  unfold execDeviceBoot
  refine Holds.ite ?_ ?_
  · exact sound_idle hs
  · split
    · refine Holds.next ?_
      with_reducible refine Holds.setCores ?_ ?_ ?_
      · exact hs
      · exact Holds.map (P := okCore) (Holds.cores hs) (fun x4 h5 => sound_startCore h5)
      · exact Holds.lenMap (Holds.nCores hs)
    · exact Holds.next (sound_bootFailed hs)
    · exact Holds.next (sound_bootFailed hs)
    · exact Holds.next (sound_bootFailed hs)
theorem sound_execThermalEvent {folio : Fin 8} {level : ThermalLevel} {s : State} (hs : Holds Sound s) : Holds (okNext Sound)
    (execThermalEvent folio level s) := by
  unfold execThermalEvent
  extract_lets +onlyGivenNames v1
  split
  · extract_lets +onlyGivenNames v4
    have h5 : Holds Sound v4 := Holds.setFolios hs (Holds.lenLmod (Holds.nFolios hs))
    clear_value v4
    exact Holds.next (sound_writeRecord h5)
  · extract_lets +onlyGivenNames v8
    exact Holds.next (sound_folioReset (sound_writeRecord hs))
  · exact Holds.next (Holds.setFolios hs (Holds.lenLmod (Holds.nFolios hs)))
theorem sound_loseQuire {s : State} {q : ℕ} (hs : Holds Sound s) : Holds Sound (loseQuire s q) := by
  unfold loseQuire
  extract_lets +onlyGivenNames v1
  exact sound_folioReset (sound_writeRecord hs)
theorem sound_settleBatch {s : State} {b : Batch} {unreadable : List ℕ} {lost : List ℕ} (hs : Holds Sound s) (hb : Holds
    okBatch b) : Holds Sound (settleBatch s b unreadable lost) := by
  unfold settleBatch
  refine Holds.ite ?_ ?_
  · exact hs
  · split
    · exact sound_failPrepare hs hb
    · extract_lets +onlyGivenNames v6 v7
      have h8 : Holds Sound v7 := sound_switchSlots hs hb
      clear_value v7
      extract_lets +onlyGivenNames v9
      have h10 : Holds Sound v9 := Holds.setFailed h8 (Holds.ite Holds.none (Holds.failed hs))
      clear_value v9
      exact Holds.foldl h10 (fun s11 x12 h13 => sound_loseQuire h13)
theorem sound_execImageCommitSwitch {unreadable : List ℕ} {lost : List ℕ} {s : State} (hs : Holds Sound s) : Holds (okNext
    Sound) (execImageCommitSwitch unreadable lost s) := by
  unfold execImageCommitSwitch
  split
  · rename_i e2
    have h3 := Holds.of_eq (P := (okList okBatch)) e2 (Holds.batches hs)
    exact sound_idle hs
  · rename_i e7
    have h8 := Holds.of_eq (P := (okList okBatch)) e7 (Holds.batches hs)
    have h9 := Holds.head h8
    have h10 := Holds.tail h8
    exact Holds.ite (sound_idle hs) (Holds.next (sound_payOwed (sound_settleBatch (Holds.setBatches hs h10) h9)))
theorem sound_dropEvictions {s : State} {k : ℕ} (hs : Holds Sound s) : Holds Sound (dropEvictions s k) := by
  unfold dropEvictions
  exact Holds.keep hs
theorem sound_publishUpTo {s : State} {g : ℕ} {x : Gathering} {port : ℕ} (hs : Holds Sound s) : Holds Sound (publishUpTo s g x
    port) := by
  unfold publishUpTo
  exact Holds.left (P := Sound) (Q := anyP) (sound_publishList hs)
theorem sound_execRoundBufferError {g : ℕ} {port : Fin 256} {s : State} (hs : Holds Sound s) : Holds (okNext Sound)
    (execRoundBufferError g port s) := by
  unfold execRoundBufferError
  split
  · exact Holds.fault
  · refine Holds.ite ?_ ?_
    · exact sound_idle hs
    · extract_lets +onlyGivenNames v6
      have h7 : Holds Sound v6 := Holds.ite (sound_publishUpTo hs) hs
      clear_value v6
      exact Holds.next (sound_lostInRound h7)
theorem sound_endUnloaded {s : State} {i : ℕ} (hs : Holds Sound s) : Holds Sound (endUnloaded s i) := by
  unfold endUnloaded
  split
  · exact Holds.ite hs (sound_endWith hs)
  · exact hs
theorem sound_flitFailed {s : State} {n : ℕ} {dir : ℕ} {g : ℕ} {detail : ℕ} {m : LinkEnd} {recovered : Bool} (hs : Holds Sound
    s) : Holds (okNext Sound) (flitFailed s n dir g detail m recovered) := by
  unfold flitFailed
  split
  · exact sound_idle hs
  · refine Holds.ite ?_ ?_
    · extract_lets +onlyGivenNames v6
      exact Holds.ite (Holds.next (sound_writeRecord (Holds.keep hs))) (Holds.next (Holds.keep hs))
    · extract_lets +onlyGivenNames v7 v8
      have h9 : Holds Sound v8 := Holds.keep hs
      clear_value v8
      exact Holds.next (sound_lostInRound h9)
theorem sound_execGovernorLimit {what : GovernorLimit} {s : State} (hs : Holds Sound s) : Holds (okNext Sound)
    (execGovernorLimit what s) := by
  unfold execGovernorLimit
  split
  · exact Holds.next (sound_writeRecord hs)
  · exact Holds.next (sound_deviceReset (sound_writeRecord hs))
theorem sound_execSettledPeriodEnd {ctx : Fin 16} {va : ℕ} {s : State} (hs : Holds Sound s) : Holds (okNext Sound)
    (execSettledPeriodEnd ctx va s) := by
  unfold execSettledPeriodEnd
  split
  · exact sound_idle hs
  · extract_lets +onlyGivenNames v6
    exact Holds.ite (sound_idle hs) (Holds.next (sound_uncache (Holds.setHbm hs (Holds.write (Holds.hbm hs)))))
theorem sound_execMeshFlitRetry {leaf : ℕ} {dir : Fin 4} {what : MeshItem} {recovered : Bool} {s : State} (hs : Holds Sound s)
    : Holds (okNext Sound) (execMeshFlitRetry leaf dir what recovered s) := by
  unfold execMeshFlitRetry
  refine Holds.ite ?_ ?_
  · exact Holds.fault
  · split
    · split
      · exact Holds.next (sound_State_modLeaf hs (fun x6 h7 => Holds.leafOf (Holds.leafMem h7)))
      · exact sound_idle hs
    · split
      · exact Holds.fault
      · exact sound_flitFailed hs
    · split
      · exact Holds.fault
      · exact sound_flitFailed hs
theorem sound_parkPort {s : State} {k : ℕ} {p : ℕ} (hs : Holds Sound s) : Holds Sound (parkPort s k p) := by
  unfold parkPort
  extract_lets +onlyGivenNames v1 v2
  have h3 : Holds Sound v2 := sound_State_modContext hs
  clear_value v2
  exact Holds.keep h3
theorem sound_execContextUnload {ctx : Fin 16} {s : State} (hs : Holds Sound s) : Holds (okNext Sound) (execContextUnload ctx
    s) := by
  unfold execContextUnload
  extract_lets +onlyGivenNames v1
  split
  · exact sound_idle hs
  · refine Holds.ite ?_ ?_
    · exact sound_idle hs
    · extract_lets +onlyGivenNames v7
      have h8 : Holds Sound v7 := by
        subst v7
        split
        · exact sound_parkPort hs
        · exact hs
      clear_value v7
      extract_lets +onlyGivenNames v14
      have h15 : Holds Sound v14 := sound_State_modContext h8
      clear_value v14
      extract_lets +onlyGivenNames v16 v17
      have h18 : Holds Sound v17 := Holds.foldl (Holds.keep h15) (fun s19 x20 h21 => sound_endUnloaded h21)
      clear_value v17
      exact Holds.next (sound_finishUnload (sound_dropEvictions h18))
theorem sound_evictPage {k : ℕ} {x : State × Memory} {p : ℕ × Walked} (hx : Holds (okProd Sound okMem) x) : Holds (okProd
    Sound okMem) (evictPage k x p) := by
  unfold evictPage
  split
  rename_i x1 _ _
  have h4 := Holds.pair1 hx
  have h5 := Holds.pair2 hx
  split
  extract_lets +onlyGivenNames v9 v10 v11
  refine Holds.pair ?_ ?_
  · exact sound_uncache (Holds.setHbm h4 (Holds.write (Holds.hbm h4)))
  · exact Holds.foldl h5 (fun x12 x13 h14 => Holds.put h14)
theorem sound_execRangeEviction {stack : Fin 8} {s : State} (hs : Holds Sound s) : Holds (okNext Sound) (execRangeEviction
    stack s) := by
  unfold execRangeEviction
  split
  · exact sound_idle hs
  · extract_lets +onlyGivenNames v7
    refine Holds.ite ?_ ?_
    · exact sound_idle hs
    · split
      rename_i e11
      have h12 := Holds.of_eq (P := (okProd Sound okMem)) e11 (Holds.foldl (Holds.pair hs Holds.nilMem) (fun x13 x14 h15 => sound_evictPage h15))
      have h16 := Holds.pair1 h12
      have h17 := Holds.pair2 h12
      extract_lets +onlyGivenNames v18
      have h19 : Holds (okList okEvicted) v18 := Holds.filter (Holds.evicted h16)
      clear_value v18
      exact Holds.next (Holds.setEvicted h16 (Holds.append h19 (Holds.cons (Holds.evictedOf h17) Holds.nil)))
theorem sound_execContextLoad {ctx : Fin 16} {attrs : ContextAttrs} {s : State} (hs : Holds Sound s) : Holds (okNext Sound)
    (execContextLoad ctx attrs s) := by
  unfold execContextLoad
  extract_lets +onlyGivenNames v1 v2
  refine Holds.ite ?_ ?_
  · exact sound_idle hs
  · extract_lets +onlyGivenNames v3
    have h4 : Holds Sound v3 := Holds.setContexts hs (Holds.lenMap (Holds.nContexts hs))
    clear_value v3
    refine Holds.next ?_
    extract_lets +onlyGivenNames v5
    have h6 : Holds Sound v5 := sound_State_modContext h4
    clear_value v5
    exact Holds.keep h6
theorem sound_execQuireWakeTimeout {quire : ℕ} {s : State} (hs : Holds Sound s) : Holds (okNext Sound) (execQuireWakeTimeout
    quire s) := by
  unfold execQuireWakeTimeout
  refine Holds.ite ?_ ?_
  · exact Holds.fault
  · refine Holds.ite ?_ ?_
    · exact sound_idle hs
    · extract_lets +onlyGivenNames v1 v2 v3
      have h4 : Holds Sound v3 := sound_mapOut hs
      clear_value v3
      exact Holds.next (Holds.ite (sound_writeRecord h4) (Holds.foldl h4 (fun s5 x6 h7 => sound_endNamed h7)))
theorem sound_execFolioCalibrationDone {folio : Fin 8} {s : State} (hs : Holds Sound s) : Holds (okNext Sound)
    (execFolioCalibrationDone folio s) := by
  unfold execFolioCalibrationDone
  exact Holds.next (Holds.setFolios hs (Holds.lenLmod (Holds.nFolios hs)))
theorem sound_execQuireWake {quire : ℕ} {s : State} (hs : Holds Sound s) : Holds (okNext Sound) (execQuireWake quire s) := by
  unfold execQuireWake
  refine Holds.ite ?_ ?_
  · exact Holds.fault
  · extract_lets +onlyGivenNames v1
    refine Holds.ite ?_ ?_
    · exact sound_idle hs
    · extract_lets +onlyGivenNames v2
      have h3 : Holds Sound v2 := Holds.ite (sound_zeroQuire hs) hs
      clear_value v2
      exact Holds.next (sound_State_modQuire h3)

/-! ### Outside -/

theorem sound_leafWord {s : State} {n : ℕ} {la : ℕ} {corrected : Bool} (hs : Holds Sound s) : Holds Sound (leafWord s n la
    corrected) := by
  unfold leafWord
  exact Holds.ite (sound_writeRecord hs) (sound_State_modLeaf (sound_writeRecord hs) (fun x1 h2 => sound_spoilLines h2))
theorem sound_colophonRead {s : State} (hs : Holds Sound s) : Holds Sound (colophonRead s) := by
  unfold colophonRead
  exact Holds.keep hs
theorem sound_barRead {s : State} {off : ℕ} {size : ℕ} (hs : Holds Sound s) : Holds Sound (barRead s off size) := by
  unfold barRead
  exact Holds.keep hs
theorem sound_metadataError {s : State} {port : ℕ} {line : ℕ} (hs : Holds Sound s) : Holds Sound (metadataError s port line)
    := by
  unfold metadataError
  exact Holds.ite (sound_writeRecord (Holds.setHbm hs (Holds.write (Holds.hbm hs)))) hs
theorem sound_loadImage {s : State} {image : List Byte} {host : Bool} {signed : Bool} (hs : Holds Sound s) : Holds Sound
    (loadImage s image host signed) := by
  unfold loadImage
  extract_lets +onlyGivenNames v1
  exact Holds.ite (sound_writeRecord hs) (Holds.keep hs)
theorem sound_hostMsi {s : State} {core : Fin 16} (hs : Holds Sound s) : Holds Sound (hostMsi s core) := by
  unfold hostMsi
  extract_lets +onlyGivenNames v1
  have h2 : Holds okCore v1 := sound_State_core hs
  clear_value v1
  exact Holds.ite (sound_State_modCore hs (fun x3 h4 => Holds.coreOf (Holds.coreMem h4) (Holds.coreRegs h4))) hs
theorem sound_parityError {s : State} {what : ParityEntry} (hs : Holds Sound s) : Holds Sound (parityError s what) := by
  unfold parityError
  split
  · split
    · split
      exact sound_writeRecord (Holds.keep hs)
    · exact hs
  · split
    · extract_lets +onlyGivenNames v19
      exact sound_writeRecord (Holds.keep hs)
    · exact hs
  · split
    · extract_lets +onlyGivenNames v28 v29
      exact sound_writeRecord (sound_State_modLeaf hs (fun x30 h31 => Holds.leafOf (Holds.leafMem h31)))
    · exact hs
theorem sound_takeOutside {s : State} {a1 : Outside} (hs : Holds Sound s) : Holds (okNext Sound) (takeOutside s a1) := by
  unfold takeOutside
  split
  · exact Holds.next (sound_hostMsi hs)
  · exact Holds.next (sound_barRead hs)
  · exact Holds.next (sound_colophonRead hs)
  · exact Holds.next (sound_loadImage hs)
  · exact Holds.ite Holds.fault (Holds.next (sound_leafWord hs))
  · exact Holds.next (sound_parityError hs)
  · exact Holds.next (sound_metadataError hs)

/-! ### Turns -/

theorem sound_placeWord {s : State} {w : Word32} (hs : Holds Sound s) : Holds Sound (placeWord s w) := by
  unfold placeWord
  extract_lets +onlyGivenNames v1
  have h2 : Holds Sound v1 := Holds.keep hs
  clear_value v1
  extract_lets +onlyGivenNames v3
  refine sound_State_setLeaf ?_ ?_
  · exact h2
  · extract_lets +onlyGivenNames v4
    have h5 : Holds okLeaf v4 := sound_State_leaf h2
    clear_value v4
    exact Holds.leafOf (Holds.leafMem h5)
theorem sound_nextTurn {s : State} (hs : Holds Sound s) : Holds (okProd anyP Sound) (nextTurn s) := by
  unfold nextTurn
  split
  · exact Holds.pair Holds.any (Holds.keep hs)
  · extract_lets +onlyGivenNames v7
    exact Holds.pair Holds.any (Holds.keep hs)
theorem sound_issueAt {s : State} {c : CoreId} {i : ℕ} (hs : Holds Sound s) : Holds Sound (issueAt s c i) := by
  unfold issueAt
  extract_lets +onlyGivenNames v1
  have h2 : Holds Sound v1 := by
    subst v1
    split
    · refine Holds.ite ?_ ?_
      · exact hs
      · extract_lets +onlyGivenNames v6
        exact sound_State_modLeaf hs (fun x7 h8 => Holds.leafOf (Holds.leafMem h8))
    · exact hs
  clear_value v1
  exact Holds.keep h2

/-! ### Step -/

theorem sound_State_withFetchWord {s : State} {a1 : ℕ} {w : ℕ} (hs : Holds Sound s) : Holds Sound (State.withFetchWord s a1 w)
    := by
  unfold State.withFetchWord
  exact sound_placeWord hs

/-! ### The shapes of Safety -/

theorem sound_delivers {s : State} {t : State} {ta : Target} {tb : Target} {va : Option Word} {vb : Option Word} (hs : Holds
    Sound s) (ht : Holds Sound t) : Holds (okNext Sound) (delivers s t ta tb va vb) := by
  unfold delivers
  exact Holds.next (sound_deliver2 ht)
theorem sound_sends {s : State} {r : Request} (hs : Holds Sound s) : Holds (okNext Sound) (sends s r) := by
  unfold sends
  exact Holds.next (sound_State_modSlot (Holds.keep hs))
theorem sound_stepped {t : State} {n : ℕ} {u : FUnit} (ht : Holds Sound t) : Holds Sound (stepped t n u) := by
  unfold stepped
  exact sound_State_modUnit (sound_flushUnit ht)
theorem sound_completes {s : State} {t : State} {x : Instr} {va : Option Word} {vb : Option Word} (hs : Holds Sound s) (ht :
    Holds Sound t) : Holds (okNext Sound) (completes s t x va vb) := by
  unfold completes
  exact Holds.next (sound_complete ht)
theorem sound_tookTok {s : State} {n : ℕ} {u : FUnit} {i : ℕ} {p : ℕ} {t : Token} (hs : Holds Sound s) : Holds Sound (tookTok
    s n u i p t) := by
  unfold tookTok
  exact sound_State_modUnit (sound_dropHead hs)
theorem sound_Core_kept {x : Core} (hx : Holds okCore x) : Holds okCore (Core.kept x) := by
  unfold Core.kept
  exact Holds.coreOf (Holds.coreMem hx) (Holds.coreRegs hx)
theorem sound_Leaf_kept {x : Leaf} (hx : Holds okLeaf x) : Holds okLeaf (Leaf.kept x) := by
  unfold Leaf.kept
  exact Holds.leafOf (Holds.leafMem hx)

end Sys2Proof.Machine
end

