-- ==== Sys2Proof/Laws/Units.lean ====
section
/-!
SUPPORT. What a step of a flow unit does when it can act, and what taking tokens from its inputs does.
-/

namespace Sys2Proof.Machine

/-- The step of a unit that can act is what its work makes of the flushed state. -/
theorem unitStep_ready {s t : State} {n : Nat} {u : FUnit} {modes : List Nat} {act : State → Ran}
    (h : unitReady s n u modes) (ha : act (flushUnit s n u) = (t, none)) :
    unitStep modes n u s act = .next (stepped t n u) := by
  obtain ⟨h1, h2, h3, h4, h5, h6⟩ := h
  have h3 : (s.unit n u).mode ∈ modes := by simpa using h3
  simp [unitStep, Nat.not_le.mpr h1, h2, h3, h4, h5, h6, ha, settleUnit, stepped]

/-- The head that an input holds is taken. -/
theorem takeTok_holds {s : State} {n : Nat} {u : FUnit} {i p : Nat} {t : Token} {b : Bool}
    (h : holdsTok s n u i p t) (hd : t.kind ≠ .done) : takeTok s n u i b = ((tookTok s n u i p t, none), t) := by
  obtain ⟨h1, h2, h3⟩ := h
  simp [takeTok, unitHead, h1, h2, Option.isNone_iff_eq_none.mp h3, hd, tookTok]

/-- A token that is no EMPTY and no DONE goes to what follows. -/
theorem takeOne_holds {s : State} {n : Nat} {u : FUnit} {i p : Nat} {t : Token} {b : Bool} {k : State → Token → Ran}
    (h : holdsTok s n u i p t) (hd : t.kind ≠ .done) (he : t.kind ≠ .empty) :
    takeOne s n u i b k = k (tookTok s n u i p t) t := by
  simp [takeOne, takeTok_holds h hd, Ran.next, he, replaced]

/-- A step of one input. -/
theorem takeStep_one {s : State} {n : Nat} {u : FUnit} {i p : Nat} {t : Token} {k : State → List Token → Ran}
    (h : holdsTok s n u i p t) (hd : t.kind ≠ .done) (he : t.kind ≠ .empty) :
    takeStep s n u [i] k = k (tookTok s n u i p t) [t] := by
  have h2 : unitHead s n u i = some t := by simp [unitHead, h.1, h.2.1]
  simp [takeStep, takeAll, takeTok_holds h hd, Ran.next, he, replaced, h2, misaligned]

/-- A unit after an update of it. -/
@[simp] theorem State.unit_modUnit (s : State) (n : Nat) (u : FUnit) (f : FlowUnit → FlowUnit) :
    (s.modUnit n u f).unit n u = f (s.unit n u) := by
  cases u <;> simp [State.modUnit, State.unit, Leaf.unit]

/-- An update of a unit leaves the ports. -/
theorem State.leaf_modUnit (s : State) (n : Nat) (u : FUnit) (f : FlowUnit → FlowUnit) :
    ((s.modUnit n u f).leaf n).inputs = (s.leaf n).inputs ∧ ((s.modUnit n u f).leaf n).routes = (s.leaf n).routes := by
  cases u <;> simp [State.modUnit]

/-- A credit leaves every input, route and unit. -/
theorem leaf_sendCredit (s : State) (n p m : Nat) :
    ((sendCredit s n p).leaf m).inputs = (s.leaf m).inputs ∧ ((sendCredit s n p).leaf m).routes = (s.leaf m).routes ∧
      ∀ u, (sendCredit s n p).unit m u = s.unit m u := by
  unfold sendCredit
  split
  · rename_i a b _
    by_cases h : a = m
    · subst h
      refine ⟨by simp, by simp, fun u => ?_⟩
      cases u <;> simp [State.unit, Leaf.unit]
    · simp [State.leaf_modLeaf, h, State.unit]
  · simp

theorem getD_lmod_ne {α : Type} (xs : List α) {i j : Nat} (f : α → α) (d : α) (h : i ≠ j) :
    (lmod xs i f).getD j d = xs.getD j d := by
  induction xs generalizing i j with
  | nil => rfl
  | cons x xs ih =>
    cases i <;> cases j <;> simp_all [lmod]

/-- The check of a head's words leaves every leaf. -/
theorem leaf_checkHead (s : State) (n p m : Nat) : (checkHead s n p).leaf m = s.leaf m := by
  unfold checkHead
  dsimp only
  split
  · split
    · exact congrArg (fun t : Table Leaf => (tget t m).getD {}) (Recorded.writeRecord s _).keeps.1
    · exact State.leaf_modGath ..
  · rfl

/-- The head of a port removed: the inputs, and what stays. -/
theorem leaf_dropHead (s : State) (n p : Nat) :
    ((dropHead s n p).leaf n).inputs = lmod (s.leaf n).inputs p (popPort (rtCount ((s.leaf n).routes.getD p 0))) ∧
      ((dropHead s n p).leaf n).routes = (s.leaf n).routes ∧ ∀ u, (dropHead s n p).unit n u = s.unit n u := by
  unfold dropHead
  obtain ⟨h1, h2, h3⟩ := leaf_sendCredit
    ((checkHead s n p).modLeaf n fun l => { l with inputs := lmod l.inputs p (popPort (rtCount ((s.leaf n).routes.getD p 0))) }) n p n
  refine ⟨h1.trans (by simp [leaf_checkHead]), h2.trans (by simp [leaf_checkHead]), fun u => (h3 u).trans ?_⟩
  cases u <;> simp [State.unit, Leaf.unit, leaf_checkHead]

/-- Taking the head of one port leaves what an input holds at another. -/
theorem holdsTok_tookTok {s : State} {n : Nat} {u : FUnit} {i j p q : Nat} {t r : Token} (h : p ≠ q) (hr : holdsTok s n u j q r) :
    holdsTok (tookTok s n u i p t) n u j q r := by
  obtain ⟨h1, h2, h3⟩ := hr
  obtain ⟨c1, c2, c3⟩ := leaf_dropHead s n p
  refine ⟨?_, ?_, ?_⟩
  · simpa [tookTok, c3, FlowUnit.inp] using h1
  · simp only [tookTok, headOf, State.leaf_modUnit, c1, getD_lmod_ne _ _ _ h]
    exact h2
  · simpa [tookTok, headBad, State.leaf_modUnit, c2] using h3

/-- A step of two inputs at different ports, whose tokens agree (R234). -/
theorem takeStep_two {s : State} {n : Nat} {u : FUnit} {i j p q : Nat} {t r : Token} {k : State → List Token → Ran} (hp : p ≠ q)
    (h : holdsTok s n u i p t) (hr : holdsTok s n u j q r) (hd : t.kind ≠ .done) (he : t.kind ≠ .empty)
    (hk : r.kind = t.kind) (hl : r.level = t.level) (hm : r.deckle = t.deckle) :
    takeStep s n u [i, j] k = k (tookTok (tookTok s n u i p t) n u j q r) [t, r] := by
  have h2 : unitHead s n u i = some t := by simp [unitHead, h.1, h.2.1]
  have h3 : unitHead s n u j = some r := by simp [unitHead, hr.1, hr.2.1]
  simp [takeStep, takeAll, takeTok_holds h hd, takeTok_holds (holdsTok_tookTok hp hr) (by rwa [hk]), Ran.next, he, replaced, h2, h3,
    misaligned, hk, hl, hm, List.findIdx?_cons]

/-! ### The unit events -/

theorem ready_scannerStep {s t : State} {n : Nat} {u : FUnit} (h : unitReady s n u [1, 2, 3, 4, 5])
    (ha : (scanStep (flushUnit s n u) n u) = (t, none)) :
    exec (.scannerStep n u) s = .next (stepped t n u) :=
  unitStep_ready (act := fun S => scanStep S n u) h ha

theorem ready_scannerRefill {s t : State} {n : Nat} {u : FUnit} (h : unitReady s n u [2, 5])
    (ha : (match ((flushUnit s n u).flow n u).fibre with
      | some f => if f.ready then moreRefill (flushUnit s n u) n u f else firstRefill (flushUnit s n u) n u f
      | none => ((flushUnit s n u), some .wait)) = (t, none)) :
    exec (.scannerRefill n u) s = .next (stepped t n u) :=
  unitStep_ready (act := fun S => match (S.flow n u).fibre with
      | some f => if f.ready then moreRefill S n u f else firstRefill S n u f
      | none => (S, some .wait)) h ha

theorem ready_isectStep {s t : State} {n : Nat} {u : FUnit} (h : unitReady s n u [0x08])
    (ha : (pairStep false (flushUnit s n u) n u) = (t, none)) :
    exec (.isectStep n u) s = .next (stepped t n u) :=
  unitStep_ready (act := fun S => pairStep false S n u) h ha

theorem ready_unionStep {s t : State} {n : Nat} {u : FUnit} (h : unitReady s n u [0x09])
    (ha : (pairStep true (flushUnit s n u) n u) = (t, none)) :
    exec (.unionStep n u) s = .next (stepped t n u) :=
  unitStep_ready (act := fun S => pairStep true S n u) h ha

theorem ready_repeatStep {s t : State} {n : Nat} {u : FUnit} (h : unitReady s n u [0x0A])
    (ha : (repeatStep (flushUnit s n u) n u) = (t, none)) :
    exec (.repeatStep n u) s = .next (stepped t n u) :=
  unitStep_ready (act := fun S => repeatStep S n u) h ha

theorem ready_reduceStep {s t : State} {n : Nat} {u : FUnit} (h : unitReady s n u [0x0C])
    (ha : (reduceStep (flushUnit s n u) n u) = (t, none)) :
    exec (.reduceStep n u) s = .next (stepped t n u) :=
  unitStep_ready (act := fun S => reduceStep S n u) h ha

theorem ready_spaccStep {s t : State} {n : Nat} {u : FUnit} (h : unitReady s n u [0x0D])
    (ha : (spaccStep (flushUnit s n u) n u) = (t, none)) :
    exec (.spaccStep n u) s = .next (stepped t n u) :=
  unitStep_ready (act := fun S => spaccStep S n u) h ha

theorem ready_lwriteStep {s t : State} {n : Nat} {u : FUnit} (h : unitReady s n u [0x0E])
    (ha : (lwriteStep (flushUnit s n u) n u) = (t, none)) :
    exec (.lwriteStep n u) s = .next (stepped t n u) :=
  unitStep_ready (act := fun S => lwriteStep S n u) h ha

theorem ready_gatherStep {s t : State} {n : Nat} {u : FUnit} (h : unitReady s n u [0x10])
    (ha : (gatherStep (flushUnit s n u) n u) = (t, none)) :
    exec (.gatherStep n u) s = .next (stepped t n u) :=
  unitStep_ready (act := fun S => gatherStep S n u) h ha

theorem ready_scatterStep {s t : State} {n : Nat} {u : FUnit} (h : unitReady s n u [0x11])
    (ha : (scatterStep (flushUnit s n u) n u) = (t, none)) :
    exec (.scatterStep n u) s = .next (stepped t n u) :=
  unitStep_ready (act := fun S => scatterStep S n u) h ha

theorem ready_filterStep {s t : State} {n : Nat} {u : FUnit} (h : unitReady s n u [0x12])
    (ha : (filterStep (flushUnit s n u) n u) = (t, none)) :
    exec (.filterStep n u) s = .next (stepped t n u) :=
  unitStep_ready (act := fun S => filterStep S n u) h ha

theorem ready_coalesceStep {s t : State} {n : Nat} {u : FUnit} (h : unitReady s n u [0x13])
    (ha : (coalesceStep (flushUnit s n u) n u) = (t, none)) :
    exec (.coalesceStep n u) s = .next (stepped t n u) :=
  unitStep_ready (act := fun S => coalesceStep S n u) h ha

theorem ready_agenStep {s t : State} {n : Nat} {u : FUnit} (h : unitReady s n u [0x14])
    (ha : (if ((flushUnit s n u).unit n u).body 0x18 1 % 4 = 1 then agenTake (flushUnit s n u) n u else agenEmit (flushUnit s n u) n u) = (t, none)) :
    exec (.agenStep n u) s = .next (stepped t n u) :=
  unitStep_ready (act := fun S => if (S.unit n u).body 0x18 1 % 4 = 1 then agenTake S n u else agenEmit S n u) h ha

end Sys2Proof.Machine
end

