-- ==== Sys2Proof/Tests/Slice0.lean ====
section
/-!
SUPPORT. Tests of the model's author: words written out from the manual's encodings, ill-formed terms that the checks refuse, single
steps whose results are worked out by hand from the manual, and for every statement a state and operands that meet its premises.
-/

set_option Elab.async false

namespace Sys2Proof.Tests

open Sys2Proof Sys2Proof.Machine

/-! ### Small states -/

/-- A word in slot 0 of strand 0 of leaf 0, with its operands given, in an irrevocable round of CTX0; `pw` is the partition word. -/
def stand (w : Word32) (l r : Word := 0) (pw : Nat := 0) (t : Word := 1) : State :=
  (({ placeWord State.reset w with focus := ⟨wordCore, 0⟩ } : State).modLeaf 0 fun x => { x with partw := pw }).modSlot wordCore 0
    fun x => { x with l := givenOperand l, r := givenOperand r, t := givenOperand t }

/-- The same on control core 0, in handler mode or not. -/
def standCore (w : Word32) (l r : Word := 0) (handler : Bool := false) : State :=
  let x : Slot := { givenSlot w with l := givenOperand l, r := givenOperand r }
  ({ State.reset with focus := ⟨.control 0, 0⟩ } : State).modCore 0 fun k =>
    { k with started := true, handler, strand := { block := some { addr := 0, head := 0, slots := [x] } } }


/-! ### Words written out from the encodings of the manual (R117, R118, R130, R131) -/

/-- Row 0x00 of the opcode map. -/
theorem test_words_row0_0 :
    decode 0x030B7E81 = .ok (.rd 33 (.opnd .t 63) (.opnd .l 1)) ∧
    decode 0x043EFFFD = .ok (.movi (.reg 62) 0xfffd) ∧
    decode 0x06438001 = .ok (.movhi (.port 3) 0x8001) ∧
    decode 0x080103BF = .ok (.mov (.opnd .l 1) (.opnd .t 63)) ∧
    decode 0x0B200001 = .ok (.br .gez 0x200001) ∧
    decode 0x0C3FFFFD = .ok (.call .always 0x3ffffd) ∧
    decode 0x0E00FE7F = .ok (.brr) ∧
    decode 0x107F0FFD = .ok (.rnd 0xffd) ∧
    decode 0x1200FE7F = .ok (.exit) ∧
    decode 0x1204FE7F = .ok (.tdone) ∧
    decode 0x147F8001 = .ok (.trap 0x8001) ∧
    decode 0x167FFFFD = .ok (.bkpt 0xfffd) ∧
    decode 0x18810010 = .ok (.sysrd (.opnd .l 1) 0x010) ∧
    decode 0x1A7F0011 = .ok (.syswr 0x011) := by
  refine ⟨?_, ?_, ?_, ?_, ?_, ?_, ?_, ?_, ?_, ?_, ?_, ?_, ?_, ?_⟩ <;> rfl

/-- Row 0x00 of the opcode map. -/
theorem test_words_row0_1 :
    decode 0x1C00FE43 = .ok (.spawn .none (.port 3)) ∧
    decode 0x1E0103BF = .ok (.null (.opnd .l 1) (.opnd .t 63)) := by
  refine ⟨?_, ?_⟩ <;> rfl

/-- Row 0x10 of the opcode map. -/
theorem test_words_row1_0 :
    decode 0x20207D05 = .ok (.add .w64 false true (.reg 62) (.opnd .r 5)) ∧
    decode 0x22C0867F = .ok (.sub .w32 true false (.port 3) .none) ∧
    decode 0x25237E81 = .ok (.mul .w16 false true (.opnd .t 63) (.opnd .l 1)) ∧
    decode 0x27C20A3E = .ok (.mulh .w8 true (.opnd .r 5) (.reg 62)) ∧
    decode 0x2800FE43 = .ok (.div .w64 false .none (.port 3)) ∧
    decode 0x2AC103BF = .ok (.rem .w32 true (.opnd .l 1) (.opnd .t 63)) ∧
    decode 0x2D007D05 = .ok (.and .w16 false (.reg 62) (.opnd .r 5)) ∧
    decode 0x2FC0867F = .ok (.or .w8 true (.port 3) .none) ∧
    decode 0x30037E81 = .ok (.xor .w64 false (.opnd .t 63) (.opnd .l 1)) ∧
    decode 0x32C20A3E = .ok (.andn .w32 true (.opnd .r 5) (.reg 62)) ∧
    decode 0x3500FE43 = .ok (.shl .w16 false .none (.port 3)) ∧
    decode 0x37C103BF = .ok (.shr .w8 true (.opnd .l 1) (.opnd .t 63)) ∧
    decode 0x38007D05 = .ok (.sar .w64 false (.reg 62) (.opnd .r 5)) ∧
    decode 0x3AC0867F = .ok (.rot .w32 true (.port 3) .none) := by
  refine ⟨?_, ?_, ?_, ?_, ?_, ?_, ?_, ?_, ?_, ?_, ?_, ?_, ?_, ?_⟩ <;> rfl

/-- Row 0x10 of the opcode map. -/
theorem test_words_row1_1 :
    decode 0x3D037E81 = .ok (.min .w16 false (.opnd .t 63) (.opnd .l 1)) ∧
    decode 0x3FC20A3E = .ok (.max .w8 true (.opnd .r 5) (.reg 62)) := by
  refine ⟨?_, ?_⟩ <;> rfl

/-- Row 0x20 of the opcode map. -/
theorem test_words_row2_0 :
    decode 0x4020FE43 = .ok (.cmp .w64 false .gt .none (.port 3)) ∧
    decode 0x420103BF = .ok (.sel (.opnd .l 1) (.opnd .t 63)) ∧
    decode 0x45007D05 = .ok (.bitcPopc .w16 (.reg 62) (.opnd .r 5)) ∧
    decode 0x4584867F = .ok (.bitcClz .w8 (.port 3) .none) ∧
    decode 0x440B7E81 = .ok (.bitcCtz .w64 (.opnd .t 63) (.opnd .l 1)) ∧
    decode 0x448E0A3E = .ok (.bitcBrev .w32 (.opnd .r 5) (.reg 62)) ∧
    decode 0x4510FE43 = .ok (.bitcBswap .w16 .none (.port 3)) ∧
    decode 0x47BF1F7D = .ok (.bfx (.opnd .t 63) true 61 61) ∧
    decode 0x48007D05 = .ok (.bfi (.reg 62) (.opnd .r 5)) ∧
    decode 0x4A14867F = .ok (.lea 5 (.port 3) .none) ∧
    decode 0x4C818001 = .ok (.addi (.opnd .l 1) 0x8001) ∧
    decode 0x4E3EFFFD = .ok (.andi (.reg 62) 0xfffd) ∧
    decode 0x50438001 = .ok (.ori (.port 3) 0x8001) ∧
    decode 0x53BFFFFD = .ok (.xori (.opnd .t 63) 0xfffd) := by
  refine ⟨?_, ?_, ?_, ?_, ?_, ?_, ?_, ?_, ?_, ?_, ?_, ?_, ?_, ?_⟩ <;> rfl

/-- Row 0x20 of the opcode map. -/
theorem test_words_row2_1 :
    decode 0x55050021 = .ok (.shfiShl (.opnd .r 5) 33) ∧
    decode 0x547F007D = .ok (.shfiShr .none 61) ∧
    decode 0x548100A1 = .ok (.shfiSar (.opnd .l 1) 33) ∧
    decode 0x543E00FD = .ok (.shfiRot (.reg 62) 61) ∧
    decode 0x56434801 = .ok (.cmpi (.port 3) false .gt 0x801) ∧
    decode 0x59BFFFFD = .ok (.muli (.opnd .t 63) 0xfffd) ∧
    decode 0x5A007D05 = .ok (.adc .w64 (.reg 62) (.opnd .r 5)) := by
  refine ⟨?_, ?_, ?_, ?_, ?_, ?_, ?_⟩ <;> rfl

/-- Row 0x30 of the opcode map. -/
theorem test_words_row3_0 :
    decode 0x6154867F = .ok (.fadd .f16 .sr false true (.port 3) .none) ∧
    decode 0x626B7E81 = .ok (.fsub .f32 .dyn true false (.opnd .t 63) (.opnd .l 1)) ∧
    decode 0x64860A3E = .ok (.fmul .bf16 .rne false true (.opnd .r 5) (.reg 62)) ∧
    decode 0x6718FE43 = .ok (.fma .f16 .rtz true false .none (.port 3)) ∧
    decode 0x680903BF = .ok (.fmin .f32 true false (.opnd .l 1) (.opnd .t 63)) ∧
    decode 0x6A847D05 = .ok (.fmax .bf16 false true (.reg 62) (.opnd .r 5)) ∧
    decode 0x6D40867F = .ok (.fcmp .f16 .gt (.port 3) .none) ∧
    decode 0x6E8106F0 = .ok (.fcvt (.opnd .l 1) false .dyn .z64 .f32) ∧
    decode 0x703E0000 = .ok (.fsfuRcp (.reg 62)) ∧
    decode 0x70430001 = .ok (.fsfuRsq (.port 3)) ∧
    decode 0x71BF0002 = .ok (.fsfuSqrt (.opnd .t 63)) ∧
    decode 0x71050003 = .ok (.fsfuExp2 (.opnd .r 5)) ∧
    decode 0x707F0004 = .ok (.fsfuLog2 .none) ∧
    decode 0x70810005 = .ok (.fsfuTanh (.opnd .l 1)) := by
  refine ⟨?_, ?_, ?_, ?_, ?_, ?_, ?_, ?_, ?_, ?_, ?_, ?_, ?_, ?_⟩ <;> rfl

/-- Row 0x30 of the opcode map. -/
theorem test_words_row3_1 :
    decode 0x703E0006 = .ok (.fsfuSigm (.reg 62)) ∧
    decode 0x70430007 = .ok (.fsfuSinp (.port 3)) ∧
    decode 0x71BF0008 = .ok (.fsfuCosp (.opnd .t 63)) ∧
    decode 0x72807D05 = .ok (.fclass .bf16 (.reg 62) (.opnd .r 5)) ∧
    decode 0x747F0003 = .ok (.qscale .none .f32 .e2m3) ∧
    decode 0x763B7E81 = .ok (.qcvt .f32 .rup true (.opnd .t 63) (.opnd .l 1)) ∧
    decode 0x78C20A3E = .ok (.qdeq .bf16 .rna false (.opnd .r 5) (.reg 62)) ∧
    decode 0x7B00FE43 = .ok (.fsgnAbs .f16 .none (.port 3)) ∧
    decode 0x7A0503BF = .ok (.fsgnNeg .f32 (.opnd .l 1) (.opnd .t 63)) ∧
    decode 0x7A887D05 = .ok (.fsgnCopysign .bf16 (.reg 62) (.opnd .r 5)) := by
  refine ⟨?_, ?_, ?_, ?_, ?_, ?_, ?_, ?_, ?_, ?_⟩ <;> rfl

/-- Row 0x40 of the opcode map. -/
theorem test_words_row4_0 :
    decode 0x80A8867F = .ok (.ldl .gathering true .z16 (.port 3) .none) ∧
    decode 0x830F7E81 = .ok (.stl .device false .s16 (.opnd .t 63) (.opnd .l 1)) ∧
    decode 0x85B20A3E = .ok (.ldg .system true .z32 (.opnd .r 5) (.reg 62)) ∧
    decode 0x8614FE43 = .ok (.stg .leaf false .s32 .none (.port 3)) ∧
    decode 0x88C103BF = .ok (.atomlAdd .gathering .rel (.opnd .l 1) (.opnd .t 63)) ∧
    decode 0x89647D05 = .ok (.atomlAnd .device .ar (.reg 62) (.opnd .r 5)) ∧
    decode 0x8988867F = .ok (.atomlOr .system .rlx (.port 3) .none) ∧
    decode 0x882F7E81 = .ok (.atomlXor .leaf .acq (.opnd .t 63) (.opnd .l 1)) ∧
    decode 0x88D20A3E = .ok (.atomlXchg .gathering .rel (.opnd .r 5) (.reg 62)) ∧
    decode 0x8974FE43 = .ok (.atomlSmin .device .ar .none (.port 3)) ∧
    decode 0x899903BF = .ok (.atomlSmax .system .rlx (.opnd .l 1) (.opnd .t 63)) ∧
    decode 0x883C7D05 = .ok (.atomlFadd .leaf .acq (.reg 62) (.opnd .r 5)) ∧
    decode 0x8AC0867F = .ok (.atomgAdd .gathering .rel (.port 3) .none) ∧
    decode 0x8B677E81 = .ok (.atomgAnd .device .ar (.opnd .t 63) (.opnd .l 1)) := by
  refine ⟨?_, ?_, ?_, ?_, ?_, ?_, ?_, ?_, ?_, ?_, ?_, ?_, ?_, ?_⟩ <;> rfl

/-- Row 0x40 of the opcode map. -/
theorem test_words_row4_1 :
    decode 0x8B8A0A3E = .ok (.atomgOr .system .rlx (.opnd .r 5) (.reg 62)) ∧
    decode 0x8A2CFE43 = .ok (.atomgXor .leaf .acq .none (.port 3)) ∧
    decode 0x8AD103BF = .ok (.atomgXchg .gathering .rel (.opnd .l 1) (.opnd .t 63)) ∧
    decode 0x8B747D05 = .ok (.atomgSmin .device .ar (.reg 62) (.opnd .r 5)) ∧
    decode 0x8B98867F = .ok (.atomgSmax .system .rlx (.port 3) .none) ∧
    decode 0x8A3F7E81 = .ok (.atomgFadd .leaf .acq (.opnd .t 63) (.opnd .l 1)) ∧
    decode 0x8CD20A3E = .ok (.casl .gathering .rel .z32 (.opnd .r 5) (.reg 62)) ∧
    decode 0x8F74FE43 = .ok (.casg .device .ar .s32 .none (.port 3)) ∧
    decode 0x91BF0011 = .ok (.fenceAcq (.opnd .t 63) true .gathering) ∧
    decode 0x91050006 = .ok (.fenceRel (.opnd .r 5) false .device) ∧
    decode 0x907F001B = .ok (.fenceAr .none true .system) ∧
    decode 0x9081001F = .ok (.fenceXp (.opnd .l 1) .system) ∧
    decode 0x927A0A3E = .ok (.waitaLeaf .ltu .w64 (.opnd .r 5) (.reg 62)) ∧
    decode 0x9280FE43 = .ok (.waitaRound .eq .z8 .none (.port 3)) := by
  refine ⟨?_, ?_, ?_, ?_, ?_, ?_, ?_, ?_, ?_, ?_, ?_, ?_, ?_, ?_⟩ <;> rfl

/-- Row 0x40 of the opcode map. -/
theorem test_words_row4_2 :
    decode 0x932503BF = .ok (.waitaDev .ne .s8 (.opnd .l 1) (.opnd .t 63)) ∧
    decode 0x93C87D05 = .ok (.waitaSys .geu .z16 (.reg 62) (.opnd .r 5)) ∧
    decode 0x9400867F = .ok (.mbarInit (.port 3) .none) ∧
    decode 0x94077E81 = .ok (.mbarArrive (.opnd .t 63) (.opnd .l 1)) ∧
    decode 0x940A0A3E = .ok (.mbarExpect (.opnd .r 5) (.reg 62)) ∧
    decode 0x940CFE43 = .ok (.mbarTest .none (.port 3)) ∧
    decode 0x941103BF = .ok (.mbarWait (.opnd .l 1) (.opnd .t 63)) ∧
    decode 0x96007D05 = .ok (.cpLd (.reg 62) (.opnd .r 5)) ∧
    decode 0x9604867F = .ok (.cpSt (.port 3) .none) ∧
    decode 0x960B7E81 = .ok (.cpSend (.opnd .t 63) (.opnd .l 1)) ∧
    decode 0x960E0A3E = .ok (.cpMc (.opnd .r 5) (.reg 62)) ∧
    decode 0x9610FE43 = .ok (.cpFib .none (.port 3)) ∧
    decode 0x980103BF = .ok (.flag (.opnd .l 1) (.opnd .t 63)) ∧
    decode 0x9A007D05 = .ok (.kvopMass (.reg 62) (.opnd .r 5)) := by
  refine ⟨?_, ?_, ?_, ?_, ?_, ?_, ?_, ?_, ?_, ?_, ?_, ?_, ?_, ?_⟩ <;> rfl

/-- Row 0x40 of the opcode map. -/
theorem test_words_row4_3 :
    decode 0x9A04867F = .ok (.kvopEvict (.port 3) .none) ∧
    decode 0x9A0B7E81 = .ok (.kvopStat (.opnd .t 63) (.opnd .l 1)) := by
  refine ⟨?_, ?_⟩ <;> rfl

/-- Row 0x50 of the opcode map. -/
theorem test_words_row5_0 :
    decode 0xA0060A3E = .ok (.flcfg .f1 (.opnd .r 5) (.reg 62)) ∧
    decode 0xA200FE43 = .ok (.flgo .f0 .none (.port 3)) ∧
    decode 0xA40503BF = .ok (.flstat .f1 (.opnd .l 1) (.opnd .t 63)) ∧
    decode 0xA6007D05 = .ok (.flstop .f0 (.reg 62) (.opnd .r 5)) ∧
    decode 0xA81C867F = .ok (.spush .data 7 (.port 3) .none) ∧
    decode 0xAA377E81 = .ok (.spop true 5 (.opnd .t 63) (.opnd .l 1)) ∧
    decode 0xAC2A0A3E = .ok (.sctlStatus (.out 2) (.opnd .r 5) (.reg 62)) ∧
    decode 0xAC54FE43 = .ok (.sctlDrain (.inp 5) .none (.port 3)) ∧
    decode 0xACA903BF = .ok (.sctlReset (.out 2) (.opnd .l 1) (.opnd .t 63)) ∧
    decode 0xAE007D05 = .ok (.sbar (.reg 62) (.opnd .r 5)) ∧
    decode 0xB028867F = .ok (.rtset (.out 2) (.port 3) .none) ∧
    decode 0xB2037E81 = .ok (.kettle (.opnd .t 63) (.opnd .l 1)) := by
  refine ⟨?_, ?_, ?_, ?_, ?_, ?_, ?_, ?_, ?_, ?_, ?_, ?_⟩ <;> rfl

/-- Row 0x60 of the opcode map. -/
theorem test_words_row6_0 :
    decode 0xC0020A3E = .ok (.vpcfg (.opnd .r 5) (.reg 62)) ∧
    decode 0xC200FE43 = .ok (.vpgo .none (.port 3)) ∧
    decode 0xC40103BF = .ok (.vpstat (.opnd .l 1) (.opnd .t 63)) ∧
    decode 0xC6107D05 = .ok (.vpconst 4 (.reg 62) (.opnd .r 5)) ∧
    decode 0xC800867F = .ok (.tldLa (.port 3) .none) ∧
    decode 0xC8077E81 = .ok (.tldDev (.opnd .t 63) (.opnd .l 1)) ∧
    decode 0xCA020A3E = .ok (.tturn (.opnd .r 5) (.reg 62)) ∧
    decode 0xCA34FE43 = .ok (.tturnEmit 5 .none (.port 3)) ∧
    decode 0xCC0103BF = .ok (.tstLa (.opnd .l 1) (.opnd .t 63)) ∧
    decode 0xCC047D05 = .ok (.tstDev (.reg 62) (.opnd .r 5)) ∧
    decode 0xCE00867F = .ok (.mxcmd (.port 3) .none) ∧
    decode 0xD0037E81 = .ok (.mxwait (.opnd .t 63) (.opnd .l 1)) ∧
    decode 0xD2020A3E = .ok (.accopZero (.opnd .r 5) (.reg 62)) ∧
    decode 0xD204FE43 = .ok (.accopCopy .none (.port 3)) := by
  refine ⟨?_, ?_, ?_, ?_, ?_, ?_, ?_, ?_, ?_, ?_, ?_, ?_, ?_, ?_⟩ <;> rfl

/-- Row 0x70 of the opcode map. -/
theorem test_words_row7_0 :
    decode 0xE00103BF = .ok (.tlbinvPage (.opnd .l 1) (.opnd .t 63)) ∧
    decode 0xE0047D05 = .ok (.tlbinvCtx (.reg 62) (.opnd .r 5)) ∧
    decode 0xE008867F = .ok (.tlbinvAll (.port 3) .none) ∧
    decode 0xE2037E81 = .ok (.apset (.opnd .t 63) (.opnd .l 1)) ∧
    decode 0xE4020A3E = .ok (.ctxsv (.opnd .r 5) (.reg 62)) ∧
    decode 0xE600FE43 = .ok (.imgw .none (.port 3)) ∧
    decode 0xE80103BF = .ok (.imgcmt (.opnd .l 1) (.opnd .t 63)) ∧
    decode 0xEA00FE7F = .ok (.eret) ∧
    decode 0xEC00867F = .ok (.wfi (.port 3) .none) ∧
    decode 0xF0037E81 = .ok (.pgset (.opnd .t 63) (.opnd .l 1)) ∧
    decode 0xF2020A3E = .ok (.elogrd (.opnd .r 5) (.reg 62)) := by
  refine ⟨?_, ?_, ?_, ?_, ?_, ?_, ?_, ?_, ?_, ?_, ?_⟩ <;> rfl



/-! ### Ill-formed terms that the checks refuse -/

/-- Deadline 0 (R144); `SYSRD` of an unassigned index and `SYSWR` of a read-only one (R88, R377). -/
theorem test_wf_control :
    (Instr.rnd 0).wf = false ∧ (Instr.rnd 1).wf = true ∧ (Instr.sysrd .none 0x009).wf = false ∧
    (Instr.sysrd .none 0x008).wf = true ∧ (Instr.syswr 0x000).wf = false ∧ (Instr.syswr 0x010).wf = true := by decide

/-- Events name units that the part has: leaves 0 to 65,535, strands of them, quires 0 to 4,095 (R1). -/
theorem test_wf_units :
    (Instr.tileSwap 65536).wf = false ∧ (Instr.tileSwap 65535).wf = true ∧ (Instr.mxCommandStart 4096).wf = false ∧
    (Instr.mxCommandStart 4095).wf = true := by decide

/-! ### Single steps, worked out by hand from the manual -/

/-- The pending register writes of the block of strand 0 of leaf 0. -/
def wrote (o : Host.Outcome State Fault Refusal) : Option (List (Nat × Word)) :=
  match o with
  | .next t => (t.strand wordCore).block.map fun b => b.regs
  | _ => none

/-- R140: `MOVI` sign-extends; `MOVHI` shifts L up by 16 and enters the immediate below. -/
theorem test_movi_sign : wrote (exec (.movi (.reg 62) 0xfffd) (stand 0x043EFFFD)) = some [(62, 0xFFFF_FFFF_FFFF_FFFD)] := by decide
theorem test_movhi_low :
    wrote (exec (.movhi (.reg 1) 0x8001) (stand 0x06018001 0x0001_0002_0003_0004)) = some [(1, 0x0002_0003_0004_8001)] := by decide
/-- R149, row 0x10: `SUB` at width 8, signed, wraps and sign-extends: 0x80 − 1 = 0x7F. -/
theorem test_sub_wraps :
    wrote (exec (.sub .w8 true false .none (.reg 1)) (stand 0x23C0FE01 0x80 1)) = some [(1, 0x7F)] := by decide
/-- R109, R149: division by 0 gives all ones at the width; the remainder is the dividend. -/
theorem test_div_zero :
    wrote (exec (.div .w16 false .none (.reg 1)) (stand 0x2900FE01 5 0)) = some [(1, 0xFFFF)] := by decide
theorem test_rem_zero :
    wrote (exec (.rem .w16 false .none (.reg 1)) (stand 0x2B00FE01 5 0)) = some [(1, 5)] := by decide
/-- R149: a shift count is taken modulo the width: a shift by 33 at width 32 is a shift by 1. -/
theorem test_shl_count :
    wrote (exec (.shl .w32 false .none (.reg 1)) (stand 0x3480FE01 0x8000_0001 33)) = some [(1, 2)] := by decide
/-- R155: the carry goes to `TB`. -/
theorem test_adc_carry :
    wrote (exec (.adc .w8 (.reg 2) (.reg 1)) (stand 0x5B800401 0xFF 0x00)) = some [(1, 0), (2, 1)] := by decide
/-- R157: 1.5 + 2.25 = 3.75 in F32. -/
theorem test_fadd_f32 :
    wrote (exec (.fadd .f32 .rne false false .none (.reg 1)) (stand 0x6000FE01 0x3FC00000 0x40100000)) =
      some [(1, 0x40700000)] := by decide

theorem witness_MovesDeliver :
    fires (stand 0x030B7E81) (.rd 33 (.opnd .t 63) (.opnd .l 1)) ∧
    fires (stand 0x043EFFFD) (.movi (.reg 62) 0xfffd) ∧
    fires (stand 0x06438001) (.movhi (.port 3) 0x8001) ∧
    fires (stand 0x080103BF) (.mov (.opnd .l 1) (.opnd .t 63)) ∧
    fires (stand 0x1E0103BF) (.null (.opnd .l 1) (.opnd .t 63)) ∧
    fires (stand 0x18810010) (.sysrd (.opnd .l 1) 0x010) := by
  refine ⟨?_, ?_, ?_, ?_, ?_, ?_⟩ <;> decide

/-- G33 of strand 0 in a line that is not poisoned, and in one that is. -/
theorem witness_MovesDeliver_sick :
    regSick (stand 0x030B7E81) wordCore 33 = none ∧
    (let s := (stand 0x030B7E81).modLeaf 0 fun l => { l with poison := [physOf l (regAddr 0 33) / 64] }
     fires s (.rd 33 (.opnd .t 63) (.opnd .l 1)) ∧ regSick s wordCore 33 = some (regAddr 0 33)) := by decide

/-- `SEL` with a NULL T. -/
theorem witness_IntegerOthersDeliver_null :
    let s := (stand 0x420103BF).modSlot wordCore 0 fun x => { x with t := { targeted := true } }
    s.here.instr = some (.sel (.opnd .l 1) (.opnd .t 63)) ∧ ready s s.me s.focus.slot = true ∧ s.here.t.isNull = true ∧
      encode (.sel (.opnd .l 1) (.opnd .t 63)) = some 0x420103BF := by decide

theorem witness_CommitActsNoted :
    fires (stand 0x107F0FFD) (.rnd 0xffd) ∧
    fires (stand 0x147F8001) (.trap 0x8001) ∧
    fires (stand 0x167FFFFD) (.bkpt 0xfffd) ∧
    fires (stand 0x1A7F0011) (.syswr 0x011) := by
  refine ⟨?_, ?_, ?_, ?_⟩ <;> decide

theorem witness_IntegerRowDelivers_0 :
    fires (stand 0x20207D05) (.add .w64 false true (.reg 62) (.opnd .r 5)) ∧
    fires (stand 0x22C0867F) (.sub .w32 true false (.port 3) .none) ∧
    fires (stand 0x25237E81) (.mul .w16 false true (.opnd .t 63) (.opnd .l 1)) ∧
    fires (stand 0x27C20A3E) (.mulh .w8 true (.opnd .r 5) (.reg 62)) ∧
    fires (stand 0x2800FE43) (.div .w64 false .none (.port 3)) ∧
    fires (stand 0x2AC103BF) (.rem .w32 true (.opnd .l 1) (.opnd .t 63)) ∧
    fires (stand 0x2D007D05) (.and .w16 false (.reg 62) (.opnd .r 5)) ∧
    fires (stand 0x2FC0867F) (.or .w8 true (.port 3) .none) ∧
    fires (stand 0x30037E81) (.xor .w64 false (.opnd .t 63) (.opnd .l 1)) ∧
    fires (stand 0x32C20A3E) (.andn .w32 true (.opnd .r 5) (.reg 62)) ∧
    fires (stand 0x3500FE43) (.shl .w16 false .none (.port 3)) ∧
    fires (stand 0x37C103BF) (.shr .w8 true (.opnd .l 1) (.opnd .t 63)) := by
  refine ⟨?_, ?_, ?_, ?_, ?_, ?_, ?_, ?_, ?_, ?_, ?_, ?_⟩ <;> decide

theorem witness_IntegerRowDelivers_1 :
    fires (stand 0x38007D05) (.sar .w64 false (.reg 62) (.opnd .r 5)) ∧
    fires (stand 0x3AC0867F) (.rot .w32 true (.port 3) .none) ∧
    fires (stand 0x3D037E81) (.min .w16 false (.opnd .t 63) (.opnd .l 1)) ∧
    fires (stand 0x3FC20A3E) (.max .w8 true (.opnd .r 5) (.reg 62)) := by
  refine ⟨?_, ?_, ?_, ?_⟩ <;> decide

theorem witness_IntegerOthersDeliver_0 :
    fires (stand 0x4020FE43) (.cmp .w64 false .gt .none (.port 3)) ∧
    fires (stand 0x420103BF) (.sel (.opnd .l 1) (.opnd .t 63)) ∧
    fires (stand 0x45007D05) (.bitcPopc .w16 (.reg 62) (.opnd .r 5)) ∧
    fires (stand 0x4584867F) (.bitcClz .w8 (.port 3) .none) ∧
    fires (stand 0x440B7E81) (.bitcCtz .w64 (.opnd .t 63) (.opnd .l 1)) ∧
    fires (stand 0x448E0A3E) (.bitcBrev .w32 (.opnd .r 5) (.reg 62)) ∧
    fires (stand 0x4510FE43) (.bitcBswap .w16 .none (.port 3)) ∧
    fires (stand 0x47BF1F7D) (.bfx (.opnd .t 63) true 61 61) ∧
    fires (stand 0x48007D05) (.bfi (.reg 62) (.opnd .r 5)) ∧
    fires (stand 0x4A14867F) (.lea 5 (.port 3) .none) ∧
    fires (stand 0x4C818001) (.addi (.opnd .l 1) 0x8001) ∧
    fires (stand 0x4E3EFFFD) (.andi (.reg 62) 0xfffd) := by
  refine ⟨?_, ?_, ?_, ?_, ?_, ?_, ?_, ?_, ?_, ?_, ?_, ?_⟩ <;> decide

theorem witness_IntegerOthersDeliver_1 :
    fires (stand 0x50438001) (.ori (.port 3) 0x8001) ∧
    fires (stand 0x53BFFFFD) (.xori (.opnd .t 63) 0xfffd) ∧
    fires (stand 0x55050021) (.shfiShl (.opnd .r 5) 33) ∧
    fires (stand 0x547F007D) (.shfiShr .none 61) ∧
    fires (stand 0x548100A1) (.shfiSar (.opnd .l 1) 33) ∧
    fires (stand 0x543E00FD) (.shfiRot (.reg 62) 61) ∧
    fires (stand 0x56434801) (.cmpi (.port 3) false .gt 0x801) ∧
    fires (stand 0x59BFFFFD) (.muli (.opnd .t 63) 0xfffd) ∧
    fires (stand 0x5A007D05) (.adc .w64 (.reg 62) (.opnd .r 5)) := by
  refine ⟨?_, ?_, ?_, ?_, ?_, ?_, ?_, ?_, ?_⟩ <;> decide

theorem witness_FloatsDeliver_0 :
    fires (stand 0x6154867F) (.fadd .f16 .sr false true (.port 3) .none) ∧
    fires (stand 0x626B7E81) (.fsub .f32 .dyn true false (.opnd .t 63) (.opnd .l 1)) ∧
    fires (stand 0x64860A3E) (.fmul .bf16 .rne false true (.opnd .r 5) (.reg 62)) ∧
    fires (stand 0x6718FE43) (.fma .f16 .rtz true false .none (.port 3)) ∧
    fires (stand 0x680903BF) (.fmin .f32 true false (.opnd .l 1) (.opnd .t 63)) ∧
    fires (stand 0x6A847D05) (.fmax .bf16 false true (.reg 62) (.opnd .r 5)) ∧
    fires (stand 0x6D40867F) (.fcmp .f16 .gt (.port 3) .none) ∧
    fires (stand 0x6E8106F0) (.fcvt (.opnd .l 1) false .dyn .z64 .f32) ∧
    fires (stand 0x703E0000) (.fsfuRcp (.reg 62)) ∧
    fires (stand 0x70430001) (.fsfuRsq (.port 3)) ∧
    fires (stand 0x71BF0002) (.fsfuSqrt (.opnd .t 63)) ∧
    fires (stand 0x71050003) (.fsfuExp2 (.opnd .r 5)) := by
  refine ⟨?_, ?_, ?_, ?_, ?_, ?_, ?_, ?_, ?_, ?_, ?_, ?_⟩ <;> decide

theorem witness_FloatsDeliver_1 :
    fires (stand 0x707F0004) (.fsfuLog2 .none) ∧
    fires (stand 0x70810005) (.fsfuTanh (.opnd .l 1)) ∧
    fires (stand 0x703E0006) (.fsfuSigm (.reg 62)) ∧
    fires (stand 0x70430007) (.fsfuSinp (.port 3)) ∧
    fires (stand 0x71BF0008) (.fsfuCosp (.opnd .t 63)) ∧
    fires (stand 0x72807D05) (.fclass .bf16 (.reg 62) (.opnd .r 5)) ∧
    fires (stand 0x747F0003) (.qscale .none .f32 .e2m3) ∧
    fires (stand 0x763B7E81) (.qcvt .f32 .rup true (.opnd .t 63) (.opnd .l 1)) ∧
    fires (stand 0x78C20A3E) (.qdeq .bf16 .rna false (.opnd .r 5) (.reg 62)) ∧
    fires (stand 0x7B00FE43) (.fsgnAbs .f16 .none (.port 3)) ∧
    fires (stand 0x7A0503BF) (.fsgnNeg .f32 (.opnd .l 1) (.opnd .t 63)) ∧
    fires (stand 0x7A887D05) (.fsgnCopysign .bf16 (.reg 62) (.opnd .r 5)) := by
  refine ⟨?_, ?_, ?_, ?_, ?_, ?_, ?_, ?_, ?_, ?_, ?_, ?_⟩ <;> decide



/-! ### Witnesses: states and operands that meet the premises of the statements -/

theorem witness_TransfersSettle :
    fires (stand 0x0B200001) (.br .gez 0x200001) ∧
    (fires (stand 0x0C3FFFFD) (.call .always 0x3FFFFD) ∧ condHolds .always (stand 0x0C3FFFFD).opL = true) ∧
    (fires (stand 0x0C7FFFFD) (.call .nz 0x3FFFFD) ∧ condHolds .nz (stand 0x0C7FFFFD).opL = false) ∧
    fires (stand 0x0E00FE7F) .brr ∧ fires (stand 0x1200FE7F) .exit ∧ fires (stand 0x1204FE7F) .tdone := by
  refine ⟨?_, ⟨?_, ?_⟩, ⟨?_, ?_⟩, ?_, ?_, ?_⟩ <;> decide

theorem witness_CommitActsNoted_block :
    ((stand 0x107F0FFD).strand wordCore).block.map (fun b => (b.rnd, b.sys)) = some (none, []) := by decide

/-- At the last bytes of a leaf and of a control core's local memory. -/
theorem witness_LeafLoadStore :
    (fires (stand 0x80A8867F 0x3FFFE) (.ldl .gathering true .z16 (.port 3) .none) ∧
      mayAccess (stand 0x80A8867F 0x3FFFE) 0x3FFFE 2 accLoad false false) ∧
    (fires (standCore 0x80A8867F 0x7FFFE) (.ldl .gathering true .z16 (.port 3) .none) ∧
      mayAccess (standCore 0x80A8867F 0x7FFFE) 0x7FFFE 2 accLoad false false) ∧
    (fires (stand 0x830F7E81 0x3FFFE) (.stl .device false .s16 (.opnd .t 63) (.opnd .l 1)) ∧
      mayAccess (stand 0x830F7E81 0x3FFFE) 0x3FFFE 2 accStore false false ∧
      (padWrite (stand 0x830F7E81 0x3FFFE) wordCore 0x3FFFE (bytesOf 2 0)).isSome = true) := by
  unfold mayAccess mayPad; decide

theorem witness_LeafAtomics :
    (fires (stand 0x88C103BF 0x3FFF8) (.atomlAdd .gathering .rel (.opnd .l 1) (.opnd .t 63)) ∧
      mayAccess (stand 0x88C103BF 0x3FFF8) 0x3FFF8 8 accAtomic true false ∧
      (padWrite (stand 0x88C103BF 0x3FFF8) wordCore 0x3FFF8 (bytesOf 8 0)).isSome = true) ∧
    fires (stand 0x89647D05) (.atomlAnd .device .ar (.reg 62) (.opnd .r 5)) ∧
    fires (stand 0x8988867F) (.atomlOr .system .rlx (.port 3) .none) ∧
    fires (stand 0x882F7E81) (.atomlXor .leaf .acq (.opnd .t 63) (.opnd .l 1)) ∧
    fires (stand 0x88D20A3E) (.atomlXchg .gathering .rel (.opnd .r 5) (.reg 62)) ∧
    (fires (stand 0x8974FE43) (.atomlSmin .device .ar .none (.port 3)) ∧
      mayAccess (stand 0x8974FE43) 0 8 accAtomic true true) ∧
    fires (stand 0x899903BF) (.atomlSmax .system .rlx (.opnd .l 1) (.opnd .t 63)) ∧
    (fires (stand 0x883C7D05 0x3FFFC) (.atomlFadd .leaf .acq (.reg 62) (.opnd .r 5)) ∧
      mayAccess (stand 0x883C7D05 0x3FFFC) 0x3FFFC 4 accAtomic false false) := by
  unfold mayAccess mayPad; decide

/-- The compared bytes equal, and not. -/
theorem witness_LeafAtomics_casl :
    (fires (stand 0x8CD20A3E 0x3FFFC 1) (.casl .gathering .rel .z32 (.opnd .r 5) (.reg 62)) ∧
      mayAccess (stand 0x8CD20A3E 0x3FFFC 1) 0x3FFFC 4 accAtomic true false ∧
      natOfBytes (padRead (stand 0x8CD20A3E 0x3FFFC 1) wordCore 0x3FFFC 4) ≠ 1) ∧
    (natOfBytes (padRead (stand 0x8CD20A3E 0x3FFFC 0) wordCore 0x3FFFC 4) = 0 ∧
      (padWrite (stand 0x8CD20A3E 0x3FFFC 0) wordCore 0x3FFFC (bytesOf 4 1)).isSome = true) := by
  unfold mayAccess mayPad; decide

/-- At the last address of the device address space. -/
theorem witness_DeviceRequestsLeave :
    let a : Word := 0xF_FFFF_FFFF_FFF8
    (fires (stand 0x85B20A3E a) (.ldg .system true .z32 (.opnd .r 5) (.reg 62)) ∧ mayRequest (stand 0x85B20A3E a) a.toNat 4 false .system) ∧
    (fires (stand 0x8614FE43 a) (.stg .leaf false .s32 .none (.port 3)) ∧ mayRequest (stand 0x8614FE43 a) a.toNat 4 false .leaf) ∧
    (fires (stand 0x8AC0867F a) (.atomgAdd .gathering .rel (.port 3) .none) ∧ mayRequest (stand 0x8AC0867F a) a.toNat 8 true .gathering) ∧
    fires (stand 0x8B677E81 a) (.atomgAnd .device .ar (.opnd .t 63) (.opnd .l 1)) ∧
    fires (stand 0x8B8A0A3E a) (.atomgOr .system .rlx (.opnd .r 5) (.reg 62)) ∧
    fires (stand 0x8A2CFE43 a) (.atomgXor .leaf .acq .none (.port 3)) ∧
    fires (stand 0x8AD103BF a) (.atomgXchg .gathering .rel (.opnd .l 1) (.opnd .t 63)) ∧
    fires (stand 0x8B747D05 a) (.atomgSmin .device .ar (.reg 62) (.opnd .r 5)) ∧
    fires (stand 0x8B98867F a) (.atomgSmax .system .rlx (.port 3) .none) ∧
    fires (stand 0x8A3F7E81 a) (.atomgFadd .leaf .acq (.opnd .t 63) (.opnd .l 1)) ∧
    (fires (stand 0x8F74FE43 a) (.casg .device .ar .s32 .none (.port 3)) ∧ mayRequest (stand 0x8F74FE43 a) a.toNat 4 true .device) ∧
    (fires (stand 0x932503BF a) (.waitaDev .ne .s8 (.opnd .l 1) (.opnd .t 63)) ∧ mayRequest (stand 0x932503BF a) a.toNat 1 false .device) ∧
    (fires (stand 0x93C87D05 a) (.waitaSys .geu .z16 (.reg 62) (.opnd .r 5)) ∧ mayRequest (stand 0x93C87D05 a) a.toNat 2 false .system) := by
  unfold mayRequest; decide

theorem witness_FencesComplete :
    (let s := stand 0x91BF0011
     fires s (.fenceAcq (.opnd .t 63) true .gathering) ∧ loadPending s s.me = false ∧ kettlePending s s.me = false ∧
      (true && storePending s s.me) = false) ∧
    (let s := stand 0x91050006
     fires s (.fenceRel (.opnd .r 5) false .device) ∧ (scopeWide .device && !irrevocable s s.me) = false ∧
      releasePending s s.me true = false ∧ (false && storePending s s.me) = false ∧ (true && putsWaiting s s.me) = false) ∧
    (let s := stand 0x907F001B
     fires s (.fenceAr .none true .system) ∧ (scopeWide .system && !irrevocable s s.me) = false ∧
      releasePending s s.me true = false ∧ loadPending s s.me = false ∧ kettlePending s s.me = false ∧
      (true && storePending s s.me) = false ∧ (true && putsWaiting s s.me) = false) ∧
    (let s := stand 0x9081001F
     fires s (.fenceXp (.opnd .l 1) .system) ∧ storePending s s.me = false) := by decide

theorem witness_LeafWaits :
    (fires (stand 0x927A0A3E 0x3FFF8 1) (.waitaLeaf .ltu .w64 (.opnd .r 5) (.reg 62)) ∧
      mayAccess (stand 0x927A0A3E 0x3FFF8 1) 0x3FFF8 8 accLoad false false ∧
      waitHolds WaitCond.ltu.code (waitValue (stand 0x927A0A3E 0x3FFF8 1) wordCore 0x3FFF8 .w64) 1 = true) ∧
    waitHolds WaitCond.ltu.code (waitValue (stand 0x927A0A3E 0x3FFF8 0) wordCore 0x3FFF8 .w64) 0 = false ∧
    (fires (stand 0x9280FE43 0x3FFFF 0) (.waitaRound .eq .z8 .none (.port 3)) ∧
      mayAccess (stand 0x9280FE43 0x3FFFF 0) 0x3FFFF 1 accLoad false false ∧
      waitHolds WaitCond.eq.code (waitValue (stand 0x9280FE43 0x3FFFF 0) wordCore 0x3FFFF .z8) 0 = true) ∧
    waitHolds WaitCond.eq.code (waitValue (stand 0x9280FE43 0x3FFFF 1) wordCore 0x3FFFF .z8) 1 = false := by
  unfold mayAccess mayPad; decide

/-- A leaf with 4 KiB of KEEP, and an object that 2 arrivals and no bytes complete in its last line. -/
def standKeep (w : Word32) (l r : Word) (o : Mbar) : State :=
  (stand w l r 0x400).modLeaf 0 fun x => { x with mem := x.mem.write l.toNat o.bytes }

/-- The premises of a barrier instruction, and that its write has room. -/
def meets (s : State) (x : Instr) (ok rel : Bool) (bs : List Byte) : Prop :=
  fires s x ∧ mayMbar s 0x57C0 ok rel ∧ (padWrite s s.me 0x57C0 bs).isSome = true

theorem witness_BarriersComplete :
    let o : Mbar := ⟨2, 2, 0, 0⟩
    (let s := standKeep 0x9400867F 0x57C0 0x7FFF_FFFF o
     meets s (.mbarInit (.port 3) .none) (decide (1 ≤ 0x7FFF_FFFF) && decide (0x7FFF_FFFF < 2 ^ 31)) false (Mbar.init 0x7FFF_FFFF).bytes) ∧
    (let s := standKeep 0x94077E81 0x57C0 2 o
     meets s (.mbarArrive (.opnd .t 63) (.opnd .l 1)) (decide (1 ≤ 2) && decide (2 ≤ (mbarAt s s.me 0x57C0).pend)) true
       (Mbar.arrive 2 (mbarAt s s.me 0x57C0)).bytes) ∧
    (let s := standKeep 0x940A0A3E 0x57C0 1 o
     meets s (.mbarExpect (.opnd .r 5) (.reg 62)) (decide (1 ≤ 1) && decide (1 < 2 ^ 31)) false
       (Mbar.expect 1 (mbarAt s s.me 0x57C0)).bytes) ∧
    (let s := standKeep 0x940CFE43 0x57C0 0 o
     meets s (.mbarTest .none (.port 3)) (decide (0 < 2 ^ 32)) false []) ∧
    (let s := standKeep 0x941103BF 0x57C0 0xFFFF_FFFF o
     meets s (.mbarWait (.opnd .l 1) (.opnd .t 63)) (decide (0xFFFF_FFFF < 2 ^ 32)) false [] ∧
      (mbarAt s s.me 0x57C0).isDone 0xFFFF_FFFF = true) := by
  unfold meets mayMbar mayAccess mayPad; refine ⟨?_, ?_, ?_, ?_, ?_⟩ <;> decide

/-- An object of 2 arrivals: one arrival leaves one, two complete it, and bytes are expected. -/
theorem witness_BarrierObject :
    let o : Mbar := ⟨2, 2, 0, 0⟩
    o.pend < 2 ^ 32 ∧ o.tx < 2 ^ 32 ∧ (1 ≤ o.pend ∧ ¬ (1 = o.pend ∧ o.tx = 0)) ∧ (2 = o.pend ∧ o.tx = 0) ∧
    ¬ (o.pend = 0 ∧ (o.tx + 1) % 2 ^ 32 = 0) ∧
    (let o : Mbar := ⟨0, 2, 2 ^ 32 - 1, 2 ^ 32 - 1⟩
     o.pend = 0 ∧ (o.tx + 1) % 2 ^ 32 = 0 ∧ Mbar.expect 1 o = ⟨2, 2, 0, 0⟩) := by decide

theorem witness_KettleSpawn :
    (stand 0xB2037E81 63).gathOf wordCore = some 0 ∧ ((stand 0xB2037E81 63).gath 0).isSome = true ∧
    (fires (stand 0xB2037E81 63) (.kettle (.opnd .t 63) (.opnd .l 1)) ∧ earlierPending (stand 0xB2037E81 63) wordCore = false ∧
      kettlePending (stand 0xB2037E81 63) wordCore = false) ∧
    (fires (stand 0x1C00FE43 0xFFFF0FFF) (.spawn .none (.port 3)) ∧ bits 0xFFFF0FFF 15 12 = 0 ∧
      ((stand 0x1C00FE43 0xFFFF0FFF).gath 0).map (fun x => decide (x.spawns.length < Config.spawnLimit)) = some true) := by decide


/-- 32 bytes of a record at scratchpad address 0x6000, which the operand L names. -/
def standRec (w : Word32) (bs : List Byte) : State :=
  (stand w 0x6000).modLeaf 0 fun x => { x with mem := x.mem.write 0x6000 bs }

/-- The copy record of Table 7 of R190: 64 bytes between device address 0x1000 and LA 0x7000, or between LAs. -/
def copyBytes (src dst len sel : Nat) : List Byte := bytesOf 8 src ++ bytesOf 8 dst ++ bytesOf 3 len ++ bytesOf 1 sel ++ zeros 12

/-- A record whose premises common to all copies hold. -/
def copyMeets (s : State) (r : Nat × Nat × Nat × Nat × Nat × Nat) : Prop :=
  mayAccess s s.opL.toNat 32 accLoad false false ∧ copyRecord (padRead s s.me s.opL.toNat 32) = r ∧
  copyFields r.2.2.1 r.2.2.2.2.2 = true ∧ mbarOk s s.me r.2.2.2.2.2 = true

theorem witness_CopiesAccepted_device :
    (let s := standRec 0x96007D05 (copyBytes 0xF_FFFF_FFFF_FFC0 0x3FFC0 64 0x80)
     copyMeets s (0xF_FFFF_FFFF_FFC0, 0x3FFC0, 64, 0x80, 0, 0) ∧ fires s (.cpLd (.reg 62) (.opnd .r 5)) ∧
      padRefused s s.me 0x3FFC0 64 = none) ∧
    (let s := standRec 0x9604867F (copyBytes 0x3FFC0 0xF_FFFF_FFFF_FFC0 64 0)
     copyMeets s (0x3FFC0, 0xF_FFFF_FFFF_FFC0, 64, 0, 0, 0) ∧ fires s (.cpSt (.port 3) .none) ∧
      padRefused s s.me 0x3FFC0 64 = none) := by
  unfold copyMeets mayAccess; dsimp only; (repeat' apply And.intro) <;> decide

/-- A send within the leaf's gathering, to leaf (1, 0). -/
theorem witness_CopiesAccepted_send :
    let s := (standRec 0x960B7E81 (copyBytes 0x7000 (2 ^ 18 + 0x7000) 64 0xFF)).modLeaf 1 fun x => { x with gath := some 0 }
    copyMeets s (0x7000, 2 ^ 18 + 0x7000, 64, 0xFF, 0, 0) ∧ fires s (.cpSend (.opnd .t 63) (.opnd .l 1)) ∧
      sendOverlaps s.me 0x7000 (2 ^ 18 + 0x7000) 64 0xFF = false ∧ padRefused s s.me 0x7000 64 = none ∧
      bits (2 ^ 18 + 0x7000) 41 34 = s.pkg ∧ sendRefused s s.me (2 ^ 18 + 0x7000) 64 0xFF = none ∧ irrevocable s s.me = true := by
  unfold copyMeets mayAccess; dsimp only; (repeat' apply And.intro) <;> decide

/-- A channel of CTX0 at index 3 to package 5, sender entry 7. -/
def withChannel (s : State) : State :=
  { s.modContext 0 fun k => { k with channels := [(3, 2 ^ 28 + 5 * 2 ^ 20 + 7)] } with
    senders := [(7, { ctx := 0, index := 3, dst := 5 })] }

/-- A send from KEEP to another package. -/
theorem witness_CopiesAccepted_away :
    let s := withChannel ((standRec 0x960B7E81 (copyBytes 0x4800 (5 * 2 ^ 34 + 0x3FFC0) 64 3)).modLeaf 0 fun x =>
      { x with partw := 0x400 })
    copyMeets s (0x4800, 5 * 2 ^ 34 + 0x3FFC0, 64, 3, 0, 0) ∧ fires s (.cpSend (.opnd .t 63) (.opnd .l 1)) ∧
      chValid (2 ^ 28 + 5 * 2 ^ 20 + 7) = true ∧
      (tget (s.context (s.ctxOf s.me)).channels 3).getD 0 = 2 ^ 28 + 5 * 2 ^ 20 + 7 ∧ padRefused s s.me 0x4800 64 = none ∧
      bits (5 * 2 ^ 34 + 0x3FFC0) 41 34 = chPkg (2 ^ 28 + 5 * 2 ^ 20 + 7) ∧ bits (5 * 2 ^ 34 + 0x3FFC0) 17 0 + 64 ≤ Config.leafBytes ∧
      keepRange (s.leaf ((coreLeaf s.me).getD 0)).partw 0x4800 64 = true ∧ irrevocable s s.me = true ∧
      (s.sender (chSender (2 ^ 28 + 5 * 2 ^ 20 + 7))).broken = false := by
  unfold copyMeets mayAccess; dsimp only; (repeat' apply And.intro) <;> decide

/-- A multicast to the first two leaves of the gathering's quire (group word: valid, leaves 0 and 1). -/
theorem witness_CopiesAccepted_multicast :
    let s := (standRec 0x960E0A3E (copyBytes 0x1000 0x3FFC0 64 0)).modGath 0 fun g =>
      { g with mcast := [2 ^ 40 + 3 * 2 ^ 24] }
    copyMeets s (0x1000, 0x3FFC0, 64, 0, 0, 0) ∧ fires s (.cpMc (.opnd .r 5) (.reg 62)) ∧
      (((s.gathOf s.me).bind s.gath).bind fun g => groupLeaves g (g.mcast.getD 0 0)) = some [0, 1] ∧
      (∀ n ∈ [0, 1], laRefused (s.leaf n).partw 0x3FFC0 64 true = none) := by
  unfold copyMeets mayAccess; dsimp only; (repeat' apply And.intro) <;> decide

/-- A fibre refill: pos pair at 0xFFFFC, a ring of 64 bytes at 0x7000, a descriptor at 0x3FFF0. -/
theorem witness_CopiesAccepted_fibre :
    let s := standRec 0x9610FE43 (bytesOf 8 0xFFFFC ++ bytesOf 8 0x20000 ++ bytesOf 4 0x7000 ++ bytesOf 4 65535 ++ bytesOf 8 0x3FFF0)
    let bs := padRead s s.me s.opL.toNat 32
    let ring := field bs 16 4
    fires s (.cpFib .none (.port 3)) ∧ mayAccess s s.opL.toNat 32 accLoad false false ∧ field bs 0 8 < 2 ^ 52 ∧
      field bs 0 8 % 4 = 0 ∧ field bs 8 8 < 2 ^ 52 ∧ field bs 8 8 % 4 = 0 ∧ ring < 2 ^ 30 ∧ bits ring 17 0 % 64 = 0 ∧
      field bs 20 4 < 65536 ∧ bits (field bs 24 8) 51 (padBits s.me) = 0 ∧ descLa s.me (field bs 24 8) % 16 = 0 ∧
      padRefused s s.me (bits ring 17 0) (64 * (bits ring 29 18 + 1)) = none ∧
      padRefused s s.me (descLa s.me (field bs 24 8)) 16 = none ∧ mbarOk s s.me (field bs 24 8) = true := by
  unfold mayAccess; dsimp only; (repeat' apply And.intro) <;> decide

/-- A page table of CTX0 that maps VA 0 to 2^30 − 1 to the same physical addresses, read, write and execute (R271). -/
def paged (s : State) : State :=
  { s.modContext 0 fun k => { k with attrs := some { root := 0x10000 } } with
    hbm := ((s.hbm.write 0x10000 (bytesOf 8 (0x11000 * 2 ^ 16 + 1))).write 0x11000 (bytesOf 8 (0x12000 * 2 ^ 16 + 1))).write
      0x12000 (bytesOf 8 63) }

/-- The leaf entry of `paged`, as a translation for a place. -/
def leafAt (k place : Nat) : TlbEntry := { place, ctx := k, base := 0, level := 2, pte := 63, src := 0x12000 }

/-- An access of an engine, a fetch or the Spine to a VA of CTX k whose page has been walked, and n of whose parts have had their turns. -/
def walked (s : State) (u : PortUser) (k place va n : Nat) : State :=
  { s with
    misses := s.misses ++ [(va, { user := u, place, ctx := k, va, table := 0, leaf := some (leafAt k place) })]
    granted := (u, n) :: s.granted.filter fun g => g.1 != u }

/-- The slot of `stand` after it has read its record, in a phase of its work. -/
def withLatch (s : State) (bs : List Byte) (phase : Nat) (arg : Nat := 0) : State :=
  s.modSlot wordCore 0 fun x => { x with latch := bs, phase := phase, arg := arg }

theorem witness_EngineRequestsLeave_flag :
    let s := withChannel (withLatch (stand 0x980103BF) (zeros 16 ++ bytesOf 1 3 ++ zeros 15) 2)
    fires s (.flag (.opnd .l 1) (.opnd .t 63)) ∧ s.here.phase = 2 ∧ irrevocable s s.me = true ∧ (s.sender 7).broken = false ∧
      earlierPending s s.me = false ∧ ((s.sender 7).waits.any fun w => w.gath == s.gathOf s.me) = false ∧
      flagRoom (s.sender 7) = true := by decide

/-- The state that a copying or staging operation reaches, if it goes through. -/
def tried {α : Type} : Tried α → Bool
  | .done _ => true
  | _ => false

/-- Sums of 64 additions at the page metadata of VA 0x4000. -/
def massState : State :=
  walked (paged (withLatch (stand 0x9A007D05) (bytesOf 8 0x4000 ++ zeros 264) 5)) (.instr wordCore 0) 0 (placeOf wordCore 0 0x4040) 0x4040 0

theorem witness_EngineRequestsLeave_mass :
    fires massState (.kvopMass (.reg 62) (.opnd .r 5)) ∧ 5 ≤ massState.here.phase ∧
    massState.reqs.any (fun r => r.2.core == massState.me) = false ∧ devPending massState massState.me 0x4040 256 = false ∧
    (match engineTrans massState (.instr massState.me massState.focus.slot) (placeOf massState.me 0 0x4040) 0 0x4040 accAtomic false with
      | .ok (t, u) => tried (stageAll u 0 (u.gathOf u.me) (instOf u (u.gathOf u.me)) (massItems t massState.me (zeros 256)))
      | .error _ => false) = true := by decide

theorem witness_EngineRequestsLeave_others :
    (let s := withLatch (stand 0x9A04867F) (zeros 32) 2 0x4000
     fires s (.kvopEvict (.port 3) .none) ∧ s.here.phase = 2 ∧ irrevocable s s.me = true) ∧
    (let s := standRec 0x9A0B7E81 (bytesOf 8 0xF_FFFF_FFFF_FF00)
     fires s (.kvopStat (.opnd .t 63) (.opnd .l 1)) ∧ mayAccess s s.opL.toNat 8 accLoad false false ∧
      field (padRead s s.me s.opL.toNat 8) 0 8 + 0x20 < 2 ^ 52 ∧ field (padRead s s.me s.opL.toNat 8) 0 8 % 256 = 0 ∧
      acquirePending s s.me = false) ∧
    (let s := withChannel (standRec 0x980103BF (zeros 16 ++ bytesOf 1 3 ++ zeros 15))
     let bs := padRead s s.me s.opL.toNat 32
     fires s (.flag (.opnd .l 1) (.opnd .t 63)) ∧ s.here.phase = 0 ∧ mayAccess s s.opL.toNat 32 accLoad false false ∧
      field bs 0 8 = 0 ∧ field bs 17 3 = 0 ∧ field bs 24 8 = 0 ∧ field bs 16 1 ≠ 0xFF ∧
      chValid ((tget (s.context (s.ctxOf s.me)).channels (field bs 16 1)).getD 0) = true) := by
  unfold mayAccess; dsimp only; (repeat' apply And.intro) <;> decide


/-- A route word of the block core (0), F0 (1), F1 (2) or the vector pipeline (3), enabled with one slot, to a peer port of leaf (0, 0)
(R240). -/
def route (unit peer : Nat) : Word := wordOfNat (unit * 2 ^ 27 + 2 ^ 26 + 2 ^ 20 + peer * 2 ^ 16)

/-- Leaf 0 with O7 feeding its own I5 for a unit, one slot free. -/
def looped (s : State) (unit : Nat := 0) : State :=
  s.modLeaf 0 fun x => { x with
    routes := lset (lset x.routes 15 (route unit 5)) 5 (route unit 7)
    outputs := lmod x.outputs 7 fun o => { o with free := 1 } }

/-- 64 bytes at scratchpad address 0x6000 with some bytes set. -/
def record64 (f : List (Nat × Byte)) : List Byte := (upTo 64).map fun k => ((f.find? fun p => p.1 == k).map (·.2)).getD 0

/-- An `AGEN` record of one level and one element, which needs no input. -/
theorem witness_FlowUnitControl :
    (let s := standRec 0xA0060A3E (record64 [(0, 0x14), (0x19, 1), (0x20, 1)])
     fires s (.flcfg .f1 (.opnd .r 5) (.reg 62)) ∧ (s.unit s.lf .f1).run = false ∧
      mayAccess s s.opL.toNat 64 accLoad false false ∧
      recordBad (s.leaf s.lf).routes (unitCode .f1) (padRead s s.me s.opL.toNat 64) = none) ∧
    (let s := (stand 0xA200FE43).modUnit 0 .f0 fun x => { x with cfgd := true }
     fires s (.flgo .f0 .none (.port 3)) ∧ (s.unit s.lf .f0).cfgd = true) ∧
    fires (stand 0xA40503BF) (.flstat .f1 (.opnd .l 1) (.opnd .t 63)) ∧
    (let s := stand 0xA6007D05
     let r := s.modUnit 0 .f0 fun x => { x with run := true }
     let b := r.modFlow 0 .f0 fun st => { st with lane := 3 }
     let i := Instr.flstop .f0 (.reg 62) (.opnd .r 5)
     (fires s i ∧ (s.unit s.lf .f0).run = false) ∧
     (fires r i ∧ (r.unit r.lf .f0).run = true ∧ unitBusy r r.lf .f0 = false) ∧
     fires b i ∧ (b.unit b.lf .f0).run = true ∧ unitBusy b b.lf .f0 = true) := by
  unfold mayAccess; dsimp only; (repeat' apply And.intro) <;> decide

/-- A data token and a STOP of level 6 through O7. -/
theorem witness_PushAndBarrier_push :
    (let s := looped (stand 0xA81C867F 0x6000 0xFFFF)
     let q := queueSend s s.me s.focus.slot 7
     fires s (.spush .data 7 (.port 3) .none) ∧ coreBound s s.lf 15 = true ∧ pushOk .data s.opR = true ∧
      s.opL.toNat % 64 = 0 ∧ s.opL.toNat < (if coreIsControl s.me then Config.localBytes else Config.leafBytes) ∧
      mayAccess q s.opL.toNat 64 accLoad false false ∧ nextSend q s.lf 7 = some (ownSend q s.me s.focus.slot 7) ∧
      mayEnter q s.lf 7 = true) ∧
    (let s := looped (stand 0xA83C867F 0 0x60000)
     let q := queueSend s s.me s.focus.slot 7
     fires s (.spush .stop 7 (.port 3) .none) ∧ coreBound s s.lf 15 = true ∧ pushOk .stop s.opR = true ∧
      nextSend q s.lf 7 = some (ownSend q s.me s.focus.slot 7) ∧ mayEnter q s.lf 7 = true) := by
  unfold mayAccess; dsimp only; (repeat' apply And.intro) <;> decide

/-- A barrier on no port, and on O7 and I5, which owe nothing. -/
theorem witness_PushAndBarrier_barrier :
    (let s := withLatch (stand 0xAE007D05) (zeros 64) 1
     fires s (.sbar (.reg 62) (.opnd .r 5)) ∧ s.opL.toNat < 65536 ∧ s.here.phase = 1) ∧
    (let s := looped (withLatch (stand 0xAE007D05 0x8020) (zeros 128) 1)
     fires s (.sbar (.reg 62) (.opnd .r 5)) ∧ s.opL.toNat < 65536 ∧ s.here.phase = 1 ∧
      (∀ p < 8, s.opL.toNat.testBit (8 + p) = true → allRemoved s s.lf p (field s.here.latch (8 * p) 8) = true) ∧
      (∀ p < 8, s.opL.toNat.testBit p = true → inputFinished s s.lf p (field s.here.latch (64 + 8 * p) 8) = true)) := by
  dsimp only; (repeat' apply And.intro) <;> decide

/-- Leaf 0 with a DONE token at I5. -/
def fed (s : State) (n : Nat := 1) : State :=
  (looped s).modLeaf 0 fun x => { x with inputs := lmod x.inputs 5 fun q => { q with held := List.replicate n { kind := .done } } }

theorem witness_PortsServed :
    (let s := fed (stand 0xAA377E81 0x3FFC0)
     fires s (.spop true 5 (.opnd .t 63) (.opnd .l 1)) ∧ coreBound s s.lf 5 = true ∧ (headOf s s.lf 5).isSome = true ∧
      mayAccess s s.opL.toNat 64 accStore false false ∧ (padWrite s s.me s.opL.toNat (zeros 64)).isSome = true) ∧
    (let s := looped (stand 0xAA377E81 0x3FFC0)
     fires s (.spop true 5 (.opnd .t 63) (.opnd .l 1)) ∧ coreBound s s.lf 5 = true ∧ headOf s s.lf 5 = none ∧
      s.opL.toNat % 64 = 0) ∧
    (fires (stand 0xAC2A0A3E) (.sctlStatus (.out 2) (.opnd .r 5) (.reg 62)) ∧ (stand 0xAC2A0A3E).opL = 0) ∧
    (let s := fed (stand 0xAC54FE43 0) 2
     fires s (.sctlDrain (.inp 5) .none (.port 3)) ∧ s.opL.toNat < 65536 ∧
      drainCount s.opL.toNat s.here.arg ((s.leaf s.lf).inputs.getD 5 {}).held = (1, true)) ∧
    (let s := fed (stand 0xAC54FE43 2) 2
     drainCount s.opL.toNat s.here.arg ((s.leaf s.lf).inputs.getD 5 {}).held = (2, true)) ∧
    (fires (stand 0xAC94FE43) (.sctlReset (.inp 5) .none (.port 3)) ∧ (stand 0xAC94FE43).opL = 0) ∧
    (let s := stand 0xACA903BF
     fires s (.sctlReset (.out 2) (.opnd .l 1) (.opnd .t 63)) ∧ s.opL = 0 ∧ portQuiet s s.lf (.out 2) = true) ∧
    (let s := stand 0xB028867F (route 0 5)
     fires s (.rtset (.out 2) (.port 3) .none) ∧ coreLeaf s.me = some 0 ∧
      ((s.gathOf s.me).bind s.gath).map (fun g => routeBad g (s.leaf 0).routes (portNum (.out 2)) s.opL) = some none ∧
      portQuiet s 0 (.out 2) = true) := by
  unfold mayAccess; dsimp only; (repeat' apply And.intro) <;> decide

/-- A record of one stage that passes input 0 to its output. -/
theorem witness_VectorControl :
    (let s := (standRec 0xC0020A3E (record64 [(0, 8 + 5), (3, 8 + 7), (5, 1)]))
     let s := looped s 3
     fires s (.vpcfg (.opnd .r 5) (.reg 62)) ∧ (s.vp s.lf).run = false ∧ mayAccess s s.opL.toNat 64 accLoad false false ∧
      vpBad (s.leaf s.lf).routes (padRead s s.me s.opL.toNat 64) = none) ∧
    (let s := (stand 0xC200FE43).modVp 0 fun x => { x with cfgd := true }
     fires s (.vpgo .none (.port 3)) ∧ (s.vp s.lf).cfgd = true) ∧
    fires (stand 0xC40103BF) (.vpstat (.opnd .l 1) (.opnd .t 63)) ∧
    (fires (stand 0xC6107D05 0xFFFF_FFFF) (.vpconst 4 (.reg 62) (.opnd .r 5)) ∧ (stand 0xC6107D05 0xFFFF_FFFF).opL.toNat < 2 ^ 32) := by
  unfold mayAccess; dsimp only; (repeat' apply And.intro) <;> decide


theorem witness_TilesMoved :
    (let s := stand 0xC800867F 0x3F000
     acquirePending s s.me = false ∧ fires s (.tldLa (.port 3) .none) ∧ coreIsControl s.me = false ∧
      tileSource (s.leaf s.lf).partw 0x3F000 4096 = true ∧ (s.leaf s.lf).vfull = false) ∧
    (let s := stand 0xC8077E81 0xF_FFFF_FFFF_F000
     acquirePending s s.me = false ∧ fires s (.tldDev (.opnd .t 63) (.opnd .l 1)) ∧ s.opL.toNat < 2 ^ 52 ∧ s.opL.toNat % 64 = 0 ∧
      (s.leaf s.lf).vfull = false) ∧
    (let s := stand 0xCC0103BF 0x3F000
     acquirePending s s.me = false ∧ fires s (.tstLa (.opnd .l 1) (.opnd .t 63)) ∧ coreIsControl s.me = false ∧
      tileDest (s.leaf s.lf).partw 0x3F000 4096 0 4096 = true) ∧
    (let s := stand 0xCC047D05 0xF_FFFF_FFFF_F000
     acquirePending s s.me = false ∧ fires s (.tstDev (.reg 62) (.opnd .r 5)) ∧ s.opL.toNat < 2 ^ 52) := by
  dsimp only; (repeat' apply And.intro) <;> decide

theorem witness_TilesMoved_turns :
    (fires (stand 0xCA020A3E) (.tturn (.opnd .r 5) (.reg 62)) ∧ ((stand 0xCA020A3E).leaf 0).turn = none) ∧
    (fires (stand 0xCA34FE43) (.tturnEmit 5 .none (.port 3)) ∧ ((stand 0xCA34FE43).leaf 0).turn = none) := by decide

set_option maxRecDepth 8000 in
/-- Leaf 0 with one accumulator tile (ACC = 1), at 0x4800. -/
theorem witness_MatrixIssued :
    (let s := stand 0xCE00867F 0x330 0 0x40
     fires s (.mxcmd (.port 3) .none) ∧ mxBad (fun k => (s.leaf (leafIn 0 k)).partw) s.opL.toNat = none ∧
      mxQueued (s.quire 0) < Config.mxQueue ∧ mxNext s 0 (leafIndex s.lf) = leafIndex s.lf) ∧
    (let s := withLatch (stand 0xD0037E81 0 0 0x40) [] 1
     fires s (.mxwait (.opnd .t 63) (.opnd .l 1)) ∧ s.opL.toNat < 256 ∧ s.opL.toNat.testBit 3 = false ∧
      bits s.opL.toNat 2 0 < pwAcc (s.leaf (leafIn (quireOf s.lf) 0)).partw ∧ s.here.phase = 1 ∧
      notedPending s s.me s.focus.slot (leafIn (quireOf s.lf) 0) = false) ∧
    (let s := withLatch (stand 0xD2020A3E 0 0 0x40) [] 1
     fires s (.accopZero (.opnd .r 5) (.reg 62)) ∧ s.opL.toNat < pwAcc (s.leaf s.lf).partw ∧ s.here.phase = 1 ∧
      notedPending s s.me s.focus.slot s.lf = false ∧ acquirePending s s.me = false) ∧
    (let s := withLatch (stand 0xD204FE43 0 0x3C000 0x40) [] 1
     fires s (.accopCopy .none (.port 3)) ∧ s.opL.toNat < pwAcc (s.leaf s.lf).partw ∧ s.here.phase = 1 ∧
      tileDest (s.leaf s.lf).partw 0x3C000 0x4000 (tileLine (s.leaf s.lf) 0 0) 0x4000 = true ∧
      notedPending s s.me s.focus.slot s.lf = false ∧ acquirePending s s.me = false) := by
  dsimp only; (repeat' apply And.intro) <;> decide


theorem witness_FirmwareActs_invalidate :
    (let s := stand 0xE00103BF 0 15
     irrevocable s s.me = true ∧ s.here.phase = 0 ∧ fires s (.tlbinvPage (.opnd .l 1) (.opnd .t 63)) ∧ s.opR.toNat < 16 ∧
      (s.reqs.any fun r => (Inval.page 15 0).uses s r.2) = false) ∧
    (let s := stand 0xE0047D05 0 15
     fires s (.tlbinvCtx (.reg 62) (.opnd .r 5)) ∧ (s.reqs.any fun r => (Inval.ctx 15).uses s r.2) = false) ∧
    (let s := stand 0xE008867F
     fires s (.tlbinvAll (.port 3) .none) ∧ (s.reqs.any fun r => Inval.all.uses s r.2) = false) := by decide

theorem witness_FirmwareActs :
    (let s := stand 0xF0037E81 0xEE6B27FF8 0
     irrevocable s s.me = true ∧ fires s (.pgset (.opnd .t 63) (.opnd .l 1)) ∧ s.opL.toNat % 8 = 0 ∧
      isAperture s.opL.toNat = false ∧ isBacked s.opL.toNat = true ∧ acquirePending s s.me = false ∧
      releasePending s s.me true = false) ∧
    (let s := (stand 0xE2037E81 63 0x6000).modLeaf 0 fun x =>
      { x with mem := x.mem.write 0x6000 (bytesOf 8 0x8000000000 ++ bytesOf 8 0x10000 ++ zeros 16) }
     fires s (.apset (.opnd .t 63) (.opnd .l 1)) ∧ s.opL.toNat ≤ 63 ∧ s.here.latch = [] ∧ s.opR.toNat % 64 + 32 ≤ 64 ∧
      mayPad s s.opR.toNat 32 accLoad false false ∧
      apertureOk (padRead s s.me s.opR.toNat 32) = true) ∧
    (let s := stand 0xE4020A3E 4095
     fires s (.ctxsv (.opnd .r 5) (.reg 62)) ∧ s.opL.toNat < 4096 ∧ holderOf s 4095 = none ∧ holderOf s 0 = some 0) ∧
    fires (stand 0xE80103BF) (.imgcmt (.opnd .l 1) (.opnd .t 63)) := by
  unfold mayPad; dsimp only; (repeat' apply And.intro) <;> decide

set_option maxRecDepth 8000 in
/-- `ELOGRD`: its take of the log, the write of a record, and its end. -/
theorem witness_FirmwareActs_log :
    (let s := stand 0xF2020A3E 0x3FC00 0 0x400
     irrevocable s s.me = true ∧ fires s (.elogrd (.opnd .r 5) (.reg 62)) ∧ logRefused s s.me 0x3FC00 = none ∧ s.here.phase = 0 ∧
      acquirePending s s.me = false ∧ copyPending s s.me 0x3FC00 1024 = false) ∧
    (let s := withLatch (stand 0xF2020A3E 0x3FC00 0 0x400) (zeros 128) 1 1
     irrevocable s s.me = true ∧ fires s (.elogrd (.opnd .r 5) (.reg 62)) ∧ logRefused s s.me 0x3FC00 = none ∧ s.here.phase = 1 ∧
      64 * s.here.arg < s.here.latch.length ∧ (padWrite s s.me (0x3FC00 + 64) (slice s.here.latch 64 64)).isSome = true) ∧
    (let s := withLatch (stand 0xF2020A3E 0x3FC00 0 0x400) (zeros 128) 1 2
     irrevocable s s.me = true ∧ fires s (.elogrd (.opnd .r 5) (.reg 62)) ∧ logRefused s s.me 0x3FC00 = none ∧ s.here.phase = 1 ∧
      s.here.latch.length ≤ 64 * s.here.arg) := by
  dsimp only; (repeat' apply And.intro) <;> decide

/-- The record of an image of 64 bytes for slot 63 of quire 4,095, still to be read and already read. -/
theorem witness_FirmwareActs_image :
    let bs := bytesOf 8 0x4000 ++ bytesOf 4 64 ++ bytesOf 2 4095 ++ bytesOf 2 63 ++ bytesOf 4 0xFFC0 ++ zeros 12
    (let s := standRec 0xE600FE43 bs
     fires s (.imgw .none (.port 3)) ∧ irrevocable s s.me = true ∧ s.here.latch = [] ∧ s.opL.toNat % 64 + 32 ≤ 64 ∧
      mayPad s s.opL.toNat 32 accLoad false false ∧ imageOk (padRead s s.me s.opL.toNat 32) = true) ∧
    (let s := withLatch (stand 0xE600FE43) bs 0
     fires s (.imgw .none (.port 3)) ∧ irrevocable s s.me = true ∧ s.here.latch.length = 32 ∧ imageOk s.here.latch = true) := by
  unfold mayPad; dsimp only; (repeat' apply And.intro) <;> decide

set_option maxRecDepth 8000 in
/-- The check value of CRC-32C: the bytes of "123456789" give 0xE3069283. -/
theorem test_crc32c : crc32c [0x31, 0x32, 0x33, 0x34, 0x35, 0x36, 0x37, 0x38, 0x39] = 0xE3069283 := by decide

theorem witness_ImageWritten :
    crc32c (zeros 4) = field (zeros 20 ++ bytesOf 4 0x48674BC7) 20 4 ∧ crc32c (zeros 4) ≠ field (zeros 24) 20 4 := by decide

/-- The image of a mover, all of its lines read. -/
def imageCopy (bs : List Byte) : Copy :=
  { newCopy 12 0x4000 0 4 0 0 0 [] [] with claim := some ⟨wordCore, 0, 0⟩, owed := true, gath := some 0, descv := bs, got := [(0, { pa := 0x4000, bytes := (zeros 4).map some, bad := false })] }

/-- A copy of `IMGW` of the batch that stands open, and one of a batch that an `IMGCMT` has closed. -/
theorem witness_ImageWritten_batches :
    let b : Batch := { claim := ⟨wordCore, 0, 0⟩, slots := [], images := [], bad := false, upto := 4 }
    let s : State := { stand 0x1200FE7F with batches := [b] }
    (s.batches.any fun b => decide (4 < b.upto)) = false ∧ s.batches = [b] ∧ 3 < b.upto := by decide

theorem witness_ImageWritten_lands :
    let x := imageCopy (zeros 20 ++ bytesOf 4 0x48674BC7 ++ zeros 8)
    let s : State := { stand 0x1200FE7F with copies := [(3, x)] }
    x.kind = 12 ∧ x.claim = some ⟨wordCore, 0, 0⟩ ∧ x.reads = [] ∧ x.lines = [] ∧ x.owed = true ∧ doneWord x.done = 0 ∧
      tget s.copies 3 = some x ∧ copyRuns s x = true ∧ x.bytes 0 x.len = some (zeros 4) := by decide

theorem witness_HandlerInstructions :
    fires (stand 0xEC00867F) (.wfi (.port 3) .none) ∧
    (fires (standCore 0xEA00FE7F 0 0 true) .eret ∧ ((standCore 0xEA00FE7F 0 0 true).core 0).handler = true) ∧
    (fires (standCore 0xEA00FE7F) .eret ∧ ((standCore 0xEA00FE7F).core 0).handler = false) ∧
    (let s := (standCore 0xEC00867F).modCore 0 fun k => { k with irq := true }
     fires s (.wfi (.port 3) .none) ∧ (s.core 0).irq = true) ∧
    (let s := (standCore 0xEC00867F).modCore 0 fun k => { k with news := true }
     fires s (.wfi (.port 3) .none) ∧ (s.core 0).news = true) ∧
    (let s := standCore 0xEC00867F
     fires s (.wfi (.port 3) .none) ∧ (s.core 0).irq = false ∧ (s.core 0).news = false) := by decide


/-- Strand 0 of leaf 0 with no block in flight, about to fetch at 0x4000, in the page of `paged`, a block of one `EXIT`. -/
def fetching : State :=
  let s := paged (stand 0x1200FE7F)
  let s := s.modStrand wordCore fun st => { st with block := none, pc := 0x4000 }
  let s : State := { s with hbm := s.hbm.write 0x4000 (bytesOf 4 0x80000 ++ bytesOf 4 0x1200FE7F) }
  walked s (.fetch wordCore) 0 (placeOf wordCore 0 0x4000) 0x4000 1

theorem witness_BlocksFetchCommit_fetch :
    (fetching.strand wordCore).wait ≠ .stalled ∧ mayFetch fetching wordCore = true ∧ (fetching.strand wordCore).pc % 4 = 0 ∧
    (match fetchWords fetching wordCore 0x4000 with
      | .ok (some ws, u) => ws == [0x80000, 0x1200FE7F] && (decodeCheck 0x80000 [0x1200FE7F] (u.ctxOf wordCore == 0) false false
          false).isNone
      | _ => false) = true := by decide

/-- A control core in its handler: a block at local address 0 with the handler kind. -/
theorem witness_BlocksFetchCommit_handler :
    let s := ({ State.reset with focus := ⟨.control 0, 0⟩ } : State).modCore 0 fun k =>
      { k with started := true, handler := true, mem := (Memory.write [] 0 (bytesOf 4 0xC0000 ++ bytesOf 4 0xEA00FE7F)) }
    mayFetch s (.control 0) = true ∧
    (match fetchWords s (.control 0) 0 with
      | .ok (some ws, u) => (decodeCheck (ws.getD 0 0) (ws.drop 1) true true (u.core 0).handler true).isNone
      | _ => false) = true := by decide

/-- A block of one `EXIT` that has performed: header 0x80000, one output produced. -/
def produced : State :=
  (stand 0x1200FE7F).modBlock wordCore fun b =>
    { b with head := 0x80000, produced := 1, moves := [.goto 0x8000], regs := [(63, 5)] }

theorem witness_BlocksFetchCommit_commit :
    mayCommit produced wordCore = true ∧
    ((produced.strand wordCore).block.map fun b => (overruns produced wordCore b, (writeRegs produced wordCore b.regs).isSome)) =
      some (false, true) ∧
    (let s := produced.modStrand wordCore fun st => { st with dlrem := 1 }
     mayCommit s wordCore = true ∧ (s.strand wordCore).block.map (overruns s wordCore) = some true) ∧
    (let s := (stand 0x1200FE7F).modSlot wordCore 0 fun x => { x with l := { targeted := true, pending := 1 } }
     let s := s.modBlock wordCore fun b => { b with head := 0x80000 }
     (s.strand wordCore).block.map (noProgress s wordCore) = some true) := by decide

theorem witness_CommitGoesOn :
    ((produced.strand wordCore).block.map fun b => b.moves == [.goto 0x8000] && b.sys.isEmpty && b.traps.isEmpty) = some true ∧
    (((produced.modBlock wordCore fun b => { b with rnd := some 4095 }).strand wordCore).block.map fun b =>
      b.moves == [.goto 0x8000] && b.rnd == some 4095) = some true := by
  refine ⟨?_, ?_⟩ <;> decide

/-- The gathering of `stand`, changed. -/
def gathered (f : Gathering → Gathering) : State := (stand 0x1200FE7F).modGath 0 f

/-- Strand 0 at its end. -/
def ended (s : State) : State := s.modStrand wordCore fun st => { st with block := none, wait := .atRnd }

set_option maxRecDepth 8000 in
theorem witness_RoundsServed :
    (let s := gathered fun y => { y with queue := [.fault { cls := 0x0115, sev := sevTask }] }
     (s.gath 0).map (fun x => x.queue.length) = some 1) ∧
    (let s := gathered fun y => { y with queue := [.lost { cls := 0x0231, sev := sevTask }] }
     (s.gath 0).map (fun x => x.queue.length) = some 1) ∧
    (let s := gathered fun y =>
      { y with queue := [.service { cls := 0x0301, sev := sevTask } ⟨3, 0, 0x0301⟩ wordCore (some 0) 0 none] }
     (s.gath 0).map (fun x => x.queue.length) = some 1) ∧
    (let s := gathered fun y => { y with queue := [.grant], irrev := false }
     (publishAll ((popQueue s 0).modGath 0 fun y => { y with irrev := true }) 0).2.isNone = true) ∧
    (let s := gathered fun y => { y with queue := [.void true], irrev := false }
     (s.gath 0).map (fun x => (x.queue.length, x.irrev, x.cut, x.retiring)) = some (1, false, 0, false)) ∧
    (let s := gathered fun y => { y with queue := [.void true] }
     (s.gath 0).map (fun x => (x.queue.length, x.irrev)) = some (1, true)) ∧
    (let s := ended (gathered id)
     (s.gath 0).map (fun x => (x.cut, cutReady s 0 x, (cutRound s 0 x).2.isNone)) = some (0, true, true)) ∧
    ((gathered fun y => { y with cut := 2 }).gath 0).map (fun x => decide (x.cut ≠ 0)) = some true := by
  (repeat' apply And.intro) <;> decide

set_option maxRecDepth 8000 in
theorem witness_RoundLimits :
    (let s := gathered id
     (s.gath 0).map (fun x => ((gathStrands s x).any (fun st => st.wait == .sleeping), gathHeld s 0 x)) = some (false, false)) ∧
    ((gathered fun y => { y with voids := 64 }).gath 0).map (fun x => decide (64 ≤ x.voids)) = some true ∧
    ((gathered fun y => { y with voids := 63 }).gath 0).map (fun x => decide (x.voids < 64)) = some true := by
  refine ⟨?_, ?_, ?_⟩ <;> decide

set_option maxRecDepth 20000 in
/-- Every tag of CTX0 taken, a full backlog, and one child to release. -/
theorem witness_RoundLimits_hold :
    let s := (gathered fun y => { y with cut := 2, spawns := [⟨0, 0, 0⟩] }).modContext 0 fun k =>
      { k with live := List.replicate 1024 0, backlog := List.replicate 4096 ⟨⟨0, 0, 0⟩, 0, 0⟩ }
    let i : Instance := { ctx := 0, tag := 0, reqid := 7, dest := .nowhere, resp := 0, args := 0, graph := 1, array := 0, count := 1, entry := 0 }
    let s : State := { s with insts := [(0, i)] }
    tagsFull s 0 = true ∧ (s.gath 0).map (fun x => (x.cut, spawnRoom s x)) = some (2, false) ∧
    (tget s.insts 0).isSome = true := by decide

/-- A watch of a word homed at package 5. -/
def farWatch : Watch := { device := true, line := 0x180, va := 0x6000, size := 4, seen := 0, remote := some 5 }

/-- Strand 0 asleep at its end, with an implicit channel of its context to package 5. -/
def asleep (w : Watch) : State :=
  let s := (ended (gathered id)).modStrand wordCore fun st => { st with wait := .sleeping, watch := some w }
  { s.modContext 0 fun k => { k with channels := [(3, 3 * 2 ^ 28 + 5 * 2 ^ 20 + 7)] } with
    senders := [(7, { ctx := 0, index := 3, dst := 5 })] }

theorem witness_WaitsEnd :
    (let w : Watch := { device := false, line := 0x180, va := 0x6000, size := 4, seen := 0, woken := true }
     let s := asleep w
     (s.strand wordCore).wait = .sleeping ∧ (s.strand wordCore).watch = some w ∧ w.woken = true ∧ waitsOf s wordCore ≠ []) ∧
    (let s := gathered fun y => { y with kettles := [(63, [claimOf (stand 0) wordCore 0])] }
     (s.gath 0).map (fun x => (gathRuns s x, kettleFull s x ((tget x.kettles 63).getD []))) = some (true, true)) := by
  refine ⟨?_, ?_⟩ <;> decide

/-- The re-read of a remote watch, of a strand that sleeps and of a gathering saved in that wait. -/
theorem witness_WaitsEnd_reread :
    (let s := asleep farWatch
     ((sleepWatch s wordCore ++ paperWatches s wordCore).filter fun y => y.2.2.remote.isSome && !rereadOut s wordCore y.1) =
        [(some 0, 0, farWatch)] ∧ pickOf s 1 = 0 ∧ (s.strand wordCore).watch = some farWatch ∧
      (s.strand wordCore).wait = .sleeping ∧ implicitSender s 0 5 = some 7 ∧ implicitSender (stand 0) 0 5 = none) ∧
    (let s := asleep farWatch
     let s : State := { s.modStrand wordCore fun st => { st with watch := none } with
       papers := [(9, { gath := { ctx := 0, inst := 0, tag := 0 }, leaves := [(0, { s.leaf 0 with base := { strands := [{ watch := some farWatch }] } })] })] }
     ((sleepWatch s wordCore ++ paperWatches s wordCore).filter fun y => y.2.2.remote.isSome && !rereadOut s wordCore y.1) =
        [(some 9, 0, farWatch)] ∧ implicitSender s 0 5 = some 7) := by
  refine ⟨?_, ?_⟩ <;> decide

/-- The last tag is free while no read stands. -/
theorem witness_WaitsEnd_tag : (usedTags (asleep farWatch)).contains (4095 : BitVec 12).toNat = false := by decide

theorem witness_ContextSaved :
    (let s := (gathered fun y => { y with saving := true }).modContext 0 fun k => { k with attrs := some { endCount := 64 } }
     freeArea s 0 = some 0 ∧ (s.gath 0).map (fun x => (x.saving, decide (x.voids < 64))) = some (true, true)) ∧
    (let s := gathered fun y => { y with saving := true }
     freeArea s 0 = none ∧ (s.gath 0).map (fun x => x.deferred) = some false) ∧
    (let s := (gathered fun y => { y with deferred := true }).modContext 0 fun k => { k with attrs := some { endCount := 64 } }
     (s.gath 0).map (fun x => (x.deferred, x.saving, x.saveDue, x.queue.contains (.void true))) = some (true, false, false, false) ∧
      (freeArea s 0).isSome = true) := by decide


/-- Context `k` resident, with attributes and the page table of `paged`. -/
def resident (k : Nat) (a : ContextAttrs) (s : State := State.reset) : State :=
  { s.modContext k fun c => { c with attrs := some { a with root := 0x10000 } } with
    hbm := ((s.hbm.write 0x10000 (bytesOf 8 (0x11000 * 2 ^ 16 + 1))).write 0x11000 (bytesOf 8 (0x12000 * 2 ^ 16 + 1))).write
      0x12000 (bytesOf 8 63) }

theorem witness_HostEvents :
    ((upTo 8).all fun i => isBacked (State.reset.bar2 + (Config.stackBacked - 8) + i)) = true := by decide

/-- A launch record of context `k`: version 1, graph 0, entry 0, no response (destination 10). -/
def launchBytes (k : Nat) : List Byte :=
  bytesOf 4 1 ++ bytesOf 1 k ++ zeros 11 ++ bytesOf 8 5 ++ bytesOf 8 (2 * 2 ^ 62) ++ zeros 32

/-- Context `k` with a graph of one node: entry at 0x20000, nodes at 0x30000. -/
def withGraph (k : Nat) : State :=
  let s := resident k { graphBase := 0x20000 }
  let s : State := { s with hbm := (s.hbm.write 0x20000 (bytesOf 8 0x30000)).write 0x20008 (bytesOf 2 1) }
  walked s (.admission k) k hubPlace 0x20000 1

/-- The graph entry of a launch can be read, and none of its fields fails. -/
def goodGraph (s : State) (k : Nat) (l : Launch) : Bool :=
  match spineRead s (.admission k) k ((s.attrs k).graphBase + 16 * l.graph) 16 with
  | .ok (g, _) => (graphBad l g).isNone
  | .error _ => false

/-- A record in the submission ring of CTX1. -/
theorem witness_LaunchesEnter_ring :
    let s := (withGraph 1).modContext 1 fun c => { c with page := { sqBase := 0x1000, sqSize := 6, sqTail := 64, sqHead := 63 } }
    let s : State := { s with host := Memory.write [] (0x1000 + 64 * 63) (launchBytes 1) }
    let l : Launch := { ctx := 1, record := launchBytes 1 }
    launchBad s l = none ∧ servedCtx s = some 1 ∧ ringPending s 1 = true ∧ goodGraph s 1 l = true ∧
      s.host.read (0x1000 + 64 * (63 % 2 ^ 6)) 64 = launchBytes 1 := by
  dsimp only; (repeat' apply And.intro) <;> decide

/-- A record in the firmware ring of CTX0, at VA 0x40000. -/
theorem witness_LaunchesEnter_firmware :
    let s := withGraph 0
    let s : State := { s with
      hbm := s.hbm.write 0x40000 (launchBytes 0)
      fwBase := 0x40000
      fwSize := 6
      fwTail := 1
      fwSeen := 1 }
    let s := walked s (.admission 0) 0 hubPlace 0x40000 2
    let l : Launch := { ctx := 0, record := launchBytes 0, fw := true }
    servedCtx s = some 0 ∧ fwPending s 0 = true ∧ launchBad s l = none ∧
      (match spineRead s (.admission 0) 0 0x40000 64 with
        | .ok (r, v) => r == launchBytes 0 && (launchBad v l).isNone && goodGraph v 0 l
        | .error _ => false) = true := by
  dsimp only; (repeat' apply And.intro) <;> decide

/-- A frame of no argument bytes to UDP port 4,000, which is CTX1's. -/
def frameOf (magic : Nat) : Frame :=
  { peer := 9, udpPort := 4000, fragmented := false, sumOk := true,
    payload := bytesOf 2 magic ++ bytesOf 2 0x101 ++ zeros 12 ++ launchBytes 1 }

theorem witness_LaunchesEnter_frame :
    let s := (withGraph 1).modContext 1 fun c => { c with frames := [frameOf 0xD8A5] }
    let l := frameLaunch 1 (frameOf 0xD8A5)
    launchBad s l = none ∧ servedCtx s = some 1 ∧ goodGraph s 1 l = true := by
  dsimp only; (repeat' apply And.intro) <;> decide

theorem witness_LaunchesEnter_child :
    let b : BacklogEntry := { spawn := ⟨0, 0, 7⟩, reqid := 5, inst := 0 }
    let s := (withGraph 1).modContext 1 fun c => { c with backlog := [b] }
    launchBad s (childLaunch 1 b) = none ∧ servedCtx s = some 1 ∧ goodGraph s 1 (childLaunch 1 b) = true := by
  dsimp only; (repeat' apply And.intro) <;> decide

/-- Frames to no context, with a wrong magic, malformed, held and answered BUSY. -/
theorem witness_LaunchesEnter_frames :
    let s := resident 1 { udpPort := some 4000 }
    let full := s.modContext 1 fun c => { c with frames := List.replicate 64 (frameOf 0xD8A5) }
    frameLong (frameOf 0xD8A5) = false ∧ frameLong { frameOf 0xD8A5 with size := 9217 } = true ∧
    portCtx State.reset 4000 = none ∧ field (frameOf 0xD8A4).payload 0 2 ≠ 0xD8A5 ∧
    field (frameOf 0xD8A5).payload 0 2 = 0xD8A5 ∧ portCtx s 4000 = some 1 ∧ frameBad (frameOf 0xD8A5).payload = none ∧
    frameBad (bytesOf 2 0xD8A5 ++ bytesOf 2 0x102 ++ zeros 76) = some 2 ∧ (s.context 1).parked.contains 4000 = false ∧
    (s.context 1).frames.length < Config.frameQueue ∧ Config.frameQueue ≤ (full.context 1).frames.length ∧
    (let p : State := { State.reset.modContext 1 (fun c => { c with parked := [4000] }) with parkedQ := [(4000, frameOf 0xD8A5)] }
     portCtx p 4000 = some 1 ∧ (p.context 1).parked.contains 4000 = true ∧
      (p.parkedQ.filter fun x => x.1 == 4000).length < Config.frameQueue) := by
  dsimp only; (repeat' apply And.intro) <;> decide

/-- An instance of CTX1 without nodes. -/
def oneInst (d : Dest) : Instance :=
  { ctx := 1, tag := 0, reqid := 5, dest := d, resp := 0, args := 0, graph := 0, array := 0x30000, count := 1, entry := 0 }

theorem witness_InstancesServed_responses :
    let s := State.reset.modContext 1 fun c =>
      { c with due := [.entry (zeros 32)], page := { cqBase := 0x1000, cqSize := 6, cqTail := 63 } }
    let u : State := { s.modContext 1 (fun c => { c with due := [.inst 3] }) with insts := [(3, oneInst .ring)] }
    cqRoom (s.context 1).page = true ∧ (s.context 1).due.length = 1 ∧
    ((tget u.insts 3).map fun (x : Instance) => x.dest) = some .ring ∧
      cqRoom (u.context 1).page = true := by
  dsimp only; (repeat' apply And.intro) <;> decide

theorem witness_InstancesServed_retire :
    let s : State := { gathered (fun y => { y with retiring := true, inst := 3 }) with insts := [(3, oneInst .nowhere)] }
    (s.gaths.find? fun g => g.2.inst == 3 && g.2.retire == 0).map (fun g => nodeCovered s g.1 g.2) = some true ∧
    (tget s.insts 3).isSome = true := by
  dsimp only; (repeat' apply And.intro) <;> decide

/-- A COPY node of 64 bytes, its record at 0x50000, dispatched. -/
theorem witness_InstancesServed_copy :
    let s := resident 1 {}
    let e : PoolEntry := { ctx := 1, inst := 3, tag := 0, node := 0, kind := .copy, order := 0, bound := true, src := 0x50000 }
    let s : State := { s with
      hbm := s.hbm.write 0x50000 (copyBytes 0x4000 0x8000 64 0)
      insts := [(3, oneInst .nowhere)]
      pool := [(0, e)] }
    let s := walked s (.bind 0) 1 hubPlace 0x50000 1
    instFree s 3 = true ∧
    (match spineRead s (.bind 0) 1 0x50000 32 with
      | .ok (r, u) => (copyNodeBad r).isNone && (tget u.insts 3).isSome
      | .error _ => false) = true := by
  dsimp only; (repeat' apply And.intro) <;> decide

/-- A copy with two lines to read, one whose two lines are read and have to land, and one that has done both. -/
def moving (reads lines : List (Nat × Nat)) : Copy × State :=
  let x : Copy := { newCopy 0 0x4000 0x6000 128 0 0 0 reads lines with gath := some 0, got := [(0, { pa := 0x4000, bytes := (zeros 128).map some, bad := false })] }
  (x, { paged (gathered id) with copies := [(1, x)] })

theorem witness_InstancesServed_lines :
    (let x := moving [(0, 64), (64, 64)] []
     copyRuns x.2 x.1 = true ∧ x.1.todo[3 % x.1.todo.length]? = some (true, (64, 64)) ∧ x.1.hold = none ∧
      readFree x.2 1 x.1 (64, 64) = true) ∧
    (let x := moving [] [(0, 64), (64, 64)]
     copyRuns x.2 x.1 = true ∧ x.1.todo[3 % x.1.todo.length]? = some (false, (64, 64)) ∧ x.1.hold = none ∧
      lineFree x.2 1 x.1 (64, 64) = true) ∧
    (let x := moving [] []
     copyRuns x.2 x.1 = true ∧ x.1.todo = []) := by
  dsimp only; (repeat' apply And.intro) <;> decide

theorem witness_InstancesServed_unload :
    ((resident 15 {}).context 15).attrs.isSome = true ∧ ((resident 15 {}).context 15).ended = false := by decide

/-- Two entries of CTX1: a FABRIC of class 2 and an older one of class 1. -/
theorem witness_PoolServed_pool :
    let e : PoolEntry := { ctx := 1, inst := 3, tag := 0, node := 0, kind := .fabric, order := 0, places := wordGath.nodes }
    let s : State := { resident 1 {} with pool := [(0, e), (1, { e with aged := 1 })], insts := [(3, oneInst .nowhere)] }
    let b : State := { s with pool := [(0, { e with bound := true })] }
    effClass s e ≠ 0 ∧ hasClass s 1 (effClass s e - 1) = true ∧ instFree b 3 = true ∧ rangesGone b e = false ∧
    entryPending b e = false ∧
    allAwake b e.quires = false ∧ allAwake (b.modQuire 0 fun q => { q with power := .active }) e.quires = true := by
  dsimp only; (repeat' apply And.intro) <;> decide

/-- An instance whose one node declares a range of 64 KiB at VA 0x60000 of the page at PA 0. -/
theorem witness_PoolServed_eviction :
    let s := resident 1 {}
    let s : State := { s with insts := [(3, { oneInst .nowhere with nodes := [(0, .ready)], declares := [(0x60000, 0x10000)] })] }
    victim s 0 = some (1, 0x60000, 0x10000) ∧ (heldPages s 1 (0x60000, 0x10000)).any (pageBusy s 1) = false := by
  dsimp only; (repeat' apply And.intro) <;> decide

/-- A settled page (SHARE 10). -/
theorem witness_PoolServed_settled :
    let s := resident 1 {}
    let s : State := { s with hbm := s.hbm.write 0x12000 (bytesOf 8 (63 + 2 * 64 + 4 * 256)) }
    (leafEntry s 1 0x60000).map (fun w => pteShare (natOfBytes (s.hbm.read w.src 8))) = some 2 := by decide


/-- F0 of leaf 0 running a record, with a token at each of the first inputs, all of which have just closed a fibre. -/
def unitOf (mode : Byte) (body : List (Nat × Byte)) (inputs : Nat) (t : Token) (st : FlowState := {}) : State :=
  let ports : List (Nat × Byte) := (upTo inputs).map fun i => (2 + i, BitVec.ofNat 8 (8 + i))
  let s := looped (stand 0x1200FE7F) 1
  let s := s.modLeaf 0 fun l => { l with inputs := l.inputs.mapIdx fun i q => if i < inputs then { q with held := [t] } else q }
  s.modUnit 0 .f0 fun x =>
    { x with
      record := record64 ((0, mode) :: (6, 15) :: ports ++ body)
      cfgd := true
      run := true
      st := { st with seen := List.replicate 4 (some 0), tops := [1, 1, 1, 1] } }

/-- F0 of leaf 0 can act. -/
def readyAt (s : State) (modes : List Nat) : Bool :=
  unitRuns s 0 .f0 && modes.contains (s.unit 0 .f0).mode && !((s.unit 0 .f0).stopping && !unitBusy s 0 .f0)
    && ((flushUnit s 0 .f0).unit 0 .f0).run && ((flushUnit s 0 .f0).unit 0 .f0).outq.isEmpty

theorem unitReady_of {s : State} {modes : List Nat} (h : readyAt s modes = true) : unitReady s 0 .f0 modes := by
  simp only [readyAt, Bool.and_eq_true, List.isEmpty_iff, Bool.not_eq_true'] at h
  exact ⟨by decide, h.1.1.1.1, h.1.1.1.2, h.1.1.2, h.1.2, h.2⟩

/-- F0 of leaf 0, its tokens gone, holds a token at the first k inputs, which are ports 0 upward. -/
def holdsAt (s : State) (k : Nat) (t : Token) : Bool :=
  (upTo k).all fun i => let v := flushUnit s 0 .f0
    (v.unit 0 .f0).inp i == some i && headOf v 0 i == some t && (headBad v 0 i i t).isNone

theorem holdsTok_of {s : State} {k i : Nat} {t : Token} (h : holdsAt s k t = true) (hi : i ∈ upTo k) :
    holdsTok (flushUnit s 0 .f0) 0 .f0 i i t := by
  have h := List.all_eq_true.mp h i hi
  simp only [Bool.and_eq_true, beq_iff_eq] at h
  exact ⟨h.1.1, h.1.2, h.2⟩

/-- The step of a unit reaches a state without an error, a wait or a request for the grant. -/
def acts (s : State) (modes : List Nat) (act : State → Nat → FUnit → Ran) : Bool :=
  readyAt s modes && (act (flushUnit s 0 .f0) 0 .f0).2.isNone

theorem unitActs_of_acts {s : State} {modes : List Nat} {act : State → Nat → FUnit → Ran} (h : acts s modes act = true) :
    ∃ t, unitActs s 0 .f0 modes act t := by
  simp only [acts, Bool.and_eq_true, Option.isNone_iff_eq_none] at h
  exact ⟨(act (flushUnit s 0 .f0) 0 .f0).1, unitReady_of h.1, Prod.ext rfl h.2⟩

/-- F0 of leaf 0 with an access to a VA of `paged` whose page has been walked and whose one part has had its turn. -/
def asked (s : State) (va : Nat) : State := walked (paged s) (.flow 0 0) 0 (placeOf wordCore 0 va) va 1

/-- A DONE token, a STOP of a level, and a DATA token of two lanes. -/
def doneTok : Token := { kind := .done }
def stopTok (k : Nat) : Token := { kind := .stop, level := k }
def dataTok : Token := { kind := .data, deckle := 3, lanes := List.replicate 16 5 }

theorem witness_UnitsWork_scanners :
    (∃ t, unitActs (unitOf 1 [(0x20, 1)] 1 doneTok) 0 .f0 [1, 2, 3, 4, 5] scanStep t) ∧
    (∃ t, unitActs (asked (unitOf 2 [(0x11, 0x40), (0x19, 0x50), (0x29, 0x60)] 0 doneTok { fibre := some { parent := 0 } }) 0x4000) 0 .f0
      [2, 5] (fun s n u => match (s.flow n u).fibre with
        | some f => if f.ready then moreRefill s n u f else firstRefill s n u f
        | none => (s, some .wait)) t) :=
  ⟨unitActs_of_acts (by decide), unitActs_of_acts (by decide)⟩

theorem witness_UnitsWork_pairs :
    (∃ t, unitActs (unitOf 8 [] 3 doneTok) 0 .f0 [0x08] (pairStep false) t) ∧
    (∃ t, unitActs (unitOf 9 [] 3 doneTok) 0 .f0 [0x09] (pairStep true) t) ∧
    (∃ t, unitActs (unitOf 0x0A [] 2 doneTok) 0 .f0 [0x0A] repeatStep t) ∧
    (∃ t, unitActs (unitOf 0x0C [(0x12, 1)] 1 doneTok) 0 .f0 [0x0C] reduceStep t) ∧
    (∃ t, unitActs (unitOf 0x0D [(0x18, 1)] 2 { kind := .stop }) 0 .f0 [0x0D] spaccStep t) :=
  ⟨unitActs_of_acts (by decide), unitActs_of_acts (by decide), unitActs_of_acts (by decide), unitActs_of_acts (by decide),
    unitActs_of_acts (by decide)⟩

theorem witness_UnitsWork_others :
    (∃ t, unitActs (paged (unitOf 0x0E [(0x28, 2)] 1 doneTok)) 0 .f0 [0x0E] lwriteStep t) ∧
    (∃ t, unitActs (unitOf 0x10 [] 1 doneTok) 0 .f0 [0x10] gatherStep t) ∧
    (∃ t, unitActs (unitOf 0x11 [] 2 doneTok) 0 .f0 [0x11] scatterStep t) ∧
    (∃ t, unitActs (unitOf 0x12 [] 2 doneTok) 0 .f0 [0x12] filterStep t) ∧
    (∃ t, unitActs (unitOf 0x13 [] 1 doneTok) 0 .f0 [0x13] coalesceStep t) ∧
    (∃ t, unitActs (unitOf 0x14 [(0x18, 2), (0x19, 1), (0x20, 1)] 0 doneTok) 0 .f0 [0x14]
      (fun s n u => if (s.unit n u).body 0x18 1 % 4 = 1 then agenTake s n u else agenEmit s n u) t) :=
  ⟨unitActs_of_acts (by decide), unitActs_of_acts (by decide), unitActs_of_acts (by decide), unitActs_of_acts (by decide),
    unitActs_of_acts (by decide), unitActs_of_acts (by decide)⟩

/-- A dense scanner of levels of 20: with a fibre, with a parent, at the head of its parent stream, and as a root. -/
def scanning (st : FlowState) (t : Token := doneTok) (k : Nat := 0) : State := unitOf 1 [(0x20, 20)] k t st

theorem witness_UnitsWork_fibre :
    (let f : Fibre := { parent := 2, ready := true, next := 16, stop := 20, elems := List.replicate 16 (0, 0) }
     readyAt (scanning { fibre := some f }) [1, 2, 3, 4, 5] = true ∧ 16 ≤ f.elems.length) ∧
    (let f : Fibre := { parent := 2, ready := true, next := 20, stop := 20, elems := List.replicate 15 (0, 0) }
     readyAt (scanning { fibre := some f }) [1, 2, 3, 4, 5] = true ∧ f.elems.length < 16 ∧ f.stop ≤ f.next) ∧
    (let f : Fibre := { parent := 2, ready := true, next := 16, stop := 20 }
     let s := scanning { fibre := some f }
     readyAt s [1, 2, 3, 4, 5] = true ∧ ((flushUnit s 0 .f0).unit 0 .f0).mode = 1 ∧ f.next < f.stop ∧
      beyond ((upTo 4).map fun i => (16 + i, 20 * 2 + 16 + i)) = none) ∧
    readyAt (scanning { parents := [7] }) [1, 2, 3, 4, 5] = true := by
  dsimp only; (repeat' apply And.intro) <;> decide

theorem witness_UnitsWork_parents :
    (readyAt (scanning {} dataTok 1) [1, 2, 3, 4, 5] = true ∧ holdsAt (scanning {} dataTok 1) 1 dataTok = true) ∧
    (readyAt (scanning {} (stopTok 5) 1) [1, 2, 3, 4, 5] = true ∧ holdsAt (scanning {} (stopTok 5) 1) 1 (stopTok 5) = true) ∧
    (readyAt (scanning { root := 1 }) [1, 2, 3, 4, 5] = true ∧
      ((flushUnit (scanning { root := 1 }) 0 .f0).unit 0 .f0).inp 0 = none) := by
  (repeat' apply And.intro) <;> decide

/-- A compressed scanner at a step of the refill of its ring of 16 coordinates at LA 0x6000: its pos pair is at VA 0x4000, its
coordinates at VA 0x5000. -/
def refilling (f : Fibre) (clamp va p0 p1 : Nat) : State :=
  let s := asked (unitOf 2 [(0x11, 0x40), (0x19, 0x50), (0x25, 0x60), (0x29, 0x70), (0x2C, BitVec.ofNat 8 clamp)] 0 doneTok
    { fibre := some f }) va
  { s with hbm := s.hbm.write 0x4000 (bytesOf 4 p0 ++ bytesOf 4 p1) }

/-- The pos pair that the unit reads has a property. -/
def pairHas (s : State) (p : Nat → Nat → Bool) : Bool :=
  match unitRead (flushUnit s 0 .f0) 0 .f0 0x4000 8 with
  | .ok (bs, _) => p (field bs 0 4) (field bs 4 4)
  | .error _ => false

/-- The pos pair read and accepted, refused with the clamp, the first of three coordinates, the three, and the descriptor after them. -/
theorem witness_UnitsWork_refill :
    (let s := refilling { parent := 0 } 0 0x4000 1 1
     readyAt s [2, 5] = true ∧ pairHas s (fun a b => decide (a ≤ b)) = true) ∧
    (let s := refilling { parent := 0 } 1 0x4000 3 1
     readyAt s [2, 5] = true ∧ ((flushUnit s 0 .f0).unit 0 .f0).body 0x2C 4 % 2 = 1 ∧ pairHas s (fun a b => decide (b < a)) = true) ∧
    (let s := refilling { parent := 0, pos := some (0, 3) } 0 0x5000 0 3
     let x := (flushUnit s 0 .f0).unit 0 .f0
     readyAt s [2, 5] = true ∧ ringCap x = 16 ∧ x.body 0x18 8 = 0x5000 ∧
      (match unitRead (flushUnit s 0 .f0) 0 .f0 0x5000 12 with
        | .ok (cs, t) => (unitLeafWrite t 0 .f0 (ringBase x + 4 * x.st.wpos) cs).isOk
        | .error _ => false) = true) ∧
    (let s := refilling { parent := 0, pos := some (0, 3), filled := 3 } 0 0x5000 0 3
     readyAt s [2, 5] = true ∧
      (unitLeafWrite (flushUnit s 0 .f0) 0 .f0 0x7000 (bytesOf 4 0 ++ bytesOf 4 3 ++ bytesOf 4 3 ++ bytesOf 4 0)).isOk = true) := by
  dsimp only; (repeat' apply And.intro) <;> decide

theorem witness_UnitsWork_heads :
    (let st : FlowState := { heads := [[(1, 2)], [(1, 3), (4, 5)]] }
     readyAt (unitOf 8 [] 3 doneTok st) [0x08] = true ∧ readyAt (unitOf 9 [] 3 doneTok st) [0x09] = true) ∧
    (let st : FlowState := { marks := [some (stopTok 6), some (stopTok 6)] }
     readyAt (unitOf 8 [] 3 doneTok st) [0x08] = true ∧ readyAt (unitOf 9 [] 3 doneTok st) [0x09] = true) := by
  dsimp only; (repeat' apply And.intro) <;> decide

/-- Units with one token at their first input: a REPEAT with its element, a REDUCE of depth 7, a GATHER without CHAIN, a FILTER with an
immediate, a COALESCE of one input, and an AGEN STORE. -/
theorem witness_UnitsWork_taken :
    (∀ t ∈ [dataTok, stopTok 0],
      (let s := unitOf 0x0A [] 2 t { took := true }; readyAt s [0x0A] && holdsAt s 1 t) = true) ∧
    (∀ t ∈ [dataTok, stopTok 1, stopTok 6],
      (let s := unitOf 0x0C [(0x12, 7)] 1 t; readyAt s [0x0C] && holdsAt s 1 t && ((flushUnit s 0 .f0).unit 0 .f0).body 0x12 1 == 7) = true) ∧
    (∀ t ∈ [dataTok, stopTok 6],
      (let s := unitOf 0x10 [] 1 t; readyAt s [0x10] && holdsAt s 1 t) = true ∧
      (let s := unitOf 0x12 [(0x10, 8)] 1 t
       readyAt s [0x12] && holdsAt s 1 t && testBit (((flushUnit s 0 .f0).unit 0 .f0).body 0x10 1) 3) = true ∧
      (let s := unitOf 0x13 [] 1 t; readyAt s [0x13] && holdsAt s 1 t) = true) ∧
    (let s := unitOf 0x14 [(0x18, 1), (0x19, 1), (0x20, 2)] 1 dataTok { index := [0, 0, 0, 0] }
     readyAt s [0x14] = true ∧ holdsAt s 1 dataTok = true ∧ ((flushUnit s 0 .f0).unit 0 .f0).body 0x18 1 % 4 = 1 ∧
      agenMatches (agenExpect ((flushUnit s 0 .f0).unit 0 .f0)) dataTok = true) := by
  dsimp only; (repeat' apply And.intro) <;> decide

/-- Units with a token at two inputs, and those that take none. -/
theorem witness_UnitsWork_step :
    (let s := unitOf 0x0D [(0x18, 1)] 2 dataTok; readyAt s [0x0D] = true ∧ holdsAt s 2 dataTok = true) ∧
    (let s := unitOf 0x0E [] 2 dataTok { begun := true }; readyAt s [0x0E] = true ∧ holdsAt s 2 dataTok = true) ∧
    (let s := unitOf 0x11 [] 2 dataTok; readyAt s [0x11] = true ∧ holdsAt s 2 dataTok = true) ∧
    (let s := unitOf 0x0D [(0x18, 9)] 2 dataTok { drain := some 9 }
     readyAt s [0x0D] = true ∧ ((flushUnit s 0 .f0).unit 0 .f0).body 0x18 4 = 9) ∧
    readyAt (unitOf 0x0E [] 2 dataTok) [0x0E] = true ∧
    readyAt (unitOf 0x14 [(0x18, 2), (0x20, 2)] 0 dataTok { drain := some 3 }) [0x14] = true ∧
    readyAt (unitOf 0x14 [(0x18, 0), (0x20, 2)] 0 dataTok { closed := true }) [0x14] = true ∧
    (let s := unitOf 0x14 [(0x18, 2), (0x20, 2)] 0 dataTok
     readyAt s [0x14] = true ∧ ((flushUnit s 0 .f0).unit 0 .f0).body 0x18 1 % 4 = 2) := by
  dsimp only; (repeat' apply And.intro) <;> decide

/-- A vector pipeline that passes the head of I5 to O7. -/
def piping (t : Token) : State :=
  (looped (stand 0x1200FE7F) 3).modLeaf 0 fun l => { l with
    inputs := lmod l.inputs 5 fun q => { q with held := [t] }
    vp := { l.vp with
      record := record64 [(0, 8 + 5), (3, 8 + 7), (5, 1)], cfgd := true, run := true, seen := List.replicate 3 (some 0) } }

theorem witness_UnitsWork_pipe :
    (let s := piping dataTok
     let v := flushVp s 0
     vpRuns s 0 = true ∧ (v.vp 0).run = true ∧ (v.vp 0).outq = [] ∧ (v.vp 0).ending = false ∧
      vpFeeds (v.vp 0).record = [(0, .port 5)] ∧ headOf v 0 5 = some dataTok ∧ rtSkip ((v.leaf 0).routes.getD 5 0) = false) ∧
    ∃ t, vpActs (piping doneTok) 0 t :=
  ⟨by dsimp only; (repeat' apply And.intro) <;> decide,
    (vpAct (flushVp (piping doneTok) 0) 0).1, by decide, by decide, by decide, by decide, by decide, Prod.ext rfl (by decide)⟩

theorem witness_UnitsWork_skip :
    let s := (unitOf 1 [(0x20, 1), (9, 8 + 5)] 0 doneTok).modLeaf 0 fun l => { l with
      routes := lset l.routes 5 (route 1 7 ||| 0x2000000)
      inputs := lmod l.inputs 5 fun q => { q with held := [{ kind := .skip, deckle := 1 }] } }
    unitRuns s 0 .f0 = true ∧ isScan (s.unit 0 .f0).mode = true ∧ (s.unit 0 .f0).skp 0 = some 5 ∧
      (headOf s 0 5).map (fun k => k.kind) = some .skip ∧ rtSkip ((s.leaf 0).routes.getD 5 0) = true := by
  dsimp only; (repeat' apply And.intro) <;> decide

/-- A matrix command of leaf 0: E4M3 by E4M3 into tile 0 of leaf 0. -/
def command : MxCmd := { num := 7, gath := 0, word := 0x330, leaf := 0, strand := 0, ftz := false }

set_option maxRecDepth 20000 in
theorem witness_TilesAndChannels :
    (let s := (stand 0x1200FE7F).modLeaf 0 fun l =>
      { l with vfull := true, turn := some { claim := ⟨wordCore, 0, 0⟩, before := [], emit := none } }
     (s.leaf 0).turn.isSome = true ∧ (s.leaf 0).vfull = true ∧ ((readersOf s 0).any fun x => ([] : List Nat).contains x.num) = false ∧
      tstReaders s 0 = []) ∧
    (let s := ((stand 0x1200FE7F 0 0 0x40).modLeaf 0 fun l => { l with rfull := true }).modQuire 0 fun q => { q with queue := [command] }
     (s.quire 0).started.length < 2 ∧ mxHeld s 0 command = false ∧ mxRuns s command = true ∧
      (s.leaf (leafIn 0 (mxA command.word))).rfull = true ∧ (s.leaf (leafIn 0 (mxB command.word))).rfull = true ∧
      (((mxLines command.word)[0]?).map fun l => leafPoisoned (s.leaf (leafIn 0 l.2.1)) l.2.2 64) = some false ∧
      (((mxLines command.word)[127]?).map fun l => leafPoisoned (s.leaf (leafIn 0 l.2.1)) l.2.2 64) = some false ∧
      (mxLines command.word).length = 128) ∧
    (let s := looped (stand 0x1200FE7F)
     let s := s.modLeaf 0 fun l => { l with outputs := lmod l.outputs 7 fun o => { o with inflight := [doneTok], credits := 1 } }
     let s := s.modQuire 0 fun q => { q with power := .active }
     liveChannel s 0 7 = some (0, 5) ∧ ((s.leaf 0).outputs.getD 7 {}).inflight = [doneTok] ∧ quireAwake s 0 = true ∧
      ((s.leaf 0).outputs.getD 7 {}).credits ≠ 0) := by
  dsimp only; (repeat' apply And.intro) <;> decide

theorem leafWrite_irrev (s : State) (n la : Nat) (bs : List Byte) (h : leafIrrev s (s.leaf n) = true)
    (j : (s.leaf n).journal = []) : ∃ u, leafWrite s n la bs = some u := by
  unfold leafWrite
  simp only [h, j, if_true, List.length_nil, Nat.add_zero]
  exact ⟨_, if_neg (Nat.not_lt_zero _)⟩

/-- A started command with its accumulator tile of ACC = 1 and k of the lines of C written. -/
def writing (k : Nat) : MxCmd := { command with wrote := k, rowsA := zeros 4096, rowsB := zeros 4096 }
def completing (k : Nat) : State := (stand 0x1200FE7F 0 0 0x40).modQuire 0 fun q => { q with started := [writing k] }

set_option maxRecDepth 20000 in
theorem witness_TilesAndChannels_complete : ∀ k ∈ [0, 255],
    (((completing k).quire 0).started = [writing k] ∧ mxRuns (completing k) (writing k) = true ∧ mxAcc (writing k).word = false) ∧
    ∃ u, leafWrite (completing k) 0 (tileLine ((completing k).leaf 0) 0 0 + 64 * k)
      (mxLine (writing k) k (leafRead (completing k) 0 (tileLine ((completing k).leaf 0) 0 0 + 64 * k) 64)).1 = some u := by
  intro k hk
  have h : ∀ k ∈ [0, 255], (((completing k).quire 0).started = [writing k] ∧ mxRuns (completing k) (writing k) = true ∧
    mxAcc (writing k).word = false) ∧ leafIrrev (completing k) ((completing k).leaf 0) = true ∧
    ((completing k).leaf 0).journal = [] := by decide
  exact ⟨(h k hk).1, leafWrite_irrev _ _ _ _ (h k hk).2.1 (h k hk).2.2⟩

/-- A request of strand 0 of leaf 0 for 8 bytes at VA 0x4000. -/
def asking (stage : ReqStage) (op : ReqOp := .load false) : Request :=
  { core := wordCore, slot := 0, blk := 0, acq := false, rel := false, gath := some 0, ctx := 0, va := 0x4000, size := 8, write := false,
    act := false, scope := 2, op, stage, pa := 0x4000 }

/-- The page of VA 0x4000, present in the cache of the request's slice or not. -/
def cached (pte : Nat) : State :=
  let t : TlbEntry := { place := placeOf wordCore 0 0x4000, ctx := 0, base := 0, level := 2, pte, src := 0x12000 }
  { paged (stand 0x1200FE7F) with tlb := [t] }

theorem witness_RequestsTranslated :
    (let r := asking .lookup
     lookable (cached 63) r = true ∧
      ((tlbFind (cached 63) (placeOf r.core r.ctx r.va) r.ctx r.va).map fun e => (applyEntry (cached 63) e r.va r.acc false).isOk) =
        some true ∧
      (let w := { asking .lookup (.store (zeros 8)) with write := true }
       ((tlbFind (cached 59) (placeOf w.core w.ctx w.va) w.ctx w.va).map fun e => (applyEntry (cached 59) e w.va w.acc false).isOk) =
         some false) ∧
      (tlbFind (paged (stand 0x1200FE7F)) (placeOf r.core r.ctx r.va) r.ctx r.va).isNone = true) ∧
    (let r := asking .walk
     let s := paged (stand 0x1200FE7F)
     let p := placeOf r.core r.ctx r.va
     walksBefore s (walkPlace p) r.seq < 32 ∧ (walkTurn s 1 p 0 r.va 4 0x10000).2 = true ∧
      (match walkLevel s (walkPlace p) 0 r.va 4 0x10000 with
        | .ok (.table _ a) => a == 0x11000
        | _ => false) = true ∧
      (match walkLevel s (walkPlace p) 0 r.va 2 0x12000 with
        | .ok (.leaf pte src) =>
          let e := enterLeaf s p 0 r.va pte 2 src
          (applyEntry e.2 e.1 r.va r.acc false).isOk && !(applyEntry e.2 { e.1 with pte := 1 } r.va accStore false).isOk
        | _ => false) = true ∧
      (match walkLevel s (walkPlace p) 0 r.va 4 0x20000 with
        | .error _ => true
        | _ => false) = true) := by
  dsimp only; (repeat' apply And.intro) <;> decide

/-- A miss of a block fetch at the root table, at its leaf entry, and one of the Spine, each with its turn at the port. -/
theorem witness_RequestsTranslated_misses :
    ∀ x ∈ [(PortUser.fetch wordCore, placeOf wordCore 0 0x4000), (.admission 0, hubPlace)],
      let m : Miss := { user := x.1, place := x.2, ctx := 0, va := 0x4000, table := 0x10000 }
      let s : State := { paged (stand 0x1200FE7F) with misses := [(1, m)] }
      tget s.reqs 1 = none ∧ tget s.misses 1 = some m ∧ walksBefore s (walkPlace m.place) 1 < 32 ∧
      (walkTurn s 1 m.place 0 m.va 4 0x10000).2 = true ∧
      (match walkLevel s (walkPlace m.place) 0 m.va 4 0x10000 with
        | .ok (.table _ a) => a == 0x11000
        | _ => false) = true ∧
      (match walkLevel s (walkPlace m.place) 0 m.va 2 0x12000 with
        | .ok (.leaf ..) => true
        | _ => false) = true ∧
      (match walkLevel s (walkPlace m.place) 0 m.va 4 0x20000 with
        | .error _ => true
        | _ => false) = true := by
  dsimp only; decide

/-- One request at the port of PA 0x4000. -/
theorem witness_PortServes :
    (let r := asking .port
     let s : State := { cached 63 with reqs := [(1, r)] }
     s.reqs.filter (servable s (portOf 0x4000)) = [(1, r)] ∧ r.ctx < 16 ∧ r.home = s.pkg ∧
      ((s.port (portOf 0x4000)).queue.all fun u => !portWaits s u.1) = true ∧ readBad s r.gath r.home r.pa r.size = false) ∧
    (let r := asking .port (.store (zeros 8))
     let s : State := { cached 63 with reqs := [(1, r)] }
     let t := s.modGath 0 fun x => { x with irrev := false }
     s.reqs.filter (servable s (portOf 0x4000)) = [(1, r)] ∧ (s.gath 0).map (fun x => x.irrev) = some true ∧
      t.reqs.filter (servable t (portOf 0x4000)) = [(1, r)] ∧
      (t.gath 0).map (fun x => (x.irrev, decide (stagedAt x (portOf 0x4000) + 8 ≤ (t.attrs 0).allotment))) = some (false, true) ∧
      portHeld t (portOf 0x4000) + 8 ≤ Config.portBuffer) ∧
    (let r := asking .port (.waita 3 0 false false)
     let s : State := { cached 63 with reqs := [(1, r)] }
     s.reqs.filter (servable s (portOf 0x4000)) = [(1, r)] ∧ waitHolds 3 0 0 = false ∧ waitHolds 2 0 0 = true ∧
      readBad s r.gath r.home r.pa r.size = false) ∧
    (let r := { asking .port (.store (zeros 8)) with gath := none }
     let s : State := { cached 63 with reqs := [(1, r)] }
     s.reqs.filter (servable s (portOf 0x4000)) = [(1, r)] ∧ (r.gath.bind s.gath).isNone = true ∧ r.home = s.pkg) ∧
    (let r := asking .port (.atomic 0 1)
     let s : State := { cached 63 with reqs := [(1, r)] }
     s.reqs.filter (servable s (portOf 0x4000)) = [(1, r)] ∧ hbmPoisoned s r.pa r.size = false) ∧
    (let r := asking .port (.cas 0 1 false)
     let s : State := { cached 63 with reqs := [(1, r)] }
     s.reqs.filter (servable s (portOf 0x4000)) = [(1, r)] ∧ hbmPoisoned s r.pa r.size = false) := by
  dsimp only; (repeat' apply And.intro) <;> decide

/-- Leaf (255, 0) at its port's link, leaf 0 beside leaf 1, and a link over its limit. -/
theorem witness_ErrorsHandled :
    linkEnd 255 1 = some (.port 32) ∧ linkEnd 0 1 = some (.leaf 1) ∧ ((stand 0x1200FE7F).gath 0).isSome = true ∧
    (let s : State := { State.reset with meshBad := [(1, 16)] }
     linkKey 0 1 = 1 ∧ linkKey 1 3 = 1 ∧ 16 ≤ (tget s.meshBad (linkKey 1 3)).getD 0) ∧
    (let s := (fed (stand 0x1200FE7F))
     (s.leaf 0).gath = some 0 ∧ headIn (s.leaf 0) 0 = some 5 ∧ (s.gath 0).isSome = true ∧ ((s.leaf 0).inputs.getD 5 {}).held = [doneTok] ∧
      ∀ f ∈ [none, some true, some false],
        (((s.modLeaf 0 fun l => { l with inputs := lmod l.inputs 5 fun i => { i with flaw := f } }).leaf 0).inputs.getD 5 {}).flaw = f) ∧
    isAperture (64 * 999999999) = false ∧ isBacked (64 * 999999999) = true ∧
    (let s := gathered fun y => { y with staged := [{ port := 255, pa := 0, home := 0, op := .store [] }] }
     (s.gath 0).map (fun x => (x.staged.any fun y => y.port == 255, x.queue.length)) = some (true, 0)) := by
  dsimp only; (repeat' apply And.intro) <;> decide

/-- An eviction request for the sequence at VA and PA 0x4000, of no pages, with its free list at VA 0 of the same page, its gate word and
its descriptor; its engine has walked that page and had n turns. -/
def evicting (begun : Bool) (gate : Nat) (desc : List Byte) (n : Nat := 3) (fin : Option KvEnd := none) (done : Nat := 0) : State × EvictReq :=
  let r : EvictReq :=
    { claim := ⟨wordCore, 0, 0⟩, gath := none, inst := 0, ctx := 0, seq := 0x4000, pa := 0x4000, done, dval := 0, begun, fin }
  let s := if n = 0 then paged (stand 0x9A04867F) else walked (paged (stand 0x9A04867F)) (.evict 63) 0 hubPlace 0 n
  ({ s with hbm := (s.hbm.write 0x4000 desc).write 0x4020 (bytesOf 8 gate), evicts := [(63, [r])] }, r)

/-- What the planning of an eviction answers: 0 a plan, 1 a failure, 2 a wait. -/
def planned (x : State × EvictReq) : Nat :=
  match kvPlan x.1 (some 63) x.2 with
  | .ok _ => 0
  | .error f => if (f.fault.bind fun y => y.wait).isSome then 2 else 1

set_option maxRecDepth 20000 in
theorem witness_EvictionsServed :
    (let x := evicting false 0 []
     ((tget x.1.evicts 63).getD []).find? (fun r => !r.begun) = some x.2 ∧
      (portGate x.1 (.gate 63) x.2.ctx (x.2.pa + 0x20) 8).2 = true ∧ field (x.1.hbm.read (x.2.pa + 0x20) 8) 0 8 = 0) ∧
    (let x := evicting false (2 ^ 32) []
     ((tget x.1.evicts 63).getD []).find? (fun r => !r.begun) = some x.2 ∧
      testBit (field (x.1.hbm.read (x.2.pa + 0x20) 8) 0 8) 32 = true) ∧
    (let x := evicting true (2 ^ 32) (zeros 28 ++ [3])
     ((tget x.1.evicts 63).getD []).find? (fun r => r.begun) = some x.2 ∧ planned x = 0) ∧
    planned (evicting true (2 ^ 32) [1]) = 1 ∧ planned (evicting true (2 ^ 32) (zeros 28 ++ [3]) 1) = 2 := by
  dsimp only; (repeat' apply And.intro) <;> decide

/-- An eviction whose `STATUS` stands to be written, its turn had or not, and one whose done word does: none, one at VA 8, its turn had or
not, and one at a VA of no context. -/
theorem witness_EvictionsServed_ends :
    (let x := evicting true (2 ^ 32) [] 1 (some { code := 2 })
     ((tget x.1.evicts 63).getD []).find? (fun r => r.begun) = some x.2 ∧
      (kvTurns x.1 (some 63) accStore x.2.seq (x.2.pa + 0x24) 4).isOk = true) ∧
    (match kvTurns (evicting true (2 ^ 32) [] 0 (some { code := 2 })).1 (some 63) accStore 0x4000 0x4024 4 with
      | .ok _ => false
      | .error f => (f.fault.bind fun y => y.wait).isSome) = true ∧
    (let parts := fun (n done : Nat) =>
      match kvParts (some 63) 0 accStore [(done, 8)] [] (evicting true (2 ^ 32) [] n (some { code := 2, wrote := true }) done).1 with
      | .ok _ => 0
      | .error f => if (f.fault.bind fun y => y.wait).isSome then 2 else 1
     parts 1 8 = 0 ∧ parts 0 8 = 2 ∧ parts 1 (2 ^ 52) = 1) := by
  dsimp only; (repeat' apply And.intro) <;> decide


/-! ### Flezal -/

/-- A packet from package 5 on channel 3 of CTX0. -/
def packetOf (kind : PacketKind) (num aux : Nat) (daddr : Nat := 0) (data : List Byte := []) : Packet :=
  { kind, ctx := 0, src := 5, dst := 0, chan := 3, num := BitVec.ofNat 32 num, daddr := BitVec.ofNat 40 daddr, len := 0, opw := 0,
    aux := BitVec.ofNat 15 aux, data }

/-- The receiver and the sender entry of that channel. -/
def linked (r : Receiver := { src := 5, ctx := 0, index := 3 }) (e : Sender := { ctx := 0, index := 3, dst := 5 }) : State :=
  { stand 0x1200FE7F with receivers := [(9, r)], senders := [(7, e)] }

/-- A write waits to be numbered; an arrival 4,096 ahead of H; the next PUT of H = 2^32 − 1. -/
theorem witness_CountedWrites :
    (let w : SendWrite := { kind := 0, lop := 0, daddr := 0x1000, data := zeros 64 }
     let s := linked { src := 5, ctx := 0, index := 3 } { ctx := 0, index := 3, dst := 5, a := 0xFFFFFFFF, d := 0xFFFFFFFF, waits := [w] }
     (tget s.senders 7).map (fun (e : Sender) => (e.dones.isEmpty, e.waits.length, mayNumber e w)) = some (true, 1, true)) ∧
    (let p := packetOf .push 4096 0
     (receiverOf (linked) p).map (fun x => (x.1, x.2.broken, x.2.arrived.contains 4096, x.2.held.isEmpty)) = some (9, false, false, true) ∧
      1 ≤ dist32 p.num.toNat 0 ∧ dist32 p.num.toNat 0 ≤ 4096) ∧
    (let p := packetOf .put 0 0 0x1000 (zeros 64)
     let s := linked { src := 5, ctx := 0, index := 3, h := 0xFFFFFFFF, top := 0xFFFFFFFF }
     (receiverOf s p).map (fun x => (x.2.broken, x.2.arrived.isEmpty && x.2.held.isEmpty && x.2.loads.isEmpty,
        decide (p.num.toNat = (x.2.h + 1) % 2 ^ 32))) = some (false, true, true) ∧
      p.aux.toNat % 4096 = 0 ∧ (paBad s 0 p.daddr.toNat p.data.length).isNone = true) := by
  dsimp only; (repeat' apply And.intro) <;> decide

/-- The re-read, with tag 4,095, of a watch on a word of package 5. -/
def sleeping : State :=
  { withChannel (stand 0x1200FE7F) with
    rereads := [(1, { core := wordCore, gath := some 0, ctx := 0, home := 5, pa := 0x1000, size := 8, tag := 4095 })] }

theorem witness_FlagsAndReads_reads :
    (receiverOf (linked) (packetOf .rload 0 0)).map (fun x => (x.1, x.2.broken)) = some (9, false) ∧
    (let s : State := { linked with reqs := [(1, { asking (.remote 4095) with home := 5 })] }
     (requestOf s 4095).map (fun x => (x.2.home, ((s.gath 0).map fun g => g.staged.isEmpty))) = some (5, some true)) ∧
    ((requestOf sleeping 4095).isNone = true ∧ (rereadOf sleeping 4095).map (fun x => (x.1, x.2.home)) = some (1, 5) ∧
      (packetOf .rdata 0 4095).src.toNat = 5) := by
  dsimp only; (repeat' apply And.intro) <;> decide

theorem witness_FlagsAndReads_flags :
    (let p := packetOf .flag 0 15
     (receiverOf (linked { src := 5, ctx := 0, index := 3, nextF := 0 }) p).map (fun x => (x.2.broken, x.2.flags.isEmpty)) =
       some (false, true) ∧ dist15 p.aux.toNat 0 ≤ 15) ∧
    (let p := packetOf .flag 0 1 0x1000 (zeros 8)
     let r : Receiver := { src := 5, ctx := 0, index := 3, flags := [p] }
     (r.flags.find? fun p => p.aux.toNat == r.nextF) = some p ∧ r.covers p.num.toNat = true ∧ p.daddr.toNat ≠ 0 ∧
      (paBad (linked r) 0 p.daddr.toNat 8).isNone = true) ∧
    (let f : OutFlag := { index := 1, upto := 0, addr := 0, value := 0, dval := 0, done := 0, isFlag := false, core := none, gath := none, inst := 0 }
     let e : Sender := { ctx := 0, index := 3, dst := 5, flags := [f] }
     let p := packetOf .flagdone 0 1
     (senderOf (linked {src := 5, ctx := 0, index := 3} e) p).map (fun x => (x.1, x.2.broken, x.2.dones.isEmpty)) = some (7, false, true) ∧
      (coverTo e p.num.toNat).flags.find? (fun f => f.index == p.aux.toNat) = some f) ∧
    (senderOf (linked) (packetOf .resend 1 0)).map (fun x => (x.1, x.2.broken)) = some (7, false) := by
  dsimp only; (repeat' apply And.intro) <;> decide

/-- A `FLAG` of a core that is acknowledged, with its `DONE` (a word at VA 8, an object at 0x6000). -/
def flagged (core : CoreId) (gath : Option Nat) (done : Nat) : OutFlag :=
  { index := 1, upto := 0, addr := 0, value := 0, dval := 5, done, isFlag := true, core := some core, gath, inst := 0 }

/-- The object of a `FLAG` of a control core, of a strand of a bound gathering and of a saved one, and its done word, whose turn is due or
not. -/
theorem witness_FlagsAndReads_done :
    (∀ f ∈ [flagged (.control 0) none 0, flagged (.control 0) none (0x180 * 2 ^ 52), flagged wordCore (some 0) (0x180 * 2 ^ 52),
        flagged wordCore (some 9) (0x180 * 2 ^ 52), flagged (.control 15) none 8],
      let e : Sender := { ctx := 0, index := 3, dst := 5, flags := [f] }
      let p := packetOf .flagdone 0 1
      (senderOf (linked { src := 5, ctx := 0, index := 3 } e) p).map (fun x => (x.1, x.2.broken, x.2.dones.isEmpty)) = some (7, false, true) ∧
        (coverTo e p.num.toNat).flags.find? (fun f => f.index == p.aux.toNat) = some f) ∧
    (doneWord (0x180 * 2 ^ 52) = 0 ∧ doneMbar (0x180 * 2 ^ 52) = 0x6000 ∧ doneWord 8 = 8 ∧ doneMbar 8 = 0) ∧
    (let s : State := { linked with insts := [(0, oneInst .nowhere)] }
     instLive s 0 = true ∧ (mbarUpdate s (.control 0) 0x6000 (Mbar.arrive 1)).isSome = true ∧
      (s.leaf 0).gath = some 0 ∧ padPoisoned s wordCore 0x6000 16 = false ∧ (mbarUpdate s wordCore 0x6000 (Mbar.arrive 1)).isSome = true ∧
      ((tget s.papers 9).any fun p => leafPoisoned ((tget p.leaves 0).getD {}) 0x6000 16) = false) ∧
    (let turned := fun (s : State) => match engineTrans s (.channel 7) hubPlace 0 8 accStore false with
      | .ok (x, t) => if x.home = s.pkg ∧ (allTurns t (.channel 7) accStore 8 (portParts x.pa 4)).isOk then 0 else 1
      | .error y => if y.wait.isSome then 2 else 3
     turned (walked (paged linked) (.channel 7) 0 hubPlace 8 1) = 0 ∧ turned (paged linked) = 2) := by
  dsimp only; (repeat' apply And.intro) <;> decide

theorem witness_TimersAndLinks :
    (let r : Receiver := { src := 5, ctx := 0, index := 3, top := 2, failed := 3, lastH := some 0 }
     (tget (linked r).receivers 9).map (fun (r : Receiver) => (r.broken, decide (r.h ≠ r.top))) = some (false, true)) ∧
    (let f : OutFlag := { index := 1, upto := 0, addr := 0, value := 0, dval := 0, done := 0, isFlag := false, core := none, gath := none, inst := 0, tries := 2 }
     let e : Sender := { ctx := 0, index := 3, dst := 5, flags := [f, { f with index := 2, tries := 3 }] }
     (e.flags.find? fun f => f.index == (1 : BitVec 15).toNat).map (fun f => decide (f.tries < 3)) = some true ∧
     (e.flags.find? fun f => f.index == (2 : BitVec 15).toNat).map (fun f => decide (3 ≤ f.tries)) = some true) ∧
    (let e : Sender := { ctx := 0, index := 3, dst := 5, a := 1 }
     e.flags.isEmpty = true ∧ e.broken = false ∧ e.a ≠ e.d) ∧
    (let s : State := { withChannel (stand 0x1200FE7F) with reqs := [(1, { asking (.remote 4095) with home := 5, sent := 2 })] }
     let s := s.modContext 0 fun k => { k with channels := [(4, 3 * 2 ^ 28 + 5 * 2 ^ 20 + 7)] }
     implicitSender s 0 5 = some 7 ∧ (tget s.reqs 1).map (fun (r : Request) => (r.stage, r.sent)) = some (.remote 4095, 2)) ∧
    (tget sleeping.reqs 1 = none ∧ (tget sleeping.rereads 1).map Reread.tag = some 4095) ∧
    (let s : State := { State.reset with linkDrops := [(15, 64)] }
     64 ≤ (tget s.linkDrops 15).getD 0 ∧ s.linkDown.contains 15 = false) ∧
    (let s : State := { State.reset with pkg := 255 }
     let p := packetOf .put 0 0
     p.dst.toNat ≠ s.pkg ∧ s.linkDown.contains (portToward s p) = false) := by
  dsimp only; (repeat' apply And.intro) <;> decide

/-- A packet in transit whose link is down, whichever link that is. -/
theorem witness_TimersAndLinks_down :
    let p := packetOf .put 0 0
    let s : State := { State.reset with pkg := 255, linkDown := List.range 16 }
    p.dst.toNat ≠ s.pkg ∧ s.linkDown.contains (portToward s p) = true :=
  ⟨by decide, by simpa [portToward] using Nat.mod_lt _ (by decide)⟩

/-! ### Platform -/

theorem witness_PlatformEvents_boot :
    State.reset.booted = false ∧ State.reset.bootSt = 0 ∧
    (let s : State := { State.reset with booted := true }
     (s.folios.getD 7 {}).admitted = false ∧ (s.folios.getD 7 {}).tested = false) ∧
    (State.reset.core 15).halted = false ∧
    (let b : Batch := { claim := ⟨.control 0, 0, 0⟩, slots := [(262143, 0)], images := [(262143, [])], bad := false, upto := 1 }
     let s : State := { State.reset with batches := [b] }
     s.batches = [b] ∧ batchLanded s b = true ∧ (b.slots.any fun p => slotHeld s p.1) = false ∧ (firstUnreadable b []).isNone = true ∧
      batchLanded { s with batches := [{ b with bad := true }] } { b with bad := true } = true) := by
  dsimp only; (repeat' apply And.intro) <;> decide

/-- Quire 4,095, waking, of an admitted folio; off, and in another state. -/
def wakingAt (p : Power) : State :=
  let s : State := { State.reset with folios := List.replicate 8 { admitted := true } }
  s.modQuire 4095 fun q => { q with waking := true, power := p }

theorem witness_PlatformEvents_power :
    ((wakingAt .off).quire 4095).waking = true ∧ quiresUsable (wakingAt .off) [4095] = true ∧ ((wakingAt .off).quire 4095).power = .off ∧
    ((wakingAt .retain).quire 4095).power ≠ .off ∧ (wakingAt .off).pool = [] := by
  (repeat' apply And.intro) <;> decide

/-- Quire 0 active, covered by an entry of CTX1 in the pool, and held by no gathering. -/
theorem witness_PlatformEvents_rest :
    let e : PoolEntry := { ctx := 1, inst := 3, tag := 0, node := 0, kind := .fabric, order := 0, places := wordGath.nodes }
    let s : State := { resident 1 {} with pool := [(0, e)], insts := [(3, oneInst .nowhere)] }
    let s := s.modQuire 0 fun q => { q with power := .active }
    (holderOf s 0).isSome = false ∧ promised s [0] = false ∧ (s.quire 0).waking = false ∧ (s.quire 0).mapped = false ∧
      restState s 0 ≠ .off ∧ (s.quire 0).power ≠ .off := by
  dsimp only; (repeat' apply And.intro) <;> decide


/-! ### Decoding, steps, delivery and frames -/

theorem witness_DecodeEncode :
    encode (.add .w8 true true (.opnd .t 63) (.port 7)) = some 0x21E37E47 ∧
    (Instr.add .w8 true true (.opnd .t 63) (.port 7)).wf = true := by decide

theorem witness_StepRunsDecoded :
    (let s := stand 0x20207D05
     s.agenda = [.issue wordCore 0] ∧
      (match decode (s.slot wordCore 0).word with
        | .ok x => decide (x = .add .w64 false true (.reg 62) (.opnd .r 5))
        | .error _ => false) = true ∧
      isNext (step s) = true) ∧
    (let s : State := { State.reset with agenda := [.event .fwsqDoorbell], fwTail := 3 }
     (match step s with
      | .next t => t.fwSeen == 3 && t.tick == 1 && t.agenda.isEmpty
      | _ => false) = true) ∧
    (let s : State := { State.reset.modCore 15 (fun k => { k with started := true }) with agenda := [.outside (.msi 15)] }
     (match step s with
      | .next t => (t.core 15).irq
      | _ => false) = true) ∧
    ({ State.reset with tick := 7 } : State).agenda = [] ∧ (stand 0).hasCore wordCore = true ∧ State.reset.hasCore (.control 15) = true := by
  dsimp only; (repeat' apply And.intro) <;> decide

theorem witness_ArrivalsCounted :
    let s := (stand 0x20207D05).modSlot wordCore 0 fun x => { x with l := { targeted := true, pending := 2 } }
    s.hasCore wordCore = true ∧
    ((s.strand wordCore).block.bind fun b => (b.slots[0]?).map fun x => ((x.opnd .l).value.isNone, (x.opnd .l).pending)) =
      some (true, ([none, some 5] : List (Option Word)).length) ∧
    (([none, some 5] : List (Option Word)).filter Option.isSome).length = 1 ∧
    ((s.strand wordCore).block.bind fun b => (b.slots[0]?).map fun x => ((x.opnd .r).pending)) =
      some ([] : List (Option Word)).length := by
  dsimp only; (repeat' apply And.intro) <;> decide

/-- The block that `fetching` fetches, with another header word. -/
def fetchingHead (h : Nat) : State := { fetching with hbm := fetching.hbm.write 0x4000 (bytesOf 4 h) }

/-- Header words with NOUT 0, KIND 1 and 3, a reserved bit, and a handler block on a leaf. -/
theorem witness_HeaderChecked :
    ([0, 0xA0000, 0xE0000, 0x90000, 0xC0000].all fun h =>
      let s := fetchingHead h
      (s.strand wordCore).wait != .stalled && mayFetch s wordCore && (s.strand wordCore).pc % 4 == 0 &&
        match fetchWords s wordCore 0x4000 with
        | .ok (some ws, _) => ws.getD 0 0 == BitVec.ofNat 32 h
        | _ => false) = true := by decide

/-- NULL at L of a value, an effect and a control instruction. -/
theorem witness_Nullified :
    let s := fun (w : Word32) => (stand w).modSlot wordCore 0 fun x => { x with l := { targeted := true } }
    (nulls (s 0x06438001) (.movhi (.port 3) 0x8001) ∧ encode (.movhi (.port 3) 0x8001) = some 0x06438001 ∧
      (formOf (.movhi (.port 3) 0x8001)).cls = .value) ∧
    (nulls (s 0x830F7E81) (.stl .device false .s16 (.opnd .t 63) (.opnd .l 1)) ∧
      (formOf (.stl .device false .s16 (.opnd .t 63) (.opnd .l 1))).cls = .effect) ∧
    (nulls (s 0xA81CFE7F) (.spush .data 7 .none .none) ∧ (formOf (.spush .data 7 .none .none)).cls = .effect) ∧
    (nulls (s 0x0B200001) (.br .gez 0x200001) ∧ (formOf (.br .gez 0x200001)).cls = .control) := by
  dsimp only; (repeat' apply And.intro) <;> decide

theorem witness_AddressesChecked :
    (fires (stand 0x80A8867F 0x40000) (.ldl .gathering true .z16 (.port 3) .none) ∧ Config.leafBytes ≤ (stand 0x80A8867F 0x40000).opL.toNat) ∧
    (fires (stand 0x830F7E81 0x3FFFF) (.stl .device false .s16 (.opnd .t 63) (.opnd .l 1)) ∧ (0x3FFFF : Nat) % accSize .s16 ≠ 0) ∧
    (fires (standCore 0x80A8867F 0x80000) (.ldl .gathering true .z16 (.port 3) .none) ∧ Config.localBytes ≤ (0x80000 : Nat)) ∧
    (fires (stand 0x85B20A3E 0x10000000000000) (.ldg .system true .z32 (.opnd .r 5) (.reg 62)) ∧
      2 ^ 52 ≤ (stand 0x85B20A3E 0x10000000000000).opL.toNat) ∧
    (fires (stand 0x8614FE43 2) (.stg .leaf false .s32 .none (.port 3)) ∧ (2 : Nat) % accSize .s32 ≠ 0) := by
  (repeat' apply And.intro) <;> decide

/-- Operands of the other accesses at the first address out of range and one byte off. -/
theorem witness_AddressesChecked_others :
    fires (stand 0x88C103BF 0x40000) (.atomlAdd .gathering .rel (.opnd .l 1) (.opnd .t 63)) ∧
    fires (stand 0x883C7D05 0x40000) (.atomlFadd .leaf .acq (.reg 62) (.opnd .r 5)) ∧
    fires (stand 0x8CD20A3E 0x40000) (.casl .gathering .rel .z32 (.opnd .r 5) (.reg 62)) ∧
    fires (looped (stand 0xAA377E81 0x40000)) (.spop true 5 (.opnd .t 63) (.opnd .l 1)) ∧
    fires (stand 0x9400867F 0x40000) (.mbarInit (.port 3) .none) ∧
    fires (stand 0x88C103BF 0x3FFF9) (.atomlAdd .gathering .rel (.opnd .l 1) (.opnd .t 63)) ∧
    fires (stand 0x883C7D05 0x3FFF9) (.atomlFadd .leaf .acq (.reg 62) (.opnd .r 5)) ∧
    fires (stand 0x8CD20A3E 0x3FFF9) (.casl .gathering .rel .z32 (.opnd .r 5) (.reg 62)) ∧
    fires (looped (stand 0xAA377E81 0x3FFF9)) (.spop true 5 (.opnd .t 63) (.opnd .l 1)) ∧
    fires (stand 0x9400867F 0x3FFF9) (.mbarInit (.port 3) .none) ∧
    coreBound (looped (stand 0xAA377E81 0x40000)) 0 5 = true := by
  (repeat' apply And.intro) <;> decide

/-- An object out of KEEP, and in it with an operand at each limit. -/
theorem witness_AddressesChecked_barriers :
    fires (stand 0x9400867F 0) (.mbarInit (.port 3) .none) ∧ inKeep (stand 0x9400867F 0) wordCore 0 = false ∧
    fires (standKeep 0x9400867F 0x57C0 0 ⟨2, 2, 0, 0⟩) (.mbarInit (.port 3) .none) ∧
    fires (standKeep 0x9400867F 0x57C0 0x80000000 ⟨2, 2, 0, 0⟩) (.mbarInit (.port 3) .none) ∧
    fires (standKeep 0x94077E81 0x57C0 0 ⟨2, 2, 0, 0⟩) (.mbarArrive (.opnd .t 63) (.opnd .l 1)) ∧
    fires (standKeep 0x94077E81 0x57C0 3 ⟨2, 2, 0, 0⟩) (.mbarArrive (.opnd .t 63) (.opnd .l 1)) ∧
    fires (standKeep 0x940CFE43 0x57C0 0x100000000 ⟨2, 2, 0, 0⟩) (.mbarTest .none (.port 3)) := by
  (repeat' apply And.intro) <;> decide

theorem witness_AddressesChecked_object :
    let s := standKeep 0x94077E81 0x57C0 3 ⟨2, 2, 0, 0⟩
    inKeep s wordCore 0x57C0 = true ∧ (mbarAt s wordCore 0x57C0).pend = 2 := by decide

/-- A control core with a fault of its own, with an interrupt at a block boundary, and at the end of its handler. -/
theorem witness_HandlerEntered :
    (let s := (standCore 0x20207D05).modCore 0 fun k => { k with cause := some (0x4000, 0x0114, 0) }
     (0 : Nat) < s.cores.length ∧ (s.core 0).started = true ∧ (s.core 0).halted = false ∧ (s.core 0).handler = false ∧
      (s.core 0).cause = some (0x4000, 0x0114, 0)) ∧
    (let s := State.reset.modCore 15 fun k => { k with started := true, irq := true }
     (s.core 15).started = true ∧ (s.core 15).cause = none ∧ (s.core 15).irq = true ∧ (s.core 15).strand.block = none ∧
      (s.core 15).strand.faulted = false) ∧
    (let s := (standCore 0xEA00FE7F 0 0 true).modBlock (.control 0) fun b => { b with moves := [.eret] }
     ((s.core 0).strand.block.map fun b => b.moves == [.eret] && b.sys.isEmpty) = some true ∧ (s.core 0).handler = true) := by
  dsimp only; (repeat' apply And.intro) <;> decide

theorem witness_ValuesFrame :
    valueInstr (.add .w64 false true (.reg 62) (.opnd .r 5)) = true ∧
    isNext (exec (.add .w64 false true (.reg 62) (.opnd .r 5)) (stand 0x20207D05)) = true ∧
    (standCore 0x20207D05).me = .control 0 ∧ ((standCore 0x20207D05).core 0).handler = false ∧
    isNext (exec (.add .w64 false true (.reg 62) (.opnd .r 5)) (standCore 0x20207D05)) = true := by decide

theorem witness_StoresFrame :
    (stand 0x830F7E81 0x3FFFE).sound = true ∧
    storeOf (stand 0x830F7E81 0x3FFFE) (.stl .device false .s16 (.opnd .t 63) (.opnd .l 1)) = some (0x3FFFE, 2) ∧
    isNext (exec (.stl .device false .s16 (.opnd .t 63) (.opnd .l 1)) (stand 0x830F7E81 0x3FFFE)) = true := by
  (repeat' apply And.intro) <;> decide

theorem witness_StepKeepsSound :
    State.reset.sound = true ∧ (stand 0x20207D05).sound = true ∧ isNext (step (stand 0x20207D05)) = true := by
  (repeat' apply And.intro) <;> decide


end Sys2Proof.Tests
end

section
/-!
Family 07, scalar part: comparison, selection, bit fields, immediates and the carry addition (R150 to R155).
-/

namespace Sys2Proof.Machine

/-! ### Bits of an operand -/

theorem testBit_toNat (v : Word) (i : Nat) : testBit v.toNat i = v.getLsbD i := by
  rw [BitVec.getLsbD, Nat.testBit_eq_decide_div_mod_eq]; rfl

/-! ### The shifts of Table 4 (R149) in bit vectors, for every width and signedness -/

/-- The code of an operand is its low bits, whatever its signedness. -/
theorem codeOf_intIn (n : Nat) (sgn : Bool) (v : Word) : codeOf n (intIn n sgn v) = (v.setWidth n).toNat := by
  rw [codeOf_eq, ofInt_intIn]

theorem ofInt_intX_shl (n : Nat) (sgn : Bool) (v : Word) (b : Int) (c : Nat) :
    BitVec.ofInt n (intX .shl n (intIn n sgn v) b c) = v.setWidth n <<< c := by
  have hpow : BitVec.ofNat n (2 ^ c) = BitVec.twoPow n c :=
    BitVec.eq_of_toNat_eq (by rw [BitVec.toNat_ofNat, BitVec.toNat_twoPow])
  rw [intX, BitVec.ofInt_mul, ofInt_intIn, BitVec.ofInt_natCast, hpow, BitVec.shiftLeft_eq_mul_twoPow]

theorem ofInt_intX_shr (n : Nat) (sgn : Bool) (v : Word) (b : Int) (c : Nat) :
    BitVec.ofInt n (intX .shr n (intIn n sgn v) b c) = v.setWidth n >>> c := by
  rw [intX, codeOf_intIn, BitVec.ofInt_natCast, ← Nat.shiftRight_eq_div_pow, ← BitVec.toNat_ushiftRight,
    BitVec.ofNat_toNat, BitVec.setWidth_eq]

theorem ofInt_intX_sar (n : Nat) (sgn : Bool) (v : Word) (b : Int) (c : Nat) :
    BitVec.ofInt n (intX .sar n (intIn n sgn v) b c) = (v.setWidth n).sshiftRight c := by
  rw [intX, codeOf_intIn, signExtend_ofNat _ _ (v.setWidth n).isLt, BitVec.ofNat_toNat, BitVec.setWidth_eq,
    BitVec.sshiftRight_eq, Int.shiftRight_eq_div_pow]

/-- A number times 2^c, split at bit n: what stays below it and what leaves it do not overlap when c is below n. -/
theorem mod_add_div_eq_or {n c a : Nat} (hc : c < n) (ha : a < 2 ^ n) :
    a * 2 ^ c % 2 ^ n + a * 2 ^ c / 2 ^ n = a * 2 ^ c % 2 ^ n ||| a / 2 ^ (n - c) := by
  have hn : 2 ^ n = 2 ^ c * 2 ^ (n - c) := by rw [← pow_add, Nat.add_sub_cancel' hc.le]
  have hlow : a / 2 ^ (n - c) < 2 ^ c := Nat.div_lt_of_lt_mul (by rwa [mul_comm, ← hn])
  rw [mul_comm a, hn, Nat.mul_mod_mul_left, Nat.mul_div_mul_left _ _ (by positivity),
    Nat.two_pow_add_eq_or_of_lt hlow]

theorem ofInt_intX_rot {n c : Nat} (hc : c < n) (sgn : Bool) (v : Word) (b : Int) :
    BitVec.ofInt n (intX .rot n (intIn n sgn v) b c) = (v.setWidth n).rotateLeft c := by
  have ha := (v.setWidth n).isLt
  rw [intX, codeOf_intIn, BitVec.ofInt_natCast, mod_add_div_eq_or hc ha]
  apply BitVec.eq_of_toNat_eq
  rw [BitVec.toNat_rotateLeft, Nat.mod_eq_of_lt hc, Nat.shiftLeft_eq, Nat.shiftRight_eq_div_pow, BitVec.toNat_ofNat]
  exact Nat.mod_eq_of_lt (Nat.or_lt_two_pow (Nat.mod_lt _ (by positivity)) ((Nat.div_le_self _ _).trans_lt ha))

/-- Row 0x10 at width 64, unsigned and without `SAT`, with an immediate count: what `SHFI` delivers (R154). -/
theorem intOp_count (op : IOp) (l : Word) (cnt : BitVec 6) :
    (intOp op .w64 false false l (cnt.setWidth 64)).1 =
      BitVec.ofInt 64 (intX op 64 (intIn 64 false l) (intIn 64 false (cnt.setWidth 64)) cnt.toNat) := by
  have hcnt : (cnt.setWidth 64).toNat % 64 % 64 = cnt.toNat := by
    have := cnt.isLt
    rw [BitVec.toNat_setWidth]; omega
  rw [intOp_unsat]
  simp only [widthOf, extended, Bool.false_eq_true, if_false, BitVec.setWidth_eq, hcnt]

theorem intOp_shl_count (l : Word) (cnt : BitVec 6) :
    (intOp .shl .w64 false false l (cnt.setWidth 64)).1 = l <<< cnt.toNat := by
  rw [intOp_count, ofInt_intX_shl, BitVec.setWidth_eq]

theorem intOp_shr_count (l : Word) (cnt : BitVec 6) :
    (intOp .shr .w64 false false l (cnt.setWidth 64)).1 = l >>> cnt.toNat := by
  rw [intOp_count, ofInt_intX_shr, BitVec.setWidth_eq]

theorem intOp_sar_count (l : Word) (cnt : BitVec 6) :
    (intOp .sar .w64 false false l (cnt.setWidth 64)).1 = l.sshiftRight cnt.toNat := by
  rw [intOp_count, ofInt_intX_sar, BitVec.setWidth_eq]

theorem intOp_rot_count (l : Word) (cnt : BitVec 6) :
    (intOp .rot .w64 false false l (cnt.setWidth 64)).1 = l.rotateLeft cnt.toNat := by
  rw [intOp_count, ofInt_intX_rot cnt.isLt, BitVec.setWidth_eq]

/-! ### Nullification (R122) -/

/-- A NULL in a data T nullifies. -/
theorem nullified_of_data {f : Form} {x : Slot} (hf : f.t = .data) (hx : x.t.isNull = true) : nullified f x = true := by
  simp only [nullified, hf, hx, Bool.or_true]

/-- A nullified instruction that only delivers values delivers NULL to its targets. -/
theorem valueOp_nulls {s : State} {x : Instr} (h : nulls s x) (hx : (formOf x).cls = .value)
    (v : Word → Word → Word → Word) :
    valueOp (formOf x) s v = delivers s s (formOf x).ta (formOf x).tb none none := by
  rw [valueOp, perform_nulls h, nullify, hx]; rfl

/-! ### `SEL` (R151) -/

theorem exec_sel_fires {s : State} {tb ta : Target} (h : fires s (.sel tb ta)) :
    exec (.sel tb ta) s =
      delivers s s ta tb (some (if s.opT.getLsbD 0 then s.opL else s.opR))
        (some (if s.opT.getLsbD 0 then s.opL else s.opR)) := by
  rw [exec_sel, execSel, valueOp_fires h, testBit_toNat]; rfl

theorem exec_sel_null {s : State} {tb ta : Target} (hi : s.here.instr = some (.sel tb ta))
    (hr : ready s s.me s.focus.slot = true) (ht : s.here.t.isNull = true) :
    exec (.sel tb ta) s = delivers s s ta tb none none := by
  have h : nulls s (.sel tb ta) := ⟨hi, hr, nullified_of_data rfl ht⟩
  rw [exec_sel, execSel, valueOp_nulls h rfl]; rfl

/-- A field of a word that is written as a number. -/
theorem extractLsb'_ofNat {n : Nat} (hn : n < 2 ^ 32) (lo len : Nat) :
    (BitVec.ofNat 32 n).extractLsb' lo len = BitVec.ofNat len (n / 2 ^ lo) := by
  apply BitVec.eq_of_toNat_eq
  rw [BitVec.extractLsb'_toNat, BitVec.toNat_ofNat, BitVec.toNat_ofNat, Nat.mod_eq_of_lt hn, Nat.shiftRight_eq_div_pow]

/-- The fixed fields of the word of a `SEL`. -/
theorem encode_sel_fields {tb ta : Target} {w : Word32} (h : encode (.sel tb ta) = some w) :
    w.extractLsb' 25 7 = 0x21 ∧ w.extractLsb' 18 7 = 0 := by
  have hb := tb.code_lt
  have ha := ta.code_lt
  obtain rfl := Option.some.inj (show some (BitVec.ofNat 32 (0x42000000 + 512 * tb.code + ta.code)) = some w from h)
  have hop : (0x42000000 + 512 * tb.code + ta.code) / 2 ^ 25 = 0x21 := by omega
  have hfn : (0x42000000 + 512 * tb.code + ta.code) / 2 ^ 18 = 0x21 * 2 ^ 7 := by omega
  rw [extractLsb'_ofNat (by omega), extractLsb'_ofNat (by omega), hop, hfn]
  decide

/-! ### Comparisons (R150), immediate shifts (R154) and the carry addition (R155) -/

theorem exec_cmp_fires {s : State} {w : IntWidth} {sgn : Bool} {cc : ICmp} {tb ta : Target}
    (h : fires s (.cmp w sgn cc tb ta)) :
    let v : Word := if cmpHolds cc (intIn (widthOf w) sgn s.opL) (intIn (widthOf w) sgn s.opR) then 1 else 0
    exec (.cmp w sgn cc tb ta) s = delivers s s ta tb (some v) (some v) := by
  rw [exec_cmp, execCmp, valueOp_fires h, wordOfNat_natOfBool]; exact rfl

theorem exec_cmpi_fires {s : State} {ta : Target} {sgn : Bool} {cc : ICmp} {imm : BitVec 12}
    (h : fires s (.cmpi ta sgn cc imm)) :
    let v : Word := if cmpHolds cc (intIn 64 sgn s.opL) (intIn 64 sgn (imm.signExtend 64)) then 1 else 0
    exec (.cmpi ta sgn cc imm) s = delivers s s ta .none (some v) (some v) := by
  rw [exec_cmpi, execCmpi, valueOp_fires h, wordOfNat_natOfBool]; exact rfl

theorem exec_shfiShl_fires {s : State} {ta : Target} {cnt : BitVec 6} (h : fires s (.shfiShl ta cnt)) :
    exec (.shfiShl ta cnt) s =
      delivers s s ta .none (some (s.opL <<< cnt.toNat)) (some (s.opL <<< cnt.toNat)) := by
  rw [exec_shfiShl, execShfiShl, valueOp_fires h, intOp_shl_count]; rfl

theorem exec_shfiShr_fires {s : State} {ta : Target} {cnt : BitVec 6} (h : fires s (.shfiShr ta cnt)) :
    exec (.shfiShr ta cnt) s =
      delivers s s ta .none (some (s.opL >>> cnt.toNat)) (some (s.opL >>> cnt.toNat)) := by
  rw [exec_shfiShr, execShfiShr, valueOp_fires h, intOp_shr_count]; rfl

theorem exec_shfiSar_fires {s : State} {ta : Target} {cnt : BitVec 6} (h : fires s (.shfiSar ta cnt)) :
    exec (.shfiSar ta cnt) s =
      delivers s s ta .none (some (s.opL.sshiftRight cnt.toNat)) (some (s.opL.sshiftRight cnt.toNat)) := by
  rw [exec_shfiSar, execShfiSar, valueOp_fires h, intOp_sar_count]; rfl

theorem exec_shfiRot_fires {s : State} {ta : Target} {cnt : BitVec 6} (h : fires s (.shfiRot ta cnt)) :
    exec (.shfiRot ta cnt) s =
      delivers s s ta .none (some (s.opL.rotateLeft cnt.toNat)) (some (s.opL.rotateLeft cnt.toNat)) := by
  rw [exec_shfiRot, execShfiRot, valueOp_fires h, intOp_rot_count]; rfl

theorem exec_adc_fires {s : State} {w : IntWidth} {tb ta : Target} (h : fires s (.adc w tb ta)) :
    exec (.adc w tb ta) s =
      delivers s s ta tb (some (wordOfNat (adcSum (widthOf w) s.opL s.opR s.opT % 2 ^ widthOf w)))
        (some (wordOfNat (adcSum (widthOf w) s.opL s.opR s.opT / 2 ^ widthOf w))) := by
  rw [exec_adc, execAdc, perform_fires h]; rfl

/-- Settles O7: each instruction of row 0x20 is `valueOp` of its result, or, for `ADC`, `perform` with two results, so it
delivers by the rule of that shape; the rules above give `CMP`, `CMPI`, `SEL` and `SHFI` in the statement's own terms. -/
theorem integerOthersDeliver : Obligations.IntegerOthersDeliver := by
  intro s one
  refine ⟨?cmp, ?cmpi, ?sel, ?selNull, ?selWord, ?popc, ?clz, ?ctz, ?brev, ?bswap, ?bfx, ?bfi, ?lea, ?addi, ?andi, ?ori,
    ?xori, ?muli, ?shl, ?shr, ?sar, ?rot, ?adc⟩
  case cmp => exact fun _ _ _ _ _ => exec_cmp_fires
  case cmpi => exact fun _ _ _ _ => exec_cmpi_fires
  case sel => exact fun _ _ => exec_sel_fires
  case selNull => exact fun _ _ => exec_sel_null
  case selWord => exact fun _ _ _ => encode_sel_fields
  case popc => exact fun w _ _ h => bitcRow_fires h w popCount
  case clz => exact fun w _ _ h => bitcRow_fires h w leadZeros
  case ctz => exact fun w _ _ h => bitcRow_fires h w trailZeros
  case brev => exact fun w _ _ h => bitcRow_fires h w bitReverse
  case bswap => exact fun w _ _ h => bitcRow_fires h w byteSwap
  case bfx => exact fun _ sgn len lo h => valueOp_fires h fun l _ _ => bfxOf sgn lo.toNat (len.toNat + 1) l
  case bfi => exact fun _ _ h => valueOp_fires h bfiOf
  case lea => exact fun sh _ _ h => valueOp_fires h fun l r _ => l + r <<< sh.toNat
  case addi => exact fun _ imm h => valueOp_fires h fun l _ _ => l + imm.signExtend 64
  case andi => exact fun _ imm h => valueOp_fires h fun l _ _ => l &&& imm.signExtend 64
  case ori => exact fun _ imm h => valueOp_fires h fun l _ _ => l ||| imm.setWidth 64
  case xori => exact fun _ imm h => valueOp_fires h fun l _ _ => l ^^^ imm.setWidth 64
  case muli => exact fun _ imm h => valueOp_fires h fun l _ _ => l * imm.signExtend 64
  case shl => exact fun _ _ => exec_shfiShl_fires
  case shr => exact fun _ _ => exec_shfiShr_fires
  case sar => exact fun _ _ => exec_shfiSar_fires
  case rot => exact fun _ _ => exec_shfiRot_fires
  case adc => exact fun _ _ _ => exec_adc_fires

end Sys2Proof.Machine
end

section
/-!
Family 22: the check of a block's header when the block is fetched (R372).
-/

namespace Sys2Proof.Machine

/-! ### The fields of a header word (Table 2 of R372) -/

/-- The bits hi to lo of a machine word, as a number. -/
theorem bits_toNat {n : Nat} (v : BitVec n) (hi lo : Nat) :
    bits v.toNat hi lo = (v.extractLsb' lo (hi + 1 - lo)).toNat := by
  rw [bits, BitVec.extractLsb'_toNat, Nat.shiftRight_eq_div_pow]

theorem headNout_eq (h : Word32) : headNout h = (h.extractLsb' 19 7).toNat := bits_toNat h 25 19

theorem headKind_eq (h : Word32) : headKind h = (h.extractLsb' 17 2).toNat := bits_toNat h 18 17

theorem extractLsb'_zero_eq_zero_iff {n : Nat} (v : BitVec n) (len : Nat) :
    v.extractLsb' 0 len = 0 ↔ v.toNat % 2 ^ len = 0 := by
  rw [← BitVec.toNat_inj, BitVec.extractLsb'_toNat, Nat.shiftRight_zero, BitVec.ofNat_eq_ofNat, BitVec.toNat_zero]

/-! ### The header check -/

/-- A header of Table 2 of R372: it names outputs, its kind is one of the two, and its reserved bits are 0. -/
def headWellFormed (h : Word32) : Prop :=
  headNout h ≠ 0 ∧ headKind h ≠ 1 ∧ headKind h ≠ 3 ∧ h.toNat % 2 ^ 17 = 0

theorem not_headWellFormed_iff (h : Word32) : ¬ headWellFormed h ↔
    (h.extractLsb' 19 7).toNat = 0 ∨ (h.extractLsb' 17 2).toNat = 1 ∨ (h.extractLsb' 17 2).toNat = 3 ∨
      h.extractLsb' 0 17 ≠ 0 := by
  rw [headWellFormed, headNout_eq, headKind_eq, Ne, Ne, Ne, Ne, extractLsb'_zero_eq_zero_iff]
  tauto

/-- Fields come before the kind of block: a malformed header is class 0x0101 in every mode. -/
theorem checkHeader_malformed {h : Word32} (hh : ¬ headWellFormed h) (handler entry : Bool) :
    checkHeader h handler entry = some (none, 0x0101, 0) := by
  rw [checkHeader, if_pos (by rw [headWellFormed] at hh; tauto)]

theorem checkHeader_outsideHandler {h : Word32} (hh : headWellFormed h) (hk : headKind h = 2) (entry : Bool) :
    checkHeader h false entry = some (none, 0x010A, 0) := by
  obtain ⟨hnout, hone, hthree, hlow⟩ := hh
  rw [checkHeader, if_neg (by tauto), if_pos (.inl ⟨hk, rfl⟩)]

/-- What the header check finds, the decode check finds: it is the first of its checks. -/
theorem decodeCheck_of_checkHeader {h : Word32} {handler entry : Bool} {f : Option Nat × Nat × Nat}
    (hf : checkHeader h handler entry = some f) (ws : List Word32) (priv control : Bool) :
    decodeCheck h ws priv control handler entry = some f := by
  rw [decodeCheck, hf]

/-! ### Handler mode at a fetch -/

theorem inHandler_eq_false {s : State} {c : CoreId} (h : ∀ k, c = .control k → (s.core k.val).handler = false) :
    inHandler s c = false := by
  cases c with
  | strand => rfl
  | control k => exact h k rfl

@[simp] theorem core_tickClock (s : State) (f k : Nat) : (tickClock s f).core k = s.core k := by
  obtain ⟨folios, hubs, -, e⟩ := tickClock_form s f
  rw [e]; rfl

/-- The update of a strand, a control core's own or any other, leaves handler mode. -/
theorem handler_modStrand (s : State) (c : CoreId) (f : Strand → Strand) (k : Nat) :
    ((s.modStrand c f).core k).handler = (s.core k).handler := by
  cases c with
  | strand => rfl
  | control => simp only [State.modStrand, State.core_modCore]; split <;> rfl

theorem handler_startBlock (s : State) (c : CoreId) (a : Nat) (h : Word32) (ws : List Word32) (k : Nat) :
    ((startBlock s c a h ws).core k).handler = (s.core k).handler := by
  rw [startBlock, handler_modStrand, core_tickClock]

/-! ### A fetch whose words do not pass -/

theorem unstall_of_ne {s : State} {c : CoreId} (h : (s.strand c).wait ≠ .stalled) : unstall s c = s := by
  rw [unstall, if_neg fun hs => h hs.1]

/-- A fetch whose words fail a decode check: the block has taken its place, and its fault is what the check found (R367). -/
theorem exec_blockFetch_fault {s u : State} {c : CoreId} {ws : List Word32} {slot : Option Nat} {cls d : Nat}
    (hwait : (s.strand c).wait ≠ .stalled) (hmay : mayFetch s c = true) (hpc : (s.strand c).pc % 4 = 0)
    (hws : fetchWords s c (s.strand c).pc = .ok (some ws, u)) :
    let t := startBlock u c (s.strand c).pc (ws.getD 0 0) (ws.drop 1)
    decodeCheck (ws.getD 0 0) (ws.drop 1) (coreIsControl c || t.ctxOf c == 0) (coreIsControl c) (inHandler t c)
      (inHandler t c && (s.strand c).pc == 0) = some (slot, cls, d) →
    exec (.blockFetch c) s = .next (blockFault t c slot cls d) := by
  intro t hcheck
  rw [exec_blockFetch, execBlockFetch, unstall_of_ne hwait]
  simp only [hmay, hpc, hws, Bool.not_true, Bool.false_eq_true, ne_eq, not_true_eq_false, if_false]
  split
  case h_1 hfound =>
    obtain ⟨⟩ := hfound.symm.trans hcheck
    rfl
  case h_2 hnone => cases hnone.symm.trans hcheck

/-- Settles O54: what the header check finds is the fault of the fetch, since no decode check comes before it and the block that
takes its place leaves handler mode as it was. -/
theorem headerChecked : Obligations.HeaderChecked := by
  intro s u c ws hwait hmay hpc hws h nout kind malformed t
  have hfault : ∀ cls, (checkHeader h (inHandler t c) (inHandler t c && (s.strand c).pc == 0) = some (none, cls, 0)) →
      exec (.blockFetch c) s = .next (blockFault t c none cls 0) :=
    fun cls hhead => exec_blockFetch_fault hwait hmay hpc hws (decodeCheck_of_checkHeader hhead ..)
  have hform : malformed ↔ ¬ headWellFormed h := (not_headWellFormed_iff h).symm
  constructor
  · exact fun hbad => hfault _ (checkHeader_malformed (hform.mp hbad) ..)
  · intro hgood hkind hmode
    have hout : inHandler t c = false := inHandler_eq_false fun k hc => by rw [handler_startBlock, hmode k hc]
    apply hfault
    rw [hout]
    exact checkHeader_outsideHandler (not_not.mp (mt hform.mpr hgood)) ((headKind_eq h).trans hkind) _

end Sys2Proof.Machine
end

section
/-!
Encoding and steps as a whole: decoding gives back what encoding wrote (R117, R129, R131), and every step keeps the canonical form of
the memories and the sizes of the part's tables.
-/

namespace Sys2Proof.Laws

/-- Every instruction survives the round trip through its word; an event has none. -/
theorem roundTrip (i : Instr) : RoundTrip.Statement i := by
  cases i with
  | rd g tb ta => exact RoundTrip.rd g tb ta
  | movi ta imm => exact RoundTrip.movi ta imm
  | movhi ta imm => exact RoundTrip.movhi ta imm
  | mov tb ta => exact RoundTrip.mov tb ta
  | br cond off => exact RoundTrip.br cond off
  | call cond off => exact RoundTrip.call cond off
  | brr => exact RoundTrip.brr
  | rnd deadline => exact RoundTrip.rnd deadline
  | exit => exact RoundTrip.exit
  | tdone => exact RoundTrip.tdone
  | trap imm => exact RoundTrip.trap imm
  | bkpt imm => exact RoundTrip.bkpt imm
  | sysrd ta idx => exact RoundTrip.sysrd ta idx
  | syswr idx => exact RoundTrip.syswr idx
  | spawn tb ta => exact RoundTrip.spawn tb ta
  | null tb ta => exact RoundTrip.null tb ta
  | add width sgn sat tb ta => exact RoundTrip.add width sgn sat tb ta
  | sub width sgn sat tb ta => exact RoundTrip.sub width sgn sat tb ta
  | mul width sgn sat tb ta => exact RoundTrip.mul width sgn sat tb ta
  | mulh width sgn tb ta => exact RoundTrip.mulh width sgn tb ta
  | div width sgn tb ta => exact RoundTrip.div width sgn tb ta
  | rem width sgn tb ta => exact RoundTrip.rem width sgn tb ta
  | and width sgn tb ta => exact RoundTrip.and width sgn tb ta
  | or width sgn tb ta => exact RoundTrip.or width sgn tb ta
  | xor width sgn tb ta => exact RoundTrip.xor width sgn tb ta
  | andn width sgn tb ta => exact RoundTrip.andn width sgn tb ta
  | shl width sgn tb ta => exact RoundTrip.shl width sgn tb ta
  | shr width sgn tb ta => exact RoundTrip.shr width sgn tb ta
  | sar width sgn tb ta => exact RoundTrip.sar width sgn tb ta
  | rot width sgn tb ta => exact RoundTrip.rot width sgn tb ta
  | min width sgn tb ta => exact RoundTrip.min width sgn tb ta
  | max width sgn tb ta => exact RoundTrip.max width sgn tb ta
  | cmp width sgn cmp tb ta => exact RoundTrip.cmp width sgn cmp tb ta
  | sel tb ta => exact RoundTrip.sel tb ta
  | bitcPopc width tb ta => exact RoundTrip.bitcPopc width tb ta
  | bitcClz width tb ta => exact RoundTrip.bitcClz width tb ta
  | bitcCtz width tb ta => exact RoundTrip.bitcCtz width tb ta
  | bitcBrev width tb ta => exact RoundTrip.bitcBrev width tb ta
  | bitcBswap width tb ta => exact RoundTrip.bitcBswap width tb ta
  | bfx ta sgn lenM1 lo => exact RoundTrip.bfx ta sgn lenM1 lo
  | bfi tb ta => exact RoundTrip.bfi tb ta
  | lea sh tb ta => exact RoundTrip.lea sh tb ta
  | addi ta imm => exact RoundTrip.addi ta imm
  | andi ta imm => exact RoundTrip.andi ta imm
  | ori ta imm => exact RoundTrip.ori ta imm
  | xori ta imm => exact RoundTrip.xori ta imm
  | shfiShl ta cnt => exact RoundTrip.shfiShl ta cnt
  | shfiShr ta cnt => exact RoundTrip.shfiShr ta cnt
  | shfiSar ta cnt => exact RoundTrip.shfiSar ta cnt
  | shfiRot ta cnt => exact RoundTrip.shfiRot ta cnt
  | cmpi ta sgn cmp imm => exact RoundTrip.cmpi ta sgn cmp imm
  | muli ta imm => exact RoundTrip.muli ta imm
  | adc width tb ta => exact RoundTrip.adc width tb ta
  | fadd fmt rm pk sat tb ta => exact RoundTrip.fadd fmt rm pk sat tb ta
  | fsub fmt rm pk sat tb ta => exact RoundTrip.fsub fmt rm pk sat tb ta
  | fmul fmt rm pk sat tb ta => exact RoundTrip.fmul fmt rm pk sat tb ta
  | fma fmt rm pk sat tb ta => exact RoundTrip.fma fmt rm pk sat tb ta
  | fmin fmt pk prop tb ta => exact RoundTrip.fmin fmt pk prop tb ta
  | fmax fmt pk prop tb ta => exact RoundTrip.fmax fmt pk prop tb ta
  | fcmp fmt cmp tb ta => exact RoundTrip.fcmp fmt cmp tb ta
  | fcvt ta sat rm dst src => exact RoundTrip.fcvt ta sat rm dst src
  | fsfuRcp ta => exact RoundTrip.fsfuRcp ta
  | fsfuRsq ta => exact RoundTrip.fsfuRsq ta
  | fsfuSqrt ta => exact RoundTrip.fsfuSqrt ta
  | fsfuExp2 ta => exact RoundTrip.fsfuExp2 ta
  | fsfuLog2 ta => exact RoundTrip.fsfuLog2 ta
  | fsfuTanh ta => exact RoundTrip.fsfuTanh ta
  | fsfuSigm ta => exact RoundTrip.fsfuSigm ta
  | fsfuSinp ta => exact RoundTrip.fsfuSinp ta
  | fsfuCosp ta => exact RoundTrip.fsfuCosp ta
  | fclass fmt tb ta => exact RoundTrip.fclass fmt tb ta
  | qscale ta amax elem => exact RoundTrip.qscale ta amax elem
  | qcvt fmt rm sat tb ta => exact RoundTrip.qcvt fmt rm sat tb ta
  | qdeq fmt rm sat tb ta => exact RoundTrip.qdeq fmt rm sat tb ta
  | fsgnAbs fmt tb ta => exact RoundTrip.fsgnAbs fmt tb ta
  | fsgnNeg fmt tb ta => exact RoundTrip.fsgnNeg fmt tb ta
  | fsgnCopysign fmt tb ta => exact RoundTrip.fsgnCopysign fmt tb ta
  | ldl scope acq width tb ta => exact RoundTrip.ldl scope acq width tb ta
  | stl scope rel width tb ta => exact RoundTrip.stl scope rel width tb ta
  | ldg scope acq width tb ta => exact RoundTrip.ldg scope acq width tb ta
  | stg scope rel width tb ta => exact RoundTrip.stg scope rel width tb ta
  | atomlAdd scope ord tb ta => exact RoundTrip.atomlAdd scope ord tb ta
  | atomlAnd scope ord tb ta => exact RoundTrip.atomlAnd scope ord tb ta
  | atomlOr scope ord tb ta => exact RoundTrip.atomlOr scope ord tb ta
  | atomlXor scope ord tb ta => exact RoundTrip.atomlXor scope ord tb ta
  | atomlXchg scope ord tb ta => exact RoundTrip.atomlXchg scope ord tb ta
  | atomlSmin scope ord tb ta => exact RoundTrip.atomlSmin scope ord tb ta
  | atomlSmax scope ord tb ta => exact RoundTrip.atomlSmax scope ord tb ta
  | atomlFadd scope ord tb ta => exact RoundTrip.atomlFadd scope ord tb ta
  | atomgAdd scope ord tb ta => exact RoundTrip.atomgAdd scope ord tb ta
  | atomgAnd scope ord tb ta => exact RoundTrip.atomgAnd scope ord tb ta
  | atomgOr scope ord tb ta => exact RoundTrip.atomgOr scope ord tb ta
  | atomgXor scope ord tb ta => exact RoundTrip.atomgXor scope ord tb ta
  | atomgXchg scope ord tb ta => exact RoundTrip.atomgXchg scope ord tb ta
  | atomgSmin scope ord tb ta => exact RoundTrip.atomgSmin scope ord tb ta
  | atomgSmax scope ord tb ta => exact RoundTrip.atomgSmax scope ord tb ta
  | atomgFadd scope ord tb ta => exact RoundTrip.atomgFadd scope ord tb ta
  | casl scope ord width tb ta => exact RoundTrip.casl scope ord width tb ta
  | casg scope ord width tb ta => exact RoundTrip.casg scope ord width tb ta
  | fenceAcq ta xp scope => exact RoundTrip.fenceAcq ta xp scope
  | fenceRel ta xp scope => exact RoundTrip.fenceRel ta xp scope
  | fenceAr ta xp scope => exact RoundTrip.fenceAr ta xp scope
  | fenceXp ta scope => exact RoundTrip.fenceXp ta scope
  | waitaLeaf cond width tb ta => exact RoundTrip.waitaLeaf cond width tb ta
  | waitaRound cond width tb ta => exact RoundTrip.waitaRound cond width tb ta
  | waitaDev cond width tb ta => exact RoundTrip.waitaDev cond width tb ta
  | waitaSys cond width tb ta => exact RoundTrip.waitaSys cond width tb ta
  | mbarInit tb ta => exact RoundTrip.mbarInit tb ta
  | mbarArrive tb ta => exact RoundTrip.mbarArrive tb ta
  | mbarExpect tb ta => exact RoundTrip.mbarExpect tb ta
  | mbarTest tb ta => exact RoundTrip.mbarTest tb ta
  | mbarWait tb ta => exact RoundTrip.mbarWait tb ta
  | cpLd tb ta => exact RoundTrip.cpLd tb ta
  | cpSt tb ta => exact RoundTrip.cpSt tb ta
  | cpSend tb ta => exact RoundTrip.cpSend tb ta
  | cpMc tb ta => exact RoundTrip.cpMc tb ta
  | cpFib tb ta => exact RoundTrip.cpFib tb ta
  | flag tb ta => exact RoundTrip.flag tb ta
  | kvopMass tb ta => exact RoundTrip.kvopMass tb ta
  | kvopEvict tb ta => exact RoundTrip.kvopEvict tb ta
  | kvopStat tb ta => exact RoundTrip.kvopStat tb ta
  | flcfg u tb ta => exact RoundTrip.flcfg u tb ta
  | flgo u tb ta => exact RoundTrip.flgo u tb ta
  | flstat u tb ta => exact RoundTrip.flstat u tb ta
  | flstop u tb ta => exact RoundTrip.flstop u tb ta
  | spush kind port tb ta => exact RoundTrip.spush kind port tb ta
  | spop nb port tb ta => exact RoundTrip.spop nb port tb ta
  | sctlStatus port tb ta => exact RoundTrip.sctlStatus port tb ta
  | sctlDrain port tb ta => exact RoundTrip.sctlDrain port tb ta
  | sctlReset port tb ta => exact RoundTrip.sctlReset port tb ta
  | sbar tb ta => exact RoundTrip.sbar tb ta
  | rtset port tb ta => exact RoundTrip.rtset port tb ta
  | kettle tb ta => exact RoundTrip.kettle tb ta
  | vpcfg tb ta => exact RoundTrip.vpcfg tb ta
  | vpgo tb ta => exact RoundTrip.vpgo tb ta
  | vpstat tb ta => exact RoundTrip.vpstat tb ta
  | vpconst stage tb ta => exact RoundTrip.vpconst stage tb ta
  | tldLa tb ta => exact RoundTrip.tldLa tb ta
  | tldDev tb ta => exact RoundTrip.tldDev tb ta
  | tturn tb ta => exact RoundTrip.tturn tb ta
  | tturnEmit port tb ta => exact RoundTrip.tturnEmit port tb ta
  | tstLa tb ta => exact RoundTrip.tstLa tb ta
  | tstDev tb ta => exact RoundTrip.tstDev tb ta
  | mxcmd tb ta => exact RoundTrip.mxcmd tb ta
  | mxwait tb ta => exact RoundTrip.mxwait tb ta
  | accopZero tb ta => exact RoundTrip.accopZero tb ta
  | accopCopy tb ta => exact RoundTrip.accopCopy tb ta
  | tlbinvPage tb ta => exact RoundTrip.tlbinvPage tb ta
  | tlbinvCtx tb ta => exact RoundTrip.tlbinvCtx tb ta
  | tlbinvAll tb ta => exact RoundTrip.tlbinvAll tb ta
  | apset tb ta => exact RoundTrip.apset tb ta
  | ctxsv tb ta => exact RoundTrip.ctxsv tb ta
  | imgw tb ta => exact RoundTrip.imgw tb ta
  | imgcmt tb ta => exact RoundTrip.imgcmt tb ta
  | eret => exact RoundTrip.eret
  | wfi tb ta => exact RoundTrip.wfi tb ta
  | pgset tb ta => exact RoundTrip.pgset tb ta
  | elogrd tb ta => exact RoundTrip.elogrd tb ta
  | blockFetch c => exact RoundTrip.blockFetch c
  | blockCommit c => exact RoundTrip.blockCommit c
  | deadlineOverrun c => exact RoundTrip.deadlineOverrun c
  | noProgressWatchdog c => exact RoundTrip.noProgressWatchdog c
  | faultReport g => exact RoundTrip.faultReport g
  | irrevocableGrant g => exact RoundTrip.irrevocableGrant g
  | roundCommit g => exact RoundTrip.roundCommit g
  | roundVoid g => exact RoundTrip.roundVoid g
  | commitWatchdog g => exact RoundTrip.commitWatchdog g
  | voidLimit g => exact RoundTrip.voidLimit g
  | waitaWake c => exact RoundTrip.waitaWake c
  | remoteWatchReread c tag => exact RoundTrip.remoteWatchReread c tag
  | kettleComplete g id => exact RoundTrip.kettleComplete g id
  | submissionDoorbell ctx tail writes => exact RoundTrip.submissionDoorbell ctx tail writes
  | fwsqDoorbell => exact RoundTrip.fwsqDoorbell
  | cqheadWrite ctx head => exact RoundTrip.cqheadWrite ctx head
  | hostRegisterWrite off val => exact RoundTrip.hostRegisterWrite off val
  | hostBar2Access off size data => exact RoundTrip.hostBar2Access off size data
  | launchAdmission src => exact RoundTrip.launchAdmission src
  | requestFrame f => exact RoundTrip.requestFrame f
  | spineDispatch => exact RoundTrip.spineDispatch
  | entryAging e => exact RoundTrip.entryAging e
  | swapWaitExpiry c => exact RoundTrip.swapWaitExpiry c
  | bind e => exact RoundTrip.bind e
  | contextSave g => exact RoundTrip.contextSave g
  | copyNodeRun e => exact RoundTrip.copyNodeRun e
  | moverLineLand copy line => exact RoundTrip.moverLineLand copy line
  | nodeRetire inst node => exact RoundTrip.nodeRetire inst node
  | responseDelivery ctx => exact RoundTrip.responseDelivery ctx
  | spawnBacklogAdmit ctx => exact RoundTrip.spawnBacklogAdmit ctx
  | contextUnload ctx => exact RoundTrip.contextUnload ctx
  | rangeEviction stack => exact RoundTrip.rangeEviction stack
  | tileSwap leaf => exact RoundTrip.tileSwap leaf
  | mxCommandStart quire => exact RoundTrip.mxCommandStart quire
  | mxCommandComplete quire => exact RoundTrip.mxCommandComplete quire
  | vpStep leaf => exact RoundTrip.vpStep leaf
  | scannerStep leaf u => exact RoundTrip.scannerStep leaf u
  | scannerRefill leaf u => exact RoundTrip.scannerRefill leaf u
  | skipReceive leaf u => exact RoundTrip.skipReceive leaf u
  | isectStep leaf u => exact RoundTrip.isectStep leaf u
  | unionStep leaf u => exact RoundTrip.unionStep leaf u
  | repeatStep leaf u => exact RoundTrip.repeatStep leaf u
  | reduceStep leaf u => exact RoundTrip.reduceStep leaf u
  | spaccStep leaf u => exact RoundTrip.spaccStep leaf u
  | lwriteStep leaf u => exact RoundTrip.lwriteStep leaf u
  | gatherStep leaf u => exact RoundTrip.gatherStep leaf u
  | scatterStep leaf u => exact RoundTrip.scatterStep leaf u
  | filterStep leaf u => exact RoundTrip.filterStep leaf u
  | coalesceStep leaf u => exact RoundTrip.coalesceStep leaf u
  | agenStep leaf u => exact RoundTrip.agenStep leaf u
  | tokenDelivery leaf port => exact RoundTrip.tokenDelivery leaf port
  | creditReturn leaf port => exact RoundTrip.creditReturn leaf port
  | meshFlitRetry leaf dir what recovered => exact RoundTrip.meshFlitRetry leaf dir what recovered
  | meshLinkFailure leaf dir => exact RoundTrip.meshLinkFailure leaf dir
  | tlbLookup req => exact RoundTrip.tlbLookup req
  | pageWalk req => exact RoundTrip.pageWalk req
  | memoryPortService port => exact RoundTrip.memoryPortService port
  | hbmScrub line found => exact RoundTrip.hbmScrub line found
  | roundBufferError g port => exact RoundTrip.roundBufferError g port
  | kvGateCheck engine => exact RoundTrip.kvGateCheck engine
  | kvEviction engine => exact RoundTrip.kvEviction engine
  | countedWriteIssue sender => exact RoundTrip.countedWriteIssue sender
  | putArrival p => exact RoundTrip.putArrival p
  | pushArrival p => exact RoundTrip.pushArrival p
  | ratomArrival p => exact RoundTrip.ratomArrival p
  | rloadArrival p => exact RoundTrip.rloadArrival p
  | rdataArrival p => exact RoundTrip.rdataArrival p
  | flagArrival p => exact RoundTrip.flagArrival p
  | flagComplete receiver => exact RoundTrip.flagComplete receiver
  | flagdoneArrival p => exact RoundTrip.flagdoneArrival p
  | resendArrival p => exact RoundTrip.resendArrival p
  | gapTimerExpiry receiver => exact RoundTrip.gapTimerExpiry receiver
  | flagTimerExpiry sender index => exact RoundTrip.flagTimerExpiry sender index
  | tailWriteTimeout sender => exact RoundTrip.tailWriteTimeout sender
  | rloadTimerExpiry req => exact RoundTrip.rloadTimerExpiry req
  | flezalFlitError fp recovered => exact RoundTrip.flezalFlitError fp recovered
  | flezalLinkDown fp => exact RoundTrip.flezalLinkDown fp
  | packetAgeDiscard queued => exact RoundTrip.packetAgeDiscard queued
  | packageLost pkg => exact RoundTrip.packageLost pkg
  | channelAllocate spec => exact RoundTrip.channelAllocate spec
  | imageCommitSwitch unreadable lost => exact RoundTrip.imageCommitSwitch unreadable lost
  | handlerEntry core => exact RoundTrip.handlerEntry core
  | deviceBoot found => exact RoundTrip.deviceBoot found
  | folioCalibrationDone folio => exact RoundTrip.folioCalibrationDone folio
  | quirePowerTransition quire => exact RoundTrip.quirePowerTransition quire
  | quireWake quire => exact RoundTrip.quireWake quire
  | quireWakeTimeout quire => exact RoundTrip.quireWakeTimeout quire
  | governorLimit what => exact RoundTrip.governorLimit what
  | thermalEvent folio level => exact RoundTrip.thermalEvent folio level
  | controlCoreHalt core => exact RoundTrip.controlCoreHalt core
  | contextLoad ctx attrs => exact RoundTrip.contextLoad ctx attrs
  | folioAdmission folio passed mappedOut => exact RoundTrip.folioAdmission folio passed mappedOut
  | spawnCommitHoldTimeout g => exact RoundTrip.spawnCommitHoldTimeout g
  | settledPeriodEnd ctx va => exact RoundTrip.settledPeriodEnd ctx va
  | transitPacketArrival p => exact RoundTrip.transitPacketArrival p

/-- Settles O50: the round trip of each instruction; and two instructions with one word are both what that word decodes to. -/
theorem decodeEncode : Obligations.DecodeEncode := by
  refine ⟨roundTrip, ?_⟩
  intro i j w hi hj hwi hwj
  exact Except.ok.inj ((roundTrip i w hi hwi).symm.trans (roundTrip j w hj hwj))

end Sys2Proof.Laws

namespace Sys2Proof.Machine

/-- The meaning of every instruction and of every event answers sound states on sound states. -/
theorem sound_exec {s : State} (i : Instr) (hs : Holds Sound s) : Holds (okNext Sound) (exec i s) := by
  cases i with
  | rd _ _ _ => exact sound_execRd hs
  | movi _ _ => exact sound_execMovi hs
  | movhi _ _ => exact sound_execMovhi hs
  | mov _ _ => exact sound_execMov hs
  | br _ _ => exact sound_execBr hs
  | call _ _ => exact sound_execCall hs
  | brr => exact sound_execBrr hs
  | rnd _ => exact sound_execRnd hs
  | exit => exact sound_execExit hs
  | tdone => exact sound_execTdone hs
  | trap _ => exact sound_execTrap hs
  | bkpt _ => exact sound_execBkpt hs
  | sysrd _ _ => exact sound_execSysrd hs
  | syswr _ => exact sound_execSyswr hs
  | spawn _ _ => exact sound_execSpawn hs
  | null _ _ => exact sound_execNull hs
  | add _ _ _ _ _ => exact sound_execAdd hs
  | sub _ _ _ _ _ => exact sound_execSub hs
  | mul _ _ _ _ _ => exact sound_execMul hs
  | mulh _ _ _ _ => exact sound_execMulh hs
  | div _ _ _ _ => exact sound_execDiv hs
  | rem _ _ _ _ => exact sound_execRem hs
  | and _ _ _ _ => exact sound_execAnd hs
  | or _ _ _ _ => exact sound_execOr hs
  | xor _ _ _ _ => exact sound_execXor hs
  | andn _ _ _ _ => exact sound_execAndn hs
  | shl _ _ _ _ => exact sound_execShl hs
  | shr _ _ _ _ => exact sound_execShr hs
  | sar _ _ _ _ => exact sound_execSar hs
  | rot _ _ _ _ => exact sound_execRot hs
  | min _ _ _ _ => exact sound_execMin hs
  | max _ _ _ _ => exact sound_execMax hs
  | cmp _ _ _ _ _ => exact sound_execCmp hs
  | sel _ _ => exact sound_execSel hs
  | bitcPopc _ _ _ => exact sound_execBitcPopc hs
  | bitcClz _ _ _ => exact sound_execBitcClz hs
  | bitcCtz _ _ _ => exact sound_execBitcCtz hs
  | bitcBrev _ _ _ => exact sound_execBitcBrev hs
  | bitcBswap _ _ _ => exact sound_execBitcBswap hs
  | bfx _ _ _ _ => exact sound_execBfx hs
  | bfi _ _ => exact sound_execBfi hs
  | lea _ _ _ => exact sound_execLea hs
  | addi _ _ => exact sound_execAddi hs
  | andi _ _ => exact sound_execAndi hs
  | ori _ _ => exact sound_execOri hs
  | xori _ _ => exact sound_execXori hs
  | shfiShl _ _ => exact sound_execShfiShl hs
  | shfiShr _ _ => exact sound_execShfiShr hs
  | shfiSar _ _ => exact sound_execShfiSar hs
  | shfiRot _ _ => exact sound_execShfiRot hs
  | cmpi _ _ _ _ => exact sound_execCmpi hs
  | muli _ _ => exact sound_execMuli hs
  | adc _ _ _ => exact sound_execAdc hs
  | fadd _ _ _ _ _ _ => exact sound_execFadd hs
  | fsub _ _ _ _ _ _ => exact sound_execFsub hs
  | fmul _ _ _ _ _ _ => exact sound_execFmul hs
  | fma _ _ _ _ _ _ => exact sound_execFma hs
  | fmin _ _ _ _ _ => exact sound_execFmin hs
  | fmax _ _ _ _ _ => exact sound_execFmax hs
  | fcmp _ _ _ _ => exact sound_execFcmp hs
  | fcvt _ _ _ _ _ => exact sound_execFcvt hs
  | fsfuRcp _ => exact sound_execFsfuRcp hs
  | fsfuRsq _ => exact sound_execFsfuRsq hs
  | fsfuSqrt _ => exact sound_execFsfuSqrt hs
  | fsfuExp2 _ => exact sound_execFsfuExp2 hs
  | fsfuLog2 _ => exact sound_execFsfuLog2 hs
  | fsfuTanh _ => exact sound_execFsfuTanh hs
  | fsfuSigm _ => exact sound_execFsfuSigm hs
  | fsfuSinp _ => exact sound_execFsfuSinp hs
  | fsfuCosp _ => exact sound_execFsfuCosp hs
  | fclass _ _ _ => exact sound_execFclass hs
  | qscale _ _ _ => exact sound_execQscale hs
  | qcvt _ _ _ _ _ => exact sound_execQcvt hs
  | qdeq _ _ _ _ _ => exact sound_execQdeq hs
  | fsgnAbs _ _ _ => exact sound_execFsgnAbs hs
  | fsgnNeg _ _ _ => exact sound_execFsgnNeg hs
  | fsgnCopysign _ _ _ => exact sound_execFsgnCopysign hs
  | ldl _ _ _ _ _ => exact sound_execLdl hs
  | stl _ _ _ _ _ => exact sound_execStl hs
  | ldg _ _ _ _ _ => exact sound_execLdg hs
  | stg _ _ _ _ _ => exact sound_execStg hs
  | atomlAdd _ _ _ _ => exact sound_execAtomlAdd hs
  | atomlAnd _ _ _ _ => exact sound_execAtomlAnd hs
  | atomlOr _ _ _ _ => exact sound_execAtomlOr hs
  | atomlXor _ _ _ _ => exact sound_execAtomlXor hs
  | atomlXchg _ _ _ _ => exact sound_execAtomlXchg hs
  | atomlSmin _ _ _ _ => exact sound_execAtomlSmin hs
  | atomlSmax _ _ _ _ => exact sound_execAtomlSmax hs
  | atomlFadd _ _ _ _ => exact sound_execAtomlFadd hs
  | atomgAdd _ _ _ _ => exact sound_execAtomgAdd hs
  | atomgAnd _ _ _ _ => exact sound_execAtomgAnd hs
  | atomgOr _ _ _ _ => exact sound_execAtomgOr hs
  | atomgXor _ _ _ _ => exact sound_execAtomgXor hs
  | atomgXchg _ _ _ _ => exact sound_execAtomgXchg hs
  | atomgSmin _ _ _ _ => exact sound_execAtomgSmin hs
  | atomgSmax _ _ _ _ => exact sound_execAtomgSmax hs
  | atomgFadd _ _ _ _ => exact sound_execAtomgFadd hs
  | casl _ _ _ _ _ => exact sound_execCasl hs
  | casg _ _ _ _ _ => exact sound_execCasg hs
  | fenceAcq _ _ _ => exact sound_execFenceAcq hs
  | fenceRel _ _ _ => exact sound_execFenceRel hs
  | fenceAr _ _ _ => exact sound_execFenceAr hs
  | fenceXp _ _ => exact sound_execFenceXp hs
  | waitaLeaf _ _ _ _ => exact sound_execWaitaLeaf hs
  | waitaRound _ _ _ _ => exact sound_execWaitaRound hs
  | waitaDev _ _ _ _ => exact sound_execWaitaDev hs
  | waitaSys _ _ _ _ => exact sound_execWaitaSys hs
  | mbarInit _ _ => exact sound_execMbarInit hs
  | mbarArrive _ _ => exact sound_execMbarArrive hs
  | mbarExpect _ _ => exact sound_execMbarExpect hs
  | mbarTest _ _ => exact sound_execMbarTest hs
  | mbarWait _ _ => exact sound_execMbarWait hs
  | cpLd _ _ => exact sound_execCpLd hs
  | cpSt _ _ => exact sound_execCpSt hs
  | cpSend _ _ => exact sound_execCpSend hs
  | cpMc _ _ => exact sound_execCpMc hs
  | cpFib _ _ => exact sound_execCpFib hs
  | flag _ _ => exact sound_execFlag hs
  | kvopMass _ _ => exact sound_execKvopMass hs
  | kvopEvict _ _ => exact sound_execKvopEvict hs
  | kvopStat _ _ => exact sound_execKvopStat hs
  | flcfg _ _ _ => exact sound_execFlcfg hs
  | flgo _ _ _ => exact sound_execFlgo hs
  | flstat _ _ _ => exact sound_execFlstat hs
  | flstop _ _ _ => exact sound_execFlstop hs
  | spush _ _ _ _ => exact sound_execSpush hs
  | spop _ _ _ _ => exact sound_execSpop hs
  | sctlStatus _ _ _ => exact sound_execSctlStatus hs
  | sctlDrain _ _ _ => exact sound_execSctlDrain hs
  | sctlReset _ _ _ => exact sound_execSctlReset hs
  | sbar _ _ => exact sound_execSbar hs
  | rtset _ _ _ => exact sound_execRtset hs
  | kettle _ _ => exact sound_execKettle hs
  | vpcfg _ _ => exact sound_execVpcfg hs
  | vpgo _ _ => exact sound_execVpgo hs
  | vpstat _ _ => exact sound_execVpstat hs
  | vpconst _ _ _ => exact sound_execVpconst hs
  | tldLa _ _ => exact sound_execTldLa hs
  | tldDev _ _ => exact sound_execTldDev hs
  | tturn _ _ => exact sound_execTturn hs
  | tturnEmit _ _ _ => exact sound_execTturnEmit hs
  | tstLa _ _ => exact sound_execTstLa hs
  | tstDev _ _ => exact sound_execTstDev hs
  | mxcmd _ _ => exact sound_execMxcmd hs
  | mxwait _ _ => exact sound_execMxwait hs
  | accopZero _ _ => exact sound_execAccopZero hs
  | accopCopy _ _ => exact sound_execAccopCopy hs
  | tlbinvPage _ _ => exact sound_execTlbinvPage hs
  | tlbinvCtx _ _ => exact sound_execTlbinvCtx hs
  | tlbinvAll _ _ => exact sound_execTlbinvAll hs
  | apset _ _ => exact sound_execApset hs
  | ctxsv _ _ => exact sound_execCtxsv hs
  | imgw _ _ => exact sound_execImgw hs
  | imgcmt _ _ => exact sound_execImgcmt hs
  | eret => exact sound_execEret hs
  | wfi _ _ => exact sound_execWfi hs
  | pgset _ _ => exact sound_execPgset hs
  | elogrd _ _ => exact sound_execElogrd hs
  | blockFetch _ => exact sound_execBlockFetch hs
  | blockCommit _ => exact sound_execBlockCommit hs
  | deadlineOverrun _ => exact sound_execDeadlineOverrun hs
  | noProgressWatchdog _ => exact sound_execNoProgressWatchdog hs
  | faultReport _ => exact sound_execFaultReport hs
  | irrevocableGrant _ => exact sound_execIrrevocableGrant hs
  | roundCommit _ => exact sound_execRoundCommit hs
  | roundVoid _ => exact sound_execRoundVoid hs
  | commitWatchdog _ => exact sound_execCommitWatchdog hs
  | voidLimit _ => exact sound_execVoidLimit hs
  | waitaWake _ => exact sound_execWaitaWake hs
  | remoteWatchReread _ _ => exact sound_execRemoteWatchReread hs
  | kettleComplete _ _ => exact sound_execKettleComplete hs
  | submissionDoorbell _ _ _ => exact sound_execSubmissionDoorbell hs
  | fwsqDoorbell => exact sound_execFwsqDoorbell hs
  | cqheadWrite _ _ => exact sound_execCqheadWrite hs
  | hostRegisterWrite _ _ => exact sound_execHostRegisterWrite hs
  | hostBar2Access _ _ _ => exact sound_execHostBar2Access hs
  | launchAdmission _ => exact sound_execLaunchAdmission hs
  | requestFrame _ => exact sound_execRequestFrame hs
  | spineDispatch => exact sound_execSpineDispatch hs
  | entryAging _ => exact sound_execEntryAging hs
  | swapWaitExpiry _ => exact sound_execSwapWaitExpiry hs
  | bind _ => exact sound_execBind hs
  | contextSave _ => exact sound_execContextSave hs
  | copyNodeRun _ => exact sound_execCopyNodeRun hs
  | moverLineLand _ _ => exact sound_execMoverLineLand hs
  | nodeRetire _ _ => exact sound_execNodeRetire hs
  | responseDelivery _ => exact sound_execResponseDelivery hs
  | spawnBacklogAdmit _ => exact sound_execSpawnBacklogAdmit hs
  | contextUnload _ => exact sound_execContextUnload hs
  | rangeEviction _ => exact sound_execRangeEviction hs
  | tileSwap _ => exact sound_execTileSwap hs
  | mxCommandStart _ => exact sound_execMxCommandStart hs
  | mxCommandComplete _ => exact sound_execMxCommandComplete hs
  | vpStep _ => exact sound_execVpStep hs
  | scannerStep _ _ => exact sound_execScannerStep hs
  | scannerRefill _ _ => exact sound_execScannerRefill hs
  | skipReceive _ _ => exact sound_execSkipReceive hs
  | isectStep _ _ => exact sound_execIsectStep hs
  | unionStep _ _ => exact sound_execUnionStep hs
  | repeatStep _ _ => exact sound_execRepeatStep hs
  | reduceStep _ _ => exact sound_execReduceStep hs
  | spaccStep _ _ => exact sound_execSpaccStep hs
  | lwriteStep _ _ => exact sound_execLwriteStep hs
  | gatherStep _ _ => exact sound_execGatherStep hs
  | scatterStep _ _ => exact sound_execScatterStep hs
  | filterStep _ _ => exact sound_execFilterStep hs
  | coalesceStep _ _ => exact sound_execCoalesceStep hs
  | agenStep _ _ => exact sound_execAgenStep hs
  | tokenDelivery _ _ => exact sound_execTokenDelivery hs
  | creditReturn _ _ => exact sound_execCreditReturn hs
  | meshFlitRetry _ _ _ _ => exact sound_execMeshFlitRetry hs
  | meshLinkFailure _ _ => exact sound_execMeshLinkFailure hs
  | tlbLookup _ => exact sound_execTlbLookup hs
  | pageWalk _ => exact sound_execPageWalk hs
  | memoryPortService _ => exact sound_execMemoryPortService hs
  | hbmScrub _ _ => exact sound_execHbmScrub hs
  | roundBufferError _ _ => exact sound_execRoundBufferError hs
  | kvGateCheck _ => exact sound_execKvGateCheck hs
  | kvEviction _ => exact sound_execKvEviction hs
  | countedWriteIssue _ => exact sound_execCountedWriteIssue hs
  | putArrival _ => exact sound_execPutArrival hs
  | pushArrival _ => exact sound_execPushArrival hs
  | ratomArrival _ => exact sound_execRatomArrival hs
  | rloadArrival _ => exact sound_execRloadArrival hs
  | rdataArrival _ => exact sound_execRdataArrival hs
  | flagArrival _ => exact sound_execFlagArrival hs
  | flagComplete _ => exact sound_execFlagComplete hs
  | flagdoneArrival _ => exact sound_execFlagdoneArrival hs
  | resendArrival _ => exact sound_execResendArrival hs
  | gapTimerExpiry _ => exact sound_execGapTimerExpiry hs
  | flagTimerExpiry _ _ => exact sound_execFlagTimerExpiry hs
  | tailWriteTimeout _ => exact sound_execTailWriteTimeout hs
  | rloadTimerExpiry _ => exact sound_execRloadTimerExpiry hs
  | flezalFlitError _ _ => exact sound_execFlezalFlitError hs
  | flezalLinkDown _ => exact sound_execFlezalLinkDown hs
  | packetAgeDiscard _ => exact sound_execPacketAgeDiscard hs
  | packageLost _ => exact sound_execPackageLost hs
  | channelAllocate _ => exact sound_execChannelAllocate hs
  | imageCommitSwitch _ _ => exact sound_execImageCommitSwitch hs
  | handlerEntry _ => exact sound_execHandlerEntry hs
  | deviceBoot _ => exact sound_execDeviceBoot hs
  | folioCalibrationDone _ => exact sound_execFolioCalibrationDone hs
  | quirePowerTransition _ => exact sound_execQuirePowerTransition hs
  | quireWake _ => exact sound_execQuireWake hs
  | quireWakeTimeout _ => exact sound_execQuireWakeTimeout hs
  | governorLimit _ => exact sound_execGovernorLimit hs
  | thermalEvent _ _ => exact sound_execThermalEvent hs
  | controlCoreHalt _ => exact sound_execControlCoreHalt hs
  | contextLoad _ _ => exact sound_execContextLoad hs
  | folioAdmission _ _ _ => exact sound_execFolioAdmission hs
  | spawnCommitHoldTimeout _ => exact sound_execSpawnCommitHoldTimeout hs
  | settledPeriodEnd _ _ => exact sound_execSettledPeriodEnd hs
  | transitPacketArrival _ => exact sound_execTransitPacketArrival hs

theorem sound_step {s : State} (hs : Holds Sound s) : Holds (okNext Sound) (step s) := by
  have hturn := sound_nextTurn hs
  unfold step
  split
  case h_1 c i u e =>
    have hu : Holds Sound u := (Holds.of_eq e hturn).pair2
    split
    · exact sound_exec _ (sound_issueAt hu)
    · exact sound_idle hu
  case h_2 x u e => exact sound_exec x (Holds.of_eq e hturn).pair2
  case h_3 x u e => exact sound_takeOutside (Holds.of_eq e hturn).pair2
  case h_4 u e => exact sound_idle (Holds.of_eq e hturn).pair2

/-- Settles O60: what a step comes to is one of the meanings, the taking of an input, or nothing, at a state that differs from the
one before it in the agenda, the focus and the tick. -/
theorem stepKeepsSound : Obligations.StepKeepsSound := by
  intro s t hs ht
  exact (sound_iff t).2 (sound_step ((sound_iff s).1 hs) t ht)

end Sys2Proof.Machine
end

section
/-!
Family 07, integer arithmetic: Table 4 of R149 in bit vectors, and saturation.
-/

namespace Sys2Proof.Machine

/-! ### x of Table 4, taken to the width -/

/-- Row 0x10 without `SAT`, from the bit vector that x of Table 4 comes to. -/
theorem intOp_eq_extended {op : IOp} {w : IntWidth} {sgn : Bool} {l r : Word} {x : BitVec (widthOf w)}
    (h : BitVec.ofInt (widthOf w)
      (intX op (widthOf w) (intIn (widthOf w) sgn l) (intIn (widthOf w) sgn r) (r.toNat % 64 % widthOf w)) = x) :
    intOp op w sgn false l r = (extended sgn x, 0) := by
  rw [intOp_unsat, h]

/-- A shift count is taken modulo the width, which divides 64. -/
theorem shiftCount (w : IntWidth) (v : Nat) : v % 64 % widthOf w = v % widthOf w :=
  Nat.mod_mod_of_dvd v (by cases w <;> decide)

/-- An operand is 0 just when its low bits are. -/
theorem intIn_eq_zero_iff (n : Nat) (sgn : Bool) (v : Word) : intIn n sgn v = 0 ↔ v.setWidth n = 0 := by
  rw [intIn_eq]
  cases sgn
  · rw [if_neg Bool.false_ne_true, Int.natCast_eq_zero, ← BitVec.toNat_inj]; rfl
  · rw [if_pos rfl, ← BitVec.toInt_inj, BitVec.ofNat_eq_ofNat, BitVec.toInt_zero]

/-- The order of two operands is the order of their low bits, signed or not. -/
theorem intIn_le_iff (n : Nat) (sgn : Bool) (l r : Word) :
    intIn n sgn l ≤ intIn n sgn r ↔
      (if sgn then (l.setWidth n).sle (r.setWidth n) else decide (l.setWidth n ≤ r.setWidth n)) = true := by
  rw [intIn_eq, intIn_eq]
  cases sgn
  · simp only [Bool.false_eq_true, if_false, decide_eq_true_eq, BitVec.le_def, Int.ofNat_le]
  · simp only [if_true, BitVec.sle_iff_toInt_le]

section
variable (n : Nat) (sgn : Bool) (l r : Word) (c : Nat)

theorem ofInt_intX_add : BitVec.ofInt n (intX .add n (intIn n sgn l) (intIn n sgn r) c) = l.setWidth n + r.setWidth n := by
  rw [intX, BitVec.ofInt_add, ofInt_intIn, ofInt_intIn]

theorem ofInt_intX_sub : BitVec.ofInt n (intX .sub n (intIn n sgn l) (intIn n sgn r) c) = l.setWidth n - r.setWidth n := by
  rw [intX, Int.sub_eq_add_neg, BitVec.ofInt_add, BitVec.ofInt_neg, ofInt_intIn, ofInt_intIn, BitVec.sub_eq_add_neg]

theorem ofInt_intX_mul : BitVec.ofInt n (intX .mul n (intIn n sgn l) (intIn n sgn r) c) = l.setWidth n * r.setWidth n := by
  rw [intX, BitVec.ofInt_mul, ofInt_intIn, ofInt_intIn]

theorem ofInt_intX_mulh : BitVec.ofInt n (intX .mulh n (intIn n sgn l) (intIn n sgn r) c) =
    BitVec.ofInt n ((if sgn then (l.setWidth n).toInt * (r.setWidth n).toInt
      else ((l.setWidth n).toNat : Int) * (r.setWidth n).toNat) / 2 ^ n) := by
  rw [intX, intIn_eq, intIn_eq]
  cases sgn <;> simp only [Bool.false_eq_true, if_false, if_true, Nat.cast_pow, Nat.cast_ofNat]

theorem ofInt_intX_div : BitVec.ofInt n (intX .div n (intIn n sgn l) (intIn n sgn r) c) =
    if r.setWidth n = 0 then BitVec.allOnes n
    else if sgn then (l.setWidth n).sdiv (r.setWidth n) else l.setWidth n / r.setWidth n := by
  simp only [intX, intIn_eq_zero_iff]
  split
  case isTrue =>
    have hpow : BitVec.ofNat n (2 ^ n) = 0#n := BitVec.eq_of_toNat_eq (by rw [BitVec.toNat_ofNat, Nat.mod_self]; rfl)
    rw [Int.sub_eq_add_neg, BitVec.ofInt_add, BitVec.ofInt_natCast, BitVec.ofInt_neg, hpow, BitVec.zero_add]
    exact BitVec.neg_one_eq_allOnes
  case isFalse =>
    rw [intIn_eq, intIn_eq]
    cases sgn
    · simp only [Bool.false_eq_true, if_false, ← Int.ofNat_tdiv, BitVec.ofInt_natCast]
      rw [← BitVec.toNat_udiv, BitVec.ofNat_toNat, BitVec.setWidth_eq]
    · simp only [if_true]
      apply BitVec.eq_of_toInt_eq
      rw [BitVec.toInt_ofInt, BitVec.toInt_sdiv]

theorem ofInt_intX_rem : BitVec.ofInt n (intX .rem n (intIn n sgn l) (intIn n sgn r) c) =
    if r.setWidth n = 0 then l.setWidth n
    else if sgn then (l.setWidth n).srem (r.setWidth n) else l.setWidth n % r.setWidth n := by
  simp only [intX, intIn_eq_zero_iff]
  split
  case isTrue => exact ofInt_intIn l n sgn
  case isFalse =>
    rw [intIn_eq, intIn_eq]
    cases sgn
    · simp only [Bool.false_eq_true, if_false, ← Int.ofNat_tmod, BitVec.ofInt_natCast]
      rw [← BitVec.toNat_umod, BitVec.ofNat_toNat, BitVec.setWidth_eq]
    · simp only [if_true]
      rw [← BitVec.toInt_srem, BitVec.ofInt_toInt]

theorem ofInt_intX_and : BitVec.ofInt n (intX .and n (intIn n sgn l) (intIn n sgn r) c) = l.setWidth n &&& r.setWidth n := by
  rw [intX, codeOf_intIn, codeOf_intIn, BitVec.ofInt_natCast, ← BitVec.toNat_and, BitVec.ofNat_toNat, BitVec.setWidth_eq]

theorem ofInt_intX_or : BitVec.ofInt n (intX .or n (intIn n sgn l) (intIn n sgn r) c) = l.setWidth n ||| r.setWidth n := by
  rw [intX, codeOf_intIn, codeOf_intIn, BitVec.ofInt_natCast, ← BitVec.toNat_or, BitVec.ofNat_toNat, BitVec.setWidth_eq]

theorem ofInt_intX_xor : BitVec.ofInt n (intX .xor n (intIn n sgn l) (intIn n sgn r) c) = l.setWidth n ^^^ r.setWidth n := by
  rw [intX, codeOf_intIn, codeOf_intIn, BitVec.ofInt_natCast, ← BitVec.toNat_xor, BitVec.ofNat_toNat, BitVec.setWidth_eq]

theorem ofInt_intX_andn : BitVec.ofInt n (intX .andn n (intIn n sgn l) (intIn n sgn r) c) = l.setWidth n &&& ~~~r.setWidth n := by
  rw [intX, codeOf_intIn, codeOf_intIn, ← BitVec.toNat_not, BitVec.ofInt_natCast, ← BitVec.toNat_and, BitVec.ofNat_toNat,
    BitVec.setWidth_eq]

theorem ofInt_intX_min : BitVec.ofInt n (intX .min n (intIn n sgn l) (intIn n sgn r) c) =
    if (if sgn then (l.setWidth n).sle (r.setWidth n) else decide (l.setWidth n ≤ r.setWidth n)) then l.setWidth n
    else r.setWidth n := by
  simp only [intX, ← intIn_le_iff]
  split <;> exact ofInt_intIn ..

theorem ofInt_intX_max : BitVec.ofInt n (intX .max n (intIn n sgn l) (intIn n sgn r) c) =
    if (if sgn then (l.setWidth n).sle (r.setWidth n) else decide (l.setWidth n ≤ r.setWidth n)) then r.setWidth n
    else l.setWidth n := by
  simp only [intX, ← intIn_le_iff]
  split <;> exact ofInt_intIn ..

end

/-- Settles O5: x of each row of Table 4, as a bit vector of the width. -/
theorem integerResults : Obligations.IntegerResults := by
  intro w sgn l r n a b k is
  have hk : r.toNat % 64 % widthOf w = k := shiftCount w _
  have hlt : k < n := Nat.mod_lt _ (widthOf_bounds w).1
  refine ⟨?add, ?sub, ?mul, ?mulh, ?div, ?rem, ?and, ?or, ?xor, ?andn, ?shl, ?shr, ?sar, ?rot, ?min, ?max⟩
  case add => exact intOp_eq_extended (ofInt_intX_add ..)
  case sub => exact intOp_eq_extended (ofInt_intX_sub ..)
  case mul => exact intOp_eq_extended (ofInt_intX_mul ..)
  case mulh => exact intOp_eq_extended (ofInt_intX_mulh ..)
  case div => exact intOp_eq_extended (ofInt_intX_div ..)
  case rem => exact intOp_eq_extended (ofInt_intX_rem ..)
  case and => exact intOp_eq_extended (ofInt_intX_and ..)
  case or => exact intOp_eq_extended (ofInt_intX_or ..)
  case xor => exact intOp_eq_extended (ofInt_intX_xor ..)
  case andn => exact intOp_eq_extended (ofInt_intX_andn ..)
  case shl => exact intOp_eq_extended (by rw [hk]; exact ofInt_intX_shl ..)
  case shr => exact intOp_eq_extended (by rw [hk]; exact ofInt_intX_shr ..)
  case sar => exact intOp_eq_extended (by rw [hk]; exact ofInt_intX_sar ..)
  case rot => exact intOp_eq_extended (by rw [hk]; exact ofInt_intX_rot hlt ..)
  case min => exact intOp_eq_extended (ofInt_intX_min ..)
  case max => exact intOp_eq_extended (ofInt_intX_max ..)

/-! ### Saturation -/

/-- The bounds of a width (R149). -/
def satLo (n : Nat) (sgn : Bool) : Int := if sgn then -2 ^ (n - 1) else 0
def satHi (n : Nat) (sgn : Bool) : Int := if sgn then 2 ^ (n - 1) - 1 else 2 ^ n - 1

theorem satLo_le_satHi (n : Nat) (sgn : Bool) : satLo n sgn ≤ satHi n sgn := by
  have h1 : (0 : Int) < 2 ^ (n - 1) := by positivity
  have h2 : (0 : Int) < 2 ^ n := by positivity
  cases sgn
  · simp only [satLo, satHi, Bool.false_eq_true, if_false]; omega
  · simp only [satLo, satHi, if_true]; omega

/-- A value within the bounds of the width is what its low bits extend to. -/
theorem intOut_of_bounds {n : Nat} (hn : 0 < n ∧ n ≤ 64) {sgn : Bool} {x : Int} (hlo : satLo n sgn ≤ x) (hhi : x ≤ satHi n sgn) :
    intOut n sgn x = wordOfInt x := by
  have hp : (2 : Int) ^ n = 2 * 2 ^ (n - 1) := by rw [← pow_succ', Nat.sub_add_cancel hn.1]
  rw [intOut_eq]
  cases sgn
  · simp only [satLo, satHi, Bool.false_eq_true, if_false] at hlo hhi
    lift x to Nat using hlo
    have hx : x < 2 ^ n := by zify; omega
    simp only [extended, Bool.false_eq_true, if_false, wordOfInt, BitVec.ofInt_natCast]
    exact BitVec.setWidth_ofNat_of_le_of_lt hn.2 hx
  · simp only [satLo, satHi, if_true] at hlo hhi
    have hx : (BitVec.ofInt n x).toInt = x := by
      rw [BitVec.toInt_ofInt]
      exact Int.bmod_eq_of_le (by push_cast; omega) (by push_cast; omega)
    simp only [extended, if_true, wordOfInt]
    rw [BitVec.signExtend, hx]

/-- Row 0x10 with `SAT`, by where x of Table 4 lies. -/
theorem intOp_sat (op : IOp) (w : IntWidth) (sgn : Bool) (l r : Word) :
    let n := widthOf w
    let x := intX op n (intIn n sgn l) (intIn n sgn r) (r.toNat % 64 % n)
    intOp op w sgn true l r =
      if x < satLo n sgn then (wordOfInt (satLo n sgn), flSAT)
      else if satHi n sgn < x then (wordOfInt (satHi n sgn), flSAT)
      else (wordOfInt x, 0) := by
  intro n x
  have hn := widthOf_bounds w
  have hle := satLo_le_satHi n sgn
  have hlo : (if sgn then -(2 ^ (n - 1) : Nat) else 0 : Int) = satLo n sgn := by cases sgn <;> simp [satLo]
  have hhi : (if sgn then (2 ^ (n - 1) : Nat) - 1 else (2 ^ n : Nat) - 1 : Int) = satHi n sgn := by cases sgn <;> simp [satHi]
  unfold intOp
  simp only [true_and]
  rw [hlo, hhi]
  split
  case isTrue => rw [intOut_of_bounds hn le_rfl hle]
  case isFalse hlow =>
    split
    case isTrue => rw [intOut_of_bounds hn hle le_rfl]
    case isFalse hhigh => rw [intOut_of_bounds hn (not_lt.mp hlow) (not_lt.mp hhigh)]

/-- Settles O6: `intOp_sat`, where x of Table 4 is the exact sum, difference or product. -/
theorem integerSaturates : Obligations.IntegerSaturates := by
  intro op w sgn l r n a b lo hi x hop
  have hx : intX op n a b (r.toNat % 64 % n) = x := by rcases hop with rfl | rfl | rfl <;> rfl
  have hle : lo ≤ hi := satLo_le_satHi n sgn
  have hsat : intOp op w sgn true l r =
      if x < lo then (wordOfInt lo, flSAT) else if hi < x then (wordOfInt hi, flSAT) else (wordOfInt x, 0) :=
    hx ▸ intOp_sat op w sgn l r
  refine ⟨fun h => ?_, fun h => ?_, fun h1 h2 => ?_⟩
  · rw [hsat, if_pos h]
  · rw [hsat, if_neg (by omega), if_pos h]
  · rw [hsat, if_neg (by omega), if_neg (by omega)]

end Sys2Proof.Machine
end

section
/-!
Family 07, moves, control transfers, what a commit is to do, integer arithmetic and floating point: what each instruction that fires
delivers or notes.
-/

namespace Sys2Proof.Machine

/-! ### Moves (R140, R146) -/

theorem exec_rd_clean {s : State} {g : Fin 64} {tb ta : Target} (h : fires s (.rd g tb ta)) (hr : regSick s s.me g.val = none) :
    exec (.rd g tb ta) s = delivers s s ta tb (some (readReg s s.me g.val)) (some (readReg s s.me g.val)) := by
  rw [State.me] at hr
  rw [exec_rd, execRd, perform_fires h, hr]; rfl

/-- A register whose line is poisoned (R403). -/
theorem exec_rd_poisoned {s : State} {g : Fin 64} {tb ta : Target} {la : Nat} (h : fires s (.rd g tb ta))
    (hr : regSick s s.me g.val = some la) :
    exec (.rd g tb ta) s = .next (raiseFault s s.me (laReport s s.me 0 accLoad la 0x0314 1) 1) := by
  rw [State.me] at hr
  rw [exec_rd, execRd, perform_fires h, hr]; rfl

/-- Settles O1: `RD` by its register's line, `NULL` without a value, the others as `valueOp` of theirs. -/
theorem movesDeliver : Obligations.MovesDeliver := by
  intro s
  refine ⟨?rd, ?movi, ?movhi, ?mov, ?null, ?sysrd⟩
  case rd => exact fun _ _ _ h => ⟨exec_rd_clean h, fun _ => exec_rd_poisoned h⟩
  case movi => exact fun _ imm h => valueOp_fires h fun _ _ _ => imm.signExtend 64
  case movhi => exact fun _ imm h => valueOp_fires h fun l _ _ => l <<< 16 ||| imm.setWidth 64
  case mov => exact fun _ _ h => valueOp_fires h fun l _ _ => l
  case null =>
    intro tb ta h
    rw [exec_null, execNull, perform_fires h]; rfl
  case sysrd => exact fun _ idx h => valueOp_fires h fun _ _ _ => sysValue s s.me idx.toNat

/-! ### Control transfers (R128, R142, R143) -/

theorem exec_call_taken {s : State} {cond : Cond} {off : BitVec 22} (h : fires s (.call cond off))
    (hc : condHolds cond s.opL = true) :
    exec (.call cond off) s = .next (transfer (pendWrite s s.me s.focus.slot 63 (linkOf s s.me)) s.me s.focus.slot
      (some (.goto (branchTarget (headerOf s s.me) off)))) := by
  rw [exec_call, execCall, perform_fires h, if_pos hc]; rfl

theorem exec_call_not_taken {s : State} {cond : Cond} {off : BitVec 22} (h : fires s (.call cond off))
    (hc : condHolds cond s.opL = false) :
    exec (.call cond off) s = .next (transfer s s.me s.focus.slot none) := by
  rw [exec_call, execCall, perform_fires h, if_neg (by rw [hc]; decide)]; rfl

/-- Settles O2: each transfer is `perform` of its own, and `CALL` splits on its condition. -/
theorem transfersSettle : Obligations.TransfersSettle := by
  intro s
  refine ⟨?br, ?taken, ?notTaken, ?brr, ?exit, ?tdone⟩
  case br => exact fun _ _ h => by rw [exec_br, execBr, perform_fires h]; rfl
  case taken => exact fun _ _ => exec_call_taken
  case notTaken => exact fun _ _ => exec_call_not_taken
  case brr => exact fun h => by rw [exec_brr, execBrr, perform_fires h]; rfl
  case exit => exact fun h => by rw [exec_exit, execExit, perform_fires h]; rfl
  case tdone => exact fun h => by rw [exec_tdone, execTdone, perform_fires h]; rfl

/-! ### What a commit is to do (R144 to R146) -/

theorem exec_rnd_first {s : State} {b : Block} {dl : BitVec 12} (hb : (s.strand s.me).block = some b) (h : fires s (.rnd dl))
    (hr : b.rnd = none) :
    exec (.rnd dl) s = .next (complete noForm (s.modBlock s.me fun b => { b with rnd := some dl.toNat })
      s.me s.focus.slot none none) := by
  rw [State.me] at hb
  have hn : ¬ (((s.strand s.focus.core).block.map Block.rnd).getD none).isSome = true := by simp [hb, hr]
  rw [exec_rnd, execRnd, perform_fires h, if_neg hn]; rfl

theorem exec_syswr_first {s : State} {b : Block} {idx : BitVec 12} (hb : (s.strand s.me).block = some b) (h : fires s (.syswr idx))
    (hw : (b.sys.any fun x => x.1 == idx.toNat) = false) :
    exec (.syswr idx) s = .next (complete noForm
      (s.modBlock s.me fun b => { b with sys := b.sys ++ [(idx.toNat, s.opL)] }) s.me s.focus.slot none none) := by
  rw [State.me] at hb
  have hn : ¬ ((s.strand s.focus.core).block.map fun b => b.sys.any fun x => x.1 == idx.toNat).getD false = true := by
    rw [hb, Option.map_some, Option.getD_some, hw]; decide
  rw [exec_syswr, execSyswr, perform_fires h, if_neg hn]; rfl

/-- Settles O3: the first `RND` of a block and the first `SYSWR` of an index note what they ask for; a `TRAP` or `BKPT` always does. -/
theorem commitActsNoted : Obligations.CommitActsNoted := by
  intro s b hb
  refine ⟨?rnd, ?trap, ?bkpt, ?syswr⟩
  case rnd => exact fun _ => exec_rnd_first hb
  case trap => exact fun _ h => by rw [exec_trap, execTrap, perform_fires h]; rfl
  case bkpt => exact fun _ h => by rw [exec_bkpt, execBkpt, perform_fires h]; rfl
  case syswr => exact fun _ => exec_syswr_first hb

/-! ### Row 0x10 (R149) -/

/-- Settles O4: each instruction of the row is `intRow` of its operation. -/
theorem integerRowDelivers : Obligations.IntegerRowDelivers := by
  intro s w sgn sat tb ta d
  refine ⟨?add, ?sub, ?mul, ?mulh, ?div, ?rem, ?and, ?or, ?xor, ?andn, ?shl, ?shr, ?sar, ?rot, ?min, ?max⟩
  case add => exact fun h => intRow_fires h .add w sgn sat
  case sub => exact fun h => intRow_fires h .sub w sgn sat
  case mul => exact fun h => intRow_fires h .mul w sgn sat
  case mulh => exact fun h => intRow_fires h .mulh w sgn false
  case div => exact fun h => intRow_fires h .div w sgn false
  case rem => exact fun h => intRow_fires h .rem w sgn false
  case and => exact fun h => intRow_fires h .and w sgn false
  case or => exact fun h => intRow_fires h .or w sgn false
  case xor => exact fun h => intRow_fires h .xor w sgn false
  case andn => exact fun h => intRow_fires h .andn w sgn false
  case shl => exact fun h => intRow_fires h .shl w sgn false
  case shr => exact fun h => intRow_fires h .shr w sgn false
  case sar => exact fun h => intRow_fires h .sar w sgn false
  case rot => exact fun h => intRow_fires h .rot w sgn false
  case min => exact fun h => intRow_fires h .min w sgn false
  case max => exact fun h => intRow_fires h .max w sgn false

/-! ### Floating point (R157 to R164) -/

theorem exec_fcmp_fires {s : State} {fmt : FloatFmt} {cc : FCmp} {tb ta : Target} (h : fires s (.fcmp fmt cc tb ta)) :
    let x := fcmpLane (scalarEnv s s.me s.focus.slot .rne) (floatData fmt) cc s.opL.toNat s.opR.toNat
    let v : Word := if x.1 then 1 else 0
    exec (.fcmp fmt cc tb ta) s = delivers s (raiseFlags s s.me x.2) ta tb (some v) (some v) := by
  intro x v
  have hv : wordOfNat (natOfBool x.1) = v := wordOfNat_natOfBool x.1
  rw [exec_fcmp, execFcmp, flagOp_fires h, ← hv]; rfl

/-- Settles O8: each instruction is the shape of its row, `valueOp` or `flagOp`, of its lanes' function. -/
theorem floatsDeliver : Obligations.FloatsDeliver := by
  intro s env one plain arith least sfu
  refine ⟨?fadd, ?fsub, ?fmul, ?fma, ?fmin, ?fmax, ?fcmp, ?fcvt, ?rcp, ?rsq, ?sqrt, ?exp2, ?log2, ?tanh, ?sigm, ?sinp, ?cosp,
    ?fclass, ?qscale, ?qcvt, ?qdeq, ?abs, ?neg, ?copysign⟩
  case fadd => exact fun fmt rm pk sat _ _ h => fopRow_fires h .add fmt rm pk sat
  case fsub => exact fun fmt rm pk sat _ _ h => fopRow_fires h .sub fmt rm pk sat
  case fmul => exact fun fmt rm pk sat _ _ h => fopRow_fires h .mul fmt rm pk sat
  case fma => exact fun fmt rm pk sat _ _ h => fopRow_fires h .fma fmt rm pk sat
  case fmin => exact fun fmt pk prop _ _ h => fminRow_fires h false fmt pk prop
  case fmax => exact fun fmt pk prop _ _ h => fminRow_fires h true fmt pk prop
  case fcmp => exact fun _ _ _ _ => exec_fcmp_fires
  case fcvt => exact fun _ sat rm dst src h => flagOp_fires h fun s c i l _ _ => fcvt (scalarEnv s c i rm) src dst sat 0 l.toNat
  case rcp => exact fun _ h => sfuRow_fires h .rcp
  case rsq => exact fun _ h => sfuRow_fires h .rsq
  case sqrt => exact fun _ h => sfuRow_fires h .sqrt
  case exp2 => exact fun _ h => sfuRow_fires h .exp2
  case log2 => exact fun _ h => sfuRow_fires h .log2
  case tanh => exact fun _ h => sfuRow_fires h .tanh
  case sigm => exact fun _ h => sfuRow_fires h .sigm
  case sinp => exact fun _ h => sfuRow_fires h .sinp
  case cosp => exact fun _ h => sfuRow_fires h .cosp
  case fclass => exact fun fmt _ _ h => valueOp_fires h fun l _ _ => wordOfNat (fclassMask (floatData fmt) l.toNat)
  case qscale =>
    exact fun _ amax elem h => flagOp_fires h fun s c i l _ _ =>
      let x := qscaleOf (scalarEnv s c i .rne) (qfmtData amax) elem l.toNat
      (wordOfNat x.1, x.2)
  case qcvt =>
    exact fun fmt rm sat _ _ h hq => quantRow_fires h (fun e el sc x => qcvtOf e (qfmtData fmt) el sc sat 0 x) rm hq
  case qdeq =>
    exact fun fmt rm sat _ _ h hq => quantRow_fires h (fun e el sc x => qdeqOf e (qfmtData fmt) el sc sat 0 x) rm hq
  case abs => exact fun fmt _ _ h => valueOp_fires h fun l _ _ => wordOfNat (codeIn fmt l % signWeight fmt)
  case neg => exact fun fmt _ _ h => valueOp_fires h fun l _ _ => wordOfNat (codeIn fmt l ^^^ signWeight fmt)
  case copysign =>
    exact fun fmt _ _ h => valueOp_fires h fun l r _ =>
      wordOfNat (codeIn fmt l % signWeight fmt + codeIn fmt r / signWeight fmt * signWeight fmt)

end Sys2Proof.Machine
end

section
/-!
Family 08: loads, stores and atomics of the scratchpad, requests to device memory, fences, `WAITA`, `MBAR`, `KETTLE` and `SPAWN`.
-/

namespace Sys2Proof.Machine

/-! ### Scratchpad accesses (R177, R180, R181) -/

/-- A scratchpad write that has room. -/
theorem padStore_some {s t : State} {c : CoreId} {a : Nat} {bs : List Byte} (h : padWrite s c a bs = some t) (i : Nat)
    (k : State → State) : padStore s c i a bs k = k t := by
  simp only [padStore, h]

theorem exec_ldl_fires {s : State} {scope : Scope} {acq : Bool} {w : AccWidth} {tb ta : Target}
    (h : fires s (.ldl scope acq w tb ta)) (hm : mayAccess s s.opL.toNat (accSize w) accLoad false false) :
    exec (.ldl scope acq w tb ta) s = delivers s s ta tb
      (some (extendTo (accSize w) (accSigned w) (natOfBytes (padRead s s.me s.opL.toNat (accSize w))))) (some 0) := by
  rw [exec_ldl, execLdl, perform_fires h, leafAccess_ok hm]; rfl

theorem exec_stl_fires {s t : State} {scope : Scope} {rel : Bool} {w : AccWidth} {tb ta : Target}
    (h : fires s (.stl scope rel w tb ta))
    (hm : mayAccess s s.opL.toNat (accSize w) accStore rel (rel && scopeWide scope))
    (hw : padWrite s s.me s.opL.toNat (bytesOf (accSize w) s.opR.toNat) = some t) :
    exec (.stl scope rel w tb ta) s = .next (complete (formOf (.stl scope rel w tb ta)) t s.me s.focus.slot (some 0) (some 0)) := by
  rw [State.me] at hw
  rw [exec_stl, execStl, perform_fires h, leafAccess_ok hm, padStore_some hw]; rfl

/-- Settles O9. -/
theorem leafLoadStore : Obligations.LeafLoadStore := by
  intro s
  constructor
  · exact fun _ _ _ _ _ => exec_ldl_fires
  · exact fun _ _ _ _ _ _ => exec_stl_fires

theorem atomlRow_fires {s t : State} {x : Instr} {op : Nat} {scope : Scope} {ord : Order} (h : fires s x)
    (hm : mayAccess s s.opL.toNat (atomicSize op) accAtomic (ordRel ord) (ordRel ord && scopeWide scope))
    (hw : padWrite s s.me s.opL.toNat (bytesOf (atomicSize op)
      (atomicOp op (wordOfNat (natOfBytes (padRead s s.me s.opL.toNat (atomicSize op)))) s.opR).toNat) = some t) :
    atomlRow (formOf x) op scope ord s =
      completes s t x (some (wordOfNat (natOfBytes (padRead s s.me s.opL.toNat (atomicSize op))))) (some 0) := by
  rw [State.me] at hw
  rw [atomlRow, perform_fires h, leafAccess_ok hm, padStore_some hw]; rfl

/-- A comparison that fails writes nothing (R181). -/
theorem exec_casl_differs {s : State} {scope : Scope} {ord : Order} {w : CasWidth} {tb ta : Target}
    (h : fires s (.casl scope ord w tb ta))
    (hm : mayAccess s s.opL.toNat (casSize w) accAtomic (ordRel ord) (ordRel ord && scopeWide scope))
    (hne : natOfBytes (padRead s s.me s.opL.toNat (casSize w)) ≠ s.opR.toNat % 2 ^ (8 * casSize w)) :
    exec (.casl scope ord w tb ta) s = completes s s (.casl scope ord w tb ta)
      (some (extendTo (casSize w) (casSigned w) (natOfBytes (padRead s s.me s.opL.toNat (casSize w))))) (some 0) := by
  rw [State.me] at hne
  rw [exec_casl, execCasl, perform_fires h, leafAccess_ok hm, if_neg hne]; rfl

theorem exec_casl_equals {s t : State} {scope : Scope} {ord : Order} {w : CasWidth} {tb ta : Target}
    (h : fires s (.casl scope ord w tb ta))
    (hm : mayAccess s s.opL.toNat (casSize w) accAtomic (ordRel ord) (ordRel ord && scopeWide scope))
    (heq : natOfBytes (padRead s s.me s.opL.toNat (casSize w)) = s.opR.toNat % 2 ^ (8 * casSize w))
    (hw : padWrite s s.me s.opL.toNat (bytesOf (casSize w) s.opT.toNat) = some t) :
    exec (.casl scope ord w tb ta) s = completes s t (.casl scope ord w tb ta)
      (some (extendTo (casSize w) (casSigned w) (natOfBytes (padRead s s.me s.opL.toNat (casSize w))))) (some 0) := by
  rw [State.me] at heq hw
  rw [exec_casl, execCasl, perform_fires h, leafAccess_ok hm, if_pos heq, padStore_some hw]; rfl

/-- Settles O10: the eight `ATOML`s are one row, and `CASL` splits on its comparison. -/
theorem leafAtomics : Obligations.LeafAtomics := by
  intro s scope ord tb ta acts
  refine ⟨?add, ?and, ?or, ?xor, ?xchg, ?smin, ?smax, ?fadd, ?casl⟩
  case add => exact fun _ h hm hw => atomlRow_fires h hm hw
  case and => exact fun _ h hm hw => atomlRow_fires h hm hw
  case or => exact fun _ h hm hw => atomlRow_fires h hm hw
  case xor => exact fun _ h hm hw => atomlRow_fires h hm hw
  case xchg => exact fun _ h hm hw => atomlRow_fires h hm hw
  case smin => exact fun _ h hm hw => atomlRow_fires h hm hw
  case smax => exact fun _ h hm hw => atomlRow_fires h hm hw
  case fadd => exact fun _ h hm hw => atomlRow_fires h hm hw
  case casl => exact fun _ h hm => ⟨exec_casl_differs h hm, fun _ => exec_casl_equals h hm⟩

/-! ### Table 14 (R132, R114) -/

/-- A code is read at the width of its format. -/
theorem readF_mod (env : FEnv) (fmt : DataFmt) (code : Nat) : readF env fmt (code % 2 ^ fmtWidth fmt) = readF env fmt code := by
  simp only [readF, decodeF, Nat.mod_mod]

theorem fopLane_mod (env : FEnv) (fmt : DataFmt) (op : FOp) (sat : Bool) (lane a b c : Nat) :
    fopLane env fmt op sat lane (a % 2 ^ fmtWidth fmt) (b % 2 ^ fmtWidth fmt) c = fopLane env fmt op sat lane a b c := by
  simp only [fopLane, readF_mod]

/-- Settles O11: the first seven by the order of `BitVec`, the float addition by the width that it reads its codes at. -/
theorem atomicTable : Obligations.AtomicTable := by
  intro old arg
  refine ⟨rfl, rfl, rfl, rfl, rfl, ?smin, ?smax, ?fadd⟩
  case smin => simp only [atomicOp, BitVec.sle_iff_toInt_le]
  case smax => simp only [atomicOp, BitVec.sle_iff_toInt_le]
  case fadd =>
    have hlane := fopLane_mod {} .f32 .add false 0 old.toNat arg.toNat 0
    exact congrArg (fun v => wordOfNat v.1) hlane.symm

/-! ### Requests to device memory (R178 to R181, R185) -/

theorem atomgRow_fires {s : State} {x : Instr} {op : Nat} {scope : Scope} {ord : Order} (h : fires s x)
    (hm : mayRequest s s.opL.toNat (atomicSize op) (ordRel ord) scope) :
    atomgRow (formOf x) op scope ord s =
      sends s (focusRequest s s.opL.toNat (atomicSize op) true true (ordAcq ord) (ordRel ord) scope (.atomic op s.opR)) := by
  rw [atomgRow, perform_fires h, request_ok hm]

/-- Settles O12: each instruction performs by one `request`, which leaves when its address is good and nothing is ordered before it. -/
theorem deviceRequestsLeave : Obligations.DeviceRequestsLeave := by
  intro s scope tb ta
  refine ⟨?ldg, ?stg, ?atomg, ?casg, ?dev, ?sys⟩
  case ldg => exact fun _ _ h hm => by rw [exec_ldg, execLdg, perform_fires h, request_ok hm]
  case stg => exact fun _ _ h hm => by rw [exec_stg, execStg, perform_fires h, request_ok hm]
  case atomg =>
    intro ord acts
    refine ⟨?_, ?_, ?_, ?_, ?_, ?_, ?_, ?_⟩ <;> exact fun h hm => atomgRow_fires h hm
  case casg => exact fun _ _ h hm => by rw [exec_casg, execCasg, perform_fires h, request_ok hm]
  case dev => exact fun _ _ h hm => by rw [exec_waitaDev, execWaitaDev, perform_fires h, request_ok hm]
  case sys => exact fun _ _ h hm => by rw [exec_waitaSys, execWaitaSys, perform_fires h, request_ok hm]

/-! ### Fences (R183) -/

/-- A fence whose conditions hold. -/
theorem fence_fires {s : State} {x : Instr} {acq rel xp : Bool} {scope : Scope} (h : fires s x)
    (hgrant : ((rel && scopeWide scope) && !irrevocable s s.me) = false)
    (hrel : (rel && releasePending s s.me (rel && scopeWide scope)) = false)
    (hacq : (acq && (loadPending s s.me || kettlePending s s.me)) = false)
    (hxp : (xp && storePending s s.me) = false) (hputs : ((rel && scopeWide scope) && putsWaiting s s.me) = false) :
    fence (formOf x) acq rel xp scope s =
      completes s (if xp then s.modStrand s.me fun st => { st with xp := true } else s) x (some 0) (some 0) := by
  rw [State.me] at *
  rw [fence, perform_fires h]
  simp only [hgrant, hrel, hacq, hxp, hputs, Bool.or_self, Bool.false_eq_true, if_false]
  rfl

/-- Settles O13: the four kinds of fence, each with the conditions that it has. -/
theorem fencesComplete : Obligations.FencesComplete := by
  intro s ta scope wide t
  refine ⟨?acq, ?rel, ?ar, ?xp⟩
  case acq =>
    intro xp h hl hk hs
    exact fence_fires h rfl rfl (by rw [hl, hk]; rfl) hs rfl
  case rel =>
    intro xp h hg hr hs hp
    exact fence_fires h hg hr rfl hs hp
  case ar =>
    intro xp h hg hr hl hk hs hp
    exact fence_fires h hg hr (by rw [hl, hk]; rfl) hs hp
  case xp =>
    intro h hs
    exact fence_fires h rfl rfl rfl hs rfl

/-! ### `WAITA` in the scratchpad (R184, R185) -/

theorem exec_waitaLeaf_holds {s : State} {cond : WaitCond} {w : AccWidth} {tb ta : Target} (h : fires s (.waitaLeaf cond w tb ta))
    (hm : mayAccess s s.opL.toNat (accSize w) accLoad false false)
    (hv : waitHolds cond.code (waitValue s s.me s.opL.toNat w) s.opR = true) :
    exec (.waitaLeaf cond w tb ta) s =
      completes s s (.waitaLeaf cond w tb ta) (some (waitValue s s.me s.opL.toNat w)) (some 0) := by
  rw [State.me] at hv
  rw [exec_waitaLeaf, execWaitaLeaf, perform_fires h, leafAccess_ok hm, if_pos hv]; rfl

theorem exec_waitaLeaf_fails {s : State} {cond : WaitCond} {w : AccWidth} {tb ta : Target} (h : fires s (.waitaLeaf cond w tb ta))
    (hm : mayAccess s s.opL.toNat (accSize w) accLoad false false)
    (hv : waitHolds cond.code (waitValue s s.me s.opL.toNat w) s.opR = false) :
    exec (.waitaLeaf cond w tb ta) s = .next (stay s s.me s.focus.slot) := by
  rw [State.me] at hv
  rw [exec_waitaLeaf, execWaitaLeaf, perform_fires h, leafAccess_ok hm, if_neg (by rw [hv]; decide)]; rfl

theorem exec_waitaRound_holds {s : State} {cond : WaitCond} {w : AccWidth} {tb ta : Target} (h : fires s (.waitaRound cond w tb ta))
    (hm : mayAccess s s.opL.toNat (accSize w) accLoad false false)
    (hv : waitHolds cond.code (waitValue s s.me s.opL.toNat w) s.opR = true) :
    exec (.waitaRound cond w tb ta) s =
      completes s s (.waitaRound cond w tb ta) (some (waitValue s s.me s.opL.toNat w)) (some 0) := by
  rw [State.me] at hv
  rw [exec_waitaRound, execWaitaRound, perform_fires h, leafAccess_ok hm, if_pos hv]; rfl

theorem exec_waitaRound_fails {s : State} {cond : WaitCond} {w : AccWidth} {tb ta : Target} (h : fires s (.waitaRound cond w tb ta))
    (hm : mayAccess s s.opL.toNat (accSize w) accLoad false false)
    (hv : waitHolds cond.code (waitValue s s.me s.opL.toNat w) s.opR = false) :
    exec (.waitaRound cond w tb ta) s = .next (sleepOn s s.me
      { device := false, line := s.opL.toNat / 64, va := s.opL.toNat, size := accSize w,
        seen := natOfBytes (padRead s s.me s.opL.toNat (accSize w)) }) := by
  rw [State.me] at hv
  rw [exec_waitaRound, execWaitaRound, perform_fires h, leafAccess_ok hm, if_neg (by rw [hv]; decide)]; rfl

/-- Settles O14: each `WAITA` splits on its condition. -/
theorem leafWaits : Obligations.LeafWaits := by
  constructor
  · intro s cond w tb ta la v
    exact ⟨fun h hm => ⟨exec_waitaLeaf_holds h hm, exec_waitaLeaf_fails h hm⟩,
      fun h hm => ⟨exec_waitaRound_holds h hm, exec_waitaRound_fails h hm⟩⟩
  · intro v cmp
    exact ⟨beq_iff_eq, bne_iff_ne, decide_eq_true_iff, decide_eq_true_iff⟩

/-! ### `MBAR` (R188) -/

theorem mbarSet_some {s t : State} {la : Nat} (g : Mbar → Mbar) (h : padWrite s s.me la (g (mbarAt s s.me la)).bytes = some t)
    (f : Form) (i : Nat) : mbarSet f s s.focus.core i la g = complete f t s.me i tok tok := by
  rw [State.me] at h ⊢
  simp only [mbarSet, mbarUpdate, h]

/-- Settles O15: `INIT`, `ARRIVE` and `EXPECT` are one `mbarSet`, and `TEST` and `WAIT` read the object. -/
theorem barriersComplete : Obligations.BarriersComplete := by
  intro s tb ta la r o
  refine ⟨?init, ?arrive, ?expect, ?test, ?wait⟩
  case init =>
    intro t h hm hw
    rw [exec_mbarInit, execMbarInit, perform_fires h, mbarAccess_ok hm, mbarSet_some (fun _ => Mbar.init r) hw]; rfl
  case arrive =>
    intro t h (hm : mayMbar s la (decide (1 ≤ r) && decide (r ≤ (mbarAt s s.focus.core la).pend)) true) hw
    rw [exec_mbarArrive, execMbarArrive, perform_fires h, mbarAccess_ok hm, mbarSet_some (Mbar.arrive r) hw]; rfl
  case expect =>
    intro t h hm hw
    rw [exec_mbarExpect, execMbarExpect, perform_fires h, mbarAccess_ok hm, mbarSet_some (Mbar.expect r) hw]; rfl
  case test =>
    intro h hm
    rw [exec_mbarTest, execMbarTest, perform_fires h, mbarAccess_ok hm, wordOfNat_natOfBool]; rfl
  case wait =>
    intro h hm (hd : (mbarAt s s.focus.core la).isDone r = true)
    rw [exec_mbarWait, execMbarWait, perform_fires h, mbarAccess_ok hm, if_pos hd]; rfl

/-! ### The layout of an `MBAR` object (R187) -/

/-- Fields of records put together. -/
theorem slice_append_left {xs ys : List Byte} {off n : Nat} (h : off + n ≤ xs.length) :
    slice (xs ++ ys) off n = slice xs off n := by
  refine List.map_congr_left fun i hi => ?_
  have hlt := (mem_upTo n i).1 hi
  exact List.getD_append _ _ _ _ (by omega)

theorem slice_append_right {xs ys : List Byte} {off n : Nat} (h : xs.length ≤ off) :
    slice (xs ++ ys) off n = slice ys (off - xs.length) n := by
  refine List.map_congr_left fun i _ => ?_
  rw [List.getD_append_right _ _ _ _ (by omega), Nat.sub_add_comm h]

theorem slice_all {xs : List Byte} {n : Nat} (h : xs.length = n) : slice xs 0 n = xs := by
  induction xs using List.reverseRecOn generalizing n with
  | nil => subst h; rfl
  | append_singleton xs x ih =>
    obtain rfl : n = xs.length + 1 := by rw [← h, List.length_append]; rfl
    have hleft : slice (xs ++ [x]) 0 xs.length = xs := (slice_append_left (by omega)).trans (ih rfl)
    have hlast : (xs ++ [x]).getD (0 + xs.length) 0 = x := by simp
    rw [slice, upTo, List.map_append, List.map_singleton, hlast]
    exact congrArg (· ++ [x]) hleft

/-- An object read back from its bytes. -/
theorem mbarOf_bytes (o : Mbar) :
    mbarOf o.bytes = ⟨o.pend % 2 ^ 32, o.count % 2 ^ 32, o.tx % 2 ^ 32, o.phase % 2 ^ 32⟩ := by
  have hlen : ∀ v, (bytesOf 4 v).length = 4 := bytesOf_length 4
  have hpend : slice o.bytes 0 4 = bytesOf 4 o.pend := by
    rw [Mbar.bytes, slice_append_left (by simp), slice_append_left (by simp), slice_append_left (by simp), slice_all (hlen _)]
  have hcount : slice o.bytes 4 4 = bytesOf 4 o.count := by
    rw [Mbar.bytes, slice_append_left (by simp), slice_append_left (by simp), slice_append_right (by simp), hlen,
      slice_all (hlen _)]
  have htx : slice o.bytes 8 4 = bytesOf 4 o.tx := by
    rw [Mbar.bytes, slice_append_left (by simp), slice_append_right (by simp)]
    simp only [List.length_append, hlen]
    exact slice_all (hlen _)
  have hphase : slice o.bytes 12 4 = bytesOf 4 o.phase := by
    rw [Mbar.bytes, slice_append_right (by simp)]
    simp only [List.length_append, hlen]
    exact slice_all (hlen _)
  simp only [mbarOf, field, hpend, hcount, htx, hphase, natOfBytes_bytesOf]
  rfl

/-- `Settle` (R188): a phase is over when no arrival and no byte is to come. -/
theorem Mbar.settle_open {o : Mbar} (h : ¬ (o.pend = 0 ∧ o.tx = 0)) : o.settle = o := if_neg h

theorem Mbar.settle_over {o : Mbar} (hp : o.pend = 0) (ht : o.tx = 0) :
    o.settle = { o with phase := (o.phase + 1) % 2 ^ 32, pend := o.count } := if_pos ⟨hp, ht⟩

/-- Settles O16: the new counts, and `Settle` of them. -/
theorem barrierObject : Obligations.BarrierObject := by
  intro o r hpend htx
  have hsub : r ≤ o.pend → (o.pend + 2 ^ 32 - r % 2 ^ 32) % 2 ^ 32 = o.pend - r := fun h => by omega
  refine ⟨?init, ?arriveOpen, ?arriveLast, ?expectOpen, ?expectLast, ?layout⟩
  case init =>
    intro h
    simp only [Mbar.init, Nat.mod_eq_of_lt (show r < 2 ^ 32 by omega)]
  case arriveOpen =>
    intro h hopen
    rw [Mbar.arrive, hsub h]
    exact Mbar.settle_open fun hz => hopen ⟨by have := hz.1; simp only at this; omega, hz.2⟩
  case arriveLast =>
    intro h ht
    rw [Mbar.arrive, hsub h.le, h, Nat.sub_self]
    exact Mbar.settle_over rfl ht
  case expectOpen => exact fun hopen => Mbar.settle_open hopen
  case expectLast =>
    intro hp ht
    rw [Mbar.expect, ht]
    exact Mbar.settle_over hp rfl
  case layout => rw [mbarOf_bytes, Nat.mod_eq_of_lt hpend, Nat.mod_eq_of_lt htx]

/-! ### `KETTLE` and `SPAWN` (R196, R198) -/

theorem exec_kettle_arrives {s : State} {g : Nat} {tb ta : Target} (hg : s.gathOf s.me = some g) (h : fires s (.kettle tb ta))
    (hid : s.opL.toNat < 64) (he : earlierPending s s.me = false) (hk : kettlePending s s.me = false) :
    exec (.kettle tb ta) s = .next (owe
      (s.modGath g fun x =>
        let came := (tget x.kettles s.opL.toNat).getD [] ++ [claimOf s s.me s.focus.slot]
        { x with kettles := tset x.kettles s.opL.toNat came })
      s.me s.focus.slot) := by
  rw [State.me] at hg he hk
  rw [exec_kettle, execKettle, perform_fires h, decide_eq_true hid, limit_ok, he, hk, hg]
  rfl

theorem exec_spawn_queues {s : State} {g : Nat} {x : Gathering} {tb ta : Target} (hg : s.gathOf s.me = some g)
    (hx : s.gath g = some x) (h : fires s (.spawn tb ta)) (hz : bits s.opL.toNat 15 12 = 0) (hl : s.opL.toNat < 2 ^ 32)
    (hroom : x.spawns.length < Config.spawnLimit) :
    exec (.spawn tb ta) s = completes s
      (s.modGath g fun x =>
        { x with spawns := x.spawns ++ [⟨bits s.opL.toNat 11 0, bits s.opL.toNat 31 16, s.opR.toNat⟩] })
      (.spawn tb ta) (some 0) (some 0) := by
  rw [State.me] at hg
  have hok : (bits s.opL.toNat 15 12 == 0 && decide (s.opL.toNat < 2 ^ 32)) = true := by rw [hz, decide_eq_true hl]; rfl
  rw [exec_spawn, execSpawn, perform_fires h, hok, limit_ok, hg, Option.bind_some, hx, Option.getD_some]
  exact congrArg Host.Outcome.next (if_neg (not_le.mpr hroom))

/-- Settles O17: both in a gathering. -/
theorem kettleSpawn : Obligations.KettleSpawn := by
  intro s g x tb ta hg hx
  exact ⟨exec_kettle_arrives hg, exec_spawn_queues hg hx⟩

end Sys2Proof.Machine
end

section
/-!
Family 08 and the engines: copies (R189 to R195), `FLAG` (R331) and `KVOP` (R313, R315, R318).
-/

namespace Sys2Proof.Machine

/-! ### What an update of a strand leaves alone -/

@[simp] theorem gathOf_modStrand (s : State) (c d : CoreId) (f : Strand → Strand) : (s.modStrand c f).gathOf d = s.gathOf d := by
  cases c with
  | control => rfl
  | strand n t =>
    cases d with
    | control => rfl
    | strand m u =>
      simp only [State.modStrand, State.gathOf, State.leaf_modLeaf]
      split
      · subst m; rfl
      · rfl

@[simp] theorem gath_modStrand (s : State) (c : CoreId) (f : Strand → Strand) (g : Nat) : (s.modStrand c f).gath g = s.gath g := by
  cases c <;> rfl

@[simp] theorem ctxOf_modStrand (s : State) (c d : CoreId) (f : Strand → Strand) : (s.modStrand c f).ctxOf d = s.ctxOf d := by
  simp only [State.ctxOf, gathOf_modStrand, gath_modStrand]

@[simp] theorem ctxOf_modSlot (s : State) (c d : CoreId) (i : Nat) (f : Slot → Slot) : (s.modSlot c i f).ctxOf d = s.ctxOf d :=
  ctxOf_modStrand ..

@[simp] theorem context_modSlot (s : State) (c : CoreId) (i : Nat) (f : Slot → Slot) (k : Nat) :
    (s.modSlot c i f).context k = s.context k := by
  rw [State.context, State.modSlot_contexts, State.context]

/-! ### Copies (R189 to R195) -/

/-- A record whose bytes may be reached is read. -/
theorem readRecord_ok {s : State} {la n : Nat} (h : mayAccess s la n accLoad false false) (i : Nat)
    (k : State → List Byte → State) : readRecord s s.focus.core i la n k = k s (padRead s s.focus.core la n) :=
  leafAccess_ok h i _

/-- A copy between the leaf and device memory whose record, range and object are good. -/
theorem deviceCopy_ok {s : State} {c : CoreId} {dev la len done : Nat} {ok : Bool} (hok : ok = true)
    (hf : copyFields len done = true) (hd : dev < 2 ^ 52) (hl : la < 2 ^ padBits c) (hp : padRefused s c la len = none)
    (hm : mbarOk s c done = true) (i kind sel dval acc : Nat) (x : Copy) :
    deviceCopy s c i kind dev la len sel dval done acc ok x = acceptCopy s c i { x with kind, sel, dval } := by
  have hlim : (ok && copyFields len done && decide (dev < 2 ^ 52) && decide (la < 2 ^ padBits c)) = true := by
    rw [hok, hf, decide_eq_true hd, decide_eq_true hl]; rfl
  rw [deviceCopy, hlim, limit_ok, hp]
  simp only [hm, Bool.not_true, Bool.false_eq_true, if_false]

/-- A `SEND` to a leaf of its package whose range is good, with its grant where it leaves its gathering. -/
theorem sendChecked_here {s : State} {c : CoreId} {dst len sel : Nat} (hsel : sel = 0xFF) (hpkg : bits dst 41 34 = s.pkg)
    (href : sendRefused s c dst len sel = none) (hgrant : sendAway s c dst sel = true → irrevocable s c = true)
    (i src dval done : Nat) :
    sendChecked s c i src dst len sel dval done = acceptCopy s c i
      { newCopy 2 src dst len sel dval done (linesFrom src len) (linesFrom (bits dst 17 0) len) with
        into := if sendOwnLeaf s c dst then none else (otherLeaf s (s.ctxOf c) (sendLeaf dst)).map (·.1) } := by
  subst hsel
  have hg : ¬ (sendAway s c dst 0xFF = true ∧ (!irrevocable s c) = true) := fun ⟨h1, h2⟩ => by rw [hgrant h1] at h2; cases h2
  simp only [sendChecked, hpkg, href, if_neg hg, ne_eq, not_true_eq_false, false_and, if_true, if_false, true_and]
  cases sendOwnLeaf s c dst <;> rfl

/-- A `SEND` by a channel to another package. -/
theorem sendChecked_channel {s : State} {c : CoreId} {src dst len sel w : Nat} (hsel : sel ≠ 0xFF)
    (hw : (tget (s.context (s.ctxOf c)).channels sel).getD 0 = w) (hv : chValid w = true) (hpkg : bits dst 41 34 = chPkg w)
    (hend : bits dst 17 0 + len ≤ Config.leafBytes)
    (hkeep : coreIsControl c = true ∨ keepRange (s.leaf ((coreLeaf c).getD 0)).partw src len = true)
    (hgrant : irrevocable s c = true) (hbroken : (s.sender (chSender w)).broken = false) (i dval done : Nat) :
    sendChecked s c i src dst len sel dval done = acceptCopy s c i
      { newCopy 2 src dst len sel dval done (linesFrom src len) (linesFrom (bits dst 17 0) len) with
        chans := [chSender w] } := by
  have href : sendRefused s c dst len sel = none := by
    rw [sendRefused, if_neg (not_lt.mpr hend), if_pos hsel]
  have hk : ¬ ((!coreIsControl c) = true ∧ (!keepRange (s.leaf ((coreLeaf c).getD 0)).partw src len) = true) := by
    rintro ⟨h1, h2⟩
    rcases hkeep with h | h <;> simp only [h, Bool.not_true, Bool.false_eq_true] at h1 h2
  simp only [sendChecked, hw, hv, hpkg, href, hgrant, hbroken, hk, hsel, ne_eq, not_false_eq_true, not_true_eq_false,
    Bool.not_true, Bool.false_eq_true, if_false, and_false, false_and]
  rfl

/-- A multicast whose record, group and ranges are good. -/
theorem exec_cpMc_accepted {s : State} {tb ta : Target} {src dst len sel dval done : Nat} {g : Gathering} {ns : List Nat}
    (h : fires s (.cpMc tb ta)) (hm : mayAccess s s.opL.toNat 32 accLoad false false)
    (hrec : copyRecord (padRead s s.me s.opL.toNat 32) = (src, dst, len, sel, dval, done))
    (hf : copyFields len done = true) (hobj : mbarOk s s.me done = true) (hz : bits sel 6 4 = 0) (hs : src < 2 ^ 52)
    (hd : dst < 2 ^ 18) (hg : (s.gathOf s.me).bind s.gath = some g) (hns : groupLeaves g (g.mcast.getD (sel % 16) 0) = some ns)
    (hla : ∀ n ∈ ns, laRefused (s.leaf n).partw dst len true = none) :
    exec (.cpMc tb ta) s = .next (acceptCopy s s.me s.focus.slot
      { newCopy 3 src dst len sel dval done (linesFrom src len)
          ((upTo ns.length).flatMap fun k => (linesFrom dst len).map fun p => (p.1 + k * 2 ^ 19, p.2)) with dests := ns }) := by
  rw [State.me] at hrec hobj hg ⊢
  have hlim : (copyFields len done && decide (src < 2 ^ 52) && decide (dst < 2 ^ 18) && bits sel 6 4 == 0) = true := by
    rw [hf, decide_eq_true hs, decide_eq_true hd, hz]; rfl
  have hnone : (ns.findSome? fun n => (laRefused (s.leaf n).partw dst len true).map fun d => (n, d)) = none := by
    rw [List.findSome?_eq_none_iff]
    intro n hn
    rw [hla n hn, Option.map_none]
  rw [exec_cpMc, execCpMc, perform_fires h, readRecord_ok hm, hrec]
  simp only [hlim, limit_ok, hg, Option.bind_some, hns, hnone, hobj, Bool.not_true, Bool.false_eq_true, if_false]

/-- A refill whose record, ranges and object are good. -/
theorem exec_cpFib_accepted {s : State} {tb ta : Target} {bs : List Byte} (hbs : padRead s s.me s.opL.toNat 32 = bs)
    (h : fires s (.cpFib tb ta)) (hm : mayAccess s s.opL.toNat 32 accLoad false false)
    (hok : (decide (field bs 0 8 < 2 ^ 52) && field bs 0 8 % 4 == 0 && decide (field bs 8 8 < 2 ^ 52) && field bs 8 8 % 4 == 0 &&
      decide (field bs 16 4 < 2 ^ 30) && ringLa (field bs 16 4) % 64 == 0 && decide (field bs 20 4 < 65536) &&
      bits (field bs 24 8) 51 (padBits s.me) == 0 && descLa s.me (field bs 24 8) % 16 == 0) = true)
    (hring : padRefused s s.me (ringLa (field bs 16 4)) (64 * (bits (field bs 16 4) 29 18 + 1)) = none)
    (hdesc : padRefused s s.me (descLa s.me (field bs 24 8)) 16 = none) (hobj : mbarOk s s.me (field bs 24 8) = true) :
    exec (.cpFib tb ta) s = .next (acceptCopy s s.me s.focus.slot
      { newCopy 4 (field bs 0 8) (ringLa (field bs 16 4)) 8 0 0 0 (linesFrom (field bs 0 8) 8) [] with
        crd := field bs 8 8, ring := 64 * (bits (field bs 16 4) 29 18 + 1), head := 4 * field bs 20 4,
        desc := descLa s.me (field bs 24 8), mbar := doneMbar (field bs 24 8) }) := by
  rw [State.me] at *
  rw [exec_cpFib, execCpFib, perform_fires h, readRecord_ok hm, hbs]
  simp only [hok, limit_ok, hring, hdesc, hobj, Bool.not_true, Bool.false_eq_true, if_false]

/-- Settles O18: the two copies between leaf and device memory, the two kinds of `SEND`, the multicast, and the refill. -/
theorem copiesAccepted : Obligations.CopiesAccepted := by
  constructor
  · intro s tb ta src dst len sel dval done hm hrec hf hobj
    rw [State.me] at hrec hobj ⊢
    refine ⟨?ld, ?st, ?here, ?channel, ?mc⟩
    case ld =>
      intro h hsel hs hd hp
      rw [exec_cpLd, execCpLd, perform_fires h, readRecord_ok hm, hrec]
      exact congrArg Host.Outcome.next (deviceCopy_ok (beq_iff_eq.mpr hsel) hf hs hd hp hobj ..)
    case st =>
      intro h hsel hd hs hp
      rw [exec_cpSt, execCpSt, perform_fires h, readRecord_ok hm, hrec]
      exact congrArg Host.Outcome.next (deviceCopy_ok (beq_iff_eq.mpr hsel) hf hd hs hp hobj ..)
    case here =>
      intro h hsel hs hd hov hp hpkg href hgrant
      rw [exec_cpSend, execCpSend, perform_fires h, readRecord_ok hm, hrec]
      have hlim : (copyFields len done && decide (src < 2 ^ padBits s.focus.core) && decide (dst < 2 ^ 42) &&
          !sendOverlaps s.focus.core src dst len sel) = true := by
        rw [hf, decide_eq_true hs, decide_eq_true hd, hov]; rfl
      simp only [hlim, limit_ok, hp, hobj, Bool.not_true, Bool.false_eq_true, if_false]
      rw [sendChecked_here hsel hpkg href hgrant]
    case channel =>
      intro w h hsel hw hv hs hd hp hpkg hend hkeep hgrant hbroken
      rw [exec_cpSend, execCpSend, perform_fires h, readRecord_ok hm, hrec]
      have hov : sendOverlaps s.focus.core src dst len sel = false := by
        cases s.focus.core <;> simp only [sendOverlaps, beq_eq_false_iff_ne.mpr hsel, Bool.false_and]
      have hlim : (copyFields len done && decide (src < 2 ^ padBits s.focus.core) && decide (dst < 2 ^ 42) &&
          !sendOverlaps s.focus.core src dst len sel) = true := by
        rw [hf, decide_eq_true hs, decide_eq_true hd, hov]; rfl
      simp only [hlim, limit_ok, hp, hobj, Bool.not_true, Bool.false_eq_true, if_false]
      rw [sendChecked_channel hsel hw hv hpkg hend hkeep hgrant hbroken]
    case mc => exact fun g ns h hz hs hd hg hns hla => exec_cpMc_accepted h hm hrec hf hobj hz hs hd hg hns hla
  · intro s tb ta bs ring size desc h hm hpos hpos4 hcrd hcrd4 hring hring64 hhead hdesc hdesc16 hpr hpd hobj
    refine exec_cpFib_accepted rfl h hm ?_ hpr hpd hobj
    simp only [Bool.and_eq_true, decide_eq_true_eq, beq_iff_eq]
    exact ⟨⟨⟨⟨⟨⟨⟨⟨hpos, hpos4⟩, hcrd⟩, hcrd4⟩, hring⟩, hring64⟩, hhead⟩, hdesc⟩, hdesc16⟩

end Sys2Proof.Machine
end

section
/-!
The engines' instructions once their records are read: `FLAG` (R331) and `KVOP` (R313, R315, R318).
-/

namespace Sys2Proof.Machine

/-! ### `FLAG` -/

theorem flagGo_of_phase2 {s : State} {c : CoreId} {i : Nat} (h : (s.slot c i).phase = 2) (f : Form) :
    flagGo s c i f = flagSend s c i f := by
  have h1 : ¬ (s.slot c i).phase = 1 := by omega
  rw [flagGo, if_neg h1, if_pos h]

/-- The grant, the channel and the room of a flag are there: it leaves. -/
theorem flagSend_ok {s : State} {c : CoreId} {i : Nat} (f : Form) (hgrant : irrevocable s c = true) :
    let bs := (s.slot c i).latch
    let e := chSender ((tget (s.context (s.ctxOf c)).channels (field bs 16 1)).getD 0)
    (s.sender e).broken = false → releasePending s c true = false →
    ((s.sender e).waits.any fun w => w.gath == s.gathOf c) = false → flagRoom (s.sender e) = true →
    flagSend s c i f = complete f (issueFlag s e
      { index := 0, upto := 0, addr := (s.slot c i).arg, value := field bs 8 8, dval := field bs 20 4, done := field bs 24 8,
        isFlag := true, core := some c, gath := s.gathOf c, inst := instOf s (s.gathOf c) }) c i tok tok := by
  intro bs e hbroken hrel hwaits hroom
  simp only [flagSend, hgrant, hbroken, hrel, hwaits, hroom, bs, e, Bool.not_true, Bool.or_self, Bool.false_eq_true, if_false]

theorem exec_flag_sends {s : State} {tb ta : Target} (h : fires s (.flag tb ta)) (hphase : s.here.phase = 2) :
    exec (.flag tb ta) s = .next (flagSend s s.me s.focus.slot (formOf (.flag tb ta))) := by
  rw [State.here] at hphase
  have h0 : ¬ (s.slot s.focus.core s.focus.slot).phase = 0 := by omega
  rw [exec_flag, execFlag, perform_fires h, if_neg h0, flagGo_of_phase2 hphase]; rfl

/-- The first part of a `FLAG` whose record names a usable channel, and neither a flag nor a done word, goes straight on. -/
theorem flagStart_bare {s : State} {c : CoreId} {i : Nat} {bs : List Byte} (hbs : (s.slot c i).latch = bs)
    (haddr : field bs 0 8 = 0) (hz : field bs 17 3 = 0) (hdone : field bs 24 8 = 0) (hchan : field bs 16 1 ≠ 0xFF)
    (hvalid : chValid ((tget (s.context (s.ctxOf c)).channels (field bs 16 1)).getD 0) = true) :
    flagStart s c i = (stay s c i).modSlot c i fun x => { x with phase := 2, arg := 0 } := by
  have hlim : (decide (field bs 0 8 < 2 ^ 52) && field bs 0 8 % 8 == 0 && field bs 17 3 == 0 &&
      doneWord (field bs 24 8) % 4 == 0) = true := by rw [haddr, hz, hdone]; decide
  have hobj : mbarOk s c 0 = true := rfl
  rw [flagStart, hbs, hlim, limit_ok]
  simp only [hdone, hobj, hchan, hvalid, haddr, Bool.not_true, Bool.false_eq_true, if_false, if_true]
  rfl

/-- The slot after its record is latched. -/
theorem slot_latchRecord {s : State} {c : CoreId} {i : Nat} (h : ready s c i = true) (bs : List Byte) :
    ((latchRecord s c i bs).slot c i).latch = bs ∧ ((latchRecord s c i bs).slot c i).phase = 1 := by
  obtain ⟨b, hb, hi⟩ := ready_block h
  have hstay : ((stay s c i).strand c).block = some { b with slots := lmod b.slots i fun x => { x with status := .waiting } } :=
    block_modSlot hb i _
  rw [latchRecord, slot_modSlot_self hstay (by rwa [lmod_length])]
  exact ⟨rfl, rfl⟩

/-- A slot after two updates of it. -/
theorem phase_go {s : State} {c : CoreId} {i : Nat} (h : ready s c i = true) (bs : List Byte) (f : Slot → Slot) :
    (((stay (latchRecord s c i bs) c i).modSlot c i f).slot c i) = f (((stay (latchRecord s c i bs) c i)).slot c i) := by
  obtain ⟨b, hb, hi⟩ := ready_block h
  have hlatch := block_modSlot (block_modSlot hb i fun x => { x with status := .waiting }) i
    fun x => { x with latch := bs, phase := 1 }
  have hstay := block_modSlot hlatch i fun x => { x with status := .waiting }
  exact slot_modSlot_self hstay (by simpa only [lmod_length] using hi) f

/-- A `FLAG` that has just read such a record goes on to its grant. -/
theorem flagGo_bare {s : State} {c : CoreId} {i : Nat} {bs : List Byte} (h : ready s c i = true) (haddr : field bs 0 8 = 0)
    (hz : field bs 17 3 = 0) (hdone : field bs 24 8 = 0) (hchan : field bs 16 1 ≠ 0xFF)
    (hvalid : chValid ((tget (s.context (s.ctxOf c)).channels (field bs 16 1)).getD 0) = true) (f : Form) :
    flagGo (latchRecord s c i bs) c i f = flagSend
      ((stay (latchRecord s c i bs) c i).modSlot c i fun x => { x with phase := 2, arg := 0 }) c i f := by
  obtain ⟨hlatch, hone⟩ := slot_latchRecord h bs
  have hctx : (latchRecord s c i bs).context ((latchRecord s c i bs).ctxOf c) = s.context (s.ctxOf c) := by
    simp only [latchRecord, stay, context_modSlot, ctxOf_modSlot]
  have hstart := flagStart_bare hlatch haddr hz hdone hchan (hctx ▸ hvalid)
  have htwo := congrArg Slot.phase (phase_go h bs fun x => { x with phase := 2, arg := 0 })
  rw [flagGo, if_pos hone, hstart, if_pos htwo]

theorem exec_flag_bare {s : State} {tb ta : Target} {bs : List Byte} (hbs : padRead s s.me s.opL.toNat 32 = bs)
    (h : fires s (.flag tb ta)) (hphase : s.here.phase = 0) (hm : mayAccess s s.opL.toNat 32 accLoad false false)
    (haddr : field bs 0 8 = 0) (hz : field bs 17 3 = 0) (hdone : field bs 24 8 = 0) (hchan : field bs 16 1 ≠ 0xFF)
    (hvalid : chValid ((tget (s.context (s.ctxOf s.me)).channels (field bs 16 1)).getD 0) = true) :
    exec (.flag tb ta) s = .next (flagSend
      ((stay (latchRecord s s.me s.focus.slot bs) s.me s.focus.slot).modSlot s.me s.focus.slot fun x =>
        { x with phase := 2, arg := 0 })
      s.me s.focus.slot (formOf (.flag tb ta))) := by
  rw [State.here] at hphase
  rw [State.me] at hbs
  rw [exec_flag, execFlag, perform_fires h, if_pos hphase, readRecord_ok hm, hbs]
  exact congrArg Host.Outcome.next (flagGo_bare h.2.1 haddr hz hdone hchan hvalid _)

/-! ### `KVOP` -/

theorem translateFor_ok {s u : State} {c : CoreId} {i va acc : Nat} {t : Trans}
    (h : engineTrans s (.instr c i) (placeOf c (s.ctxOf c) va) (s.ctxOf c) va acc false = .ok (t, u)) (k : State → Trans → State) :
    translateFor s c i va acc k = k (u.modSlot c i fun x => { x with hold := none }) t := by
  simp only [translateFor, h]

/-- A mass request whose sums are read, and which nothing is ordered before: its additions are held or applied. -/
theorem exec_kvopMass_sends {s u v : State} {tb ta : Target} {t : Trans} (h : fires s (.kvopMass tb ta)) (hphase : 5 ≤ s.here.phase)
    (hreqs : s.reqs.any (fun r => r.2.core == s.me) = false)
    (hdev : devPending s s.me (field s.here.latch 0 8 + 0x40) 256 = false)
    (htrans : engineTrans s (.instr s.me s.focus.slot) (placeOf s.me (s.ctxOf s.me) (field s.here.latch 0 8 + 0x40)) (s.ctxOf s.me)
      (field s.here.latch 0 8 + 0x40) accAtomic false = .ok (t, u)) :
    let u := u.modSlot s.me s.focus.slot fun x => { x with hold := none }
    stageAll u (u.ctxOf s.me) (u.gathOf s.me) (instOf u (u.gathOf s.me)) (massItems t s.me (s.here.latch.drop 16)) = .done v →
    exec (.kvopMass tb ta) s = completes s v (.kvopMass tb ta) (some 0) (some 0) := by
  intro u hstage
  simp only [State.me, State.here, u] at *
  have h0 : (s.slot s.focus.core s.focus.slot).phase ≠ 0 := by omega
  rw [exec_kvopMass, execKvopMass, perform_fires h, if_pos h0, massRead, if_pos hphase, massSend]
  simp only [hreqs, hdev, Bool.or_self, Bool.false_eq_true, if_false, translateFor_ok htrans, hstage]
  rfl

theorem exec_kvopEvict_sends {s : State} {tb ta : Target} (h : fires s (.kvopEvict tb ta)) (hphase : s.here.phase = 2) :
    exec (.kvopEvict tb ta) s = .next (evictSend s s.me s.focus.slot) := by
  rw [State.here] at hphase
  have h0 : (s.slot s.focus.core s.focus.slot).phase ≠ 0 := by omega
  have h1 : ¬ (s.slot s.focus.core s.focus.slot).phase = 1 := by omega
  rw [exec_kvopEvict, execKvopEvict, perform_fires h, if_pos h0, evictGo, if_neg h1]
  exact congrArg Host.Outcome.next (if_pos hphase)

theorem evictSend_ok {s : State} {c : CoreId} {i : Nat} (h : irrevocable s c = true) :
    let x := s.slot c i
    let r : EvictReq :=
      { claim := claimOf s c i, gath := s.gathOf c, inst := instOf s (s.gathOf c), ctx := s.ctxOf c,
        seq := field x.latch 0 8, pa := x.arg, done := field x.latch 8 8, dval := field x.latch 16 4 }
    let e := engineOf x.arg
    evictSend s c i = owe { s with evicts := tset s.evicts e ((tget s.evicts e).getD [] ++ [r]) } c i := by
  simp only [evictSend, h, Bool.not_true, Bool.false_eq_true, if_false]

theorem exec_kvopStat_requests {s : State} {tb ta : Target} {va : Nat} (hva : field (padRead s s.me s.opL.toNat 8) 0 8 = va)
    (h : fires s (.kvopStat tb ta)) (hm : mayAccess s s.opL.toNat 8 accLoad false false) (hr : va + 0x20 < 2 ^ 52)
    (hal : va % 256 = 0) (hacq : acquirePending s s.me = false) :
    exec (.kvopStat tb ta) s = sends s (focusRequest s (va + 0x20) 8 false false true false .device (.load false)) := by
  have hreq : mayRequest s (va + 0x20) 8 false .device := ⟨hr, by omega, by rw [hacq]; rfl⟩
  have hok : ¬ (2 ^ 52 ≤ va ∨ va % 256 ≠ 0) := by omega
  rw [State.me] at hva
  rw [exec_kvopStat, execKvopStat, perform_fires h, readRecord_ok hm, hva, if_neg hok, request_ok hreq]

/-- Settles O19: each instruction by the part of it that stands after its record is read. -/
theorem engineRequestsLeave : Obligations.EngineRequestsLeave := by
  constructor
  · intro s tb ta bs e
    refine ⟨?flag, ?mass, ?evict, ?stat⟩
    case flag =>
      intro h hphase hgrant hbroken hrel hwaits hroom
      rw [exec_flag_sends h hphase]
      exact congrArg Host.Outcome.next (flagSend_ok _ hgrant hbroken hrel hwaits hroom)
    case mass =>
      intro t u v h hphase va hreqs hdev htrans u' hstage
      exact exec_kvopMass_sends h hphase hreqs hdev htrans hstage
    case evict =>
      intro h hphase hgrant q r
      rw [exec_kvopEvict_sends h hphase]
      exact congrArg Host.Outcome.next (evictSend_ok hgrant)
    case stat =>
      intro va h hm hr hal hacq
      exact exec_kvopStat_requests rfl h hm hr hal hacq
  · intro s tb ta bs w h hphase hm haddr hz hdone hchan hvalid
    exact exec_flag_bare rfl h hphase hm haddr hz hdone hchan hvalid

end Sys2Proof.Machine
end

section
/-!
Families 09 and 11: the unit instructions (R246), the instructions on stream ports (R241, R264 to R267), and the vector pipeline's
(R214 to R216).
-/

namespace Sys2Proof.Machine

/-- The limits of an operand whose access goes through. -/
theorem limitLa_access {s : State} {la n acc : Nat} {rel act : Bool} (h : mayAccess s la n acc rel act) (i detail : Nat)
    (k : State → State) : limitLa s s.focus.core i la n detail k = k s := limitLa_ok h.1 h.2.1

/-! ### Unit instructions -/

theorem exec_flcfg_loads {s : State} {u : FUnit} {tb ta : Target} (h : fires s (.flcfg u tb ta)) (hrun : (s.unit s.lf u).run = false)
    (hm : mayAccess s s.opL.toNat 64 accLoad false false)
    (hr : recordBad (s.leaf s.lf).routes (unitCode u) (padRead s s.me s.opL.toNat 64) = none) :
    exec (.flcfg u tb ta) s = completes s (s.modUnit s.lf u fun x => loadedUnit x (padRead s s.me s.opL.toNat 64))
      (.flcfg u tb ta) (some 0) (some 0) := by
  rw [State.lf] at hrun hr
  rw [State.me] at hr
  rw [exec_flcfg, execFlcfg, perform_fires h, limitLa_access hm]
  simp only [hrun, Bool.false_eq_true, if_false, leafAccess_ok hm, hr]
  rfl

theorem exec_flgo_starts {s : State} {u : FUnit} {tb ta : Target} (h : fires s (.flgo u tb ta)) (hc : (s.unit s.lf u).cfgd = true) :
    exec (.flgo u tb ta) s = completes s
      (if (s.unit s.lf u).run then s
        else s.modUnit s.lf u fun x => startedUnit x (s.strand s.me).fpmode (coreIndex s.me))
      (.flgo u tb ta) (some 0) (some 0) := by
  rw [State.lf] at hc
  rw [exec_flgo, execFlgo, perform_fires h]
  simp only [hc, Bool.not_true, Bool.false_eq_true, if_false]
  rfl

theorem exec_flstop_stopped {s : State} {u : FUnit} {tb ta : Target} (h : fires s (.flstop u tb ta))
    (hrun : (s.unit s.lf u).run = false) :
    exec (.flstop u tb ta) s = completes s s (.flstop u tb ta) (some 0) (some 0) := by
  rw [State.lf] at hrun
  rw [exec_flstop, execFlstop, perform_fires h]
  simp only [hrun, Bool.not_false, if_true]
  rfl

/-- A unit between two tokens stops at once. -/
theorem exec_flstop_boundary {s : State} {u : FUnit} {tb ta : Target} (h : fires s (.flstop u tb ta))
    (hrun : (s.unit s.lf u).run = true) (hbusy : unitBusy s s.lf u = false) :
    exec (.flstop u tb ta) s = completes s (s.modUnit s.lf u stoppedUnit) (.flstop u tb ta) (some 0) (some 0) := by
  rw [State.lf] at hrun hbusy
  rw [exec_flstop, execFlstop, perform_fires h]
  simp only [hrun, hbusy, Bool.not_true, Bool.false_eq_true, if_false]
  rfl

/-- A unit inside a token goes on to its boundary. -/
theorem exec_flstop_inside {s : State} {u : FUnit} {tb ta : Target} (h : fires s (.flstop u tb ta))
    (hrun : (s.unit s.lf u).run = true) (hbusy : unitBusy s s.lf u = true) :
    exec (.flstop u tb ta) s = .next (stay (s.modUnit s.lf u fun x => { x with stopping := true }) s.me s.focus.slot) := by
  rw [State.lf] at hrun hbusy
  rw [exec_flstop, execFlstop, perform_fires h]
  simp only [hrun, hbusy, Bool.not_true, Bool.false_eq_true, if_false, if_true]
  rfl

/-- Settles O20. -/
theorem flowUnitControl : Obligations.FlowUnitControl := by
  intro s u tb ta r
  refine ⟨exec_flcfg_loads, exec_flgo_starts, ?stat, ?stop⟩
  case stat => exact fun h => (exec_flstat _ _ _ s).trans (valueOp_fires h _)
  case stop => exact fun h => ⟨exec_flstop_stopped h, exec_flstop_boundary h, exec_flstop_inside h⟩

/-! ### Sends and barriers of the block core -/

@[simp] theorem focus_queueSend (s : State) (c : CoreId) (i p : Nat) : (queueSend s c i p).focus = s.focus := by
  unfold queueSend
  split <;> simp

/-- A send that is its port's next, at a port that may take it. -/
theorem sendOwn_ok {s : State} {c : CoreId} {i p : Nat} (hnext : nextSend s ((coreLeaf c).getD 0) p = some (ownSend s c i p))
    (henter : mayEnter s ((coreLeaf c).getD 0) p = true) (t : Token) (k : State → State) :
    let e := (enterFrom s ((coreLeaf c).getD 0) p (ownSend s c i p) t).modLeaf ((coreLeaf c).getD 0) fun l =>
      { l with sendq := l.sendq.erase (ownSend s c i p) }
    sendOwn s c i p t k = pumpSends (k (sendOver e (claimOf e c i) p)) ((coreLeaf c).getD 0) :=
  if_pos ⟨hnext, henter⟩

/-- The token of `SPUSH` of a kind other than data. -/
def bareSend (kind : PushKind) (r : Word) : Token := { kind := pushKind kind, level := bits r.toNat 18 16 }

/-- The token of `SPUSH.data`. -/
def dataSend (s : State) (r : Word) (la : Nat) : Token :=
  { kind := .data, deckle := r.setWidth 16, lanes := maskLanes r.toNat (padRead s s.focus.core la 64) }

theorem exec_spush_bare {s : State} {kind : PushKind} {port : Fin 8} {tb ta : Target} (hk : kind ≠ .data)
    (h : fires s (.spush kind port tb ta)) (hb : coreBound s s.lf (8 + port.val) = true) (hok : pushOk kind s.opR = true) :
    exec (.spush kind port tb ta) s = .next
      (sendOwn (queueSend s s.focus.core s.focus.slot port.val) s.focus.core s.focus.slot port.val (bareSend kind s.opR)
        fun e => complete (formOf (.spush kind port tb ta)) e s.focus.core s.focus.slot tok tok) := by
  rw [State.lf] at hb
  rw [exec_spush, execSpush, perform_fires h]
  simp only [hb, hok, limit_ok, Bool.not_true, Bool.false_eq_true, if_false]
  cases kind with
  | data => exact absurd rfl hk
  | stop | done | empty | turn => rfl

theorem exec_spush_data {s : State} {port : Fin 8} {tb ta : Target} (h : fires s (.spush .data port tb ta))
    (hb : coreBound s s.lf (8 + port.val) = true) (hok : pushOk .data s.opR = true)
    (hr : s.opL.toNat < (if coreIsControl s.me then Config.localBytes else Config.leafBytes)) (hal : s.opL.toNat % 64 = 0)
    (hm : mayAccess (queueSend s s.me s.focus.slot port.val) s.opL.toNat 64 accLoad false false) :
    exec (.spush .data port tb ta) s = .next
      (sendOwn (queueSend s s.focus.core s.focus.slot port.val) s.focus.core s.focus.slot port.val
        (dataSend (queueSend s s.focus.core s.focus.slot port.val) s.opR s.opL.toNat)
        fun e => complete (formOf (.spush .data port tb ta)) e s.focus.core s.focus.slot tok tok) := by
  rw [State.lf] at hb
  rw [State.me] at hr hm
  have hpad := leafAccess_ok hm
  rw [focus_queueSend] at hpad
  rw [exec_spush, execSpush, perform_fires h]
  simp only [hb, hok, limit_ok, Bool.not_true, Bool.false_eq_true, if_false, limitLa_ok hr hal, hpad, dataSend, focus_queueSend]

theorem exec_sbar_completes {s : State} {tb ta : Target} (h : fires s (.sbar tb ta)) (hl : s.opL.toNat < 65536)
    (hphase : s.here.phase = 1)
    (hout : ∀ p < 8, s.opL.toNat.testBit (8 + p) = true → allRemoved s s.lf p (field s.here.latch (8 * p) 8) = true)
    (hin : ∀ p < 8, s.opL.toNat.testBit p = true → inputFinished s s.lf p (field s.here.latch (64 + 8 * p) 8) = true) :
    exec (.sbar tb ta) s = completes s s (.sbar tb ta) (some 0) (some 0) := by
  rw [State.here] at hphase
  have h0 : ¬ (s.slot s.focus.core s.focus.slot).phase = 0 := by omega
  have hall : ((upTo 8).all (fun p => !testBit s.opL.toNat (8 + p) || allRemoved s s.lf p (field s.here.latch (8 * p) 8)) &&
      (upTo 8).all fun p => !testBit s.opL.toNat p || inputFinished s s.lf p (field s.here.latch (64 + 8 * p) 8)) = true := by
    simp only [Bool.and_eq_true, List.all_eq_true, mem_upTo, Bool.or_eq_true, Bool.not_eq_true', testBit_toNat]
    exact ⟨fun p hp => (Bool.eq_false_or_eq_true _).symm.imp_right (hout p hp),
      fun p hp => (Bool.eq_false_or_eq_true _).symm.imp_right (hin p hp)⟩
  rw [State.here, State.lf] at hall
  rw [exec_sbar, execSbar, perform_fires h, decide_eq_true hl, limit_ok]
  simp only [if_neg h0]
  exact congrArg Host.Outcome.next (if_pos hall)

/-- Settles O21: the send by the kind of its token, then the barrier. -/
theorem pushAndBarrier : Obligations.PushAndBarrier := by
  refine ⟨?push, fun s tb ta => exec_sbar_completes⟩
  intro s kind port tb ta t q h hb hok hdata ht hnext henter
  by_cases hk : kind = .data
  · subst hk
    obtain ⟨hal, hr, hm⟩ := hdata rfl
    rw [exec_spush_data h hb hok hr hal hm, ht]
    exact congrArg Host.Outcome.next ((sendOwn_ok hnext henter _ _).trans (by simp only [dataSend, focus_queueSend]; rfl))
  · rw [exec_spush_bare hk h hb hok, ht, if_neg hk]
    exact congrArg Host.Outcome.next (sendOwn_ok hnext henter _ _)

/-! ### `SPOP`, `SCTL` and `RTSET` -/

theorem exec_spop_takes {s u : State} {nb : Bool} {p : Fin 8} {t : Token} {tb ta : Target} (h : fires s (.spop nb p tb ta))
    (hb : coreBound s s.lf p.val = true) (hd : headOf s s.lf p.val = some t)
    (hm : mayAccess s s.opL.toNat 64 accStore false false) (hw : padWrite s s.me s.opL.toNat t.payload = some u) :
    exec (.spop nb p tb ta) s =
      completes s (dropHead u s.lf p.val) (.spop nb p tb ta) (some (wordOfNat (t.control + 2 ^ 23))) (some 0) := by
  rw [State.lf] at hb hd
  rw [State.me] at hw
  rw [exec_spop, execSpop, perform_fires h]
  simp only [hb, hd, limitLa_access hm, leafAccess_ok hm, padStore_some hw, Bool.not_true, Bool.false_eq_true, if_false]
  rfl

theorem exec_spop_empty {s : State} {p : Fin 8} {tb ta : Target} (h : fires s (.spop true p tb ta))
    (hb : coreBound s s.lf p.val = true) (hd : headOf s s.lf p.val = none)
    (hr : s.opL.toNat < (if coreIsControl s.me then Config.localBytes else Config.leafBytes)) (hal : s.opL.toNat % 64 = 0) :
    exec (.spop true p tb ta) s = completes s s (.spop true p tb ta) (some 0) (some 0) := by
  rw [State.lf] at hb hd
  rw [State.me] at hr
  rw [exec_spop, execSpop, perform_fires h]
  simp only [hb, hd, limitLa_ok hr hal, Bool.not_true, Bool.false_eq_true, if_false, if_true]
  rfl

theorem exec_sctlStatus_reports {s : State} {port : StreamPort} {tb ta : Target} (h : fires s (.sctlStatus port tb ta))
    (hl : s.opL = 0) :
    exec (.sctlStatus port tb ta) s =
      completes s s (.sctlStatus port tb ta) (some (wordOfNat (portStatus s s.lf port))) (some 0) := by
  rw [exec_sctlStatus, execSctlStatus, perform_fires h, hl]; rfl

theorem exec_sctlDrain_over {s : State} {p : Fin 8} {k : Nat} {tb ta : Target} (h : fires s (.sctlDrain (.inp p) tb ta))
    (hl : s.opL.toNat < 65536)
    (hk : drainCount s.opL.toNat s.here.arg ((s.leaf s.lf).inputs.getD p.val {}).held = (k, true)) :
    exec (.sctlDrain (.inp p) tb ta) s =
      completes s (dropAll s.lf p.val (k - s.here.arg) s) (.sctlDrain (.inp p) tb ta) (some (wordOfNat k)) (some 0) := by
  rw [State.here, State.lf] at hk
  rw [exec_sctlDrain, execSctlDrain, perform_fires h]
  simp only [decide_eq_true hl, limit_ok, hk, if_true]
  rfl

theorem exec_sctlReset_input {s : State} {p : Fin 8} {tb ta : Target} (h : fires s (.sctlReset (.inp p) tb ta)) (hl : s.opL = 0) :
    exec (.sctlReset (.inp p) tb ta) s = completes s
      ((dropAll s.lf p.val ((s.leaf s.lf).inputs.getD p.val {}).held.length s).modLeaf s.lf fun l =>
        { l with inputs := lmod l.inputs p.val fun q => { q with dseen := false } })
      (.sctlReset (.inp p) tb ta) (some 0) (some 0) := by
  rw [exec_sctlReset, execSctlReset, perform_fires h, hl]; rfl

theorem exec_sctlReset_output {s : State} {p : Fin 8} {tb ta : Target} (h : fires s (.sctlReset (.out p) tb ta)) (hl : s.opL = 0)
    (hq : portQuiet s s.lf (.out p) = true) :
    exec (.sctlReset (.out p) tb ta) s = completes s s (.sctlReset (.out p) tb ta) (some 0) (some 0) := by
  rw [State.lf] at hq
  rw [exec_sctlReset, execSctlReset, perform_fires h, hl]
  exact congrArg Host.Outcome.next (if_pos hq)

theorem exec_rtset_quiet {s : State} {port : StreamPort} {n : Nat} {g : Gathering} {tb ta : Target}
    (h : fires s (.rtset port tb ta)) (hn : coreLeaf s.me = some n) (hg : (s.gathOf s.me).bind s.gath = some g)
    (hw : routeBad g (s.leaf n).routes (portNum port) s.opL = none) (hq : portQuiet s n port = true) :
    exec (.rtset port tb ta) s = completes s (setRoute s n port s.opL) (.rtset port tb ta) (some 0) (some 0) := by
  rw [State.me] at hn hg
  rw [exec_rtset, execRtset, perform_fires h]
  simp only [hn, hg, hw, hq, if_true]
  rfl

/-- Settles O22. -/
theorem portsServed : Obligations.PortsServed := fun _ _ _ =>
  ⟨fun _ _ _ _ => exec_spop_takes, fun _ => exec_spop_empty, fun _ => exec_sctlStatus_reports, fun _ _ => exec_sctlDrain_over,
    fun _ => exec_sctlReset_input, fun _ => exec_sctlReset_output, fun _ _ _ => exec_rtset_quiet⟩

/-! ### The vector pipeline -/

theorem exec_vpcfg_loads {s : State} {tb ta : Target} (h : fires s (.vpcfg tb ta)) (hrun : (s.vp s.lf).run = false)
    (hm : mayAccess s s.opL.toNat 64 accLoad false false)
    (hr : vpBad (s.leaf s.lf).routes (padRead s s.me s.opL.toNat 64) = none) :
    exec (.vpcfg tb ta) s = completes s (s.modVp s.lf fun x => loadedVp x (padRead s s.me s.opL.toNat 64)) (.vpcfg tb ta)
      (some 0) (some 0) := by
  rw [State.lf] at hrun hr
  rw [State.me] at hr
  rw [exec_vpcfg, execVpcfg, perform_fires h, limitLa_access hm]
  simp only [hrun, Bool.false_eq_true, if_false, leafAccess_ok hm, hr]
  rfl

theorem exec_vpgo_starts {s : State} {tb ta : Target} (h : fires s (.vpgo tb ta)) (hc : (s.vp s.lf).cfgd = true) :
    exec (.vpgo tb ta) s = completes s
      (if (s.vp s.lf).run then s
        else s.modVp s.lf fun x => startedVp x (s.strand s.me).fpmode (coreIndex s.me) (vpAfter s s.lf))
      (.vpgo tb ta) (some 0) (some 0) := by
  rw [State.lf] at hc
  rw [exec_vpgo, execVpgo, perform_fires h]
  simp only [hc, Bool.not_true, Bool.false_eq_true, if_false]
  rfl

/-- Settles O23. -/
theorem vectorControl : Obligations.VectorControl := by
  intro s tb ta r
  refine ⟨exec_vpcfg_loads, exec_vpgo_starts, ?stat, ?const⟩
  case stat => exact fun h => (exec_vpstat _ _ s).trans (valueOp_fires h _)
  case const =>
    intro stage h hl
    rw [exec_vpconst, execVpconst, perform_fires h, decide_eq_true hl]; rfl

end Sys2Proof.Machine
end

section
/-!
Family 09: tiles that move (R77, R218 to R220), commands of the matrix cell (R221), `MXWAIT` and `ACCOP` (R227, R228).
-/

namespace Sys2Proof.Machine

/-! ### Tiles -/

theorem exec_tldLa_starts {s : State} {tb ta : Target} (hacq : acquirePending s s.me = false) (hal : s.opL.toNat % 64 = 0)
    (h : fires s (.tldLa tb ta)) (hc : coreIsControl s.me = false) (hr : s.opL.toNat < Config.leafBytes)
    (hsrc : tileSource (s.leaf s.lf).partw s.opL.toNat 4096 = true) (hv : (s.leaf s.lf).vfull = false) :
    exec (.tldLa tb ta) s = .next (startTile s s.me s.focus.slot 6 s.opL.toNat 0x1000 4096) := by
  simp only [State.me, State.lf] at *
  have hlim : s.opL.toNat < if coreIsControl s.focus.core then Config.localBytes else Config.leafBytes := by rwa [hc]
  rw [exec_tldLa, execTldLa, perform_fires h, limitLa_ok hlim hal]
  simp only [hsrc, limit_ok, hv, hacq, Bool.or_self, Bool.false_eq_true, if_false]

theorem exec_tldDev_starts {s : State} {tb ta : Target} (hacq : acquirePending s s.me = false) (hal : s.opL.toNat % 64 = 0)
    (h : fires s (.tldDev tb ta)) (hr : s.opL.toNat < 2 ^ 52) (hv : (s.leaf s.lf).vfull = false) :
    exec (.tldDev tb ta) s = .next (startTile s s.me s.focus.slot 7 s.opL.toNat 0x1000 4096) := by
  simp only [State.me, State.lf] at *
  rw [exec_tldDev, execTldDev, perform_fires h, limitVa_ok hr hal]
  simp only [hv, hacq, Bool.or_self, Bool.false_eq_true, if_false]

theorem exec_tstLa_starts {s : State} {tb ta : Target} (hacq : acquirePending s s.me = false) (hal : s.opL.toNat % 64 = 0)
    (h : fires s (.tstLa tb ta)) (hc : coreIsControl s.me = false) (hr : s.opL.toNat < Config.leafBytes)
    (hdst : tileDest (s.leaf s.lf).partw s.opL.toNat 4096 0 4096 = true) :
    exec (.tstLa tb ta) s = .next (startTile s s.me s.focus.slot 8 0 s.opL.toNat 4096) := by
  simp only [State.me, State.lf] at *
  have hlim : s.opL.toNat < if coreIsControl s.focus.core then Config.localBytes else Config.leafBytes := by rwa [hc]
  rw [exec_tstLa, execTstLa, perform_fires h, limitLa_ok hlim hal]
  simp only [hdst, limit_ok, hacq, Bool.false_eq_true, if_false]

theorem exec_tstDev_starts {s : State} {tb ta : Target} (hacq : acquirePending s s.me = false) (hal : s.opL.toNat % 64 = 0)
    (h : fires s (.tstDev tb ta)) (hr : s.opL.toNat < 2 ^ 52) :
    exec (.tstDev tb ta) s = .next (startTile s s.me s.focus.slot 9 0 s.opL.toNat 4096) := by
  rw [State.me] at hacq
  rw [exec_tstDev, execTstDev, perform_fires h, limitVa_ok hr hal]
  simp only [hacq, Bool.false_eq_true, if_false]
  rfl

theorem startTurn_ok {s : State} {c : CoreId} (h : (s.leaf ((coreLeaf c).getD 0)).turn = none) (i : Nat) (emit : Option Nat) :
    startTurn s c i emit = owe (s.modLeaf ((coreLeaf c).getD 0) fun l =>
      { l with turn := some { claim := claimOf s c i, before := (readersOf s ((coreLeaf c).getD 0)).map (·.num), emit } }) c i := by
  simp only [startTurn, h, Option.isSome_none, Bool.false_eq_true, if_false]

/-- Settles O24. -/
theorem tilesMoved : Obligations.TilesMoved := by
  refine ⟨?tiles, ?turns⟩
  case tiles =>
    intro s tb ta la starts hacq hal
    exact ⟨exec_tldLa_starts hacq hal, exec_tldDev_starts hacq hal, exec_tstLa_starts hacq hal, exec_tstDev_starts hacq hal⟩
  case turns =>
    intro s tb ta (hturn : (s.leaf ((coreLeaf s.focus.core).getD 0)).turn = none)
    refine ⟨?turn, ?emit⟩
    case turn =>
      intro h t
      rw [exec_tturn, execTturn, perform_fires h, startTurn_ok hturn]; rfl
    case emit =>
      intro p h
      rw [exec_tturnEmit, execTturnEmit, perform_fires h]
      simp only [hturn, Option.isSome_none, Bool.false_eq_true, if_false]
      rfl

/-! ### Matrix cells -/

theorem exec_mxcmd_queued {s : State} {tb ta : Target} (h : fires s (.mxcmd tb ta))
    (hbad : mxBad (fun k => (s.leaf (leafIn (quireOf s.lf) k)).partw) s.opL.toNat = none)
    (hroom : mxQueued (s.quire (quireOf s.lf)) < Config.mxQueue)
    (hturn : mxNext s (quireOf s.lf) (leafIndex s.lf) = leafIndex s.lf) :
    exec (.mxcmd tb ta) s = completes s
      (({ s with nextId := s.nextId + 1 } : State).modQuire (quireOf s.lf) fun u =>
        { u with
          queue := u.queue ++ [{ num := s.nextId, gath := ((s.leaf s.lf).gath).getD 0, word := s.opL.toNat, leaf := s.lf,
                                 strand := coreIndex s.me, ftz := (s.strand s.me).fpmode.getLsbD 4 }]
          lastMx := leafIndex s.lf })
      (.mxcmd tb ta) (some 0) (some 0) := by
  have hftz : testBit (s.strand s.me).fpmode.toNat 4 = (s.strand s.me).fpmode.getLsbD 4 := by
    rw [testBit, BitVec.getLsbD, Nat.testBit_eq_decide_div_mod_eq]; rfl
  rw [← hftz]
  simp only [State.lf] at *
  rw [exec_mxcmd, execMxcmd, perform_fires h]
  simp only [not_le.mpr hroom, hturn, hbad, ne_eq, not_true_eq_false, or_self, if_false]
  rfl

/-- An instruction that has noted the writers of its tile notes them no more. -/
theorem noteWriters_noted {s : State} {c : CoreId} {i : Nat} (h : (s.slot c i).phase = 1) (leaf tile : Nat) :
    noteWriters s c i leaf tile = s := if_neg (by omega)

theorem exec_mxwait_completes {s : State} {tb ta : Target} {n t : Nat} (hn : n = leafIn (quireOf s.lf) (bits s.opL.toNat 7 4))
    (ht : t = bits s.opL.toNat 2 0) (h : fires s (.mxwait tb ta)) (hl : s.opL.toNat < 256) (hz : s.opL.toNat.testBit 3 = false)
    (hacc : t < pwAcc (s.leaf n).partw) (hphase : s.here.phase = 1) (hdone : notedPending s s.me s.focus.slot n = false) :
    exec (.mxwait tb ta) s = completes s (s.modLeaf n fun l => { l with accFlags := lset l.accFlags t 0 })
      (.mxwait tb ta) (some (((s.leaf n).accFlags.getD t 0).setWidth 64)) (some 0) := by
  simp only [State.me, State.here, State.lf] at *
  have hz' : testBit s.opL.toNat 3 = false := (testBit_toNat _ _).trans hz
  rw [exec_mxwait, execMxwait, perform_fires h]
  simp only [← hn, ← ht, decide_eq_true hl, decide_eq_true hacc, hz', Bool.not_false, Bool.and_self, limit_ok,
    noteWriters_noted hphase, hdone, Bool.false_eq_true, if_false]
  rfl

theorem limitTile_ok {s : State} {l : Word} (h8 : l.toNat < 8) (hacc : l.toNat < pwAcc (s.leaf s.lf).partw) (i : Nat)
    (k : State → State) : limitTile s s.focus.core i l k = k s := by
  rw [State.lf] at hacc
  rw [limitTile, decide_eq_true h8, decide_eq_true hacc]; rfl

theorem exec_accopZero_starts {s : State} {tb ta : Target} (h8 : s.opL.toNat < 8) (hacc : s.opL.toNat < pwAcc (s.leaf s.lf).partw)
    (hphase : s.here.phase = 1) (hdone : notedPending s s.me s.focus.slot s.lf = false) (hacq : acquirePending s s.me = false)
    (h : fires s (.accopZero tb ta)) :
    exec (.accopZero tb ta) s =
      .next (startTile s s.me s.focus.slot 10 0 (tileLine (s.leaf s.lf) s.opL.toNat 0) 0x4000) := by
  have hlim := limitTile_ok h8 hacc
  simp only [State.me, State.here, State.lf] at *
  rw [exec_accopZero, execAccopZero, perform_fires h]
  simp only [hlim, noteWriters_noted hphase, hdone, hacq, Bool.or_self, Bool.false_eq_true, if_false]

theorem exec_accopCopy_starts {s : State} {tb ta : Target} (h8 : s.opL.toNat < 8) (hacc : s.opL.toNat < pwAcc (s.leaf s.lf).partw)
    (hphase : s.here.phase = 1) (hdone : notedPending s s.me s.focus.slot s.lf = false) (hacq : acquirePending s s.me = false)
    (h : fires s (.accopCopy tb ta))
    (hr : s.opR.toNat < (if coreIsControl s.me then Config.localBytes else Config.leafBytes)) (hal : s.opR.toNat % 64 = 0)
    (hdst : tileDest (s.leaf s.lf).partw s.opR.toNat 0x4000 (tileLine (s.leaf s.lf) s.opL.toNat 0) 0x4000 = true) :
    exec (.accopCopy tb ta) s =
      .next (startTile s s.me s.focus.slot 11 (tileLine (s.leaf s.lf) s.opL.toNat 0) s.opR.toNat 0x4000) := by
  have hlim := limitTile_ok h8 hacc
  simp only [State.me, State.here, State.lf] at *
  rw [exec_accopCopy, execAccopCopy, perform_fires h]
  simp only [hlim, limitLa_ok hr hal, hdst, limit_ok, noteWriters_noted hphase, hdone, hacq, Bool.or_self, Bool.false_eq_true,
    if_false]

/-- Settles O25. -/
theorem matrixIssued : Obligations.MatrixIssued := by
  intro s tb ta q
  refine ⟨exec_mxcmd_queued, exec_mxwait_completes rfl rfl, ?accop⟩
  case accop =>
    intro h8 hacc hphase hdone hacq la dst
    exact ⟨exec_accopZero_starts h8 hacc hphase hdone hacq, exec_accopCopy_starts h8 hacc hphase hdone hacq⟩

end Sys2Proof.Machine
end

section
/-!
Family 07, row 0x70: invalidation, page entries, apertures, saves, images and the device log (R166 to R172), `ERET` and `WFI` (R171).
-/

namespace Sys2Proof.Machine

/-! ### What an update of a slot leaves alone -/

@[simp] theorem gathOf_modSlot (s : State) (c d : CoreId) (i : Nat) (f : Slot → Slot) : (s.modSlot c i f).gathOf d = s.gathOf d :=
  gathOf_modStrand ..

@[simp] theorem gath_modSlot (s : State) (c : CoreId) (i : Nat) (f : Slot → Slot) (g : Nat) :
    (s.modSlot c i f).gath g = s.gath g := gath_modStrand ..

@[simp] theorem irrevocable_modSlot (s : State) (c d : CoreId) (i : Nat) (f : Slot → Slot) :
    irrevocable (s.modSlot c i f) d = irrevocable s d := by
  simp only [irrevocable, gathOf_modSlot, gath_modSlot]

@[simp] theorem padRead_length (s : State) (c : CoreId) (a n : Nat) : (padRead s c a n).length = n := by
  cases c with
  | strand => simp only [padRead, leafRead, List.length_map, upTo_length]
  | control => simp only [padRead, read_length]

theorem granted_ok {s : State} {c : CoreId} (h : irrevocable s c = true) (i : Nat) (k : State → State) : granted s c i k = k s :=
  if_pos h

/-! ### `TLBINV` (R166) -/

/-- An invalidation that finds no access in flight through the entries that it removes. -/
theorem tlbinv_idle {s : State} {c : CoreId} {i : Nat} {b : Block} {x : Inval} (hb : (s.strand c).block = some b)
    (hi : i < b.slots.length) (hirr : irrevocable s c = true) (hphase : (s.slot c i).phase = 0)
    (hidle : (s.reqs.any fun r => x.uses s r.2) = false) (f : Form) :
    tlbinv f s c i x = complete f ((uncache s x).modSlot c i fun y => { y with phase := 1, latch := [] }) c i tok tok := by
  have hids : s.reqs.filter (fun r => x.uses s r.2) = [] := by
    rw [List.filter_eq_nil_iff]
    exact List.any_eq_false.mp hidle
  have hinv : invalidate s c i x = (uncache s x).modSlot c i fun y => { y with phase := 1, latch := [] } := by
    rw [invalidate, hids]; rfl
  have hlatch : (((uncache s x).modSlot c i fun y => { y with phase := 1, latch := [] }).slot c i).latch = [] :=
    congrArg Slot.latch (slot_modSlot_self (s := uncache s x) hb hi _)
  have hnoted : notedReq ((uncache s x).modSlot c i fun y => { y with phase := 1, latch := [] }) c i = false := by
    rw [notedReq, hlatch]; rfl
  rw [tlbinv, granted_ok hirr, if_pos hphase, hinv]
  simp only [hnoted, Bool.false_eq_true, if_false]

theorem perform_tlbinv {s : State} {i : Instr} {x : Inval} (hirr : irrevocable s s.me = true) (hphase : s.here.phase = 0)
    (h : fires s i) (hidle : (s.reqs.any fun r => x.uses s r.2) = false) :
    .next (tlbinv (formOf i) s s.focus.core s.focus.slot x) = completes s
      (({ s with
          tlb := s.tlb.filter fun t => !x.entry t
          walks := s.walks.filter fun w => !x.walk w
          reqs := s.reqs.map (restartReq s x)
          misses := s.misses.map (restartMiss s x) } : State).modSlot
        s.me s.focus.slot fun y => { y with phase := 1, latch := [] })
      i (some 0) (some 0) := by
  obtain ⟨b, hb, hi⟩ := ready_block h.2.1
  exact congrArg Host.Outcome.next (tlbinv_idle hb hi hirr hphase hidle (formOf i))

/-! ### Records at any place (R168, R170) -/

/-- A record of 32 bytes that one access reads, or that stands in its slot. -/
def recordRead (s : State) (a : Nat) (bs : List Byte) (u : State) : Prop :=
  (s.here.latch = [] ∧ a % 64 + 32 ≤ 64 ∧ mayPad s a 32 accLoad false false ∧ bs = padRead s s.me a 32 ∧
    u = s.modSlot s.me s.focus.slot fun x => { x with latch := bs }) ∨
  (s.here.latch = bs ∧ bs.length = 32 ∧ u = s)

theorem readAnywhere_ok {s u : State} {a : Nat} {bs : List Byte} (h : recordRead s a bs u) (k : State → List Byte → State) :
    readAnywhere s s.focus.core s.focus.slot a 32 k = k u bs := by
  obtain ⟨hlatch, hline, hm, rfl, rfl⟩ | ⟨hlatch, hlen, rfl⟩ := h
  · simp only [State.here, State.me] at *
    have hmin : min 32 (64 - a % 64) = 32 := by omega
    simp only [readAnywhere, hlatch, List.length_nil, Nat.reduceEqDiff, if_false, padAccess_ok hm, Nat.sub_zero, Nat.add_zero, hmin,
      List.nil_append, padRead_length, if_true]
  · rw [State.here] at hlatch
    simp only [readAnywhere, hlatch, hlen, if_true]

theorem irrevocable_recordRead {s u : State} {a : Nat} {bs : List Byte} (h : recordRead s a bs u) (c : CoreId) :
    irrevocable u c = irrevocable s c := by
  obtain ⟨-, -, -, -, rfl⟩ | ⟨-, -, rfl⟩ := h
  · exact irrevocable_modSlot ..
  · rfl

/-! ### The acts of firmware -/

theorem exec_pgset_writes {s : State} {tb ta : Target} (hirr : irrevocable s s.me = true) (h : fires s (.pgset tb ta))
    (hal : s.opL.toNat % 8 = 0) (hap : isAperture s.opL.toNat = false) (hback : isBacked s.opL.toNat = true)
    (hacq : acquirePending s s.me = false) (hrel : releasePending s s.me true = false) :
    exec (.pgset tb ta) s =
      completes s (hbmWrite s s.opL.toNat (bytesOf 8 s.opR.toNat)) (.pgset tb ta) (some 0) (some 0) := by
  rw [State.me] at *
  rw [exec_pgset, execPgset, perform_fires h]
  simp only [hal, hap, hback, hacq, hrel, granted_ok hirr, ne_eq, not_true_eq_false, Bool.not_true, Bool.or_self,
    Bool.false_eq_true, if_false]
  rfl

theorem exec_apset_writes {s u : State} {tb ta : Target} {ap : List Byte} (hirr : irrevocable s s.me = true)
    (h : fires s (.apset tb ta)) (hla : s.opL.toNat ≤ 63) (hread : recordRead s s.opR.toNat ap u) (hok : apertureOk ap = true) :
    exec (.apset tb ta) s = completes s
      { u with apertures := lset u.apertures s.opL.toNat
                { wbase := field ap 0 8, wsize := field ap 8 8, back := field ap 16 8, xform := field ap 24 8 } }
      (.apset tb ta) (some 0) (some 0) := by
  rw [State.me, ← irrevocable_recordRead hread] at hirr
  rw [exec_apset, execApset, perform_fires h, decide_eq_true hla, limit_ok, readAnywhere_ok hread, hok, limit_ok, granted_ok hirr]
  rfl

theorem exec_ctxsv_free {s : State} {tb ta : Target} (hirr : irrevocable s s.me = true) (h : fires s (.ctxsv tb ta))
    (hla : s.opL.toNat < 4096) (hq : holderOf s s.opL.toNat = none) :
    exec (.ctxsv tb ta) s = completes s s (.ctxsv tb ta) (some 0) (some 0) := by
  rw [State.me] at hirr
  rw [exec_ctxsv, execCtxsv, perform_fires h, decide_eq_true hla, limit_ok, granted_ok hirr, hq]; rfl

theorem exec_ctxsv_held {s : State} {tb ta : Target} {g : Nat} (hirr : irrevocable s s.me = true) (h : fires s (.ctxsv tb ta))
    (hla : s.opL.toNat < 4096) (hq : holderOf s s.opL.toNat = some g) :
    exec (.ctxsv tb ta) s = .next (owe
      (askVoid { s with savers := s.savers ++ [(g, claimOf s s.me s.focus.slot)] } g true) s.me s.focus.slot) := by
  rw [State.me] at hirr
  rw [exec_ctxsv, execCtxsv, perform_fires h, decide_eq_true hla, limit_ok, granted_ok hirr, hq]; rfl

theorem exec_imgw_accepted {s u : State} {tb ta : Target} {bs : List Byte} (hirr : irrevocable s s.me = true)
    (h : fires s (.imgw tb ta)) (hread : recordRead s s.opL.toNat bs u) (hok : imageOk bs = true) :
    exec (.imgw tb ta) s = .next (acceptCopy u s.me s.focus.slot
      { newCopy 12 (field bs 0 8) 0 (field bs 8 4) 0 0 0 (linesFrom (field bs 0 8) (field bs 8 4)) [] with descv := bs }) := by
  rw [State.me, ← irrevocable_recordRead hread] at hirr
  rw [exec_imgw, execImgw, perform_fires h, readAnywhere_ok hread, hok, limit_ok, granted_ok hirr]; rfl

theorem exec_imgcmt_closes {s : State} {tb ta : Target} (hirr : irrevocable s s.me = true) (h : fires s (.imgcmt tb ta)) :
    exec (.imgcmt tb ta) s =
      .next (owe { s with
        nextId := s.nextId + 1
        batches := s.batches ++ [{ claim := claimOf s s.me s.focus.slot, slots := s.pending, images := s.shadow, bad := s.badBatch
                                   upto := s.nextId }]
        pending := [], shadow := [], badBatch := false } s.me s.focus.slot) := by
  rw [State.me] at hirr
  rw [exec_imgcmt, execImgcmt, perform_fires h, granted_ok hirr]; rfl

/-! ### The device log (R172) -/

/-- The records are taken from the log, and their transfer begins. -/
theorem exec_elogrd_takes {s : State} {tb ta : Target} (hirr : irrevocable s s.me = true) (h : fires s (.elogrd tb ta))
    (hr : s.opL.toNat < (if coreIsControl s.me then Config.localBytes else Config.leafBytes)) (hal : s.opL.toNat % 64 = 0)
    (hlog : logRefused s s.me s.opL.toNat = none) (hphase : s.here.phase = 0) (hacq : acquirePending s s.me = false)
    (hcopy : copyPending s s.me s.opL.toNat 1024 = false) :
    exec (.elogrd tb ta) s = .next (putLog (formOf (.elogrd tb ta))
      ((takeLog s (s.log.take 16)).modSlot s.me s.focus.slot fun x =>
        { x with phase := 1, latch := (s.log.take 16).flatMap (·.2) }) s.me s.focus.slot s.opL.toNat) := by
  simp only [State.me, State.here] at *
  have h1 : ¬ (s.slot s.focus.core s.focus.slot).phase = 1 := by omega
  rw [exec_elogrd, execElogrd, perform_fires h, limitLa_ok hr hal, hlog]
  simp only [if_neg h1, hacq, hcopy, granted_ok hirr, Bool.or_self, Bool.false_eq_true, if_false]

theorem exec_elogrd_taken {s : State} {tb ta : Target} (h : fires s (.elogrd tb ta))
    (hr : s.opL.toNat < (if coreIsControl s.me then Config.localBytes else Config.leafBytes)) (hal : s.opL.toNat % 64 = 0)
    (hlog : logRefused s s.me s.opL.toNat = none) (hphase : s.here.phase = 1) :
    exec (.elogrd tb ta) s = .next (putLog (formOf (.elogrd tb ta)) s s.me s.focus.slot s.opL.toNat) := by
  simp only [State.me, State.here] at *
  rw [exec_elogrd, execElogrd, perform_fires h, limitLa_ok hr hal, hlog]
  exact congrArg Host.Outcome.next (if_pos hphase)

theorem putLog_line {s t : State} {c : CoreId} {i la : Nat} (hmore : 64 * (s.slot c i).arg < (s.slot c i).latch.length)
    (hw : padWrite s c (la + 64 * (s.slot c i).arg) (slice (s.slot c i).latch (64 * (s.slot c i).arg) 64) = some t) (f : Form) :
    putLog f s c i la = (stay t c i).modSlot c i fun x => { x with arg := x.arg + 1 } := by
  simp only [putLog, if_neg (not_le.mpr hmore), padStore_some hw]

theorem putLog_done {s : State} {c : CoreId} {i la : Nat} (hdone : (s.slot c i).latch.length ≤ 64 * (s.slot c i).arg) (f : Form) :
    putLog f s c i la = complete f s c i (some (wordOfNat ((s.slot c i).latch.length / 64))) tok := if_pos hdone

/-- Settles O26. -/
theorem firmwareActs : Obligations.FirmwareActs := by
  refine ⟨?tlb, ?acts⟩
  case tlb =>
    intro s tb ta hirr hphase gone
    refine ⟨fun h hr hidle => ?page, fun h hr hidle => ?ctx, fun h hidle => ?all⟩
    case page =>
      rw [exec_tlbinvPage, execTlbinvPage, perform_fires h, decide_eq_true hr, limit_ok]
      exact perform_tlbinv hirr hphase h hidle
    case ctx =>
      rw [exec_tlbinvCtx, execTlbinvCtx, perform_fires h, decide_eq_true hr, limit_ok]
      exact perform_tlbinv hirr hphase h hidle
    case all =>
      rw [exec_tlbinvAll, execTlbinvAll, perform_fires h]
      exact perform_tlbinv hirr hphase h hidle
  case acts =>
    intro s tb ta hirr la read
    refine ⟨exec_pgset_writes hirr, fun _ _ => exec_apset_writes hirr, exec_ctxsv_free hirr, fun _ => exec_ctxsv_held hirr,
      fun _ _ => exec_imgw_accepted hirr, exec_imgcmt_closes hirr, ?log⟩
    case log =>
      intro h hr hal hlog
      refine ⟨exec_elogrd_takes hirr h hr hal hlog, ?line, ?done⟩
      case line =>
        intro t hphase hmore hw
        rw [exec_elogrd_taken h hr hal hlog hphase]
        exact congrArg Host.Outcome.next (putLog_line hmore hw _)
      case done =>
        intro hphase hdone
        rw [exec_elogrd_taken h hr hal hlog hphase]
        exact congrArg Host.Outcome.next (putLog_done hdone _)

/-! ### Images (R170) -/

/-- With every batch closed before it, an image belongs to the open batch. -/
theorem modBatch_open {s : State} {id : Nat} (h : (s.batches.any fun b => decide (id < b.upto)) = false) (f : Batch → Batch) :
    modBatch s id f =
      { s with pending := (f (openBatch s)).slots, shadow := (f (openBatch s)).images, badBatch := (f (openBatch s)).bad } := by
  have hnone : s.batches.findIdx? (fun b => decide (id < b.upto)) = none := by
    rw [List.findIdx?_eq_none_iff]
    exact fun b hb => Bool.eq_false_iff.mpr (List.any_eq_false.mp h b hb)
  simp only [modBatch, hnone]

/-- An image issued before the first batch closed belongs to it. -/
theorem modBatch_first {s : State} {id : Nat} {b : Batch} {xs : List Batch} (hs : s.batches = b :: xs) (hid : id < b.upto)
    (f : Batch → Batch) : modBatch s id f = { s with batches := f b :: xs } := by
  have hfirst : s.batches.findIdx? (fun b => decide (id < b.upto)) = some 0 := by
    rw [hs, List.findIdx?_cons, decide_eq_true hid, if_pos rfl]
  rw [modBatch, hfirst, hs]; rfl

/-- The batch of an image whose bytes are good. -/
def imaged (s : State) (c : CoreId) (bs data : List Byte) (b : Batch) : Batch :=
  let key := slotKey (field bs 12 2) (field bs 14 2)
  { b with
    images := tset b.images key ((shadowIn s b key).write (field bs 16 4) data)
    slots := if b.slots.contains (key, loaderOf c) then b.slots else b.slots ++ [(key, loaderOf c)] }

theorem imageWrite_good {data bs : List Byte} (h : crc32c data = field bs 20 4) (s : State) (id : Nat) (c : CoreId) (k : Nat) :
    imageWrite s id c k bs data = (modBatch s id (imaged s c bs data), true) := if_neg (not_not_intro h)

theorem imageWrite_bad {data bs : List Byte} (h : crc32c data ≠ field bs 20 4) (s : State) (id : Nat) (c : CoreId) (k : Nat) :
    ∃ r, imageWrite s id c k bs data = (writeRecord (modBatch s id fun b => { b with bad := true }) r, false) :=
  ⟨_, if_pos h⟩

theorem images_imaged (s : State) (c : CoreId) (bs data : List Byte) (b : Batch) :
    let key := slotKey (field bs 12 2) (field bs 14 2)
    tget (imaged s c bs data b).images key =
      some (((tget b.images key).orElse fun _ => tget s.config key).getD [] |>.write (field bs 16 4) data) :=
  tget_tset_self ..

theorem slots_imaged (s : State) (c : CoreId) (bs data : List Byte) (b : Batch) :
    ((imaged s c bs data b).slots.any fun p => p == (slotKey (field bs 12 2) (field bs 14 2), loaderOf c)) = true := by
  unfold imaged
  dsimp only
  split
  · next h => rw [List.any_beq']; exact h
  · simp

/-- The record of a failed image leaves alone what the image would have written. -/
theorem writeRecord_keeps_batch (s : State) (r : Report) :
    (writeRecord s r).shadow = s.shadow ∧ (writeRecord s r).pending = s.pending ∧ (writeRecord s r).batches = s.batches ∧
      (writeRecord s r).badBatch = s.badBatch := by
  obtain ⟨_, _, _, _, _, _, _, _, _, _, h⟩ := Recorded.writeRecord s r
  rw [h]
  exact ⟨rfl, rfl, rfl, rfl⟩

theorem imageWrite_snd (s : State) (id : Nat) (c : CoreId) (k : Nat) (bs data : List Byte) :
    (imageWrite s id c k bs data).2 = decide (crc32c data = field bs 20 4) := by
  by_cases h : crc32c data = field bs 20 4
  · rw [imageWrite_good h, decide_eq_true h]
  · obtain ⟨r, hr⟩ := imageWrite_bad h s id c k
    rw [hr, decide_eq_false h]

/-- A copy whose lines have all landed completes. -/
theorem exec_moverLineLand_image {s : State} {id : Nat} {x : Copy} {cl : Claim} (hk : x.kind = 12)
    (hcl : x.claim = some cl) (hreads : x.reads = []) (hlines : x.lines = []) (howed : x.owed = true) (hdone : doneWord x.done = 0)
    (hx : tget s.copies id = some x) (hruns : copyRuns s x = true) (l : Nat) :
    exec (.moverLineLand id l) s = .next (Copy.close { s with copies := tdel s.copies id } id x cl) := by
  have htodo : x.todo = [] := by rw [Copy.todo, hreads, hlines]; rfl
  have htile : x.tile = true := by rw [Copy.tile, hk]; rfl
  have h5 : ¬ x.kind = 5 := by omega
  have hclose : closeCopy s id x = Copy.close { s with copies := tdel s.copies id } id x cl := by
    simp only [closeCopy, hcl, htile, if_true]
  rw [exec_moverLineLand, execMoverLineLand, hx]
  simp only [hruns, htodo, finishCopy, howed, h5, endCopy, hdone, hclose, Bool.not_true, Bool.false_eq_true, if_false, if_true]

/-- Settles O27. -/
theorem imageWritten : Obligations.ImageWritten := by
  refine ⟨?write, ?land⟩
  case write =>
    intro s id c k bs data key
    refine ⟨fun hopen => ⟨fun hcrc => ?openGood, fun hcrc => ?openBad⟩,
      fun b xs hs hid => ⟨fun hcrc => ?firstGood, fun hcrc => ?firstBad⟩⟩
    case openGood =>
      refine ⟨_, imageWrite_good hcrc s id c k, ?_⟩
      rw [modBatch_open hopen]
      exact ⟨images_imaged s c bs data (openBatch s), slots_imaged s c bs data (openBatch s), rfl, rfl, rfl, rfl⟩
    case openBad =>
      obtain ⟨r, hr⟩ := imageWrite_bad hcrc s id c k
      obtain ⟨h1, h2, h3, h4⟩ := writeRecord_keeps_batch (modBatch s id fun b => { b with bad := true }) r
      refine ⟨_, hr, ?_⟩
      rw [h1, h2, h3, h4, modBatch_open hopen]
      exact ⟨rfl, rfl, rfl, rfl⟩
    case firstGood =>
      refine ⟨_, imaged s c bs data b, imageWrite_good hcrc s id c k, ?_⟩
      rw [modBatch_first hs hid]
      exact ⟨rfl, images_imaged s c bs data b, rfl, slots_imaged s c bs data b, rfl, rfl⟩
    case firstBad =>
      obtain ⟨r, hr⟩ := imageWrite_bad hcrc s id c k
      obtain ⟨h1, h2, h3, h4⟩ := writeRecord_keeps_batch (modBatch s id fun b => { b with bad := true }) r
      refine ⟨_, hr, ?_⟩
      rw [h1, h2, h3, h4, modBatch_first hs hid]
      exact ⟨rfl, rfl, rfl, rfl⟩
  case land =>
    intro s id x cl data hk hcl hreads hlines howed hdone hx hruns hdata u v l
    rw [exec_moverLineLand_image hk hcl hreads hlines howed hdone hx hruns, Copy.close, if_pos hk, hdata]
    simp only [Option.getD_some, imageWrite_snd, decide_eq_true_eq]
    rfl

/-! ### `ERET` and `WFI` (R171) -/

theorem inHandler_control {s : State} {k : Fin 16} (h : s.me = .control k) : inHandler s s.focus.core = (s.core k.val).handler := by
  rw [State.me] at h
  rw [h]; rfl

theorem exec_eret_returns {s : State} {k : Fin 16} (hme : s.me = .control k) (h : fires s .eret) (hh : (s.core k.val).handler = true) :
    exec .eret s = .next (transfer s s.me s.focus.slot (some .eret)) := by
  rw [exec_eret, execEret, perform_fires h]
  exact congrArg Host.Outcome.next (if_pos ((inHandler_control hme).trans hh))

theorem exec_eret_outside {s : State} {k : Fin 16} (hme : s.me = .control k) (h : fires s .eret)
    (hh : (s.core k.val).handler = false) :
    exec .eret s = .next (blockFault s s.me (some s.focus.slot) 0x010A 0) := by
  rw [exec_eret, execEret, perform_fires h]
  exact congrArg Host.Outcome.next (if_neg (by rw [inHandler_control hme, hh]; exact Bool.false_ne_true))

theorem exec_wfi_strand {s : State} {n : Nat} {t : Fin 4} {tb ta : Target} (hme : s.me = .strand n t) (h : fires s (.wfi tb ta)) :
    exec (.wfi tb ta) s = if Config.spineSignal s.tick then completes s s (.wfi tb ta) (some 0) (some 0)
      else .next (stay s s.me s.focus.slot) := by
  rw [State.me] at hme
  rw [exec_wfi, execWfi, perform_fires h, hme]
  simp only [completes, State.me, hme]
  exact apply_ite Host.Outcome.next _ _ _

theorem exec_wfi_control {s : State} {k : Fin 16} {tb ta : Target} (hme : s.me = .control k) (h : fires s (.wfi tb ta)) :
    exec (.wfi tb ta) s = .next (
      if (s.core k.val).irq || (s.core k.val).news then
        complete (formOf (.wfi tb ta)) (s.modCore k.val fun x => { x with news := false }) s.me s.focus.slot tok tok
      else stay s s.me s.focus.slot) := by
  rw [State.me] at *
  rw [exec_wfi, execWfi, perform_fires h, hme]

/-- Settles O28. -/
theorem handlerInstructions : Obligations.HandlerInstructions := by
  intro s tb ta
  refine ⟨fun _ _ => exec_wfi_strand, fun k hme => ⟨exec_eret_returns hme, exec_eret_outside hme, fun h hw => ?wakes, fun h h1 h2 => ?waits⟩⟩
  case wakes =>
    rw [exec_wfi_control hme h, Bool.or_eq_true_iff.mpr hw]; rfl
  case waits =>
    rw [exec_wfi_control hme h, h1, h2]; rfl

end Sys2Proof.Machine
end

section
/-!
Families 02, 06, 22 and 23: fetch and commit of blocks (R30, R115, R378), and the round controller (R34, R42, R44, R185, R196, R371,
R389, R410).
-/

namespace Sys2Proof.Machine

/-! ### Blocks (R30, R115, R378) -/

@[simp] theorem ctxOf_tickClock (s : State) (f : Nat) (c : CoreId) : (tickClock s f).ctxOf c = s.ctxOf c := by
  obtain ⟨folios, hubs, -, e⟩ := tickClock_form s f
  rw [e]; rfl

theorem ctxOf_startBlock (s : State) (c : CoreId) (a : Nat) (h : Word32) (ws : List Word32) (d : CoreId) :
    (startBlock s c a h ws).ctxOf d = s.ctxOf d := by
  rw [startBlock, ctxOf_modStrand, ctxOf_tickClock]

/-- A fetch whose words pass every check. -/
theorem exec_blockFetch_ok {s u : State} {c : CoreId} {ws : List Word32} (hwait : (s.strand c).wait ≠ .stalled)
    (hmay : mayFetch s c = true) (hpc : (s.strand c).pc % 4 = 0) (hws : fetchWords s c (s.strand c).pc = .ok (some ws, u))
    (hcheck : decodeCheck (ws.getD 0 0) (ws.drop 1) (coreIsControl c || u.ctxOf c == 0) (coreIsControl c) (inHandler u c)
      (inHandler u c && (s.strand c).pc == 0) = none) :
    exec (.blockFetch c) s = .next (startBlock u c (s.strand c).pc (ws.getD 0 0) (ws.drop 1)) := by
  have hmode : inHandler (startBlock u c (s.strand c).pc (ws.getD 0 0) (ws.drop 1)) c = inHandler u c := by
    cases c with
    | strand => rfl
    | control k => exact handler_startBlock ..
  rw [← hmode, ← ctxOf_startBlock u c (s.strand c).pc (ws.getD 0 0) (ws.drop 1) c] at hcheck
  rw [exec_blockFetch, execBlockFetch, unstall_of_ne hwait]
  simp only [hmay, hpc, hws, Bool.not_true, Bool.false_eq_true, ne_eq, not_true_eq_false, if_false]
  split
  case h_1 hfound => cases hfound.symm.trans hcheck
  case h_2 => rfl

theorem exec_blockCommit_ok {s t : State} {c : CoreId} {b : Block} (hb : (s.strand c).block = some b) (hmay : mayCommit s c = true)
    (hover : overruns s c b = false) (hw : writeRegs s c b.regs = some t) :
    exec (.blockCommit c) s = .next (commitTail t c b) := by
  rw [exec_blockCommit, execBlockCommit, hb]
  simp only [hmay, hover, hw, Bool.not_true, Bool.or_self, Bool.false_eq_true, if_false]

theorem exec_blockCommit_overrun {s : State} {c : CoreId} {b : Block} (hb : (s.strand c).block = some b)
    (hover : overruns s c b = true) : exec (.blockCommit c) s = .next s := by
  rw [exec_blockCommit, execBlockCommit, hb]
  simp only [hover, Bool.or_true, if_true]
  rfl

theorem exec_deadlineOverrun_faults {s : State} {c : CoreId} {b : Block} (hb : (s.strand c).block = some b)
    (hmay : mayCommit s c = true) (hover : overruns s c b = true) :
    exec (.deadlineOverrun c) s = .next (blockFault s c none 0x0130 (s.strand c).lastDl) := by
  rw [exec_deadlineOverrun, execDeadlineOverrun, hb]
  simp only [hmay, hover, Bool.and_self, if_true]

/-- Settles O29. -/
theorem blocksFetchCommit : Obligations.BlocksFetchCommit := by
  intro s c
  refine ⟨?fetch, fun b t => exec_blockCommit_ok, ?overrun, ?watchdog⟩
  case fetch =>
    intro ws u handler hwait hmay hpc hws hhandler hcheck
    have hmode : handler = inHandler u c := hhandler.trans (by cases c <;> rfl)
    exact exec_blockFetch_ok hwait hmay hpc hws (hmode ▸ hcheck)
  case overrun =>
    exact fun b hb hmay hover => ⟨exec_blockCommit_overrun hb hover, exec_deadlineOverrun_faults hb hmay hover⟩
  case watchdog =>
    intro b hb hstuck
    rw [exec_noProgressWatchdog, execNoProgressWatchdog, hb]
    exact if_pos hstuck

/-- A commit with one transfer by address and nothing else beyond the registers changes its strand alone. -/
theorem commitTail_goto {b : Block} {a : Nat} (hm : b.moves = [.goto a]) (hs : b.sys = []) (ht : b.traps = []) (s : State)
    (c : CoreId) : commitTail s c b = s.modStrand c fun st => advance st b (coreIsControl c) := by
  have hfin : [Transfer.goto a].contains (.finish true) = false := rfl
  have hret : [Transfer.goto a].contains .eret = false := rfl
  simp only [commitTail, hm, hs, ht, hfin, hret, List.foldl_nil, Bool.false_eq_true, if_false]
  cases c with
  | strand n t => dsimp only; split <;> rfl
  | control k => rfl

/-- A strand after the commit of a block, before its control transfer. -/
def committed (st : Strand) (b : Block) (control : Bool) : Strand :=
  { st with
    block := none
    overdue := []
    blkinrnd := st.blkinrnd + 1
    dlrem := if control then st.dlrem else st.dlrem - 1
    prev := some (b.addr, b.cslot, (b.slots.getD b.cslot { word := b.head }).word)
    fpflags := st.fpflags ||| b.flags }

theorem advance_goto {b : Block} {a : Nat} (hm : b.moves = [.goto a]) (st : Strand) (control : Bool) :
    advance st b control =
      if b.rnd.isSome && !control then { committed st b control with pc := a, wait := .atRnd, recorded := b.rnd }
      else { committed st b control with pc := a } := by
  simp only [advance, hm]
  rfl

/-- Settles O30: such a commit only advances its strand, and what it leaves in it splits on whether the block performed `RND`. -/
theorem commitGoesOn : Obligations.CommitGoesOn := by
  intro s c b a hb hm hs ht t
  have hstrand : t.strand c = advance (s.strand c) b (coreIsControl c) := by
    rw [show t = _ from commitTail_goto hm hs ht s c, State.strand_modStrand_self _ _ _ (hasCore_of_block hb)]
  rw [hstrand, advance_goto hm]
  by_cases hrnd : (b.rnd.isSome && !coreIsControl c) = true
  · have hsome : b.rnd ≠ none := Option.isSome_iff_ne_none.mp (Bool.and_eq_true_iff.mp hrnd).1
    rw [if_pos hrnd]
    exact ⟨rfl, rfl, rfl, rfl, rfl, fun hnone => absurd hnone hsome, fun _ _ => ⟨rfl, rfl⟩⟩
  · rw [if_neg hrnd]
    exact ⟨rfl, rfl, rfl, rfl, rfl, fun _ => rfl, fun hc hsome => absurd (by rw [hsome, hc]; rfl) hrnd⟩

/-! ### The round controller (R34, R42, R44, R371) -/

section
variable {s : State} {g : Nat} {x : Gathering} (hg : s.gath g = some x)
include hg

theorem exec_faultReport_fault {r : Report} {q : List CtlReq} (hq : x.queue = .fault r :: q) :
    exec (.faultReport g) s = .next ((otherFaults s x.inst g).foldl writeRecord (endWith s x.inst r)) := by
  simp only [exec_faultReport, execFaultReport, hg, hq]
  rfl

theorem exec_faultReport_lost {r : Report} {q : List CtlReq} (hq : x.queue = .lost r :: q) :
    exec (.faultReport g) s = .next (lostInRound (popQueue s g) g x r) := by
  simp only [exec_faultReport, execFaultReport, hg, hq]

theorem exec_faultReport_service {r : Report} {who : Recur} {core : CoreId} {slot : Option Nat} {unit : Nat} {again : Option Nat}
    {q : List CtlReq} (hq : x.queue = .service r who core slot unit again :: q) :
    exec (.faultReport g) s = .next (serveService s g x r who core slot unit again) := by
  simp only [exec_faultReport, execFaultReport, hg, hq]

theorem exec_irrevocableGrant_published {q : List CtlReq} {t : State} (hq : x.queue = .grant :: q)
    (ht : publishAll ((popQueue s g).modGath g fun y => { y with irrev := true }) g = (t, none)) :
    exec (.irrevocableGrant g) s = .next { t with reqs := t.reqs.map (releaseReq g) } := by
  simp only [exec_irrevocableGrant, execIrrevocableGrant, hg, hq, ht]

theorem exec_roundVoid_revocable {save : Bool} {q : List CtlReq} (hq : x.queue = .void save :: q) (hi : x.irrev = false)
    (hc : x.cut = 0) (hr : x.retiring = false) :
    exec (.roundVoid g) s = .next ((doVoid (popQueue s g) g).modGath g fun y => { y with saving := y.saving || save }) := by
  simp only [exec_roundVoid, execRoundVoid, hg, hq, hi, hc, hr, bne_self_eq_false, Bool.or_self, Bool.false_eq_true, if_false]

theorem exec_roundVoid_irrevocable {save : Bool} {q : List CtlReq} (hq : x.queue = .void save :: q)
    (h : x.irrev = true ∨ x.cut ≠ 0 ∨ x.retiring = true) :
    exec (.roundVoid g) s = .next ((popQueue s g).modGath g fun y => { y with saveDue := y.saveDue || save }) := by
  have hlate : (x.irrev || x.cut != 0 || x.retiring) = true := by
    rw [Bool.or_assoc, Bool.or_eq_true, Bool.or_eq_true, bne_iff_ne]; exact h
  simp only [exec_roundVoid, execRoundVoid, hg, hq, hlate, if_true]

theorem exec_roundCommit_ready {t : State} (hc : x.cut = 0) (hready : cutReady s g x = true) (ht : cutRound s g x = (t, none)) :
    exec (.roundCommit g) s = .next (coverGath (finishRound t g) g) := by
  simp only [exec_roundCommit, execRoundCommit, hg, hc, hready, ht, ne_eq, not_true_eq_false, Bool.not_true, Bool.false_eq_true,
    if_false]

theorem exec_roundCommit_goes_on (hc : x.cut ≠ 0) : exec (.roundCommit g) s = .next (coverGath (finishRound s g) g) := by
  simp only [exec_roundCommit, execRoundCommit, hg, ne_eq, hc, not_false_eq_true, if_true]

theorem exec_commitWatchdog_ends (hsleep : (gathStrands s x).any (fun st => st.wait == .sleeping) = false)
    (hheld : gathHeld s g x = false) :
    exec (.commitWatchdog g) s = .next (endWith s x.inst
      (controllerReport x 0x0220 ((gathStrands s x).filter fun st => st.wait == .atRnd).length)) := by
  simp only [exec_commitWatchdog, execCommitWatchdog, hg, hsleep, hheld, Bool.or_self, Bool.false_eq_true, if_false]

theorem exec_voidLimit_ends (hv : 64 ≤ x.voids) :
    exec (.voidLimit g) s = .next (endWith s x.inst (controllerReport x 0x0221 (x.round % 65536))) := by
  simp only [exec_voidLimit, execVoidLimit, hg, if_neg (not_lt.mpr hv)]

theorem exec_voidLimit_below (hv : x.voids < 64) : exec (.voidLimit g) s = .next s := by
  simp only [exec_voidLimit, execVoidLimit, hg, if_pos hv]
  rfl

theorem exec_spawnCommitHoldTimeout_ends {i : Instance} (hc : x.cut = 2) (htags : tagsFull s x.ctx = true)
    (hroom : spawnRoom s x = false) (hi : tget s.insts x.inst = some i) :
    exec (.spawnCommitHoldTimeout g) s = .next (endWith s x.inst
      (spineRecord 0x0408 (some x.ctx) (some x.tag) i.reqid i.graph ((x.nodes.map NodePlace.node).headD 0) 0)) := by
  simp only [exec_spawnCommitHoldTimeout, execSpawnCommitHoldTimeout, hg, hc, htags, hroom, hi, Bool.not_false, and_self, if_true]
  rfl

theorem exec_kettleComplete_full {id : Fin 64} {cs : List Claim} (hk : tget x.kettles id.val = some cs) (hruns : gathRuns s x = true)
    (hfull : kettleFull s x cs = true) :
    exec (.kettleComplete g id) s = .next (cs.foldl (fun s c => payOwed s c tok tok)
      (s.modGath g fun y => { y with kettles := tdel y.kettles id.val })) := by
  simp only [exec_kettleComplete, execKettleComplete, hg, hk, hruns, hfull, Bool.not_true, Bool.or_self, Bool.false_eq_true, if_false]

end

/-- Settles O31. -/
theorem roundsServed : Obligations.RoundsServed := fun _ _ _ hg =>
  ⟨fun _ _ => exec_faultReport_fault hg, fun _ _ => exec_faultReport_lost hg,
    fun _ _ _ _ _ _ _ => exec_faultReport_service hg, fun _ _ => exec_irrevocableGrant_published hg,
    fun _ _ => exec_roundVoid_revocable hg, fun _ _ => exec_roundVoid_irrevocable hg, fun _ => exec_roundCommit_ready hg,
    exec_roundCommit_goes_on hg⟩

/-- Settles O32. -/
theorem roundLimits : Obligations.RoundLimits := fun _ _ _ hg =>
  ⟨exec_commitWatchdog_ends hg, exec_voidLimit_ends hg, exec_voidLimit_below hg, fun _ => exec_spawnCommitHoldTimeout_ends hg⟩

/-! ### Waits (R47, R185, R447) -/

theorem exec_waitaWake_woken {s : State} {c : CoreId} {w : Watch} (hw : (s.strand c).watch = some w)
    (hsleep : (s.strand c).wait = .sleeping) (hwoken : w.woken = true) :
    exec (.waitaWake c) s =
      .next (({ s with rereads := s.rereads.filter fun r => !(r.2.core == c && r.2.gath == s.gathOf c) } : State).modStrand c
        fun st => { st with wait := .running, watch := none, overdue := [] }) := by
  simp only [exec_waitaWake, execWaitaWake, hw, hsleep, hwoken, and_self, if_true]

/-- The remote watches of a place that may be read again. -/
def rereadable (s : State) (c : CoreId) : List (Option Nat × Nat × Watch) :=
  (sleepWatch s c ++ paperWatches s c).filter fun y => y.2.2.remote.isSome && !rereadOut s c y.1

theorem exec_remoteWatchReread_picked {s : State} {c : CoreId} {g : Option Nat} {k : Nat} {w : Watch}
    (hpick : (rereadable s c)[pickOf s (rereadable s c).length]? = some (g, k, w)) (tag : BitVec 12) :
    exec (.remoteWatchReread c tag) s = .next (sendReread s c g k tag.toNat w) := by
  rw [rereadable] at hpick
  simp only [exec_remoteWatchReread, execRemoteWatchReread, hpick]

theorem sleepWatch_of_sleeping {s : State} {c : CoreId} {w : Watch} (hw : (s.strand c).watch = some w)
    (hsleep : (s.strand c).wait = .sleeping) : sleepWatch s c = [(s.gathOf c, s.ctxOf c, w)] := by
  simp only [sleepWatch, hsleep, hw, if_true]
  rfl

/-- Settles O33. -/
theorem waitsEnd : Obligations.WaitsEnd := by
  intro s
  refine ⟨fun _ _ => exec_waitaWake_woken, ?reread, fun _ _ => sleepWatch_of_sleeping, ?expiry,
    fun _ _ _ _ hg => exec_kettleComplete_full hg⟩
  case reread =>
    intro c g k w tag ws hpick
    rw [exec_remoteWatchReread_picked hpick, sendReread]
    constructor
    · intro e he hfree
      simp only [he, hfree, Bool.false_eq_true, if_false]
    · intro hnone
      simp only [hnone]
  case expiry =>
    intro c hc hw
    rw [exec_swapWaitExpiry, execSwapWaitExpiry, hc]
    exact if_neg hw

end Sys2Proof.Machine
end

section
/-!
Families 02, 03, 15, 20 and 25: the host's doorbells and registers, launches and frames, instances, contexts, and the ready pool.
-/

namespace Sys2Proof.Machine

/-! ### The host (R54, R335, R336, R361) -/

/-- A register in the queue page of a context. -/
theorem exec_hostRegisterWrite_page {off : Nat} (hoff : off < 4096) (s : State) (k : Fin 16) (val : Word) :
    exec (.hostRegisterWrite (0x100000 + 0x1000 * k.val + off) val) s = .next (modPage s k.val (pageWrite off val.toNat)) := by
  have hk := k.isLt
  have hbar : ¬ 0x100000 + 0x1000 * k.val + off = bar0Size := by rw [bar0Size]; omega
  have hpages : 0x100000 ≤ 0x100000 + 0x1000 * k.val + off ∧ 0x100000 + 0x1000 * k.val + off < 0x110000 := by omega
  have hpage : (0x100000 + 0x1000 * k.val + off) / 0x1000 % 16 = k.val := by omega
  have hreg : (0x100000 + 0x1000 * k.val + off) % 0x1000 = off := by omega
  rw [exec_hostRegisterWrite, execHostRegisterWrite, if_neg hbar, if_pos hpages, hpage, hreg]

theorem exec_hostBar2Access_write {s : State} {off : Nat} {bs : List Byte}
    (h : ((upTo bs.length).all fun i => isBacked (s.bar2 + off + i)) = true) (size : Nat) :
    exec (.hostBar2Access off size (some bs)) s = .next (hbmWrite s (s.bar2 + off) bs) := by
  simp only [exec_hostBar2Access, execHostBar2Access, h, Bool.not_true, Bool.false_eq_true, if_false]

theorem exec_hostBar2Access_read {s : State} {off size : Nat} (h : ((upTo size).all fun i => isBacked (s.bar2 + off + i)) = true) :
    exec (.hostBar2Access off size none) s = .next { s with reads := s.reads ++ [s.hbm.read (s.bar2 + off) size] } := by
  simp only [exec_hostBar2Access, execHostBar2Access, h, Bool.not_true, Bool.false_eq_true, if_false]

/-- Settles O35: a doorbell and a write of `CQHEAD` are what their events say; the other accesses go by their address. -/
theorem hostEvents : Obligations.HostEvents := fun s =>
  ⟨fun _ _ _ => exec_submissionDoorbell .., exec_fwsqDoorbell s, fun _ _ => exec_cqheadWrite ..,
    fun k _ val hoff => exec_hostRegisterWrite_page hoff s k val, fun _ size _ h => exec_hostBar2Access_write h size,
    fun _ _ => exec_hostBar2Access_read⟩

/-! ### Launches (R53, R55, R62, R410) -/

/-- A record with no failing field, whose graph entry can be read and has none either. -/
theorem enterLaunch_good {s u : State} {l : Launch} {g : List Byte} (hl : launchBad s l = none)
    (hread : spineRead s (.admission l.ctx) l.ctx ((s.attrs l.ctx).graphBase + 16 * l.graph) 16 = .ok (g, u))
    (hg : graphBad l g = none) : enterLaunch s l = .settled (takeTag u l g) := by
  simp only [enterLaunch, hl, hread, hg]

section
variable {s : State} {k : Fin 16} (hk : servedCtx s = some k.val)
include hk

theorem exec_launchAdmission_ring (hp : ringPending s k.val = true) :
    let p := (s.context k.val).page
    exec (.launchAdmission (.ring k)) s =
      .next (settleAdmit k.val (fun s => modPage s k.val fun p => { p with sqHead := (p.sqHead + 1) % 2 ^ 32 })
        (enterLaunch s { ctx := k.val, record := s.host.read (p.sqBase + 64 * (p.sqHead % 2 ^ p.sqSize)) 64 })) := by
  simp only [exec_launchAdmission, execLaunchAdmission, hk, hp, bne_self_eq_false, Bool.not_true, Bool.or_self, Bool.false_eq_true,
    if_false]

theorem exec_launchAdmission_frame {f : Frame} {fs : List Frame} (hf : (s.context k.val).frames = f :: fs) :
    exec (.launchAdmission (.frame k)) s =
      .next (settleAdmit k.val (fun s => s.modContext k.val fun c => { c with frames := c.frames.drop 1 })
        (enterLaunch s (frameLaunch k.val f))) := by
  simp only [exec_launchAdmission, execLaunchAdmission, hf, hk, bne_self_eq_false, Bool.false_eq_true, if_false]

theorem exec_spawnBacklogAdmit_next {b : BacklogEntry} {bs : List BacklogEntry} (hb : (s.context k.val).backlog = b :: bs) :
    exec (.spawnBacklogAdmit k) s =
      .next (settleAdmit k.val (fun s => s.modContext k.val fun c => { c with backlog := c.backlog.drop 1 })
        (enterLaunch s (childLaunch k.val b))) := by
  simp only [exec_spawnBacklogAdmit, execSpawnBacklogAdmit, hb, hk, bne_self_eq_false, Bool.false_eq_true, if_false]

end

theorem exec_launchAdmission_firmware {s v : State} {r : List Byte} (hk : servedCtx s = some 0) (hp : fwPending s 0 = true)
    (hr : spineRead s (.admission 0) 0 (s.fwBase + 64 * (s.fwHead % 2 ^ s.fwSize)) 64 = .ok (r, v)) :
    exec (.launchAdmission .firmware) s =
      .next (settleAdmit 0 (fun s => { s with fwHead := (s.fwHead + 1) % 2 ^ 32 })
        (enterLaunch v { ctx := 0, record := r, fw := true })) := by
  simp only [exec_launchAdmission, execLaunchAdmission, admitFw, hk, hp, hr, bne_self_eq_false, Bool.not_true, Bool.or_self,
    Bool.false_eq_true, if_false]

/-! ### Request frames (R60, R69, R339) -/

theorem exec_requestFrame_dropped {s : State} {f : Frame}
    (h : f.fragmented = true ∨ f.sumOk = false ∨ frameLong f = true ∨ field f.payload 0 2 ≠ 0xD8A5 ∨ portCtx s f.udpPort = none) :
    exec (.requestFrame f) s = .next { s with drops := min (s.drops + 1) 0xFFFFFFFF } := by
  rw [exec_requestFrame, execRequestFrame]
  by_cases hbad : (f.fragmented || !f.sumOk || frameLong f || field f.payload 0 2 != 0xD8A5) = true
  · rw [if_pos hbad]; rfl
  · have hport : portCtx s f.udpPort = none := by
      simp only [Bool.or_eq_true, Bool.not_eq_true', bne_iff_ne, not_or] at hbad
      tauto
    rw [if_neg hbad, hport]; rfl

section
variable {s : State} {f : Frame} {k : Nat} (hfrag : f.fragmented = false) (hsum : f.sumOk = true) (hlong : frameLong f = false)
  (hmagic : field f.payload 0 2 = 0xD8A5) (hk : portCtx s f.udpPort = some k)
include hfrag hsum hlong hmagic hk

theorem exec_requestFrame_refused {d : Nat} (hd : frameBad f.payload = some d) :
    exec (.requestFrame f) s = .next (refuseFrame s k f d) := by
  simp only [exec_requestFrame, execRequestFrame, hfrag, hsum, hlong, hmagic, hk, hd, bne_self_eq_false, Bool.not_true, Bool.or_self,
    Bool.false_eq_true, if_false]

theorem exec_requestFrame_resident (hd : frameBad f.payload = none) (hp : (s.context k).parked.contains f.udpPort = false) :
    exec (.requestFrame f) s =
      if (s.context k).frames.length < Config.frameQueue then .next (s.modContext k fun c => { c with frames := c.frames ++ [f] })
      else .next (sendReply s f.peer f.udpPort (cookieOf f) 1 []) := by
  simp only [exec_requestFrame, execRequestFrame, hfrag, hsum, hlong, hmagic, hk, hd, hp, bne_self_eq_false, Bool.not_true,
    Bool.or_self, Bool.false_eq_true, if_false]

theorem exec_requestFrame_parked (hd : frameBad f.payload = none) (hp : (s.context k).parked.contains f.udpPort = true) :
    exec (.requestFrame f) s =
      if (s.parkedQ.filter fun x => x.1 == f.udpPort).length < Config.frameQueue then
        .next { s with parkedQ := s.parkedQ ++ [(f.udpPort, f)], irqs := s.irqs ++ [vecParked] }
      else .next (sendReply s f.peer f.udpPort (cookieOf f) 1 []) := by
  simp only [exec_requestFrame, execRequestFrame, hfrag, hsum, hlong, hmagic, hk, hd, hp, bne_self_eq_false, Bool.not_true,
    Bool.or_self, Bool.false_eq_true, if_false, if_true]

end

/-- Settles O36: what each source hands to the front end, which admits a good record; then the frames. -/
theorem launchesEnter : Obligations.LaunchesEnter := by
  refine ⟨?launches, ?frames⟩
  case launches =>
    intro s u l g k hctx hl hserved p good t
    have henter : ∀ v, launchBad v l = none → good v → enterLaunch v l = .settled (takeTag u l g) := by
      intro v hv hgood
      exact enterLaunch_good hv (by rw [hctx]; exact hgood.1) hgood.2
    refine ⟨fun hp hgood hrec => ?ring, fun v r hk hp hr hv hgood hrec => ?fw, fun f fs hf hgood hrec => ?frame,
      fun b bs hb hgood hrec => ?child⟩
    case ring => rw [exec_launchAdmission_ring hserved hp, ← hrec, henter s hl hgood]; rfl
    case fw =>
      subst hk
      rw [exec_launchAdmission_firmware hserved hp hr, ← hrec, henter v hv hgood]; rfl
    case frame => rw [exec_launchAdmission_frame hserved hf, ← hrec, henter s hl hgood]; rfl
    case child => rw [exec_spawnBacklogAdmit_next hserved hb, ← hrec, henter s hl hgood]; rfl
  case frames =>
    intro s f
    refine ⟨exec_requestFrame_dropped, fun hfrag hsum hlong hmagic k hk =>
      ⟨fun d => exec_requestFrame_refused hfrag hsum hlong hmagic hk, fun hd hp => ?resident, fun hd hp => ?parked⟩⟩
    case resident =>
      rw [exec_requestFrame_resident hfrag hsum hlong hmagic hk hd hp]
      exact ⟨fun hroom => if_pos hroom, fun hfull => if_neg (not_lt.mpr hfull)⟩
    case parked =>
      rw [exec_requestFrame_parked hfrag hsum hlong hmagic hk hd hp]
      exact ⟨fun hroom => if_pos hroom, fun hfull => if_neg (not_lt.mpr hfull)⟩

/-! ### Instances (R59, R66 to R68, R194) -/

theorem exec_responseDelivery_entry {s : State} {k : Fin 16} {bs : List Byte} {ds : List DueItem}
    (hd : (s.context k.val).due = .entry bs :: ds) (hroom : cqRoom (s.context k.val).page = true) :
    exec (.responseDelivery k) s = .next (popDue (putCompletion s k.val bs) k.val) := by
  simp only [exec_responseDelivery, execResponseDelivery, hd, hroom, if_true]

theorem exec_responseDelivery_inst {s : State} {k : Fin 16} {i : Nat} {x : Instance} {ds : List DueItem}
    (hd : (s.context k.val).due = .inst i :: ds) (hx : tget s.insts i = some x)
    (hroom : x.dest = .ring → cqRoom (s.context k.val).page = true) :
    exec (.responseDelivery k) s = .next (respond s i x) := by
  have hgo : ¬ (x.dest == .ring && !cqRoom (s.context k.val).page) = true := by
    simp only [Bool.and_eq_true, beq_iff_eq, Bool.not_eq_true', not_and, Bool.not_eq_false]
    exact hroom
  simp only [exec_responseDelivery, execResponseDelivery, hd, hx, if_neg hgo]

theorem exec_nodeRetire_covered {s : State} {i n g : Nat} {x : Instance} {y : Gathering} (hx : tget s.insts i = some x)
    (hg : (s.gaths.find? fun g => g.2.inst == i && g.2.retire == n) = some (g, y)) (hc : nodeCovered s g y = true) :
    exec (.nodeRetire i n) s = .next (work { paySavers (freeGath s g y) g with
      insts := tmod (paySavers (freeGath s g y) g).insts i fun x => retireNode (x.count + 1) x n } i) := by
  have hretiring : y.retiring = true := by
    simp only [nodeCovered, Bool.and_eq_true] at hc
    tauto
  simp only [exec_nodeRetire, execNodeRetire, hx, hg, hretiring, hc, Bool.not_true, Bool.false_eq_true, if_false, if_true]

/-- The copy of a COPY node whose request record is good. -/
def nodeCopy (s : State) (x : PoolEntry) (r : List Byte) : Copy :=
  { newCopy 5 (field r 0 8) (field r 8 8) (field r 0x10 3) (field r 0x13 1) (field r 0x14 4) (field r 0x18 8)
      (linesFrom (field r 0 8) (field r 0x10 3)) (linesFrom (field r 8 8) (field r 0x10 3)) with
    mbar := 0, ctx := x.ctx, inst := x.inst, node := x.node, aps := s.apertures, folio := copyFolio s x.ctx (field r 0 8) }

theorem exec_copyNodeRun_starts {s u : State} {e : Nat} {x : PoolEntry} {r : List Byte} (hx : tget s.pool e = some x)
    (hb : x.bound = true) (hk : x.kind = .copy) (hf : instFree s x.inst = true)
    (hr : spineRead s (.bind e) x.ctx x.src 32 = .ok (r, u)) (hok : copyNodeBad r = none) :
    let v := freeInst u x.inst (.bind e)
    exec (.copyNodeRun e) s =
      .next { takeEntry { v with nextId := v.nextId + 1 } e x with
        copies := tset v.copies v.nextId (nodeCopy { v with nextId := v.nextId + 1 } x r) } := by
  simp only [exec_copyNodeRun, execCopyNodeRun, hx, hb, hk, hf, hr, hok, bne_self_eq_false, Bool.not_true, Bool.or_self,
    Bool.false_eq_true, if_false]
  rfl

/-- A line of a copy that runs: its turn has come, or no record holds it. -/
theorem exec_moverLineLand_line {s : State} {id l : Nat} {x : Copy} {rd : Bool} {p : Nat × Nat} (hx : tget s.copies id = some x)
    (hruns : copyRuns s x = true) (hline : x.todo[l % x.todo.length]? = some (rd, p))
    (hheld : x.hold = none ∨ x.stuck = none ∨ x.stuck = some (rd, p.1)) :
    exec (.moverLineLand id l) s =
      if rd then (if readFree s id x p then .next (stepRead s id x p) else idle s)
      else if lineFree s id x p then .next (stepLand s id x p)
      else idle s := by
  have hfree : (x.hold.isSome && x.stuck.isSome && x.stuck != some (rd, p.1)) = false := by
    obtain h | h | h := hheld <;> simp [h]
  rw [exec_moverLineLand, execMoverLineLand, hx]
  cases htodo : x.todo with
  | nil => rw [htodo] at hline; cases hline
  | cons y ys =>
    rw [htodo] at hline
    simp only [hruns, htodo, hline, hfree, Bool.not_true, Bool.false_eq_true, if_false]

theorem exec_moverLineLand_finished {s : State} {id : Nat} {x : Copy} (hx : tget s.copies id = some x)
    (hruns : copyRuns s x = true) (htodo : x.todo = []) (l : Nat) :
    exec (.moverLineLand id l) s = .next (finishCopy s id x) := by
  simp only [exec_moverLineLand, execMoverLineLand, hx, hruns, htodo, Bool.not_true, Bool.false_eq_true, if_false]

/-! ### Contexts (R21, R52, R69, R413) -/

theorem exec_contextLoad_free {s : State} {k : Fin 16} (h : (s.context k.val).ended = false) (attrs : ContextAttrs) :
    let u : State := { s with contexts := s.contexts.map (unpark attrs.udpPort) }
    exec (.contextLoad k attrs) s = .next { u.modContext k.val (fun c =>
      { c with
        attrs := some attrs
        frames := c.frames ++ (s.parkedQ.filter fun x => attrs.udpPort == some x.1).map (·.2) }) with
    parkedQ := s.parkedQ.filter fun x => attrs.udpPort != some x.1 } := by
  simp only [exec_contextLoad, execContextLoad, h, Bool.false_eq_true, if_false]

/-- The context's port parked (R69). -/
def portParked (s : State) (k : Nat) (a : ContextAttrs) : State :=
  match a.udpPort with
  | some p => parkPort s k p
  | none => s

theorem exec_contextUnload_loaded {s : State} {k : Fin 16} {a : ContextAttrs} (ha : (s.context k.val).attrs = some a)
    (h : (s.context k.val).ended = false) :
    let u := (portParked s k.val a).modContext k.val fun c => { c with ended := true, backlog := [] }
    let is := (u.context k.val).live.filter (instLive u)
    let v : State := { u with massHeld := u.massHeld.filter fun m => !is.contains m.1 }
    exec (.contextUnload k) s = .next (finishUnload (dropEvictions (is.foldl endUnloaded v) k.val) k.val) := by
  simp only [exec_contextUnload, execContextUnload, ha, h, Bool.false_eq_true, if_false]
  rfl

/-- Settles O37. -/
theorem instancesServed : Obligations.InstancesServed := by
  intro s
  refine ⟨fun _ _ _ => exec_responseDelivery_entry, fun _ _ _ _ => exec_responseDelivery_inst, fun _ _ _ _ _ => exec_nodeRetire_covered,
    ?copyNode, ?mover, fun _ attrs h => exec_contextLoad_free h attrs, fun _ _ => exec_contextUnload_loaded⟩
  case copyNode =>
    intro e x r u hx hb hk hf hr hok v
    exact ⟨_, exec_copyNodeRun_starts hx hb hk hf hr hok, rfl, rfl, rfl, rfl, rfl, rfl, rfl, rfl, rfl, rfl, rfl, rfl⟩
  case mover =>
    intro id x hx hruns
    refine ⟨fun rd p l hline hheld => ⟨fun hrd hfree => ?read, fun hrd hfree => ?land⟩,
      fun l htodo => exec_moverLineLand_finished hx hruns htodo l⟩
    case read => rw [exec_moverLineLand_line hx hruns hline hheld, if_pos hrd, if_pos hfree]
    case land => rw [exec_moverLineLand_line hx hruns hline hheld, hrd, if_neg Bool.false_ne_true, if_pos hfree]

/-! ### The ready pool (R51, R63, R65, R91, R287, R288) -/

theorem exec_entryAging_promotes {s : State} {e : Nat} {x : PoolEntry} (hx : tget s.pool e = some x) (hb : x.bound = false)
    (hc : effClass s x ≠ 0) (hh : hasClass s x.ctx (effClass s x - 1) = true) :
    exec (.entryAging e) s = .next { s with pool := tset s.pool e { x with aged := x.aged + 1 } } := by
  simp only [exec_entryAging, execEntryAging, hx, hb, hc, hh, decide_false, Bool.or_self, Bool.false_eq_true, if_false, if_true]

/-- A dispatched entry whose ranges and slots do not keep it from binding. -/
theorem exec_bind_dispatched {s : State} {e : Nat} {x : PoolEntry} (hx : tget s.pool e = some x) (hb : x.bound = true)
    (hf : instFree s x.inst = true) (hk : x.kind ≠ .copy)
    (hr : x.kind = .fabric ∨ x.kind = .stream → rangesGone s x = false ∧ entryPending s x = false) :
    exec (.bind e) s =
      if allAwake s x.quires then
        (match x.kind with
          | .saved g => .next (restore s e x g)
          | _ => .next (bindNew s e x))
      else .next (wakeQuires s x.quires) := by
  have hkind : (x.kind == .copy) = false := beq_eq_false_iff_ne.mpr hk
  have hgo : ((x.kind == .fabric || x.kind == .stream) && (rangesGone s x || entryPending s x)) = false := by
    by_cases h : x.kind = .fabric ∨ x.kind = .stream
    · rw [(hr h).1, (hr h).2, Bool.or_self, Bool.and_false]
    · simp only [not_or] at h
      rw [beq_eq_false_iff_ne.mpr h.1, beq_eq_false_iff_ne.mpr h.2, Bool.or_self, Bool.false_and]
  simp only [exec_bind, execBind, hx, hb, hkind, hf, hgo, Bool.not_true, Bool.or_self, Bool.false_eq_true, if_false]
  cases allAwake s x.quires <;> rfl

theorem exec_rangeEviction_victim {s : State} {stack : Fin 8} {k : Nat} {r : Nat × Nat} (hv : victim s stack.val = some (k, r))
    (hbusy : (heldPages s k r).any (pageBusy s k) = false) :
    let t := (heldPages s k r).foldl (evictPage k) (s, [])
    exec (.rangeEviction stack) s = .next { t.1 with
      evicted := (t.1.evicted.filter fun v => !(v.ctx == k && v.base == r.1 && v.len == r.2))
        ++ [{ ctx := k, base := r.1, len := r.2, pages := (heldPages s k r).map fun p => (p.1, 2 ^ levelShift p.2.level),
              data := t.2 }] } := by
  simp only [exec_rangeEviction, execRangeEviction, hv, hbusy, Bool.false_eq_true, if_false]

/-- Settles O38. -/
theorem poolServed : Obligations.PoolServed := by
  intro s
  refine ⟨exec_spineDispatch s, fun _ _ => exec_entryAging_promotes, ?bind, fun _ _ _ => exec_rangeEviction_victim, ?settled⟩
  case bind =>
    intro e x hx hb hf hk hr
    rw [exec_bind_dispatched hx hb hf hk hr]
    refine ⟨fun ha => ?sleeps, fun ha hnew => ?new, fun g ha hsaved => ?saved⟩
    case sleeps => rw [ha]; rfl
    case new =>
      rw [if_pos ha]
      obtain h | h := hnew <;> rw [h]
    case saved => rw [if_pos ha, hsaved]
  case settled =>
    intro k va w hw hshare e
    simp only [exec_settledPeriodEnd, execSettledPeriodEnd, hw, hshare, ne_eq, not_true_eq_false, if_false]
    rfl

end Sys2Proof.Machine
end

section
/-!
Families 06 and 22: the count of arrivals (R121), nullification (R122), addresses (R375, R376), and handler mode (R171, R364, R379).
-/

namespace Sys2Proof.Machine

/-! ### Arrivals (R121) -/

@[simp] theorem opnd_setOpnd (x : Slot) (k : OpndKind) (o : Operand) : (x.setOpnd k o).opnd k = o := by
  cases k <;> rfl

/-- A slot of a block in flight whose operand k stands as given. -/
def operandIs (s : State) (c : CoreId) (j : Nat) (k : OpndKind) (o : Operand) : Prop :=
  ∃ b, (s.strand c).block = some b ∧ j < b.slots.length ∧ (s.slot c j).opnd k = o

theorem operandIs_setOpnd {s : State} {c : CoreId} {j : Nat} {k : OpndKind} {o : Operand} (h : operandIs s c j k o) (p : Operand) :
    operandIs (s.modSlot c j fun x => x.setOpnd k p) c j k p := by
  obtain ⟨b, hb, hj, -⟩ := h
  refine ⟨_, block_modSlot hb j _, by rwa [lmod_length], ?_⟩
  rw [slot_modSlot_self hb hj, opnd_setOpnd]

/-- An arrival that is not a second value takes its place. -/
theorem operandIs_arrive {s : State} {c : CoreId} {j : Nat} {k : OpndKind} {o : Operand} (h : operandIs s c j k o)
    (v : Option Word) (hv : v = none ∨ o.value = none) :
    operandIs (arrive s c k j v) c j k { o with pending := o.pending - 1, value := v.or o.value } := by
  obtain ⟨-, -, -, ho⟩ := id h
  cases v with
  | none =>
    simp only [arrive, ho]
    exact operandIs_setOpnd h _
  | some w =>
    have hnone : o.value = none := hv.resolve_left (by simp)
    simp only [arrive, ho, hnone]
    exact operandIs_setOpnd h _

/-- What an operand holds once deliveries with at most one value have arrived. -/
theorem operandIs_arrivals {c : CoreId} {j : Nat} {k : OpndKind} (vs : List (Option Word)) :
    ∀ {s : State} {o : Operand}, operandIs s c j k o → (vs.filter Option.isSome).length + o.value.toList.length ≤ 1 →
      operandIs (vs.foldl (fun s v => arrive s c k j v) s) c j k
        { o with pending := o.pending - vs.length, value := ((vs.find? Option.isSome).getD none).or o.value } := by
  induction vs with
  | nil => exact fun h _ => h
  | cons v vs ih =>
    intro s o h hone
    cases v with
    | none =>
      have hstep := ih (operandIs_arrive h none (.inl rfl)) hone
      rw [Nat.sub_sub, Nat.add_comm 1] at hstep
      exact hstep
    | some w =>
      simp only [List.filter_cons, Option.isSome_some, if_true, List.length_cons] at hone
      have hvalue : o.value = none := by
        cases hv : o.value with
        | none => rfl
        | some y => rw [hv] at hone; simp at hone
      have hrest : vs.filter Option.isSome = [] := List.length_eq_zero_iff.mp (by omega)
      have hfind : vs.find? Option.isSome = none := by
        rw [← List.head?_filter, hrest]; rfl
      have hstep := ih (operandIs_arrive h (some w) (.inr hvalue)) (by rw [hrest]; simp)
      rw [hfind, Nat.sub_sub, Nat.add_comm 1] at hstep
      exact hstep

/-- Settles O53: deliveries with one value at most leave that value, and each counts one arrival. -/
theorem arrivalsCounted : Obligations.ArrivalsCounted := by
  intro s c k j b x _ hb hx hvalue vs u
  obtain ⟨hj, hxj⟩ := List.getElem?_eq_some_iff.mp hx
  have hslot : s.slot c j = x := by
    rw [State.slot, hb]
    exact (List.getD_eq_getElem _ _ hj).trans hxj
  have hstart : operandIs s c j k (x.opnd k) := ⟨b, hb, hj, by rw [hslot]⟩
  have hend : (vs.filter Option.isSome).length ≤ 1 → (u.slot c j).opnd k =
      { x.opnd k with pending := (x.opnd k).pending - vs.length, value := (vs.find? Option.isSome).getD none } := by
    intro hone
    obtain ⟨-, -, -, h⟩ := operandIs_arrivals vs hstart (by rw [hvalue]; simpa using hone)
    rw [hvalue, Option.or_none] at h
    exact h
  constructor
  · intro hcount hone
    rw [hend hone, hcount, Nat.sub_self]
    exact ⟨rfl, rfl⟩
  · intro hone w
    have hsome : ∃ y, ((u.slot c j).opnd k).value = some y := by
      rw [hend hone.le]
      obtain ⟨z, hz⟩ := List.length_eq_one_iff.mp hone
      have hfind : vs.find? Option.isSome = some z := by rw [← List.head?_filter, hz]; rfl
      exact (Option.isSome_iff_exists.mp (List.find?_some hfind)).imp fun y hy => by rw [hfind, ← hy]; rfl
    obtain ⟨y, hy⟩ := hsome
    simp only [arrive, hy]

/-! ### Nullification (R122) -/

/-- An outcome that is `perform` of a form. -/
def performsOf (f : Form) (s : State) (o : Host.Outcome State Fault Refusal) : Prop := ∃ act, o = perform f s act

theorem performsOf_perform (f : Form) (s : State) (act : State → CoreId → Nat → Word → Word → Word → State) :
    performsOf f s (perform f s act) := ⟨act, rfl⟩

theorem performsOf_valueOp (f : Form) (s : State) (v : Word → Word → Word → Word) : performsOf f s (valueOp f s v) := ⟨_, rfl⟩

theorem performsOf_flagOp (f : Form) (s : State) (v : State → CoreId → Nat → Word → Word → Word → Word × Flags6) :
    performsOf f s (flagOp f s v) := ⟨_, rfl⟩

theorem performsOf_intRow (f : Form) (op : IOp) (w : IntWidth) (sgn sat : Bool) (s : State) :
    performsOf f s (intRow f op w sgn sat s) := ⟨_, rfl⟩

theorem performsOf_bitcRow (f : Form) (w : IntWidth) (fn : Nat → Nat → Nat) (s : State) :
    performsOf f s (bitcRow f w fn s) := performsOf_valueOp ..

theorem performsOf_fopRow (f : Form) (op : FOp) (fmt : FloatFmt) (rm : Rm) (pk sat : Bool) (s : State) :
    performsOf f s (fopRow f op fmt rm pk sat s) := performsOf_flagOp ..

theorem performsOf_fminRow (f : Form) (isMax : Bool) (fmt : FloatFmt) (pk prop : Bool) (s : State) :
    performsOf f s (fminRow f isMax fmt pk prop s) := performsOf_flagOp ..

theorem performsOf_sfuRow (f : Form) (fn : Sfu) (s : State) : performsOf f s (sfuRow f fn s) := performsOf_flagOp ..

theorem performsOf_quantRow (f : Form) (fn : FEnv → ElemFmt → Nat → Nat → Nat × Flags6) (rm : Rm) (s : State) :
    performsOf f s (quantRow f fn rm s) := ⟨_, rfl⟩

theorem performsOf_atomlRow (f : Form) (op : Nat) (scope : Scope) (ord : Order) (s : State) :
    performsOf f s (atomlRow f op scope ord s) := ⟨_, rfl⟩

theorem performsOf_atomgRow (f : Form) (op : Nat) (scope : Scope) (ord : Order) (s : State) :
    performsOf f s (atomgRow f op scope ord s) := ⟨_, rfl⟩

theorem performsOf_fence (f : Form) (acq rel xp : Bool) (scope : Scope) (s : State) :
    performsOf f s (fence f acq rel xp scope s) := ⟨_, rfl⟩

/-- An instruction of class V is `perform` of its form: only an event is not. -/
theorem exec_performs_value {x : Instr} {w : Word32} (h : encode x = some w) (hv : (formOf x).cls = .value) (s : State) :
    performsOf (formOf x) s (exec x s) := by
  cases x with
  | rd | null | adc | ldl | ldg =>
    simp only [exec]
    exact performsOf_perform ..
  | movi | movhi | mov | sysrd | cmp | sel | bfx | bfi | lea | addi | andi | ori | xori | shfiShl | shfiShr | shfiSar
  | shfiRot | cmpi | muli | fclass | fsgnAbs | fsgnNeg | fsgnCopysign | flstat | vpstat =>
    simp only [exec]
    exact performsOf_valueOp ..
  | add | sub | mul | mulh | div | rem | and | or | xor | andn | shl | shr | sar | rot | min | max =>
    simp only [exec]
    exact performsOf_intRow ..
  | bitcPopc | bitcClz | bitcCtz | bitcBrev | bitcBswap =>
    simp only [exec]
    exact performsOf_bitcRow ..
  | fadd | fsub | fmul | fma =>
    simp only [exec]
    exact performsOf_fopRow ..
  | fmin | fmax =>
    simp only [exec]
    exact performsOf_fminRow ..
  | fcmp | fcvt | qscale =>
    simp only [exec]
    exact performsOf_flagOp ..
  | fsfuRcp | fsfuRsq | fsfuSqrt | fsfuExp2 | fsfuLog2 | fsfuTanh | fsfuSigm | fsfuSinp | fsfuCosp =>
    simp only [exec]
    exact performsOf_sfuRow ..
  | qcvt | qdeq =>
    simp only [exec]
    exact performsOf_quantRow ..
  | blockFetch | blockCommit | deadlineOverrun | noProgressWatchdog | faultReport | irrevocableGrant | roundCommit | roundVoid
  | commitWatchdog | voidLimit | waitaWake | remoteWatchReread | kettleComplete | submissionDoorbell | fwsqDoorbell
  | cqheadWrite | hostRegisterWrite | hostBar2Access | launchAdmission | requestFrame | spineDispatch | entryAging
  | swapWaitExpiry | bind | contextSave | copyNodeRun | moverLineLand | nodeRetire | responseDelivery | spawnBacklogAdmit
  | contextUnload | rangeEviction | tileSwap | mxCommandStart | mxCommandComplete | vpStep | scannerStep | scannerRefill
  | skipReceive | isectStep | unionStep | repeatStep | reduceStep | spaccStep | lwriteStep | gatherStep | scatterStep
  | filterStep | coalesceStep | agenStep | tokenDelivery | creditReturn | meshFlitRetry | meshLinkFailure | tlbLookup
  | pageWalk | memoryPortService | hbmScrub | roundBufferError | kvGateCheck | kvEviction | countedWriteIssue | putArrival
  | pushArrival | ratomArrival | rloadArrival | rdataArrival | flagArrival | flagComplete | flagdoneArrival | resendArrival
  | gapTimerExpiry | flagTimerExpiry | tailWriteTimeout | rloadTimerExpiry | flezalFlitError | flezalLinkDown
  | packetAgeDiscard | packageLost | channelAllocate | deviceBoot | folioCalibrationDone | quirePowerTransition | quireWake
  | quireWakeTimeout | governorLimit | thermalEvent | imageCommitSwitch | controlCoreHalt | handlerEntry | contextLoad
  | folioAdmission | spawnCommitHoldTimeout | settledPeriodEnd | transitPacketArrival => cases h
  | _ => cases hv

theorem exec_performs_effect {x : Instr} (he : (formOf x).cls = .effect) (s : State) : performsOf (formOf x) s (exec x s) := by
  cases x with
  | rnd | trap | bkpt | syswr | spawn | stl | stg | casl | casg | waitaLeaf | waitaRound | waitaDev | waitaSys | mbarInit
  | mbarArrive | mbarExpect | mbarTest | mbarWait | cpLd | cpSt | cpSend | cpMc | cpFib | flag | kvopMass | kvopEvict
  | kvopStat | flcfg | flgo | flstop | spush | spop | sctlStatus | sctlDrain | sctlReset | sbar | rtset | kettle | vpcfg
  | vpgo | vpconst | tldLa | tldDev | tturn | tturnEmit | tstLa | tstDev | mxcmd | mxwait | accopZero | accopCopy
  | tlbinvPage | tlbinvCtx | tlbinvAll | apset | ctxsv | imgw | imgcmt | wfi | pgset | elogrd =>
    simp only [exec]
    exact performsOf_perform ..
  | atomlAdd | atomlAnd | atomlOr | atomlXor | atomlXchg | atomlSmin | atomlSmax | atomlFadd =>
    simp only [exec]
    exact performsOf_atomlRow ..
  | atomgAdd | atomgAnd | atomgOr | atomgXor | atomgXchg | atomgSmin | atomgSmax | atomgFadd =>
    simp only [exec]
    exact performsOf_atomgRow ..
  | fenceAcq | fenceRel | fenceAr | fenceXp =>
    simp only [exec]
    exact performsOf_fence ..
  | _ => cases he

theorem exec_performs_control {x : Instr} (hc : (formOf x).cls = .control) (s : State) : performsOf (formOf x) s (exec x s) := by
  cases x with
  | br | call | brr | exit | tdone | eret =>
    simp only [exec]
    exact performsOf_perform ..
  | _ => cases hc

/-- What an instruction that is `perform` of its form does when it is nullified. -/
theorem exec_nulls {s : State} {x : Instr} (hx : performsOf (formOf x) s (exec x s)) (h : nulls s x) :
    exec x s = .next (nullify (formOf x) s s.focus.core s.focus.slot) := by
  obtain ⟨act, hact⟩ := hx
  rw [hact, perform_nulls h]

/-- Settles O55: every encoded instruction is `perform` of its form, and a nullified one does what its class says. -/
theorem nullified_delivers_null : Obligations.Nullified := by
  intro s x w hw h f mute
  refine ⟨fun hv => ?value, fun he => ?effect, fun hc => ?control⟩
  case value => rw [exec_nulls (exec_performs_value hw hv s) h, nullify, hv]; rfl
  case effect => rw [exec_nulls (exec_performs_effect he s) h, nullify, he]; rfl
  case control => rw [exec_nulls (exec_performs_control hc s) h, nullify, hc]; rfl

/-! ### Addresses (R375, R376) -/

/-- The top of the addresses of the scratchpad in focus. -/
def padTop (s : State) : Nat := if coreIsControl s.me then Config.localBytes else Config.leafBytes

theorem leafAccess_range {s : State} {la : Nat} (h : padTop s ≤ la) (n acc : Nat) (rel act : Bool) (k : State → State) :
    leafAccess s s.focus.core s.focus.slot la n acc rel act k = blockFault s s.me (some s.focus.slot) 0x0114 0 :=
  limitLa_range h

theorem leafAccess_align {s : State} {la n : Nat} (h : la < padTop s) (hal : la % n ≠ 0) (acc : Nat) (rel act : Bool)
    (k : State → State) :
    leafAccess s s.focus.core s.focus.slot la n acc rel act k = blockFault s s.me (some s.focus.slot) 0x0115 0 :=
  limitLa_align h hal

/-- An instruction whose first act is an access of n bytes of the scratchpad at its operand. -/
def accesses (s : State) (x : Instr) (n : Nat) : Prop :=
  ∃ acc rel act k, exec x s =
    .next (leafAccess s s.focus.core s.focus.slot s.opL.toNat n acc rel act k)

/-- Such an instruction, at an address out of range or not aligned. -/
theorem accesses.checked {s : State} {x : Instr} {n : Nat} (h : accesses s x n) :
    (padTop s ≤ s.opL.toNat → exec x s = .next (blockFault s s.me (some s.focus.slot) 0x0114 0)) ∧
    (s.opL.toNat < padTop s → s.opL.toNat % n ≠ 0 → exec x s = .next (blockFault s s.me (some s.focus.slot) 0x0115 0)) := by
  obtain ⟨acc, rel, act, k, h⟩ := h
  rw [h]
  exact ⟨fun hr => by rw [leafAccess_range hr], fun hr hal => by rw [leafAccess_align hr hal]⟩

theorem accesses_ldl {s : State} {scope : Scope} {acq : Bool} {w : AccWidth} {tb ta : Target} (h : fires s (.ldl scope acq w tb ta)) :
    accesses s (.ldl scope acq w tb ta) (accSize w) := by
  rw [accesses, exec_ldl, execLdl, perform_fires h]
  exact ⟨_, _, _, _, rfl⟩

theorem accesses_stl {s : State} {scope : Scope} {rel : Bool} {w : AccWidth} {tb ta : Target} (h : fires s (.stl scope rel w tb ta)) :
    accesses s (.stl scope rel w tb ta) (accSize w) := by
  rw [accesses, exec_stl, execStl, perform_fires h]
  exact ⟨_, _, _, _, rfl⟩

theorem accesses_casl {s : State} {scope : Scope} {o : Order} {w : CasWidth} {tb ta : Target} (h : fires s (.casl scope o w tb ta)) :
    accesses s (.casl scope o w tb ta) (casSize w) := by
  rw [accesses, exec_casl, execCasl, perform_fires h]
  exact ⟨_, _, _, _, rfl⟩

theorem accesses_atomlRow {s : State} {x : Instr} (op : Nat) {scope : Scope} {o : Order}
    (hx : exec x s = atomlRow (formOf x) op scope o s) (h : fires s x) : accesses s x (atomicSize op) := by
  rw [accesses, hx, atomlRow, perform_fires h]
  exact ⟨_, _, _, _, rfl⟩

/-- The seven operations on 64 bits of the scratchpad. -/
theorem accesses_atoml {s : State} {scope : Scope} {o : Order} {tb ta : Target} {x : Instr}
    (hx : x ∈ [.atomlAdd scope o tb ta, .atomlAnd scope o tb ta, .atomlOr scope o tb ta, .atomlXor scope o tb ta,
      .atomlXchg scope o tb ta, .atomlSmin scope o tb ta, .atomlSmax scope o tb ta]) (h : fires s x) : accesses s x 8 := by
  simp only [List.mem_cons, List.not_mem_nil, or_false] at hx
  obtain rfl | rfl | rfl | rfl | rfl | rfl | rfl := hx
  · exact accesses_atomlRow 0 (exec_atomlAdd ..) h
  · exact accesses_atomlRow 1 (exec_atomlAnd ..) h
  · exact accesses_atomlRow 2 (exec_atomlOr ..) h
  · exact accesses_atomlRow 3 (exec_atomlXor ..) h
  · exact accesses_atomlRow 4 (exec_atomlXchg ..) h
  · exact accesses_atomlRow 5 (exec_atomlSmin ..) h
  · exact accesses_atomlRow 6 (exec_atomlSmax ..) h

theorem accesses_atomlFadd {s : State} {scope : Scope} {o : Order} {tb ta : Target} (h : fires s (.atomlFadd scope o tb ta)) :
    accesses s (.atomlFadd scope o tb ta) 4 := accesses_atomlRow 7 (exec_atomlFadd ..) h

/-- An instruction that is one request of n bytes at its operand. -/
def asks (s : State) (x : Instr) (n : Nat) : Prop :=
  ∃ wr act acq rel scope op, exec x s =
    .next (request s s.focus.core s.focus.slot s.opL.toNat n wr act acq rel scope op)

theorem asks.checked {s : State} {x : Instr} {n : Nat} (h : asks s x n) :
    (2 ^ 52 ≤ s.opL.toNat → exec x s = .next (blockFault s s.me (some s.focus.slot) 0x0114 0)) ∧
    (s.opL.toNat < 2 ^ 52 → s.opL.toNat % n ≠ 0 → exec x s = .next (blockFault s s.me (some s.focus.slot) 0x0115 0)) := by
  obtain ⟨wr, act, acq, rel, scope, op, h⟩ := h
  rw [h]
  exact ⟨fun hr => congrArg Host.Outcome.next (limitVa_range hr), fun hr hal => congrArg Host.Outcome.next (limitVa_align hr hal)⟩

theorem asks_ldg {s : State} {scope : Scope} {acq : Bool} {w : AccWidth} {tb ta : Target} (h : fires s (.ldg scope acq w tb ta)) :
    asks s (.ldg scope acq w tb ta) (accSize w) := by
  rw [asks, exec_ldg, execLdg, perform_fires h]
  exact ⟨_, _, _, _, _, _, rfl⟩

theorem asks_stg {s : State} {scope : Scope} {rel : Bool} {w : AccWidth} {tb ta : Target} (h : fires s (.stg scope rel w tb ta)) :
    asks s (.stg scope rel w tb ta) (accSize w) := by
  rw [asks, exec_stg, execStg, perform_fires h]
  exact ⟨_, _, _, _, _, _, rfl⟩

theorem exec_spop_checked {s : State} {nb : Bool} {p : Fin 8} {tb ta : Target} (h : fires s (.spop nb p tb ta))
    (hb : coreBound s s.lf p.val = true) :
    (padTop s ≤ s.opL.toNat → exec (.spop nb p tb ta) s = .next (blockFault s s.me (some s.focus.slot) 0x0114 0)) ∧
    (s.opL.toNat < padTop s → s.opL.toNat % 64 ≠ 0 →
      exec (.spop nb p tb ta) s = .next (blockFault s s.me (some s.focus.slot) 0x0115 0)) := by
  rw [State.lf] at hb
  rw [exec_spop, execSpop, perform_fires h]
  simp only [hb, Bool.not_true, Bool.false_eq_true, if_false]
  exact ⟨fun hr => congrArg Host.Outcome.next (limitLa_range hr), fun hr hal => congrArg Host.Outcome.next (limitLa_align hr hal)⟩

/-! ### The operands of `MBAR` (R187, R188, R376) -/

/-- An instruction that is one access to the object at its operand, with its second operand good or not. -/
def touchesMbar (s : State) (x : Instr) (ok : Bool) : Prop :=
  ∃ rel k, exec x s = .next (mbarAccess s s.focus.core s.focus.slot s.opL.toNat ok rel k)

section
variable {s : State} {x : Instr} {ok : Bool} (h : touchesMbar s x ok)
include h

theorem touchesMbar.range (hr : padTop s ≤ s.opL.toNat) :
    exec x s = .next (blockFault s s.me (some s.focus.slot) 0x0114 0) := by
  obtain ⟨rel, k, h⟩ := h
  rw [h]
  exact congrArg Host.Outcome.next (limitLa_range hr)

theorem touchesMbar.align (hr : s.opL.toNat < padTop s) (hal : s.opL.toNat % 64 ≠ 0) :
    exec x s = .next (blockFault s s.me (some s.focus.slot) 0x0115 0) := by
  obtain ⟨rel, k, h⟩ := h
  rw [h]
  exact congrArg Host.Outcome.next (limitLa_align hr hal)

theorem touchesMbar.keep (hr : s.opL.toNat < padTop s) (hal : s.opL.toNat % 64 = 0) (hk : inKeep s s.me s.opL.toNat = false) :
    exec x s = .next (blockFault s s.me (some s.focus.slot) 0x0114 0) := by
  obtain ⟨rel, k, h⟩ := h
  rw [State.me] at hk
  rw [h, mbarAccess, limitLa_ok (c := s.focus.core) hr hal, hk, limit_bad]
  rfl

theorem touchesMbar.operand (hr : s.opL.toNat < padTop s) (hal : s.opL.toNat % 64 = 0) (hk : inKeep s s.me s.opL.toNat = true)
    (hok : ok = false) : exec x s = .next (blockFault s s.me (some s.focus.slot) 0x0114 1) := by
  obtain ⟨rel, k, h⟩ := h
  rw [State.me] at hk
  rw [h, mbarAccess, limitLa_ok (c := s.focus.core) hr hal, hk, limit_ok, hok, limit_bad]
  rfl

end

theorem touchesMbar_init {s : State} {tb ta : Target} (h : fires s (.mbarInit tb ta)) :
    touchesMbar s (.mbarInit tb ta) (decide (1 ≤ s.opR.toNat) && decide (s.opR.toNat < 2 ^ 31)) := by
  rw [touchesMbar, exec_mbarInit, execMbarInit, perform_fires h]
  exact ⟨_, _, rfl⟩

theorem touchesMbar_arrive {s : State} {tb ta : Target} (h : fires s (.mbarArrive tb ta)) :
    touchesMbar s (.mbarArrive tb ta) (decide (1 ≤ s.opR.toNat) && decide (s.opR.toNat ≤ (mbarAt s s.me s.opL.toNat).pend)) := by
  rw [touchesMbar, exec_mbarArrive, execMbarArrive, perform_fires h]
  exact ⟨_, _, rfl⟩

theorem touchesMbar_expect {s : State} {tb ta : Target} (h : fires s (.mbarExpect tb ta)) :
    touchesMbar s (.mbarExpect tb ta) (decide (1 ≤ s.opR.toNat) && decide (s.opR.toNat < 2 ^ 31)) := by
  rw [touchesMbar, exec_mbarExpect, execMbarExpect, perform_fires h]
  exact ⟨_, _, rfl⟩

theorem touchesMbar_test {s : State} {tb ta : Target} (h : fires s (.mbarTest tb ta)) :
    touchesMbar s (.mbarTest tb ta) (decide (s.opR.toNat < 2 ^ 32)) := by
  rw [touchesMbar, exec_mbarTest, execMbarTest, perform_fires h]
  exact ⟨_, _, rfl⟩

theorem touchesMbar_wait {s : State} {tb ta : Target} (h : fires s (.mbarWait tb ta)) :
    touchesMbar s (.mbarWait tb ta) (decide (s.opR.toNat < 2 ^ 32)) := by
  rw [touchesMbar, exec_mbarWait, execMbarWait, perform_fires h]
  exact ⟨_, _, rfl⟩

theorem touchesMbar_any {s : State} {tb ta : Target} {x : Instr}
    (hx : x ∈ [.mbarInit tb ta, .mbarArrive tb ta, .mbarExpect tb ta, .mbarTest tb ta, .mbarWait tb ta]) (h : fires s x) :
    ∃ ok, touchesMbar s x ok := by
  simp only [List.mem_cons, List.not_mem_nil, or_false] at hx
  obtain rfl | rfl | rfl | rfl | rfl := hx
  · exact ⟨_, touchesMbar_init h⟩
  · exact ⟨_, touchesMbar_arrive h⟩
  · exact ⟨_, touchesMbar_expect h⟩
  · exact ⟨_, touchesMbar_test h⟩
  · exact ⟨_, touchesMbar_wait h⟩

/-- Settles O56: an access to the scratchpad or to device memory begins with the limits of its address, and one to an object with those
of the object and of its second operand. -/
theorem addressesChecked : Obligations.AddressesChecked := by
  intro s scope w ord o v tb ta la r top out skew
  refine ⟨?leaf, ?device, fun x hx h => (accesses_atoml hx h).checked, fun h => (accesses_atomlFadd h).checked,
    fun h => (accesses_casl h).checked, fun nb p => exec_spop_checked, ?object, ?operand⟩
  case leaf =>
    intro x hx h
    obtain rfl | rfl := hx
    · exact (accesses_ldl h).checked
    · exact (accesses_stl h).checked
  case device =>
    intro x hx h
    obtain rfl | rfl := hx
    · exact (asks_ldg h).checked
    · exact (asks_stg h).checked
  case object =>
    intro x hx h
    obtain ⟨ok, h⟩ := touchesMbar_any hx h
    exact ⟨h.range, h.align, h.keep⟩
  case operand =>
    intro hr hal hk bad
    refine ⟨fun x hx h hbad => ?count, fun h hbad => ?arrive, fun x hx h hbad => ?phase⟩
    case count =>
      have hfalse : (decide (1 ≤ s.opR.toNat) && decide (s.opR.toNat < 2 ^ 31)) = false := by
        rw [Bool.and_eq_false_iff, decide_eq_false_iff_not, decide_eq_false_iff_not]; omega
      obtain rfl | rfl := hx
      · exact (touchesMbar_init h).operand hr hal hk hfalse
      · exact (touchesMbar_expect h).operand hr hal hk hfalse
    case arrive =>
      have hout : s.opR.toNat = 0 ∨ (mbarAt s s.me s.opL.toNat).pend < s.opR.toNat := hbad
      have hfalse : (decide (1 ≤ s.opR.toNat) && decide (s.opR.toNat ≤ (mbarAt s s.me s.opL.toNat).pend)) = false := by
        rw [Bool.and_eq_false_iff, decide_eq_false_iff_not, decide_eq_false_iff_not]; omega
      exact (touchesMbar_arrive h).operand hr hal hk hfalse
    case phase =>
      have hfalse : decide (s.opR.toNat < 2 ^ 32) = false := decide_eq_false (not_lt.mpr hbad)
      obtain rfl | rfl := hx
      · exact (touchesMbar_test h).operand hr hal hk hfalse
      · exact (touchesMbar_wait h).operand hr hal hk hfalse

/-! ### Handler mode (R171, R364, R379) -/

/-- The resume address, the class and the detail of the exception that waits at a core: its own fault or trap, or an interrupt at a block
boundary. -/
def exceptionDue (x : Core) (resume cls detail : Nat) : Prop :=
  x.cause = some (resume, cls, detail) ∨
    (x.cause = none ∧ x.irq = true ∧ x.strand.block = none ∧ x.strand.faulted = false ∧ resume = x.strand.pc ∧ cls = 0 ∧ detail = 0)

theorem exec_handlerEntry_due {s : State} {k : Fin 16} {resume cls detail : Nat} (hs : (s.core k.val).started = true)
    (hh : (s.core k.val).halted = false) (hm : (s.core k.val).handler = false) (h : exceptionDue (s.core k.val) resume cls detail) :
    exec (.handlerEntry k) s = .next (takeException s k.val resume cls detail) := by
  rw [exec_handlerEntry, execHandlerEntry]
  obtain hc | ⟨hc, hirq, hb, hf, rfl, rfl, rfl⟩ := h
  · simp only [hs, hh, hm, hc, Bool.not_true, Bool.or_self, Bool.false_eq_true, if_false]
  · simp only [hs, hh, hm, hc, hirq, hb, hf, Option.isNone_none, Bool.not_true, Bool.not_false, Bool.and_self, Bool.or_self,
      Bool.false_eq_true, if_false, if_true]

/-- The commit of `ERET` advances the strand, and returns. -/
theorem commitTail_eret {b : Block} (hm : b.moves = [.eret]) (hs : b.sys = []) (s : State) (k : Fin 16) :
    commitTail s (.control k) b = returnFrom (s.modStrand (.control k) fun st => advance st b true) k.val := by
  have hfin : [Transfer.eret].contains (.finish true) = false := rfl
  have hret : [Transfer.eret].contains .eret = true := rfl
  simp only [commitTail, hm, hs, hret, List.foldl_nil, if_true]
  rfl

/-- A fault in handler mode halts the core, once its record stands and its block is abandoned. -/
theorem raiseFault_handler {s : State} {k : Fin 16} (h : (s.core k.val).handler = true) (r : Report) (d : Nat) :
    ∃ u, raiseFault s (.control k) r d = haltCore u k.val ∧ u.hbm = s.hbm ∧ u.leaves = s.leaves := by
  obtain ⟨log, lost, seqs, cores, folios, hubs, hn, -, e⟩ :=
    emitRecord_log s { r with sev := sevStalled, tag := none, where_ := 0 } true (Bool.and_false _)
  have hcore : ((abandon (emitRecord s { r with sev := sevStalled, tag := none, where_ := 0 } true).2 k).core k.val).handler = true := by
    obtain ⟨b, hb⟩ := hn k.val
    rw [e]
    change (cores.getD k.val {}).handler = true
    rw [hb]
    exact h
  refine ⟨abandon (emitRecord s { r with sev := sevStalled, tag := none, where_ := 0 } true).2 k, ?_, ?_, ?_⟩
  · exact if_pos hcore
  · rw [e]; rfl
  · rw [e]; rfl

theorem core_modCore_same {s : State} {k : Nat} (h : k < s.cores.length) (f : Core → Core) : (s.modCore k f).core k = f (s.core k) := by
  rw [State.core_modCore, if_pos ⟨rfl, h⟩]

/-- Settles O57: entry, return and halt. -/
theorem handlerEntered : Obligations.HandlerEntered := by
  intro s k hk x
  refine ⟨?entry, ?ret, ?halt⟩
  case entry =>
    intro hs hh hm resume cls detail hdue
    refine ⟨_, exec_handlerEntry_due hs hh hm hdue, ?_⟩
    rw [takeException, core_modCore_same hk]
    exact ⟨rfl, rfl, rfl, rfl, rfl, rfl, rfl, rfl, rfl, rfl⟩
  case ret =>
    intro b _ hm hs t
    have hk' : k.val < (s.modStrand (.control k) fun st => advance st b true).cores.length := by
      simpa only [State.modStrand, State.modCore, lmod_length] using hk
    have hcore : t.core k.val =
        { x with handler := false, serving := false, strand := { advance x.strand b true with pc := x.resume } } := by
      rw [show t = _ from commitTail_eret hm hs s k]
      exact (core_modCore_same hk' _).trans (by rw [State.modStrand, core_modCore_same hk])
    rw [hcore]
    exact ⟨rfl, rfl, rfl⟩
  case halt =>
    intro b i cls d hb hh
    have hblock : (s.strand (.control k)).block = some b := hb
    rw [blockFault, hblock]
    exact raiseFault_handler hh _ d

end Sys2Proof.Machine
end

section
/-!
What the instructions that deliver values leave alone (rows 0x00 to 0x3F), and what the scratchpad stores do (R177, R180, R181, R188).
-/

namespace Sys2Proof.Machine

/-! ### Instructions that only deliver values -/

theorem framed_execRd {s t : State} {g : Fin 64} {tb ta : Target} (hc : calm s) (h : execRd g tb ta s = .next t) : framed s t := by
  refine framed_perform rfl hc (fun l r o => ?_) h
  cases hsick : regSick s s.focus.core g.val with
  | none =>
    exact framed_deliver2 s _ _ _ _ _ _ rfl hc
  | some la =>
    exact framed_raiseFault s _ _ _ rfl hc

theorem framed_bitcRow {f : Form} {w : IntWidth} {fn : Nat → Nat → Nat} {s t : State} (hf : f.cls = .value) (hc : calm s)
    (h : bitcRow f w fn s = .next t) : framed s t := framed_valueOp hf hc h

theorem framed_fopRow {f : Form} {op : FOp} {fmt : FloatFmt} {rm : Rm} {pk sat : Bool} {s t : State} (hf : f.cls = .value)
    (hc : calm s) (h : fopRow f op fmt rm pk sat s = .next t) : framed s t := framed_flagOp hf hc h

theorem framed_fminRow {f : Form} {isMax pk prop : Bool} {fmt : FloatFmt} {s t : State} (hf : f.cls = .value) (hc : calm s)
    (h : fminRow f isMax fmt pk prop s = .next t) : framed s t := framed_flagOp hf hc h

theorem framed_sfuRow {f : Form} {fn : Sfu} {s t : State} (hf : f.cls = .value) (hc : calm s)
    (h : sfuRow f fn s = .next t) : framed s t := framed_flagOp hf hc h

theorem framed_exec_value {s t : State} {x : Instr} (hv : valueInstr x = true) (hc : calm s) (h : exec x s = .next t) : framed s t := by
  cases x with
  | rd =>
    rw [exec_rd] at h
    exact framed_execRd hc h
  | null | adc =>
    simp only [exec] at h
    exact framed_perform rfl hc (fun _ _ _ => framed_deliver2 s _ _ _ _ _ _ rfl hc) h
  | movi | movhi | mov | sysrd | cmp | sel | bfx | bfi | lea | addi | andi | ori | xori | shfiShl | shfiShr | shfiSar
  | shfiRot | cmpi | muli | fclass | fsgnAbs | fsgnNeg | fsgnCopysign =>
    simp only [exec] at h
    exact framed_valueOp rfl hc h
  | bitcPopc | bitcClz | bitcCtz | bitcBrev | bitcBswap =>
    simp only [exec] at h
    exact framed_bitcRow rfl hc h
  | add | sub | mul | mulh | div | rem | and | or | xor | andn | shl | shr | sar | rot | min | max =>
    simp only [exec] at h
    exact framed_intRow rfl hc h
  | fadd | fsub | fmul | fma =>
    simp only [exec] at h
    exact framed_fopRow rfl hc h
  | fmin | fmax =>
    simp only [exec] at h
    exact framed_fminRow rfl hc h
  | fcmp | fcvt | qscale =>
    simp only [exec] at h
    exact framed_flagOp rfl hc h
  | fsfuRcp | fsfuRsq | fsfuSqrt | fsfuExp2 | fsfuLog2 | fsfuTanh | fsfuSigm | fsfuSinp | fsfuCosp =>
    simp only [exec] at h
    exact framed_sfuRow rfl hc h
  | qcvt | qdeq =>
    simp only [exec] at h
    exact framed_quantRow rfl hc h
  | _ => cases hv

/-- Settles O58, by the shape of each row: one value, a value with flags, or a lane whose operand is checked. -/
theorem valuesFrame : Obligations.ValuesFrame := fun _ _ _ hv hc h => framed_exec_value hv hc h

/-! ### The stores of the scratchpad -/

section
variable {s t : State} (hs : s.sound = true) (hc : calm s)
include hs hc

/-- A store after which its instruction is complete. -/
theorem stored_padStore_complete {f : Form} {la n : Nat} {bs : List Byte} {va vb : Option Word} (hn : bs.length = n)
    (hr : coreIsControl s.me = false → laRefused (s.leaf ((coreLeaf s.me).getD 0)).partw la n true = none) :
    stored la n s (padStore s s.me s.focus.slot la bs fun u => complete f u s.me s.focus.slot va vb) :=
  stored_padStore hn hs hc hr fun _ hf hcalm => stored_complete hf hcalm

theorem stored_stl {scope : Scope} {rel : Bool} {w : AccWidth} {tb ta : Target}
    (h : exec (.stl scope rel w tb ta) s = .next t) : stored s.opL.toNat (accSize w) s t := by
  rw [exec_stl, execStl] at h
  exact stored_perform rfl hc (stored_leafAccess hc (by decide) fun hr => stored_padStore_complete hs hc (bytesOf_length ..) hr) h

theorem stored_atomlRow {f : Form} {op : Nat} {scope : Scope} {o : Order} (hf : f.cls = .effect)
    (h : atomlRow f op scope o s = .next t) : stored s.opL.toNat (atomicSize op) s t := by
  rw [atomlRow] at h
  exact stored_perform hf hc (stored_leafAccess hc (by decide) fun hr => stored_padStore_complete hs hc (bytesOf_length ..) hr) h

theorem stored_casl {scope : Scope} {o : Order} {w : CasWidth} {tb ta : Target} (h : exec (.casl scope o w tb ta) s = .next t) :
    stored s.opL.toNat (casSize w) s t := by
  rw [exec_casl, execCasl] at h
  refine stored_perform rfl hc (stored_leafAccess hc (by decide) fun hr => ?_) h
  dsimp only
  split
  · exact stored_padStore_complete hs hc (bytesOf_length ..) hr
  · exact stored_complete rfl hc

/-- A token taken into the scratchpad, and the head of its port removed. -/
theorem stored_spop {nb : Bool} {p : Fin 8} {tb ta : Target} (h : exec (.spop nb p tb ta) s = .next t) :
    stored s.opL.toNat 64 s t := by
  rw [exec_spop, execSpop] at h
  refine stored_perform rfl hc ?_ h
  have hfault : ∀ cls d, stored s.opL.toNat 64 s (blockFault s s.me (some s.focus.slot) cls d) := fun cls d =>
    (framed_blockFault s s.me _ cls d rfl hc).stored _ _
  dsimp only
  split
  · exact hfault _ _
  · unfold limitLa
    generalize (if coreIsControl s.focus.core = true then Config.localBytes else Config.leafBytes) = top
    split
    · exact hfault _ _
    · split
      · exact hfault _ _
      · dsimp only
        split
        · split
          · exact stored_complete rfl hc
          · exact (framed_stay s s.me _).stored _ _
        · refine stored_leafAccess hc (by decide) fun hr => stored_padStore (payload_length _) hs hc hr fun u hf hcalm => ?_
          obtain ⟨hdrop, hcalm'⟩ := stored_dropHead u ((coreLeaf s.focus.core).getD 0) p.val s.opL.toNat 64
          exact hdrop.trans (stored_complete (hdrop.focus.trans hf) (hcalm' hcalm))

/-- An operation that writes its object back. -/
theorem stored_mbarSet {f : Form} {la : Nat} {ok rel : Bool} {g : Mbar → Mbar} :
    stored la 16 s (mbarAccess s s.me s.focus.slot la ok rel fun u => mbarSet f u s.me s.focus.slot la g) :=
  stored_mbarAccess hc fun hr => stored_padStore_complete hs hc (mbar_bytes_length _) hr

theorem stored_exec {x : Instr} {la n : Nat} (hx : storeOf s x = some (la, n)) (h : exec x s = .next t) : stored la n s t := by
  cases x with
  | stl =>
    cases hx
    exact stored_stl hs hc h
  | atomlAdd | atomlAnd | atomlOr | atomlXor | atomlXchg | atomlSmin | atomlSmax | atomlFadd =>
    cases hx
    simp only [exec] at h
    exact stored_atomlRow hs hc rfl h
  | casl =>
    cases hx
    exact stored_casl hs hc h
  | spop =>
    cases hx
    exact stored_spop hs hc h
  | mbarInit | mbarArrive | mbarExpect =>
    cases hx
    simp only [exec] at h
    exact stored_perform rfl hc (stored_mbarSet hs hc) h
  | _ => cases hx

end

/-- Settles O59: each form writes its bytes where its operand says, and completes. -/
theorem storesFrame : Obligations.StoresFrame := by
  intro s t x la n hs hc hx h
  have hst := stored_exec hs hc hx h
  refine ⟨hst.leaf, hst.core, hst.reg, hst.strand, hst.hbm, hst.host, hst.ctx, fun pa bs a ha => ?_⟩
  rw [hbmWrite_hbm]
  exact Memory.get_write_ne (State.sound_hbm hs) ha

end Sys2Proof.Machine
end

section
/-!
The state that reset leaves, the words of the manual's encodings, and what one step takes.
-/

namespace Sys2Proof.Machine

/-- Settles O49: the words are closed. -/
theorem wordsDecoded : Obligations.WordsDecoded := by
  unfold Obligations.WordsDecoded
  decide

/-! ### Reset -/

theorem core_reset (k : Nat) : State.reset.core k = {} := List.getElem?_getD_replicate_default_eq _ _ _

theorem context_reset (k : Nat) : State.reset.context k = {} := List.getElem?_getD_replicate_default_eq _ _ _

theorem strand_reset (c : CoreId) : State.reset.strand c = {} := by
  cases c with
  | strand n t => rfl
  | control k => rw [State.strand, core_reset]

theorem readReg_reset (c : CoreId) (g : Nat) : readReg .reset c g = 0 := by
  cases c with
  | strand n t => rfl
  | control k =>
    rw [readReg, core_reset]
    exact List.getElem?_getD_replicate_default_eq _ _ _

/-- Settles O52: every table of the reset state is empty, or holds its default throughout. -/
theorem resetState : Obligations.ResetState := by
  refine ⟨fun f => ?folio, fun k => ?attrs, fun k => ?core, ?tables, fun k => ?page, ?spine, fun c => ?strand, readReg_reset,
    fun _ => rfl, ?sound⟩
  case folio =>
    have h : State.reset.folios.getD f {} = {} := List.getElem?_getD_replicate_default_eq _ _ _
    rw [h]
  case attrs => rw [context_reset]
  case core => rw [core_reset]; exact ⟨rfl, rfl⟩
  case tables => exact ⟨rfl, rfl, rfl, rfl, rfl, rfl, rfl, rfl, rfl, rfl⟩
  case page => rw [context_reset]; exact ⟨rfl, rfl, rfl, rfl, rfl, rfl, rfl, rfl, rfl, rfl, rfl, rfl, rfl⟩
  case spine => exact ⟨rfl, rfl, rfl, rfl, rfl, rfl⟩
  case strand => rw [strand_reset]; exact ⟨rfl, rfl, rfl, rfl⟩
  case sound => exact (sound_iff _).2 sound_State_reset

/-! ### One step -/

theorem getElem?_upTo {n i : Nat} (h : i < n) : (upTo n)[i]? = some i := by
  induction n with
  | zero => omega
  | succ n ih =>
    rw [upTo]
    by_cases hi : i < n
    · rw [List.getElem?_append_left (by simpa using hi), ih hi]
    · obtain rfl : i = n := by omega
      rw [List.getElem?_append_right (by simp), upTo_length, Nat.sub_self]
      rfl

/-- The slots of a new block hold its words, and none has issued. -/
theorem freshSlots_getD {ws : List Word32} {i : Nat} (h : i < ws.length) (d : Slot) :
    ((freshSlots ws).getD i d).word = ws.getD i 0 ∧ ((freshSlots ws).getD i d).status = .idle := by
  simp only [freshSlots, List.getD_eq_getElem?_getD, List.getElem?_map, getElem?_upTo h, Option.map_some, Option.getD_some,
    and_self]

theorem hasCore_tickClock (s : State) (f : Nat) (c : CoreId) : (tickClock s f).hasCore c = s.hasCore c := by
  obtain ⟨folios, hubs, -, h⟩ := tickClock_form s f
  rw [h]
  cases c <;> rfl

theorem slot_startBlock {s : State} {c : CoreId} (h : s.hasCore c = true) (a : Nat) (hd : Word32) (ws : List Word32) (i : Nat) :
    (startBlock s c a hd ws).slot c i = (freshSlots ws).getD i { word := 0 } := by
  rw [startBlock, State.slot, State.strand_modStrand_self _ _ _ (by rw [hasCore_tickClock]; exact h)]

theorem focus_issueAt (s : State) (c : CoreId) (i : Nat) : (issueAt s c i).focus = ⟨c, i⟩ := rfl

theorem slot_modLeaf {s : State} {n : Nat} {f : Leaf → Leaf} (hf : ∀ l, (f l).strands = l.strands) (c : CoreId) (i : Nat) :
    (s.modLeaf n f).slot c i = s.slot c i := by
  cases c with
  | control k => rfl
  | strand m u =>
    have hstrand : (s.modLeaf n f).strand (.strand m u) = s.strand (.strand m u) := by
      rw [State.strand, State.strand, State.leaf_modLeaf]
      split
      · rw [hf]
      · rfl
    rw [State.slot, State.slot, hstrand]

/-- The arbiter's memory is no part of a slot. -/
theorem slot_issueAt (s : State) (c : CoreId) (i : Nat) (d : CoreId) (j : Nat) : (issueAt s c i).slot d j = s.slot d j := by
  cases c with
  | control k => rfl
  | strand n t =>
    unfold issueAt
    dsimp only
    split
    · rfl
    · exact slot_modLeaf (s := s) (n := n) (f := fun l => { l with last := t.val, cycle := _ }) (fun _ => rfl) d j

/-- The instruction at a slot that a turn issues. -/
theorem issued (u : State) (c : CoreId) (i : Nat) :
    (match (u.slot c i).instr with
      | some x => exec x (issueAt u c i)
      | none => idle u) =
    (match decode (u.slot c i).word with
      | .ok x => exec x (issueAt u c i)
      | .error _ => .next u) := by
  cases h : decode (u.slot c i).word with
  | ok x => simp only [Slot.instr, h, Except.toOption]
  | error e => simp only [Slot.instr, h, Except.toOption, idle]

/-- Settles O51: a step takes the agenda's turn, or an open one. -/
theorem stepRunsDecoded : Obligations.StepRunsDecoded := by
  intro s
  refine ⟨fun c i x ts hs hx => ?issue, fun c i ts => ⟨rfl, slot_issueAt _ c i c i⟩, fun x ts hs => ?event, fun x ts hs => ?outside,
    fun hs => ?free, fun c a h ws i hc hi => ?fetch, fun nbits w => ⟨?word, rfl⟩⟩
  case issue =>
    have hword : ({ s with agenda := ts, tick := s.tick + 1 } : State).slot c i = s.slot c i := rfl
    simp only [step, nextTurn, hs, hword, Slot.instr, hx, Except.toOption]
  case event => simp only [step, nextTurn, hs]
  case outside => simp only [step, nextTurn, hs]
  case free =>
    simp only [step, nextTurn, hs]
    cases hturn : (openTurns s)[pickOf s (openTurns s).length]? with
    | none => rfl
    | some t =>
      cases t with
      | issue c i => exact issued _ c i
      | event x => rfl
      | outside x => rfl
  case fetch =>
    rw [slot_startBlock hc]
    exact freshSlots_getD hi _
  case word => 
    rw [State.withFetchWord, placeWord, wordCore, State.slot, State.strand]
    simp only [State.leaf_setLeaf, if_true]
    rfl

end Sys2Proof.Machine
end

section
/-!
Tiles that change sides, matrix commands line by line, and tokens and credits on their way (R219, R221, R224, R225, R14, R83).
-/

namespace Sys2Proof.Machine

theorem takeLine_read (x : MxCmd) (p : MxPart) (bs : List Byte) : (takeLine x p bs).read = x.read + 1 := by
  cases p <;> rfl

/-- Both tiles of a command that begins stand in their leaves. -/
theorem tiles_stand {s : State} {q : Nat} {x : MxCmd}
    (h : x.read = 0 → (s.leaf (leafIn q (mxA x.word))).rfull = true ∧ (s.leaf (leafIn q (mxB x.word))).rfull = true) :
    (if x.read = 0 then [mxA x.word, mxB x.word].find? fun k => !(s.leaf (leafIn q k)).rfull else none) = none := by
  split
  case isTrue h0 =>
    obtain ⟨ha, hb⟩ := h h0
    simp [ha, hb]
  case isFalse => rfl

theorem mxRead_line {s : State} {q : Nat} {x : MxCmd} {xs : List MxCmd} {p : MxPart} {k la : Nat}
    (hfull : x.read = 0 → (s.leaf (leafIn q (mxA x.word))).rfull = true ∧ (s.leaf (leafIn q (mxB x.word))).rfull = true)
    (hline : (mxLines x.word)[x.read]? = some (p, k, la)) (hp : leafPoisoned (s.leaf (leafIn q k)) la 64 = false) :
    let y := takeLine x p (leafRead s (leafIn q k) la 64)
    mxRead s q x xs = s.modQuire q fun v =>
      if x.read + 1 = (mxLines x.word).length then { v with queue := xs, started := v.started ++ [y] } else { v with queue := y :: xs } := by
  intro y
  simp only [mxRead, tiles_stand hfull, hline, hp, takeLine_read, Bool.false_eq_true, if_false]
  split <;> rfl

theorem exec_mxCommandStart_line {s : State} {q : Nat} {x : MxCmd} {xs : List MxCmd} {p : MxPart} {k la : Nat} (hq : q < Config.quireCount)
    (hqueue : (s.quire q).queue = x :: xs) (hruns : mxRuns s x = true)
    (hbegin : x.read = 0 → (s.quire q).started.length < 2 ∧ mxHeld s q x = false ∧
      (s.leaf (leafIn q (mxA x.word))).rfull = true ∧ (s.leaf (leafIn q (mxB x.word))).rfull = true)
    (hline : (mxLines x.word)[x.read]? = some (p, k, la)) (hp : leafPoisoned (s.leaf (leafIn q k)) la 64 = false) :
    let y := takeLine x p (leafRead s (leafIn q k) la 64)
    exec (.mxCommandStart q) s = .next (s.modQuire q fun v =>
      if x.read + 1 = (mxLines x.word).length then { v with queue := xs, started := v.started ++ [y] }
      else { v with queue := y :: xs }) := by
  intro y
  have hwait : ¬(x.read = 0 ∧ (2 ≤ (s.quire q).started.length ∨ mxHeld s q x = true)) := by
    rintro ⟨h0, h | h⟩
    · exact absurd (hbegin h0).1 (not_lt.mpr h)
    · exact absurd h (by rw [(hbegin h0).2.1]; exact Bool.false_ne_true)
  rw [exec_mxCommandStart, execMxCommandStart, if_neg (not_le.mpr hq)]
  simp only [hqueue, hwait, hruns, Bool.not_true, Bool.false_eq_true, if_false]
  exact congrArg Host.Outcome.next (mxRead_line (fun h0 => (hbegin h0).2.2) hline hp)

theorem exec_tileSwap_turn {s : State} {n : Nat} {t : Turn} (hn : n < Config.leafCount) (ht : (s.leaf n).turn = some t)
    (hv : (s.leaf n).vfull = true) (hread : ((readersOf s n).any fun x => t.before.contains x.num) = false) (htst : tstReaders s n = []) :
    let u := s.modLeaf n fun l => { l with swap := !l.swap, rfull := true, vfull := false, turn := none }
    exec (.tileSwap n) s = .next (payOwed (sendTurn u n t) t.claim tok tok) := by
  intro u
  rw [exec_tileSwap, execTileSwap, if_neg (not_le.mpr hn)]
  simp only [ht, hv, hread, htst, List.isEmpty_nil, Bool.not_true, Bool.or_self, Bool.false_eq_true, if_false]
  rfl

section
variable {s u : State} {q : Nat} {x : MxCmd} {xs : List MxCmd} (hq : q < Config.quireCount) (hstarted : (s.quire q).started = x :: xs)
  (hruns : mxRuns s x = true)
  (hpoison : mxAcc x.word = true → leafPoisoned (s.leaf (leafIn q (mxC x.word)))
    (tileLine (s.leaf (leafIn q (mxC x.word))) (mxTile x.word) 0 + 64 * x.wrote) 64 = false)
  (hwrite : leafWrite s (leafIn q (mxC x.word)) (tileLine (s.leaf (leafIn q (mxC x.word))) (mxTile x.word) 0 + 64 * x.wrote)
    (mxLine x x.wrote (leafRead s (leafIn q (mxC x.word))
      (tileLine (s.leaf (leafIn q (mxC x.word))) (mxTile x.word) 0 + 64 * x.wrote) 64)).1 = some u)
include hq hstarted hruns hpoison hwrite

theorem exec_mxCommandComplete_line :
    let n := leafIn q (mxC x.word)
    let la := tileLine (s.leaf n) (mxTile x.word) 0 + 64 * x.wrote
    let fl := x.flags ||| (mxLine x x.wrote (leafRead s n la 64)).2
    (x.wrote < 255 → exec (.mxCommandComplete q) s =
      .next (u.modQuire q fun v => { v with started := { x with wrote := x.wrote + 1, flags := fl } :: xs })) ∧
    (255 ≤ x.wrote → exec (.mxCommandComplete q) s = .next ((u.modQuire q fun v => { v with started := xs }).modLeaf n fun l =>
      { l with accFlags := lmod l.accFlags (mxTile x.word) (· ||| fl) })) := by
  intro n la fl
  have hgood : (mxAcc x.word && leafPoisoned (s.leaf n) la 64) = false := by
    cases hacc : mxAcc x.word with
    | false => rfl
    | true => exact hpoison hacc
  have hexec : exec (.mxCommandComplete q) s = .next (mxWrite s q x xs) := by
    rw [exec_mxCommandComplete, execMxCommandComplete, if_neg (not_le.mpr hq)]
    simp only [hstarted, hruns, Bool.not_true, Bool.false_eq_true, if_false]
  rw [hexec]
  simp only [mxWrite]
  rw [if_neg (by rw [hgood]; exact Bool.false_ne_true), hwrite]
  exact ⟨fun h => congrArg Host.Outcome.next (if_pos h), fun h => congrArg Host.Outcome.next (if_neg (not_lt.mpr h))⟩

end

theorem exec_tokenDelivery_arrives {s : State} {n : Nat} {p : Fin 8} {m q : Nat} {t : Token} {ts : List Token} (hn : n < Config.leafCount)
    (hl : liveChannel s n p.val = some (m, q)) (ht : ((s.leaf n).outputs.getD p.val {}).inflight = t :: ts)
    (hq : quireAwake s m = true) :
    exec (.tokenDelivery n p) s = .next
      ((s.modLeaf n fun l => { l with outputs := lmod l.outputs p.val fun o => { o with inflight := ts } }).modLeaf m
        fun l => { l with inputs := lmod l.inputs q fun i => { i with held := i.held ++ [t] } }) := by
  rw [exec_tokenDelivery, execTokenDelivery, if_neg (not_le.mpr hn)]
  simp only [hl, ht, hq, Bool.not_true, Bool.false_eq_true, if_false]

theorem exec_creditReturn_credit {s : State} {n : Nat} {p : Fin 8} (hn : n < Config.leafCount)
    (hc : ((s.leaf n).outputs.getD p.val {}).credits ≠ 0) :
    exec (.creditReturn n p) s = .next (pumpSends (s.modLeaf n fun l => { l with outputs := lmod l.outputs p.val fun o =>
      { o with free := o.free + 1, credits := o.credits - 1 } }) n) := by
  rw [exec_creditReturn, execCreditReturn, if_neg (not_le.mpr hn), if_neg hc]

/-- Settles O40: the events of tiles, commands, tokens and credits, each under the conditions that it tests. -/
theorem tilesAndChannels : Obligations.TilesAndChannels := by
  intro s
  refine ⟨fun n t => exec_tileSwap_turn, fun q x xs p k la => exec_mxCommandStart_line, ?write,
    fun n p m q t ts => exec_tokenDelivery_arrives, fun n p => exec_creditReturn_credit⟩
  case write =>
    intro q x xs u hq hs hr n la line fl hp hw
    exact exec_mxCommandComplete_line hq hs hr hp hw

end Sys2Proof.Machine
end

section
/-!
Requests looked up and walked (R272 to R277), and served at their ports (R70, R178 to R185).
-/

namespace Sys2Proof.Machine

/-! ### The lookup of a request (R272) -/

section
variable {s : State} {id : Nat} {r : Request} (hr : tget s.reqs id = some r) (hl : lookable s r = true)
include hr hl

theorem exec_tlbLookup_hit {e : TlbEntry} {x : Trans} {t : State} (he : tlbFind s (placeOf r.core r.ctx r.va) r.ctx r.va = some e)
    (hx : applyEntry s e r.va r.acc false = .ok (x, t)) : exec (.tlbLookup id) s = .next (routeReq t id r x) := by
  simp only [exec_tlbLookup, execTlbLookup, hr, hl, he, hx, Bool.not_true, Bool.false_eq_true, if_false]

theorem exec_tlbLookup_fault {e : TlbEntry} {f : TFault} (he : tlbFind s (placeOf r.core r.ctx r.va) r.ctx r.va = some e)
    (hf : applyEntry s e r.va r.acc false = .error f) : exec (.tlbLookup id) s = .next (failReq s id r f) := by
  simp only [exec_tlbLookup, execTlbLookup, hr, hl, he, hf, Bool.not_true, Bool.false_eq_true, if_false]

theorem exec_tlbLookup_miss (he : tlbFind s (placeOf r.core r.ctx r.va) r.ctx r.va = none) :
    exec (.tlbLookup id) s = .next (setReq { s with nextId := s.nextId + 1 } id
      { r with stage := .walk, seq := s.nextId, level := 4, table := (s.attrs r.ctx).root.toNat }) := by
  simp only [exec_tlbLookup, execTlbLookup, hr, hl, he, Bool.not_true, Bool.false_eq_true, if_false]
  rfl

end

/-! ### The walk of a request (R274, R277) -/

/-- The step of a walker that has one of the 32 places: nothing but its turn, or the entry of the next level. -/
theorem exec_pageWalk_req {s : State} {id : Nat} {r : Request} (hr : tget s.reqs id = some r) (hstage : r.stage = .walk)
    (hbefore : walksBefore s (walkPlace (placeOf r.core r.ctx r.va)) r.seq < 32) {v : State} {go : Bool}
    (hv : walkTurn s id (placeOf r.core r.ctx r.va) r.ctx r.va r.level r.table = (v, go)) :
    exec (.pageWalk id) s = .next (if go then walkReq v id r else v) := by
  have hidle : (r.stage != .walk || decide (32 ≤ walksBefore s (walkPlace (placeOf r.core r.ctx r.va)) r.seq)) = false := by
    rw [hstage, decide_eq_false (not_le.mpr hbefore)]; rfl
  simp only [exec_pageWalk, execPageWalk, hr, hidle, hv, Bool.false_eq_true, if_false]

section
variable {v : State} {id : Nat} {r : Request}

theorem walkReq_table {w : WalkEntry} {a : Nat}
    (h : walkLevel v (walkPlace (placeOf r.core r.ctx r.va)) r.ctx r.va r.level r.table = .ok (.table w a)) :
    walkReq v id r = setReq (keepWalk v w) id { r with level := r.level - 1, table := a } := by
  simp only [walkReq, h]

theorem walkReq_fault {f : TFault}
    (h : walkLevel v (walkPlace (placeOf r.core r.ctx r.va)) r.ctx r.va r.level r.table = .error f) :
    walkReq v id r = failReq v id r f := by
  simp only [walkReq, h]

section
variable {pte src : Nat} {e : TlbEntry} {t : State}
  (h : walkLevel v (walkPlace (placeOf r.core r.ctx r.va)) r.ctx r.va r.level r.table = .ok (.leaf pte src))
  (he : enterLeaf v (placeOf r.core r.ctx r.va) r.ctx r.va pte r.level src = (e, t))
include h he

theorem walkReq_leaf {x : Trans} {u : State} (hx : applyEntry t e r.va r.acc false = .ok (x, u)) : walkReq v id r = routeReq u id r x := by
  simp only [walkReq, h, he, hx]

theorem walkReq_leafFault {f : TFault} (hf : applyEntry t e r.va r.acc false = .error f) : walkReq v id r = failReq t id r f := by
  simp only [walkReq, h, he, hf]

end
end

/-! ### The walk of another miss (R270, R276) -/

theorem exec_pageWalk_miss {s : State} {id : Nat} {m : Miss} (hr : tget s.reqs id = none) (hm : tget s.misses id = some m)
    (hleaf : m.leaf = none) (hfault : m.fault = none) (hbefore : walksBefore s (walkPlace m.place) id < 32) {v : State} {go : Bool}
    (hv : walkTurn s id m.place m.ctx m.va m.level m.table = (v, go)) :
    exec (.pageWalk id) s = .next (if go then walkMiss v id m else v) := by
  have hidle : (m.leaf.isSome || m.fault.isSome || decide (32 ≤ walksBefore s (walkPlace m.place) id)) = false := by
    rw [hleaf, hfault, decide_eq_false (not_le.mpr hbefore)]; rfl
  simp only [exec_pageWalk, execPageWalk, hr, hm, hidle, hv, Bool.false_eq_true, if_false]

section
variable {v : State} {id : Nat} {m : Miss}

theorem walkMiss_table {w : WalkEntry} {a : Nat} (h : walkLevel v (walkPlace m.place) m.ctx m.va m.level m.table = .ok (.table w a)) :
    walkMiss v id m = { (if 528 ≤ m.place then v else keepWalk v w) with
      misses := tset (if 528 ≤ m.place then v else keepWalk v w).misses id { m with level := m.level - 1, table := a } } := by
  simp only [walkMiss, h]

theorem walkMiss_leaf {pte src : Nat} {e : TlbEntry} {t : State}
    (h : walkLevel v (walkPlace m.place) m.ctx m.va m.level m.table = .ok (.leaf pte src))
    (he : enterLeaf v m.place m.ctx m.va pte m.level src = (e, t)) :
    walkMiss v id m = { t with misses := tset t.misses id { m with leaf := some e } } := by
  simp only [walkMiss, h, he]

theorem walkMiss_fault {f : TFault} (h : walkLevel v (walkPlace m.place) m.ctx m.va m.level m.table = .error f) :
    walkMiss v id m = { v with misses := tset v.misses id { m with fault := some f } } := by
  simp only [walkMiss, h]

end

/-- Settles O41: the lookup, the walk of a request, and the walk of another miss, by what each finds. -/
theorem requestsTranslated : Obligations.RequestsTranslated := by
  refine ⟨?req, ?miss⟩
  case req =>
    intro s id r hr place
    refine ⟨fun hl => ?_, fun hstage hbefore v => ?_⟩
    · exact ⟨fun e x t => exec_tlbLookup_hit hr hl, fun e f => exec_tlbLookup_fault hr hl, exec_tlbLookup_miss hr hl⟩
    · refine ⟨fun hv => exec_pageWalk_req hr hstage hbefore hv, fun hv => ?_⟩
      have hstep : exec (.pageWalk id) s = .next (walkReq v id r) := exec_pageWalk_req hr hstage hbefore hv
      rw [hstep]
      refine ⟨fun w a h => congrArg _ (walkReq_table h), fun pte src e t h he => ?_, fun f h => congrArg _ (walkReq_fault h)⟩
      exact ⟨fun x u hx => congrArg _ (walkReq_leaf h he hx), fun f hf => congrArg _ (walkReq_leafFault h he hf)⟩
  case miss =>
    intro s id m hr hm hleaf hfault hbefore v now
    refine ⟨fun hv => exec_pageWalk_miss hr hm hleaf hfault hbefore hv, fun hv => ?_⟩
    have hstep : exec (.pageWalk id) s = .next (walkMiss v id m) := exec_pageWalk_miss hr hm hleaf hfault hbefore hv
    refine ⟨fun w a h => ⟨fun hp => ?_, fun hp => ?_⟩, fun pte src e t h he => ?_, fun f h => ?_⟩
    · exact hstep.trans (by rw [walkMiss_table h, if_pos hp])
    · exact hstep.trans (by rw [walkMiss_table h, if_neg (not_le.mpr hp)])
    · exact hstep.trans (by rw [walkMiss_leaf h he])
    · exact hstep.trans (by rw [walkMiss_fault h])

end Sys2Proof.Machine
end

section
/-!
A memory port and its requests (R70, R71, R178 to R185).
-/

namespace Sys2Proof.Machine

/-! ### The pick of a port with one context (R70) -/

/-- The only context with a request is the next one. -/
theorem nextCtx_single {k : Nat} (hk : k < 16) (last : Nat) : nextCtx last [k] = k := by
  have hsome : (((upTo 16).map fun j => (last + 1 + j) % 16).find? fun x => [k].contains x).isSome := by
    rw [List.find?_isSome]
    refine ⟨k, List.mem_map.mpr ⟨(k + 15 - last % 16) % 16, (mem_upTo _ _).mpr (Nat.mod_lt _ (by decide)), ?_⟩, by simp⟩
    omega
  obtain ⟨x, hx⟩ := Option.isSome_iff_exists.mp hsome
  have hxk : x = k := by simpa using List.find?_some hx
  rw [nextCtx, hx, hxk]
  rfl

theorem portPick_single {s : State} {k : Nat} (hk : k < 16) (p : Port) (size : Nat → Nat) : (portPick s p [k] size).1 = k := by
  have htop : min 3 (s.attrs k).cls.val = (s.attrs k).cls.val := min_eq_right (by omega)
  have hdedup : [k].dedup = [k] := List.dedup_eq_self.mpr (List.nodup_singleton k)
  have hlen : ¬1 < [k].length := by simp
  simp only [portPick, hdedup, hlen, if_false, List.foldl_cons, List.foldl_nil, htop, List.cons_ne_nil,
    List.filter_cons, beq_self_eq_true, if_true, List.filter_nil, nextCtx_single hk]
  split
  case isTrue h =>
    have := (Bool.and_eq_true_iff.mp h).1
    simpa using this
  case isFalse => rfl

/-- The only request of a port at which no engine waits is served once its bytes are charged. -/
theorem exec_memoryPortService_single {s : State} {p : Fin 256} {id : Nat} {r : Request}
    (hr : s.reqs.filter (servable s p.val) = [(id, r)]) (hq : ((s.port p.val).queue.all fun u => !portWaits s u.1) = true)
    (hk : r.ctx < 16) :
    ∃ ports, exec (.memoryPortService p) s = .next (serveReq { s with ports := ports } id r) := by
  have hwait : (s.port p.val).queue.filter (fun u => portWaits s u.1) = [] := by
    rw [List.filter_eq_nil_iff]
    intro u hu
    simpa using List.all_eq_true.mp hq u hu
  have hasks : portAsks s p.val = [r.ctx] := by
    rw [portAsks, hr, hwait]; rfl
  have hpick := portPick_single (s := s) hk (s.port p.val) fun k => ((List.find? (fun q => q.2.ctx == k) [(id, r)]).map fun q => q.2.size).getD 64
  simp only [exec_memoryPortService, execMemoryPortService, hr, hasks, hpick, List.filter_cons, beq_self_eq_true, if_true,
    List.filter_nil]
  exact ⟨_, rfl⟩

/-! ### What a request does at its port -/

section
variable {s : State} {id : Nat} {r : Request}

theorem serveReq_load {sgn : Bool} (hop : r.op = .load sgn) (hhome : r.home = s.pkg) (hbad : readBad s r.gath r.home r.pa r.size = false) :
    serveReq s id r = answer s id (some (extendTo r.size sgn (natOfBytes (deviceRead s r.gath r.home r.pa r.size)))) := by
  simp only [serveReq, hop, serveRead, hhome, if_true]
  rw [hhome] at hbad
  simp only [hbad, Bool.false_eq_true, if_false, readBack, hop, Request.sgn]

/-- A store that is made at once. -/
theorem serveReq_store_now {d : List Byte} (hop : r.op = .store d) (hhome : r.home = s.pkg)
    (hnow : (r.gath.bind s.gath).all (·.irrev) = true) : serveReq s id r = answer (hbmWrite s r.pa d) id tok := by
  have hitem : publishItem s r.ctx r.gath (instOf s r.gath)
      { port := portOf r.pa, pa := r.pa, home := r.home, op := .store d, core := some r.core } = .ok (hbmWrite s r.pa d) := by
    simp only [publishItem, hhome, if_true]
    rfl
  simp only [serveReq, hop, serveStore, stageItem, hhome, ne_eq, not_true_eq_false, false_and, if_false]
  rw [hhome] at hitem
  simp only [hitem]
  cases hg : r.gath.bind s.gath with
  | none => rfl
  | some y =>
    rw [hg] at hnow
    simp only [show y.irrev = true from hnow, if_true]

/-- A store of a revocable round goes into the round buffer where it has room. -/
theorem serveReq_store_staged {d : List Byte} {g : Nat} {x : Gathering} (hop : r.op = .store d) (hg : r.gath = some g)
    (hx : s.gath g = some x) (hhome : r.home = s.pkg ∨ irrevocable s r.core = false) (hrev : x.irrev = false)
    (hallot : stagedAt x (portOf r.pa) + d.length ≤ (s.attrs r.ctx).allotment)
    (hroom : portHeld s (portOf r.pa) + d.length ≤ Config.portBuffer) :
    serveReq s id r = answer (s.modGath g fun x =>
      { x with staged := x.staged ++ [{ port := portOf r.pa, pa := r.pa, home := r.home, op := .store d, core := some r.core }] }) id tok := by
  have hstay : ¬(r.home ≠ s.pkg ∧ irrevocable s r.core = true) := by
    rintro ⟨h1, h2⟩
    obtain h | h := hhome
    · exact h1 h
    · rw [h] at h2; exact absurd h2 Bool.false_ne_true
  have hfits : ¬((s.attrs r.ctx).allotment < stagedAt x (portOf r.pa) + d.length ∨
      Config.portBuffer < portHeld s (portOf r.pa) + d.length) := by omega
  simp only [serveReq, hop, serveStore, hstay, if_false, stageItem, hg, hx, Option.bind_some, hrev, stagedSize, hfits,
    Bool.false_eq_true, Option.getD_some]

section
variable {cond : Nat} {cmp : Word} {sgn plain : Bool} (hop : r.op = .waita cond cmp sgn plain) (hhome : r.home = s.pkg)
  (hbad : readBad s r.gath r.home r.pa r.size = false)
include hop hhome hbad

/-- A `WAITA` read of a page homed here comes back at once. -/
theorem serveReq_waita : serveReq s id r = readBack s id r (deviceRead s r.gath r.home r.pa r.size) := by
  simp only [serveReq, hop, serveRead]
  rw [if_pos hhome, if_neg (by rw [hbad]; exact Bool.false_ne_true)]

theorem serveReq_waita_holds
    (h : waitHolds cond (extendTo r.size sgn (natOfBytes (deviceRead s r.gath r.home r.pa r.size))) cmp = true) :
    serveReq s id r = answer s id (some (extendTo r.size sgn (natOfBytes (deviceRead s r.gath r.home r.pa r.size)))) := by
  rw [serveReq_waita hop hhome hbad]
  simp only [readBack, hop, Request.sgn, h, if_true]

theorem serveReq_waita_fails
    (h : waitHolds cond (extendTo r.size sgn (natOfBytes (deviceRead s r.gath r.home r.pa r.size))) cmp = false) :
    serveReq s id r = sleepOn (drainReqs r.core (dropReq s id).reqs.length (dropReq s id)) r.core
      { device := true, line := r.pa / 64, va := r.va, size := r.size,
        seen := natOfBytes (deviceRead s r.gath r.home r.pa r.size), remote := none } := by
  rw [serveReq_waita hop hhome hbad]
  simp only [readBack, hop, Request.sgn, h, Bool.false_eq_true, if_false]
  rw [if_pos hhome]

end

theorem hbmAtomic_eq (s : State) (pa op : Nat) (arg : Word) :
    hbmAtomic s pa op arg = (wordOfNat (natOfBytes (s.hbm.read pa (atomicSize op))),
      hbmWrite (if op = 7 then noteStray s pa else s) pa
        (bytesOf (atomicSize op) (atomicOp op (wordOfNat (natOfBytes (s.hbm.read pa (atomicSize op)))) arg).toNat)) := by
  have hhbm : (if op = 7 then noteStray s pa else s).hbm = s.hbm := by
    unfold noteStray
    split
    · split <;> rfl
    · rfl
  simp only [hbmAtomic, hhbm]

theorem serveReq_atomic {op : Nat} {arg : Word} (hop : r.op = .atomic op arg) (hhome : r.home = s.pkg)
    (hbad : hbmPoisoned s r.pa r.size = false) :
    serveReq s id r = answer
      (hbmWrite (if op = 7 then noteStray s r.pa else s) r.pa
        (bytesOf (atomicSize op) (atomicOp op (wordOfNat (natOfBytes (s.hbm.read r.pa (atomicSize op)))) arg).toNat))
      id (some (wordOfNat (natOfBytes (s.hbm.read r.pa (atomicSize op))))) := by
  simp only [serveReq, hop, serveAtomic, hhome, hbad, ne_eq, not_true_eq_false, Bool.false_eq_true, if_false, hbmAtomic_eq]

theorem serveReq_cas {e new : Word} {sgn : Bool} (hop : r.op = .cas e new sgn) (hbad : hbmPoisoned s r.pa r.size = false) :
    serveReq s id r = answer (if natOfBytes (s.hbm.read r.pa r.size) = e.toNat % 2 ^ (8 * r.size)
      then hbmWrite s r.pa (bytesOf r.size new.toNat) else s) id
      (some (extendTo r.size sgn (natOfBytes (s.hbm.read r.pa r.size)))) := by
  simp only [serveReq, hop, serveCas, hbad, Bool.false_eq_true, if_false, Request.sgn]

end

/-- Settles O42: the pick of the port, and what each operation does. The ports are no part of what an operation reads. -/
theorem portServes : Obligations.PortServes := by
  intro s p id r hr hq hk
  obtain ⟨ports, hexec⟩ := exec_memoryPortService_single hr hq hk
  refine ⟨{ s with ports := ports }, hexec, rfl, ?load, ?storeControl, ?storeGrant, ?storeStaged, ?waita, ?atomic, ?cas⟩
  case load => exact fun sgn hop hhome hbad => serveReq_load hop hhome hbad
  case storeControl => exact fun d hop hg hhome => serveReq_store_now hop hhome (by change (r.gath.bind s.gath).all _ = _; rw [hg]; rfl)
  case storeGrant =>
    intro d g x hop hg hx hhome hirrev
    exact serveReq_store_now hop hhome (by change (r.gath.bind s.gath).all _ = _; rw [hg, Option.bind_some, hx]; exact hirrev)
  case storeStaged => exact fun d g x hop hg hx hhome hrev hallot hroom => serveReq_store_staged hop hg hx hhome hrev hallot hroom
  case waita =>
    intro cond cmp sgn plain hop hhome hbad bs v u
    exact ⟨fun h => serveReq_waita_holds hop hhome hbad h, fun h => serveReq_waita_fails hop hhome hbad h⟩
  case atomic => exact fun op arg hop hhome hbad => serveReq_atomic hop hhome hbad
  case cas => exact fun e new sgn hop hbad => serveReq_cas hop hbad

end Sys2Proof.Machine
end

section
/-!
Errors of the mesh, of HBM and of round buffers (R390, R402, R405, R415).
-/

namespace Sys2Proof.Machine

/-! ### The mesh (R390) -/

section
variable {s : State} {n : Nat} {dir : Fin 4} {m : LinkEnd} (hn : n < Config.leafCount) (hl : linkEnd n dir.val = some m)
include hn hl

/-- A flit that its retry repaired is counted, or its count is reported. -/
theorem exec_meshFlitRetry_repaired {g : Nat} {x : Gathering} (hx : s.gath g = some x) :
    exec (.meshFlitRetry n dir (.flit g) true) s = .next (
      if Config.meshReport s.tick then
        writeRecord { s with meshFix := tset s.meshFix n 0 } (meshReport n dir.val m 0x0230 sevCorrected ((tget s.meshFix n).getD 0 + 1))
      else { s with meshFix := tset s.meshFix n ((tget s.meshFix n).getD 0 + 1) }) := by
  simp only [exec_meshFlitRetry, execMeshFlitRetry, not_le.mpr hn, if_false, hl, flitFailed, hx, if_true]
  exact (apply_ite Host.Outcome.next _ _ _).symm

theorem exec_meshFlitRetry_lost {g : Nat} {x : Gathering} (hx : s.gath g = some x) :
    exec (.meshFlitRetry n dir (.flit g) false) s =
      .next (lostInRound
        { s with meshBad := tset s.meshBad (linkKey n dir.val) ((tget s.meshBad (linkKey n dir.val)).getD 0 + 1) } g x
        (namingGath (meshReport n dir.val m 0x0231 sevTask 0) x n)) := by
  simp only [exec_meshFlitRetry, execMeshFlitRetry, not_le.mpr hn, if_false, hl, flitFailed, hx, Bool.false_eq_true]

end

theorem exec_meshLinkFailure_down (s : State) (n : Nat) (dir : Fin 4) (m : LinkEnd) :
    n < Config.leafCount → linkEnd n dir.val = some m → 16 ≤ (tget s.meshBad (linkKey n dir.val)).getD 0 →
    let key := linkKey n dir.val
    let r := meshReport n dir.val m 0x0232 sevFolio ((tget s.meshBad key).getD 0)
    let t := folioReset (writeRecord { s with meshBad := tset s.meshBad key 0 } r) r (folioOf n)
    exec (.meshLinkFailure n dir) s = .next (match m with
      | .leaf j => if isBridge n m then folioReset t r (folioOf j) else t
      | .port _ => t) := by
  intro hn hl hk key r t
  simp only [exec_meshLinkFailure, execMeshLinkFailure, not_le.mpr hn, if_false, hl, not_lt.mpr hk]
  cases m <;> rfl

theorem exec_meshFlitRetry_slotWord {s : State} {n : Nat} {dir : Fin 4} {slot : Fin 64} {ok : Bool} {p : Nat} (hn : n < Config.leafCount)
    (hp : headIn (s.leaf n) slot.val = some p) :
    exec (.meshFlitRetry n dir (.slotWord slot) ok) s =
      .next (s.modLeaf n fun l => { l with inputs := lmod l.inputs p fun i => { i with flaw := some ok } }) := by
  simp only [exec_meshFlitRetry, execMeshFlitRetry, not_le.mpr hn, if_false, hp]

/-! ### The head of an input port -/

section
variable {s : State} {n p : Nat}

theorem checkHead_whole (h : ((s.leaf n).inputs.getD p {}).flaw = none) : checkHead s n p = s := by
  simp only [checkHead, h]

variable {g : Nat} {x : Gathering} {t : Token} {ts : List Token} (hg : (s.leaf n).gath = some g) (hx : s.gath g = some x)
  (ht : ((s.leaf n).inputs.getD p {}).held = t :: ts)
include hg hx ht

theorem checkHead_repaired (h : ((s.leaf n).inputs.getD p {}).flaw = some true) :
    checkHead s n p = writeRecord s (namingGath (slotReport s n p
      (slotBase (s.leaf n).routes p + ((s.leaf n).inputs.getD p {}).head % max 1 (rtCount ((s.leaf n).routes.getD p 0)))
      0x0234 sevCorrected t) x n) := by
  simp only [checkHead, h, ht, hg, hx, Option.bind_some, if_true]

theorem checkHead_lost (h : ((s.leaf n).inputs.getD p {}).flaw = some false) :
    checkHead s n p = s.modGath g fun y => { y with queue := y.queue ++ [.lost (namingGath (slotReport s n p
      (slotBase (s.leaf n).routes p + ((s.leaf n).inputs.getD p {}).head % max 1 (rtCount ((s.leaf n).routes.getD p 0)))
      0x0235 sevTask t) x n)] } := by
  simp only [checkHead, h, ht, hg, hx, Option.bind_some, Option.getD_some, Bool.false_eq_true, if_false]

end

/-! ### HBM and the round buffers (R402, R405, R415) -/

section
variable {s : State} {line : Nat} (ha : isAperture (64 * line) = false) (hb : isBacked (64 * line) = true)
include ha hb

theorem exec_hbmScrub_corrected :
    exec (.hbmScrub line .corrected) s = .next (writeRecord s (hbmReport s (64 * line) 0x0312 sevCorrected)) := by
  simp only [exec_hbmScrub, execHbmScrub, ha, hb, Bool.not_true, Bool.or_self, Bool.false_eq_true, if_false]

theorem exec_hbmScrub_uncorrectable :
    exec (.hbmScrub line .uncorrectable) s =
      .next (writeRecord (spoil s (64 * line) 64) (hbmReport s (64 * line) 0x0313 sevDeferred)) := by
  simp only [exec_hbmScrub, execHbmScrub, ha, hb, Bool.not_true, Bool.or_self, Bool.false_eq_true, if_false]

end

/-- No grant is being served, so that nothing of the round has been published. -/
theorem exec_roundBufferError_lost {s : State} {g : Nat} {p : Fin 256} {x : Gathering} (hx : s.gath g = some x)
    (hstaged : (x.staged.any fun y => y.port == p.val) = true) (hq : x.queue.head? ≠ some .grant) :
    exec (.roundBufferError g p) s = .next (lostInRound s g x (bufferReport s x p.val)) := by
  have hgrant : (x.queue.head? == some .grant && pickOf s 2 == 0) = false := by
    rw [beq_eq_false_iff_ne.mpr hq]; rfl
  simp only [exec_roundBufferError, execRoundBufferError, hx, hstaged, hgrant, Bool.not_true, Bool.false_eq_true, if_false]

/-- Settles O43: each error by what it finds. -/
theorem errorsHandled : Obligations.ErrorsHandled := by
  intro s
  refine ⟨?flit, exec_meshLinkFailure_down s, fun n dir slot ok p => exec_meshFlitRetry_slotWord, ?head,
    fun line ha hb => ⟨exec_hbmScrub_corrected ha hb, exec_hbmScrub_uncorrectable ha hb⟩, fun g p x => exec_roundBufferError_lost⟩
  case flit =>
    intro n dir m g x hn hl hx k key
    exact ⟨exec_meshFlitRetry_repaired hn hl hx, exec_meshFlitRetry_lost hn hl hx⟩
  case head =>
    intro n p g x t ts hg hx ht slot r
    exact ⟨checkHead_whole, checkHead_repaired hg hx ht, checkHead_lost hg hx ht⟩

end Sys2Proof.Machine
end

section
/-!
The gate of an eviction request, the eviction, its status and its done word (R310, R315 to R317, R414).
-/

namespace Sys2Proof.Machine

/-! ### The gate (R310, R315) -/

section
variable {s : State} {e : Fin 64} {r : EvictReq} (hr : ((tget s.evicts e.val).getD []).find? (fun r => !r.begun) = some r)
include hr

theorem exec_kvGateCheck_waits {t : State} (ht : portGate s (.gate e.val) r.ctx (r.pa + 0x20) 8 = (t, false)) :
    exec (.kvGateCheck e) s = .next t := by
  simp only [exec_kvGateCheck, execKvGateCheck, hr, ht]

theorem exec_kvGateCheck_reads {t : State} (ht : portGate s (.gate e.val) r.ctx (r.pa + 0x20) 8 = (t, true)) :
    exec (.kvGateCheck e) s = .next (gateCheck t e.val r) := by
  simp only [exec_kvGateCheck, execKvGateCheck, hr, ht]

end

/-- The request once its gate has been checked. -/
def begunReq (r : EvictReq) : EvictReq := { r with begun := true, claim := { r.claim with blk := deadBlk } }

section
variable {t : State} {e : Nat} {r : EvictReq} {gate : Nat} (hg : gate = field (t.hbm.read (r.pa + 0x20) 8) 0 8)
include hg

theorem gateCheck_free (h0 : gate % 2 ^ 32 = 0) (hb : testBit gate 32 = false) :
    gateCheck t e r = payOwed (kvSet (hbmWrite t (r.pa + 0x20) (bytesOf 8 (gate + 2 ^ 32))) e r (begunReq r)) r.claim tok tok := by
  rw [gateCheck, ← hg]
  exact if_pos ⟨h0, by rw [hb]; rfl⟩

theorem gateCheck_busy (h : gate % 2 ^ 32 ≠ 0 ∨ testBit gate 32 = true) :
    gateCheck t e r = payOwed (kvSet t e r { begunReq r with fin := some { code := 3, wrote := true } }) r.claim tok tok := by
  have hstop : ¬(gate % 2 ^ 32 = 0 ∧ (!testBit gate 32) = true) := by
    rintro ⟨h0, hb⟩
    obtain h | h := h
    · exact h h0
    · rw [h] at hb; exact absurd hb Bool.false_ne_true
  rw [gateCheck, ← hg]
  exact if_neg hstop

end

/-! ### What an eviction waits for -/

theorem kvAwait_wait {s : State} {e : Nat} {r : EvictReq} {f : KvFail} {x : AccessFault} {w : Await} (hf : f.fault = some x)
    (hw : x.wait = some w) (fail : State) : kvAwait s e r f fail = await s (.evict e) hubPlace r.ctx x.va w := by
  simp only [kvAwait, hf, hw]

theorem kvAwait_fail {s : State} {e : Nat} {r : EvictReq} {f : KvFail} (h : (f.fault.bind fun x => x.wait) = none) (fail : State) :
    kvAwait s e r f fail = fail := by
  cases hf : f.fault with
  | none => simp only [kvAwait, hf]
  | some x =>
    rw [hf, Option.bind_some] at h
    simp only [kvAwait, hf, h]

/-! ### The plan (R316) -/

section
variable {s : State} {e : Nat} {r : EvictReq}

theorem runEviction_plan (hfin : r.fin = none) {p : KvPlan} {t : State} (hp : kvPlan s (some e) r = .ok (p, t)) :
    runEviction s e r = kvSet (endAccess (runPlan t p) (.evict e)) e r
      { r with fin := some { code := if p.evicted = 0 then 2 else 1, evicted := p.evicted } } := by
  simp only [runEviction, hfin, hp]

theorem runEviction_error (hfin : r.fin = none) {f : KvFail} (hf : kvPlan s (some e) r = .error f) :
    runEviction s e r = kvAwait s e r f (kvSet (endAccess s (.evict e)) e r { r with fin := some (kvFailed s e r f) }) := by
  simp only [runEviction, hfin, hf]

/-! ### `STATUS` (R317) -/

variable {x : KvEnd} (hx : r.fin = some x)
include hx

theorem runEviction_status (hw : x.wrote = false) : runEviction s e r = kvStatus s e r x := by
  simp only [runEviction, hx, hw, Bool.false_eq_true, if_false]

/-! ### The done word (R317, R414) -/

theorem runEviction_done (hw : x.wrote = true) : runEviction s e r = kvDone s e r x := by
  simp only [runEviction, hx, hw, if_true]

end

section
variable {s : State} {e : Nat} {r : EvictReq} {x : KvEnd}

theorem kvStatus_write {t : State} (ht : kvTurns s (some e) accStore r.seq (r.pa + 0x24) 4 = .ok t) :
    let old := field (t.hbm.read (r.pa + 0x24) 4) 0 4
    let new := (bits old 31 16 + 1) % 65536 * 65536 + bits old 15 4 * 16 + x.code * 2
    kvStatus s e r x =
      kvSet (hbmWrite (endAccess t (.evict e)) (r.pa + 0x24) (bytesOf 4 new)) e r { r with fin := some { x with wrote := true } } := by
  simp only [kvStatus, ht]

theorem kvStatus_error {f : KvFail} (hf : kvTurns s (some e) accStore r.seq (r.pa + 0x24) 4 = .error f) :
    kvStatus s e r x = kvAwait s e r f s := by
  simp only [kvStatus, hf]

theorem kvDone_none (hd : r.done = 0) : kvDone s e r x = kvPop s e r x.records := by
  simp only [kvDone, hd, if_true]

variable (hd : r.done ≠ 0)
include hd

theorem kvDone_write {ps : List (Nat × Nat)} {t : State} (hp : kvParts (some e) r.ctx accStore [(r.done, 8)] [] s = .ok (ps, t)) :
    let bs := bytesOf 8 (r.dval + x.code * 2 ^ 32 + x.evicted % 2 ^ 24 * 2 ^ 40)
    kvDone s e r x = kvPop (ps.foldl (fun s p => hbmWrite s p.1 bs) t) e r x.records := by
  simp only [kvDone, hd, if_false, hp]

theorem kvDone_error {f : KvFail} (hf : kvParts (some e) r.ctx accStore [(r.done, 8)] [] s = .error f) :
    kvDone s e r x = kvAwait s e r f (kvPop s e r ((f.fault.map (kvAccess s e r sevTask)).toList ++ x.records)) := by
  simp only [kvDone, hd, if_false, hf]

end

theorem exec_kvEviction_begun {s : State} {e : Fin 64} {r : EvictReq}
    (hr : ((tget s.evicts e.val).getD []).find? (fun r => r.begun) = some r) :
    exec (.kvEviction e) s = .next (runEviction s e.val r) := by
  simp only [exec_kvEviction, execKvEviction, hr]

/-- Settles O44: the gate check, and each stage of an eviction that has begun. -/
theorem evictionsServed : Obligations.EvictionsServed := by
  intro s e r q u turn next
  refine ⟨fun hr t => ?gate, fun hr => ?begun⟩
  case gate =>
    refine ⟨exec_kvGateCheck_waits hr, ?_⟩
    intro ht gate r'
    rw [exec_kvGateCheck_reads hr ht]
    exact ⟨fun h0 hb => congrArg _ (gateCheck_free rfl h0 hb), fun h => congrArg _ (gateCheck_busy rfl h)⟩
  case begun =>
    have hnext : ∀ {t : State}, runEviction s e.val r = t → next t := fun h => (exec_kvEviction_begun hr).trans (congrArg _ h)
    refine ⟨fun hfin => ?plan, fun x hx hw => ?status, fun x hx hw => ?done⟩
    case plan =>
      exact ⟨fun p t hp => hnext (runEviction_plan hfin hp),
        fun f y w hf hy hw => hnext ((runEviction_error hfin hf).trans (kvAwait_wait hy hw _)),
        fun f hf hnone => hnext ((runEviction_error hfin hf).trans (kvAwait_fail hnone _))⟩
    case status =>
      have hstatus : runEviction s e.val r = kvStatus s e.val r x := runEviction_status hx hw
      exact ⟨fun t ht => hnext (hstatus.trans (kvStatus_write ht)),
        fun f y w hf hy hw => hnext (hstatus.trans ((kvStatus_error hf).trans (kvAwait_wait hy hw _)))⟩
    case done =>
      have hdone : runEviction s e.val r = kvDone s e.val r x := runEviction_done hx hw
      refine ⟨fun hd => hnext (hdone.trans (kvDone_none hd)), fun ps t hd hp => hnext (hdone.trans (kvDone_write hd hp)),
        fun f y w hd hf hy hw => hnext (hdone.trans ((kvDone_error hd hf).trans (kvAwait_wait hy hw _))), fun f y hd hf hy hw => ?_⟩
      have hrecords : (f.fault.map (kvAccess s e.val r sevTask)).toList ++ x.records = kvAccess s e.val r sevTask y :: x.records := by
        rw [hy]; rfl
      rw [← hrecords]
      exact hnext (hdone.trans ((kvDone_error hd hf).trans (kvAwait_fail (by rw [hy]; exact hw) _)))

end Sys2Proof.Machine
end

section
/-!
Counted writes: their issue (R324, R326) and their arrival (R325, R327, R419).
-/

namespace Sys2Proof.Machine

/-! ### Entries of the channel tables -/

theorem tget_tmod_self {α : Type} {t : Table α} {k : Nat} {x : α} (h : tget t k = some x) (f : α → α) :
    tget (tmod t k f) k = some (f x) := by
  rw [tmod, h]
  exact tget_tset_self t k (f x)

theorem tget_modSender_self {s : State} {id : Nat} {e : Sender} (h : tget s.senders id = some e) (f : Sender → Sender) :
    tget (s.modSender id f).senders id = some (f e) := tget_tmod_self h f

theorem sender_eq {s : State} {id : Nat} {e : Sender} (h : tget s.senders id = some e) : s.sender id = e := by
  rw [State.sender, h]; rfl

theorem queuePacket_senders (s : State) (p : Packet) : (queuePacket s p).senders = s.senders := by
  rw [queuePacket]
  split <;> rfl

/-! ### The issue of a counted write (R324) -/

theorem mayNumber_unbroken {e : Sender} {w : SendWrite} (h : mayNumber e w = true) : e.broken = false := by
  rw [mayNumber, Bool.and_assoc, Bool.and_eq_true] at h
  simpa using h.1

/-- The sender that numbers a write has counted it. -/
theorem numberWrite_a {s : State} {id : Nat} {e : Sender} (h : tget s.senders id = some e) (w : SendWrite) :
    ((numberWrite s id w).sender id).a = (e.a + 1) % 2 ^ 32 := by
  have hnum : ∃ e', tget (numberWrite s id w).senders id = some e' ∧ e'.a = (e.a + 1) % 2 ^ 32 := by
    simp only [numberWrite, sender_eq h]
    split
    · rw [State.modGath_senders, queuePacket_senders]
      exact ⟨_, tget_modSender_self h _, rfl⟩
    · rw [queuePacket_senders]
      exact ⟨_, tget_modSender_self h _, rfl⟩
  obtain ⟨e', he, ha⟩ := hnum
  rw [sender_eq he, ha]

theorem exec_countedWriteIssue_numbers {s : State} {id : Nat} {e : Sender} {w : SendWrite} {ws : List SendWrite}
    (he : tget s.senders id = some e) (hd : e.dones = []) (hw : e.waits = w :: ws) (hm : mayNumber e w = true) :
    exec (.countedWriteIssue id) s = .next (answerIssued (numberWrite
      ((s.modSender id fun e => { e with dones := [] }).modSender id fun e => { e with waits := ws }) id w) id w.req) := by
  obtain ⟨e', he', hw', hb', hm'⟩ : ∃ e', (s.modSender id fun e => { e with dones := [] }).sender id = e' ∧ e'.waits = w :: ws ∧
      e'.broken = false ∧ mayNumber e' w = true := ⟨_, sender_eq (tget_modSender_self he _), hw, mayNumber_unbroken hm, hm⟩
  simp only [exec_countedWriteIssue, execCountedWriteIssue, he, hd, runDones, he', hw', hb', hm', Bool.false_eq_true, if_false, if_true]

/-! ### The arrival of a counted write (R419) -/

/-- The receiver once a counted write has arrived for the first time. -/
def tookWrite (r : Receiver) (p : Packet) : Receiver := { r.raise p.num.toNat with held := r.held ++ [p] }

theorem countedArrival_first {s : State} {id : Nat} {r : Receiver} {p : Packet} (h1 : 1 ≤ dist32 p.num.toNat r.h)
    (h2 : dist32 p.num.toNat r.h ≤ 4096) (ha : r.arrived.contains p.num.toNat = false)
    (hh : (r.held.any fun q => q.num == p.num) = false) :
    countedArrival s id r p = runLoads (runHeld id (r.held.length + 1)
      { s with receivers := tset s.receivers id (tookWrite r p) }) id := by
  simp only [countedArrival, h1, h2, and_self, if_true, ha, hh, Bool.or_self, Bool.false_eq_true, if_false,
    List.length_append, List.length_singleton]
  rfl

/-- An arrival of its kind at an entry that stands. -/
theorem execArrival_counted {s : State} {p : Packet} {id : Nat} {r : Receiver} {kind : PacketKind} (hr : receiverOf s p = some (id, r))
    (hb : r.broken = false) (hk : p.kind = kind) : execArrival s p kind = .next (countedArrival s id r p) := by
  have hgo : (r.broken || p.kind != kind) = false := by
    rw [hb, hk, bne_self_eq_false, Bool.or_self]
  simp only [execArrival, hr, hgo, Bool.false_eq_true, if_false]

/-! ### A PUT that is next in order (R325) -/

theorem paBad_eq_none {s : State} {k pa n : Nat} (h : paBad s k pa n = none) (t : State) (j : Nat) : paBad t j pa n = none := by
  unfold paBad at h ⊢
  split at h
  · cases h
  · rename_i hap
    split at h
    · rename_i hback
      rw [if_neg hap, if_pos hback]
    · cases h

theorem raise_form (r : Receiver) (n : Nat) : ∃ top, r.raise n = { r with top := top } := by
  unfold Receiver.raise
  split
  · exact ⟨n, rfl⟩
  · exact ⟨r.top, rfl⟩

/-- H advances over the one number that has arrived. -/
theorem mark_next {r : Receiver} (ha : r.arrived = []) :
    r.mark ((r.h + 1) % 2 ^ 32) = { r with h := (r.h + 1) % 2 ^ 32, arrived := [], lastH := none, failed := 0 } := by
  simp only [Receiver.mark, ha, List.nil_append, List.length_nil, Receiver.advance, List.contains_cons, beq_self_eq_true,
    Bool.true_or, if_true, List.erase_cons_head]

/-- The receiver once the next number in order has been performed. -/
def performedNext (r : Receiver) (p : Packet) : Receiver :=
  { r with
    held := []
    landed := (p.num.toNat, p.daddr.toNat) :: r.landed
    h := (r.h + 1) % 2 ^ 32
    arrived := []
    lastH := none
    failed := 0 }

/-- A PUT held alone that is next in order and depends on nothing is performed. -/
theorem runHeld_next {s : State} {id : Nat} {r : Receiver} {p : Packet} (hr : tget s.receivers id = some r) (hh : r.held = [p])
    (ha : r.arrived = []) (hk : p.kind = .put) (hn : p.num.toNat = (r.h + 1) % 2 ^ 32) (hdep : depDone r p = true) :
    runHeld id 1 s = { performWrite s r.ctx p with
      receivers := tset (performWrite s r.ctx p).receivers id (performedNext r p) } := by
  have hfind : r.held.find? (depDone r) = some p := by rw [hh]; simp [hdep]
  have herase : r.held.erase p = [] := by rw [hh, List.erase_cons_head]
  have hpush : (PacketKind.put = PacketKind.push) = False := by simp
  have hmark : Receiver.mark { r with held := [], landed := (p.num.toNat, p.daddr.toNat) :: r.landed } p.num.toNat = performedNext r p := by
    rw [hn]
    exact (mark_next (r := { r with held := [], landed := (_, p.daddr.toNat) :: r.landed }) ha).trans (by rw [performedNext, hn])
  simp only [runHeld, hr, hfind, herase, hk, hpush, if_false, hmark]

theorem runLoads_none {s : State} {id : Nat} {r : Receiver} (hr : tget s.receivers id = some r) (hl : r.loads = []) :
    runLoads s id = { s with receivers := tset s.receivers id r } := by
  have hsame : ({ r with loads := [] } : Receiver) = r := by rw [← hl]
  have hparts : ([] : List Packet).partition (fun p => r.covers p.num.toNat) = ([], []) := rfl
  simp only [runLoads, hr, hl, hparts, List.foldl_nil, hsame]

theorem performWrite_put {s : State} {k : Nat} {p : Packet} (hk : p.kind = .put) (hpa : paBad s k p.daddr.toNat p.data.length = none) :
    (performWrite s k p).hbm = s.hbm.write p.daddr.toNat p.data := by
  simp only [performWrite, hk, hpa, hbmWrite_hbm]
  rfl

/-- The number after H is at distance 1. -/
theorem dist32_next {h n : Nat} (hn : n = (h + 1) % 2 ^ 32) : dist32 n h = 1 := by
  rw [dist32]; omega

theorem exec_putArrival_next {s : State} {p : Packet} {id : Nat} {r : Receiver} (hr : receiverOf s p = some (id, r)) (hb : r.broken = false)
    (hk : p.kind = .put) (hn : p.num.toNat = (r.h + 1) % 2 ^ 32) (ha : r.arrived = []) (hh : r.held = [])
    (hl : r.loads = []) (hdep : p.aux.toNat % 4096 = 0) (hpa : paBad s r.ctx p.daddr.toNat p.data.length = none) :
    ∃ t r', exec (.putArrival p) s = .next t ∧ t.hbm = s.hbm.write p.daddr.toNat p.data ∧
      tget t.receivers id = some r' ∧ r'.h = (r.h + 1) % 2 ^ 32 ∧ r'.arrived = [] ∧ r'.held = [] := by
  have hdist := dist32_next hn
  obtain ⟨top, htop⟩ := raise_form r p.num.toNat
  have htook : tookWrite r p = { r with top := top, held := [p] } := by rw [tookWrite, htop, hh]; rfl
  have hdone : depDone { r with top := top, held := [p] } p = true := by simp only [depDone, hdep, beq_self_eq_true, Bool.true_or]
  have hfirst := countedArrival_first (s := s) (id := id) (r := r) (p := p) (by rw [hdist]) (by rw [hdist]; decide) (by rw [ha]; rfl)
    (by rw [hh]; rfl)
  rw [hh, htook, List.length_nil, Nat.zero_add, runHeld_next (r := { r with top := top, held := [p] }) (tget_tset_self ..) rfl ha hk hn hdone,
    runLoads_none (r := performedNext { r with top := top, held := [p] } p) (tget_tset_self ..) hl] at hfirst
  refine ⟨_, _, (execArrival_counted hr hb hk).trans (congrArg _ hfirst), ?_, tget_tset_self .., rfl, rfl, rfl⟩
  exact performWrite_put hk (paBad_eq_none hpa _ _)

/-- Settles O45: the issue of a write, a first arrival, and the PUT that is next in order. -/
theorem countedWrites : Obligations.CountedWrites := by
  intro s
  refine ⟨fun id e w ws he hd hw hm => ⟨_, rfl, exec_countedWriteIssue_numbers he hd hw hm, ?number⟩, ?first,
    fun p id r hr hb hk hn _ => exec_putArrival_next hr hb hk hn⟩
  case number => exact numberWrite_a (tget_modSender_self (tget_modSender_self he _) _) w
  case first =>
    intro p id r hr hb h1 h2 ha hh t
    have hstep := countedArrival_first (s := s) (id := id) h1 h2 ha hh
    exact ⟨fun hk => (execArrival_counted hr hb hk).trans (congrArg _ hstep), fun hk => (execArrival_counted hr hb hk).trans (congrArg _ hstep),
      fun hk => (execArrival_counted hr hb hk).trans (congrArg _ hstep)⟩

end Sys2Proof.Machine
end

section
/-!
Remote reads, flags and their completion, and replays (R328, R332, R333, R420, R422 to R424, R426).
-/

namespace Sys2Proof.Machine

/-- A packet of its kind at an entry that is not broken is taken. -/
theorem packet_taken {broken : Bool} {k : PacketKind} {p : Packet} (hb : broken = false) (hk : p.kind = k) :
    (broken || p.kind != k) = false := by
  rw [hb, hk, bne_self_eq_false, Bool.or_self]

/-! ### Remote reads (R328, R426, R447) -/

theorem exec_rloadArrival_kept {s : State} {p : Packet} {id : Nat} {r : Receiver} (hr : receiverOf s p = some (id, r))
    (hb : r.broken = false) (hk : p.kind = .rload) :
    exec (.rloadArrival p) s =
      .next (runLoads { s with receivers := tset s.receivers id { r with loads := r.loads ++ [p] } } id) := by
  simp only [exec_rloadArrival, execRloadArrival, hr, packet_taken hb hk, Bool.false_eq_true, if_false]

theorem exec_rdataArrival_read {s : State} {p : Packet} {id : Nat} {r : Request}
    (hr : requestOf s (p.aux.toNat % 4096) = some (id, r)) (hk : p.kind = .rdata) (hhome : r.home = p.src.toNat) :
    exec (.rdataArrival p) s = .next (readBack s id r (laidOver r.laid (slice p.data 0 r.size))) := by
  simp only [exec_rdataArrival, execRdataArrival, hr, hk, hhome, bne_self_eq_false, Bool.or_self, Bool.false_eq_true, if_false]

theorem exec_rdataArrival_reread {s : State} {p : Packet} {id : Nat} {r : Reread} (hn : requestOf s (p.aux.toNat % 4096) = none)
    (hr : rereadOf s (p.aux.toNat % 4096) = some (id, r)) (hk : p.kind = .rdata) (hhome : r.home = p.src.toNat) :
    exec (.rdataArrival p) s =
      .next (rereadBack { s with rereads := tdel s.rereads id } r (natOfBytes (slice p.data 0 r.size))) := by
  simp only [exec_rdataArrival, execRdataArrival, hn, hr, hk, hhome, bne_self_eq_false, Bool.or_self, Bool.false_eq_true, if_false]

/-! ### Flags at the receiver (R332, R420) -/

theorem exec_flagArrival_first {s : State} {p : Packet} {id : Nat} {r : Receiver} (hr : receiverOf s p = some (id, r))
    (hb : r.broken = false) (hk : p.kind = .flag) (hd : dist15 p.aux.toNat r.nextF ≤ 15)
    (hnew : (r.flags.any fun q => q.aux == p.aux) = false) :
    exec (.flagArrival p) s =
      .next { s with receivers := tset s.receivers id { r.raise p.num.toNat with flags := r.flags ++ [p] } } := by
  simp only [exec_flagArrival, execFlagArrival, hr, packet_taken hb hk, hd, hnew, Bool.false_eq_true, if_false, if_true]

theorem exec_flagComplete_word {s : State} {id : Nat} {r : Receiver} {p : Packet} (hr : tget s.receivers id = some r)
    (hb : r.broken = false) (hp : (r.flags.find? fun p => p.aux.toNat == r.nextF) = some p) (hc : r.covers p.num.toNat = true)
    (ha : p.daddr.toNat ≠ 0) (hpa : paBad s r.ctx p.daddr.toNat 8 = none) :
    let t := hbmWrite (arriveAt s r.ctx p.daddr.toNat 8) p.daddr.toNat (p.data.take 8)
    exec (.flagComplete id) s =
      .next (queuePacket { t with
        receivers := tset t.receivers id
          { r with
            flags := r.flags.erase p
            nextF := (r.nextF + 1) % 2 ^ 15
            landed := r.landed.filter fun x => !decide (dist32 p.num.toNat x.1 < 2 ^ 31) } } (flagDone p)) := by
  simp only [exec_flagComplete, execFlagComplete, hr, hp, hb, hc, ha, hpa, Bool.not_true, Bool.or_self, Bool.false_eq_true, if_false]

/-! ### The answer to a flag (R333) -/

theorem coverTo_broken (e : Sender) (n : Nat) : (coverTo e n).broken = e.broken := by
  unfold coverTo
  split <;> rfl

theorem coverTo_dones (e : Sender) (n : Nat) : (coverTo e n).dones = e.dones := by
  unfold coverTo
  split <;> rfl

theorem coverTo_ctx (e : Sender) (n : Nat) : (coverTo e n).ctx = e.ctx := by
  unfold coverTo
  split <;> rfl

/-- The machine once the sender, whose window has advanced, has freed a flag; its `DONE` is due when it was an instruction's. -/
def freedFlag (s : State) (id : Nat) (e : Sender) (f : OutFlag) : State :=
  { s with senders := tset s.senders id { e with flags := e.flags.erase f, dones := if f.isFlag then [f] else e.dones } }

theorem sender_freedFlag_ctx (s : State) (id : Nat) (e : Sender) (f : OutFlag) : ((freedFlag s id e f).sender id).ctx = e.ctx := by
  rw [sender_eq (s := freedFlag s id e f) (tget_tset_self ..)]

section
variable {s : State} {p : Packet} {id : Nat} {e e' : Sender} {f : OutFlag} (hs : senderOf s p = some (id, e)) (hb : e.broken = false)
  (hk : p.kind = .flagdone) (hd : e.dones = []) (he : coverTo e p.num.toNat = e')
  (hf : (e'.flags.find? fun f => f.index == p.aux.toNat) = some f)
include hs hb hk hd he hf

theorem exec_flagdoneArrival_freed : exec (.flagdoneArrival p) s =
    .next (runDones (freedFlag s id e' f) id (if f.isFlag then [f] else [])) := by
  have hdones : e'.dones = [] := by rw [← he, coverTo_dones, hd]
  simp -zeta only [exec_flagdoneArrival, execFlagdoneArrival, hs, packet_taken hb hk, Bool.false_eq_true, if_false, he]
  simp only [hf, freedFlag]
  cases f.isFlag with
  | true => simp only [hdones, if_true, List.nil_append]
  | false => simp only [hdones, Bool.false_eq_true, if_false]

end

/-! ### A `DONE` that is due (R333) -/

theorem runDones_over {s t : State} {id : Nat} {f : OutFlag} (h : performDone s id f = (t, true)) :
    runDones s id [f] = t.modSender id fun e => { e with dones := [] } := by
  simp only [runDones, h]

theorem runDones_waits {s t : State} {id : Nat} {f : OutFlag} (h : performDone s id f = (t, false)) :
    runDones s id [f] = t.modSender id fun e => { e with dones := [f] } := by
  simp only [runDones, h]

/-- The flag is a control core's, or its gathering's launch has not ended. -/
def doneDue (s : State) (f : OutFlag) : Prop := (∃ c, f.core = some (.control c)) ∨ instLive s f.inst = true

section
variable {s : State} {id : Nat} {f : OutFlag} (hdue : doneDue s f)
include hdue

theorem performDone_waits {x : AccessFault} {w : Await} (hx : doneWrite s id f = .error x) (hw : x.wait = some w) :
    performDone s id f = (await s (.channel id) hubPlace (s.sender id).ctx x.va w, false) := by
  obtain ⟨c, hc⟩ | hl := hdue
  · simp only [performDone, hc, hx, hw, Bool.not_true, Bool.false_and, Bool.false_eq_true, if_false]
  · simp only [performDone, hl, hx, hw, Bool.not_true, Bool.and_false, Bool.false_eq_true, if_false]

theorem performDone_done {t v : State} (hx : doneWrite s id f = .ok t) (hsick : doneSick t id f = none)
    (hv : doneArrive t f = some v) : performDone s id f = (endAccess v (.channel id), true) := by
  obtain ⟨c, hc⟩ | hl := hdue
  · simp only [performDone, hc, hx, hsick, hv, Bool.not_true, Bool.false_and, Bool.false_eq_true, if_false]
  · simp only [performDone, hl, hx, hsick, hv, Bool.not_true, Bool.and_false, Bool.false_eq_true, if_false]

end

theorem doneWrite_none {s : State} {id : Nat} {f : OutFlag} (h : doneWord f.done = 0) : doneWrite s id f = .ok s := by
  simp only [doneWrite, h, if_true]

theorem doneArrive_none {s : State} {f : OutFlag} (h : doneMbar f.done = 0) : doneArrive s f = some s := by
  simp only [doneArrive, h, if_true]

theorem doneSick_none {s : State} {id : Nat} {f : OutFlag} (h : doneMbar f.done = 0) : doneSick s id f = none := by
  simp only [doneSick, h, ne_eq, not_true_eq_false, false_and, if_false]
  split <;> rfl

/-! ### Translations stay in their package -/

theorem setPteBit_pkg (s : State) (src bit : Nat) : (setPteBit s src bit).pkg = s.pkg := by
  rw [setPteBit]
  split <;> rfl

theorem markDirty_pkg (s : State) (t : TlbEntry) : (markDirty s t).pkg = s.pkg := by
  rw [markDirty]
  split
  · rfl
  · exact setPteBit_pkg s t.src 5

theorem applyEntry_pkg {s u : State} {t : TlbEntry} {va acc : Nat} {ap : Bool} {x : Trans} (h : applyEntry s t va acc ap = .ok (x, u)) :
    u.pkg = s.pkg := by
  unfold applyEntry at h
  dsimp only at h
  generalize (if pteShare t.pte = 1 then s.pkg else pteHome t.pte) = home at h
  split at h
  · cases h
  · split at h
    · cases h
    · split at h
      · cases h
      · split at h
        · cases h
        · cases h
          split
          · exact markDirty_pkg s t
          · rfl

theorem engineTrans_pkg {s v : State} {u : PortUser} {place k va acc : Nat} {ap : Bool} {x : Trans}
    (h : engineTrans s u place k va acc ap = .ok (x, v)) : v.pkg = s.pkg := by
  have huse : ∀ {w : State} {t : TlbEntry}, (match applyEntry w t va acc ap with
      | .error f => .error ({ f, acc, va } : AccessFault)
      | .ok y => .ok y) = Except.ok (x, v) → v.pkg = w.pkg := by
    intro w t hw
    cases ha : applyEntry w t va acc ap with
    | error f => rw [ha] at hw; cases hw
    | ok y =>
      rw [ha] at hw
      cases hw
      exact applyEntry_pkg ha
  unfold engineTrans at h
  dsimp only at h
  split at h
  · cases h
  · split at h
    · exact (huse h).trans rfl
    · exact huse h
    · split at h
      · cases h
      · exact (huse h).trans rfl
      · cases h
    · cases h

/-! ### Which writes a `DONE` makes (R333) -/

/-- The machine once the `DONE`s of a channel are over. -/
def donesOver (t : State) (id : Nat) : State := (endAccess t (.channel id)).modSender id fun e => { e with dones := [] }

section
variable {s u : State} {p : Packet} {id : Nat} {e e' : Sender} {f : OutFlag} (hs : senderOf s p = some (id, e)) (hb : e.broken = false)
  (hk : p.kind = .flagdone) (hd : e.dones = []) (hw : f.isFlag = true) (he : coverTo e p.num.toNat = e')
  (hf : (e'.flags.find? fun f => f.index == p.aux.toNat) = some f) (hu : freedFlag s id e' f = u)
include hs hb hk hd hw he hf hu

theorem exec_flagdoneArrival_flag : exec (.flagdoneArrival p) s = .next (runDones u id [f]) := by
  have h := exec_flagdoneArrival_freed hs hb hk hd he hf
  rw [hw, hu] at h
  exact h

variable (hdue : doneDue u f)
include hdue

theorem exec_flagdoneArrival_done {t v : State} (hx : doneWrite u id f = .ok t) (hsick : doneSick t id f = none)
    (hv : doneArrive t f = some v) : exec (.flagdoneArrival p) s = .next (donesOver v id) :=
  (exec_flagdoneArrival_flag hs hb hk hd hw he hf hu).trans (congrArg _ (runDones_over (performDone_done hdue hx hsick hv)))

theorem exec_flagdoneArrival_waits {y : AccessFault} {w : Await} (hx : doneWrite u id f = .error y) (hy : y.wait = some w) :
    exec (.flagdoneArrival p) s =
      .next ((await u (.channel id) hubPlace (u.sender id).ctx y.va w).modSender id fun e => { e with dones := [f] }) :=
  (exec_flagdoneArrival_flag hs hb hk hd hw he hf hu).trans (congrArg _ (runDones_waits (performDone_waits hdue hx hy)))

end

theorem doneSick_control {s : State} {id : Nat} {f : OutFlag} {c : Fin 16} (hc : f.core = some (.control c)) : doneSick s id f = none := by
  simp only [doneSick, hc]

theorem doneArrive_control {s : State} {f : OutFlag} {c : Fin 16} (hc : f.core = some (.control c)) (hla : doneMbar f.done ≠ 0) :
    doneArrive s f = mbarUpdate s (.control c) (doneMbar f.done) (Mbar.arrive 1) := by
  simp only [doneArrive, hc, hla, if_false]

section
variable {s : State} {id : Nat} {f : OutFlag} {n : Nat} {t : Fin 4} {g : Nat} (hc : f.core = some (.strand n t)) (hg : f.gath = some g)
include hc hg

theorem doneSick_bound (hbound : (s.leaf n).gath = some g) (hp : padPoisoned s (.strand n t) (doneMbar f.done) 16 = false) :
    doneSick s id f = none := by
  simp only [doneSick, hc, hg, hbound, hp, if_true, Bool.false_eq_true, and_false, if_false]

theorem doneSick_paper (hbound : (s.leaf n).gath ≠ some g)
    (hp : ((tget s.papers g).any fun p => leafPoisoned ((tget p.leaves n).getD {}) (doneMbar f.done) 16) = false) :
    doneSick s id f = none := by
  simp only [doneSick, hc, hg, hbound, hp, Bool.false_eq_true, and_false, if_false]

variable (hla : doneMbar f.done ≠ 0)
include hla

theorem doneArrive_bound (hbound : (s.leaf n).gath = some g) :
    doneArrive s f = mbarUpdate s (.strand n t) (doneMbar f.done) (Mbar.arrive 1) := by
  simp only [doneArrive, hc, hg, hla, hbound, if_true, if_false]

theorem doneArrive_paper (hbound : (s.leaf n).gath ≠ some g) : doneArrive s f = some (paperArrive s g n (doneMbar f.done)) := by
  simp only [doneArrive, hc, hg, hla, hbound, if_false]

end

section
variable {s : State} {id : Nat} {f : OutFlag} (hva : doneWord f.done ≠ 0)
include hva

theorem doneWrite_word {x : Trans} {t v : State}
    (hx : engineTrans s (.channel id) hubPlace (s.sender id).ctx (doneWord f.done) accStore false = .ok (x, t)) (hhome : x.home = s.pkg)
    (hv : allTurns t (.channel id) accStore (doneWord f.done) (portParts x.pa 4) = .ok v) :
    doneWrite s id f = .ok (hbmWrite v x.pa (bytesOf 4 f.dval)) := by
  have hsame : ¬x.home ≠ t.pkg := by rw [engineTrans_pkg hx, hhome]; exact not_not.mpr rfl
  simp only [doneWrite, hva, if_false, hx, hsame, hv]

theorem doneWrite_fault {x : AccessFault}
    (hx : engineTrans s (.channel id) hubPlace (s.sender id).ctx (doneWord f.done) accStore false = .error x) :
    doneWrite s id f = .error x := by
  simp only [doneWrite, hva, if_false, hx]

end

/-! ### Replays (R422 to R424) -/

theorem exec_resendArrival_run {s : State} {p : Packet} {id : Nat} {e : Sender} (hs : senderOf s p = some (id, e)) (hb : e.broken = false)
    (hk : p.kind = .resend) :
    exec (.resendArrival p) s = .next (replayRun id e
      (e.ring.filter fun r => decide (dist32 r.num p.num.toNat ≤ p.aux.toNat % 4096) && e.uncovered r.num) s) := by
  simp only [exec_resendArrival, execResendArrival, hs, packet_taken hb hk, Bool.false_eq_true, if_false]

section
variable {s u : State} {p : Packet} {id : Nat} {e e' : Sender} {f : OutFlag} (hs : senderOf s p = some (id, e)) (hb : e.broken = false)
  (hk : p.kind = .flagdone) (hd : e.dones = []) (he : coverTo e p.num.toNat = e')
  (hf : (e'.flags.find? fun f => f.index == p.aux.toNat) = some f)
include hs hb hk hd he hf

/-- The answer to a window's own flag frees it, and nothing is due. -/
theorem exec_flagdoneArrival_window (hw : f.isFlag = false)
    (hu : u = { s with senders := tset s.senders id { e' with flags := e'.flags.erase f } }) :
    exec (.flagdoneArrival p) s = .next (u.modSender id fun e => { e with dones := [] }) := by
  have hfreed : freedFlag s id e' f = u := by rw [hu, freedFlag, hw]; rfl
  have h := exec_flagdoneArrival_freed hs hb hk hd he hf
  rw [hw, hfreed] at h
  exact h

end

section
variable {s u : State} {p : Packet} {id : Nat} {e e' : Sender} {f : OutFlag} (hs : senderOf s p = some (id, e)) (hb : e.broken = false)
  (hk : p.kind = .flagdone) (hd : e.dones = []) (hw : f.isFlag = true) (hdue : doneDue s f) (he : coverTo e p.num.toNat = e')
  (hf : (e'.flags.find? fun f => f.index == p.aux.toNat) = some f)
  (hu : u = { s with senders := tset s.senders id { e' with flags := e'.flags.erase f, dones := [f] } })
include hs hb hk hd hw hdue he hf hu

/-- The answer to an instruction's flag: by what its `DONE` names. -/
theorem exec_flagdoneArrival_dones :
    (doneWord f.done = 0 → doneMbar f.done = 0 → exec (.flagdoneArrival p) s = .next (donesOver u id)) ∧
    (∀ c v, doneWord f.done = 0 → doneMbar f.done ≠ 0 → f.core = some (.control c) →
      mbarUpdate u (.control c) (doneMbar f.done) (Mbar.arrive 1) = some v →
      exec (.flagdoneArrival p) s = .next (donesOver v id)) ∧
    (∀ n t g, doneWord f.done = 0 → doneMbar f.done ≠ 0 → f.core = some (.strand n t) → f.gath = some g →
      (∀ v, (s.leaf n).gath = some g → padPoisoned u (.strand n t) (doneMbar f.done) 16 = false →
        mbarUpdate u (.strand n t) (doneMbar f.done) (Mbar.arrive 1) = some v →
        exec (.flagdoneArrival p) s = .next (donesOver v id)) ∧
      ((s.leaf n).gath ≠ some g →
        ((tget s.papers g).any fun p => leafPoisoned ((tget p.leaves n).getD {}) (doneMbar f.done) 16) = false →
        exec (.flagdoneArrival p) s = .next (donesOver (paperArrive u g n (doneMbar f.done)) id))) ∧
    (∀ x t v, doneWord f.done ≠ 0 → doneMbar f.done = 0 →
      engineTrans u (.channel id) hubPlace e.ctx (doneWord f.done) accStore false = .ok (x, t) → x.home = s.pkg →
      allTurns t (.channel id) accStore (doneWord f.done) (portParts x.pa 4) = .ok v →
      exec (.flagdoneArrival p) s = .next (donesOver (hbmWrite v x.pa (bytesOf 4 f.dval)) id)) ∧
    (∀ y w, doneWord f.done ≠ 0 →
      engineTrans u (.channel id) hubPlace e.ctx (doneWord f.done) accStore false = .error y → y.wait = some w →
      exec (.flagdoneArrival p) s =
        .next ((await u (.channel id) hubPlace e.ctx y.va w).modSender id fun e => { e with dones := [f] })) := by
  have hfreed : freedFlag s id e' f = u := by rw [hu, freedFlag, hw]; rfl
  have hctx : (u.sender id).ctx = e.ctx := by rw [← hfreed, sender_freedFlag_ctx, ← he, coverTo_ctx]
  have hpkg : u.pkg = s.pkg := by rw [hu]
  have hleaf : ∀ n, u.leaf n = s.leaf n := fun n => by rw [hu]; rfl
  have hpapers : u.papers = s.papers := by rw [hu]
  have hdue' : doneDue u f := by rw [hu]; exact hdue
  have hdone := fun {t v : State} => exec_flagdoneArrival_done (t := t) (v := v) hs hb hk hd hw he hf hfreed hdue'
  refine ⟨fun hva hla => ?none, fun c v hva hla hc hv => ?control, fun n t g hva hla hc hg => ⟨fun v hbound hp hv => ?bound,
    fun hbound hp => ?paper⟩, fun x t v hva hla hx hhome hv => ?word, fun y w hva hy hwait => ?waits⟩
  case none => exact hdone (doneWrite_none hva) (doneSick_none hla) (doneArrive_none hla)
  case control => exact hdone (doneWrite_none hva) (doneSick_control hc) ((doneArrive_control hc hla).trans hv)
  case bound =>
    rw [← hleaf] at hbound
    exact hdone (doneWrite_none hva) (doneSick_bound hc hg hbound hp) ((doneArrive_bound hc hg hla hbound).trans hv)
  case paper =>
    rw [← hleaf] at hbound
    rw [← hpapers] at hp
    exact hdone (doneWrite_none hva) (doneSick_paper hc hg hbound hp) (doneArrive_paper hc hg hla hbound)
  case word =>
    rw [← hctx] at hx
    exact hdone (doneWrite_word hva hx (hhome.trans hpkg.symm) hv) (doneSick_none hla) (doneArrive_none hla)
  case waits =>
    rw [← hctx] at hy ⊢
    exact exec_flagdoneArrival_waits hs hb hk hd hw he hf hfreed hdue' (doneWrite_fault hva hy) hwait

end

/-- Settles O46: what each packet of a read, a flag or a replay finds, and what each kind of `DONE` writes. -/
theorem flagsAndReads : Obligations.FlagsAndReads := by
  intro s
  exact ⟨fun p id r => exec_rloadArrival_kept, fun p id r => exec_rdataArrival_read, fun p id r => exec_rdataArrival_reread,
    fun p id r => exec_flagArrival_first, fun id r p => exec_flagComplete_word,
    fun p id e f hs hb hk hd hw hf => exec_flagdoneArrival_window hs hb hk hd rfl hf hw rfl,
    fun p id e f hs hb hk hd hw hdue hf => exec_flagdoneArrival_dones hs hb hk hd hw hdue rfl hf rfl, fun p id e => exec_resendArrival_run⟩

end Sys2Proof.Machine
end

section
/-!
Timers, links, lost packages and the channel tables (R320, R322, R416, R417, R421, R425, R426, R428).
-/

namespace Sys2Proof.Machine

/-! ### Timers (R421, R425, R426) -/

/-- A receiver at which the gap timer has expired. -/
def gapExpired (r : Receiver) : Receiver :=
  { r with failed := if r.lastH = some r.h then r.failed + 1 else 0, lastH := some r.h }

theorem exec_gapTimerExpiry_gap {s : State} {id : Nat} {r : Receiver} (hr : tget s.receivers id = some r) (hb : r.broken = false)
    (hgap : r.h ≠ r.top) :
    let u := writeRecord { s with receivers := tset s.receivers id (gapExpired r) }
      (receiverReport s id (gapExpired r) 0x0505 sevCorrected (gapExpired r).failed)
    let v := ((clearRuns (gapExpired r) (dist32 r.top r.h) ((r.h + 1) % 2 ^ 32)).take 16).foldl
      (fun s x => queuePacket s (resendPacket s (gapExpired r) x)) u
    exec (.gapTimerExpiry id) s = .next (if 4 ≤ (gapExpired r).failed then breakReceiver v id (gapExpired r).failed else v) := by
  have hgo : (r.broken || r.h == r.top) = false := by rw [hb, beq_eq_false_iff_ne.mpr hgap, Bool.or_self]
  simp only [exec_gapTimerExpiry, execGapTimerExpiry, hr, hgo, Bool.false_eq_true, if_false]
  rfl

section
variable {s : State} {id : Nat} {ix : BitVec 15} {e : Sender} {f : OutFlag} (he : tget s.senders id = some e)
  (hf : (e.flags.find? fun f => f.index == ix.toNat) = some f)
include he hf

theorem exec_flagTimerExpiry_again (ht : f.tries < 3) :
    let u := (writeRecord s (senderReport s id 0x0506 sevCorrected f.index (if f.isFlag then some f.inst else none))).modSender
      id fun e => { e with flags := e.flags.map fun g => if g.index == f.index then { g with tries := g.tries + 1 } else g }
    exec (.flagTimerExpiry id ix) s = .next (queuePacket u (flagPacket u e f)) := by
  simp only [exec_flagTimerExpiry, execFlagTimerExpiry, he, hf, not_le.mpr ht, if_false]

theorem exec_flagTimerExpiry_broken (ht : 3 ≤ f.tries) : exec (.flagTimerExpiry id ix) s = .next (breakSender s id 1) := by
  simp only [exec_flagTimerExpiry, execFlagTimerExpiry, he, hf, ht, if_true]

end

theorem exec_tailWriteTimeout_window {s : State} {id : Nat} {e : Sender} (he : tget s.senders id = some e) (hf : e.flags = [])
    (hb : e.broken = false) (ha : e.a ≠ e.d) : exec (.tailWriteTimeout id) s = .next (windowFlag s id) := by
  have hgo : (e.flags != [] || e.broken || e.a == e.d) = false := by
    rw [hf, hb, beq_eq_false_iff_ne.mpr ha]; rfl
  simp only [exec_tailWriteTimeout, execTailWriteTimeout, he, hgo, Bool.false_eq_true, if_false]

section
variable {s : State} {id : Nat} {r : Request} {tag e : Nat} (hr : tget s.reqs id = some r) (hstage : r.stage = .remote tag)
  (htag : tag < 4096) (he : implicitSender s r.ctx r.home = some e)
include hr hstage htag he

theorem exec_rloadTimerExpiry_again (hsent : r.sent < 3) :
    let u := writeRecord (setReq s id { r with sent := r.sent + 1 })
      { senderReport s e 0x0507 sevCorrected tag none with tag := (r.gath.bind s.gath).map Gathering.tag }
    exec (.rloadTimerExpiry id) s = .next (queuePacket u (rloadPacket u r (u.sender e) tag r.upto)) := by
  simp only [exec_rloadTimerExpiry, execRloadTimerExpiry, hr, hstage, he, not_le.mpr htag, not_le.mpr hsent, if_false]

theorem exec_rloadTimerExpiry_fault (hsent : 3 ≤ r.sent) :
    exec (.rloadTimerExpiry id) s = .next (portFault s id r
      { senderReport s e 0x0507 sevCorrected tag none with
        cls := 0x0513, sev := sevTask, tag := (r.gath.bind s.gath).map Gathering.tag }) := by
  simp only [exec_rloadTimerExpiry, execRloadTimerExpiry, hr, hstage, he, not_le.mpr htag, hsent, if_false, if_true]

end

theorem exec_rloadTimerExpiry_reread {s : State} {id : Nat} {r : Reread} (hn : tget s.reqs id = none) (hr : tget s.rereads id = some r) :
    exec (.rloadTimerExpiry id) s = .next (rereadTimer s id r) := by
  simp only [exec_rloadTimerExpiry, execRloadTimerExpiry, hn, hr]

/-! ### Links (R320, R416, R417) -/

theorem exec_flezalFlitError_repaired (s : State) (fp : Fin 16) :
    exec (.flezalFlitError fp true) s = .next (
      if Config.retryReport s.tick then
        writeRecord { s with flitFix := tset s.flitFix fp.val 0 } (linkReport s fp.val 0x0501 ((tget s.flitFix fp.val).getD 0 + 1))
      else { s with flitFix := tset s.flitFix fp.val ((tget s.flitFix fp.val).getD 0 + 1) }) := by
  simp only [exec_flezalFlitError, execFlezalFlitError, if_true]
  exact (apply_ite Host.Outcome.next _ _ _).symm

/-- The packets of a lost flit leave the list; the others keep their order. -/
theorem dropFlit_sublist (s : State) (fp : Nat) (ps : List Packet) : ∀ room, (dropFlit s fp room ps).Sublist ps := by
  induction ps with
  | nil => exact fun _ => .slnil
  | cons p ps ih =>
    intro room
    rw [dropFlit]
    split
    · exact (ih _).cons p
    · exact (ih _).cons_cons p

theorem exec_flezalFlitError_lost (s : State) (fp : Fin 16) :
    ∃ ps : List Packet, ps.Sublist s.outbox ∧ exec (.flezalFlitError fp false) s = .next
      { s with linkDrops := tset s.linkDrops fp.val ((tget s.linkDrops fp.val).getD 0 + 1), outbox := ps } := by
  rw [exec_flezalFlitError, execFlezalFlitError]
  refine ⟨_, ?_, rfl⟩
  have h := (List.Sublist.refl (s.outbox.take (Config.choice s.tick % (s.outbox.length + 1)))).append
    (dropFlit_sublist s fp.val (s.outbox.drop (Config.choice s.tick % (s.outbox.length + 1))) 240)
  rwa [List.take_append_drop] at h

theorem exec_flezalLinkDown_down {s : State} {fp : Fin 16} (hk : 64 ≤ (tget s.linkDrops fp.val).getD 0)
    (hup : s.linkDown.contains fp.val = false) :
    exec (.flezalLinkDown fp) s = .next (writeRecord { s with
      linkDown := fp.val :: s.linkDown
      linkDrops := tset s.linkDrops fp.val 0
      outbox := s.outbox.filter fun p => portToward s p != fp.val }
      (linkReport s fp.val 0x0502 ((tget s.linkDrops fp.val).getD 0))) := by
  simp only [exec_flezalLinkDown, execFlezalLinkDown, not_lt.mpr hk, hup, Bool.false_eq_true, or_self, if_false]

section
variable {s : State} {p : Packet} (hdst : p.dst.toNat ≠ s.pkg)
include hdst

theorem exec_transitPacketArrival_forwarded (hup : s.linkDown.contains (portToward s p) = false) :
    exec (.transitPacketArrival p) s = .next { s with outbox := s.outbox ++ [p] } := by
  simp only [exec_transitPacketArrival, execTransitPacketArrival, hdst, if_false, queuePacket, hup, Bool.false_eq_true]

theorem exec_transitPacketArrival_dropped (hdown : s.linkDown.contains (portToward s p) = true) :
    exec (.transitPacketArrival p) s = .next s := by
  simp only [exec_transitPacketArrival, execTransitPacketArrival, hdst, if_false, queuePacket, hdown, if_true]

end

/-- Settles O47: each timer and link event, by what its entry holds. -/
theorem timersAndLinks : Obligations.TimersAndLinks := by
  intro s
  exact ⟨fun id r hr hb hgap => exec_gapTimerExpiry_gap hr hb hgap,
    fun id ix e f he hf => ⟨exec_flagTimerExpiry_again he hf, exec_flagTimerExpiry_broken he hf⟩,
    fun id e => exec_tailWriteTimeout_window,
    fun id r tag e hr hstage htag he =>
      ⟨exec_rloadTimerExpiry_again hr hstage htag he, exec_rloadTimerExpiry_fault hr hstage htag he⟩,
    fun id r => exec_rloadTimerExpiry_reread,
    fun fp => ⟨exec_flezalFlitError_repaired s fp, exec_flezalFlitError_lost s fp⟩,
    fun fp => exec_flezalLinkDown_down, fun i => exec_packetAgeDiscard i s, fun q => exec_packageLost q s,
    fun entry ctx index dst imp => exec_channelAllocate _ s, fun entry src ctx index => exec_channelAllocate _ s,
    fun p hdst => ⟨exec_transitPacketArrival_forwarded hdst, exec_transitPacketArrival_dropped hdst⟩⟩

end Sys2Proof.Machine
end

section
/-!
Boot, folios, power, thermal events, halts and the switch of committed images (R345 to R351, R364, R392, R435 to R439).
-/

namespace Sys2Proof.Machine

/-! ### Boot and folios (R345, R351, R435 to R438) -/

theorem exec_deviceBoot_started {s : State} (image : List Byte) (fw : List (Nat × Byte)) (hb : s.booted = false) (hst : s.bootSt = 0) :
    exec (.deviceBoot (.started image fw)) s =
      .next { s with booted := true, measured := s.measured ++ [sha256 image], cores := s.cores.map (startCore fw) } := by
  have hgo : (s.booted || s.bootSt != 0) = false := by rw [hb, hst]; rfl
  simp only [exec_deviceBoot, execDeviceBoot, hgo, Bool.false_eq_true, if_false]

theorem exec_folioAdmission_tested {s : State} {f : Fin 8} (passed : Bool) (hb : s.booted = true)
    (ha : (s.folios.getD f.val {}).admitted = false) (ht : (s.folios.getD f.val {}).tested = false) :
    let u := if passed then s else writeRecord s (bootReport 0x0618 sevFolio f.val)
    exec (.folioAdmission f passed []) s =
      .next (attest { u with folios := lmod u.folios f.val fun x => { x with tested := true, admitted := passed } }) := by
  simp only [exec_folioAdmission, execFolioAdmission, hb, ha, ht, Bool.not_true, Bool.or_self, Bool.false_eq_true, if_false,
    List.filter_nil, List.foldl_nil]

/-! ### The power of a quire (R348 to R350) -/

section
variable {s : State} {q : Nat} (hq : q < Config.quireCount)
include hq

theorem exec_quirePowerTransition_rest (hh : (holderOf s q).isSome = false) (hp : promised s [q] = false)
    (hw : (s.quire q).waking = false) (hm : (s.quire q).mapped = false) (hrest : restState s q ≠ .off) (hon : (s.quire q).power ≠ .off) :
    exec (.quirePowerTransition q) s = .next (s.modQuire q fun x => { x with power := restState s q }) := by
  simp only [exec_quirePowerTransition, execQuirePowerTransition, not_le.mpr hq, hh, hp, hw, hm, hrest, hon, Bool.or_self,
    Bool.false_eq_true, or_self, if_false]

variable (hw : (s.quire q).waking = true)
include hw

theorem exec_quireWake_awake (hu : quiresUsable s [q] = true) :
    exec (.quireWake q) s = .next ((if (s.quire q).power = .off then zeroQuire s q else s).modQuire q
      fun x => { x with power := .active, waking := false }) := by
  simp only [exec_quireWake, execQuireWake, not_le.mpr hq, hw, hu, Bool.not_true, Bool.or_self, Bool.false_eq_true, if_false]

/-- A quire for which nothing is bound is mapped out. -/
theorem exec_quireWakeTimeout_unbound (hpool : s.pool = []) :
    exec (.quireWakeTimeout q) s = .next (writeRecord (mapOut s q) (powerReport 0x0608 sevTask (folioOfQuire q) 0 q)) := by
  have hnone : (List.map (fun e => e.2.inst) (s.pool.filter fun e => e.2.bound && e.2.quires.contains q)).dedup.filter (instLive s) = [] := by
    rw [hpool]; rfl
  simp only [exec_quireWakeTimeout, execQuireWakeTimeout, not_le.mpr hq, hw, hnone, Bool.not_true, Bool.false_eq_true, if_false,
    List.isEmpty_nil, if_true]

end

theorem exec_controlCoreHalt_runs {s : State} {k : Fin 16} (h : (s.core k.val).halted = false) :
    exec (.controlCoreHalt k) s = .next (haltCore (abandon s k) k.val) := by
  simp only [exec_controlCoreHalt, execControlCoreHalt, h, Bool.false_eq_true, if_false]

/-! ### The switch of committed images (R170, R392, R442) -/

section
variable {s : State} {b : Batch} {bs : List Batch} (hb : s.batches = b :: bs) (hl : batchLanded s b = true)
include hb hl

theorem exec_imageCommitSwitch_settles (hfree : b.bad = true ∨ (b.slots.any fun p => slotHeld s p.1) = false) (xs ys : List Nat) :
    exec (.imageCommitSwitch xs ys) s = .next (payOwed (settleBatch { s with batches := bs } b xs ys) b.claim tok tok) := by
  have hgo : (!batchLanded s b || (!b.bad && b.slots.any fun p => slotHeld s p.1)) = false := by
    obtain hbad | hheld := hfree
    · rw [hl, hbad]; rfl
    · rw [hl, hheld, Bool.and_false]; rfl
  simp only [exec_imageCommitSwitch, execImageCommitSwitch, hb, hgo, Bool.false_eq_true, if_false]

end

theorem settleBatch_bad {s : State} {b : Batch} (h : b.bad = true) (xs ys : List Nat) : settleBatch s b xs ys = s := by
  simp only [settleBatch, h, if_true]

/-- Every shadow can be read and every quire acknowledges. -/
theorem settleBatch_switches {s : State} {b : Batch} (h : b.bad = false) (hr : firstUnreadable b [] = none) :
    settleBatch s b [] [] = { switchSlots s b with failed := if s.failed.any fun x => sameImages x b.images then none else s.failed } := by
  simp only [settleBatch, h, hr, Bool.false_eq_true, if_false, List.filter_nil, List.dedup_nil, List.foldl_nil]

/-- Settles O48: each event by the state that it finds. -/
theorem platformEvents : Obligations.PlatformEvents := by
  intro s
  refine ⟨exec_deviceBoot_started, fun f => exec_folioCalibrationDone f s, fun f passed => exec_folioAdmission_tested passed,
    fun q => exec_quirePowerTransition_rest, fun q hq hw hu => ⟨fun hon => ?awake, fun hoff => ?off⟩,
    fun q => exec_quireWakeTimeout_unbound, fun f => exec_governorLimit _ s, fun rail => exec_governorLimit _ s,
    fun f sensor => ⟨exec_thermalEvent .., exec_thermalEvent .., exec_thermalEvent ..⟩, fun k => exec_controlCoreHalt_runs,
    fun b bs hb hl => ⟨fun hgood hheld hr => ?switch, fun hbad xs ys => ?bad⟩⟩
  case awake => rw [exec_quireWake_awake hq hw hu, if_neg hon]
  case off => rw [exec_quireWake_awake hq hw hu, if_pos hoff]
  case switch => rw [exec_imageCommitSwitch_settles hb hl (.inr hheld), settleBatch_switches hgood hr]
  case bad => rw [exec_imageCommitSwitch_settles hb hl (.inl hbad), settleBatch_bad hbad]

end Sys2Proof.Machine
end


section
/-!
O39, first part: one action of a scanner, of its refill, of `ISECT` and `UNION` and of `REPEAT` (R248 to R255), on conditions on the
unit and on the heads of its inputs.
-/

namespace Sys2Proof.Machine

variable {s : State} {n : Nat} {u : FUnit}

/-! ### Scanners (R249, R250) -/

/-- A fibre that is being emitted goes on. -/
theorem scanStep_fibre {f : Fibre} (hf : (s.flow n u).fibre = some f) : scanStep s n u = fibreStep s n u f := by
  simp only [scanStep, hf]

theorem scanStep_fullToken {f : Fibre} (hf : (s.flow n u).fibre = some f) (h16 : 16 ≤ f.elems.length) :
    scanStep s n u = (emitElems (s.modFlow n u fun st => { st with fibre := some { f with elems := f.elems.drop 16 } }) n u
      (f.elems.take 16), none) :=
  (scanStep_fibre hf).trans (if_pos h16)

theorem scanStep_lastElements {f : Fibre} (hf : (s.flow n u).fibre = some f) (h16 : f.elems.length < 16) (hr : f.ready = true)
    (he : f.stop ≤ f.next) :
    scanStep s n u = (emitElems (s.modFlow n u fun st => { st with fibre := none }) n u f.elems, none) := by
  have hm : fibreMore f = false := by simp [fibreMore, hr, he]
  simp only [scanStep_fibre hf, fibreStep, if_neg (Nat.not_le.mpr h16), hm, Bool.false_eq_true, if_false]

/-- Elements whose coordinates and refs fit 32 bits join their fibre. -/
theorem setElems_fitting {f : Fibre} {es : List (Nat × Nat)} (hb : beyond es = none) :
    setElems s n u f es = (s.modFlow n u fun st => { st with fibre := some (addElems f es) }, none) := by
  simp only [setElems, hb]

/-- A fibre of a dense level has its next coordinates at hand. -/
theorem scanStep_denseElements {f : Fibre} (hm : (s.unit n u).mode = 1) (hf : (s.flow n u).fibre = some f)
    (h16 : f.elems.length < 16) (hr : f.ready = true) (hn : f.next < f.stop)
    (hb : beyond ((upTo (min 16 (f.stop - max f.next f.skip))).map fun i =>
      (max f.next f.skip + i, f.stop * f.parent + max f.next f.skip + i)) = none) :
    scanStep s n u = (s.modFlow n u fun st => { st with fibre := some (addElems
      { f with next := max f.next f.skip + min 16 (f.stop - max f.next f.skip) }
      ((upTo (min 16 (f.stop - max f.next f.skip))).map fun i =>
        (max f.next f.skip + i, f.stop * f.parent + max f.next f.skip + i))) }, none) := by
  have hmore : fibreMore f = true := by simp [fibreMore, hr, hn]
  have hhand : fibreAtHand (s.unit n u) f = true := by simp [fibreAtHand, hr, hm]
  simp only [scanStep_fibre hf, fibreStep, if_neg (Nat.not_le.mpr h16), hmore, hhand, if_true, pullFibre, hm]
  exact setElems_fitting hb

theorem scanStep_nextParent {p : Nat} {ps : List Nat} (hf : (s.flow n u).fibre = none) (hp : (s.flow n u).parents = p :: ps) :
    scanStep s n u = ((turnPending s n u).modFlow n u fun st =>
      { st with parents := ps, fibre := some (newFibre (s.unit n u) p) }, none) := by
  simp only [scanStep, hf, hp]

/-- A scanner between fibres, with an input, looks at its parent stream. -/
theorem scanStep_input {p : Nat} (hf : (s.flow n u).fibre = none) (hp : (s.flow n u).parents = [])
    (hi : (s.unit n u).inp 0 = some p) : scanStep s n u = parentStep s n u := by
  simp only [scanStep, hf, hp, hi, Option.isSome_some, if_true]

theorem scanStep_parentData {p : Nat} {h : Token} (hf : (s.flow n u).fibre = none) (hp : (s.flow n u).parents = [])
    (hh : holdsTok s n u 0 p h) (hk : h.kind = .data) :
    scanStep s n u = ((tookTok s n u 0 p h).modFlow n u fun st =>
      { st with parents := (validLanes h).map fun i => (h.lane i).toNat }, none) := by
  rw [scanStep_input hf hp hh.1, parentStep, takeOne_holds hh (by simp [hk]) (by simp [hk])]
  simp only [hk]

theorem scanStep_parentStop {p : Nat} {h : Token} (hf : (s.flow n u).fibre = none) (hp : (s.flow n u).parents = [])
    (hh : holdsTok s n u 0 p h) (hk : h.kind = .stop) (hl : h.level < 6) :
    scanStep s n u = (emitStop ((tookTok s n u 0 p h).modFlow n u fun st => { st with pendS0 := false }) n u (h.level + 1), none) := by
  rw [scanStep_input hf hp hh.1, parentStep, takeOne_holds hh (by simp [hk]) (by simp [hk])]
  simp only [hk, if_neg (Nat.not_le.mpr hl)]

/-- The parent stream of a root scanner: its position, its STOP, and its end. -/
theorem scanStep_root (hf : (s.flow n u).fibre = none) (hp : (s.flow n u).parents = []) (hi : (s.unit n u).inp 0 = none) :
    scanStep s n u = (if (s.flow n u).root = 0 then
        (s.modFlow n u fun st => { st with root := st.root + 1 }).modFlow n u fun st => { st with parents := [0] }
      else if (s.flow n u).root = 1 then
        emitStop ((s.modFlow n u fun st => { st with root := st.root + 1 }).modFlow n u fun st => { st with pendS0 := false }) n u 0
      else endUnit (emitBoth (s.modFlow n u fun st => { st with root := st.root + 1 }) n u (bareTok .done)) n u, none) := by
  simp only [scanStep, hf, hp, hi, Option.isSome_none, Bool.false_eq_true, if_false, rootStep]
  split
  · rfl
  · split <;> rfl

/-! ### The refill of a fibre (R251, R386) -/

/-- The refill of a fibre that is not ready is its first one. -/
theorem exec_scannerRefill_first {t : State} {f : Fibre} (h : unitReady s n u [2, 5])
    (hf : ((flushUnit s n u).flow n u).fibre = some f) (hr : f.ready = false)
    (ha : firstRefill (flushUnit s n u) n u f = (t, none)) : exec (.scannerRefill n u) s = .next (stepped t n u) :=
  ready_scannerRefill h (by simp only [hf, hr, Bool.false_eq_true, if_false, ha])

section
variable {f : Fibre} {bs : List Byte} {t : State} (hp : f.pos = none)
  (hu : unitRead s n u ((s.unit n u).body 0x10 8 + 4 * f.parent) 8 = .ok (bs, t))
include hp hu

/-- A pos pair that runs backwards is clamped where the record says so. -/
theorem firstRefill_clamps (hb : field bs 4 4 < field bs 0 4) (hc : (s.unit n u).body 0x2C 4 % 2 = 1) :
    firstRefill s n u f = ((t.modUnit n u fun x => { x with clamp := true }).modFlow n u fun st =>
      { st with fibre := some (emptyFibre f) }, none) := by
  simp only [firstRefill, hp, readPos, hu, Got.andThen, if_pos hb, if_pos hc]

theorem firstRefill_pos (hb : field bs 0 4 ≤ field bs 4 4) :
    firstRefill s n u f = (t.modFlow n u fun st => { st with fibre := some { f with pos := some (field bs 0 4, field bs 4 4) } },
      none) := by
  simp only [firstRefill, hp, readPos, hu, Got.andThen, if_neg (Nat.not_lt.mpr hb)]

end

section
variable {f : Fibre} {p0 p1 : Nat} {t : State} (hp : f.pos = some (p0, p1))
include hp

/-- One line of elements comes into the ring. -/
theorem firstRefill_line {i : Nat} {cs : List Byte} {w : State} (hm : f.filled < min (p1 - p0) (ringCap (s.unit n u)))
    (hi : min (min (p1 - p0) (ringCap (s.unit n u)) - f.filled) (min (16 - (s.unit n u).st.wpos % 16)
      ((64 - ((s.unit n u).body 0x18 8 + 4 * (p0 + f.filled)) % 64) / 4)) = i)
    (hu : unitRead s n u ((s.unit n u).body 0x18 8 + 4 * (p0 + f.filled)) (4 * i) = .ok (cs, t))
    (hw : unitLeafWrite t n u (ringBase (s.unit n u) + 4 * (s.unit n u).st.wpos) cs = .ok ((), w)) :
    firstRefill s n u f = ((w.modFlow n u fun st => { st with wpos := ((s.unit n u).st.wpos + i) % ringCap (s.unit n u) }).modFlow n u
      fun st => { st with fibre := some { f with filled := f.filled + i } }, none) := by
  simp only [firstRefill, hp, if_pos hm, refillRing, hi, hu, Got.andThen, hw]

/-- The descriptor is written once the ring holds all that it takes, and the fibre is ready. -/
theorem firstRefill_descriptor {m : Nat} (hm : min (p1 - p0) (ringCap (s.unit n u)) = m) (hl : m ≤ f.filled)
    (hw : unitLeafWrite s n u ((s.unit n u).body 0x28 4 % 2 ^ 18)
      (bytesOf 4 p0 ++ bytesOf 4 p1 ++ bytesOf 4 m ++ bytesOf 4 (s.unit n u).st.wpos) = .ok ((), t)) :
    firstRefill s n u f = (t.modFlow n u fun st =>
      { st with fibre := some { f with ready := true, next := p0, stop := p1, have_ := m } }, none) := by
  simp only [firstRefill, hp, hm, if_neg (Nat.not_lt.mpr hl), hw, Got.andThen]

end

/-! ### `ISECT` and `UNION` (R253, R254) -/

/-- A side with an element at its head is not filled. -/
theorem sideEmpty_of_head {st : FlowState} {k : Nat} {a : Nat × Nat} {as : List (Nat × Nat)} (h : st.heads.getD k [] = a :: as) :
    sideEmpty st k = false := by
  simp only [sideEmpty, h, List.isEmpty_cons, Bool.false_and]

/-- A side with a mark at its head is not filled. -/
theorem sideEmpty_of_mark {st : FlowState} {k : Nat} {t : Token} (h : st.marks.getD k none = some t) : sideEmpty st k = false := by
  simp only [sideEmpty, h, Option.isNone_some, Bool.and_false]

theorem pairStep_heads (isUnion : Bool) {a b : Nat × Nat} {as bs : List (Nat × Nat)}
    (ha : (s.flow n u).heads.getD 0 [] = a :: as) (hb : (s.flow n u).heads.getD 1 [] = b :: bs) :
    pairStep isUnion s n u = elemStep s n u isUnion a b := by
  simp only [pairStep, sideEmpty_of_head ha, sideEmpty_of_head hb, Bool.false_and, Bool.false_eq_true, if_false, ha, hb]

/-- The elements of `ISECT` (Table 9): equal ones are emitted, and the side that lags is passed over. -/
theorem elemStep_isect (a b : Nat × Nat) :
    elemStep s n u false a b = (if a.1 = b.1 then emitPair (dropSide (dropSide s n u 0) n u 1) n u a.1 a.2 b.2
      else if a.1 < b.1 then sendSkip (dropSide s n u 0) n u 0 b.1 a.1 else sendSkip (dropSide s n u 1) n u 1 a.1 b.1, none) := by
  unfold elemStep
  split
  · rfl
  · split <;> rfl

/-- The elements of `UNION` (Table 9): equal ones are emitted together, and the lower one with the fill otherwise. -/
theorem elemStep_union (a b : Nat × Nat) :
    elemStep s n u true a b = (if a.1 = b.1 then emitPair (dropSide (dropSide s n u 0) n u 1) n u a.1 a.2 b.2
      else if a.1 < b.1 then emitPair (dropSide s n u 0) n u a.1 a.2 ((s.unit n u).body 0x14 4)
      else emitPair (dropSide s n u 1) n u b.1 ((s.unit n u).body 0x14 4) b.2, none) := by
  unfold elemStep
  split
  · rfl
  · split <;> rfl

/-- Two STOPs of one level at the heads close the fibre of both sides. -/
theorem pairStep_stops (isUnion : Bool) {a b : Token} (h0 : (s.flow n u).heads.getD 0 [] = [])
    (h1 : (s.flow n u).heads.getD 1 [] = []) (ha : (s.flow n u).marks.getD 0 none = some a)
    (hb : (s.flow n u).marks.getD 1 none = some b) (ka : a.kind = .stop) (kb : b.kind = .stop) (hl : a.level = b.level) :
    pairStep isUnion s n u = ((emitMark (flushPair s n u) n u (bareTok .stop a.level)).modFlow n u fun st =>
      { st with marks := [none, none], lastCrd := [none, none], skipped := [none, none], taken := st.taken.map (· + 1) }, none) := by
  have hne : ¬(a.kind ≠ b.kind ∨ a.level ≠ b.level) := by simp [ka, kb, hl]
  simp only [pairStep, sideEmpty_of_mark ha, sideEmpty_of_mark hb, Bool.false_and, Bool.false_eq_true, if_false, h0, h1, ha, hb,
    markStep, if_neg hne, if_pos ka]

/-! ### `REPEAT` (R255) -/

/-- What an input holds that may be taken is what its head shows, and nothing is wrong with it. -/
theorem unitHead_holds {i p : Nat} {h : Token} (hh : holdsTok s n u i p h) : unitHead s n u i = some h := by
  obtain ⟨hi, hd, -⟩ := hh
  simp [unitHead, hi, hd]

theorem inputBad_holds {i p : Nat} {h : Token} (hh : holdsTok s n u i p h) : inputBad s n u i h = none := by
  obtain ⟨hi, -, hb⟩ := hh
  simpa [inputBad, hi] using hb

section
variable {p : Nat} {h : Token} (hh : holdsTok s n u 0 p h) (ht : (s.flow n u).took = true)
include hh ht

theorem repeatStep_data (hk : h.kind = .data) :
    repeatStep s n u = (emitTok (tookTok s n u 0 p h) n u 0
      { h with lanes := (upTo 16).map fun i => if testBit h.deckle.toNat i then ((tookTok s n u 0 p h).flow n u).repl else 0 },
      none) := by
  simp [repeatStep, unitHead_holds hh, inputBad_holds hh, hk, ht, repeatData, takeTok_holds hh, Ran.next, replaced]

/-- The end of a level-0 fibre of the shape passes, and the next fibre takes an element of its own. -/
theorem repeatStep_stop (hk : h.kind = .stop) (hl : h.level = 0) :
    repeatStep s n u = ((emitTok (tookTok s n u 0 p h) n u 0 (bareTok .stop 0)).modFlow n u fun st => { st with took := false },
      none) := by
  simp [repeatStep, unitHead_holds hh, inputBad_holds hh, hk, hl, ht, passShape, takeTok_holds hh, Ran.next]

end

end Sys2Proof.Machine
end


section
/-!
O39, second part: one action of the units that work on values (R256 to R263), on conditions on the unit and on the heads of its inputs.
-/

namespace Sys2Proof.Machine

variable {s : State} {n : Nat} {u : FUnit}

/-! ### `REDUCE` (R256) -/

section
variable {p : Nat} {h : Token} (hh : holdsTok s n u 0 p h)
include hh

theorem reduceStep_data (hk : h.kind = .data) :
    reduceStep s n u = (reduceLanes n u h (countDraw (tookTok s n u 0 p h) n u), none) := by
  rw [reduceStep, takeOne_holds hh (by simp [hk]) (by simp [hk])]
  simp only [hk]

/-- The end of a fibre below the depth sends its sum and the STOP one level down. -/
theorem reduceStep_stop (hk : h.kind = .stop) (h1 : 1 ≤ h.level) (hl : h.level < (s.unit n u).body 0x12 1) :
    reduceStep s n u = (emitTok (flushPacked ((pushPacked (tookTok s n u 0 p h) n u 1 [((tookTok s n u 0 p h).flow n u).sum]).modFlow
      n u fun st => { st with sum := 0 }) n u 1) n u 0 (bareTok .stop (h.level - 1)), none) := by
  have h0 : ¬(h.level = 0 ∧ 2 ≤ (s.unit n u).body 0x12 1) := fun hz => by omega
  rw [reduceStep, takeOne_holds hh (by simp [hk]) (by simp [hk])]
  simp only [hk, if_neg (Nat.not_le.mpr hl), if_neg h0]

/-! ### `GATHER` (R259) -/

section
variable (ht : (s.flow n u).toks = []) (hc : testBit ((s.unit n u).body 0x1C 1) 1 = false)
include ht hc

theorem gatherStep_data (hk : h.kind = .data) :
    gatherStep s n u = (keepToks ((tookTok s n u 0 p h).modFlow n u fun st => { st with chain := st.chain - 1 }) n u [h], none) := by
  have ht : (s.unit n u).st.toks = [] := ht
  simp only [gatherStep, ht, hc, Bool.false_eq_true, false_and, if_false,
    takeOne_holds hh (show h.kind ≠ .done by simp [hk]) (by simp [hk]), hk]

theorem gatherStep_stop (hk : h.kind = .stop) :
    gatherStep s n u = (emitTok ((tookTok s n u 0 p h).modFlow n u fun st => { st with chain := st.chain - 1 }) n u 0
      (bareTok .stop h.level), none) := by
  have ht : (s.unit n u).st.toks = [] := ht
  simp only [gatherStep, ht, hc, Bool.false_eq_true, false_and, if_false,
    takeOne_holds hh (show h.kind ≠ .done by simp [hk]) (by simp [hk]), hk]

end

/-! ### `FILTER` (R261) -/

section
variable (hp : testBit ((s.unit n u).body 0x10 1) 3 = true) (h2 : (s.unit n u).inp 2 = none) (h3 : (s.unit n u).inp 3 = none)
include hp h2 h3

omit hh in
/-- A filter against a constant, with one input, reads that one. -/
theorem filterInputs_one : filterInputs (s.unit n u) = [(0, some 0)] := by
  simp [filterInputs, hp, h2, h3]

theorem filterStep_data (hk : h.kind = .data) :
    filterStep s n u = (if testBit (((tookTok s n u 0 p h).unit n u).body 0x10 1) 6 = true ∧
        keptLanes ((tookTok s n u 0 p h).unit n u) [h] = [] then tookTok s n u 0 p h
      else emitTok (tookTok s n u 0 p h) n u 0 (keepLanes (testBit (((tookTok s n u 0 p h).unit n u).body 0x10 1) 5)
        (keptLanes ((tookTok s n u 0 p h).unit n u) [h]) h), none) := by
  rw [filterStep, filterInputs_one hp h2 h3]
  simp only [List.map_cons, List.map_nil, takeStep_one hh (show h.kind ≠ .done by simp [hk]) (by simp [hk]), List.headD_cons, hk]
  split <;> rfl

theorem filterStep_stop (hk : h.kind = .stop) :
    filterStep s n u = (emitTok (tookTok s n u 0 p h) n u 0 (bareTok .stop h.level), none) := by
  rw [filterStep, filterInputs_one hp h2 h3]
  simp only [List.map_cons, List.map_nil, takeStep_one hh (show h.kind ≠ .done by simp [hk]) (by simp [hk]), List.headD_cons, hk]
  rfl

end

/-! ### `COALESCE` (R262) -/

section
variable (h1 : (s.unit n u).inp 1 = none) (h2 : (s.unit n u).inp 2 = none)
include h1 h2

/-- A coalescer with one input reads that one. -/
theorem coalesceInputs_one : coalesceInputs (s.unit n u) = [0] := by
  obtain ⟨hi, -, -⟩ := hh
  simp [coalesceInputs, upTo, hi, h1, h2]

theorem coalesceStep_data (hk : h.kind = .data) :
    coalesceStep s n u = (((stepElems [0] [h]).foldl (fun t e => pushPacked t n u 3 e) (tookTok s n u 0 p h)).modFlow n u fun st =>
      { st with packing := if st.packed = [] then 0 else
        if (((stepElems [0] [h]).foldl (fun t e => pushPacked t n u 3 e) (tookTok s n u 0 p h)).unit n u).outq.length =
          ((tookTok s n u 0 p h).unit n u).outq.length then
        (if ((tookTok s n u 0 p h).flow n u).packed = [] then 0 else ((tookTok s n u 0 p h).flow n u).packing) + 1 else 1 },
      none) := by
  rw [coalesceStep, coalesceInputs_one hh h1 h2, takeStep_one hh (by simp [hk]) (by simp [hk])]
  simp only [List.headD_cons, hk]

theorem coalesceStep_stop (hk : h.kind = .stop) :
    coalesceStep s n u = (emitTok (flushPacked (tookTok s n u 0 p h) n u 3) n u 0 (bareTok .stop h.level), none) := by
  rw [coalesceStep, coalesceInputs_one hh h1 h2, takeStep_one hh (by simp [hk]) (by simp [hk])]
  simp only [List.headD_cons, hk, List.foldl_cons, List.foldl_nil]

end

/-! ### The input of `AGEN` (R263) -/

theorem agenTake_data (ht : (s.flow n u).toks = []) (hk : h.kind = .data) (hm : agenMatches (agenExpect (s.unit n u)) h = true) :
    agenTake s n u = (keepToks (tookTok s n u 0 p h) n u [h], none) := by
  have ht : (s.unit n u).st.toks = [] := ht
  simp only [agenTake, ht, takeOne_holds hh (show h.kind ≠ .done by simp [hk]) (by simp [hk]), hm, Bool.not_true, Bool.false_eq_true,
    if_false, hk]

end

/-! ### Units of two inputs whose tokens agree (R234) -/

section
variable {p q : Nat} {a b : Token} (hpq : p ≠ q) (ha : holdsTok s n u 0 p a) (hb : holdsTok s n u 1 q b)
  (ka : a.kind = .data) (kb : b.kind = .data) (hl : a.level = b.level) (hd : a.deckle = b.deckle)
  (ht : (s.flow n u).toks = [])
include hpq ha hb ka kb hl hd

/-- A step of two data tokens that agree takes both. -/
theorem takeStep_dataPair (k : State → List Token → Ran) :
    takeStep s n u [0, 1] k = k (tookTok (tookTok s n u 0 p a) n u 1 q b) [a, b] :=
  takeStep_two hpq ha hb (by simp [ka]) (by simp [ka]) (kb.trans ka.symm) hl.symm hd.symm

include ht

theorem spaccStep_data (hn : (s.flow n u).drain = none) :
    spaccStep s n u = (keepToks (countDraw (tookTok (tookTok s n u 0 p a) n u 1 q b) n u) n u [a, b], none) := by
  simp only [spaccStep, hn, ht, takeStep_dataPair hpq ha hb ka kb hl hd, List.headD_cons, ka]

theorem lwriteStep_data (hg : (s.flow n u).begun = true) :
    lwriteStep s n u = (keepToks (tookTok (tookTok s n u 0 p a) n u 1 q b) n u [a, b], none) := by
  have hi : lwriteInputs (s.unit n u) = [0, 1] := by
    obtain ⟨i0, -, -⟩ := ha
    obtain ⟨i1, -, -⟩ := hb
    simp [lwriteInputs, i0, i1]
  have hg : (s.unit n u).st.begun = true := hg
  have ht : (s.unit n u).st.toks = [] := ht
  simp only [lwriteStep, hg, Bool.not_true, Bool.false_eq_true, if_false, ht, hi, takeStep_dataPair hpq ha hb ka kb hl hd]

theorem scatterStep_data :
    scatterStep s n u = (keepToks (tookTok (tookTok s n u 0 p a) n u 1 q b) n u [a, b], none) := by
  simp only [scatterStep, ht, takeStep_dataPair hpq ha hb ka kb hl hd, List.headD_cons, ka]

end

/-- A drain past the last coordinate flushes and sends its STOP (R257). -/
theorem spaccStep_drained {c : Nat} (hd : (s.flow n u).drain = some c) (hc : (s.unit n u).body 0x18 4 ≤ c) :
    spaccStep s n u = ((emitTok (emitTok (flushPacked s n u 2) n u 0 (bareTok .stop (s.unit n u).st.level)) n u 1
      (bareTok .stop (s.unit n u).st.level)).modFlow n u fun st => { st with drain := none }, none) := by
  simp only [spaccStep, hd, drainStep, if_pos hc]

/-- An `LWRITE` that writes no pos begins at once (R258). -/
theorem lwriteStep_begins (hg : (s.flow n u).begun = false) (hw : testBit ((s.unit n u).body 0x28 4) 0 = false) :
    lwriteStep s n u = (s.modFlow n u fun st => { st with begun := true }, none) := by
  have hg : (s.unit n u).st.begun = false := hg
  simp only [lwriteStep, hg, Bool.not_false, if_true, hw, Bool.false_eq_true, if_false, Got.andThen]

/-! ### The generated stream of `AGEN` (R263) -/

theorem agenEmit_stop {k : Nat} (hd : (s.flow n u).drain = some k) :
    agenEmit s n u = ((emitTok s n u 0 (bareTok .stop k)).modFlow n u fun st => { st with drain := none }, none) := by
  have hd : (s.unit n u).st.drain = some k := hd
  simp only [agenEmit, hd]

theorem agenEmit_done (hd : (s.flow n u).drain = none) (hc : (s.flow n u).closed = true) :
    agenEmit s n u = (endUnit (emitTok s n u 0 (bareTok .done)) n u, none) := by
  have hd : (s.unit n u).st.drain = none := hd
  have hc : (s.unit n u).st.closed = true := hc
  simp only [agenEmit, hd, hc, if_true]

theorem agenEmit_refs (hd : (s.flow n u).drain = none) (hc : (s.flow n u).closed = false)
    (hm : (s.unit n u).body 0x18 1 % 4 = 2) :
    agenEmit s n u = (agenAdvance (emitTok s n u 0 (packTok ((upTo (agenLanes (s.unit n u))).map fun j =>
      (wordOfInt (agenOffset (s.unit n u) j)).setWidth 32))) n u, none) := by
  have hd : (s.unit n u).st.drain = none := hd
  have hc : (s.unit n u).st.closed = false := hc
  simp only [agenEmit, hd, hc, Bool.false_eq_true, if_false, if_pos hm]

/-- An `AGEN` that stores takes a token; any other makes one. -/
theorem exec_agenStep_take {t : State} (h : unitReady s n u [0x14]) (hm : ((flushUnit s n u).unit n u).body 0x18 1 % 4 = 1)
    (ha : agenTake (flushUnit s n u) n u = (t, none)) : exec (.agenStep n u) s = .next (stepped t n u) :=
  ready_agenStep h ((if_pos hm).trans ha)

theorem exec_agenStep_emit {t : State} (h : unitReady s n u [0x14]) (hm : ((flushUnit s n u).unit n u).body 0x18 1 % 4 ≠ 1)
    (ha : agenEmit (flushUnit s n u) n u = (t, none)) : exec (.agenStep n u) s = .next (stepped t n u) :=
  ready_agenStep h ((if_neg hm).trans ha)

end Sys2Proof.Machine
end


section
/-!
O39, third part: a step of the vector pipeline (R206), a SKIP that a scanner receives (R252), and the settling of O39.
-/

namespace Sys2Proof.Machine

variable {s : State} {n : Nat} {u : FUnit}

/-! ### The vector pipeline (R206) -/

/-- A pipeline that can act goes on with what its step made. -/
theorem exec_vpStep_acts {t : State} (h : vpActs s n t) : exec (.vpStep n) s = .next (flushVp t n) := by
  obtain ⟨hn, hv, hr, ho, he, ha⟩ := h
  simp only [exec, execVpStep, if_neg (Nat.not_le.mpr hn), hv, hr, ho, he, ha, Bool.not_true, Bool.not_false, Bool.false_eq_true, if_false,
    List.isEmpty_nil, Bool.and_self, if_true, settleVp]

section
variable {p : Nat} {h : Token} (hh : headOf s n p = some h) (hk : h.kind = .data) (hl : h.level = 0) (ht : h.late = false)
  (hs : rtSkip ((s.leaf n).routes.getD p 0) = false)

include hh in
/-- One port that holds a token offers that token. -/
theorem feedTokens_port : feedTokens s n [(0, .port p)] = .ok [h] := by
  simp only [feedTokens, feedToken, hh, List.any_cons, List.any_nil, Bool.or_self, Bool.false_eq_true, if_false, List.mapM_cons,
    List.mapM_nil]
  rfl

include hk hl ht hs in
/-- Nothing is wrong with a data token on a port that carries data. -/
theorem vpError_data : vpError s n [(0, .port p)] [h] = none := by
  have hm : vpMisused s n (.port p) h = false := by
    simp only [vpMisused, hk, hl, hs]
    simp
  have he : vpEarly s n ((0, .port p), h) = false := by
    simp only [vpEarly, ht, hk]
    rfl
  have hd : (h.kind == TokKind.empty) = false := by rw [hk]; rfl
  simp only [vpError, List.zip_cons_cons, List.zip_nil_left, List.find?_cons, List.find?_nil, hm, he, List.any_cons, List.any_nil, hd,
    Bool.or_self, Bool.false_and, bne, Bool.not_false, List.filter_cons_of_pos, List.filter_nil, Option.map_none]

include hh hk hl ht hs in
/-- A data token goes through the stages. -/
theorem vpAct_data {w : State} (hf : vpFeeds (s.vp n).record = [(0, .port p)])
    (hw : (dropHead s n p).modVp n (fun x =>
      vpMark (vpPol (s.vp n).record == 0) { x with taken := x.taken + 1 } ((0, .port p), h)) = w) :
    vpAct s n = (w.modVp n fun _ =>
      { (vpData w n (w.vp n) (0xFFFF &&& h.deckle).toNat (vpPayloads [(0, .port p)] [h])).1 with
        outq := (vpData w n (w.vp n) (0xFFFF &&& h.deckle).toNat (vpPayloads [(0, .port p)] [h])).1.outq ++
          (vpData w n (w.vp n) (0xFFFF &&& h.deckle).toNat (vpPayloads [(0, .port p)] [h])).2 }, none) := by
  have hd : (TokKind.data == TokKind.empty) = false := rfl
  simp only [vpAct, hf, feedTokens_port hh, vpError_data hk hl ht hs, List.foldl_cons, List.foldl_nil, takeFeed,
    List.zip_cons_cons, List.zip_nil_left, hw, List.any_cons, List.any_nil, hd, Bool.or_self, Bool.false_and, Bool.false_eq_true,
    List.map_cons, List.map_nil, reduceCtorEq, if_false, List.headD_cons, hk]

end

/-! ### A SKIP (R252) -/

/-- A SKIP at a scanner's SKIP input is taken, and one of the epoch of its fibre moves the fibre on. -/
theorem exec_skipReceive_skip {p : Nat} {k : Token} (hn : n < Config.leafCount) (hr : unitRuns s n u = true)
    (hm : isScan (s.unit n u).mode = true) (hp : (s.unit n u).skp 0 = some p) (hh : headOf s n p = some k) (hk : k.kind = .skip)
    (hs : rtSkip ((s.leaf n).routes.getD p 0) = true) :
    exec (.skipReceive n u) s = .next ((dropHead s n p).modFlow n u fun st =>
      { st with fibre := if k.epoch = st.stops % 32 then st.fibre.map (skipFibre (k.lane 0).toNat) else st.fibre }) := by
  have hg : ¬(k.kind ≠ .skip ∨ (!rtSkip ((s.leaf n).routes.getD p 0)) = true) := by
    simp only [hk, hs]
    decide
  simp only [exec, execSkipReceive, if_neg (Nat.not_le.mpr hn), hr, hm, Bool.not_true, Bool.or_self, Bool.false_eq_true, if_false, hp,
    Option.bind_some, hh, if_neg hg]

/-! ### The settling of O39 -/

/-- A step of a pipeline that takes a data token from its one port (R206). -/
theorem exec_vpStep_data {p : Nat} {h : Token} (hn : n < Config.leafCount) (hr : vpRuns s n = true)
    (hrun : ((flushVp s n).vp n).run = true) (ho : ((flushVp s n).vp n).outq = []) (he : ((flushVp s n).vp n).ending = false)
    (hf : vpFeeds ((flushVp s n).vp n).record = [(0, .port p)]) (hh : headOf (flushVp s n) n p = some h) (hk : h.kind = .data)
    (hl : h.level = 0) (ht : h.late = false) (hs : rtSkip (((flushVp s n).leaf n).routes.getD p 0) = false) {w : State}
    (hw : (dropHead (flushVp s n) n p).modVp n (fun x =>
      vpMark (vpPol ((flushVp s n).vp n).record == 0) { x with taken := x.taken + 1 } ((0, .port p), h)) = w) :
    exec (.vpStep n) s = .next (flushVp (w.modVp n fun _ =>
      { (vpData w n (w.vp n) (0xFFFF &&& h.deckle).toNat (vpPayloads [(0, .port p)] [h])).1 with
        outq := (vpData w n (w.vp n) (0xFFFF &&& h.deckle).toNat (vpPayloads [(0, .port p)] [h])).1.outq ++
          (vpData w n (w.vp n) (0xFFFF &&& h.deckle).toNat (vpPayloads [(0, .port p)] [h])).2 }) n) :=
  exec_vpStep_acts ⟨hn, hr, hrun, ho, he, vpAct_data hh hk hl ht hs hf hw⟩

/-- Settles O39: each event goes on with what one action of its unit makes. -/
theorem unitsWork : Obligations.UnitsWork := by
  intro s n u
  refine ⟨?scanner, ?refill, ?heads, ?stops, ?oneInput, ?twoInputs, ?drained, ?begins, ?generated, ?pipeline, ?skip, ?acts⟩
  case scanner =>
    exact fun h => ⟨
      fun _ hf h16 => ready_scannerStep h (scanStep_fullToken hf h16),
      fun _ hf h16 hr he => ready_scannerStep h (scanStep_lastElements hf h16 hr he),
      fun _ hm hf h16 hr hn hb => ready_scannerStep h (scanStep_denseElements hm hf h16 hr hn hb),
      fun _ _ hf hp => ready_scannerStep h (scanStep_nextParent hf hp),
      fun _ _ hf hp hh => ⟨fun hk => ready_scannerStep h (scanStep_parentData hf hp hh hk),
        fun hk hl => ready_scannerStep h (scanStep_parentStop hf hp hh hk hl)⟩,
      fun hf hp hi => ready_scannerStep h (scanStep_root hf hp hi)⟩
  case refill =>
    exact fun h _ hf hr => ⟨
      fun _ _ hp hu => ⟨fun hb hc => exec_scannerRefill_first h hf hr (firstRefill_clamps hp hu hb hc),
        fun hb => exec_scannerRefill_first h hf hr (firstRefill_pos hp hu hb)⟩,
      fun _ _ hp => ⟨fun _ _ _ hm hu hw => exec_scannerRefill_first h hf hr (firstRefill_line hp hm rfl hu hw),
        fun _ hl hw => exec_scannerRefill_first h hf hr (firstRefill_descriptor hp rfl hl hw)⟩⟩
  case heads =>
    exact fun _ _ _ _ ha hb => ⟨fun h => ready_isectStep h ((pairStep_heads false ha hb).trans (elemStep_isect ..)),
      fun h => ready_unionStep h ((pairStep_heads true ha hb).trans (elemStep_union ..))⟩
  case stops =>
    exact fun _ _ h0 h1 ha hb ka kb hl => ⟨fun h => ready_isectStep h (pairStep_stops false h0 h1 ha hb ka kb hl),
      fun h => ready_unionStep h (pairStep_stops true h0 h1 ha hb ka kb hl)⟩
  case oneInput =>
    exact fun _ _ hh => ⟨
      fun h ht => ⟨fun hk => ready_repeatStep h (repeatStep_data hh ht hk),
        fun hk hl => ready_repeatStep h (repeatStep_stop hh ht hk hl)⟩,
      fun h => ⟨fun hk => ready_reduceStep h (reduceStep_data hh hk),
        fun hk h1 hl => ready_reduceStep h (reduceStep_stop hh hk h1 hl)⟩,
      fun h ht hc => ⟨fun hk => ready_gatherStep h (gatherStep_data hh ht hc hk),
        fun hk => ready_gatherStep h (gatherStep_stop hh ht hc hk)⟩,
      fun h hp h2 h3 => ⟨fun hk => ready_filterStep h (filterStep_data hh hp h2 h3 hk),
        fun hk => ready_filterStep h (filterStep_stop hh hp h2 h3 hk)⟩,
      fun h h1 h2 => ⟨fun hk => ready_coalesceStep h (coalesceStep_data hh h1 h2 hk),
        fun hk => ready_coalesceStep h (coalesceStep_stop hh h1 h2 hk)⟩,
      fun h hm ht hk he => exec_agenStep_take h hm (agenTake_data hh ht hk he)⟩
  case twoInputs =>
    exact fun _ _ _ _ hpq ha hb ka kb hl hd ht => ⟨
      fun h hn => ready_spaccStep h (spaccStep_data hpq ha hb ka kb hl hd ht hn),
      fun h hg => ready_lwriteStep h (lwriteStep_data hpq ha hb ka kb hl hd ht hg),
      fun h => ready_scatterStep h (scatterStep_data hpq ha hb ka kb hl hd ht)⟩
  case drained => exact fun _ h hd hc => ready_spaccStep h (spaccStep_drained hd hc)
  case begins => exact fun h hg hw => ready_lwriteStep h (lwriteStep_begins hg hw)
  case generated =>
    exact fun h hm => ⟨fun _ hd => exec_agenStep_emit h hm (agenEmit_stop hd),
      fun hd hc => exec_agenStep_emit h hm (agenEmit_done hd hc),
      fun hd hc h2 => exec_agenStep_emit h hm (agenEmit_refs hd hc h2)⟩
  case pipeline =>
    exact fun _ _ hn hr hrun ho he hf hh hk hl ht hs => exec_vpStep_data hn hr hrun ho he hf hh hk hl ht hs rfl
  case skip => exact fun _ _ hn hr hm hp hh hk hs => exec_skipReceive_skip hn hr hm hp hh hk hs
  case acts =>
    exact fun _ => ⟨fun h => ready_scannerStep h.1 h.2, fun h => ready_scannerRefill h.1 h.2, fun h => ready_isectStep h.1 h.2,
      fun h => ready_unionStep h.1 h.2, fun h => ready_repeatStep h.1 h.2, fun h => ready_reduceStep h.1 h.2,
      fun h => ready_spaccStep h.1 h.2, fun h => ready_lwriteStep h.1 h.2, fun h => ready_gatherStep h.1 h.2,
      fun h => ready_scatterStep h.1 h.2, fun h => ready_filterStep h.1 h.2, fun h => ready_coalesceStep h.1 h.2,
      fun h => ready_agenStep h.1 h.2, exec_vpStep_acts⟩

end Sys2Proof.Machine
end
